-- ==== Sys2Proof/Word.lean ====
section
/-! DEFINITION. Word types of the Onazeta 880 model and their plainest arithmetic. -/

namespace Sys2Proof

/-- A byte of memory. -/
abbrev Byte := BitVec 8

/-- A 32-bit register or memory word (R60). -/
abbrev Word := BitVec 32

/-- A 64-bit value: a W entry, a register pair, a program counter or an address (R47, R108, R135). -/
abbrev DWord := BitVec 64

/-- A set of lanes of one group: bit `l` stands for lane `l` (at most 64 lanes, R16). -/
abbrev Lanes := BitVec 64

/-- Whether lane `l` is in the set `m`. -/
def Lanes.has (m : Lanes) (l : Nat) : Bool := m.getLsbD l

/-- The lanes of `m` among the first `n`, in ascending order. -/
def Lanes.list (m : Lanes) (n : Nat) : List Nat := (List.range n).filter fun l => m.getLsbD l

/-- The set holding just lane `l`. -/
def Lanes.single (l : Nat) : Lanes := (1#64) <<< l

/-- The set of the first `n` lanes. -/
def Lanes.below (n : Nat) : Lanes := BitVec.ofNat 64 (2 ^ n - 1)

end Sys2Proof
end

