-- ==== Sys2Proof/Syntax.lean ====
section
/-! DEFINITION. The steps of the machine as data: one constructor of `Instr` per row of spec/opcode_table.json. The first
153 are the instructions in their full or 8-byte form (R42 to R44, R50, R59), the next 81 the events and commands that no
group issues, and the last 125 the compact forms (R51, R52). -/

namespace Sys2Proof

/-- The eight operand levels of R45. -/
inductive Level where
  | w | n | d | s | t | k | i | q
  deriving DecidableEq, Repr

/-- An operand field: a level and an 8-bit index (R45). -/
structure Opnd where
  lvl : Level
  idx : BitVec 8
  deriving DecidableEq, Repr

/-- The null operand 0x600: the I level with value 0 (R48). -/
def Opnd.null : Opnd := ⟨.i, 0⟩

/-- The four levels that a compact operand reaches (R51). -/
inductive CLevel where
  | w | n | d | s
  deriving DecidableEq, Repr

/-- A compact operand: level in [4:3], index in [2:0] (R51). -/
structure COpnd where
  lvl : CLevel
  idx : BitVec 3
  deriving DecidableEq, Repr

/-- Control fields and guard of a full word (R42): stall distance, wait mask, set flag, drain marker, yield hint, guard. -/
structure Ctl where
  stall : BitVec 4
  wait : BitVec 12
  set : BitVec 4
  drain : Bool
  yield : Bool
  gneg : Bool
  gpred : BitVec 3
  deriving DecidableEq, Repr

/-- Control fields of a compact word (R51). -/
structure CCtl where
  stall : BitVec 4
  set : BitVec 4
  yield : Bool
  deriving DecidableEq, Repr

/-- The type codes 0 to 17 of R55. -/
inductive Ty where
  | z32 | s32 | z64 | s64 | z16 | s16 | z8 | s8 | z4 | s4 | f32 | f16 | bf16 | e4m3 | e5m2 | e3m2 | e2m3 | e2m1
  deriving DecidableEq, Repr

/-- Rounding modes (R54, R65). -/
inductive Rnd where
  | rn | rz | ru | rd
  deriving DecidableEq, Repr

/-- Comparisons (R54). -/
inductive Cmp where
  | eq | ne | lt | le | gt | ge | un | ord
  deriving DecidableEq, Repr

/-- Width of MOVI's result (R130). -/
inductive MoviTy where
  | z32 | z64 | s64
  deriving DecidableEq, Repr

/-- Branch hints (R144). -/
inductive Hint where
  | none | likely | unlikely
  deriving DecidableEq, Repr

/-- SHFL's source-lane rule (R180). -/
inductive ShflMode where
  | idx | up | down | xor
  deriving DecidableEq, Repr

/-- VOTE's result (R181). -/
inductive VoteMode where
  | every | some | same | mask | count | first
  deriving DecidableEq, Repr

/-- PSET's combination with source C (R183). -/
inductive PsetComb where
  | plain | and | or
  deriving DecidableEq, Repr

/-- Memory spaces (R59, R204). -/
inductive Space where
  | glob | pool | core | lane
  deriving DecidableEq, Repr

/-- Scopes of FENCE and ATOM (R59, R255). -/
inductive Scope where
  | group | team | cluster | device | system
  deriving DecidableEq, Repr

/-- The halves of a FENCE (R255). -/
inductive FenceHalf where
  | full | rel | acq
  deriving DecidableEq, Repr

/-- Atomic operations (R59, R254). -/
inductive AtomOp where
  | add | min | max | and | or | xor | exch | cas
  deriving DecidableEq, Repr

/-- Completion kinds of COPY (R225). -/
inductive CopyKind where
  | push | count | flag
  deriving DecidableEq, Repr

/-- Collective operations (R359, R363). -/
inductive CollOp where
  | allreduce | allgather | reducescatter | broadcast
  deriving DecidableEq, Repr

/-- Element formats of a collective (R363). -/
inductive CollFmt where
  | f32 | bf16 | f16 | s32 | s64
  deriving DecidableEq, Repr

/-- Reductions of a collective (R363). -/
inductive CollRed where
  | sum | min | max
  deriving DecidableEq, Repr

/-- A Tether frame (R368). The fields carry the names of its header; the payload is in 4-byte units. -/
structure Frame where
  kind : BitVec 8
  ver : BitVec 2
  src : BitVec 10
  dst : BitVec 10
  window : BitVec 12
  cgroup : BitVec 12
  seq : BitVec 32
  srank : BitVec 10
  count : BitVec 11
  fmt : BitVec 3
  red : BitVec 2
  op : BitVec 2
  level : BitVec 8
  elem : BitVec 32
  nelem : BitVec 16
  extra : BitVec 64
  payload : List Word
  deriving DecidableEq, Repr

/-- A transaction-layer request or completion of a PUT, GET or RATOM (R366): the initiating device, a tag that names the
transfer there, the remote window, the byte offset in it, the bytes carried or asked for, the transfer's whole length, the words or
operands carried, and, in a completion, whether the request succeeded. -/
structure Xact where
  src : BitVec 10
  tag : Nat
  window : BitVec 12
  off : Nat
  len : Nat
  total : Nat
  words : List Word
  ok : Bool
  deriving DecidableEq, Repr

/-- Where a soft error strikes (R248): a 128-byte line of device memory, a word of a core's scratchpad, or a word of a column's slice
that the pool uses. -/
inductive ErrorSite where
  | dramLine (line : Nat)
  | scratchWord (core word : Nat)
  | poolWord (column word : Nat)
  deriving DecidableEq, Repr

/-- What the analogue limiter does to a rail's compute dies (R383): which of the eight they are, and by how many 1/33 ns every clk of their
cores is longer. -/
structure RailStretch where
  dies : BitVec 8
  stretch : Nat
  deriving DecidableEq, Repr

/-- What a droop detector does to its core's clock (R384): by how many 1/33 ns one clk is longer. -/
structure CoreStretch where
  core : Nat
  stretch : Nat
  deriving DecidableEq, Repr

/-- What a tracking loop does to its core's clock (R384): the frequency in MHz. -/
structure CoreRate where
  core : Nat
  mhz : Nat
  deriving DecidableEq, Repr

/-- A writable host-visible register of R6: a host window descriptor word, or a mailbox word. -/
inductive HostReg where
  | windowWord (win word : Nat)
  | mailboxWord (offset : Nat)
  deriving DecidableEq, Repr

/-- The steps of the machine: instructions, compact instructions, and events. -/
inductive Instr where
  | nop (c : Ctl)
  | waitf (c : Ctl)
  | sleep (c : Ctl) (a : Opnd)
  | yield (c : Ctl)
  | mov (c : Ctl) (ty : Ty) (d a : Opnd)
  | movw (c : Ctl) (d a : Opnd)
  | movi (c : Ctl) (m : MoviTy) (d : Opnd) (imm : BitVec 32)
  | sel (c : Ctl) (ty : Ty) (d a b x : Opnd)
  | nrel (c : Ctl) (d : Opnd)
  | strand (c : Ctl) (entry : BitVec 16)
  | park (c : Ctl)
  | bra (c : Ctl) (target : BitVec 24)
  | brc (c : Ctl) (hint : Hint) (target : BitVec 24) (join : BitVec 20)
  | brx (c : Ctl) (hint : Hint) (a b : Opnd)
  | call (c : Ctl) (target : BitVec 24)
  | callx (c : Ctl) (a : Opnd)
  | ret (c : Ctl)
  | join (c : Ctl)
  | exit (c : Ctl)
  | iadd (c : Ctl) (ty : Ty) (sat : Bool) (d a b : Opnd)
  | isub (c : Ctl) (ty : Ty) (sat : Bool) (d a b : Opnd)
  | iadd64 (c : Ctl) (ty : Ty) (sat : Bool) (d a b : Opnd)
  | iaddImm (c : Ctl) (ty : Ty) (sat : Bool) (d a : Opnd) (imm : BitVec 32)
  | isubImm (c : Ctl) (ty : Ty) (sat : Bool) (d a : Opnd) (imm : BitVec 32)
  | iaddc (c : Ctl) (d a b x : Opnd)
  | imul (c : Ctl) (ty : Ty) (d a b : Opnd)
  | imulh (c : Ctl) (ty : Ty) (d a b : Opnd)
  | imulImm (c : Ctl) (ty : Ty) (d a : Opnd) (imm : BitVec 32)
  | imad (c : Ctl) (ty : Ty) (d a b x : Opnd)
  | imadw (c : Ctl) (ty : Ty) (d a b x : Opnd)
  | idiv (c : Ctl) (ty : Ty) (d a b : Opnd)
  | irem (c : Ctl) (ty : Ty) (d a b : Opnd)
  | imin (c : Ctl) (ty : Ty) (d a b : Opnd)
  | imax (c : Ctl) (ty : Ty) (d a b : Opnd)
  | iabs (c : Ctl) (sat : Bool) (d a : Opnd)
  | ineg (c : Ctl) (sat : Bool) (d a : Opnd)
  | lea (c : Ctl) (ty : Ty) (sb : Bool) (d a b x : Opnd)
  | and (c : Ctl) (ty : Ty) (d a b : Opnd)
  | or (c : Ctl) (ty : Ty) (d a b : Opnd)
  | xor (c : Ctl) (ty : Ty) (d a b : Opnd)
  | andn (c : Ctl) (ty : Ty) (d a b : Opnd)
  | not (c : Ctl) (ty : Ty) (d a : Opnd)
  | andImm (c : Ctl) (d a : Opnd) (imm : BitVec 32)
  | orImm (c : Ctl) (d a : Opnd) (imm : BitVec 32)
  | xorImm (c : Ctl) (d a : Opnd) (imm : BitVec 32)
  | andnImm (c : Ctl) (d a : Opnd) (imm : BitVec 32)
  | shl (c : Ctl) (ty : Ty) (d a b : Opnd)
  | shr (c : Ctl) (ty : Ty) (d a b : Opnd)
  | sar (c : Ctl) (ty : Ty) (d a b : Opnd)
  | rot (c : Ctl) (ty : Ty) (d a b : Opnd)
  | shf (c : Ctl) (left : Bool) (d a b x : Opnd)
  | bfe (c : Ctl) (ty : Ty) (d a b : Opnd)
  | bfi (c : Ctl) (d a b x : Opnd)
  | popc (c : Ctl) (ty : Ty) (d a : Opnd)
  | clz (c : Ctl) (ty : Ty) (d a : Opnd)
  | brev (c : Ctl) (ty : Ty) (d a : Opnd)
  | prmb (c : Ctl) (d a b x : Opnd)
  | iset (c : Ctl) (cmp : Cmp) (ty : Ty) (d a b : Opnd)
  | fadd (c : Ctl) (rnd : Rnd) (ftz : Bool) (d a b : Opnd)
  | fsub (c : Ctl) (rnd : Rnd) (ftz : Bool) (d a b : Opnd)
  | fmul (c : Ctl) (rnd : Rnd) (ftz : Bool) (d a b : Opnd)
  | fmin (c : Ctl) (ftz : Bool) (d a b : Opnd)
  | fmax (c : Ctl) (ftz : Bool) (d a b : Opnd)
  | faddImm (c : Ctl) (rnd : Rnd) (ftz : Bool) (d a : Opnd) (imm : BitVec 32)
  | fsubImm (c : Ctl) (rnd : Rnd) (ftz : Bool) (d a : Opnd) (imm : BitVec 32)
  | fmulImm (c : Ctl) (rnd : Rnd) (ftz : Bool) (d a : Opnd) (imm : BitVec 32)
  | fminImm (c : Ctl) (ftz : Bool) (d a : Opnd) (imm : BitVec 32)
  | fmaxImm (c : Ctl) (ftz : Bool) (d a : Opnd) (imm : BitVec 32)
  | ffma (c : Ctl) (rnd : Rnd) (ftz : Bool) (d a b x : Opnd)
  | fsetCompare (c : Ctl) (cmp : Cmp) (ftz : Bool) (d a b : Opnd)
  | frcp (c : Ctl) (ftz : Bool) (d a : Opnd)
  | frsq (c : Ctl) (ftz : Bool) (d a : Opnd)
  | fsqrt (c : Ctl) (ftz : Bool) (d a : Opnd)
  | fex2 (c : Ctl) (ftz : Bool) (d a : Opnd)
  | flg2 (c : Ctl) (ftz : Bool) (d a : Opnd)
  | fsin (c : Ctl) (ftz : Bool) (d a : Opnd)
  | fcos (c : Ctl) (ftz : Bool) (d a : Opnd)
  | hfma2 (c : Ctl) (ty : Ty) (sw bc nc : Bool) (rnd : Rnd) (ftz : Bool) (d a b x : Opnd)
  | f2i (c : Ctl) (ty sty : Ty) (rnd : Rnd) (ftz : Bool) (d a : Opnd)
  | i2f (c : Ctl) (ty sty : Ty) (rnd : Rnd) (ftz : Bool) (d a : Opnd)
  | cvt (c : Ctl) (ty sty : Ty) (rnd : Rnd) (ftz : Bool) (d a : Opnd)
  | frnd (c : Ctl) (rnd : Rnd) (ftz : Bool) (d a : Opnd)
  | pack (c : Ctl) (ty : Ty) (elt : BitVec 4) (rnd : Rnd) (ftz : Bool) (d a b x : Opnd)
  | unpk (c : Ctl) (ty : Ty) (elt : BitVec 4) (ftz : Bool) (d a : Opnd)
  | dot4 (c : Ctl) (d a b x : Opnd)
  | dot8 (c : Ctl) (d a b x : Opnd)
  | fdot4 (c : Ctl) (ty : Ty) (d a b x : Opnd)
  | shfl (c : Ctl) (sm : ShflMode) (ty : Ty) (d a b x : Opnd)
  | vote (c : Ctl) (vm : VoteMode) (d a : Opnd)
  | matchI (c : Ctl) (ty : Ty) (d a : Opnd)
  | pset (c : Ctl) (pc : PsetComb) (cmp : Cmp) (ty : Ty) (d a b x : Opnd)
  | pmovGet (c : Ctl) (d : Opnd)
  | pmovSet (c : Ctl) (a : Opnd)
  | mma (c : Ctl) (cn : BitVec 2) (a b x : Opnd)
  | mmas (c : Ctl) (cn : BitVec 2) (d a b x : Opnd)
  | mmab (c : Ctl) (cn : BitVec 2) (d a b x : Opnd)
  | cmprs (c : Ctl) (ty : Ty) (a b x : Opnd)
  | cclr (c : Ctl) (cn : BitVec 2)
  | cld (c : Ctl) (cn : BitVec 2) (a x : Opnd)
  | cscl (c : Ctl) (cn : BitVec 2) (a : Opnd)
  | cst (c : Ctl) (cn : BitVec 2) (a b x : Opnd)
  | qinit (c : Ctl) (qn : BitVec 4) (a b : Opnd)
  | qpush (c : Ctl) (qn : BitVec 4) (a : Opnd)
  | qpop (c : Ctl) (qn : BitVec 4) (d : Opnd)
  | qstat (c : Ctl) (qn : BitVec 4) (d : Opnd)
  | copy (c : Ctl) (sp dsp : Space) (kind : CopyKind) (qn : BitVec 4) (d a b x : Opnd)
  | reel (c : Ctl) (qn : BitVec 4) (slice : BitVec 12) (d : Opnd)
  | reelw (c : Ctl) (stop : Bool) (a : Opnd)
  | aloop (c : Ctl) (d a : Opnd)
  | aqput (c : Ctl) (qn : BitVec 4) (sp : Space) (a b : Opnd)
  | aend (c : Ctl)
  | ld (c : Ctl) (sp : Space) (ty : Ty) (acq : Bool) (d a x : Opnd)
  | st (c : Ctl) (sp : Space) (ty : Ty) (rel nr : Bool) (a b x : Opnd)
  | ldx (c : Ctl) (sp : Space) (ty : Ty) (cb : BitVec 2) (d a x : Opnd)
  | stx (c : Ctl) (sp : Space) (ty : Ty) (cb : BitVec 2) (nr : Bool) (a b x : Opnd)
  | atom (c : Ctl) (sp : Space) (ty : Ty) (aop : AtomOp) (scope : Scope) (d a b x : Opnd)
  | atomr (c : Ctl) (sp : Space) (ty : Ty) (aop : AtomOp) (scope : Scope) (a b x : Opnd)
  | fence (c : Ctl) (scope : Scope) (half : FenceHalf)
  | pin (c : Ctl) (a b : Opnd)
  | unpin (c : Ctl) (a b : Opnd)
  | icinv (c : Ctl) (a b : Opnd)
  | pref (c : Ctl) (a x : Opnd)
  | launch (c : Ctl) (a : Opnd)
  | spawn (c : Ctl) (d a b : Opnd)
  | depdec (c : Ctl) (a : Opnd)
  | phend (c : Ctl) (carry : BitVec 16)
  | tbar (c : Ctl)
  | tdone (c : Ctl)
  | fwait (c : Ctl) (ty : Ty) (d a x : Opnd)
  | fsetFuture (c : Ctl) (ty : Ty) (status : BitVec 8) (a b x : Opnd)
  | ftest (c : Ctl) (d a x : Opnd)
  | lock (c : Ctl) (a x : Opnd)
  | unlock (c : Ctl) (a x : Opnd)
  | chpush (c : Ctl) (ty : Ty) (a b x : Opnd)
  | chpop (c : Ctl) (ty : Ty) (d a x : Opnd)
  | waitc (c : Ctl) (a b x : Opnd)
  | trap (c : Ctl) (code : BitVec 8)
  | tret (c : Ctl) (skip : Bool)
  | replay (c : Ctl)
  | unwind (c : Ctl)
  | endg (c : Ctl)
  | frqpop (c : Ctl) (d : Opnd)
  | mapreq (c : Ctl) (a b : Opnd)
  | srd (c : Ctl) (num : BitVec 12) (d : Opnd)
  | swr (c : Ctl) (num : BitVec 12) (a : Opnd)
  | uread (c : Ctl) (wide : Bool) (u d : Opnd)
  | uwrite (c : Ctl) (wide : Bool) (u a : Opnd)
  | bkpt (c : Ctl) (tag : BitVec 8)
  | put (c : Ctl) (d a b x : Opnd)
  | get (c : Ctl) (d a b x : Opnd)
  | ratom (c : Ctl) (ty : Ty) (aop : AtomOp) (d a b x : Opnd)
  | coll (c : Ctl) (cop : CollOp) (cfmt : CollFmt) (cred : CollRed) (a b : Opnd)
  | wstat (c : Ctl) (arrived : Bool) (d a : Opnd)
  | activation (core part : Nat)
  | fixedResultLands (op : Nat)
  | icacheFill (core asid line : Nat)
  | sleepWake (grp : Nat)
  | accessPerform (op unit : Nat)
  | accessComplete (op : Nat)
  | leaseExpiry (core line : Nat)
  | queueLand (op : Nat)
  | queueRetire (grp qn : Nat)
  | copyTransferDone (op : Nat)
  | reelExecute (core ctx : Nat)
  | preemptionSave (grp : Nat)
  | noticeDelivery (grp : Nat)
  | lateMemUncorrectable (grp : Nat)
  | softError (site : ErrorSite) (correctable : Bool)
  | migration (block column : Nat)
  | vigilRetry (line : Nat)
  | firstAttemptAnswer (op : Nat)
  | channelOverflowDelay (asid cell : Nat)
  | chunkPoolRetry (asid : Nat)
  | tbarCompletion (team : Nat)
  | phaseEnd (team : Nat)
  | submissionTake (asid : Nat)
  | taskPull (core desc : Nat)
  | aging (stack desc : Nat)
  | accountTick
  | contextSwitchDeadline (asid : Nat)
  | currentLimit (stretch : RailStretch)
  | thermalTrip
  | droop (stretch : CoreStretch)
  | powerGood (tjmin : BitVec 8)
  | hostImageOffer (image : List Byte)
  | channelRetrain (column : Nat)
  | busRepair (column : Nat)
  | splitChange (cluster : Nat)
  | mapreqAnswer (req : Nat)
  | firmwareEventDeliver
  | hostWrite (hwin : BitVec 6) (offset : BitVec 48) (words : List Word)
  | hostRead (hwin : BitVec 6) (offset : BitVec 48) (len : BitVec 10) (tag : BitVec 8)
  | registerWrite (reg : HostReg) (value : Word)
  | sqtail (asid : Nat) (tail : BitVec 32)
  | sqstatOver (asid : Nat) (value : Word)
  | ctxCreate
  | ctxTeardown
  | ctxSwitch
  | ctxResume
  | energySet
  | capRaise
  | shootdown
  | hash
  | attest
  | faultLog
  | routeSet
  | routeLock
  | migrateAnswer
  | splitSet
  | haltCmd (stack : Nat)
  | readCmd (stack : Nat)
  | writeCmd (stack : Nat)
  | stepCmd (stack : Nat)
  | breakCmd (stack : Nat)
  | resumeCmd (stack : Nat)
  | splitsCmd (stack : Nat)
  | lanternEvent (stack : Nat)
  | part (f : Frame)
  | result (f : Frame)
  | block (f : Frame)
  | abort (f : Frame)
  | faddr (f : Frame)
  | transactionWrite (x : Xact)
  | transactionRead (x : Xact)
  | transactionReadCompletion (x : Xact)
  | transactionAtomic (x : Xact) (ty : Ty) (aop : AtomOp)
  | linkFailure (port : Nat)
  | matrixCompletion (op : Nat)
  | launchAcceptance (op : Nat)
  | faddFrame (f : Frame)
  | reservedFrameDrop (f : Frame)
  | transactionAtomicCompletion (x : Xact)
  | addressBreakpoint (grp : Nat)
  | trackingLoop (mhz : CoreRate)
  | nopCompact (c : CCtl)
  | movZ32Compact (c : CCtl) (d a : COpnd)
  | movZ64Compact (c : CCtl) (d a : COpnd)
  | movwCompact (c : CCtl) (d a : COpnd)
  | nrelCompact (c : CCtl) (d : COpnd)
  | strandCompact (c : CCtl)
  | parkCompact (c : CCtl)
  | exitCompact (c : CCtl)
  | retCompact (c : CCtl)
  | joinCompact (c : CCtl)
  | yieldCompact (c : CCtl)
  | tbarCompact (c : CCtl)
  | tdoneCompact (c : CCtl)
  | iaddS32Compact (c : CCtl) (d a b : COpnd)
  | iaddZ32Compact (c : CCtl) (d a b : COpnd)
  | isubS32Compact (c : CCtl) (d a b : COpnd)
  | isubZ32Compact (c : CCtl) (d a b : COpnd)
  | iadd64Z64Compact (c : CCtl) (d a b : COpnd)
  | iaddS32SatCompact (c : CCtl) (d a b : COpnd)
  | isubS32SatCompact (c : CCtl) (d a b : COpnd)
  | iaddZ32SatCompact (c : CCtl) (d a b : COpnd)
  | imulS32Compact (c : CCtl) (d a b : COpnd)
  | imulZ32Compact (c : CCtl) (d a b : COpnd)
  | imulhS32Compact (c : CCtl) (d a b : COpnd)
  | imulhZ32Compact (c : CCtl) (d a b : COpnd)
  | idivS32Compact (c : CCtl) (d a b : COpnd)
  | idivZ32Compact (c : CCtl) (d a b : COpnd)
  | iremS32Compact (c : CCtl) (d a b : COpnd)
  | iremZ32Compact (c : CCtl) (d a b : COpnd)
  | iminS32Compact (c : CCtl) (d a b : COpnd)
  | iminZ32Compact (c : CCtl) (d a b : COpnd)
  | imaxS32Compact (c : CCtl) (d a b : COpnd)
  | imaxZ32Compact (c : CCtl) (d a b : COpnd)
  | iabsS32Compact (c : CCtl) (d a : COpnd)
  | inegS32Compact (c : CCtl) (d a : COpnd)
  | popcZ32Compact (c : CCtl) (d a : COpnd)
  | clzZ32Compact (c : CCtl) (d a : COpnd)
  | andZ32Compact (c : CCtl) (d a b : COpnd)
  | orZ32Compact (c : CCtl) (d a b : COpnd)
  | xorZ32Compact (c : CCtl) (d a b : COpnd)
  | andnZ32Compact (c : CCtl) (d a b : COpnd)
  | notZ32Compact (c : CCtl) (d a : COpnd)
  | brevZ32Compact (c : CCtl) (d a : COpnd)
  | andZ64Compact (c : CCtl) (d a b : COpnd)
  | orZ64Compact (c : CCtl) (d a b : COpnd)
  | shlZ32Compact (c : CCtl) (d a b : COpnd)
  | shrZ32Compact (c : CCtl) (d a b : COpnd)
  | sarS32Compact (c : CCtl) (d a b : COpnd)
  | rotZ32Compact (c : CCtl) (d a b : COpnd)
  | shlZ64Compact (c : CCtl) (d a b : COpnd)
  | shrZ64Compact (c : CCtl) (d a b : COpnd)
  | sarS64Compact (c : CCtl) (d a b : COpnd)
  | xorZ64Compact (c : CCtl) (d a b : COpnd)
  | isetEqS32Compact (c : CCtl) (d a b : COpnd)
  | isetNeS32Compact (c : CCtl) (d a b : COpnd)
  | isetLtS32Compact (c : CCtl) (d a b : COpnd)
  | isetLeS32Compact (c : CCtl) (d a b : COpnd)
  | isetGtS32Compact (c : CCtl) (d a b : COpnd)
  | isetGeS32Compact (c : CCtl) (d a b : COpnd)
  | isetLtZ32Compact (c : CCtl) (d a b : COpnd)
  | isetGeZ32Compact (c : CCtl) (d a b : COpnd)
  | faddF32Compact (c : CCtl) (d a b : COpnd)
  | fsubF32Compact (c : CCtl) (d a b : COpnd)
  | fmulF32Compact (c : CCtl) (d a b : COpnd)
  | fminF32Compact (c : CCtl) (d a b : COpnd)
  | fmaxF32Compact (c : CCtl) (d a b : COpnd)
  | faddF32FtzCompact (c : CCtl) (d a b : COpnd)
  | fsubF32FtzCompact (c : CCtl) (d a b : COpnd)
  | fmulF32FtzCompact (c : CCtl) (d a b : COpnd)
  | fsetEqF32Compact (c : CCtl) (d a b : COpnd)
  | fsetNeF32Compact (c : CCtl) (d a b : COpnd)
  | fsetLtF32Compact (c : CCtl) (d a b : COpnd)
  | fsetLeF32Compact (c : CCtl) (d a b : COpnd)
  | fsetGtF32Compact (c : CCtl) (d a b : COpnd)
  | fsetGeF32Compact (c : CCtl) (d a b : COpnd)
  | fsetUnF32Compact (c : CCtl) (d a b : COpnd)
  | frndF32Compact (c : CCtl) (d a : COpnd)
  | frcpF32Compact (c : CCtl) (d a : COpnd)
  | frsqF32Compact (c : CCtl) (d a : COpnd)
  | fsqrtF32Compact (c : CCtl) (d a : COpnd)
  | fex2F32Compact (c : CCtl) (d a : COpnd)
  | flg2F32Compact (c : CCtl) (d a : COpnd)
  | fsinF32Compact (c : CCtl) (d a : COpnd)
  | fcosF32Compact (c : CCtl) (d a : COpnd)
  | frndF32RzCompact (c : CCtl) (d a : COpnd)
  | f2iS32F32RzCompact (c : CCtl) (d a : COpnd)
  | f2iZ32F32RzCompact (c : CCtl) (d a : COpnd)
  | i2fF32S32Compact (c : CCtl) (d a : COpnd)
  | i2fF32Z32Compact (c : CCtl) (d a : COpnd)
  | cvtF16F32Compact (c : CCtl) (d a : COpnd)
  | cvtF32F16Compact (c : CCtl) (d a : COpnd)
  | cvtBf16F32Compact (c : CCtl) (d a : COpnd)
  | cvtF32Bf16Compact (c : CCtl) (d a : COpnd)
  | packE4m3Compact (c : CCtl) (d a b : COpnd)
  | packE5m2Compact (c : CCtl) (d a b : COpnd)
  | packE2m1Compact (c : CCtl) (d a b : COpnd)
  | packBf16Compact (c : CCtl) (d a b : COpnd)
  | unpkE4m3Compact (c : CCtl) (d a : COpnd)
  | unpkE5m2Compact (c : CCtl) (d a : COpnd)
  | unpkE2m1Compact (c : CCtl) (d a : COpnd)
  | unpkBf16Compact (c : CCtl) (d a : COpnd)
  | dot4S8Compact (c : CCtl) (d a b : COpnd)
  | dot8S4Compact (c : CCtl) (d a b : COpnd)
  | fdot4E4m3Compact (c : CCtl) (d a b : COpnd)
  | fdot4E5m2Compact (c : CCtl) (d a b : COpnd)
  | shflIdxCompact (c : CCtl) (d a b : COpnd)
  | shflUpCompact (c : CCtl) (d a b : COpnd)
  | shflDownCompact (c : CCtl) (d a b : COpnd)
  | shflXorCompact (c : CCtl) (d a b : COpnd)
  | matchZ32Compact (c : CCtl) (d a : COpnd)
  | matchZ64Compact (c : CCtl) (d a : COpnd)
  | bfeZ32Compact (c : CCtl) (d a b : COpnd)
  | bfeS32Compact (c : CCtl) (d a b : COpnd)
  | popcZ64Compact (c : CCtl) (d a : COpnd)
  | clzZ64Compact (c : CCtl) (d a : COpnd)
  | ldPoolZ32Compact (c : CCtl) (d a : COpnd)
  | stPoolZ32Compact (c : CCtl) (a b : COpnd)
  | ldCoreZ32Compact (c : CCtl) (d a : COpnd)
  | stCoreZ32Compact (c : CCtl) (a b : COpnd)
  | ldLaneZ32Compact (c : CCtl) (d a : COpnd)
  | stLaneZ32Compact (c : CCtl) (a b : COpnd)
  | ldGlobZ32Compact (c : CCtl) (d a : COpnd)
  | stGlobZ32Compact (c : CCtl) (a b : COpnd)
  | ldCoreZ64Compact (c : CCtl) (d a : COpnd)
  | stCoreZ64Compact (c : CCtl) (a b : COpnd)
  deriving DecidableEq, Repr

end Sys2Proof
end

