-- ==== Sys2Proof/Machine/Roles.lean ====
section
/-! DEFINITION. The operand roles of every instruction (R45 to R48, R59, R156), the expansion of the compact forms (R51, R52)
and the control fields. No state: the checks here are the static ones. -/

namespace Sys2Proof

/-- Whether a type is 64 bits wide. -/
def Ty.is64 : Ty → Bool
  | .z64 | .s64 => true
  | _ => false

/-- Whether a type is a signed integer. -/
def Ty.signed : Ty → Bool
  | .s32 | .s64 | .s16 | .s8 | .s4 => true
  | _ => false

/-- Width in bits of an integer type, and of the packed element of a float type (R60, R64). -/
def Ty.bits : Ty → Nat
  | .z32 | .s32 | .f32 => 32
  | .z64 | .s64 => 64
  | .z16 | .s16 | .f16 | .bf16 => 16
  | .z8 | .s8 | .e4m3 | .e5m2 => 8
  | .z4 | .s4 | .e2m1 => 4
  | .e3m2 | .e2m3 => 6

/-- What an operand field stands for in its instruction. -/
inductive Role where
  | dst32 | dst64 | dst32NoQ | dst64NoQ
  | dstMask                       -- VOTE.mask and MATCH: a pair at width 64, else one register
  | dstPair                       -- MOVW and UREAD.z64: a pair in N, D or S
  | predDst
  | src32 | src64 | src32NoQ | src64NoQ
  | adr32 | adr64 | adrScale      -- address operands (R47); adrScale is MMAB's read D field (R198)
  | wSrc                          -- MOVW's source: a W entry
  | pred | predCarry              -- a predicate read; IADDC's, read and then written
  | uniform                       -- SHFL's segment width (R180)
  | nearSlot                      -- NREL's slot
  | copyShape                     -- COPY's first of four S registers (R225)
  | frq                           -- FRQPOP's first of eight D registers (R345)
  | casDst32 | casDst64           -- RATOM.cas: read as the compare value, then written (R364)
  | userRead (wide : Bool) | userWrite (wide : Bool)   -- UREAD and UWRITE (R348)
  deriving DecidableEq, Repr

/-- One operand field in use: its role and its contents. -/
structure Slot where
  role : Role
  op : Opnd
  deriving DecidableEq, Repr

/-- Index of an N source: the slot, with the consumer-count bits zero (R45). -/
def Opnd.nSrcOk (o : Opnd) : Bool := o.idx.extractLsb' 5 3 == 0

/-- The N slot that a field names. -/
def Opnd.nSlot (o : Opnd) : Nat := (o.idx.extractLsb' 0 5).toNat

/-- The consumer count of an N destination. -/
def Opnd.nCount (o : Opnd) : BitVec 3 := o.idx.extractLsb' 5 3

/-- Whether the index is even, as a pair's field must be. -/
def Opnd.even (o : Opnd) : Bool := !o.idx.getLsbD 0

/-- The T indices that may be read (R46). -/
def tDefined (n : Nat) : Bool := n ≤ 34 || (48 ≤ n && n ≤ 63)

/-- The T indices that may be written: t0-t15, %smerge, p0-p6, and p7, whose writes are ignored (R45, R118). -/
def tWritable (n : Nat) : Bool := n ≤ 15 || n == 33 || (48 ≤ n && n ≤ 55)

/-- The even T indices of the 64-bit special registers (R46). -/
def tPair (n : Nat) : Bool := n == 24 || n == 26 || n == 28 || n == 30 || n == 56 || n == 58 || n == 60 || n == 62

/-- Whether a field names a predicate, T 48 to 55. -/
def Opnd.isPred (o : Opnd) : Bool := o.lvl == .t && 48 ≤ o.idx.toNat && o.idx.toNat ≤ 55

/-- A 32-bit source (R45, R47). -/
def okSrc32 (o : Opnd) : Bool :=
  match o.lvl with
  | .w => o.idx.toNat < 8
  | .n => o.nSrcOk
  | .d => true
  | .s => o.idx.toNat < 64
  | .t => tDefined o.idx.toNat
  | .k => true
  | .i => true
  | .q => o.idx.toNat < 16

/-- A 64-bit source (R47, R156). -/
def okSrc64 (o : Opnd) : Bool :=
  match o.lvl with
  | .w => o.idx.toNat < 8
  | .n => o.nSrcOk && o.even
  | .d => o.even
  | .s => o.idx.toNat < 64 && o.even
  | .t => tPair o.idx.toNat
  | .k => o.even
  | .i => true
  | .q => false

/-- A 32-bit destination (R45). -/
def okDst32 (o : Opnd) : Bool :=
  match o.lvl with
  | .w => o.idx == 0
  | .n => true
  | .d => true
  | .s => o.idx.toNat < 64
  | .t => tWritable o.idx.toNat
  | .k | .i => false
  | .q => o.idx.toNat < 16

/-- A 64-bit destination: w1, or a pair in N, D or S (R156). -/
def okDst64 (o : Opnd) : Bool :=
  match o.lvl with
  | .w => o.idx == 0
  | .n => o.even
  | .d => o.even
  | .s => o.idx.toNat < 64 && o.even
  | .t | .k | .i | .q => false

/-- The operand of UREAD or UWRITE: a W entry or an N slot, even when 64 bits wide (R348). -/
def okUser (wide : Bool) (o : Opnd) : Bool :=
  match o.lvl with
  | .w => o.idx.toNat < 8
  | .n => !wide || o.even
  | _ => false

/-- The static operand rule of each role. -/
def Role.ok (r : Role) (o : Opnd) : Bool :=
  match r with
  | .dst32 | .dstMask => okDst32 o
  | .dst64 => okDst64 o
  | .dst32NoQ => okDst32 o && o.lvl != .q
  | .dst64NoQ => okDst64 o
  | .dstPair => okDst64 o && o.lvl != .w
  | .predDst | .pred | .predCarry => o.isPred
  | .src32 => okSrc32 o
  | .src64 => okSrc64 o
  | .src32NoQ => okSrc32 o && o.lvl != .q
  | .src64NoQ => okSrc64 o
  | .adr32 => okSrc32 o && o.lvl != .q && o.lvl != .i
  | .adr64 => okSrc64 o && o.lvl != .i
  | .adrScale => okSrc64 o && o.lvl != .i && o.lvl != .t
  | .wSrc => o.lvl == .w && o.idx.toNat < 8
  | .uniform =>
    match o.lvl with
    | .s => o.idx.toNat < 64
    | .k | .i => true
    | .t => tDefined o.idx.toNat && o.idx.toNat != 16 && !o.isPred
    | _ => false
  | .nearSlot => o.lvl == .n && o.nCount == 0
  | .copyShape => o.lvl == .s && o.idx.toNat ≤ 60
  | .frq => o.lvl == .d && o.idx.toNat ≤ 248
  | .casDst32 => okDst32 o && okSrc32 o && o.lvl != .q
  | .casDst64 => okDst64 o && okSrc64 o
  | .userRead wide => okUser wide o && (o.lvl != .n || o.nSrcOk)
  | .userWrite wide => okUser wide o

/-- Whether the group reads the field as a source: it counts as a read of W and N (R109, R112). -/
def Role.reads : Role → Bool
  | .src32 | .src64 | .src32NoQ | .src64NoQ | .adr32 | .adr64 | .adrScale | .wSrc | .pred | .predCarry | .uniform
  | .copyShape | .casDst32 | .casDst64 => true
  | _ => false

/-- Whether a read takes 64 bits. -/
def Role.wideRead : Role → Bool
  | .src64 | .src64NoQ | .adr64 | .adrScale | .wSrc | .casDst64 => true
  | _ => false

/-- Whether the field is a destination that the instruction writes, so that the instruction is result-producing (R108),
MOVW apart. -/
def Role.writes : Role → Bool
  | .dst32 | .dst64 | .dst32NoQ | .dst64NoQ | .dstMask | .dstPair | .predDst | .frq | .casDst32 | .casDst64 => true
  | _ => false

/-- Whether a written destination is a pair; `dstMask` depends on the group's width. -/
def Role.wideWrite : Role → Bool
  | .dst64 | .dst64NoQ | .dstPair | .casDst64 => true
  | _ => false

/-- A source of width 64 or 32. -/
def rd (wide : Bool) (o : Opnd) : Slot := ⟨if wide then .src64 else .src32, o⟩

/-- A source that may not name the Q level. -/
def rdNoQ (wide : Bool) (o : Opnd) : Slot := ⟨if wide then .src64NoQ else .src32NoQ, o⟩

/-- A destination of width 64 or 32. -/
def wr (wide : Bool) (o : Opnd) : Slot := ⟨if wide then .dst64 else .dst32, o⟩

/-- A destination that may not name the Q level. -/
def wrNoQ (wide : Bool) (o : Opnd) : Slot := ⟨if wide then .dst64NoQ else .dst32NoQ, o⟩

/-- An address operand: a pair in .glob, 32 bits in the scratch spaces (R250). -/
def adr (sp : Space) (o : Opnd) : Slot := ⟨if sp == .glob then .adr64 else .adr32, o⟩

/-- Operand fields of the instructions in their full form, in the order D, A, B, C (R59). -/
def Instr.coreSlots : Instr → List Slot
  | .sleep _ a => [rdNoQ false a]
  | .mov _ ty d a => [wr ty.is64 d, rd ty.is64 a]
  | .movw _ d a => [⟨.dstPair, d⟩, ⟨.wSrc, a⟩]
  | .movi _ m d _ => [wr (m != .z32) d]
  | .sel _ ty d a b x => [wr ty.is64 d, rd ty.is64 a, rd ty.is64 b, ⟨.pred, x⟩]
  | .nrel _ d => [⟨.nearSlot, d⟩]
  | .brx _ _ a b => [rd true a, rd true b]
  | .callx _ a => [rd true a]
  | .iadd _ _ _ d a b | .isub _ _ _ d a b => [wr false d, rd false a, rd false b]
  | .iadd64 _ _ _ d a b => [wr true d, rd true a, rd true b]
  | .iaddImm _ _ _ d a _ | .isubImm _ _ _ d a _ => [wr false d, rd false a]
  | .iaddc _ d a b x => [wr false d, rd false a, rd false b, ⟨.predCarry, x⟩]
  | .imul _ _ d a b | .imulh _ _ d a b => [wr false d, rd false a, rd false b]
  | .imulImm _ _ d a _ => [wr false d, rd false a]
  | .imad _ _ d a b x => [wr false d, rd false a, rd false b, rd false x]
  | .imadw _ _ d a b x => [wr true d, rd false a, rd false b, rd true x]
  | .idiv _ _ d a b | .irem _ _ d a b | .imin _ _ d a b | .imax _ _ d a b => [wr false d, rd false a, rd false b]
  | .iabs _ _ d a | .ineg _ _ d a => [wr false d, rd false a]
  | .lea _ ty _ d a b x => [wr ty.is64 d, rd ty.is64 a, rd false b, rd false x]
  | .and _ ty d a b | .or _ ty d a b | .xor _ ty d a b | .andn _ ty d a b => [wr ty.is64 d, rd ty.is64 a, rd ty.is64 b]
  | .not _ ty d a => [wr ty.is64 d, rd ty.is64 a]
  | .andImm _ d a _ | .orImm _ d a _ | .xorImm _ d a _ | .andnImm _ d a _ => [wr false d, rd false a]
  | .shl _ ty d a b | .shr _ ty d a b | .sar _ ty d a b | .rot _ ty d a b => [wr ty.is64 d, rd ty.is64 a, rd false b]
  | .shf _ _ d a b x => [wr false d, rd false a, rd false b, rd false x]
  | .bfe _ _ d a b => [wr false d, rd false a, rd false b]
  | .bfi _ d a b x => [wr false d, rd false a, rd false b, rd false x]
  | .popc _ ty d a | .clz _ ty d a => [wr false d, rd ty.is64 a]
  | .brev _ ty d a => [wr ty.is64 d, rd ty.is64 a]
  | .prmb _ d a b x => [wr false d, rd false a, rd false b, rd false x]
  | .iset _ _ ty d a b => [wr false d, rd ty.is64 a, rd ty.is64 b]
  | .fadd _ _ _ d a b | .fsub _ _ _ d a b | .fmul _ _ _ d a b => [wr false d, rd false a, rd false b]
  | .fmin _ _ d a b | .fmax _ _ d a b => [wr false d, rd false a, rd false b]
  | .faddImm _ _ _ d a _ | .fsubImm _ _ _ d a _ | .fmulImm _ _ _ d a _ => [wr false d, rd false a]
  | .fminImm _ _ d a _ | .fmaxImm _ _ d a _ => [wr false d, rd false a]
  | .ffma _ _ _ d a b x => [wr false d, rd false a, rd false b, rd false x]
  | .fsetCompare _ _ _ d a b => [wr false d, rd false a, rd false b]
  | .frcp _ _ d a | .frsq _ _ d a | .fsqrt _ _ d a | .fex2 _ _ d a | .flg2 _ _ d a | .fsin _ _ d a | .fcos _ _ d a =>
    [wr false d, rd false a]
  | .hfma2 _ _ _ _ _ _ _ d a b x => [wr false d, rd false a, rd false b, rd false x]
  | .f2i _ ty _ _ _ d a => [wr ty.is64 d, rd false a]
  | .i2f _ _ sty _ _ d a => [wr false d, rd sty.is64 a]
  | .cvt _ _ _ _ _ d a | .frnd _ _ _ d a => [wr false d, rd false a]
  | .pack _ _ _ _ _ d a b x => [wr false d, rd false a, rd false b, rd false x]
  | .unpk _ _ _ _ d a => [wr false d, rd false a]
  | .dot4 _ d a b x | .dot8 _ d a b x | .fdot4 _ _ d a b x => [wr false d, rd false a, rd false b, rd false x]
  | .shfl _ _ ty d a b x => [wr ty.is64 d, rd ty.is64 a, rd false b, ⟨.uniform, x⟩]
  | .vote _ vm d a => [⟨if vm == .mask then .dstMask else .dst32, d⟩, ⟨.pred, a⟩]
  | .matchI _ ty d a => [⟨.dstMask, d⟩, rd ty.is64 a]
  | .pset _ pc _ ty d a b x =>
    [⟨.predDst, d⟩, rd ty.is64 a, rd ty.is64 b] ++ (if pc == .plain then [] else [⟨.pred, x⟩])
  | .pmovGet _ d => [wr false d]
  | .pmovSet _ a => [rd false a]
  | .mma _ _ a b x => [⟨.adr32, a⟩, ⟨.adr32, b⟩, rdNoQ false x]
  | .mmas _ _ d a b x => [⟨.adr32, d⟩, ⟨.adr32, a⟩, ⟨.adr32, b⟩, rdNoQ false x]
  | .mmab _ _ d a b x => [⟨.adrScale, d⟩, ⟨.adr32, a⟩, ⟨.adr32, b⟩, rdNoQ false x]
  | .cmprs _ _ a b x => [⟨.adr32, a⟩, ⟨.adr32, b⟩, ⟨.adr32, x⟩]
  | .cld _ _ a x => [⟨.adr32, a⟩, rdNoQ false x]
  | .cscl _ _ a => [rdNoQ false a]
  | .cst _ _ a b x => [⟨.adr32, a⟩, rdNoQ false b, rdNoQ false x]
  | .qinit _ _ a b => [rdNoQ false a, rdNoQ false b]
  | .qpush _ _ a => [rdNoQ false a]
  | .qpop _ _ d | .qstat _ _ d => [wrNoQ false d]
  | .copy _ sp dsp kind _ d a b x =>
    (match kind with
     | .push => [rd false d]
     | .count => [⟨.adr32, d⟩]
     | .flag => []) ++ [adr sp a, adr dsp b, ⟨.copyShape, x⟩]
  | .reel _ _ _ d => if d == .null then [] else [wr false d]
  | .reelw _ _ a => [rd false a]
  | .aloop _ d a => [wr false d, rd false a]
  | .aqput _ _ sp a b => [adr sp a, rd false b]
  | .ld _ sp ty _ d a x => [wrNoQ ty.is64 d, adr sp a, rdNoQ false x]
  | .st _ sp ty _ _ a b x => [adr sp a, rdNoQ ty.is64 b, rdNoQ false x]
  | .ldx _ sp ty _ d a x => [wrNoQ ty.is64 d, adr sp a, rdNoQ false x]
  | .stx _ sp ty _ _ a b x => [adr sp a, rdNoQ ty.is64 b, rdNoQ false x]
  | .atom _ sp ty aop _ d a b x =>
    [wrNoQ ty.is64 d, adr sp a, rdNoQ ty.is64 b, rdNoQ (aop == .cas && ty.is64) x]
  | .atomr _ sp ty _ _ a b x => [adr sp a, rdNoQ ty.is64 b, rdNoQ false x]
  | .pin _ a b | .unpin _ a b | .icinv _ a b => [⟨.adr64, a⟩, rdNoQ false b]
  | .pref _ a x => [⟨.adr64, a⟩, rdNoQ false x]
  | .launch _ a => [⟨.adr64, a⟩]
  | .spawn _ d a b => [wrNoQ true d, ⟨.adr64, a⟩, rdNoQ false b]
  | .depdec _ a => [⟨.adr64, a⟩]
  | .fwait _ ty d a x => [wrNoQ ty.is64 d, ⟨.adr64, a⟩, rdNoQ false x]
  | .fsetFuture _ ty _ a b x => [⟨.adr64, a⟩, rdNoQ ty.is64 b, rdNoQ false x]
  | .ftest _ d a x => [wrNoQ false d, ⟨.adr64, a⟩, rdNoQ false x]
  | .lock _ a x | .unlock _ a x => [⟨.adr64, a⟩, rdNoQ false x]
  | .chpush _ ty a b x => [⟨.adr64, a⟩, rdNoQ ty.is64 b, rdNoQ false x]
  | .chpop _ ty d a x => [wrNoQ ty.is64 d, ⟨.adr64, a⟩, rdNoQ false x]
  | .waitc _ a b x => [⟨.adr64, a⟩, rdNoQ false b, rdNoQ false x]
  | .frqpop _ d => [⟨.frq, d⟩]
  | .mapreq _ a b => [⟨.adr64, a⟩, rdNoQ false b]
  | .srd _ _ d => [wrNoQ false d]
  | .swr _ _ a => [rdNoQ false a]
  | .uread _ wide u d => [⟨if wide then .dstPair else .dst32NoQ, d⟩, ⟨.userRead wide, u⟩]
  | .uwrite _ wide u a => [⟨.userWrite wide, u⟩, rdNoQ wide a]
  | .put _ d a b x | .get _ d a b x => [rdNoQ true d, ⟨.adr64, a⟩, rdNoQ false b, rdNoQ false x]
  | .ratom _ ty aop d a b x =>
    [if aop == .cas then ⟨if ty.is64 then .casDst64 else .casDst32, d⟩ else wrNoQ ty.is64 d,
     rdNoQ true a, rdNoQ ty.is64 b, rdNoQ false x]
  | .coll _ _ _ _ a b => [⟨.adr64, a⟩, rdNoQ false b]
  | .wstat _ _ d a => [wrNoQ true d, rdNoQ false a]
  | _ => []

/-- A compact control group in full (R51): WAIT 0, D 0, guard p7. -/
def CCtl.full (c : CCtl) : Ctl :=
  { stall := c.stall, wait := 0, set := c.set, drain := false, yield := c.yield, gneg := false, gpred := 7 }

/-- A compact operand in full (R51). -/
def COpnd.full (o : COpnd) : Opnd :=
  ⟨match o.lvl with | .w => .w | .n => .n | .d => .d | .s => .s, o.idx.setWidth 8⟩

/-- The full form that a compact row expands into (R52); every other step is its own. -/
def Instr.core : Instr → Instr
  | .nopCompact c => .nop c.full
  | .movZ32Compact c d a => .mov c.full .z32 d.full a.full
  | .movZ64Compact c d a => .mov c.full .z64 d.full a.full
  | .movwCompact c d a => .movw c.full d.full a.full
  | .nrelCompact c d => .nrel c.full d.full
  | .strandCompact c => .strand c.full 0
  | .parkCompact c => .park c.full
  | .exitCompact c => .exit c.full
  | .retCompact c => .ret c.full
  | .joinCompact c => .join c.full
  | .yieldCompact c => .yield c.full
  | .tbarCompact c => .tbar c.full
  | .tdoneCompact c => .tdone c.full
  | .iaddS32Compact c d a b => .iadd c.full .s32 false d.full a.full b.full
  | .iaddZ32Compact c d a b => .iadd c.full .z32 false d.full a.full b.full
  | .isubS32Compact c d a b => .isub c.full .s32 false d.full a.full b.full
  | .isubZ32Compact c d a b => .isub c.full .z32 false d.full a.full b.full
  | .iadd64Z64Compact c d a b => .iadd64 c.full .z64 false d.full a.full b.full
  | .iaddS32SatCompact c d a b => .iadd c.full .s32 true d.full a.full b.full
  | .isubS32SatCompact c d a b => .isub c.full .s32 true d.full a.full b.full
  | .iaddZ32SatCompact c d a b => .iadd c.full .z32 true d.full a.full b.full
  | .imulS32Compact c d a b => .imul c.full .s32 d.full a.full b.full
  | .imulZ32Compact c d a b => .imul c.full .z32 d.full a.full b.full
  | .imulhS32Compact c d a b => .imulh c.full .s32 d.full a.full b.full
  | .imulhZ32Compact c d a b => .imulh c.full .z32 d.full a.full b.full
  | .idivS32Compact c d a b => .idiv c.full .s32 d.full a.full b.full
  | .idivZ32Compact c d a b => .idiv c.full .z32 d.full a.full b.full
  | .iremS32Compact c d a b => .irem c.full .s32 d.full a.full b.full
  | .iremZ32Compact c d a b => .irem c.full .z32 d.full a.full b.full
  | .iminS32Compact c d a b => .imin c.full .s32 d.full a.full b.full
  | .iminZ32Compact c d a b => .imin c.full .z32 d.full a.full b.full
  | .imaxS32Compact c d a b => .imax c.full .s32 d.full a.full b.full
  | .imaxZ32Compact c d a b => .imax c.full .z32 d.full a.full b.full
  | .iabsS32Compact c d a => .iabs c.full false d.full a.full
  | .inegS32Compact c d a => .ineg c.full false d.full a.full
  | .popcZ32Compact c d a => .popc c.full .z32 d.full a.full
  | .clzZ32Compact c d a => .clz c.full .z32 d.full a.full
  | .andZ32Compact c d a b => .and c.full .z32 d.full a.full b.full
  | .orZ32Compact c d a b => .or c.full .z32 d.full a.full b.full
  | .xorZ32Compact c d a b => .xor c.full .z32 d.full a.full b.full
  | .andnZ32Compact c d a b => .andn c.full .z32 d.full a.full b.full
  | .notZ32Compact c d a => .not c.full .z32 d.full a.full
  | .brevZ32Compact c d a => .brev c.full .z32 d.full a.full
  | .andZ64Compact c d a b => .and c.full .z64 d.full a.full b.full
  | .orZ64Compact c d a b => .or c.full .z64 d.full a.full b.full
  | .shlZ32Compact c d a b => .shl c.full .z32 d.full a.full b.full
  | .shrZ32Compact c d a b => .shr c.full .z32 d.full a.full b.full
  | .sarS32Compact c d a b => .sar c.full .s32 d.full a.full b.full
  | .rotZ32Compact c d a b => .rot c.full .z32 d.full a.full b.full
  | .shlZ64Compact c d a b => .shl c.full .z64 d.full a.full b.full
  | .shrZ64Compact c d a b => .shr c.full .z64 d.full a.full b.full
  | .sarS64Compact c d a b => .sar c.full .s64 d.full a.full b.full
  | .xorZ64Compact c d a b => .xor c.full .z64 d.full a.full b.full
  | .isetEqS32Compact c d a b => .iset c.full .eq .s32 d.full a.full b.full
  | .isetNeS32Compact c d a b => .iset c.full .ne .s32 d.full a.full b.full
  | .isetLtS32Compact c d a b => .iset c.full .lt .s32 d.full a.full b.full
  | .isetLeS32Compact c d a b => .iset c.full .le .s32 d.full a.full b.full
  | .isetGtS32Compact c d a b => .iset c.full .gt .s32 d.full a.full b.full
  | .isetGeS32Compact c d a b => .iset c.full .ge .s32 d.full a.full b.full
  | .isetLtZ32Compact c d a b => .iset c.full .lt .z32 d.full a.full b.full
  | .isetGeZ32Compact c d a b => .iset c.full .ge .z32 d.full a.full b.full
  | .faddF32Compact c d a b => .fadd c.full .rn false d.full a.full b.full
  | .fsubF32Compact c d a b => .fsub c.full .rn false d.full a.full b.full
  | .fmulF32Compact c d a b => .fmul c.full .rn false d.full a.full b.full
  | .fminF32Compact c d a b => .fmin c.full false d.full a.full b.full
  | .fmaxF32Compact c d a b => .fmax c.full false d.full a.full b.full
  | .faddF32FtzCompact c d a b => .fadd c.full .rn true d.full a.full b.full
  | .fsubF32FtzCompact c d a b => .fsub c.full .rn true d.full a.full b.full
  | .fmulF32FtzCompact c d a b => .fmul c.full .rn true d.full a.full b.full
  | .fsetEqF32Compact c d a b => .fsetCompare c.full .eq false d.full a.full b.full
  | .fsetNeF32Compact c d a b => .fsetCompare c.full .ne false d.full a.full b.full
  | .fsetLtF32Compact c d a b => .fsetCompare c.full .lt false d.full a.full b.full
  | .fsetLeF32Compact c d a b => .fsetCompare c.full .le false d.full a.full b.full
  | .fsetGtF32Compact c d a b => .fsetCompare c.full .gt false d.full a.full b.full
  | .fsetGeF32Compact c d a b => .fsetCompare c.full .ge false d.full a.full b.full
  | .fsetUnF32Compact c d a b => .fsetCompare c.full .un false d.full a.full b.full
  | .frndF32Compact c d a => .frnd c.full .rn false d.full a.full
  | .frcpF32Compact c d a => .frcp c.full false d.full a.full
  | .frsqF32Compact c d a => .frsq c.full false d.full a.full
  | .fsqrtF32Compact c d a => .fsqrt c.full false d.full a.full
  | .fex2F32Compact c d a => .fex2 c.full false d.full a.full
  | .flg2F32Compact c d a => .flg2 c.full false d.full a.full
  | .fsinF32Compact c d a => .fsin c.full false d.full a.full
  | .fcosF32Compact c d a => .fcos c.full false d.full a.full
  | .frndF32RzCompact c d a => .frnd c.full .rz false d.full a.full
  | .f2iS32F32RzCompact c d a => .f2i c.full .s32 .f32 .rz false d.full a.full
  | .f2iZ32F32RzCompact c d a => .f2i c.full .z32 .f32 .rz false d.full a.full
  | .i2fF32S32Compact c d a => .i2f c.full .f32 .s32 .rn false d.full a.full
  | .i2fF32Z32Compact c d a => .i2f c.full .f32 .z32 .rn false d.full a.full
  | .cvtF16F32Compact c d a => .cvt c.full .f16 .f32 .rn false d.full a.full
  | .cvtF32F16Compact c d a => .cvt c.full .f32 .f16 .rn false d.full a.full
  | .cvtBf16F32Compact c d a => .cvt c.full .bf16 .f32 .rn false d.full a.full
  | .cvtF32Bf16Compact c d a => .cvt c.full .f32 .bf16 .rn false d.full a.full
  | .packE4m3Compact c d a b => .pack c.full .e4m3 0 .rn false d.full a.full b.full .null
  | .packE5m2Compact c d a b => .pack c.full .e5m2 0 .rn false d.full a.full b.full .null
  | .packE2m1Compact c d a b => .pack c.full .e2m1 0 .rn false d.full a.full b.full .null
  | .packBf16Compact c d a b => .pack c.full .bf16 0 .rn false d.full a.full b.full .null
  | .unpkE4m3Compact c d a => .unpk c.full .e4m3 0 false d.full a.full
  | .unpkE5m2Compact c d a => .unpk c.full .e5m2 0 false d.full a.full
  | .unpkE2m1Compact c d a => .unpk c.full .e2m1 0 false d.full a.full
  | .unpkBf16Compact c d a => .unpk c.full .bf16 0 false d.full a.full
  | .dot4S8Compact c d a b => .dot4 c.full d.full a.full b.full .null
  | .dot8S4Compact c d a b => .dot8 c.full d.full a.full b.full .null
  | .fdot4E4m3Compact c d a b => .fdot4 c.full .e4m3 d.full a.full b.full .null
  | .fdot4E5m2Compact c d a b => .fdot4 c.full .e5m2 d.full a.full b.full .null
  | .shflIdxCompact c d a b => .shfl c.full .idx .z32 d.full a.full b.full .null
  | .shflUpCompact c d a b => .shfl c.full .up .z32 d.full a.full b.full .null
  | .shflDownCompact c d a b => .shfl c.full .down .z32 d.full a.full b.full .null
  | .shflXorCompact c d a b => .shfl c.full .xor .z32 d.full a.full b.full .null
  | .matchZ32Compact c d a => .matchI c.full .z32 d.full a.full
  | .matchZ64Compact c d a => .matchI c.full .z64 d.full a.full
  | .bfeZ32Compact c d a b => .bfe c.full .z32 d.full a.full b.full
  | .bfeS32Compact c d a b => .bfe c.full .s32 d.full a.full b.full
  | .popcZ64Compact c d a => .popc c.full .z64 d.full a.full
  | .clzZ64Compact c d a => .clz c.full .z64 d.full a.full
  | .ldPoolZ32Compact c d a => .ld c.full .pool .z32 false d.full a.full .null
  | .stPoolZ32Compact c a b => .st c.full .pool .z32 false false a.full b.full .null
  | .ldCoreZ32Compact c d a => .ld c.full .core .z32 false d.full a.full .null
  | .stCoreZ32Compact c a b => .st c.full .core .z32 false false a.full b.full .null
  | .ldLaneZ32Compact c d a => .ld c.full .lane .z32 false d.full a.full .null
  | .stLaneZ32Compact c a b => .st c.full .lane .z32 false false a.full b.full .null
  | .ldGlobZ32Compact c d a => .ld c.full .glob .z32 false d.full a.full .null
  | .stGlobZ32Compact c a b => .st c.full .glob .z32 false false a.full b.full .null
  | .ldCoreZ64Compact c d a => .ld c.full .core .z64 false d.full a.full .null
  | .stCoreZ64Compact c a b => .st c.full .core .z64 false false a.full b.full .null
  | i => i

/-- Whether the step is a compact form. -/
def Instr.isCompact : Instr → Bool
  | .nopCompact .. | .movZ32Compact .. | .movZ64Compact .. | .movwCompact .. | .nrelCompact .. | .strandCompact ..
  | .parkCompact .. | .exitCompact .. | .retCompact .. | .joinCompact .. | .yieldCompact .. | .tbarCompact ..
  | .tdoneCompact .. | .iaddS32Compact .. | .iaddZ32Compact .. | .isubS32Compact .. | .isubZ32Compact .. | .iadd64Z64Compact ..
  | .iaddS32SatCompact .. | .isubS32SatCompact .. | .iaddZ32SatCompact .. | .imulS32Compact .. | .imulZ32Compact .. | .imulhS32Compact ..
  | .imulhZ32Compact .. | .idivS32Compact .. | .idivZ32Compact .. | .iremS32Compact .. | .iremZ32Compact .. | .iminS32Compact ..
  | .iminZ32Compact .. | .imaxS32Compact .. | .imaxZ32Compact .. | .iabsS32Compact .. | .inegS32Compact .. | .popcZ32Compact ..
  | .clzZ32Compact .. | .andZ32Compact .. | .orZ32Compact .. | .xorZ32Compact .. | .andnZ32Compact .. | .notZ32Compact ..
  | .brevZ32Compact .. | .andZ64Compact .. | .orZ64Compact .. | .shlZ32Compact .. | .shrZ32Compact .. | .sarS32Compact ..
  | .rotZ32Compact .. | .shlZ64Compact .. | .shrZ64Compact .. | .sarS64Compact .. | .xorZ64Compact .. | .isetEqS32Compact ..
  | .isetNeS32Compact .. | .isetLtS32Compact .. | .isetLeS32Compact .. | .isetGtS32Compact .. | .isetGeS32Compact .. | .isetLtZ32Compact ..
  | .isetGeZ32Compact .. | .faddF32Compact .. | .fsubF32Compact .. | .fmulF32Compact .. | .fminF32Compact .. | .fmaxF32Compact ..
  | .faddF32FtzCompact .. | .fsubF32FtzCompact .. | .fmulF32FtzCompact .. | .fsetEqF32Compact .. | .fsetNeF32Compact .. | .fsetLtF32Compact ..
  | .fsetLeF32Compact .. | .fsetGtF32Compact .. | .fsetGeF32Compact .. | .fsetUnF32Compact .. | .frndF32Compact .. | .frcpF32Compact ..
  | .frsqF32Compact .. | .fsqrtF32Compact .. | .fex2F32Compact .. | .flg2F32Compact .. | .fsinF32Compact .. | .fcosF32Compact ..
  | .frndF32RzCompact .. | .f2iS32F32RzCompact .. | .f2iZ32F32RzCompact .. | .i2fF32S32Compact .. | .i2fF32Z32Compact .. | .cvtF16F32Compact ..
  | .cvtF32F16Compact .. | .cvtBf16F32Compact .. | .cvtF32Bf16Compact .. | .packE4m3Compact .. | .packE5m2Compact .. | .packE2m1Compact ..
  | .packBf16Compact .. | .unpkE4m3Compact .. | .unpkE5m2Compact .. | .unpkE2m1Compact .. | .unpkBf16Compact .. | .dot4S8Compact ..
  | .dot8S4Compact .. | .fdot4E4m3Compact .. | .fdot4E5m2Compact .. | .shflIdxCompact .. | .shflUpCompact .. | .shflDownCompact ..
  | .shflXorCompact .. | .matchZ32Compact .. | .matchZ64Compact .. | .bfeZ32Compact .. | .bfeS32Compact .. | .popcZ64Compact ..
  | .clzZ64Compact .. | .ldPoolZ32Compact .. | .stPoolZ32Compact .. | .ldCoreZ32Compact .. | .stCoreZ32Compact .. | .ldLaneZ32Compact ..
  | .stLaneZ32Compact .. | .ldGlobZ32Compact .. | .stGlobZ32Compact .. | .ldCoreZ64Compact .. | .stCoreZ64Compact .. => true
  | _ => false

/-- The control fields of an instruction; an event has none. -/
def Instr.coreCtl : Instr → Option Ctl
  | .nop c | .waitf c | .sleep c _ | .yield c | .mov c _ _ _
  | .movw c _ _ | .movi c _ _ _ | .sel c _ _ _ _ _ | .nrel c _ | .strand c _
  | .park c | .bra c _ | .brc c _ _ _ | .brx c _ _ _ | .call c _
  | .callx c _ | .ret c | .join c | .exit c | .iadd c _ _ _ _ _
  | .isub c _ _ _ _ _ | .iadd64 c _ _ _ _ _ | .iaddImm c _ _ _ _ _ | .isubImm c _ _ _ _ _ | .iaddc c _ _ _ _
  | .imul c _ _ _ _ | .imulh c _ _ _ _ | .imulImm c _ _ _ _ | .imad c _ _ _ _ _ | .imadw c _ _ _ _ _
  | .idiv c _ _ _ _ | .irem c _ _ _ _ | .imin c _ _ _ _ | .imax c _ _ _ _ | .iabs c _ _ _
  | .ineg c _ _ _ | .lea c _ _ _ _ _ _ | .and c _ _ _ _ | .or c _ _ _ _ | .xor c _ _ _ _
  | .andn c _ _ _ _ | .not c _ _ _ | .andImm c _ _ _ | .orImm c _ _ _ | .xorImm c _ _ _
  | .andnImm c _ _ _ | .shl c _ _ _ _ | .shr c _ _ _ _ | .sar c _ _ _ _ | .rot c _ _ _ _
  | .shf c _ _ _ _ _ | .bfe c _ _ _ _ | .bfi c _ _ _ _ | .popc c _ _ _ | .clz c _ _ _
  | .brev c _ _ _ | .prmb c _ _ _ _ | .iset c _ _ _ _ _ | .fadd c _ _ _ _ _ | .fsub c _ _ _ _ _
  | .fmul c _ _ _ _ _ | .fmin c _ _ _ _ | .fmax c _ _ _ _ | .faddImm c _ _ _ _ _ | .fsubImm c _ _ _ _ _
  | .fmulImm c _ _ _ _ _ | .fminImm c _ _ _ _ | .fmaxImm c _ _ _ _ | .ffma c _ _ _ _ _ _ | .fsetCompare c _ _ _ _ _
  | .frcp c _ _ _ | .frsq c _ _ _ | .fsqrt c _ _ _ | .fex2 c _ _ _ | .flg2 c _ _ _
  | .fsin c _ _ _ | .fcos c _ _ _ | .hfma2 c _ _ _ _ _ _ _ _ _ _ | .f2i c _ _ _ _ _ _ | .i2f c _ _ _ _ _ _
  | .cvt c _ _ _ _ _ _ | .frnd c _ _ _ _ | .pack c _ _ _ _ _ _ _ _ | .unpk c _ _ _ _ _ | .dot4 c _ _ _ _
  | .dot8 c _ _ _ _ | .fdot4 c _ _ _ _ _ | .shfl c _ _ _ _ _ _ | .vote c _ _ _ | .matchI c _ _ _
  | .pset c _ _ _ _ _ _ _ | .pmovGet c _ | .pmovSet c _ | .mma c _ _ _ _ | .mmas c _ _ _ _ _
  | .mmab c _ _ _ _ _ | .cmprs c _ _ _ _ | .cclr c _ | .cld c _ _ _ | .cscl c _ _
  | .cst c _ _ _ _ | .qinit c _ _ _ | .qpush c _ _ | .qpop c _ _ | .qstat c _ _
  | .copy c _ _ _ _ _ _ _ _ | .reel c _ _ _ | .reelw c _ _ | .aloop c _ _ | .aqput c _ _ _ _
  | .aend c | .ld c _ _ _ _ _ _ | .st c _ _ _ _ _ _ _ | .ldx c _ _ _ _ _ _ | .stx c _ _ _ _ _ _ _
  | .atom c _ _ _ _ _ _ _ _ | .atomr c _ _ _ _ _ _ _ | .fence c _ _ | .pin c _ _ | .unpin c _ _
  | .icinv c _ _ | .pref c _ _ | .launch c _ | .spawn c _ _ _ | .depdec c _
  | .phend c _ | .tbar c | .tdone c | .fwait c _ _ _ _ | .fsetFuture c _ _ _ _ _
  | .ftest c _ _ _ | .lock c _ _ | .unlock c _ _ | .chpush c _ _ _ _ | .chpop c _ _ _ _
  | .waitc c _ _ _ | .trap c _ | .tret c _ | .replay c | .unwind c
  | .endg c | .frqpop c _ | .mapreq c _ _ | .srd c _ _ | .swr c _ _
  | .uread c _ _ _ | .uwrite c _ _ _ | .bkpt c _ | .put c _ _ _ _ | .get c _ _ _ _
  | .ratom c _ _ _ _ _ _ | .coll c _ _ _ _ _ | .wstat c _ _ _ => some c
  | _ => none

/-- The control fields of an instruction in either form. -/
def Instr.ctl (i : Instr) : Option Ctl := i.core.coreCtl

/-- The operand fields of an instruction in either form. -/
def Instr.slots (i : Instr) : List Slot := i.core.coreSlots

/-- The destination slot that an instruction writes, if it writes one. -/
def Instr.dest (i : Instr) : Option Slot := i.slots.find? fun sl => sl.role.writes

/-- The slots that an instruction reads. -/
def Instr.reads (i : Instr) : List Slot := i.slots.filter fun sl => sl.role.reads

/-- Whether an instruction is result-producing (R108): its D field is a destination, and it is not MOVW. -/
def Instr.producesResult (i : Instr) : Bool :=
  match i.core with
  | .movw .. => false
  | _ => i.dest.isSome

/-- The queue that a Q-level field names, if one does: true for a source (a pop), false for a destination (a push). -/
def Instr.qField (i : Instr) : Option (Bool × Nat) :=
  (i.slots.find? fun sl => sl.op.lvl == .q).map fun sl => (sl.role.reads, sl.op.idx.toNat)

end Sys2Proof
end

