-- ==== Sys2Proof/WellFormed.lean ====
section
/-! DEFINITION. Which terms of `Instr` are instructions of the device: the control, modifier and operand rules of R45 to R59
that depend on the word alone. Rules that depend on the running group (the D allotment, the width) are made at issue (R40). -/

namespace Sys2Proof

/-- The control rule of R49: SET 12 to 14 is refused, and COPY .flag and MAPREQ need a set flag. -/
def Instr.controlOk (i : Instr) : Bool :=
  match i.ctl with
  | none => true
  | some c =>
    (c.set.toNat ≤ 11 || c.set == 15) &&
    (match i.core with
     | .copy _ _ _ .flag .. | .mapreq .. => c.set != 15
     | _ => true)

/-- Element index limits of PACK and UNPK (R178). -/
def packLimit (unpack : Bool) : Ty → Option Nat
  | .f16 | .bf16 => some (if unpack then 1 else 0)
  | .e4m3 | .e5m2 => some (if unpack then 3 else 1)
  | .e3m2 | .e2m3 => some (if unpack then 4 else 2)
  | .e2m1 => some (if unpack then 7 else 3)
  | _ => none

/-- Types of a memory access (R252). -/
def memTy : Ty → Bool
  | .z8 | .s8 | .z16 | .s16 | .z32 | .s32 | .z64 => true
  | _ => false

/-- Types of an atomic operation: .f32 with .add only (R59). -/
def atomTy (op : AtomOp) : Ty → Bool
  | .s32 | .z32 | .s64 | .z64 => true
  | .f32 => op == .add
  | _ => false

/-- The three wide float types (R63). -/
def wideFloat : Ty → Bool
  | .f32 | .f16 | .bf16 => true
  | _ => false

def is3264u (ty : Ty) : Bool := ty == .z32 || ty == .z64
def is32 (ty : Ty) : Bool := ty == .s32 || ty == .z32

/-- The modifier rules of R54 to R59 on the modifiers that a constructor carries. -/
def Instr.coreModOk : Instr → Bool
  | .mov _ ty .. | .sel _ ty .. => is3264u ty
  | .iadd _ ty .. | .isub _ ty .. | .iaddImm _ ty .. | .isubImm _ ty .. => is32 ty
  | .iadd64 _ ty .. => ty == .s64 || ty == .z64
  | .imul _ ty .. | .imulh _ ty .. | .imulImm _ ty .. | .imad _ ty .. | .imadw _ ty .. | .idiv _ ty .. | .irem _ ty ..
  | .imin _ ty .. | .imax _ ty .. => is32 ty
  | .lea _ ty sb .. => is3264u ty && (!sb || ty == .z64)
  | .and _ ty .. | .or _ ty .. | .xor _ ty .. | .andn _ ty .. | .not _ ty .. | .shl _ ty .. | .shr _ ty .. | .rot _ ty .. =>
    is3264u ty
  | .sar _ ty .. => ty == .s32 || ty == .s64
  | .bfe _ ty .. => is32 ty
  | .popc _ ty .. | .clz _ ty .. | .brev _ ty .. => is3264u ty
  | .iset _ cmp ty .. => (is32 ty || ty.is64) && cmp != .un && cmp != .ord
  | .hfma2 _ ty .. => ty == .f16 || ty == .bf16
  | .f2i _ ty sty .. =>
    (match ty with | .s32 | .z32 | .s64 | .z64 | .s16 | .z16 | .s8 | .z8 => true | _ => false) && wideFloat sty
  | .i2f _ ty sty .. => wideFloat ty && (is32 sty || sty.is64)
  | .cvt _ ty sty .. => wideFloat ty && wideFloat sty && ty != sty
  | .pack _ ty elt .. => match packLimit false ty with | some n => elt.toNat ≤ n | none => false
  | .unpk _ ty elt .. => match packLimit true ty with | some n => elt.toNat ≤ n | none => false
  | .fdot4 _ ty .. => ty == .e4m3 || ty == .e5m2
  | .shfl _ _ ty .. | .matchI _ ty .. => is3264u ty
  | .pset _ _ cmp ty .. =>
    (ty == .f32 || ((is32 ty || ty.is64) && cmp != .un && cmp != .ord))
  | .cmprs _ ty .. =>
    (match ty with
     | .bf16 | .f16 | .e4m3 | .e5m2 | .e3m2 | .e2m3 | .e2m1 | .s8 | .z8 | .s4 | .z4 => true
     | _ => false)
  | .copy _ sp dsp kind qn .. =>
    sp != .lane && dsp != .lane && (kind == .push || qn == 0)
  | .aqput _ _ sp .. => sp != .lane
  | .ld _ _ ty .. | .ldx _ _ ty .. => memTy ty
  | .st _ sp ty _ nr .. => memTy ty && (!nr || sp == .glob)
  | .stx _ sp ty _ nr .. => memTy ty && (!nr || sp == .glob)
  | .atom _ sp ty op .. => sp != .lane && atomTy op ty
  | .atomr _ sp ty op .. => sp != .lane && atomTy op ty && op != .exch && op != .cas
  | .ratom _ ty op .. => atomTy op ty
  | .fwait _ ty .. | .fsetFuture _ ty .. | .chpush _ ty .. | .chpop _ ty .. => is3264u ty
  | .coll _ cop _ cred .. => (cop == .allreduce || cop == .reducescatter) || cred == .sum
  | _ => true

/-- The modifier rules, in either form. -/
def Instr.modOk (i : Instr) : Bool := i.core.coreModOk

/-- The static operand rules: every field's role, at most one Q field (R45), the join offset of BRC (R44), and the fields that
a modifier leaves unused (R48): source C of a plain PSET, and D of COPY .flag. -/
def Instr.operandsOk (i : Instr) : Bool :=
  (i.slots.all fun sl => sl.role.ok sl.op) &&
  (i.slots.filter fun sl => sl.op.lvl == .q).length ≤ 1 &&
  (match i with
   | .brc _ _ _ j => j != 0
   | .pset _ .plain _ _ _ _ _ x => x == .null
   | .copy _ _ _ .flag _ d .. => d == .null
   | _ => true)

/-- A well-formed step. Every event is well-formed: it is no word. -/
def Instr.wf (i : Instr) : Bool := i.controlOk && i.modOk && i.operandsOk

end Sys2Proof
end

