-- ==== Sys2Proof/Decode.lean ====
section
/-! DEFINITION. The decoder, total on any bits, and the encoder (R36 to R59). -/

namespace Sys2Proof

/-- The five fates of what is not an instruction, in the order of R53's table, and the number of the trap that each one
raises (R333). -/
inductive Fate where
  | straddle | control | opcode | modifier | operand
  deriving DecidableEq, Repr

/-- The fields of the 96-bit internal word (R42). The I and B variants reuse the low 44 bits (R43, R44). -/
structure Fields where
  ctl : Ctl
  opc : BitVec 8
  mod : BitVec 16
  dst : BitVec 11
  a : BitVec 11
  b : BitVec 11
  x : BitVec 11
  deriving DecidableEq, Repr

/-- The level codes of R45. -/
def Level.code : Level → BitVec 3
  | .w => 0 | .n => 1 | .d => 2 | .s => 3 | .t => 4 | .k => 5 | .i => 6 | .q => 7

def Level.ofCode (v : BitVec 3) : Level :=
  match v.toNat with
  | 0 => .w | 1 => .n | 2 => .d | 3 => .s | 4 => .t | 5 => .k | 6 => .i | _ => .q

/-- An operand field as 11 bits: the level in [10:8], the index in [7:0] (R45). -/
def Opnd.bits (o : Opnd) : BitVec 11 := o.lvl.code ++ o.idx

def Opnd.ofBits (v : BitVec 11) : Opnd := ⟨Level.ofCode (v.extractLsb' 8 3), v.extractLsb' 0 8⟩

/-- The null operand's encoding (R48). -/
def nul : BitVec 11 := 0x600

/-- The type codes of R55. -/
def Ty.code : Ty → BitVec 5
  | .z32 => 0 | .s32 => 1 | .z64 => 2 | .s64 => 3 | .z16 => 4 | .s16 => 5 | .z8 => 6 | .s8 => 7 | .z4 => 8 | .s4 => 9
  | .f32 => 10 | .f16 => 11 | .bf16 => 12 | .e4m3 => 13 | .e5m2 => 14 | .e3m2 => 15 | .e2m3 => 16 | .e2m1 => 17

/-- Codes 18 to 31 are reserved (R55). -/
def Ty.ofCode (v : BitVec 5) : Option Ty :=
  match v.toNat with
  | 0 => some .z32 | 1 => some .s32 | 2 => some .z64 | 3 => some .s64 | 4 => some .z16 | 5 => some .s16 | 6 => some .z8
  | 7 => some .s8 | 8 => some .z4 | 9 => some .s4 | 10 => some .f32 | 11 => some .f16 | 12 => some .bf16
  | 13 => some .e4m3 | 14 => some .e5m2 | 15 => some .e3m2 | 16 => some .e2m3 | 17 => some .e2m1 | _ => none

def Rnd.code : Rnd → BitVec 2
  | .rn => 0 | .rz => 1 | .ru => 2 | .rd => 3

def Rnd.ofCode (v : BitVec 2) : Rnd :=
  match v.toNat with
  | 0 => .rn | 1 => .rz | 2 => .ru | _ => .rd

def Cmp.code : Cmp → BitVec 3
  | .eq => 0 | .ne => 1 | .lt => 2 | .le => 3 | .gt => 4 | .ge => 5 | .un => 6 | .ord => 7

def Cmp.ofCode (v : BitVec 3) : Cmp :=
  match v.toNat with
  | 0 => .eq | 1 => .ne | 2 => .lt | 3 => .le | 4 => .gt | 5 => .ge | 6 => .un | _ => .ord

def MoviTy.code : MoviTy → BitVec 2
  | .z32 => 0 | .z64 => 1 | .s64 => 2

def MoviTy.ofCode (v : BitVec 2) : Option MoviTy :=
  match v.toNat with
  | 0 => some .z32 | 1 => some .z64 | 2 => some .s64 | _ => none

def Hint.code : Hint → BitVec 2
  | .none => 0 | .likely => 1 | .unlikely => 2

def Hint.ofCode (v : BitVec 2) : Option Hint :=
  match v.toNat with
  | 0 => some Hint.none | 1 => some .likely | 2 => some .unlikely | _ => Option.none

def ShflMode.code : ShflMode → BitVec 3
  | .idx => 0 | .up => 1 | .down => 2 | .xor => 3

def ShflMode.ofCode (v : BitVec 3) : Option ShflMode :=
  match v.toNat with
  | 0 => some .idx | 1 => some .up | 2 => some .down | 3 => some .xor | _ => none

def VoteMode.code : VoteMode → BitVec 3
  | .every => 0 | .some => 1 | .same => 2 | .mask => 3 | .count => 4 | .first => 5

def VoteMode.ofCode (v : BitVec 3) : Option VoteMode :=
  match v.toNat with
  | 0 => Option.some .every | 1 => Option.some VoteMode.some | 2 => Option.some .same | 3 => Option.some .mask
  | 4 => Option.some .count | 5 => Option.some .first | _ => none

def PsetComb.code : PsetComb → BitVec 3
  | .plain => 0 | .and => 1 | .or => 2

def PsetComb.ofCode (v : BitVec 3) : Option PsetComb :=
  match v.toNat with
  | 0 => some .plain | 1 => some .and | 2 => some .or | _ => none

/-- The space codes of class 110 (R59). -/
def Space.code : Space → BitVec 3
  | .glob => 0 | .pool => 1 | .core => 2 | .lane => 3

def Space.ofCode (v : BitVec 3) : Option Space :=
  match v.toNat with
  | 0 => some .glob | 1 => some .pool | 2 => some .core | 3 => some .lane | _ => none

def Scope.code : Scope → BitVec 3
  | .group => 0 | .team => 1 | .cluster => 2 | .device => 3 | .system => 4

def Scope.ofCode (v : BitVec 3) : Option Scope :=
  match v.toNat with
  | 0 => some .group | 1 => some .team | 2 => some .cluster | 3 => some .device | 4 => some .system | _ => none

def FenceHalf.code : FenceHalf → BitVec 2
  | .full => 0 | .rel => 1 | .acq => 2

def FenceHalf.ofCode (v : BitVec 2) : Option FenceHalf :=
  match v.toNat with
  | 0 => some .full | 1 => some .rel | 2 => some .acq | _ => none

def AtomOp.code : AtomOp → BitVec 4
  | .add => 0 | .min => 1 | .max => 2 | .and => 3 | .or => 4 | .xor => 5 | .exch => 6 | .cas => 7

def AtomOp.ofCode (v : BitVec 4) : Option AtomOp :=
  match v.toNat with
  | 0 => some .add | 1 => some .min | 2 => some .max | 3 => some .and | 4 => some .or | 5 => some .xor | 6 => some .exch
  | 7 => some .cas | _ => none

def CopyKind.code : CopyKind → BitVec 2
  | .push => 0 | .count => 1 | .flag => 2

def CopyKind.ofCode (v : BitVec 2) : Option CopyKind :=
  match v.toNat with
  | 0 => some .push | 1 => some .count | 2 => some .flag | _ => none

def CollOp.code : CollOp → BitVec 2
  | .allreduce => 0 | .allgather => 1 | .reducescatter => 2 | .broadcast => 3

def CollOp.ofCode (v : BitVec 2) : CollOp :=
  match v.toNat with
  | 0 => .allreduce | 1 => .allgather | 2 => .reducescatter | _ => .broadcast

def CollFmt.code : CollFmt → BitVec 3
  | .f32 => 0 | .bf16 => 1 | .f16 => 2 | .s32 => 3 | .s64 => 4

def CollFmt.ofCode (v : BitVec 3) : Option CollFmt :=
  match v.toNat with
  | 0 => some .f32 | 1 => some .bf16 | 2 => some .f16 | 3 => some .s32 | 4 => some .s64 | _ => none

def CollRed.code : CollRed → BitVec 2
  | .sum => 0 | .min => 1 | .max => 2

def CollRed.ofCode (v : BitVec 2) : Option CollRed :=
  match v.toNat with
  | 0 => some .sum | 1 => some .min | 2 => some .max | _ => none

def bit (b : Bool) : BitVec 1 := BitVec.ofBool b

/-- The common modifier layout G (R54). -/
def gMod (sub : BitVec 3) (ty : Ty) (rnd : Rnd := .rn) (ftz sat : Bool := false) (cmp : Cmp := .eq) : BitVec 16 :=
  (0#1) ++ cmp.code ++ bit sat ++ bit ftz ++ rnd.code ++ ty.code ++ sub

def mSub (m : BitVec 16) : BitVec 3 := m.extractLsb' 0 3
def mTy (m : BitVec 16) : Option Ty := Ty.ofCode (m.extractLsb' 3 5)
def mRnd (m : BitVec 16) : Rnd := Rnd.ofCode (m.extractLsb' 8 2)
def mFtz (m : BitVec 16) : Bool := m.getLsbD 10
def mSat (m : BitVec 16) : Bool := m.getLsbD 11
def mCmp (m : BitVec 16) : Cmp := Cmp.ofCode (m.extractLsb' 12 3)

/-- The 32-bit immediate of the I variant: IMMH in [53:44], IMML in [21:0] (R43). -/
def immOf (f : Fields) : BitVec 32 := f.mod.extractLsb' 0 10 ++ f.b ++ f.x

/-- IMOD, bits [59:54] (R43). -/
def imodOf (f : Fields) : BitVec 6 := f.mod.extractLsb' 10 6

/-- TARGET and JOIN of the B variant (R44). -/
def targetOf (f : Fields) : BitVec 24 := (f.dst ++ f.a ++ f.b ++ f.x).extractLsb' 0 24
def joinOf (f : Fields) : BitVec 20 := (f.dst ++ f.a ++ f.b ++ f.x).extractLsb' 24 20

/-- Fields of an R variant. -/
def rF (c : Ctl) (opc : BitVec 8) (mod : BitVec 16) (d a b x : BitVec 11) : Fields := ⟨c, opc, mod, d, a, b, x⟩

/-- Fields of an I variant. -/
def iF (c : Ctl) (opc : BitVec 8) (imod : BitVec 6) (d a : BitVec 11) (imm : BitVec 32) : Fields :=
  ⟨c, opc, imod ++ imm.extractLsb' 22 10, d, a, imm.extractLsb' 11 11, imm.extractLsb' 0 11⟩

/-- Fields of a B variant. -/
def bF (c : Ctl) (opc : BitVec 8) (mod : BitVec 16) (join : BitVec 20) (target : BitVec 24) : Fields :=
  let v : BitVec 44 := join ++ target
  ⟨c, opc, mod, v.extractLsb' 33 11, v.extractLsb' 22 11, v.extractLsb' 11 11, v.extractLsb' 0 11⟩

/-- The 96 bits of a full word, LEN 0b11 included (R42). -/
def Fields.bits (f : Fields) : BitVec 96 :=
  (3#2) ++ f.ctl.stall ++ f.ctl.wait ++ f.ctl.set ++ bit f.ctl.drain ++ bit f.ctl.yield ++ f.opc ++ bit f.ctl.gneg ++
    f.ctl.gpred ++ f.mod ++ f.dst ++ f.a ++ f.b ++ f.x

/-- The fields of a full word (R42). -/
def Fields.ofBits (w : BitVec 96) : Fields :=
  { ctl :=
      { stall := w.extractLsb' 90 4, wait := w.extractLsb' 78 12, set := w.extractLsb' 74 4, drain := w.getLsbD 73,
        yield := w.getLsbD 72, gneg := w.getLsbD 63, gpred := w.extractLsb' 60 3 }
    opc := w.extractLsb' 64 8
    mod := w.extractLsb' 44 16
    dst := w.extractLsb' 33 11
    a := w.extractLsb' 22 11
    b := w.extractLsb' 11 11
    x := w.extractLsb' 0 11 }

/-- A 7-bit operand of the 8-byte form: level [6:4], index [3:0] zero-extended (R50). -/
def opnd7 (v : BitVec 7) : BitVec 11 := v.extractLsb' 4 3 ++ (v.extractLsb' 0 4).setWidth 8

/-- The fields that an 8-byte word expands into (R50). -/
def Fields.of8 (w : BitVec 64) : Fields :=
  { ctl :=
      { stall := w.extractLsb' 58 4, set := w.extractLsb' 54 4, wait := w.extractLsb' 42 12, drain := w.getLsbD 41,
        yield := w.getLsbD 40, gneg := w.getLsbD 31, gpred := w.extractLsb' 28 3 }
    opc := w.extractLsb' 32 8
    mod := (w.extractLsb' 21 7).setWidth 16
    dst := opnd7 (w.extractLsb' 14 7)
    a := opnd7 (w.extractLsb' 7 7)
    b := opnd7 (w.extractLsb' 0 7)
    x := nul }

/-- The full word's fields of each instruction (R42 to R44, R59). An event has none. -/
def Instr.coreFields : Instr → Option Fields
  | .nop c => some (rF c 0x00 (0) nul nul nul nul)
  | .waitf c => some (rF c 0x00 (1) nul nul nul nul)
  | .sleep c a => some (rF c 0x00 (2) nul a.bits nul nul)
  | .yield c => some (rF c 0x00 (3) nul nul nul nul)
  | .mov c ty d a => some (rF c 0x01 (gMod 0 ty .rn false false .eq) d.bits a.bits nul nul)
  | .movw c d a => some (rF c 0x01 (gMod 1 .z64 .rn false false .eq) d.bits a.bits nul nul)
  | .movi c m d imm => some (iF c 0x02 ((0#4) ++ m.code) d.bits nul imm)
  | .sel c ty d a b x => some (rF c 0x03 (gMod 0 ty .rn false false .eq) d.bits a.bits b.bits x.bits)
  | .nrel c d => some (rF c 0x04 (0) d.bits nul nul nul)
  | .strand c entry => some (rF c 0x05 (entry) nul nul nul nul)
  | .park c => some (rF c 0x06 (0) nul nul nul nul)
  | .bra c target => some (bF c 0x07 0 0 target)
  | .brc c hint target j => some (bF c 0x08 (hint.code.setWidth 16) j target)
  | .brx c hint a b => some (rF c 0x09 (hint.code.setWidth 16) nul a.bits b.bits nul)
  | .call c target => some (bF c 0x0A 0 0 target)
  | .callx c a => some (rF c 0x0B (0) nul a.bits nul nul)
  | .ret c => some (rF c 0x0C (0) nul nul nul nul)
  | .join c => some (rF c 0x0C (1) nul nul nul nul)
  | .exit c => some (rF c 0x0C (2) nul nul nul nul)
  | .iadd c ty sat d a b => some (rF c 0x20 (gMod 0 ty .rn false sat .eq) d.bits a.bits b.bits nul)
  | .isub c ty sat d a b => some (rF c 0x20 (gMod 1 ty .rn false sat .eq) d.bits a.bits b.bits nul)
  | .iadd64 c ty sat d a b => some (rF c 0x20 (gMod 3 ty .rn false sat .eq) d.bits a.bits b.bits nul)
  | .iaddImm c ty sat d a imm => some (iF c 0x21 ((0#3) ++ bit sat ++ bit (ty == .z32) ++ 0#1) d.bits a.bits imm)
  | .isubImm c ty sat d a imm => some (iF c 0x21 ((0#3) ++ bit sat ++ bit (ty == .z32) ++ 1#1) d.bits a.bits imm)
  | .iaddc c d a b x => some (rF c 0x20 (gMod 2 .z32 .rn false false .eq) d.bits a.bits b.bits x.bits)
  | .imul c ty d a b => some (rF c 0x22 (gMod 0 ty .rn false false .eq) d.bits a.bits b.bits nul)
  | .imulh c ty d a b => some (rF c 0x22 (gMod 1 ty .rn false false .eq) d.bits a.bits b.bits nul)
  | .imulImm c ty d a imm => some (iF c 0x23 ((0#5) ++ bit (ty == .z32)) d.bits a.bits imm)
  | .imad c ty d a b x => some (rF c 0x24 (gMod 0 ty .rn false false .eq) d.bits a.bits b.bits x.bits)
  | .imadw c ty d a b x => some (rF c 0x24 (gMod 1 ty .rn false false .eq) d.bits a.bits b.bits x.bits)
  | .idiv c ty d a b => some (rF c 0x25 (gMod 0 ty .rn false false .eq) d.bits a.bits b.bits nul)
  | .irem c ty d a b => some (rF c 0x25 (gMod 1 ty .rn false false .eq) d.bits a.bits b.bits nul)
  | .imin c ty d a b => some (rF c 0x26 (gMod 0 ty .rn false false .eq) d.bits a.bits b.bits nul)
  | .imax c ty d a b => some (rF c 0x26 (gMod 1 ty .rn false false .eq) d.bits a.bits b.bits nul)
  | .iabs c sat d a => some (rF c 0x26 (gMod 2 .s32 .rn false sat .eq) d.bits a.bits nul nul)
  | .ineg c sat d a => some (rF c 0x26 (gMod 3 .s32 .rn false sat .eq) d.bits a.bits nul nul)
  | .lea c ty sb d a b x => some (rF c 0x27 (gMod ((0#2) ++ bit sb) ty) d.bits a.bits b.bits x.bits)
  | .and c ty d a b => some (rF c 0x28 (gMod 0 ty .rn false false .eq) d.bits a.bits b.bits nul)
  | .or c ty d a b => some (rF c 0x28 (gMod 1 ty .rn false false .eq) d.bits a.bits b.bits nul)
  | .xor c ty d a b => some (rF c 0x28 (gMod 2 ty .rn false false .eq) d.bits a.bits b.bits nul)
  | .andn c ty d a b => some (rF c 0x28 (gMod 3 ty .rn false false .eq) d.bits a.bits b.bits nul)
  | .not c ty d a => some (rF c 0x28 (gMod 4 ty .rn false false .eq) d.bits a.bits nul nul)
  | .andImm c d a imm => some (iF c 0x29 0 d.bits a.bits imm)
  | .orImm c d a imm => some (iF c 0x29 1 d.bits a.bits imm)
  | .xorImm c d a imm => some (iF c 0x29 2 d.bits a.bits imm)
  | .andnImm c d a imm => some (iF c 0x29 3 d.bits a.bits imm)
  | .shl c ty d a b => some (rF c 0x2A (gMod 0 ty .rn false false .eq) d.bits a.bits b.bits nul)
  | .shr c ty d a b => some (rF c 0x2A (gMod 1 ty .rn false false .eq) d.bits a.bits b.bits nul)
  | .sar c ty d a b => some (rF c 0x2A (gMod 2 ty .rn false false .eq) d.bits a.bits b.bits nul)
  | .rot c ty d a b => some (rF c 0x2A (gMod 3 ty .rn false false .eq) d.bits a.bits b.bits nul)
  | .shf c left d a b x => some (rF c 0x2A ((0#3) ++ bit left ++ (4#12)) d.bits a.bits b.bits x.bits)
  | .bfe c ty d a b => some (rF c 0x2B (gMod 0 ty .rn false false .eq) d.bits a.bits b.bits nul)
  | .bfi c d a b x => some (rF c 0x2B (gMod 1 .z32 .rn false false .eq) d.bits a.bits b.bits x.bits)
  | .popc c ty d a => some (rF c 0x2C (gMod 0 ty .rn false false .eq) d.bits a.bits nul nul)
  | .clz c ty d a => some (rF c 0x2C (gMod 1 ty .rn false false .eq) d.bits a.bits nul nul)
  | .brev c ty d a => some (rF c 0x2C (gMod 2 ty .rn false false .eq) d.bits a.bits nul nul)
  | .prmb c d a b x => some (rF c 0x2D (0) d.bits a.bits b.bits x.bits)
  | .iset c cmp ty d a b => some (rF c 0x2E (gMod 0 ty .rn false false cmp) d.bits a.bits b.bits nul)
  | .fadd c rnd ftz d a b => some (rF c 0x40 (gMod 0 .f32 rnd ftz false .eq) d.bits a.bits b.bits nul)
  | .fsub c rnd ftz d a b => some (rF c 0x40 (gMod 1 .f32 rnd ftz false .eq) d.bits a.bits b.bits nul)
  | .fmul c rnd ftz d a b => some (rF c 0x40 (gMod 2 .f32 rnd ftz false .eq) d.bits a.bits b.bits nul)
  | .fmin c ftz d a b => some (rF c 0x40 (gMod 3 .f32 .rn ftz false .eq) d.bits a.bits b.bits nul)
  | .fmax c ftz d a b => some (rF c 0x40 (gMod 4 .f32 .rn ftz false .eq) d.bits a.bits b.bits nul)
  | .faddImm c rnd ftz d a imm => some (iF c 0x41 (bit ftz ++ rnd.code ++ 0#3) d.bits a.bits imm)
  | .fsubImm c rnd ftz d a imm => some (iF c 0x41 (bit ftz ++ rnd.code ++ 1#3) d.bits a.bits imm)
  | .fmulImm c rnd ftz d a imm => some (iF c 0x41 (bit ftz ++ rnd.code ++ 2#3) d.bits a.bits imm)
  | .fminImm c ftz d a imm => some (iF c 0x41 (bit ftz ++ (0#2) ++ 3#3) d.bits a.bits imm)
  | .fmaxImm c ftz d a imm => some (iF c 0x41 (bit ftz ++ (0#2) ++ 4#3) d.bits a.bits imm)
  | .ffma c rnd ftz d a b x => some (rF c 0x42 (gMod 0 .f32 rnd ftz false .eq) d.bits a.bits b.bits x.bits)
  | .fsetCompare c cmp ftz d a b => some (rF c 0x43 (gMod 0 .f32 .rn ftz false cmp) d.bits a.bits b.bits nul)
  | .frcp c ftz d a => some (rF c 0x45 (gMod 0 .f32 .rn ftz false .eq) d.bits a.bits nul nul)
  | .frsq c ftz d a => some (rF c 0x45 (gMod 1 .f32 .rn ftz false .eq) d.bits a.bits nul nul)
  | .fsqrt c ftz d a => some (rF c 0x45 (gMod 2 .f32 .rn ftz false .eq) d.bits a.bits nul nul)
  | .fex2 c ftz d a => some (rF c 0x45 (gMod 3 .f32 .rn ftz false .eq) d.bits a.bits nul nul)
  | .flg2 c ftz d a => some (rF c 0x45 (gMod 4 .f32 .rn ftz false .eq) d.bits a.bits nul nul)
  | .fsin c ftz d a => some (rF c 0x45 (gMod 5 .f32 .rn ftz false .eq) d.bits a.bits nul nul)
  | .fcos c ftz d a => some (rF c 0x45 (gMod 6 .f32 .rn ftz false .eq) d.bits a.bits nul nul)
  | .hfma2 c ty sw bc nc rnd ftz d a b x => some (rF c 0x46 (gMod (bit nc ++ bit bc ++ bit sw) ty rnd ftz) d.bits a.bits b.bits x.bits)
  | .f2i c ty sty rnd ftz d a => some (rF c 0x44 (sty.code ++ bit ftz ++ rnd.code ++ ty.code ++ 0#3) d.bits a.bits nul nul)
  | .i2f c ty sty rnd ftz d a => some (rF c 0x44 (sty.code ++ bit ftz ++ rnd.code ++ ty.code ++ 1#3) d.bits a.bits nul nul)
  | .cvt c ty sty rnd ftz d a => some (rF c 0x44 (sty.code ++ bit ftz ++ rnd.code ++ ty.code ++ 2#3) d.bits a.bits nul nul)
  | .frnd c rnd ftz d a => some (rF c 0x44 ((0#5) ++ bit ftz ++ rnd.code ++ Ty.f32.code ++ 3#3) d.bits a.bits nul nul)
  | .pack c ty elt rnd ftz d a b x => some (rF c 0x47 (elt ++ (0#1) ++ bit ftz ++ rnd.code ++ ty.code ++ 0#3) d.bits a.bits b.bits x.bits)
  | .unpk c ty elt ftz d a => some (rF c 0x47 (elt ++ (0#1) ++ bit ftz ++ (0#2) ++ ty.code ++ 1#3) d.bits a.bits nul nul)
  | .dot4 c d a b x => some (rF c 0x48 (gMod 0 .s8 .rn false false .eq) d.bits a.bits b.bits x.bits)
  | .dot8 c d a b x => some (rF c 0x48 (gMod 1 .s4 .rn false false .eq) d.bits a.bits b.bits x.bits)
  | .fdot4 c ty d a b x => some (rF c 0x48 (gMod 2 ty .rn false false .eq) d.bits a.bits b.bits x.bits)
  | .shfl c sm ty d a b x => some (rF c 0x60 (gMod sm.code ty) d.bits a.bits b.bits x.bits)
  | .vote c vm d a => some (rF c 0x61 (gMod vm.code .z32) d.bits a.bits nul nul)
  | .matchI c ty d a => some (rF c 0x62 (gMod 0 ty .rn false false .eq) d.bits a.bits nul nul)
  | .pset c pc cmp ty d a b x => some (rF c 0x63 (gMod pc.code ty .rn false false cmp) d.bits a.bits b.bits x.bits)
  | .pmovGet c d => some (rF c 0x64 (0) d.bits nul nul nul)
  | .pmovSet c a => some (rF c 0x64 (1) nul a.bits nul nul)
  | .mma c cn a b x => some (rF c 0x80 (cn.setWidth 16) nul a.bits b.bits x.bits)
  | .mmas c cn d a b x => some (rF c 0x81 (cn.setWidth 16) d.bits a.bits b.bits x.bits)
  | .mmab c cn d a b x => some (rF c 0x82 (cn.setWidth 16) d.bits a.bits b.bits x.bits)
  | .cmprs c ty a b x => some (rF c 0x83 (gMod 0 ty .rn false false .eq) nul a.bits b.bits x.bits)
  | .cclr c cn => some (rF c 0x84 (cn.setWidth 16) nul nul nul nul)
  | .cld c cn a x => some (rF c 0x85 (cn.setWidth 16) nul a.bits nul x.bits)
  | .cscl c cn a => some (rF c 0x87 (cn.setWidth 16) nul a.bits nul nul)
  | .cst c cn a b x => some (rF c 0x86 (cn.setWidth 16) nul a.bits b.bits x.bits)
  | .qinit c qn a b => some (rF c 0xA0 (qn.setWidth 16) nul a.bits b.bits nul)
  | .qpush c qn a => some (rF c 0xA1 (qn.setWidth 16) nul a.bits nul nul)
  | .qpop c qn d => some (rF c 0xA2 (qn.setWidth 16) d.bits nul nul nul)
  | .qstat c qn d => some (rF c 0xA3 (qn.setWidth 16) d.bits nul nul nul)
  | .copy c sp dsp kind qn d a b x => some (rF c 0xA4 ((0#6) ++ qn ++ kind.code ++ (dsp.code.extractLsb' 0 2) ++ (sp.code.extractLsb' 0 2)) d.bits a.bits b.bits x.bits)
  | .reel c qn slice d => some (rF c 0xA5 (slice ++ qn) d.bits nul nul nul)
  | .reelw c stop a => some (rF c 0xA6 ((0#15) ++ bit stop) nul a.bits nul nul)
  | .aloop c d a => some (rF c 0xA7 (0) d.bits a.bits nul nul)
  | .aqput c qn sp a b => some (rF c 0xA8 ((0#10) ++ (sp.code.extractLsb' 0 2) ++ qn) nul a.bits b.bits nul)
  | .aend c => some (rF c 0xA9 (0) nul nul nul nul)
  | .ld c sp ty acq d a x => some (rF c 0xC0 ((0#7) ++ bit acq ++ ty.code ++ sp.code) d.bits a.bits nul x.bits)
  | .st c sp ty rel nr a b x => some (rF c 0xC1 ((0#6) ++ bit nr ++ bit rel ++ ty.code ++ sp.code) nul a.bits b.bits x.bits)
  | .ldx c sp ty cb d a x => some (rF c 0xC2 ((0#6) ++ cb ++ ty.code ++ sp.code) d.bits a.bits nul x.bits)
  | .stx c sp ty cb nr a b x => some (rF c 0xC3 ((0#5) ++ bit nr ++ cb ++ ty.code ++ sp.code) nul a.bits b.bits x.bits)
  | .atom c sp ty aop scope d a b x => some (rF c 0xC4 ((0#1) ++ scope.code ++ aop.code ++ ty.code ++ sp.code) d.bits a.bits b.bits x.bits)
  | .atomr c sp ty aop scope a b x => some (rF c 0xC4 ((1#1) ++ scope.code ++ aop.code ++ ty.code ++ sp.code) nul a.bits b.bits x.bits)
  | .fence c scope half => some (rF c 0xC5 ((0#11) ++ half.code ++ scope.code) nul nul nul nul)
  | .pin c a b => some (rF c 0xC6 (0) nul a.bits b.bits nul)
  | .unpin c a b => some (rF c 0xC6 (1) nul a.bits b.bits nul)
  | .icinv c a b => some (rF c 0xC7 (0) nul a.bits b.bits nul)
  | .pref c a x => some (rF c 0xC8 (0) nul a.bits nul x.bits)
  | .launch c a => some (rF c 0xC9 (0) nul a.bits nul nul)
  | .spawn c d a b => some (rF c 0xCA (0) d.bits a.bits b.bits nul)
  | .depdec c a => some (rF c 0xCB (0) nul a.bits nul nul)
  | .phend c carry => some (rF c 0xCC (carry) nul nul nul nul)
  | .tbar c => some (rF c 0xCD (0) nul nul nul nul)
  | .tdone c => some (rF c 0xCE (0) nul nul nul nul)
  | .fwait c ty d a x => some (rF c 0xCF ((0#8) ++ ty.code ++ 0#3) d.bits a.bits nul x.bits)
  | .fsetFuture c ty status a b x => some (rF c 0xD0 (status ++ ty.code ++ 0#3) nul a.bits b.bits x.bits)
  | .ftest c d a x => some (rF c 0xD1 (0) d.bits a.bits nul x.bits)
  | .lock c a x => some (rF c 0xD2 (0) nul a.bits nul x.bits)
  | .unlock c a x => some (rF c 0xD2 (1) nul a.bits nul x.bits)
  | .chpush c ty a b x => some (rF c 0xD3 ((0#8) ++ ty.code ++ 0#3) nul a.bits b.bits x.bits)
  | .chpop c ty d a x => some (rF c 0xD3 ((0#8) ++ ty.code ++ 1#3) d.bits a.bits nul x.bits)
  | .waitc c a b x => some (rF c 0xD4 (0) nul a.bits b.bits x.bits)
  | .trap c code => some (rF c 0xE0 (code.setWidth 16) nul nul nul nul)
  | .tret c skip => some (rF c 0xE1 ((0#15) ++ bit skip) nul nul nul nul)
  | .replay c => some (rF c 0xE2 (0) nul nul nul nul)
  | .unwind c => some (rF c 0xE3 (0) nul nul nul nul)
  | .endg c => some (rF c 0xE3 (1) nul nul nul nul)
  | .frqpop c d => some (rF c 0xE4 (0) d.bits nul nul nul)
  | .mapreq c a b => some (rF c 0xE5 (0) nul a.bits b.bits nul)
  | .srd c num d => some (rF c 0xE6 (num ++ 0#4) d.bits nul nul nul)
  | .swr c num a => some (rF c 0xE6 (num ++ 1#4) nul a.bits nul nul)
  | .uread c wide u d => some (rF c 0xE7 ((0#4) ++ bit wide ++ u.bits) d.bits nul nul nul)
  | .uwrite c wide u a => some (rF c 0xE8 ((0#4) ++ bit wide ++ u.bits) nul a.bits nul nul)
  | .bkpt c tag => some (rF c 0xE9 (tag.setWidth 16) nul nul nul nul)
  | .put c d a b x => some (rF c 0xEA (0) d.bits a.bits b.bits x.bits)
  | .get c d a b x => some (rF c 0xEB (0) d.bits a.bits b.bits x.bits)
  | .ratom c ty aop d a b x => some (rF c 0xEC ((0#4) ++ aop.code ++ ty.code ++ 0#3) d.bits a.bits b.bits x.bits)
  | .coll c cop cfmt cred a b => some (rF c 0xED ((0#9) ++ cred.code ++ cfmt.code ++ cop.code) nul a.bits b.bits nul)
  | .wstat c arrived d a => some (rF c 0xEE ((0#15) ++ bit arrived) d.bits a.bits nul nul)
  | _ => none

/-- Reads the operand fields and the modifier fields that R59 gives each opcode, without checking the rest of the word:
`none` where a defined modifier field holds an unused value. The check that nothing else is set is `decodeFields`'s. -/
def Fields.read (f : Fields) : Option Instr :=
  let c := f.ctl
  let m := f.mod
  let d := Opnd.ofBits f.dst
  let a := Opnd.ofBits f.a
  let b := Opnd.ofBits f.b
  let x := Opnd.ofBits f.x
  let sub := (mSub m).toNat
  let cn := m.extractLsb' 0 2
  let qn := m.extractLsb' 0 4
  let imm := immOf f
  let im := imodOf f
  match f.opc.toNat with
  | 0x00 =>
    match m.toNat with
    | 0 => some (.nop c) | 1 => some (.waitf c) | 2 => some (.sleep c a) | 3 => some (.yield c) | _ => none
  | 0x01 => do
    let ty ← mTy m
    match sub with
    | 0 => some (.mov c ty d a) | 1 => some (.movw c d a) | _ => none
  | 0x02 => do some (.movi c (← MoviTy.ofCode (im.extractLsb' 0 2)) d imm)
  | 0x03 => do some (.sel c (← mTy m) d a b x)
  | 0x04 => some (.nrel c d)
  | 0x05 => some (.strand c m)
  | 0x06 => some (.park c)
  | 0x07 => some (.bra c (targetOf f))
  | 0x08 => do some (.brc c (← Hint.ofCode (m.extractLsb' 0 2)) (targetOf f) (joinOf f))
  | 0x09 => do some (.brx c (← Hint.ofCode (m.extractLsb' 0 2)) a b)
  | 0x0A => some (.call c (targetOf f))
  | 0x0B => some (.callx c a)
  | 0x0C =>
    match m.toNat with
    | 0 => some (.ret c) | 1 => some (.join c) | 2 => some (.exit c) | _ => none
  | 0x20 => do
    let ty ← mTy m
    match sub with
    | 0 => some (.iadd c ty (mSat m) d a b) | 1 => some (.isub c ty (mSat m) d a b)
    | 2 => some (.iaddc c d a b x) | 3 => some (.iadd64 c ty (mSat m) d a b) | _ => none
  | 0x21 =>
    let ty := if im.getLsbD 1 then Ty.z32 else .s32
    some (if im.getLsbD 0 then .isubImm c ty (im.getLsbD 2) d a imm else .iaddImm c ty (im.getLsbD 2) d a imm)
  | 0x22 => do
    let ty ← mTy m
    match sub with
    | 0 => some (.imul c ty d a b) | 1 => some (.imulh c ty d a b) | _ => none
  | 0x23 => some (.imulImm c (if im.getLsbD 0 then .z32 else .s32) d a imm)
  | 0x24 => do
    let ty ← mTy m
    match sub with
    | 0 => some (.imad c ty d a b x) | 1 => some (.imadw c ty d a b x) | _ => none
  | 0x25 => do
    let ty ← mTy m
    match sub with
    | 0 => some (.idiv c ty d a b) | 1 => some (.irem c ty d a b) | _ => none
  | 0x26 => do
    let ty ← mTy m
    match sub with
    | 0 => some (.imin c ty d a b) | 1 => some (.imax c ty d a b)
    | 2 => some (.iabs c (mSat m) d a) | 3 => some (.ineg c (mSat m) d a) | _ => none
  | 0x27 => do some (.lea c (← mTy m) (m.getLsbD 0) d a b x)
  | 0x28 => do
    let ty ← mTy m
    match sub with
    | 0 => some (.and c ty d a b) | 1 => some (.or c ty d a b) | 2 => some (.xor c ty d a b)
    | 3 => some (.andn c ty d a b) | 4 => some (.not c ty d a) | _ => none
  | 0x29 =>
    match (im.extractLsb' 0 2).toNat with
    | 0 => some (.andImm c d a imm) | 1 => some (.orImm c d a imm) | 2 => some (.xorImm c d a imm)
    | _ => some (.andnImm c d a imm)
  | 0x2A => do
    let ty ← mTy m
    match sub with
    | 0 => some (.shl c ty d a b) | 1 => some (.shr c ty d a b) | 2 => some (.sar c ty d a b)
    | 3 => some (.rot c ty d a b) | 4 => some (.shf c (m.getLsbD 12) d a b x) | _ => none
  | 0x2B => do
    let ty ← mTy m
    match sub with
    | 0 => some (.bfe c ty d a b) | 1 => some (.bfi c d a b x) | _ => none
  | 0x2C => do
    let ty ← mTy m
    match sub with
    | 0 => some (.popc c ty d a) | 1 => some (.clz c ty d a) | 2 => some (.brev c ty d a) | _ => none
  | 0x2D => some (.prmb c d a b x)
  | 0x2E => do some (.iset c (mCmp m) (← mTy m) d a b)
  | 0x40 =>
    match sub with
    | 0 => some (.fadd c (mRnd m) (mFtz m) d a b) | 1 => some (.fsub c (mRnd m) (mFtz m) d a b)
    | 2 => some (.fmul c (mRnd m) (mFtz m) d a b) | 3 => some (.fmin c (mFtz m) d a b)
    | 4 => some (.fmax c (mFtz m) d a b) | _ => none
  | 0x41 =>
    let rnd := Rnd.ofCode (im.extractLsb' 3 2)
    let ftz := im.getLsbD 5
    match (im.extractLsb' 0 3).toNat with
    | 0 => some (.faddImm c rnd ftz d a imm) | 1 => some (.fsubImm c rnd ftz d a imm)
    | 2 => some (.fmulImm c rnd ftz d a imm) | 3 => some (.fminImm c ftz d a imm)
    | 4 => some (.fmaxImm c ftz d a imm) | _ => none
  | 0x42 => some (.ffma c (mRnd m) (mFtz m) d a b x)
  | 0x43 => some (.fsetCompare c (mCmp m) (mFtz m) d a b)
  | 0x44 => do
    let ty ← mTy m
    let sty ← Ty.ofCode (m.extractLsb' 11 5)
    match sub with
    | 0 => some (.f2i c ty sty (mRnd m) (mFtz m) d a) | 1 => some (.i2f c ty sty (mRnd m) (mFtz m) d a)
    | 2 => some (.cvt c ty sty (mRnd m) (mFtz m) d a) | 3 => some (.frnd c (mRnd m) (mFtz m) d a) | _ => none
  | 0x45 =>
    match sub with
    | 0 => some (.frcp c (mFtz m) d a) | 1 => some (.frsq c (mFtz m) d a) | 2 => some (.fsqrt c (mFtz m) d a)
    | 3 => some (.fex2 c (mFtz m) d a) | 4 => some (.flg2 c (mFtz m) d a) | 5 => some (.fsin c (mFtz m) d a)
    | 6 => some (.fcos c (mFtz m) d a) | _ => none
  | 0x46 => do some (.hfma2 c (← mTy m) (m.getLsbD 0) (m.getLsbD 1) (m.getLsbD 2) (mRnd m) (mFtz m) d a b x)
  | 0x47 => do
    let ty ← mTy m
    let elt := m.extractLsb' 12 4
    match sub with
    | 0 => some (.pack c ty elt (mRnd m) (mFtz m) d a b x) | 1 => some (.unpk c ty elt (mFtz m) d a) | _ => none
  | 0x48 => do
    let ty ← mTy m
    match sub with
    | 0 => some (.dot4 c d a b x) | 1 => some (.dot8 c d a b x) | 2 => some (.fdot4 c ty d a b x) | _ => none
  | 0x60 => do some (.shfl c (← ShflMode.ofCode (mSub m)) (← mTy m) d a b x)
  | 0x61 => do some (.vote c (← VoteMode.ofCode (mSub m)) d a)
  | 0x62 => do some (.matchI c (← mTy m) d a)
  | 0x63 => do some (.pset c (← PsetComb.ofCode (mSub m)) (mCmp m) (← mTy m) d a b x)
  | 0x64 =>
    match m.toNat with
    | 0 => some (.pmovGet c d) | 1 => some (.pmovSet c a) | _ => none
  | 0x80 => some (.mma c cn a b x)
  | 0x81 => some (.mmas c cn d a b x)
  | 0x82 => some (.mmab c cn d a b x)
  | 0x83 => do some (.cmprs c (← mTy m) a b x)
  | 0x84 => some (.cclr c cn)
  | 0x85 => some (.cld c cn a x)
  | 0x86 => some (.cst c cn a b x)
  | 0x87 => some (.cscl c cn a)
  | 0xA0 => some (.qinit c qn a b)
  | 0xA1 => some (.qpush c qn a)
  | 0xA2 => some (.qpop c qn d)
  | 0xA3 => some (.qstat c qn d)
  | 0xA4 => do
    some (.copy c (← Space.ofCode ((m.extractLsb' 0 2).setWidth 3)) (← Space.ofCode ((m.extractLsb' 2 2).setWidth 3))
      (← CopyKind.ofCode (m.extractLsb' 4 2)) (m.extractLsb' 6 4) d a b x)
  | 0xA5 => some (.reel c qn (m.extractLsb' 4 12) d)
  | 0xA6 => some (.reelw c (m.getLsbD 0) a)
  | 0xA7 => some (.aloop c d a)
  | 0xA8 => do some (.aqput c qn (← Space.ofCode ((m.extractLsb' 4 2).setWidth 3)) a b)
  | 0xA9 => some (.aend c)
  | 0xC0 => do some (.ld c (← Space.ofCode (mSub m)) (← mTy m) (m.getLsbD 8) d a x)
  | 0xC1 => do some (.st c (← Space.ofCode (mSub m)) (← mTy m) (m.getLsbD 8) (m.getLsbD 9) a b x)
  | 0xC2 => do some (.ldx c (← Space.ofCode (mSub m)) (← mTy m) (m.extractLsb' 8 2) d a x)
  | 0xC3 => do some (.stx c (← Space.ofCode (mSub m)) (← mTy m) (m.extractLsb' 8 2) (m.getLsbD 10) a b x)
  | 0xC4 => do
    let sp ← Space.ofCode (mSub m)
    let ty ← mTy m
    let op ← AtomOp.ofCode (m.extractLsb' 8 4)
    let sc ← Scope.ofCode (m.extractLsb' 12 3)
    some (if m.getLsbD 15 then .atomr c sp ty op sc a b x else .atom c sp ty op sc d a b x)
  | 0xC5 => do some (.fence c (← Scope.ofCode (m.extractLsb' 0 3)) (← FenceHalf.ofCode (m.extractLsb' 3 2)))
  | 0xC6 => some (if m.getLsbD 0 then .unpin c a b else .pin c a b)
  | 0xC7 => some (.icinv c a b)
  | 0xC8 => some (.pref c a x)
  | 0xC9 => some (.launch c a)
  | 0xCA => some (.spawn c d a b)
  | 0xCB => some (.depdec c a)
  | 0xCC => some (.phend c m)
  | 0xCD => some (.tbar c)
  | 0xCE => some (.tdone c)
  | 0xCF => do some (.fwait c (← mTy m) d a x)
  | 0xD0 => do some (.fsetFuture c (← mTy m) (m.extractLsb' 8 8) a b x)
  | 0xD1 => some (.ftest c d a x)
  | 0xD2 => some (if m.getLsbD 0 then .unlock c a x else .lock c a x)
  | 0xD3 => do
    let ty ← mTy m
    some (if m.getLsbD 0 then .chpop c ty d a x else .chpush c ty a b x)
  | 0xD4 => some (.waitc c a b x)
  | 0xE0 => some (.trap c (m.extractLsb' 0 8))
  | 0xE1 => some (.tret c (m.getLsbD 0))
  | 0xE2 => some (.replay c)
  | 0xE3 => some (if m.getLsbD 0 then .endg c else .unwind c)
  | 0xE4 => some (.frqpop c d)
  | 0xE5 => some (.mapreq c a b)
  | 0xE6 => some (if m.getLsbD 0 then .swr c (m.extractLsb' 4 12) a else .srd c (m.extractLsb' 4 12) d)
  | 0xE7 => some (.uread c (m.getLsbD 11) (Opnd.ofBits (m.extractLsb' 0 11)) d)
  | 0xE8 => some (.uwrite c (m.getLsbD 11) (Opnd.ofBits (m.extractLsb' 0 11)) a)
  | 0xE9 => some (.bkpt c (m.extractLsb' 0 8))
  | 0xEA => some (.put c d a b x)
  | 0xEB => some (.get c d a b x)
  | 0xEC => do some (.ratom c (← mTy m) (← AtomOp.ofCode (m.extractLsb' 8 4)) d a b x)
  | 0xED => do
    some (.coll c (CollOp.ofCode (m.extractLsb' 0 2)) (← CollFmt.ofCode (m.extractLsb' 2 3))
      (← CollRed.ofCode (m.extractLsb' 5 2)) a b)
  | 0xEE => some (.wstat c (m.getLsbD 0) d a)
  | _ => none

/-- Whether an opcode value is one of the 96 in use (R57). -/
def opcodeUsed (o : BitVec 8) : Bool :=
  let n := o.toNat
  n ≤ 0x0C || (0x20 ≤ n && n ≤ 0x2E) || (0x40 ≤ n && n ≤ 0x48) || (0x60 ≤ n && n ≤ 0x64) || (0x80 ≤ n && n ≤ 0x87) ||
    (0xA0 ≤ n && n ≤ 0xA9) || (0xC0 ≤ n && n ≤ 0xD4) || (0xE0 ≤ n && n ≤ 0xEE)

/-- The control fate of R53 on a full word's fields: SET 12 to 14, or SET 15 in COPY .flag and MAPREQ (R49). -/
def Fields.controlBad (f : Fields) : Bool :=
  (12 ≤ f.ctl.set.toNat && f.ctl.set.toNat ≤ 14) ||
    (f.ctl.set == 15 && (f.opc == 0xE5 || (f.opc == 0xA4 && f.mod.extractLsb' 4 2 == 2)))

/-- The instruction in a full word's fields, or the first fate of R53 that it meets. An unlisted modifier bit that is set
makes the modifier differ from the encoder's; a used field apart, any other field differs only where it is not null. -/
def decodeFields (f : Fields) : Except Fate Instr :=
  if f.controlBad then .error .control
  else if !opcodeUsed f.opc then .error .opcode
  else
    match f.read with
    | none => .error .modifier
    | some i =>
      match i.coreFields with
      | none => .error .modifier
      | some g =>
        if g.mod != f.mod || !i.modOk then .error .modifier
        else if g != f || !i.operandsOk then .error .operand
        else .ok i

/-- Opcodes that the 8-byte form does not have (R50). -/
def not8 (o : BitVec 8) : Bool :=
  o == 0x02 || o == 0x07 || o == 0x08 || o == 0x0A || o == 0x21 || o == 0x23 || o == 0x29 || o == 0x41

/-- An 8-byte word (R50). -/
def decode8 (w : BitVec 64) : Except Fate Instr :=
  let f := Fields.of8 w
  if f.controlBad then .error .control
  else if not8 f.opc then .error .opcode
  else decodeFields f

/-- The 5 bits of a compact operand (R51). -/
def COpnd.bits (o : COpnd) : BitVec 5 :=
  (match o.lvl with | .w => 0#2 | .n => 1 | .d => 2 | .s => 3) ++ o.idx

def COpnd.ofBits (v : BitVec 5) : COpnd :=
  ⟨match (v.extractLsb' 3 2).toNat with | 0 => .w | 1 => .n | 2 => .d | _ => .s, v.extractLsb' 0 3⟩

/-- A compact word from its code, control fields and operands (R51). -/
def compactBits (code : BitVec 7) (c : CCtl) (d a b : BitVec 5) : Word :=
  (0#1) ++ code ++ c.stall ++ c.set ++ bit c.yield ++ d ++ a ++ b

/-- The word of each compact row (R51, R52). -/
def Instr.compactWord : Instr → Option Word
  | .nopCompact c => some (compactBits 0x0 c 0 0 0)
  | .movZ32Compact c d a => some (compactBits 0x1 c d.bits a.bits 0)
  | .movZ64Compact c d a => some (compactBits 0x2 c d.bits a.bits 0)
  | .movwCompact c d a => some (compactBits 0x3 c d.bits a.bits 0)
  | .nrelCompact c d => some (compactBits 0x4 c d.bits 0 0)
  | .strandCompact c => some (compactBits 0x5 c 0 0 0)
  | .parkCompact c => some (compactBits 0x6 c 0 0 0)
  | .exitCompact c => some (compactBits 0x7 c 0 0 0)
  | .retCompact c => some (compactBits 0x8 c 0 0 0)
  | .joinCompact c => some (compactBits 0x9 c 0 0 0)
  | .yieldCompact c => some (compactBits 0xa c 0 0 0)
  | .tbarCompact c => some (compactBits 0xb c 0 0 0)
  | .tdoneCompact c => some (compactBits 0xc c 0 0 0)
  | .iaddS32Compact c d a b => some (compactBits 0x10 c d.bits a.bits b.bits)
  | .iaddZ32Compact c d a b => some (compactBits 0x11 c d.bits a.bits b.bits)
  | .isubS32Compact c d a b => some (compactBits 0x12 c d.bits a.bits b.bits)
  | .isubZ32Compact c d a b => some (compactBits 0x13 c d.bits a.bits b.bits)
  | .iadd64Z64Compact c d a b => some (compactBits 0x14 c d.bits a.bits b.bits)
  | .iaddS32SatCompact c d a b => some (compactBits 0x15 c d.bits a.bits b.bits)
  | .isubS32SatCompact c d a b => some (compactBits 0x16 c d.bits a.bits b.bits)
  | .iaddZ32SatCompact c d a b => some (compactBits 0x17 c d.bits a.bits b.bits)
  | .imulS32Compact c d a b => some (compactBits 0x18 c d.bits a.bits b.bits)
  | .imulZ32Compact c d a b => some (compactBits 0x19 c d.bits a.bits b.bits)
  | .imulhS32Compact c d a b => some (compactBits 0x1a c d.bits a.bits b.bits)
  | .imulhZ32Compact c d a b => some (compactBits 0x1b c d.bits a.bits b.bits)
  | .idivS32Compact c d a b => some (compactBits 0x1c c d.bits a.bits b.bits)
  | .idivZ32Compact c d a b => some (compactBits 0x1d c d.bits a.bits b.bits)
  | .iremS32Compact c d a b => some (compactBits 0x1e c d.bits a.bits b.bits)
  | .iremZ32Compact c d a b => some (compactBits 0x1f c d.bits a.bits b.bits)
  | .iminS32Compact c d a b => some (compactBits 0x20 c d.bits a.bits b.bits)
  | .iminZ32Compact c d a b => some (compactBits 0x21 c d.bits a.bits b.bits)
  | .imaxS32Compact c d a b => some (compactBits 0x22 c d.bits a.bits b.bits)
  | .imaxZ32Compact c d a b => some (compactBits 0x23 c d.bits a.bits b.bits)
  | .iabsS32Compact c d a => some (compactBits 0x24 c d.bits a.bits 0)
  | .inegS32Compact c d a => some (compactBits 0x25 c d.bits a.bits 0)
  | .popcZ32Compact c d a => some (compactBits 0x26 c d.bits a.bits 0)
  | .clzZ32Compact c d a => some (compactBits 0x27 c d.bits a.bits 0)
  | .andZ32Compact c d a b => some (compactBits 0x28 c d.bits a.bits b.bits)
  | .orZ32Compact c d a b => some (compactBits 0x29 c d.bits a.bits b.bits)
  | .xorZ32Compact c d a b => some (compactBits 0x2a c d.bits a.bits b.bits)
  | .andnZ32Compact c d a b => some (compactBits 0x2b c d.bits a.bits b.bits)
  | .notZ32Compact c d a => some (compactBits 0x2c c d.bits a.bits 0)
  | .brevZ32Compact c d a => some (compactBits 0x2d c d.bits a.bits 0)
  | .andZ64Compact c d a b => some (compactBits 0x2e c d.bits a.bits b.bits)
  | .orZ64Compact c d a b => some (compactBits 0x2f c d.bits a.bits b.bits)
  | .shlZ32Compact c d a b => some (compactBits 0x30 c d.bits a.bits b.bits)
  | .shrZ32Compact c d a b => some (compactBits 0x31 c d.bits a.bits b.bits)
  | .sarS32Compact c d a b => some (compactBits 0x32 c d.bits a.bits b.bits)
  | .rotZ32Compact c d a b => some (compactBits 0x33 c d.bits a.bits b.bits)
  | .shlZ64Compact c d a b => some (compactBits 0x34 c d.bits a.bits b.bits)
  | .shrZ64Compact c d a b => some (compactBits 0x35 c d.bits a.bits b.bits)
  | .sarS64Compact c d a b => some (compactBits 0x36 c d.bits a.bits b.bits)
  | .xorZ64Compact c d a b => some (compactBits 0x37 c d.bits a.bits b.bits)
  | .isetEqS32Compact c d a b => some (compactBits 0x38 c d.bits a.bits b.bits)
  | .isetNeS32Compact c d a b => some (compactBits 0x39 c d.bits a.bits b.bits)
  | .isetLtS32Compact c d a b => some (compactBits 0x3a c d.bits a.bits b.bits)
  | .isetLeS32Compact c d a b => some (compactBits 0x3b c d.bits a.bits b.bits)
  | .isetGtS32Compact c d a b => some (compactBits 0x3c c d.bits a.bits b.bits)
  | .isetGeS32Compact c d a b => some (compactBits 0x3d c d.bits a.bits b.bits)
  | .isetLtZ32Compact c d a b => some (compactBits 0x3e c d.bits a.bits b.bits)
  | .isetGeZ32Compact c d a b => some (compactBits 0x3f c d.bits a.bits b.bits)
  | .faddF32Compact c d a b => some (compactBits 0x40 c d.bits a.bits b.bits)
  | .fsubF32Compact c d a b => some (compactBits 0x41 c d.bits a.bits b.bits)
  | .fmulF32Compact c d a b => some (compactBits 0x42 c d.bits a.bits b.bits)
  | .fminF32Compact c d a b => some (compactBits 0x43 c d.bits a.bits b.bits)
  | .fmaxF32Compact c d a b => some (compactBits 0x44 c d.bits a.bits b.bits)
  | .faddF32FtzCompact c d a b => some (compactBits 0x45 c d.bits a.bits b.bits)
  | .fsubF32FtzCompact c d a b => some (compactBits 0x46 c d.bits a.bits b.bits)
  | .fmulF32FtzCompact c d a b => some (compactBits 0x47 c d.bits a.bits b.bits)
  | .fsetEqF32Compact c d a b => some (compactBits 0x48 c d.bits a.bits b.bits)
  | .fsetNeF32Compact c d a b => some (compactBits 0x49 c d.bits a.bits b.bits)
  | .fsetLtF32Compact c d a b => some (compactBits 0x4a c d.bits a.bits b.bits)
  | .fsetLeF32Compact c d a b => some (compactBits 0x4b c d.bits a.bits b.bits)
  | .fsetGtF32Compact c d a b => some (compactBits 0x4c c d.bits a.bits b.bits)
  | .fsetGeF32Compact c d a b => some (compactBits 0x4d c d.bits a.bits b.bits)
  | .fsetUnF32Compact c d a b => some (compactBits 0x4e c d.bits a.bits b.bits)
  | .frndF32Compact c d a => some (compactBits 0x4f c d.bits a.bits 0)
  | .frcpF32Compact c d a => some (compactBits 0x50 c d.bits a.bits 0)
  | .frsqF32Compact c d a => some (compactBits 0x51 c d.bits a.bits 0)
  | .fsqrtF32Compact c d a => some (compactBits 0x52 c d.bits a.bits 0)
  | .fex2F32Compact c d a => some (compactBits 0x53 c d.bits a.bits 0)
  | .flg2F32Compact c d a => some (compactBits 0x54 c d.bits a.bits 0)
  | .fsinF32Compact c d a => some (compactBits 0x55 c d.bits a.bits 0)
  | .fcosF32Compact c d a => some (compactBits 0x56 c d.bits a.bits 0)
  | .frndF32RzCompact c d a => some (compactBits 0x57 c d.bits a.bits 0)
  | .f2iS32F32RzCompact c d a => some (compactBits 0x58 c d.bits a.bits 0)
  | .f2iZ32F32RzCompact c d a => some (compactBits 0x59 c d.bits a.bits 0)
  | .i2fF32S32Compact c d a => some (compactBits 0x5a c d.bits a.bits 0)
  | .i2fF32Z32Compact c d a => some (compactBits 0x5b c d.bits a.bits 0)
  | .cvtF16F32Compact c d a => some (compactBits 0x5c c d.bits a.bits 0)
  | .cvtF32F16Compact c d a => some (compactBits 0x5d c d.bits a.bits 0)
  | .cvtBf16F32Compact c d a => some (compactBits 0x5e c d.bits a.bits 0)
  | .cvtF32Bf16Compact c d a => some (compactBits 0x5f c d.bits a.bits 0)
  | .packE4m3Compact c d a b => some (compactBits 0x60 c d.bits a.bits b.bits)
  | .packE5m2Compact c d a b => some (compactBits 0x61 c d.bits a.bits b.bits)
  | .packE2m1Compact c d a b => some (compactBits 0x62 c d.bits a.bits b.bits)
  | .packBf16Compact c d a b => some (compactBits 0x63 c d.bits a.bits b.bits)
  | .unpkE4m3Compact c d a => some (compactBits 0x64 c d.bits a.bits 0)
  | .unpkE5m2Compact c d a => some (compactBits 0x65 c d.bits a.bits 0)
  | .unpkE2m1Compact c d a => some (compactBits 0x66 c d.bits a.bits 0)
  | .unpkBf16Compact c d a => some (compactBits 0x67 c d.bits a.bits 0)
  | .dot4S8Compact c d a b => some (compactBits 0x68 c d.bits a.bits b.bits)
  | .dot8S4Compact c d a b => some (compactBits 0x69 c d.bits a.bits b.bits)
  | .fdot4E4m3Compact c d a b => some (compactBits 0x6a c d.bits a.bits b.bits)
  | .fdot4E5m2Compact c d a b => some (compactBits 0x6b c d.bits a.bits b.bits)
  | .shflIdxCompact c d a b => some (compactBits 0x6c c d.bits a.bits b.bits)
  | .shflUpCompact c d a b => some (compactBits 0x6d c d.bits a.bits b.bits)
  | .shflDownCompact c d a b => some (compactBits 0x6e c d.bits a.bits b.bits)
  | .shflXorCompact c d a b => some (compactBits 0x6f c d.bits a.bits b.bits)
  | .matchZ32Compact c d a => some (compactBits 0x70 c d.bits a.bits 0)
  | .matchZ64Compact c d a => some (compactBits 0x71 c d.bits a.bits 0)
  | .bfeZ32Compact c d a b => some (compactBits 0x72 c d.bits a.bits b.bits)
  | .bfeS32Compact c d a b => some (compactBits 0x73 c d.bits a.bits b.bits)
  | .popcZ64Compact c d a => some (compactBits 0x74 c d.bits a.bits 0)
  | .clzZ64Compact c d a => some (compactBits 0x75 c d.bits a.bits 0)
  | .ldPoolZ32Compact c d a => some (compactBits 0x76 c d.bits a.bits 0)
  | .stPoolZ32Compact c a b => some (compactBits 0x77 c 0 a.bits b.bits)
  | .ldCoreZ32Compact c d a => some (compactBits 0x78 c d.bits a.bits 0)
  | .stCoreZ32Compact c a b => some (compactBits 0x79 c 0 a.bits b.bits)
  | .ldLaneZ32Compact c d a => some (compactBits 0x7a c d.bits a.bits 0)
  | .stLaneZ32Compact c a b => some (compactBits 0x7b c 0 a.bits b.bits)
  | .ldGlobZ32Compact c d a => some (compactBits 0x7c c d.bits a.bits 0)
  | .stGlobZ32Compact c a b => some (compactBits 0x7d c 0 a.bits b.bits)
  | .ldCoreZ64Compact c d a => some (compactBits 0x7e c d.bits a.bits 0)
  | .stCoreZ64Compact c a b => some (compactBits 0x7f c 0 a.bits b.bits)
  | _ => none

/-- The row of each compact code (R52); `none` where the code is reserved. -/
noncomputable def compactRow (code : Nat) (c : CCtl) (d a b : COpnd) : Option Instr :=
  match code with
  | 0x0 => some (.nopCompact c)
  | 0x1 => some (.movZ32Compact c d a)
  | 0x2 => some (.movZ64Compact c d a)
  | 0x3 => some (.movwCompact c d a)
  | 0x4 => some (.nrelCompact c d)
  | 0x5 => some (.strandCompact c)
  | 0x6 => some (.parkCompact c)
  | 0x7 => some (.exitCompact c)
  | 0x8 => some (.retCompact c)
  | 0x9 => some (.joinCompact c)
  | 0xa => some (.yieldCompact c)
  | 0xb => some (.tbarCompact c)
  | 0xc => some (.tdoneCompact c)
  | 0x10 => some (.iaddS32Compact c d a b)
  | 0x11 => some (.iaddZ32Compact c d a b)
  | 0x12 => some (.isubS32Compact c d a b)
  | 0x13 => some (.isubZ32Compact c d a b)
  | 0x14 => some (.iadd64Z64Compact c d a b)
  | 0x15 => some (.iaddS32SatCompact c d a b)
  | 0x16 => some (.isubS32SatCompact c d a b)
  | 0x17 => some (.iaddZ32SatCompact c d a b)
  | 0x18 => some (.imulS32Compact c d a b)
  | 0x19 => some (.imulZ32Compact c d a b)
  | 0x1a => some (.imulhS32Compact c d a b)
  | 0x1b => some (.imulhZ32Compact c d a b)
  | 0x1c => some (.idivS32Compact c d a b)
  | 0x1d => some (.idivZ32Compact c d a b)
  | 0x1e => some (.iremS32Compact c d a b)
  | 0x1f => some (.iremZ32Compact c d a b)
  | 0x20 => some (.iminS32Compact c d a b)
  | 0x21 => some (.iminZ32Compact c d a b)
  | 0x22 => some (.imaxS32Compact c d a b)
  | 0x23 => some (.imaxZ32Compact c d a b)
  | 0x24 => some (.iabsS32Compact c d a)
  | 0x25 => some (.inegS32Compact c d a)
  | 0x26 => some (.popcZ32Compact c d a)
  | 0x27 => some (.clzZ32Compact c d a)
  | 0x28 => some (.andZ32Compact c d a b)
  | 0x29 => some (.orZ32Compact c d a b)
  | 0x2a => some (.xorZ32Compact c d a b)
  | 0x2b => some (.andnZ32Compact c d a b)
  | 0x2c => some (.notZ32Compact c d a)
  | 0x2d => some (.brevZ32Compact c d a)
  | 0x2e => some (.andZ64Compact c d a b)
  | 0x2f => some (.orZ64Compact c d a b)
  | 0x30 => some (.shlZ32Compact c d a b)
  | 0x31 => some (.shrZ32Compact c d a b)
  | 0x32 => some (.sarS32Compact c d a b)
  | 0x33 => some (.rotZ32Compact c d a b)
  | 0x34 => some (.shlZ64Compact c d a b)
  | 0x35 => some (.shrZ64Compact c d a b)
  | 0x36 => some (.sarS64Compact c d a b)
  | 0x37 => some (.xorZ64Compact c d a b)
  | 0x38 => some (.isetEqS32Compact c d a b)
  | 0x39 => some (.isetNeS32Compact c d a b)
  | 0x3a => some (.isetLtS32Compact c d a b)
  | 0x3b => some (.isetLeS32Compact c d a b)
  | 0x3c => some (.isetGtS32Compact c d a b)
  | 0x3d => some (.isetGeS32Compact c d a b)
  | 0x3e => some (.isetLtZ32Compact c d a b)
  | 0x3f => some (.isetGeZ32Compact c d a b)
  | 0x40 => some (.faddF32Compact c d a b)
  | 0x41 => some (.fsubF32Compact c d a b)
  | 0x42 => some (.fmulF32Compact c d a b)
  | 0x43 => some (.fminF32Compact c d a b)
  | 0x44 => some (.fmaxF32Compact c d a b)
  | 0x45 => some (.faddF32FtzCompact c d a b)
  | 0x46 => some (.fsubF32FtzCompact c d a b)
  | 0x47 => some (.fmulF32FtzCompact c d a b)
  | 0x48 => some (.fsetEqF32Compact c d a b)
  | 0x49 => some (.fsetNeF32Compact c d a b)
  | 0x4a => some (.fsetLtF32Compact c d a b)
  | 0x4b => some (.fsetLeF32Compact c d a b)
  | 0x4c => some (.fsetGtF32Compact c d a b)
  | 0x4d => some (.fsetGeF32Compact c d a b)
  | 0x4e => some (.fsetUnF32Compact c d a b)
  | 0x4f => some (.frndF32Compact c d a)
  | 0x50 => some (.frcpF32Compact c d a)
  | 0x51 => some (.frsqF32Compact c d a)
  | 0x52 => some (.fsqrtF32Compact c d a)
  | 0x53 => some (.fex2F32Compact c d a)
  | 0x54 => some (.flg2F32Compact c d a)
  | 0x55 => some (.fsinF32Compact c d a)
  | 0x56 => some (.fcosF32Compact c d a)
  | 0x57 => some (.frndF32RzCompact c d a)
  | 0x58 => some (.f2iS32F32RzCompact c d a)
  | 0x59 => some (.f2iZ32F32RzCompact c d a)
  | 0x5a => some (.i2fF32S32Compact c d a)
  | 0x5b => some (.i2fF32Z32Compact c d a)
  | 0x5c => some (.cvtF16F32Compact c d a)
  | 0x5d => some (.cvtF32F16Compact c d a)
  | 0x5e => some (.cvtBf16F32Compact c d a)
  | 0x5f => some (.cvtF32Bf16Compact c d a)
  | 0x60 => some (.packE4m3Compact c d a b)
  | 0x61 => some (.packE5m2Compact c d a b)
  | 0x62 => some (.packE2m1Compact c d a b)
  | 0x63 => some (.packBf16Compact c d a b)
  | 0x64 => some (.unpkE4m3Compact c d a)
  | 0x65 => some (.unpkE5m2Compact c d a)
  | 0x66 => some (.unpkE2m1Compact c d a)
  | 0x67 => some (.unpkBf16Compact c d a)
  | 0x68 => some (.dot4S8Compact c d a b)
  | 0x69 => some (.dot8S4Compact c d a b)
  | 0x6a => some (.fdot4E4m3Compact c d a b)
  | 0x6b => some (.fdot4E5m2Compact c d a b)
  | 0x6c => some (.shflIdxCompact c d a b)
  | 0x6d => some (.shflUpCompact c d a b)
  | 0x6e => some (.shflDownCompact c d a b)
  | 0x6f => some (.shflXorCompact c d a b)
  | 0x70 => some (.matchZ32Compact c d a)
  | 0x71 => some (.matchZ64Compact c d a)
  | 0x72 => some (.bfeZ32Compact c d a b)
  | 0x73 => some (.bfeS32Compact c d a b)
  | 0x74 => some (.popcZ64Compact c d a)
  | 0x75 => some (.clzZ64Compact c d a)
  | 0x76 => some (.ldPoolZ32Compact c d a)
  | 0x77 => some (.stPoolZ32Compact c a b)
  | 0x78 => some (.ldCoreZ32Compact c d a)
  | 0x79 => some (.stCoreZ32Compact c a b)
  | 0x7a => some (.ldLaneZ32Compact c d a)
  | 0x7b => some (.stLaneZ32Compact c a b)
  | 0x7c => some (.ldGlobZ32Compact c d a)
  | 0x7d => some (.stGlobZ32Compact c a b)
  | 0x7e => some (.ldCoreZ64Compact c d a)
  | 0x7f => some (.stCoreZ64Compact c a b)
  | _ => none

/-- A compact word (R51 to R53). An unused field that is not zero makes the word differ from the encoder's. -/
noncomputable def decodeCompact (w : Word) : Except Fate Instr :=
  let c : CCtl := { stall := w.extractLsb' 20 4, set := w.extractLsb' 16 4, yield := w.getLsbD 15 }
  if 12 ≤ c.set.toNat && c.set.toNat ≤ 14 then .error .control
  else
    match compactRow (w.extractLsb' 24 7).toNat c (.ofBits (w.extractLsb' 10 5)) (.ofBits (w.extractLsb' 5 5))
        (.ofBits (w.extractLsb' 0 5)) with
    | none => .error .control
    | some i => if i.compactWord != some w || !i.operandsOk then .error .operand else .ok i

/-- Length in bytes that the first word gives (R36). -/
def lengthOf (w : Word) : Nat := if !w.getLsbD 31 then 4 else if !w.getLsbD 30 then 8 else 12

/-- The instruction whose words come first in a list, the most significant word first (R36). A list that ends before the
instruction does stands for the end of the line: the instruction would cross it (R38). -/
noncomputable def decodeWords : List Word → Except Fate Instr
  | [] => .error .straddle
  | w :: rest =>
    if !w.getLsbD 31 then decodeCompact w
    else if !w.getLsbD 30 then
      match rest with
      | v :: _ => decode8 (w ++ v)
      | [] => .error .straddle
    else
      match rest with
      | v :: u :: _ => decodeFields (Fields.ofBits (w ++ v ++ u))
      | _ => .error .straddle

/-- What stands at word `k` of a 64-byte line: `none` if decoding from byte 0 does not reach it (R38), else its length in
bytes and the instruction or its fate. -/
noncomputable def lineAt : List Word → (skip k : Nat) → Option (Nat × Except Fate Instr)
  | [], _, _ => none
  | _ :: ws, skip + 1, k => if k = 0 then none else lineAt ws skip (k - 1)
  | w :: ws, 0, k =>
    if k = 0 then some (lengthOf w, decodeWords (w :: ws)) else lineAt ws (lengthOf w / 4 - 1) (k - 1)

/-- The full form of each compact code (R52), with the D, A and B fields that the row uses: what `Instr.core` makes of `compactRow`. -/
def compactCore (code : Nat) (c : CCtl) (d a b : COpnd) : Option (Instr × Bool × Bool × Bool) :=
  match code with
  | 0x0 => some (.nop c.full, false, false, false)
  | 0x1 => some (.mov c.full .z32 d.full a.full, true, true, false)
  | 0x2 => some (.mov c.full .z64 d.full a.full, true, true, false)
  | 0x3 => some (.movw c.full d.full a.full, true, true, false)
  | 0x4 => some (.nrel c.full d.full, true, false, false)
  | 0x5 => some (.strand c.full 0, false, false, false)
  | 0x6 => some (.park c.full, false, false, false)
  | 0x7 => some (.exit c.full, false, false, false)
  | 0x8 => some (.ret c.full, false, false, false)
  | 0x9 => some (.join c.full, false, false, false)
  | 0xa => some (.yield c.full, false, false, false)
  | 0xb => some (.tbar c.full, false, false, false)
  | 0xc => some (.tdone c.full, false, false, false)
  | 0x10 => some (.iadd c.full .s32 false d.full a.full b.full, true, true, true)
  | 0x11 => some (.iadd c.full .z32 false d.full a.full b.full, true, true, true)
  | 0x12 => some (.isub c.full .s32 false d.full a.full b.full, true, true, true)
  | 0x13 => some (.isub c.full .z32 false d.full a.full b.full, true, true, true)
  | 0x14 => some (.iadd64 c.full .z64 false d.full a.full b.full, true, true, true)
  | 0x15 => some (.iadd c.full .s32 true d.full a.full b.full, true, true, true)
  | 0x16 => some (.isub c.full .s32 true d.full a.full b.full, true, true, true)
  | 0x17 => some (.iadd c.full .z32 true d.full a.full b.full, true, true, true)
  | 0x18 => some (.imul c.full .s32 d.full a.full b.full, true, true, true)
  | 0x19 => some (.imul c.full .z32 d.full a.full b.full, true, true, true)
  | 0x1a => some (.imulh c.full .s32 d.full a.full b.full, true, true, true)
  | 0x1b => some (.imulh c.full .z32 d.full a.full b.full, true, true, true)
  | 0x1c => some (.idiv c.full .s32 d.full a.full b.full, true, true, true)
  | 0x1d => some (.idiv c.full .z32 d.full a.full b.full, true, true, true)
  | 0x1e => some (.irem c.full .s32 d.full a.full b.full, true, true, true)
  | 0x1f => some (.irem c.full .z32 d.full a.full b.full, true, true, true)
  | 0x20 => some (.imin c.full .s32 d.full a.full b.full, true, true, true)
  | 0x21 => some (.imin c.full .z32 d.full a.full b.full, true, true, true)
  | 0x22 => some (.imax c.full .s32 d.full a.full b.full, true, true, true)
  | 0x23 => some (.imax c.full .z32 d.full a.full b.full, true, true, true)
  | 0x24 => some (.iabs c.full false d.full a.full, true, true, false)
  | 0x25 => some (.ineg c.full false d.full a.full, true, true, false)
  | 0x26 => some (.popc c.full .z32 d.full a.full, true, true, false)
  | 0x27 => some (.clz c.full .z32 d.full a.full, true, true, false)
  | 0x28 => some (.and c.full .z32 d.full a.full b.full, true, true, true)
  | 0x29 => some (.or c.full .z32 d.full a.full b.full, true, true, true)
  | 0x2a => some (.xor c.full .z32 d.full a.full b.full, true, true, true)
  | 0x2b => some (.andn c.full .z32 d.full a.full b.full, true, true, true)
  | 0x2c => some (.not c.full .z32 d.full a.full, true, true, false)
  | 0x2d => some (.brev c.full .z32 d.full a.full, true, true, false)
  | 0x2e => some (.and c.full .z64 d.full a.full b.full, true, true, true)
  | 0x2f => some (.or c.full .z64 d.full a.full b.full, true, true, true)
  | 0x30 => some (.shl c.full .z32 d.full a.full b.full, true, true, true)
  | 0x31 => some (.shr c.full .z32 d.full a.full b.full, true, true, true)
  | 0x32 => some (.sar c.full .s32 d.full a.full b.full, true, true, true)
  | 0x33 => some (.rot c.full .z32 d.full a.full b.full, true, true, true)
  | 0x34 => some (.shl c.full .z64 d.full a.full b.full, true, true, true)
  | 0x35 => some (.shr c.full .z64 d.full a.full b.full, true, true, true)
  | 0x36 => some (.sar c.full .s64 d.full a.full b.full, true, true, true)
  | 0x37 => some (.xor c.full .z64 d.full a.full b.full, true, true, true)
  | 0x38 => some (.iset c.full .eq .s32 d.full a.full b.full, true, true, true)
  | 0x39 => some (.iset c.full .ne .s32 d.full a.full b.full, true, true, true)
  | 0x3a => some (.iset c.full .lt .s32 d.full a.full b.full, true, true, true)
  | 0x3b => some (.iset c.full .le .s32 d.full a.full b.full, true, true, true)
  | 0x3c => some (.iset c.full .gt .s32 d.full a.full b.full, true, true, true)
  | 0x3d => some (.iset c.full .ge .s32 d.full a.full b.full, true, true, true)
  | 0x3e => some (.iset c.full .lt .z32 d.full a.full b.full, true, true, true)
  | 0x3f => some (.iset c.full .ge .z32 d.full a.full b.full, true, true, true)
  | 0x40 => some (.fadd c.full .rn false d.full a.full b.full, true, true, true)
  | 0x41 => some (.fsub c.full .rn false d.full a.full b.full, true, true, true)
  | 0x42 => some (.fmul c.full .rn false d.full a.full b.full, true, true, true)
  | 0x43 => some (.fmin c.full false d.full a.full b.full, true, true, true)
  | 0x44 => some (.fmax c.full false d.full a.full b.full, true, true, true)
  | 0x45 => some (.fadd c.full .rn true d.full a.full b.full, true, true, true)
  | 0x46 => some (.fsub c.full .rn true d.full a.full b.full, true, true, true)
  | 0x47 => some (.fmul c.full .rn true d.full a.full b.full, true, true, true)
  | 0x48 => some (.fsetCompare c.full .eq false d.full a.full b.full, true, true, true)
  | 0x49 => some (.fsetCompare c.full .ne false d.full a.full b.full, true, true, true)
  | 0x4a => some (.fsetCompare c.full .lt false d.full a.full b.full, true, true, true)
  | 0x4b => some (.fsetCompare c.full .le false d.full a.full b.full, true, true, true)
  | 0x4c => some (.fsetCompare c.full .gt false d.full a.full b.full, true, true, true)
  | 0x4d => some (.fsetCompare c.full .ge false d.full a.full b.full, true, true, true)
  | 0x4e => some (.fsetCompare c.full .un false d.full a.full b.full, true, true, true)
  | 0x4f => some (.frnd c.full .rn false d.full a.full, true, true, false)
  | 0x50 => some (.frcp c.full false d.full a.full, true, true, false)
  | 0x51 => some (.frsq c.full false d.full a.full, true, true, false)
  | 0x52 => some (.fsqrt c.full false d.full a.full, true, true, false)
  | 0x53 => some (.fex2 c.full false d.full a.full, true, true, false)
  | 0x54 => some (.flg2 c.full false d.full a.full, true, true, false)
  | 0x55 => some (.fsin c.full false d.full a.full, true, true, false)
  | 0x56 => some (.fcos c.full false d.full a.full, true, true, false)
  | 0x57 => some (.frnd c.full .rz false d.full a.full, true, true, false)
  | 0x58 => some (.f2i c.full .s32 .f32 .rz false d.full a.full, true, true, false)
  | 0x59 => some (.f2i c.full .z32 .f32 .rz false d.full a.full, true, true, false)
  | 0x5a => some (.i2f c.full .f32 .s32 .rn false d.full a.full, true, true, false)
  | 0x5b => some (.i2f c.full .f32 .z32 .rn false d.full a.full, true, true, false)
  | 0x5c => some (.cvt c.full .f16 .f32 .rn false d.full a.full, true, true, false)
  | 0x5d => some (.cvt c.full .f32 .f16 .rn false d.full a.full, true, true, false)
  | 0x5e => some (.cvt c.full .bf16 .f32 .rn false d.full a.full, true, true, false)
  | 0x5f => some (.cvt c.full .f32 .bf16 .rn false d.full a.full, true, true, false)
  | 0x60 => some (.pack c.full .e4m3 0 .rn false d.full a.full b.full .null, true, true, true)
  | 0x61 => some (.pack c.full .e5m2 0 .rn false d.full a.full b.full .null, true, true, true)
  | 0x62 => some (.pack c.full .e2m1 0 .rn false d.full a.full b.full .null, true, true, true)
  | 0x63 => some (.pack c.full .bf16 0 .rn false d.full a.full b.full .null, true, true, true)
  | 0x64 => some (.unpk c.full .e4m3 0 false d.full a.full, true, true, false)
  | 0x65 => some (.unpk c.full .e5m2 0 false d.full a.full, true, true, false)
  | 0x66 => some (.unpk c.full .e2m1 0 false d.full a.full, true, true, false)
  | 0x67 => some (.unpk c.full .bf16 0 false d.full a.full, true, true, false)
  | 0x68 => some (.dot4 c.full d.full a.full b.full .null, true, true, true)
  | 0x69 => some (.dot8 c.full d.full a.full b.full .null, true, true, true)
  | 0x6a => some (.fdot4 c.full .e4m3 d.full a.full b.full .null, true, true, true)
  | 0x6b => some (.fdot4 c.full .e5m2 d.full a.full b.full .null, true, true, true)
  | 0x6c => some (.shfl c.full .idx .z32 d.full a.full b.full .null, true, true, true)
  | 0x6d => some (.shfl c.full .up .z32 d.full a.full b.full .null, true, true, true)
  | 0x6e => some (.shfl c.full .down .z32 d.full a.full b.full .null, true, true, true)
  | 0x6f => some (.shfl c.full .xor .z32 d.full a.full b.full .null, true, true, true)
  | 0x70 => some (.matchI c.full .z32 d.full a.full, true, true, false)
  | 0x71 => some (.matchI c.full .z64 d.full a.full, true, true, false)
  | 0x72 => some (.bfe c.full .z32 d.full a.full b.full, true, true, true)
  | 0x73 => some (.bfe c.full .s32 d.full a.full b.full, true, true, true)
  | 0x74 => some (.popc c.full .z64 d.full a.full, true, true, false)
  | 0x75 => some (.clz c.full .z64 d.full a.full, true, true, false)
  | 0x76 => some (.ld c.full .pool .z32 false d.full a.full .null, true, true, false)
  | 0x77 => some (.st c.full .pool .z32 false false a.full b.full .null, false, true, true)
  | 0x78 => some (.ld c.full .core .z32 false d.full a.full .null, true, true, false)
  | 0x79 => some (.st c.full .core .z32 false false a.full b.full .null, false, true, true)
  | 0x7a => some (.ld c.full .lane .z32 false d.full a.full .null, true, true, false)
  | 0x7b => some (.st c.full .lane .z32 false false a.full b.full .null, false, true, true)
  | 0x7c => some (.ld c.full .glob .z32 false d.full a.full .null, true, true, false)
  | 0x7d => some (.st c.full .glob .z32 false false a.full b.full .null, false, true, true)
  | 0x7e => some (.ld c.full .core .z64 false d.full a.full .null, true, true, false)
  | 0x7f => some (.st c.full .core .z64 false false a.full b.full .null, false, true, true)
  | _ => none

/-- A compact word, in its full form. -/
def coreCompact (w : Word) : Except Fate Instr :=
  let c : CCtl := { stall := w.extractLsb' 20 4, set := w.extractLsb' 16 4, yield := w.getLsbD 15 }
  let d := w.extractLsb' 10 5
  let a := w.extractLsb' 5 5
  let b := w.extractLsb' 0 5
  if 12 ≤ c.set.toNat && c.set.toNat ≤ 14 then .error .control
  else
    match compactCore (w.extractLsb' 24 7).toNat c (.ofBits d) (.ofBits a) (.ofBits b) with
    | none => .error .control
    | some (i, ud, ua, ub) =>
      if (!ud && d != 0) || (!ua && a != 0) || (!ub && b != 0) || !i.operandsOk then .error .operand else .ok i

/-- `decodeWords` with every compact row in its full form. -/
def coreWords : List Word → Except Fate Instr
  | [] => .error .straddle
  | w :: rest =>
    if !w.getLsbD 31 then coreCompact w
    else if !w.getLsbD 30 then
      match rest with
      | v :: _ => decode8 (w ++ v)
      | [] => .error .straddle
    else
      match rest with
      | v :: u :: _ => decodeFields (Fields.ofBits (w ++ v ++ u))
      | _ => .error .straddle

/-- `lineAt` with every compact row in its full form. -/
def coreLineAt : List Word → (skip k : Nat) → Option (Nat × Except Fate Instr)
  | [], _, _ => none
  | _ :: ws, skip + 1, k => if k = 0 then none else coreLineAt ws skip (k - 1)
  | w :: ws, 0, k =>
    if k = 0 then some (lengthOf w, coreWords (w :: ws)) else coreLineAt ws (lengthOf w / 4 - 1) (k - 1)

/-- The three words of a full form (R36, R42). -/
def Fields.words (f : Fields) : List Word :=
  [f.bits.extractLsb' 64 32, f.bits.extractLsb' 32 32, f.bits.extractLsb' 0 32]

/-- The words of an instruction, first word first: one for a compact row, three for a full form, none for an event. -/
def encode (i : Instr) : List Word :=
  match i.compactWord with
  | some w => [w]
  | none =>
    match i.coreFields with
    | some f => f.words
    | none => []

/-- A 32-bit word as bytes, little-endian (R36). -/
def wordBytes (w : Word) : List Byte :=
  [w.extractLsb' 0 8, w.extractLsb' 8 8, w.extractLsb' 16 8, w.extractLsb' 24 8]

/-- The 32-bit words of a byte list, little-endian (R36). -/
def bytesWords : List Byte → List Word
  | a :: b :: c :: d :: rest => (d ++ c ++ b ++ a) :: bytesWords rest
  | _ => []

/-- The words of an instruction given as `spec/opcode_table.json` numbers its bits: bit 0 is the least significant bit of the
first word. The bits above `nbits` are zero, up to the longest instruction. -/
def tableWords (nbits w : Nat) : List Word :=
  let v := w % 2 ^ nbits
  [BitVec.ofNat 32 v, BitVec.ofNat 32 (v / 2 ^ 32), BitVec.ofNat 32 (v / 2 ^ 64)]

/-- The instruction that the decoder reads from a word of the opcode table, laid out in memory as R36 stores it. -/
noncomputable def decodeTableWord (nbits w : Nat) : Option Instr :=
  match decodeWords (bytesWords ((tableWords nbits w).flatMap wordBytes)) with
  | .ok i => some i
  | .error _ => none

end Sys2Proof
end

