-- ==== Sys2Proof/Laws/CompactRows.lean ====
section
/-! SUPPORT. The bits of a compact word, and what the row of each compact code and its full form have in common (R51, R52). -/

namespace Sys2Proof

theorem COpnd.bits_ofBits (v : BitVec 5) : (COpnd.ofBits v).bits = v := by revert v; decide

/-- A compact word, bit by bit. -/
theorem compactBits_getLsbD (k : BitVec 7) (c : CCtl) (d a b : BitVec 5) (i : Nat) :
    (compactBits k c d a b).getLsbD i =
      if i < 5 then b.getLsbD i
      else if i < 10 then a.getLsbD (i - 5)
      else if i < 15 then d.getLsbD (i - 10)
      else if i < 16 then (bit c.yield).getLsbD (i - 15)
      else if i < 20 then c.set.getLsbD (i - 16)
      else if i < 24 then c.stall.getLsbD (i - 20)
      else k.getLsbD (i - 24) := by
  rw [compactBits]
  erw [BitVec.getLsbD_append, BitVec.getLsbD_append, BitVec.getLsbD_append, BitVec.getLsbD_append, BitVec.getLsbD_append,
    BitVec.getLsbD_append, BitVec.getLsbD_append]
  simp only [Nat.sub_sub]
  repeat' split
  all_goals first
    | rfl
    | omega
    | (congr 1; omega)
    | (rw [BitVec.getLsbD_of_ge k (i - 24) (by omega)]; simp)

theorem compactBits_self (w : Word) (h : w.getLsbD 31 = false) :
    compactBits (w.extractLsb' 24 7) { stall := w.extractLsb' 20 4, set := w.extractLsb' 16 4, yield := w.getLsbD 15 }
      (w.extractLsb' 10 5) (w.extractLsb' 5 5) (w.extractLsb' 0 5) = w := by
  apply BitVec.eq_of_getLsbD_eq
  intro i hi
  rw [compactBits_getLsbD]
  rcases i with _|_|_|_|_|_|_|_|_|_|_|_|_|_|_|_|_|_|_|_|_|_|_|_|_|_|_|_|_|_|_|_|i
  all_goals first
    | omega
    | (simp [bit]; done)
    | simpa [bit] using h.symm

theorem compactBits_d (k : BitVec 7) (c : CCtl) (d a b : BitVec 5) : (compactBits k c d a b).extractLsb' 10 5 = d := by
  apply BitVec.eq_of_getLsbD_eq
  intro i hi
  rw [BitVec.getLsbD_extractLsb', compactBits_getLsbD]
  rcases i with _|_|_|_|_|i
  all_goals first
    | omega
    | simp

theorem compactBits_a (k : BitVec 7) (c : CCtl) (d a b : BitVec 5) : (compactBits k c d a b).extractLsb' 5 5 = a := by
  apply BitVec.eq_of_getLsbD_eq
  intro i hi
  rw [BitVec.getLsbD_extractLsb', compactBits_getLsbD]
  rcases i with _|_|_|_|_|i
  all_goals first
    | omega
    | simp

theorem compactBits_b (k : BitVec 7) (c : CCtl) (d a b : BitVec 5) : (compactBits k c d a b).extractLsb' 0 5 = b := by
  apply BitVec.eq_of_getLsbD_eq
  intro i hi
  rw [BitVec.getLsbD_extractLsb', compactBits_getLsbD]
  rcases i with _|_|_|_|_|i
  all_goals first
    | omega
    | simp

theorem compactBits_inj (k : BitVec 7) (c : CCtl) (d a b d' a' b' : BitVec 5) :
    compactBits k c d a b = compactBits k c d' a' b' ↔ d = d' ∧ a = a' ∧ b = b' := by
  constructor
  · intro h
    exact ⟨by rw [← compactBits_d k c d a b, h, compactBits_d], by rw [← compactBits_a k c d a b, h, compactBits_a],
      by rw [← compactBits_b k c d a b, h, compactBits_b]⟩
  · rintro ⟨rfl, rfl, rfl⟩; rfl

/-- What a compact code's row and its full form have in common. -/
def compactAgree (k : BitVec 7) (c : CCtl) (d a b : COpnd) : Option Instr → Option (Instr × Bool × Bool × Bool) → Prop
  | none, none => True
  | some i, some (j, ud, ua, ub) =>
    i.core = j ∧ i.operandsOk = j.operandsOk ∧
      i.compactWord = some (compactBits k c (if ud then d.bits else 0) (if ua then a.bits else 0) (if ub then b.bits else 0))
  | _, _ => False

theorem compact_agree0 (n : Nat) (h : n < 16) (c : CCtl) (d a b : COpnd) :
    compactAgree (BitVec.ofNat 7 (0 + n)) c d a b (compactRow (0 + n) c d a b) (compactCore (0 + n) c d a b) := by
  match n, h with
  | 0, _ => exact ⟨rfl, rfl, rfl⟩
  | 1, _ => exact ⟨rfl, rfl, rfl⟩
  | 2, _ => exact ⟨rfl, rfl, rfl⟩
  | 3, _ => exact ⟨rfl, rfl, rfl⟩
  | 4, _ => exact ⟨rfl, rfl, rfl⟩
  | 5, _ => exact ⟨rfl, rfl, rfl⟩
  | 6, _ => exact ⟨rfl, rfl, rfl⟩
  | 7, _ => exact ⟨rfl, rfl, rfl⟩
  | 8, _ => exact ⟨rfl, rfl, rfl⟩
  | 9, _ => exact ⟨rfl, rfl, rfl⟩
  | 10, _ => exact ⟨rfl, rfl, rfl⟩
  | 11, _ => exact ⟨rfl, rfl, rfl⟩
  | 12, _ => exact ⟨rfl, rfl, rfl⟩
  | 13, _ => exact trivial
  | 14, _ => exact trivial
  | 15, _ => exact trivial
  | n + 16, h => exact absurd h (by omega)

theorem compact_agree1 (n : Nat) (h : n < 16) (c : CCtl) (d a b : COpnd) :
    compactAgree (BitVec.ofNat 7 (16 + n)) c d a b (compactRow (16 + n) c d a b) (compactCore (16 + n) c d a b) := by
  match n, h with
  | 0, _ => exact ⟨rfl, rfl, rfl⟩
  | 1, _ => exact ⟨rfl, rfl, rfl⟩
  | 2, _ => exact ⟨rfl, rfl, rfl⟩
  | 3, _ => exact ⟨rfl, rfl, rfl⟩
  | 4, _ => exact ⟨rfl, rfl, rfl⟩
  | 5, _ => exact ⟨rfl, rfl, rfl⟩
  | 6, _ => exact ⟨rfl, rfl, rfl⟩
  | 7, _ => exact ⟨rfl, rfl, rfl⟩
  | 8, _ => exact ⟨rfl, rfl, rfl⟩
  | 9, _ => exact ⟨rfl, rfl, rfl⟩
  | 10, _ => exact ⟨rfl, rfl, rfl⟩
  | 11, _ => exact ⟨rfl, rfl, rfl⟩
  | 12, _ => exact ⟨rfl, rfl, rfl⟩
  | 13, _ => exact ⟨rfl, rfl, rfl⟩
  | 14, _ => exact ⟨rfl, rfl, rfl⟩
  | 15, _ => exact ⟨rfl, rfl, rfl⟩
  | n + 16, h => exact absurd h (by omega)

theorem compact_agree2 (n : Nat) (h : n < 16) (c : CCtl) (d a b : COpnd) :
    compactAgree (BitVec.ofNat 7 (32 + n)) c d a b (compactRow (32 + n) c d a b) (compactCore (32 + n) c d a b) := by
  match n, h with
  | 0, _ => exact ⟨rfl, rfl, rfl⟩
  | 1, _ => exact ⟨rfl, rfl, rfl⟩
  | 2, _ => exact ⟨rfl, rfl, rfl⟩
  | 3, _ => exact ⟨rfl, rfl, rfl⟩
  | 4, _ => exact ⟨rfl, rfl, rfl⟩
  | 5, _ => exact ⟨rfl, rfl, rfl⟩
  | 6, _ => exact ⟨rfl, rfl, rfl⟩
  | 7, _ => exact ⟨rfl, rfl, rfl⟩
  | 8, _ => exact ⟨rfl, rfl, rfl⟩
  | 9, _ => exact ⟨rfl, rfl, rfl⟩
  | 10, _ => exact ⟨rfl, rfl, rfl⟩
  | 11, _ => exact ⟨rfl, rfl, rfl⟩
  | 12, _ => exact ⟨rfl, rfl, rfl⟩
  | 13, _ => exact ⟨rfl, rfl, rfl⟩
  | 14, _ => exact ⟨rfl, rfl, rfl⟩
  | 15, _ => exact ⟨rfl, rfl, rfl⟩
  | n + 16, h => exact absurd h (by omega)

theorem compact_agree3 (n : Nat) (h : n < 16) (c : CCtl) (d a b : COpnd) :
    compactAgree (BitVec.ofNat 7 (48 + n)) c d a b (compactRow (48 + n) c d a b) (compactCore (48 + n) c d a b) := by
  match n, h with
  | 0, _ => exact ⟨rfl, rfl, rfl⟩
  | 1, _ => exact ⟨rfl, rfl, rfl⟩
  | 2, _ => exact ⟨rfl, rfl, rfl⟩
  | 3, _ => exact ⟨rfl, rfl, rfl⟩
  | 4, _ => exact ⟨rfl, rfl, rfl⟩
  | 5, _ => exact ⟨rfl, rfl, rfl⟩
  | 6, _ => exact ⟨rfl, rfl, rfl⟩
  | 7, _ => exact ⟨rfl, rfl, rfl⟩
  | 8, _ => exact ⟨rfl, rfl, rfl⟩
  | 9, _ => exact ⟨rfl, rfl, rfl⟩
  | 10, _ => exact ⟨rfl, rfl, rfl⟩
  | 11, _ => exact ⟨rfl, rfl, rfl⟩
  | 12, _ => exact ⟨rfl, rfl, rfl⟩
  | 13, _ => exact ⟨rfl, rfl, rfl⟩
  | 14, _ => exact ⟨rfl, rfl, rfl⟩
  | 15, _ => exact ⟨rfl, rfl, rfl⟩
  | n + 16, h => exact absurd h (by omega)

theorem compact_agree4 (n : Nat) (h : n < 16) (c : CCtl) (d a b : COpnd) :
    compactAgree (BitVec.ofNat 7 (64 + n)) c d a b (compactRow (64 + n) c d a b) (compactCore (64 + n) c d a b) := by
  match n, h with
  | 0, _ => exact ⟨rfl, rfl, rfl⟩
  | 1, _ => exact ⟨rfl, rfl, rfl⟩
  | 2, _ => exact ⟨rfl, rfl, rfl⟩
  | 3, _ => exact ⟨rfl, rfl, rfl⟩
  | 4, _ => exact ⟨rfl, rfl, rfl⟩
  | 5, _ => exact ⟨rfl, rfl, rfl⟩
  | 6, _ => exact ⟨rfl, rfl, rfl⟩
  | 7, _ => exact ⟨rfl, rfl, rfl⟩
  | 8, _ => exact ⟨rfl, rfl, rfl⟩
  | 9, _ => exact ⟨rfl, rfl, rfl⟩
  | 10, _ => exact ⟨rfl, rfl, rfl⟩
  | 11, _ => exact ⟨rfl, rfl, rfl⟩
  | 12, _ => exact ⟨rfl, rfl, rfl⟩
  | 13, _ => exact ⟨rfl, rfl, rfl⟩
  | 14, _ => exact ⟨rfl, rfl, rfl⟩
  | 15, _ => exact ⟨rfl, rfl, rfl⟩
  | n + 16, h => exact absurd h (by omega)

theorem compact_agree5 (n : Nat) (h : n < 16) (c : CCtl) (d a b : COpnd) :
    compactAgree (BitVec.ofNat 7 (80 + n)) c d a b (compactRow (80 + n) c d a b) (compactCore (80 + n) c d a b) := by
  match n, h with
  | 0, _ => exact ⟨rfl, rfl, rfl⟩
  | 1, _ => exact ⟨rfl, rfl, rfl⟩
  | 2, _ => exact ⟨rfl, rfl, rfl⟩
  | 3, _ => exact ⟨rfl, rfl, rfl⟩
  | 4, _ => exact ⟨rfl, rfl, rfl⟩
  | 5, _ => exact ⟨rfl, rfl, rfl⟩
  | 6, _ => exact ⟨rfl, rfl, rfl⟩
  | 7, _ => exact ⟨rfl, rfl, rfl⟩
  | 8, _ => exact ⟨rfl, rfl, rfl⟩
  | 9, _ => exact ⟨rfl, rfl, rfl⟩
  | 10, _ => exact ⟨rfl, rfl, rfl⟩
  | 11, _ => exact ⟨rfl, rfl, rfl⟩
  | 12, _ => exact ⟨rfl, rfl, rfl⟩
  | 13, _ => exact ⟨rfl, rfl, rfl⟩
  | 14, _ => exact ⟨rfl, rfl, rfl⟩
  | 15, _ => exact ⟨rfl, rfl, rfl⟩
  | n + 16, h => exact absurd h (by omega)

theorem compact_agree6 (n : Nat) (h : n < 16) (c : CCtl) (d a b : COpnd) :
    compactAgree (BitVec.ofNat 7 (96 + n)) c d a b (compactRow (96 + n) c d a b) (compactCore (96 + n) c d a b) := by
  match n, h with
  | 0, _ => exact ⟨rfl, rfl, rfl⟩
  | 1, _ => exact ⟨rfl, rfl, rfl⟩
  | 2, _ => exact ⟨rfl, rfl, rfl⟩
  | 3, _ => exact ⟨rfl, rfl, rfl⟩
  | 4, _ => exact ⟨rfl, rfl, rfl⟩
  | 5, _ => exact ⟨rfl, rfl, rfl⟩
  | 6, _ => exact ⟨rfl, rfl, rfl⟩
  | 7, _ => exact ⟨rfl, rfl, rfl⟩
  | 8, _ => exact ⟨rfl, rfl, rfl⟩
  | 9, _ => exact ⟨rfl, rfl, rfl⟩
  | 10, _ => exact ⟨rfl, rfl, rfl⟩
  | 11, _ => exact ⟨rfl, rfl, rfl⟩
  | 12, _ => exact ⟨rfl, rfl, rfl⟩
  | 13, _ => exact ⟨rfl, rfl, rfl⟩
  | 14, _ => exact ⟨rfl, rfl, rfl⟩
  | 15, _ => exact ⟨rfl, rfl, rfl⟩
  | n + 16, h => exact absurd h (by omega)

theorem compact_agree7 (n : Nat) (h : n < 16) (c : CCtl) (d a b : COpnd) :
    compactAgree (BitVec.ofNat 7 (112 + n)) c d a b (compactRow (112 + n) c d a b) (compactCore (112 + n) c d a b) := by
  match n, h with
  | 0, _ => exact ⟨rfl, rfl, rfl⟩
  | 1, _ => exact ⟨rfl, rfl, rfl⟩
  | 2, _ => exact ⟨rfl, rfl, rfl⟩
  | 3, _ => exact ⟨rfl, rfl, rfl⟩
  | 4, _ => exact ⟨rfl, rfl, rfl⟩
  | 5, _ => exact ⟨rfl, rfl, rfl⟩
  | 6, _ => exact ⟨rfl, rfl, rfl⟩
  | 7, _ => exact ⟨rfl, rfl, rfl⟩
  | 8, _ => exact ⟨rfl, rfl, rfl⟩
  | 9, _ => exact ⟨rfl, rfl, rfl⟩
  | 10, _ => exact ⟨rfl, rfl, rfl⟩
  | 11, _ => exact ⟨rfl, rfl, rfl⟩
  | 12, _ => exact ⟨rfl, rfl, rfl⟩
  | 13, _ => exact ⟨rfl, rfl, rfl⟩
  | 14, _ => exact ⟨rfl, rfl, rfl⟩
  | 15, _ => exact ⟨rfl, rfl, rfl⟩
  | n + 16, h => exact absurd h (by omega)

theorem compact_agree (code : Nat) (h : code < 128) (c : CCtl) (d a b : COpnd) :
    compactAgree (BitVec.ofNat 7 code) c d a b (compactRow code c d a b) (compactCore code c d a b) := by
  obtain ⟨q, n, hn, rfl, hq⟩ : ∃ q n, n < 16 ∧ code = 16 * q + n ∧ q < 8 :=
    ⟨code / 16, code % 16, Nat.mod_lt _ (by omega), by omega, by omega⟩
  match q, hq with
  | 0, _ => exact compact_agree0 n hn c d a b
  | 1, _ => exact compact_agree1 n hn c d a b
  | 2, _ => exact compact_agree2 n hn c d a b
  | 3, _ => exact compact_agree3 n hn c d a b
  | 4, _ => exact compact_agree4 n hn c d a b
  | 5, _ => exact compact_agree5 n hn c d a b
  | 6, _ => exact compact_agree6 n hn c d a b
  | 7, _ => exact compact_agree7 n hn c d a b
  | q + 8, h => exact absurd h (by omega)

end Sys2Proof
end

