-- ==== Sys2Proof/Machine/Float.lean ====
section
/-! DEFINITION. Number formats and floating-point arithmetic (R60 to R74, R80 to R86): every result is formed exactly on integers
and rounded once. -/

namespace Sys2Proof.Machine

/-- The sticky flags as bits (R71, R72). -/
abbrev FFlags := BitVec 5
def flagIV : FFlags := 1
def flagDZ : FFlags := 2
def flagOF : FFlags := 4
def flagUF : FFlags := 8
def flagNX : FFlags := 16

/-- What a format has beside its finite values (R63, R64). -/
inductive Specials where
  | ieee | nanOnly | none
  deriving DecidableEq, Repr

/-- A floating-point format: exponent bits, fraction bits, bias (R63, R64). -/
structure FloatFmt where
  ebits : Nat
  mbits : Nat
  bias : Nat
  sp : Specials
  deriving DecidableEq, Repr

def FloatFmt.f32 : FloatFmt := ⟨8, 23, 127, .ieee⟩
def FloatFmt.f16 : FloatFmt := ⟨5, 10, 15, .ieee⟩
def FloatFmt.bf16 : FloatFmt := ⟨8, 7, 127, .ieee⟩
def FloatFmt.e4m3 : FloatFmt := ⟨4, 3, 7, .nanOnly⟩
def FloatFmt.e5m2 : FloatFmt := ⟨5, 2, 15, .ieee⟩
def FloatFmt.e3m2 : FloatFmt := ⟨3, 2, 3, .none⟩
def FloatFmt.e2m3 : FloatFmt := ⟨2, 3, 1, .none⟩
def FloatFmt.e2m1 : FloatFmt := ⟨2, 1, 1, .none⟩

/-- The format of a float type code (R55). -/
def FloatFmt.ofTy : Ty → FloatFmt
  | .f16 => .f16 | .bf16 => .bf16 | .e4m3 => .e4m3 | .e5m2 => .e5m2 | .e3m2 => .e3m2 | .e2m3 => .e2m3 | .e2m1 => .e2m1
  | _ => .f32

def FloatFmt.width (f : FloatFmt) : Nat := 1 + f.ebits + f.mbits

/-- Whether the format is one of the three wide ones, which .ftz acts on (R63, R66). -/
def FloatFmt.wide (f : FloatFmt) : Bool := f = .f32 || f = .f16 || f = .bf16

/-- A decoded float: a NaN, signalling or quiet; an infinity; or a signed magnitude `mag * 2 ^ exp`. -/
inductive FVal where
  | nan (sig : Bool)
  | inf (neg : Bool)
  | fin (neg : Bool) (mag : Nat) (exp : Int)
  deriving DecidableEq, Repr

/-- The value of a bit pattern (R63, R64). -/
def FloatFmt.decode (f : FloatFmt) (bits : Nat) : FVal :=
  let frac := bits % 2 ^ f.mbits
  let e := bits / 2 ^ f.mbits % 2 ^ f.ebits
  let neg := bits / 2 ^ (f.mbits + f.ebits) % 2 = 1
  let top := 2 ^ f.ebits - 1
  if f.sp = .ieee && e = top then
    if frac = 0 then .inf neg else .nan (frac / 2 ^ (f.mbits - 1) = 0)
  else if f.sp = .nanOnly && e = top && frac = 2 ^ f.mbits - 1 then .nan false
  else if e = 0 then .fin neg frac (1 - (f.bias : Int) - f.mbits)
  else .fin neg (2 ^ f.mbits + frac) ((e : Int) - f.bias - f.mbits)

/-- The canonical NaN; a format without one gives its largest finite value (R64, R69). -/
def FloatFmt.canonNan (f : FloatFmt) : Nat :=
  match f.sp with
  | .ieee => (2 ^ f.ebits - 1) * 2 ^ f.mbits + 2 ^ (f.mbits - 1)
  | .nanOnly => 2 ^ (f.ebits + f.mbits) - 1
  | .none => 2 ^ (f.ebits + f.mbits) - 1

/-- The largest finite magnitude's pattern. -/
def FloatFmt.maxFinite (f : FloatFmt) : Nat :=
  match f.sp with
  | .ieee => (2 ^ f.ebits - 1) * 2 ^ f.mbits - 1
  | .nanOnly => 2 ^ (f.ebits + f.mbits) - 2
  | .none => 2 ^ (f.ebits + f.mbits) - 1

def FloatFmt.infinity (f : FloatFmt) : Nat := (2 ^ f.ebits - 1) * 2 ^ f.mbits

def FloatFmt.signed (f : FloatFmt) (neg : Bool) (mag : Nat) : Nat := mag + if neg then 2 ^ (f.ebits + f.mbits) else 0

/-- Number of bits of a magnitude. -/
def bitLen (n : Nat) : Nat := if n = 0 then 0 else Nat.log2 n + 1

/-- A magnitude `mag * 2 ^ exp`, plus a part too small to list when `sticky`, as a multiple of `2 ^ q`: the rounded multiple
and whether it is inexact (R65). -/
def roundAt (rnd : Rnd) (neg sticky : Bool) (mag : Nat) (exp q : Int) : Nat × Bool :=
  let s := q - exp
  let m := if s ≤ 0 then mag * 2 ^ (-s).toNat else mag / 2 ^ s.toNat
  let rem := if s ≤ 0 then 0 else mag % 2 ^ s.toNat
  let half := if s ≤ 0 then 1 else 2 ^ (s.toNat - 1)
  let inexact := rem != 0 || sticky
  let up :=
    match rnd with
    | .rn => rem > half || (rem = half && (sticky || m % 2 = 1))
    | .rz => false
    | .ru => inexact && !neg
    | .rd => inexact && neg
  (if up then m + 1 else m, inexact)

/-- Rounds a magnitude into a format: the bits and the flags (R65, R66, R69, R71). With `sat`, an overflow gives the largest
finite value in a format with infinity too (R77). -/
def FloatFmt.round (f : FloatFmt) (rnd : Rnd) (ftz sat neg sticky : Bool) (mag : Nat) (exp : Int) : Nat × FFlags :=
  if mag = 0 && !sticky then (f.signed neg 0, 0)
  else
    let lowest : Int := 1 - (f.bias : Int) - f.mbits
    let q := exp + (bitLen mag : Int) - (f.mbits + 1 : Nat)
    let free := roundAt rnd neg sticky mag exp q
    let tiny := (bitLen free.1 : Int) + q ≤ lowest + f.mbits
    let qa := if q < lowest then lowest else q
    let r := roundAt rnd neg sticky mag exp qa
    let grows := r.1 = 2 ^ (f.mbits + 1)
    let m := if grows then 2 ^ f.mbits else r.1
    let qa := if grows then qa + 1 else qa
    let e : Int := if m < 2 ^ f.mbits then 0 else qa + f.mbits + f.bias
    let pattern := e.toNat * 2 ^ f.mbits + (if m < 2 ^ f.mbits then m else m - 2 ^ f.mbits)
    if pattern > f.maxFinite then
      let toMax := sat || f.sp != .ieee ||
        (match rnd with | .rn => false | .rz => true | .ru => neg | .rd => !neg)
      (f.signed neg (if toMax then f.maxFinite else f.infinity), flagOF ||| flagNX)
    else if ftz && f.wide && e = 0 && m != 0 then (f.signed neg 0, flagUF ||| flagNX)
    else (f.signed neg pattern, (if r.2 then flagNX else 0) ||| (if tiny && r.2 then flagUF else 0))

/-- Reads an operand, flushing a subnormal under .ftz (R66). -/
def FloatFmt.read (f : FloatFmt) (ftz : Bool) (bits : Nat) : FVal :=
  match f.decode bits with
  | .fin neg mag exp => if ftz && f.wide && mag < 2 ^ f.mbits then .fin neg 0 exp else .fin neg mag exp
  | v => v

/-- IV for a signalling NaN (R67). -/
def FVal.sigFlag : FVal → FFlags
  | .nan true => flagIV
  | _ => 0

def FVal.isNan : FVal → Bool
  | .nan _ => true
  | _ => false

def FVal.isNeg : FVal → Bool
  | .nan _ => false
  | .inf n => n
  | .fin n _ _ => n

def FVal.negate : FVal → FVal
  | .nan s => .nan s
  | .inf n => .inf (!n)
  | .fin n m e => .fin (!n) m e

/-- An exact dyadic number `num * 2 ^ exp`. -/
structure Dyadic where
  num : Int
  exp : Int
  deriving DecidableEq, Repr

def Dyadic.zero : Dyadic := ⟨0, 0⟩

/-- The numerator over a lower exponent. -/
def Dyadic.numAt (d : Dyadic) (e : Int) : Int := d.num * 2 ^ (d.exp - e).toNat

def Dyadic.add (a b : Dyadic) : Dyadic :=
  let e := if a.exp ≤ b.exp then a.exp else b.exp
  ⟨a.numAt e + b.numAt e, e⟩

def Dyadic.mul (a b : Dyadic) : Dyadic := ⟨a.num * b.num, a.exp + b.exp⟩

def Dyadic.lt (a b : Dyadic) : Bool :=
  let e := if a.exp ≤ b.exp then a.exp else b.exp
  a.numAt e < b.numAt e

def FVal.dyadic : FVal → Dyadic
  | .fin neg mag exp => ⟨if neg then -(mag : Int) else mag, exp⟩
  | _ => .zero

/-- Rounds an exact number; a zero takes the sign given. -/
def FloatFmt.ofDyadic (f : FloatFmt) (rnd : Rnd) (ftz sat zeroNeg : Bool) (d : Dyadic) : Nat × FFlags :=
  if d.num = 0 then (f.signed zeroNeg 0, 0) else f.round rnd ftz sat (d.num < 0) false d.num.natAbs d.exp

def FloatFmt.nanResult (f : FloatFmt) (fl : FFlags) : Nat × FFlags := (f.canonNan, fl)

/-- A sum (R65 to R67): an exact zero is +0, or -0 under .rd, unless both operands are zeros of one sign. -/
def FloatFmt.sum (f : FloatFmt) (rnd : Rnd) (ftz : Bool) (x y : FVal) : Nat × FFlags :=
  let sig := x.sigFlag ||| y.sigFlag
  match x, y with
  | .nan _, _ | _, .nan _ => f.nanResult sig
  | .inf a, .inf b => if a = b then (f.signed a f.infinity, 0) else f.nanResult flagIV
  | .inf a, _ => (f.signed a f.infinity, 0)
  | _, .inf b => (f.signed b f.infinity, 0)
  | .fin a m _, .fin b n _ =>
    let zeroNeg := if m = 0 && n = 0 && a = b then a else rnd = .rd
    f.ofDyadic rnd ftz false zeroNeg (x.dyadic.add y.dyadic)

/-- A product, exact (R67): a NaN with its flag, an infinity, or a signed magnitude. -/
def FVal.times (x y : FVal) : FVal × FFlags :=
  let sig := x.sigFlag ||| y.sigFlag
  match x, y with
  | .nan _, _ | _, .nan _ => (.nan false, sig)
  | .inf a, .inf b => (.inf (a != b), 0)
  | .inf a, .fin b m _ | .fin b m _, .inf a => if m = 0 then (.nan false, flagIV) else (.inf (a != b), 0)
  | .fin a m e, .fin b n g => (.fin (a != b) (m * n) (e + g), 0)

/-- Writes an exact value into a format. -/
def FloatFmt.put (f : FloatFmt) (rnd : Rnd) (ftz : Bool) : FVal → Nat × FFlags
  | .nan s => f.nanResult (if s then flagIV else 0)
  | .inf n => (f.signed n f.infinity, 0)
  | .fin neg mag exp => f.round rnd ftz false neg false mag exp

def orFlags (r : Nat × FFlags) (fl : FFlags) : Nat × FFlags := (r.1, r.2 ||| fl)

/-- FADD, FSUB and FMUL in one format (R65 to R67). -/
def FloatFmt.fadd (f : FloatFmt) (rnd : Rnd) (ftz : Bool) (a b : Nat) : Nat × FFlags := f.sum rnd ftz (f.read ftz a) (f.read ftz b)

def FloatFmt.fsub (f : FloatFmt) (rnd : Rnd) (ftz : Bool) (a b : Nat) : Nat × FFlags :=
  f.sum rnd ftz (f.read ftz a) (f.read ftz b).negate

def FloatFmt.fmul (f : FloatFmt) (rnd : Rnd) (ftz : Bool) (a b : Nat) : Nat × FFlags :=
  let p := (f.read ftz a).times (f.read ftz b)
  orFlags (f.put rnd ftz p.1) p.2

/-- The fused multiply-add: one rounding. -/
def FloatFmt.fma (f : FloatFmt) (rnd : Rnd) (ftz : Bool) (x y z : FVal) : Nat × FFlags :=
  let p := x.times y
  orFlags (f.sum rnd ftz p.1 z) (p.2 ||| z.sigFlag)

/-- The order of R68 on two values that are not NaNs: -0 below +0. -/
def FVal.below (x y : FVal) : Bool :=
  match x, y with
  | .inf a, .inf b => a && !b
  | .inf a, _ => a
  | _, .inf b => !b
  | .fin a m _, .fin b n _ => if m = 0 && n = 0 then a && !b else x.dyadic.lt y.dyadic
  | _, _ => false

/-- FMIN and FMAX (R68); under .ftz a flushed operand is read, and written, as zero of its sign. -/
def FloatFmt.minMax (f : FloatFmt) (isMax ftz : Bool) (a b : Nat) : Nat × FFlags :=
  let x := f.read ftz a
  let y := f.read ftz b
  let sig := x.sigFlag ||| y.sigFlag
  let back (v : FVal) : Nat := (f.put .rn ftz v).1
  if x.isNan && y.isNan then f.nanResult sig
  else if x.isNan then (back y, sig)
  else if y.isNan then (back x, sig)
  else (back (if x.below y != isMax then x else y), sig)

/-- A comparison (R68). -/
def FVal.compare (c : Cmp) (x y : FVal) : Bool × FFlags :=
  let sig := x.sigFlag ||| y.sigFlag
  let nan := x.isNan || y.isNan
  let lt := x.below y && !(x.dyadic.num = 0 && y.dyadic.num = 0 && (x matches .fin ..) && (y matches .fin ..))
  let gt := y.below x && !(x.dyadic.num = 0 && y.dyadic.num = 0 && (x matches .fin ..) && (y matches .fin ..))
  let eq := !nan && !lt && !gt
  let iv : FFlags := if nan then flagIV else 0
  match c with
  | .eq => (eq, sig)
  | .ne => (!eq, sig)
  | .un => (nan, sig)
  | .ord => (!nan, sig)
  | .lt => (!nan && lt, iv)
  | .le => (!nan && (lt || eq), iv)
  | .gt => (!nan && gt, iv)
  | .ge => (!nan && (gt || eq), iv)

/-- A conversion between float formats (R65 to R67, R69). With `sat`, an infinity too becomes the largest finite value only where
the target has none; a NaN stays one where the target has one. -/
def FloatFmt.convert (src dst : FloatFmt) (rnd : Rnd) (ftz sat : Bool) (bits : Nat) : Nat × FFlags :=
  match src.read ftz bits with
  | .nan s => (dst.canonNan, if dst.sp = .none || s then flagIV else 0)
  | .inf n => if dst.sp = .ieee then (dst.signed n dst.infinity, 0) else (dst.signed n dst.maxFinite, flagNX)
  | .fin neg mag exp => dst.round rnd ftz sat neg false mag exp

/-- Rounds to an integer: its magnitude and whether it is inexact. -/
def FVal.toInteger (rnd : Rnd) : FVal → Int × Bool
  | .fin neg mag exp =>
    let r := roundAt rnd neg false mag exp 0
    (if neg then -(r.1 : Int) else r.1, r.2)
  | _ => (0, false)

/-- F2I (R70) into a range. -/
def FVal.toRange (rnd : Rnd) (lo hi : Int) (v : FVal) : Int × FFlags :=
  match v with
  | .nan _ => (0, flagIV)
  | .inf n => (if n then lo else hi, flagIV)
  | .fin .. =>
    let r := v.toInteger rnd
    if r.1 < lo then (lo, flagIV) else if hi < r.1 then (hi, flagIV) else (r.1, if r.2 then flagNX else 0)

/-- I2F (R70). -/
def FloatFmt.ofInt (f : FloatFmt) (rnd : Rnd) (ftz : Bool) (n : Int) : Nat × FFlags := f.ofDyadic rnd ftz false false ⟨n, 0⟩

/-- FRND (R177): to an integral value in the same format, keeping the sign of a zero; it never sets NX. -/
def FloatFmt.integral (f : FloatFmt) (rnd : Rnd) (ftz : Bool) (bits : Nat) : Nat × FFlags :=
  match f.read ftz bits with
  | .nan s => f.nanResult (if s then flagIV else 0)
  | .inf n => (f.signed n f.infinity, 0)
  | .fin neg mag exp =>
    let r := roundAt rnd neg false mag exp 0
    ((f.round .rn false false neg false r.1 0).1, 0)

end Sys2Proof.Machine
end

