-- ==== Sys2Proof/Machine/Sfu.lean ====
section
/-! DEFINITION. The special functions of R175: the exact value is formed to far more bits than any f32 rounding boundary needs,
then rounded once with RNE. Fixed-point numbers carry `P` fraction bits; recursion is on explicit fuel. -/

namespace Sys2Proof.Machine

/-- Integer square root, one bit at a time from `2 ^ k` down. -/
def isqrtFrom (n : Nat) : Nat → Nat → Nat
  | 0, r => if (r + 1) * (r + 1) ≤ n then r + 1 else r
  | k + 1, r =>
    let t := r + 2 ^ (k + 1)
    isqrtFrom n k (if t * t ≤ n then t else r)

def isqrt (n : Nat) : Nat := isqrtFrom n (bitLen n / 2 + 1) 0

/-- The fraction bits of the fixed-point work. -/
def fixP : Nat := 256

/-- Sum of z^(2k+1) / (2k+1), k < fuel, for z = num / den, signs alternating when `alt`, in `p` fraction bits. -/
def oddSeries (p : Nat) (alt : Bool) (zz : Nat) : Nat → Nat → Nat → Int
  | 0, _, _ => 0
  | fuel + 1, k, pow =>
    let term : Int := (pow / (2 * k + 1) : Nat)
    (if alt && k % 2 = 1 then -term else term) + oddSeries p alt zz fuel (k + 1) (pow * zz / 2 ^ p)

/-- atanh or arctan of 1/n in `p` fraction bits. -/
def invSeries (p : Nat) (alt : Bool) (n : Nat) (fuel : Nat) : Int := oddSeries p alt (2 ^ p / (n * n)) fuel 0 (2 ^ p / n)

/-- ln 2 = 2 atanh (1/3). -/
def ln2Fix (p : Nat) : Nat := (2 * invSeries p false 3 (p / 3 + 2)).toNat

/-- pi = 16 arctan (1/5) - 4 arctan (1/239) (Machin). -/
def piFix (p : Nat) : Nat := (16 * invSeries p true 5 (p / 4 + 2) - 4 * invSeries p true 239 (p / 15 + 2)).toNat

/-- Sum of t^k / k! from term k on, for a fixed-point t, stepping k by one or two, signs alternating when `alt`. -/
def factSeries (p : Nat) (step2 alt : Bool) (t : Nat) : Nat → Nat → Int → Int
  | 0, _, _ => 0
  | fuel + 1, k, term =>
    let next : Int :=
      if step2 then term * t / 2 ^ p * t / 2 ^ p / ((k + 1) * (k + 2) : Nat) else term * t / 2 ^ p / (k + 1 : Nat)
    term + factSeries p step2 alt t fuel (if step2 then k + 2 else k + 1) (if alt then -next else next)

/-- 2^f for a fraction f in fixed point. -/
def exp2Fix (p f : Nat) : Nat := (factSeries p false false (f * ln2Fix p / 2 ^ p) 80 0 (2 ^ p)).toNat

/-- Bits of log2 of y in [1, 2), one by repeated squaring. -/
def log2Bits (p : Nat) : Nat → Nat → Nat → Nat
  | 0, _, acc => acc
  | fuel + 1, y, acc =>
    let q := y * y / 2 ^ p
    if 2 ^ (p + 1) ≤ q then log2Bits p fuel (q / 2) (2 * acc + 1) else log2Bits p fuel q (2 * acc)

/-- 1/A (R175). -/
def sfuRcp (ftz : Bool) (x : FVal) : Nat × FFlags :=
  let f := FloatFmt.f32
  match x with
  | .nan s => f.nanResult (if s then flagIV else 0)
  | .inf n => (f.signed n 0, 0)
  | .fin n m e =>
    if m = 0 then (f.signed n f.infinity, flagDZ)
    else
      let k := bitLen m + 64
      f.round .rn ftz false n (2 ^ k % m != 0) (2 ^ k / m) (-e - k)

/-- The square root of a positive magnitude, as a magnitude, an exponent and whether bits were left out. -/
def rootOf (m : Nat) (e : Int) : Nat × Int × Bool :=
  let odd := e % 2 != 0
  let m := (if odd then 2 * m else m) * 2 ^ 128
  let e := (if odd then e - 1 else e) - 128
  let r := isqrt m
  (r, e / 2, r * r != m)

def sfuSqrt (ftz : Bool) (x : FVal) : Nat × FFlags :=
  let f := FloatFmt.f32
  match x with
  | .nan s => f.nanResult (if s then flagIV else 0)
  | .inf n => if n then f.nanResult flagIV else (f.infinity, 0)
  | .fin n m e =>
    if m = 0 then (f.signed n 0, 0)
    else if n then f.nanResult flagIV
    else
      let r := rootOf m e
      f.round .rn ftz false false r.2.2 r.1 r.2.1

/-- 1/sqrt A: the root of the reciprocal, exact only when both are. -/
def sfuRsqrt (ftz : Bool) (x : FVal) : Nat × FFlags :=
  let f := FloatFmt.f32
  match x with
  | .nan s => f.nanResult (if s then flagIV else 0)
  | .inf n => if n then f.nanResult flagIV else (0, 0)
  | .fin n m e =>
    if m = 0 then (f.signed n f.infinity, flagDZ)
    else if n then f.nanResult flagIV
    else
      let odd := e % 2 != 0
      let m := if odd then 2 * m else m
      let e := if odd then e - 1 else e
      let q := 2 ^ 256 / m
      let r := isqrt q
      f.round .rn ftz false false (r * r * m != 2 ^ 256) r (-128 - e / 2)

def sfuExp2 (ftz : Bool) (x : FVal) : Nat × FFlags :=
  let f := FloatFmt.f32
  match x with
  | .nan s => f.nanResult (if s then flagIV else 0)
  | .inf n => (if n then 0 else f.infinity, 0)
  | .fin n m e =>
    if m = 0 then f.round .rn ftz false false false 1 0
    else
      let big := 9 < (bitLen m : Int) + e
      if big then f.round .rn ftz false false true 1 (if n then -400 else 400)
      else
        -- floor and fraction of the argument, in fixP fraction bits (exact: e ≥ -149)
        let v : Int := (m * 2 ^ (e + fixP).toNat : Nat)
        let v := if n then -v else v
        let whole := v / (2 ^ fixP : Nat)
        let frac := (v % (2 ^ fixP : Nat)).toNat
        if frac = 0 then f.round .rn ftz false false false 1 whole
        else f.round .rn ftz false false true (exp2Fix fixP frac) (whole - fixP)

def sfuLog2 (ftz : Bool) (x : FVal) : Nat × FFlags :=
  let f := FloatFmt.f32
  match x with
  | .nan s => f.nanResult (if s then flagIV else 0)
  | .inf n => if n then f.nanResult flagIV else (f.infinity, 0)
  | .fin n m e =>
    if m = 0 then (f.signed true f.infinity, flagDZ)
    else if n then f.nanResult flagIV
    else
      let whole : Int := (bitLen m : Int) - 1 + e
      let y := m * 2 ^ fixP / 2 ^ (bitLen m - 1)
      if y = 2 ^ fixP then f.ofDyadic .rn ftz false false ⟨whole, 0⟩
      else
        let v := whole * (2 ^ 128 : Nat) + (log2Bits fixP 128 y 0 : Nat)
        -- the bits cut off lie above v: for a negative result the magnitude's floor is one less
        if 0 ≤ v then f.round .rn ftz false false true v.toNat (-128)
        else f.round .rn ftz false true true ((-v).toNat - 1) (-128)

/-- The quadrant of an argument mod 4 and the remainder in [0, pi/2), in fixP fraction bits. -/
def reduceArg (m : Nat) (e : Int) : Nat × Nat :=
  let p := 448
  let halfPi := piFix p / 2
  let x := if 0 ≤ e + p then m * 2 ^ (e + p).toNat else m / 2 ^ (-(e + p)).toNat
  (x / halfPi % 4, x % halfPi / 2 ^ (p - fixP))

/-- sin and cos of a fixed-point angle in [0, pi/2). -/
def sinFix (t : Nat) : Nat := (factSeries fixP true true t 40 1 t).toNat
def cosFix (t : Nat) : Nat := (factSeries fixP true true t 40 0 (2 ^ fixP)).toNat

def sfuTrig (cos ftz : Bool) (x : FVal) : Nat × FFlags :=
  let f := FloatFmt.f32
  match x with
  | .nan s => f.nanResult (if s then flagIV else 0)
  | .inf _ => f.nanResult flagIV
  | .fin n m e =>
    if m = 0 then (if cos then f.round .rn ftz false false false 1 0 else (f.signed n 0, 0))
    else
      -- below 2^-40 the next series term is far under half an ulp
      if (bitLen m : Int) + e < -40 then
        (if cos then f.round .rn ftz false false true (2 ^ 64 - 1) (-64)
         else f.round .rn ftz false n true (m * 2 ^ 64 - 1) (e - 64))
      else
        let r := reduceArg m e
        let useCos := if cos then r.1 % 2 = 0 else r.1 % 2 = 1
        let neg := if cos then r.1 = 1 || r.1 = 2 else (decide (2 ≤ r.1)) != n
        f.round .rn ftz false neg true (if useCos then cosFix r.2 else sinFix r.2) (-fixP)

end Sys2Proof.Machine
end

