-- ==== Sys2Proof/Machine/Arith.lean ====
section
/-! DEFINITION. What each arithmetic instruction computes in one lane (R152 to R184): operand values in, the result and the
sticky flags out. A 32-bit operand or result stands in the low word of its `DWord`, the high word zero. -/

namespace Sys2Proof.Machine

/-- A lane's result and flags. -/
abbrev Res := DWord × FFlags

def w32 (v : DWord) : Word := v.setWidth 32
def ofW (v : Word) : DWord := v.setWidth 64
def boolD (b : Bool) : DWord := if b then 1 else 0

/-- The width in bits of an integer type's register operand. -/
def regBits (ty : Ty) : Nat := if ty.is64 then 64 else 32

/-- The exact integer that a type gives a register value: `ext` (R157). -/
def ext (ty : Ty) (v : DWord) : Int :=
  if ty.is64 then (if ty.signed then v.toInt else v.toNat) else if ty.signed then (w32 v).toInt else (w32 v).toNat

/-- Keeps the low bits for the type's width: `wrap` (R157). -/
def wrap (ty : Ty) (n : Int) : DWord := if ty.is64 then BitVec.ofInt 64 n else ofW (BitVec.ofInt 32 n)

/-- The range of an integer type (R60). -/
def tyMin (ty : Ty) : Int := if ty.signed then -(2 ^ (ty.bits - 1) : Nat) else 0
def tyMax (ty : Ty) : Int := if ty.signed then (2 ^ (ty.bits - 1) : Nat) - 1 else (2 ^ ty.bits : Nat) - 1

def clampTo (lo hi n : Int) : Int := if n < lo then lo else if hi < n then hi else n

def outside (ty : Ty) (n : Int) : Bool := n < tyMin ty || tyMax ty < n

/-- An exact result reduced to its type, with the flag of R61. -/
def reduce (ty : Ty) (sat : Bool) (n : Int) : Res :=
  (wrap ty (if sat then clampTo (tyMin ty) (tyMax ty) n else n), if ty.signed && outside ty n then flagIV else 0)

def laneAdd (ty : Ty) (sat : Bool) (a b : DWord) : Res := reduce ty sat (ext ty a + ext ty b)
def laneSub (ty : Ty) (sat : Bool) (a b : DWord) : Res := reduce ty sat (ext ty a - ext ty b)

/-- IADDC's sum and carry out (R159). -/
def laneAddc (a b : DWord) (c : Bool) : Word × Bool :=
  let x := (w32 a).toNat + (w32 b).toNat + c.toNat
  (BitVec.ofNat 32 x, decide (2 ^ 32 ≤ x))

def laneMul (ty : Ty) (a b : DWord) : Res := reduce ty false (ext ty a * ext ty b)
def laneMulh (ty : Ty) (a b : DWord) : Res := (ofW ((BitVec.ofInt 64 (ext ty a * ext ty b)).extractLsb' 32 32), 0)
def laneMad (ty : Ty) (a b c : DWord) : Res := reduce ty false (ext ty a * ext ty b + ext ty c)
def laneMadw (ty : Ty) (a b c : DWord) : Res := (BitVec.ofInt 64 (ext ty a * ext ty b) + c, 0)

/-- IDIV and IREM (R62, R161). -/
def laneDiv (ty : Ty) (a b : DWord) : Res :=
  let x := ext ty a
  let y := ext ty b
  if y = 0 then (wrap ty (if ty.signed then (if x < 0 then tyMin ty else tyMax ty) else tyMax ty), flagDZ)
  else reduce ty false (x.tdiv y)

def laneRem (ty : Ty) (a b : DWord) : Res :=
  let x := ext ty a
  let y := ext ty b
  if y = 0 then (wrap ty x, flagDZ) else (wrap ty (x.tmod y), 0)

def laneMin (ty : Ty) (a b : DWord) : Res := (if ext ty a ≤ ext ty b then wrap ty (ext ty a) else wrap ty (ext ty b), 0)
def laneMax (ty : Ty) (a b : DWord) : Res := (if ext ty a ≤ ext ty b then wrap ty (ext ty b) else wrap ty (ext ty a), 0)
def laneAbs (sat : Bool) (a : DWord) : Res := reduce .s32 sat (ext .s32 a).natAbs
def laneNeg (sat : Bool) (a : DWord) : Res := reduce .s32 sat (-ext .s32 a)

/-- LEA (R163). -/
def laneLea (ty : Ty) (sb : Bool) (a b c : DWord) : Res :=
  if ty.is64 then
    let x : DWord := if sb then (w32 b).signExtend 64 else ofW (w32 b)
    (a + (x <<< ((w32 c).toNat % 64)), 0)
  else (ofW (w32 a + (w32 b <<< ((w32 c).toNat % 32))), 0)

/-- Masks a result to the type's register width. -/
def fit (ty : Ty) (v : DWord) : DWord := if ty.is64 then v else ofW (w32 v)

def laneAnd (ty : Ty) (a b : DWord) : Res := (fit ty (a &&& b), 0)
def laneOr (ty : Ty) (a b : DWord) : Res := (fit ty (a ||| b), 0)
def laneXor (ty : Ty) (a b : DWord) : Res := (fit ty (a ^^^ b), 0)
def laneAndn (ty : Ty) (a b : DWord) : Res := (fit ty (a &&& ~~~b), 0)
def laneNot (ty : Ty) (a : DWord) : Res := (fit ty (~~~a), 0)

/-- The shifts (R165): a count of the width or more gives 0, the sign, or the rotation modulo the width. -/
def laneShl (ty : Ty) (a b : DWord) : Res :=
  let n := (w32 b).toNat
  (if regBits ty ≤ n then 0 else if ty.is64 then a <<< n else ofW (w32 a <<< n), 0)
def laneShr (ty : Ty) (a b : DWord) : Res :=
  let n := (w32 b).toNat
  (if regBits ty ≤ n then 0 else if ty.is64 then a >>> n else ofW (w32 a >>> n), 0)
def laneSar (ty : Ty) (a b : DWord) : Res :=
  let n := min (w32 b).toNat (regBits ty - 1)
  (if ty.is64 then a.sshiftRight n else ofW ((w32 a).sshiftRight n), 0)
def laneRot (ty : Ty) (a b : DWord) : Res :=
  let n := (w32 b).toNat
  (if ty.is64 then a.rotateLeft (n % 64) else ofW ((w32 a).rotateLeft (n % 32)), 0)

/-- SHF (R166). -/
def laneShf (left : Bool) (a b c : DWord) : Res :=
  let x : DWord := w32 c ++ w32 a
  let n := min (w32 b).toNat 32
  (if left then ofW ((x <<< n).extractLsb' 32 32) else ofW ((x >>> n).extractLsb' 0 32), 0)

/-- BFE and BFI (R167). -/
def laneBfe (ty : Ty) (a b : DWord) : Res :=
  let p := (b.extractLsb' 0 8).toNat
  let k := (b.extractLsb' 8 8).toNat
  if k = 0 then (0, 0)
  else
    let m := min k 32
    let f := (if p < 32 then (w32 a).toNat / 2 ^ p else 0) % 2 ^ m
    (ofW (if ty.signed && 2 ^ (m - 1) ≤ f then BitVec.ofInt 32 ((f : Int) - (2 ^ m : Nat)) else BitVec.ofNat 32 f), 0)

def laneBfi (a b c : DWord) : Res :=
  let p := (b.extractLsb' 0 8).toNat
  let k := (b.extractLsb' 8 8).toNat
  if k = 0 || 32 ≤ p then (ofW (w32 c), 0)
  else
    let m := min k (32 - p)
    let mask : Word := BitVec.ofNat 32 ((2 ^ m - 1) * 2 ^ p)
    (ofW ((w32 c &&& ~~~mask) ||| ((w32 a <<< p) &&& mask)), 0)

/-- Number of one bits among the low `n` of `v`. -/
def popCount (v : DWord) : Nat → Nat
  | 0 => 0
  | n + 1 => (v.getLsbD n).toNat + popCount v n

/-- The low `n` bits of `v` in reverse order. -/
def reverseBits (v : DWord) (n : Nat) : Nat → DWord
  | 0 => 0
  | k + 1 => reverseBits v n k ||| (if v.getLsbD k then (1#64) <<< (n - 1 - k) else 0)

def lanePopc (ty : Ty) (a : DWord) : Res := (BitVec.ofNat 64 (popCount a (regBits ty)), 0)
def laneClz (ty : Ty) (a : DWord) : Res := (BitVec.ofNat 64 ((regBits ty) - bitLen (fit ty a).toNat), 0)
def laneBrev (ty : Ty) (a : DWord) : Res := (reverseBits a (regBits ty) (regBits ty), 0)

/-- PRMB (R169). -/
def prmbByte (a b c : DWord) (i : Nat) : Byte :=
  let s := c.extractLsb' (8 * i) 8
  let x : DWord := w32 b ++ w32 a
  let y : Byte := x.extractLsb' (8 * (s.extractLsb' 0 3).toNat) 8
  match (s.extractLsb' 3 2).toNat with
  | 0 => y
  | 1 => 0
  | 2 => if y.getLsbD 7 then 0xFF else 0
  | _ => (reverseBits (y.setWidth 64) 8 8).setWidth 8

def lanePrmb (a b c : DWord) : Res :=
  (ofW (prmbByte a b c 3 ++ prmbByte a b c 2 ++ prmbByte a b c 1 ++ prmbByte a b c 0), 0)

/-- An integer comparison (R170). -/
def intCompare (c : Cmp) (x y : Int) : Bool :=
  match c with
  | .eq => x = y | .ne => x ≠ y | .lt => x < y | .le => x ≤ y | .gt => y < x | .ge => y ≤ x | .un => false | .ord => false

def laneIset (c : Cmp) (ty : Ty) (a b : DWord) : Res := (boolD (intCompare c (ext ty a) (ext ty b)), 0)

/-! ## Float (R171 to R179) -/

def ofF (r : Nat × FFlags) : Res := (BitVec.ofNat 64 r.1, r.2)
def f32Of (ftz : Bool) (v : DWord) : FVal := FloatFmt.f32.read ftz (w32 v).toNat

def laneFadd (rnd : Rnd) (ftz : Bool) (a b : DWord) : Res := ofF (FloatFmt.f32.fadd rnd ftz (w32 a).toNat (w32 b).toNat)
def laneFsub (rnd : Rnd) (ftz : Bool) (a b : DWord) : Res := ofF (FloatFmt.f32.fsub rnd ftz (w32 a).toNat (w32 b).toNat)
def laneFmul (rnd : Rnd) (ftz : Bool) (a b : DWord) : Res := ofF (FloatFmt.f32.fmul rnd ftz (w32 a).toNat (w32 b).toNat)
def laneFmin (ftz : Bool) (a b : DWord) : Res := ofF (FloatFmt.f32.minMax false ftz (w32 a).toNat (w32 b).toNat)
def laneFmax (ftz : Bool) (a b : DWord) : Res := ofF (FloatFmt.f32.minMax true ftz (w32 a).toNat (w32 b).toNat)
def laneFfma (rnd : Rnd) (ftz : Bool) (a b c : DWord) : Res :=
  ofF (FloatFmt.f32.fma rnd ftz (f32Of ftz a) (f32Of ftz b) (f32Of ftz c))
def laneFset (c : Cmp) (ftz : Bool) (a b : DWord) : Res :=
  let r := FVal.compare c (f32Of ftz a) (f32Of ftz b)
  (boolD r.1, r.2)
def laneFrcp (ftz : Bool) (a : DWord) : Res := ofF (sfuRcp ftz (f32Of ftz a))
def laneFrsq (ftz : Bool) (a : DWord) : Res := ofF (sfuRsqrt ftz (f32Of ftz a))
def laneFsqrt (ftz : Bool) (a : DWord) : Res := ofF (sfuSqrt ftz (f32Of ftz a))
def laneFex2 (ftz : Bool) (a : DWord) : Res := ofF (sfuExp2 ftz (f32Of ftz a))
def laneFlg2 (ftz : Bool) (a : DWord) : Res := ofF (sfuLog2 ftz (f32Of ftz a))
def laneFsin (ftz : Bool) (a : DWord) : Res := ofF (sfuTrig false ftz (f32Of ftz a))
def laneFcos (ftz : Bool) (a : DWord) : Res := ofF (sfuTrig true ftz (f32Of ftz a))

/-- One half of HFMA2 (R176). -/
def hfmaHalf (fmt : FloatFmt) (nc : Bool) (rnd : Rnd) (ftz : Bool) (a b c : BitVec 16) : Nat × FFlags :=
  let z := fmt.read ftz c.toNat
  fmt.fma rnd ftz (fmt.read ftz a.toNat) (fmt.read ftz b.toNat) (if nc then z.negate else z)

def laneHfma2 (ty : Ty) (sw bc nc : Bool) (rnd : Rnd) (ftz : Bool) (a b c : DWord) : Res :=
  let fmt := FloatFmt.ofTy ty
  let lo (v : DWord) : BitVec 16 := v.extractLsb' 0 16
  let hi (v : DWord) : BitVec 16 := v.extractLsb' 16 16
  let r0 := hfmaHalf fmt nc rnd ftz (lo a) (if sw then hi b else lo b) (lo c)
  let r1 := hfmaHalf fmt nc rnd ftz (if bc then lo a else hi a) (if sw then lo b else hi b) (hi c)
  (BitVec.ofNat 64 (r1.1 * 2 ^ 16 + r0.1), r0.2 ||| r1.2)

/-- A float source of a conversion: the low bits of its register (R177). -/
def fmtBits (fmt : FloatFmt) (v : DWord) : Nat := v.toNat % 2 ^ fmt.width

def laneF2i (ty sty : Ty) (rnd : Rnd) (ftz : Bool) (a : DWord) : Res :=
  let fmt := FloatFmt.ofTy sty
  let r := (fmt.read ftz (fmtBits fmt a)).toRange rnd (tyMin ty) (tyMax ty)
  (wrap (if ty.is64 then ty else if ty.signed then .s32 else .z32) r.1, r.2)

def laneI2f (ty sty : Ty) (rnd : Rnd) (ftz : Bool) (a : DWord) : Res := ofF ((FloatFmt.ofTy ty).ofInt rnd ftz (ext sty a))

def laneCvt (ty sty : Ty) (rnd : Rnd) (ftz : Bool) (a : DWord) : Res :=
  let src := FloatFmt.ofTy sty
  ofF (src.convert (FloatFmt.ofTy ty) rnd ftz false (fmtBits src a))

def laneFrnd (rnd : Rnd) (ftz : Bool) (a : DWord) : Res := ofF (FloatFmt.f32.integral rnd ftz (w32 a).toNat)

/-- Replaces element `i` of width `w` in a packed word (R74). -/
def setElement (word : Nat) (w i v : Nat) : Nat := word - word / 2 ^ (w * i) % 2 ^ w * 2 ^ (w * i) + v * 2 ^ (w * i)

/-- PACK (R178). -/
def lanePack (ty : Ty) (elt : BitVec 4) (rnd : Rnd) (ftz : Bool) (a b c : DWord) : Res :=
  let fmt := FloatFmt.ofTy ty
  let w := fmt.width
  let k := elt.toNat
  let word := (w32 c).toNat % (if w = 6 then 2 ^ 30 else 2 ^ 32)
  let x := FloatFmt.f32.convert fmt rnd (ftz && fmt.wide) false (w32 a).toNat
  let y := FloatFmt.f32.convert fmt rnd (ftz && fmt.wide) false (w32 b).toNat
  let word := setElement word w (2 * k) x.1
  if w = 6 && k = 2 then (BitVec.ofNat 64 word, x.2)
  else (BitVec.ofNat 64 (setElement word w (2 * k + 1) y.1), x.2 ||| y.2)

/-- UNPK (R178). -/
def laneUnpk (ty : Ty) (elt : BitVec 4) (ftz : Bool) (a : DWord) : Res :=
  let fmt := FloatFmt.ofTy ty
  let v := (w32 a).toNat / 2 ^ (fmt.width * elt.toNat) % 2 ^ fmt.width
  ofF (fmt.convert .f32 .rn (ftz && fmt.wide) false v)

/-- The i-th signed element of width `w` of a word. -/
def signedElement (v : DWord) (w i : Nat) : Int :=
  let n := (w32 v).toNat / 2 ^ (w * i) % 2 ^ w
  if 2 ^ (w - 1) ≤ n then (n : Int) - (2 ^ w : Nat) else n

/-- DOT4 and DOT8 (R84). -/
def laneDot (w n : Nat) (a b c : DWord) : Res :=
  let s := (List.range n).foldl (fun t i => t + signedElement a w i * signedElement b w i) (ext .s32 c)
  (wrap .s32 s, 0)

/-- An exact sum of products and addends with the special values of R81: a NaN or an infinity, or a dyadic number. -/
structure ExactSum where
  nan : Bool
  pos : Bool
  neg : Bool
  sum : Dyadic
  /-- Every addend so far is a zero of this sign. -/
  zeroNeg : Option Bool
  flags : FFlags
  deriving DecidableEq, Repr

def ExactSum.empty : ExactSum := ⟨false, false, false, .zero, none, 0⟩

def ExactSum.add (s : ExactSum) (v : FVal) (fl : FFlags) : ExactSum :=
  match v with
  | .nan sig => { s with nan := true, flags := s.flags ||| fl ||| (if sig then flagIV else 0) }
  | .inf n => { s with pos := s.pos || !n, neg := s.neg || n, flags := s.flags ||| fl }
  | .fin n _ _ =>
    { s with
      sum := s.sum.add v.dyadic, flags := s.flags ||| fl
      zeroNeg := match s.zeroNeg with | none => some n | some z => some (z && n) }

/-- The value of an exact sum, before rounding, and its flags: infinities of both signs make a NaN with IV. DESIGN CHOICE (log entry 54): the
spec does not give the sign of an exact zero; it is -0 only when every product is. -/
def ExactSum.value (s : ExactSum) : FVal × FFlags :=
  let fl := if s.pos && s.neg then s.flags ||| flagIV else s.flags
  if s.nan || (s.pos && s.neg) then (.nan false, fl)
  else if s.pos then (.inf false, fl)
  else if s.neg then (.inf true, fl)
  else (.fin (s.sum.num < 0 || (s.sum.num = 0 && s.zeroNeg = some true)) s.sum.num.natAbs s.sum.exp, fl)

/-- FDOT4 (R84): the four products and the accumulator summed exactly and rounded once. -/
def laneFdot4 (ty : Ty) (a b c : DWord) : Res :=
  let fmt := FloatFmt.ofTy ty
  let el (v : DWord) (i : Nat) : FVal := fmt.decode ((w32 v).toNat / 2 ^ (8 * i) % 256)
  let s := (List.range 4).foldl (fun s i => let p := (el a i).times (el b i); s.add p.1 p.2) ExactSum.empty
  let z := FloatFmt.f32.decode (w32 c).toNat
  let v := (s.add z z.sigFlag).value
  ofF (orFlags (FloatFmt.f32.put .rn false v.1) v.2)

end Sys2Proof.Machine
end

