-- ==== Sys2Proof/Config.lean ====
section
/-! DEFINITION. What an implementation of the Onazeta 880 fixes, and the free values: constants without a body, so that
nothing can be proved about what they are. -/

namespace Sys2Proof

/-- FREE VALUE (log entry 3). The n-th value that the spec leaves open; `State.fresh` counts the uses. -/
opaque Config.freeValue : Nat → BitVec 64

/-- FREE VALUE (log entry 4). The n-th choice that the spec leaves open between steps the ordering machine or the Almanac
may take next (R258, R262, R290); `State.fresh` counts the uses. -/
opaque Config.choose : Nat → Nat

/-- FREE VALUE (log entry 5). The device hash of R280: only its value is used, and the spec prints no number for it. -/
opaque Config.deviceHash : BitVec 64

/-- FREE VALUE (log entry 6). The base address of the capability list, which firmware chooses (R337). -/
opaque Config.capBase : BitVec 64

/-- FREE VALUE (log entry 7). The column whose DRAM first holds a 4 KiB block of device memory (R241): the location
directory's contents before any migration, which the spec does not give. -/
opaque Config.firstColumn : Nat → Nat

/-- FREE VALUE (log entry 8). Whether the boot ROM's signature check accepts a firmware image (R388): the verdict on the
image with the given bytes. -/
opaque Config.imageSigned : List Byte → Bool

/-- FREE VALUE (log entry 8). The version that a firmware image with the given bytes states (R388), whose place the spec does not give. -/
opaque Config.imageVersion : List Byte → Nat

/-- FREE VALUE (log entry 8). The fused minimum version (R388). -/
opaque Config.minVersion : Nat

/-- Whether the boot ROM accepts an image (R388): both checks hold. -/
def Config.imageVerifies (image : List Byte) : Bool :=
  Config.imageSigned image && decide (Config.minVersion ≤ Config.imageVersion image)

/-- FREE VALUE (log entry 8). Byte `i` of the signed attestation report over a nonce, the grade, the core mask and the running
image's bytes (R389). -/
opaque Config.reportByte : BitVec 256 → BitVec 8 → BitVec 256 → List Byte → Nat → Byte

/-- FREE VALUE (log entry 8). The length in bytes of the signed report (R389), whose layout the spec does not give. -/
opaque Config.reportLength : Nat

/-- FREE VALUE (log entry 10). The Tether ports of the part that LINKS names as enabled (R26). -/
opaque Config.enabledPorts : BitVec 24

/-- The events that the energy meters weigh (R379): lane-operations (R155), matrix, scratchpad and cache accesses and engine words of a
core; slice, DRAM and link traffic of a base die. -/
inductive Metered where
  | laneOp | matrix | scratch | cache | engine | slice | dram | link
  deriving DecidableEq, Repr

/-- FREE VALUE (log entry 9). The weight of one event (R379), which the spec does not give. -/
opaque Config.weight : Metered → Nat

/-- FREE VALUE (log entry 9). The energy in µJ that rail sensing measures at the n-th account tick, for core `place`, or for the base die
of stack `place - 256` (R379). -/
opaque Config.railEnergy : Nat → Nat → Nat

/-- FREE VALUE (log entry 47). Where the rotation among requesters of one scratchpad bank starts (R215): by core, bank and clk. -/
opaque Config.bankRotation : Nat → Nat → Nat → Nat

/-- FREE VALUE (log entry 48). A clk count past which what may happen on the device does happen: the spec promises progress and states
no bound (R22). -/
opaque Config.patience : Nat

/-- The aging interval of the ready queues in ns: 1 ms by default (R290). -/
def Config.agingInterval : Nat := 1000000

/-- The account tick: 100 µs of device time, in ns (R379). -/
def Config.accountTick : Nat := 100000

end Sys2Proof
end

