-- ==== Sys2Proof/Machine/State.lean ====
section
/-! DEFINITION. The state of the device: every piece of state that the spec names, as plain data, and the state after reset.

Two kinds of table recur. `Cells w` holds words of one width under a natural key: keys strictly rising, no entry equal to zero,
an unlisted key reads as zero. `Tab α` holds records under a natural key, keys strictly rising. -/

namespace Sys2Proof.Machine

/-- Words of width `w` by key, in canonical form. -/
abbrev Cells (w : Nat) := List (Nat × BitVec w)

/-- Bytes by address (`Host.Cell`). -/
abbrev Mem := List Host.Cell

/-- Records by key. -/
abbrev Tab (α : Type) := List (Nat × α)

/-! ## Splits, banks and groups (R107 to R151) -/

/-- One entry of a lane's W window (R108, R109): the operation that produces it, whether it has been written, its value. -/
structure WEntry where
  tag : Nat
  done : Bool
  val : DWord
  deriving DecidableEq, Repr

/-- A join record (R137), with the dividing split's scalar file and written mask at the division (R138, R140). -/
structure JoinRec where
  id : Nat
  addr : DWord
  expected : Lanes
  arrived : Lanes
  parent : Option Nat
  base : Cells 32
  baseMask : BitVec 64
  deriving DecidableEq, Repr

/-- A split (R135): its lanes, program counter, innermost record, scalar copy and written mask (R138), and what the picker
keeps for it (R93, R96, R97). In a handler, `own` says that the split has a scalar copy of its own (R335). -/
structure Split where
  id : Nat
  lanes : Lanes
  pc : DWord
  join : Option Nat
  sfile : Cells 32
  written : BitVec 64
  own : Bool
  held : Bool
  /-- The clk of its last issue (R97), the clk from which its next stall distance counts (R91), the bubble's end (R93). -/
  last : Nat
  base : Nat
  notBefore : Nat
  waited : Nat
  /-- An address breakpoint has already halted the group before the split's next instruction (R349). -/
  passed : Bool := false
  deriving DecidableEq, Repr

/-- What the user code and the handler each have their own of (R335): the W window by lane, the state and the data of the near
slots (state 0 released, 1 to 7 counted, 8 persistent; data at slot * 64 + lane), the completion flags, the predicates as
lane masks, the splits and join records, and the clk of the last issue. -/
structure Bank where
  win : Tab (List WEntry)
  nst : Cells 4
  nval : Cells 32
  flags : Cells 4
  preds : Cells 64
  splits : List Split
  recs : List JoinRec
  nextRec : Nat
  lastSplit : Nat
  prevIssue : Option Nat
  deriving DecidableEq, Repr

/-- A liveness entry (R120). -/
structure Live where
  dmask : BitVec 256
  smask : BitVec 64
  tmask : BitVec 16
  replay : Bool
  ranges : List (Nat × Nat)
  deriving DecidableEq, Repr

/-- What a STRAND records (R125, R133, R142). -/
structure Strand where
  entry : Live
  index : Nat
  pc : DWord
  count : Nat
  lanes : Lanes
  recs : List JoinRec
  innermost : Option Nat
  depths : Cells 16
  overrun : Bool
  deriving DecidableEq, Repr

/-- A fault record (R332), with the delivery that it belongs to. -/
structure FRec where
  delivery : Nat
  code : BitVec 8
  group : BitVec 5
  access : BitVec 3
  sw : Bool
  notice : Bool
  more : Bool
  ovf : Bool
  cb : BitVec 2
  cbv : Bool
  depth : BitVec 2
  split : BitVec 3
  nested : Bool
  pcoff : Word
  addr : BitVec 56
  lanes : Lanes
  task : DWord
  deriving DecidableEq, Repr

/-- The resume points of R333. -/
inductive Resume where
  | re | line | after | same
  deriving DecidableEq, Repr

/-- One record of a trap before it is written: code, ACCESS, ADDR of its lowest lane, lanes (R331). -/
structure TrapRec where
  code : BitVec 8
  access : BitVec 3
  addr : DWord
  lanes : Lanes
  deriving DecidableEq, Repr

/-- An LDX or STX that REPLAY sends again (R253, R343). -/
structure Gather where
  instr : Instr
  lanes : Lanes
  cb : Nat
  deriving DecidableEq, Repr

/-- A MEM_UNCORRECTABLE trap that waits to be delivered late (R248): the split and instruction, its records, its bitmap and gather. -/
structure Late where
  split : Nat
  pc : DWord
  recs : List TrapRec
  cb : Option Nat
  gather : Option Gather
  deriving DecidableEq, Repr

/-- A pending delivery (R330), and what HCAUSE, HPC and HADDR show of it (R337). -/
structure Delivery where
  id : Nat
  clk : Nat
  notice : Bool
  code : BitVec 8
  sw : Bool
  split : Nat
  pc : DWord
  len : Nat
  addr : DWord
  more : Bool
  resume : Resume
  gather : Option Gather
  debug : Bool
  deriving DecidableEq, Repr

/-- The exits of a handler that wait for its instructions (R336). -/
inductive HExit where
  | tret (skip : Bool) | replay | unwind
  deriving DecidableEq, Repr

/-- A running handler (R335): its bank, the delivery it serves, an exit that waits, and an outstanding MAPREQ. -/
structure Handler where
  bank : Bank
  serves : Delivery
  serial : Nat
  exit : Option HExit
  mapreq : Option Nat
  deriving DecidableEq, Repr

/-- Where a resident group stands (R20, R21, R123): ready since a clk; holding a slot, with the clk of its age (R98), which is that
of its activation's completion or of its last yield; waiting; saved; ended. -/
inductive Place where
  | ready (since : Nat)
  | active (slot since : Nat)
  | waiting
  | saved
  | ended
  deriving DecidableEq, Repr

/-- What holds a group's issue, apart from its flags (R95, R105, R255, R307). -/
inductive Hold where
  | free
  | drain
  | sleep (op wake : Nat)
  | op (uid : Nat)
  deriving DecidableEq, Repr

/-- Why a group is asked to leave its slot at a STRAND (R124). -/
inductive Request where
  | switch | energy | adoption
  deriving DecidableEq, Repr

/-- Lantern's hold on a group (R349, R353): not halted, halted, to be halted at its next activation, or stepping a split. -/
inductive Debug where
  | run | halted | atActivation | step (split : Option Nat) | stepping
  deriving DecidableEq, Repr

/-- A resident group (R16 to R24). -/
structure Group where
  uid : Nat
  team : Nat
  idx : Nat
  core : Nat
  part : Nat
  prio : Nat
  dslots : Nat
  width : Nat
  place : Place
  dfile : Cells 32
  smerge : Word
  bank : Bank
  /-- Counts the group's departures from its slot, so that a late W or N result is told apart (R123). -/
  epoch : Nat
  hand : Option Handler
  handSerial : Nat
  /-- MAPSTAT (R337). -/
  mapstat : Nat
  cb : Cells 64
  /-- Elements that marked lanes of a gather have received, by bitmap * 64 + lane (R393). -/
  gathered : Cells 64
  horizon : Nat
  acquire : Nat
  nflags : Word
  depth : Cells 16
  /-- Return addresses pushed, by lane * 256 + depth: what a RET may return to beside what the lane slice holds (R143). -/
  pushed : Cells 64
  strand : Strand
  deliveries : List Delivery
  frq : List FRec
  request : Option Request
  hold : Hold
  debug : Debug
  /-- The code of the trap that the group's last instruction under a STEP raised (R353). -/
  trapped : Option (BitVec 8)
  late : List Late
  /-- Physical scratchpad offset of the group's lane slices on its core (R206, R209). -/
  laneBase : Nat
  /-- Collector words (R185): collector * 1024 + row * 32 + column, 64-wide collectors taking two. -/
  cols : Cells 32
  /-- An EXIT or ENDG has ended the group; its residency lasts until its instructions have completed (R151). -/
  byEndg : Bool
  /-- The group waits at TBAR (some false) or PHEND (some true, with its carry index). -/
  barrier : Option (Bool × Nat)
  /-- The lanes that have not exited this phase. -/
  alive : Lanes
  /-- An unwind that waits for the user's outstanding instructions and perhaps a MAPREQ (R344). -/
  unwinding : Option (Option Nat)
  /-- A request is being honoured at a STRAND: the group waits for its instructions before the save (R124). -/
  leaving : Bool
  /-- The save engine has saved the group, so that its next activation takes an acquire step (R266). -/
  restored : Bool
  /-- Set when the save engine has saved the group: the liveness entry of the STRAND that it stands at, with its index, and whether
  its registers are in its block of the phase record (R310). -/
  savedAt : Option (Nat × Live × Bool)
  /-- Where in the context's save area the group was saved, and the lane-slice bytes and poisoned words of a group that has left its core for
  an adoption, as `Saved` numbers them (R310, R339). -/
  saveOff : Nat := 0
  kept : Mem := []
  keptBad : List Nat := []
  /-- A save could not reach the save area: the notice of it comes before the next try (R376). -/
  saveBad : Bool := false
  deriving DecidableEq, Repr

/-! ## Teams, launches and tasks (R216, R279 to R302) -/

/-- A team queue (R216). `landed` lists reserved positions whose push has landed out of order, `reserved` the outstanding
reservations in ring order, `held` the position that each group holds. -/
structure Queue where
  init : Bool
  size : Nat
  head : Nat
  tail : Nat
  free : Nat
  filled : Nat
  base : Nat
  reserved : List (Nat × Nat × Bool)   -- reservation uid, position, landed
  held : Tab Nat                       -- group index, position
  deriving DecidableEq, Repr

/-- A queue as it was before a QINIT, the instant of that in ns, and the groups that observe it all the same: the one that issued it, and
those that have popped since (R219, R222). -/
structure QueueBefore where
  queue : Queue
  since : Nat
  seen : List Nat
  deriving DecidableEq, Repr

/-- A write to a team register on its way (R117): landing instant in 1/33 ns and clk of the writer's core, order key, register, value, writing group. -/
structure TWrite where
  time : Nat
  clk : Nat
  key : Nat
  reg : Nat
  val : Word
  grp : Nat
  core : Nat
  deriving DecidableEq, Repr

/-- A role (R282). -/
structure RoleDef where
  count : Nat
  dslots : Nat
  prio : Nat
  deriving DecidableEq, Repr

/-- The fields of an image header that the device uses (R279). -/
structure Image where
  addr : Nat
  width : Nat
  codeOff : Nat
  codeSize : Nat
  liveOff : Nat
  liveCnt : Nat
  carryOff : Nat
  carryCnt : Nat
  sliceOff : Nat
  sliceCnt : Nat
  estimate : Nat
  deriving DecidableEq, Repr

/-- An accepted launch, or the template of a spawned team (R281, R283, R298), with its K bank and the count of its teams. -/
structure Launch where
  uid : Nat
  asid : Nat
  recAddr : Nat
  image : Image
  spawned : Bool
  teams : Nat
  groups : Nat
  prio : Nat
  policy : Bool
  bridle : Bool
  roles : List RoleDef
  tscr : Nat
  lanez : Nat
  pool : Nat
  kbank : Cells 32
  ecap : Nat
  pmap : List Nat
  future : Nat
  prBase : Nat
  prgBlk : Nat
  desc : Nat
  /-- A spawned team's launch: the spawner's launch (R382) and stack (R290). -/
  parent : Option Nat
  stack : Nat
  /-- Teams started and teams ended, by index, the number of those that ended without ENDG, and whether the launch is complete (R293). -/
  begun : List Nat
  ended : List Nat
  clean : Nat
  /-- Teams in which a group has ended by ENDG in some phase (R293). -/
  endgs : List Nat
  complete : Bool
  /-- Pool region by cluster: offset in each column (R206). -/
  regions : Tab Nat
  /-- Energy used so far in µJ, and whether the cap has been reached (R382). -/
  used : Nat
  capped : Bool
  deriving DecidableEq, Repr

/-- A team on a core or bridle pair (R16, R216). -/
structure Team where
  uid : Nat
  launch : Nat
  index : Nat
  asid : Nat
  task : Nat
  phase : Nat
  core : Nat
  bridle : Bool
  /-- Order of placement on the device (R21, R100, R211). -/
  placed : Nat
  /-- Physical scratchpad offset of the team scratchpad on its core and, for a bridle team, on the partner. -/
  base : Nat
  base2 : Nat
  tregs : Cells 32
  twrites : List TWrite
  queues : Tab Queue
  /-- What the other groups of the team observe of a queue until an ordering event of theirs follows its QINIT (R222). -/
  before : Tab QueueBefore
  /-- Groups whose last lane has exited, with whether ENDG ended them. -/
  exited : List (Nat × Bool)
  /-- The team is being ended, parked whole or adopted away: its groups leave. -/
  parking : Option Request
  /-- The phase's end has released what the team had on its core; exited groups' instructions or engine transfers are outstanding (R302). -/
  released : Bool
  deriving DecidableEq, Repr

/-! ## Outstanding operations (R90, R257, R259) -/

/-- Where an operand's value goes. -/
structure Dest where
  op : Opnd
  wide : Bool
  /-- The instruction is result-producing: the new w1 receives the value (R108). -/
  shift : Bool
  /-- A predicate destination (PSET): the value is 0 or 1. -/
  predicate : Bool
  deriving DecidableEq, Repr

/-- A resolved location: a byte of DRAM by device physical address, of a core's physical scratchpad (core * 2^19 + offset), or
of a column's slice pool (column * 2^23 + offset). -/
inductive Loc where
  | glob (pa : Nat)
  | scratch (key : Nat)
  | pool (key : Nat)
  deriving DecidableEq, Repr

/-- What an access does at its location (R252 to R254). -/
inductive AccKind where
  | load (ty : Ty) | store (ty : Ty) | atom (ty : Ty) (op : AtomOp) (returns : Bool)
  deriving DecidableEq, Repr

/-- One lane's access, or one byte of a misaligned one (R246): the lane, the byte offset in the element, the size, the virtual
address, the location and lease class, the data and compare value, whether it has been performed, and the completion time
returned (R244). -/
structure AccUnit where
  lane : Nat
  off : Nat
  size : Nat
  va : Nat
  loc : Loc
  lcls : Nat
  data : DWord
  cmp : DWord
  performed : Bool
  ret : Nat
  poisoned : Bool
  /-- The size in bits of the page that the access was translated by, which names it in a fault record (R331). -/
  bits : Nat := 16
  deriving DecidableEq, Repr

/-- An access of a group (R257). -/
structure Access where
  kind : AccKind
  units : List AccUnit
  /-- A fully coalesced access performs all its lanes as one step (R246, R259). -/
  coalesced : Bool
  /-- LD.acq (R252). -/
  acq : Bool
  /-- A gather or scatter's bitmap (R253). -/
  cb : Option Nat
  /-- The release part that ST.rel, or an atomic of scope .team or wider, waits for (R252, R254). -/
  release : Option Scope
  /-- PREF: the miss of R243, whatever the cache holds, and no destination (R256). -/
  pref : Bool
  /-- REPLAY has sent it: its W entries become complete lane by lane (R393). -/
  again : Bool := false
  /-- A gather's or scatter's lanes that were active at its first issue (R253). -/
  asked : Lanes := 0
  deriving DecidableEq, Repr

/-- The waiting instructions (R314). -/
inductive WaitOp where
  | fwait | lock | chpush | chpop | waitc
  deriving DecidableEq, Repr

/-- A word of scratchpad that a matrix instruction reads or writes (R194, R203): its key, its team address, its value, whether it
has been read or written, and whether it was poisoned. -/
structure MatWord where
  key : Nat
  addr : Nat
  val : Word
  done : Bool
  bad : Bool
  deriving DecidableEq, Repr

/-- What a matrix instruction still has to do (R187, R193, R203): its format word; the words of its operands, with the start in bytes
and the length of each operand among them; whether it has passed its read point; the words that it writes; whether the
collector has been read or written. -/
structure MatJob where
  fmt : Word
  reads : List MatWord
  spans : List (Nat × Nat)
  read : Bool
  writes : List MatWord
  ready : Bool
  /-- The code and the address of a failed check of MMAB's B stream, which ranks after what its A stream's decoding finds (R196). -/
  late : Option (BitVec 8 × DWord)
  deriving DecidableEq, Repr

/-- The range instructions of R256. -/
inductive RangeOp where
  | pin | unpin | icinv | pref
  deriving DecidableEq, Repr

/-- What an outstanding operation still has to do. -/
inductive Job where
  | plain
  | access (a : Access)
  | fence (scope : Scope) (half : FenceHalf)
  | sleep (wake : Nat)
  | matrix (m : MatJob)
  | push (team queue uid : Nat) (handle : Word)
  | copyFlag (thread : Nat)
  | reelWait (core ctx serial : Nat)
  /-- The first attempt of a waiting instruction: virtual and physical address, width and value (R307), and the ns at which it is
  made again for want of a chunk (R319), or 0. -/
  | attempt (op : WaitOp) (va pa : Nat) (wide : Bool) (value : DWord) (retry : Nat)
  /-- An instruction that holds its group's issue until its access at the Almanac's object has been performed: FSET, FTEST, UNLOCK,
  DEPDEC, TDONE, SPAWN (R298, R299, R301, R322): virtual and physical address, width and value. -/
  | almanac (va pa : Nat) (wide : Bool) (value : DWord)
  /-- A performed access whose answer has not returned: the group's issue is held until then (R299, R301, R322). -/
  | answer
  | mapreq (va : Nat) (migrate : Bool) (sent : Bool)
  /-- LAUNCH: the record's address and the context, which outlive the group (R297). -/
  | launch (rec_ asid : Nat)
  | range (op : RangeOp) (va len : Nat)
  /-- A RATOM whose old value has not come back (R364). -/
  | remote
  /-- WSTAT's read of a counter (R365). -/
  | wstat (pa va : Nat)
  | uread (src : Opnd) (wide : Bool)
  | uwrite (dst : Opnd) (wide : Bool)
  /-- PMOV.set: the seven predicates of each lane (R184). -/
  | preds
  /-- A pop, or an instruction with a Q-level source (R223). -/
  | popped
  deriving DecidableEq, Repr

/-- An instruction that has issued and not completed. -/
structure Op where
  uid : Nat
  grp : Nat
  hand : Bool
  epoch : Nat
  split : Nat
  lanes : Lanes
  splitLanes : Lanes
  set : Nat
  pc : DWord
  len : Nat
  instr : Instr
  /-- The clk at which its result lands, where the spec fixes one; for the other jobs the clk before which it does not complete. -/
  due : Option Nat
  /-- The instruction has variable latency: a read of its destination before it lands may see either value (R94). -/
  var : Bool
  dest : Option Dest
  vals : Cells 64
  /-- Arithmetic flags to OR into NFLAGS at completion (R73). -/
  flags : BitVec 5
  /-- A second result written with the first: IADDC's carry predicate. -/
  carry : Option (Nat × Lanes)
  /-- Where another write to a register of `Op.regs` has landed while it was in flight, one of the two of variable latency: the lanes, by
  the register's place in that list (R94). -/
  raced : Cells 64
  job : Job
  deriving DecidableEq, Repr

/-! ## Engines (R225 to R234, R354 to R366) -/

/-- The completion object of an engine transfer (R227, R233). -/
inductive Signal where
  | push (team queue uid : Nat) (handle : Word)
  | count (key : Nat)
  | flag (op : Nat)
  deriving DecidableEq, Repr

/-- A word that an engine has to move: source and destination (virtual addresses in .glob, keys in the scratch levels), and its value
once it has been read. -/
structure TWord where
  src : Nat
  dst : Nat
  val : Option Word
  deriving DecidableEq, Repr

/-- An engine thread (R267): the words that it has still to move, from where to where, and the latest completion time. -/
structure Thread where
  uid : Nat
  grp : Nat
  team : Nat
  asid : Nat
  core : Nat
  pc : DWord
  priv : Bool
  reel : Option Nat
  src : Space
  dst : Space
  words : List TWord
  done : Nat
  signal : Signal
  failed : Bool
  deriving DecidableEq, Repr

/-- A Reel access context (R229 to R234). -/
structure ReelCtx where
  busy : Bool
  serial : Nat
  grp : Nat
  team : Nat
  queue : Nat
  /-- The next slice instruction, the one that executes, the slice's bounds, and the clk before which it executes none (R231). -/
  pc : DWord
  here : DWord
  start : DWord
  stop : DWord
  since : Nat
  sfile : Cells 32
  /-- Loop stack: start address, count, index register. -/
  loops : List (DWord × Word × Nat)
  ended : Bool
  deriving DecidableEq, Repr

/-- A remote transfer that this device has started (R355, R362, R364). -/
inductive RemoteKind where
  | put | get | ratom (ty : Ty) (op : AtomOp) (operand cmp : DWord)
  deriving DecidableEq, Repr

/-- A PUT, GET or RATOM at its initiator, named by its operation, whose identifier is its tag: the byte offsets of the words not yet
read or asked for, those asked for and not answered, whether its request has been sent, whether the source counter has been
incremented, the latest completion time of the local writes, whether a local write has failed, and whether the engine has done with
it. -/
structure Remote where
  op : Nat
  grp : Nat
  team : Nat
  asid : Nat
  core : Nat
  pc : DWord
  priv : Bool
  kind : RemoteKind
  dev : BitVec 10
  win : BitVec 12
  roff : Nat
  local_ : Nat
  len : Nat
  todo : List Nat
  asked : List Nat
  started : Bool
  counted : Bool
  due : Nat
  failed : Bool
  isOver : Bool
  deriving DecidableEq, Repr

/-- A PUT or GET as the device whose window it names sees it (R355, R356): its window and direction, the bytes performed, the latest
completion time, and whether it has failed. -/
structure Inbound where
  src : BitVec 10
  tag : Nat
  window : BitVec 12
  write : Bool
  done : Nat
  total : Nat
  due : Nat
  failed : Bool
  deriving DecidableEq, Repr

/-- A collective that this device has issued (R359, R360): its place in the group's sequence; the elements still to be read and to be
written; what the engines read, as it travels; the partial values received, by level, node and element; the final values
received; and the messages sent, by rank and first element. -/
structure Coll where
  uid : Nat
  grp : Nat
  team : Nat
  asid : Nat
  core : Nat
  pc : DWord
  priv : Bool
  cgroup : Nat
  seq : Nat
  cop : CollOp
  fmt : CollFmt
  red : CollRed
  window : Nat
  base : Nat
  counter : Nat
  list : Nat
  n : Nat
  count : Nat
  rank : Nat
  toRead : List Nat
  toWrite : List Nat
  own : Tab DWord
  parts : List (Nat × Nat × Nat × DWord)
  finals : Tab DWord
  sent : List (Nat × Nat)
  due : Nat
  counted : Bool
  isOver : Bool
  deriving DecidableEq, Repr

/-! ## The Almanac's tables (R286 to R302, R314 to R320) -/

/-- An entry of a ready queue, in FIFO order (R290): the stack, the level, the task, and the instant it entered the level. -/
structure ReadyEntry where
  stack : Nat
  level : Nat
  asid : Nat
  task : Nat
  since : Nat
  deriving DecidableEq, Repr

/-- A vigil entry (R314), in the table of a stack or at an address of the overflow area, with what its group needs when it is
satisfied: the active lanes, the set flag and the instruction's address. -/
structure Vigil where
  stack : Nat
  overflow : Option Nat
  asid : Nat
  addr : Nat
  pa : Nat
  task : Nat
  group : Nat
  grp : Nat
  op : WaitOp
  wide : Bool
  value : DWord
  dest : Opnd
  lanes : Lanes
  set : Nat
  pc : DWord
  age : Nat
  /-- The owner when the wait began (R313), and the task that was adopted for it, or 0. -/
  owner : Nat
  adopted : Nat
  /-- Since when a CHPUSH has waited on its full channel (R320), and the ns at which a chunk is looked for again, or 0 (R319). -/
  since : Nat
  retry : Nat
  deriving DecidableEq, Repr

/-- A team taken out whole (R339, R340, R310): its team state, its groups, and the bytes saved from its scratchpads. -/
structure Saved where
  task : Nat
  why : Request
  team : Team
  groups : List Group
  /-- Saved team-scratchpad bytes by half * 2^19 + team offset, and lane-slice bytes by group * 2^20 + lane * 2^12 + offset. -/
  scratch : Mem
  lanes : Mem
  /-- The poisoned words among them: of the team by half * 2^17 + word, of a lane by 2^30 + group * 2^18 + lane * 2^10 + word. -/
  poison : List Nat
  deriving DecidableEq, Repr

/-- What the Almanac is doing to a context (R340, R374): nothing; switching it out by a deadline, the reply's SEQ and those of the
teardowns that wait for it; it is switched out. -/
inductive CtxOp where
  | none | switching (deadline seq : Nat) (tears : List Nat) | switched
  deriving DecidableEq, Repr

/-- A context (R235, R288, R318, R337, R376, R378): its system registers, its submission ring, its energy account, its fault log
and the order of tasks recorded by a context switch. -/
structure Context where
  asid : Nat
  ptroot : BitVec 28
  sqBase : Nat
  sqLog : Nat
  sqTail : BitVec 32
  sqHead : BitVec 32
  sqOver : Bool
  sqStop : Bool
  trapTab : BitVec 56
  taskPool : BitVec 56
  taskPN : BitVec 16
  taskPS : BitVec 16
  vovb : BitVec 56
  chkpb : BitVec 56
  chkpn : BitVec 24
  chdly : BitVec 16
  saveb : BitVec 56
  saveSize : Nat
  winTab : Nat
  cgTab : Nat
  strmax : BitVec 24
  debug : Bool
  bal : Int
  rate : Word
  ceil : Word
  allow : Word
  /-- Rate, ceiling and allowance that take effect at the next account tick (R378). -/
  next : Option (Word × Word × Word)
  isOver : Bool
  /-- The account has been past its allowance, and no tick since has left BAL above 0: the context's tasks are held out (R380). -/
  heldOff : Bool := false
  log : List FRec
  lost : Bool
  op : CtxOp
  order : List (Nat × Nat × Nat)      -- stack, level, task, as recorded at a switch
  chunks : List Nat                   -- free chunks of the pool, by index
  deriving DecidableEq, Repr

/-! ## Memory system (R236 to R249) -/

/-- A pin (R247): the context and the line, with the virtual address that set it. -/
structure Pin where
  asid : Nat
  line : Nat
  va : Nat
  deriving DecidableEq, Repr

/-- A leased copy in a core's data cache (R243, R257). `stale` lists, by group and byte, where a store of the group has been performed at
the home since the grant: the group's own loads do not hit the copy there (R244, R262). -/
structure Copy where
  core : Nat
  line : Nat
  bytes : List Byte
  grant : Nat
  expiry : Nat
  used : Nat
  stale : List (Nat × Nat) := []
  deriving DecidableEq, Repr

/-- A partial result that a core holds for one word of a line in update-only state (R245). -/
structure Partial where
  core : Nat
  addr : Nat
  op : AtomOp
  ty : Ty
  val : DWord
  deriving DecidableEq, Repr

/-- A cached translation (R240): the leaf for one 64 KiB page of an address space, and the bits of the page that the leaf maps. -/
structure Trans where
  core : Nat
  asid : Nat
  vpage : Nat
  leaf : BitVec 64
  base : Nat
  bits : Nat
  deriving DecidableEq, Repr

/-- An instruction line in a core's cache (R39): its words, or the trap that its fetch met (R41), and its page's PRIV bit. -/
structure ILine where
  core : Nat
  asid : Nat
  line : Nat
  words : List Word
  priv : Bool
  fail : Option (BitVec 8 × BitVec 3)
  deriving DecidableEq, Repr

/-- One partition's issue state (R21, R88, R98 to R100): per port the clk until which it is occupied and the greedy mark, the
round-robin list, and when each slot became free. -/
structure Part where
  busy : Tab Nat
  marks : Tab Nat
  rr : List Nat
  freed : Tab Nat
  /-- MODEL FIELD: the groups that have issued in this clk, by port. -/
  issued : Tab Nat
  deriving DecidableEq, Repr

/-- What Lantern is still doing for a command (R352, R353): a HALT, a STEP, or a READ or WRITE with its request's words. -/
inductive LanternJob where
  | halt | step | access (request : Cells 32)
  deriving DecidableEq, Repr

/-- A command that Lantern is still serving: the request's header and target words, the group, and what is being done. -/
structure LanternWait where
  words : List Word
  grp : Nat
  job : LanternJob
  deriving DecidableEq, Repr

/-- A Lantern mailbox (R350, R351): the request and reply slots, by word; the event messages in its queue, those that wait for a place
there, the replies that wait for the reply slot, and the command being served. -/
structure Lantern where
  request : Cells 32
  reply : Cells 32
  events : List (List Word)
  pending : List (List Word)
  replies : List (List Word)
  waiting : Option LanternWait
  deriving DecidableEq, Repr

/-- A MIGRATE request that firmware holds (R346, R377). -/
structure Migrate where
  tag : Option Nat
  op : Nat
  asid : Nat
  va : Nat
  size : Nat
  deriving DecidableEq, Repr

/-- A MAPREQ that firmware has not taken up when its group ended (R336, R346): the operation that posted it, the context, the address, and whether
it asks for a migration. -/
structure MapReq where
  op : Nat
  asid : Nat
  va : Nat
  migrate : Bool
  deriving DecidableEq, Repr

/-- A message from the device to the host (R369, R372). -/
inductive HostMsg where
  | readData (tag : BitVec 8) (words : List Word)
  | error (tag : BitVec 8)
  | completion (words : List Word)
  deriving DecidableEq, Repr

/-- What the device sends on the Tether (R366, R368). -/
inductive TetherMsg where
  | frame (f : Frame)
  | write (dev : BitVec 10) (x : Xact)
  | read (dev : BitVec 10) (x : Xact)
  | readCompletion (dev : BitVec 10) (x : Xact)
  | atomic (dev : BitVec 10) (x : Xact) (ty : Ty) (op : AtomOp)
  | atomicCompletion (dev : BitVec 10) (x : Xact)
  deriving DecidableEq, Repr

/-- The clock of a core that has not kept the full 3.3 GHz (R383, R384): its clk count; the instant of its next clk in 1/33 ns, with what
the division by the frequency left over; its frequency in MHz; what the current limiter adds to each clk; and whether the device
time that has been reached is that of one of its clk. -/
structure Clock where
  clk : Nat
  edge : Nat
  acc : Nat
  mhz : Nat
  stretch : Nat
  live : Bool
  deriving DecidableEq, Repr

/-- One entry of an energy meter (R379): the place, a core or 256 + the stack of a base die; the team; its launches, its own first and
then those that it was spawned from; its context; and the weighted units since the last account tick. -/
structure Meter where
  place : Nat
  team : Nat
  launches : List Nat
  asid : Nat
  units : Nat
  deriving DecidableEq, Repr

/-- What a group access asks of one scratchpad bank (R215, R390): the operation, the clk of its request, the distinct words, and the clk
at which it would complete if it waited nowhere. -/
structure BankReq where
  op : Nat
  ask : Nat
  words : Nat
  base : Nat
  deriving DecidableEq, Repr

/-- A maintenance action (R386, R387): its column, whether it repairs the column's vertical bus or retrains the channels of its pair; when
it began, in ns; and the events whose requests it holds, in the order of their arrival. -/
structure Maint where
  column : Nat
  repair : Bool
  since : Nat
  arrived : List Instr
  deriving DecidableEq, Repr

/-- The group, or Reel context, whose instruction is being executed: its split, the instruction's address and length. -/
inductive Issuer where
  | none
  | group (uid split : Nat) (pc : DWord) (len : Nat)
  | reel (core ctx : Nat)
  deriving DecidableEq, Repr

/-- The device. -/
structure State where
  /-- The clk since power-good of a core whose clock has run at the full 3.3 GHz throughout, and device time in 1/33 ns: one such clk is
  10/33 ns (R5, R384). -/
  clk : Nat
  time : Nat
  /-- The instant of the next full-speed clk. MODEL FIELD: whether the device time that has been reached is that of one. -/
  edge : Nat
  fullLive : Bool
  /-- The clocks of the cores that have left the full speed, by core (R383, R384). -/
  clocks : Tab Clock
  /-- MODEL FIELD: counts the uses of the free values of Config. -/
  fresh : Nat
  /-- MODEL FIELD: the next unused identifier of groups, teams, operations and threads. -/
  nextId : Nat
  /-- MODEL FIELD: whose instruction `exec` executes. -/
  cur : Issuer
  /-- MODEL FIELD: events that happen next, in order, before any further instruction issues. -/
  agenda : List Instr
  /-- MODEL FIELD: how far this clk has come: 0 while completions and other events happen, k + 1 when the partition with key k is
  the next one whose groups issue (R96), and past the last of them the Reels. -/
  turn : Nat
  /-- MODEL FIELD: the picker's choices in the partition being served that have not issued yet: group and split (R96). -/
  picks : List (Nat × Nat)
  /-- The context of each core's Reel that executed last (R229). -/
  reelLast : Tab Nat
  grade : BitVec 8
  coreMask : BitVec 256
  /-- BOOTST: stage, FAIL, TJMIN (R385). -/
  stage : BitVec 4
  fail : Bool
  tjmin : BitVec 8
  stopped : Bool
  groups : Tab Group
  teams : Tab Team
  launches : Tab Launch
  contexts : Tab Context
  parts : Tab Part
  ops : List Op
  threads : List Thread
  reels : Tab ReelCtx
  remotes : List Remote
  inbound : List Inbound
  colls : List Coll
  collSeq : Tab Nat
  /-- Frames that have come before their COLL (R398), each with its context, or 2^14 where none has its group configured. -/
  held : List (Nat × Frame)
  ready : List ReadyEntry
  /-- Tasks reserved for a core by adoption (R310). -/
  reservedFor : Tab Nat
  vigil : List Vigil
  saved : List Saved
  nextAge : Nat
  /-- Counter lines whose watch mark carries the spilled flag (R317). -/
  spilled : List Nat
  /-- Watched lines written since their entries were last retried (R315): the line, the age from which entries are still to be
  retried, and the cells whose overflow entries are retried with them (R317). -/
  watch : List (Nat × Nat × List Nat)
  dram : Mem
  scratch : Mem
  pool : Mem
  poisonLines : List Nat
  poisonWords : List Nat
  corrected : Nat
  /-- Where the capability list stands once firmware has written it (R25, R27). -/
  capList : Option Nat
  leases : Tab Nat
  homes : Tab Nat
  pins : List Pin
  copies : List Copy
  partials : List Partial
  tlb : List Trans
  icache : List ILine
  /-- Pool share in MiB by cluster, and a change that waits for the cluster to empty, with its request's SEQ (R12). -/
  splits : Tab Nat
  splitWanted : Tab (Nat × Nat)
  lastTick : Nat
  /-- The energy meters since the last account tick (R379). -/
  meters : List Meter
  /-- The requests at a scratchpad's banks that still bear on each other, by core * 64 + bank (R390). -/
  banks : Tab (List BankReq)
  /-- The maintenance actions under way (R386, R387). -/
  maint : List Maint
  breaks : Tab DWord
  lantern : Tab Lantern
  /-- Host window descriptors, word by window * 4 + word (R370). -/
  hostWins : Cells 32
  /-- The latest completion time of the host's writes; the doorbell writes that wait for those before them, by context, offset, value
  and the instant from which they may be performed, none while a host WRITE before it is held (R386); and the host's READs of doorbells that wait for them (R371). -/
  hostHorizon : Nat
  doorbells : List (Nat × Nat × Word × Option Nat)
  hostWait : List Instr
  fwRequest : Cells 32
  fwReply : Cells 32
  fwEvent : Cells 32
  fwEvents : List (List Word)
  /-- Replies and events of firmware's that wait for their slot (R373). -/
  fwReplies : List (List Word)
  migrates : List Migrate
  /-- MAPREQs posted by groups that have ended since (R336, R346). -/
  posted : List MapReq
  nextTag : Nat
  /-- Frames, and host WRITEs, that were dropped and counted (R368, R370). -/
  dropped : Nat
  hostDropped : Nat
  hostOut : List HostMsg
  tetherOut : List TetherMsg
  routes : Cells 24
  devid : Option (BitVec 10)
  routeLocked : Bool
  deadLinks : Cells 24
  /-- The firmware image in the package's flash, the one that runs, and the bytes of the one that the host is writing into window 0
  (R388). -/
  flash : List Byte
  image : List Byte
  offered : Mem
  deriving DecidableEq, Repr

/-- Why a step stops with a fault. Each is the model's: the device never stops (R1). -/
inductive Fault where
  /-- Raised by every meaning of an instruction when State names no issuing group, or one that does not exist: `exec` was asked
  for an instruction that nothing issues. Safe: the device never executes such an instruction. -/
  | noIssuer
  /-- Raised by the meaning of an event when the condition under which the spec lets the device take that step does not hold.
  Safe: the device never takes the step there. -/
  | notEnabled
  deriving DecidableEq, Repr

/-- Why a step has no meaning. -/
inductive Refusal where
  /-- Raised by an arm of `exec` whose instruction is not modelled yet. Safe: nothing is claimed of it. -/
  | notModelled (mnemonic : String)
  deriving DecidableEq, Repr

/-- The outcome of a step. -/
abbrev Out := Host.Outcome State Fault Refusal

/-- A bank as it is at activation and at handler entry, before its splits are set: windows empty, near slots released, flags
and predicates zero (R109, R111, R90, R292, R335). -/
def Bank.empty : Bank :=
  { win := [], nst := [], nval := [], flags := [], preds := [], splits := [], recs := [], nextRec := 0, lastSplit := 0,
    prevIssue := none }

/-- A liveness entry that names nothing. -/
def Live.empty : Live := { dmask := 0, smask := 0, tmask := 0, replay := false, ranges := [] }

/-- The device right after power-good: the cold start is at stage 0 (R385), nothing is resident, no context exists, every
register is at its reset value (R6, R46, R295, R337, R367, R370, R378), and memory lists nothing. Grade and core mask, the
DRAM's contents and the firmware image stand as log entries 10 to 12 say. -/
def State.reset : State :=
  { clk := 0, time := 0, edge := 10, fullLive := true, clocks := [], fresh := 0, nextId := 1, cur := .none, agenda := [], turn := 0, picks := [], reelLast := []
    grade := 0, coreMask := BitVec.allOnes 256
    stage := 0, fail := false, tjmin := 0, stopped := false
    groups := [], teams := [], launches := [], contexts := [], parts := []
    ops := [], threads := [], reels := [], remotes := [], inbound := [], colls := [], collSeq := [], held := []
    ready := [], reservedFor := [], vigil := [], saved := [], nextAge := 0, spilled := [], watch := []
    dram := [], scratch := [], pool := [], poisonLines := [], poisonWords := [], corrected := 0, capList := none
    leases := [], homes := [], pins := [], copies := [], partials := [], tlb := [], icache := []
    splits := [], splitWanted := [], lastTick := 0, meters := [], banks := [], maint := [], breaks := [], lantern := []
    hostWins := [], hostHorizon := 0, doorbells := [], hostWait := [], fwRequest := [], fwReply := [], fwEvent := [], fwEvents := [], fwReplies := []
    migrates := [], posted := [], nextTag := 1, dropped := 0, hostDropped := 0, hostOut := [], tetherOut := []
    routes := [], devid := none, routeLocked := false, deadLinks := [], flash := [], image := [], offered := [] }

end Sys2Proof.Machine
end

