-- ==== Sys2Proof/Machine/Tables.lean ====
section
/-! DEFINITION. Reading and writing the two kinds of table that State is made of, and their canonical form. -/

namespace Sys2Proof.Machine

/-- The word at key `k`; an unlisted key reads as zero. -/
def cellGet {w : Nat} : Cells w → Nat → BitVec w
  | [], _ => 0
  | (a, v) :: m, k => if a = k then v else cellGet m k

/-- Inserts an entry before the first larger key. -/
def cellInsert {w : Nat} (k : Nat) (v : BitVec w) : Cells w → Cells w
  | [] => [(k, v)]
  | (a, x) :: m => if k < a then (k, v) :: (a, x) :: m else (a, x) :: cellInsert k v m

/-- Writes a word, keeping the canonical form: a zero is not listed. -/
def cellSet {w : Nat} (m : Cells w) (k : Nat) (v : BitVec w) : Cells w :=
  let rest := m.filter fun e => e.1 != k
  if v = 0 then rest else cellInsert k v rest

/-- The canonical form: keys strictly rising, no zero listed. -/
def cellWf {w : Nat} : Cells w → Bool
  | [] => true
  | [(_, v)] => v != 0
  | (a, v) :: (b, x) :: m => v != 0 && decide (a < b) && cellWf ((b, x) :: m)

/-- The canonical form of a memory (`Memory.wf` of a byte list). -/
abbrev Memory.wf (m : Mem) : Bool := cellWf m

/-- Writes several words. -/
def cellSets {w : Nat} (m : Cells w) : List (Nat × BitVec w) → Cells w
  | [] => m
  | (k, v) :: r => cellSets (cellSet m k v) r

/-- Drops every entry whose key is in `[lo, lo + n)`. -/
def cellClear {w : Nat} (m : Cells w) (lo n : Nat) : Cells w :=
  m.filter fun e => !(decide (lo ≤ e.1) && decide (e.1 < lo + n))

/-- The record at key `k`. -/
def tabGet? {α : Type} : Tab α → Nat → Option α
  | [], _ => none
  | (a, v) :: t, k => if a = k then some v else tabGet? t k

def tabInsert {α : Type} (k : Nat) (v : α) : Tab α → Tab α
  | [] => [(k, v)]
  | (a, x) :: t => if k < a then (k, v) :: (a, x) :: t else (a, x) :: tabInsert k v t

def tabErase {α : Type} (t : Tab α) (k : Nat) : Tab α := t.filter fun e => e.1 != k

/-- Writes a record in its place. -/
def tabSet {α : Type} (t : Tab α) (k : Nat) (v : α) : Tab α := tabInsert k v (tabErase t k)

/-- Changes the record at `k`, if there is one. -/
def tabMod {α : Type} (t : Tab α) (k : Nat) (f : α → α) : Tab α :=
  t.map fun e => if e.1 = k then (e.1, f e.2) else e

/-- A record with a default where none is listed. -/
def tabGetD {α : Type} (t : Tab α) (k : Nat) (d : α) : α := (tabGet? t k).getD d

end Sys2Proof.Machine
end

