-- ==== Sys2Proof/Machine/Ops.lean ====
section
/-! DEFINITION. The named operations over State that the meanings share: time, free values, groups, banks and registers, bytes of
memory, page tables and translation. -/

namespace Sys2Proof.Machine

/-! ## Time, identifiers, free values -/

/-- Device time in ns (R5, R46). -/
def now (s : State) : Nat := s.time / 33

/-- The clk of a core (R5, R384): the full-speed count, unless the core has a clock of its own. -/
def State.clkOf (s : State) (core : Nat) : Nat := match tabGet? s.clocks core with | some c => c.clk | none => s.clk

/-- Whether the device time that has been reached is that of a clk of the core. -/
def State.isLive (s : State) (core : Nat) : Bool := match tabGet? s.clocks core with | some c => c.live | none => s.fullLive

/-- A core's clock as a record of its own. -/
def State.clockOf (s : State) (core : Nat) : Clock :=
  tabGetD s.clocks core { clk := s.clk, edge := s.edge, acc := 0, mhz := 3300, stretch := 0, live := s.fullLive }

/-- A clock that has reached its next clk: a clk is 33,000 / mhz times 1/33 ns long, and the limiter's stretch longer (R383, R384). -/
def Clock.next (c : Clock) : Clock :=
  { c with clk := c.clk + 1, edge := c.edge + (33000 + c.acc) / c.mhz + c.stretch, acc := (33000 + c.acc) % c.mhz, live := true }

/-- A value that the spec leaves open: the next free value (log entry 3). -/
def State.free (s : State) : DWord × State := (Config.freeValue s.fresh, { s with fresh := s.fresh + 1 })

/-- A choice among `n` that the spec leaves open (log entry 4); 0 when `n` is 0. -/
def State.choice (s : State) (n : Nat) : Nat × State := (Config.choose s.fresh % n, { s with fresh := s.fresh + 1 })

/-- A new identifier. -/
def State.newId (s : State) : Nat × State := (s.nextId, { s with nextId := s.nextId + 1 })

/-! ## The part (R1) -/

/-- Whether grade and core mask belong together: OZ-880-H enables every core, OZ-880-M all but one of each cluster. -/
def State.partOk (s : State) : Bool :=
  (s.grade == 0 && s.coreMask == BitVec.allOnes 256) ||
    (s.grade == 1 && (List.range 32).all fun k => ((List.range 8).filter fun i => !s.coreMask.getLsbD (8 * k + i)).length == 1)

/-- The device right after power-good as a part of the given grade and core mask; `State.reset` is an OZ-880-H (log entry 10). -/
def State.resetAs (grade : BitVec 8) (mask : BitVec 256) : State := { State.reset with grade := grade, coreMask := mask }

/-! ## Groups, teams, launches, contexts -/

def State.group? (s : State) (uid : Nat) : Option Group := tabGet? s.groups uid
def State.team? (s : State) (uid : Nat) : Option Team := tabGet? s.teams uid
def State.launch? (s : State) (uid : Nat) : Option Launch := tabGet? s.launches uid
def State.context? (s : State) (asid : Nat) : Option Context := tabGet? s.contexts asid

def State.setGroup (s : State) (g : Group) : State := { s with groups := tabSet s.groups g.uid g }
def State.setTeam (s : State) (t : Team) : State := { s with teams := tabSet s.teams t.uid t }
def State.setLaunch (s : State) (l : Launch) : State := { s with launches := tabSet s.launches l.uid l }
def State.setContext (s : State) (c : Context) : State := { s with contexts := tabSet s.contexts c.asid c }

def State.modGroup (s : State) (uid : Nat) (f : Group → Group) : State := { s with groups := tabMod s.groups uid f }
def State.modTeam (s : State) (uid : Nat) (f : Team → Team) : State := { s with teams := tabMod s.teams uid f }
def State.modLaunch (s : State) (uid : Nat) (f : Launch → Launch) : State := { s with launches := tabMod s.launches uid f }
def State.modContext (s : State) (asid : Nat) (f : Context → Context) : State :=
  { s with contexts := tabMod s.contexts asid f }

/-- The team and launch of a group. -/
def State.teamOf (s : State) (g : Group) : Option Team := s.team? g.team
def State.launchOf (s : State) (g : Group) : Option Launch := (s.team? g.team).bind fun t => s.launch? t.launch
def State.asidOf (s : State) (g : Group) : Nat := match s.team? g.team with | some t => t.asid | none => 0
def State.contextOf (s : State) (g : Group) : Option Context := s.context? (s.asidOf g)

/-- The groups of a team in index order, and the groups resident on a partition. -/
def State.groupsOf (s : State) (team : Nat) : List Group := (s.groups.map (·.2)).filter fun g => g.team == team
def State.groupsAt (s : State) (core part : Nat) : List Group :=
  (s.groups.map (·.2)).filter fun g => g.core == core && g.part == part

def Group.slot? (g : Group) : Option Nat :=
  match g.place with
  | .active slot _ => some slot
  | _ => none

/-- The bank whose instructions the group runs: the handler's while one runs (R335). -/
def Group.bk (g : Group) : Bank := match g.hand with | some h => h.bank | none => g.bank
def Group.setBk (g : Group) (b : Bank) : Group :=
  match g.hand with
  | some h => { g with hand := some { h with bank := b } }
  | none => { g with bank := b }

def Bank.split? (b : Bank) (id : Nat) : Option Split := b.splits.find? fun x => x.id == id
def Bank.setSplit (b : Bank) (sp : Split) : Bank :=
  { b with splits := b.splits.map fun x => if x.id == sp.id then sp else x }

/-- The split that holds a lane. -/
def Bank.splitOfLane? (b : Bank) (l : Nat) : Option Split := b.splits.find? fun x => x.lanes.has l

/-- The near slots a group has: 32, or 16 at width 64 and in a handler (R111, R335). -/
def Group.nearSlots (g : Group) : Nat := if g.width = 64 || g.hand.isSome then 16 else 32

/-- The partition record. -/
def partKey (core part : Nat) : Nat := core * 4 + part
def Part.empty : Part := { busy := [], marks := [], rr := [], freed := [], issued := [] }
def State.partAt (s : State) (core part : Nat) : Part := tabGetD s.parts (partKey core part) Part.empty
def State.setPart (s : State) (core part : Nat) (p : Part) : State := { s with parts := tabSet s.parts (partKey core part) p }

/-- Whether an operation belongs to the group's running handler, or to its user code. -/
def State.opsOf (s : State) (g : Group) (hand : Bool) : List Op := s.ops.filter fun o => o.grp == g.uid && o.hand == hand
def State.op? (s : State) (uid : Nat) : Option Op := s.ops.find? fun o => o.uid == uid
def State.setOp (s : State) (o : Op) : State := { s with ops := s.ops.map fun x => if x.uid == o.uid then o else x }
def State.dropOp (s : State) (uid : Nat) : State := { s with ops := s.ops.filter fun x => x.uid != uid }

/-! ## Registers -/

/-- Key of lane `l` of D register `r`. -/
def laneKey (r l : Nat) : Nat := r * 64 + l

def Group.dGet (g : Group) (r l : Nat) : Word := cellGet g.dfile (laneKey r l)
def Group.dSet (g : Group) (r l : Nat) (v : Word) : Group := { g with dfile := cellSet g.dfile (laneKey r l) v }

/-- A lane's predicate: p7 is always 1 (R46). -/
def Bank.pred (b : Bank) (n l : Nat) : Bool := n == 7 || (cellGet b.preds n).getLsbD l
def Bank.setPred (b : Bank) (n l : Nat) (v : Bool) : Bank :=
  if n = 7 then b
  else
    let m := cellGet b.preds n
    { b with preds := cellSet b.preds n (if v then m ||| Lanes.single l else m &&& ~~~Lanes.single l) }

def Bank.flag (b : Bank) (f : Nat) : Nat := (cellGet b.flags f).toNat
def Bank.flagUp (b : Bank) (f : Nat) : Bank := { b with flags := cellSet b.flags f (cellGet b.flags f + 1) }
def Bank.flagDown (b : Bank) (f : Nat) : Bank :=
  { b with flags := cellSet b.flags f (if cellGet b.flags f = 0 then 0 else cellGet b.flags f - 1) }

/-- The user split whose scalar copy a handler uses: the one that HCAUSE.SPLIT names (R335), or the lowest one left. -/
def Group.servedSplit? (g : Group) : Option Split :=
  match g.hand with
  | some h =>
    match g.bank.split? h.serves.split with
    | some sp => some sp
    | none => g.bank.splits.head?
  | none => none

/-- The scalar file that a split of the running bank reads (R138, R335). -/
def Group.sfileOf (g : Group) (sp : Split) : Cells 32 :=
  if g.hand.isSome && !sp.own then (match g.servedSplit? with | some u => u.sfile | none => []) else sp.sfile

/-- Writes a scalar register of one split of a bank and its written mask (R138). -/
def Split.sSet (sp : Split) (r : Nat) (v : Word) : Split :=
  { sp with sfile := cellSet sp.sfile r v, written := sp.written ||| ((1#64) <<< r) }

/-- What a group reads in a team register, with the clk of each core (R117): its own write that landed less than 2 clk ago, else the last
write, in landing order, that reaches its core: 2 clk after landing on the writer's core, 6 on the partner's. -/
def Team.tGet (t : Team) (clk : Nat → Nat) (grp core r : Nat) : Word :=
  let ws := t.twrites.filter fun w => w.reg == r
  match (ws.filter fun w => w.grp == grp && decide (w.clk ≤ clk w.core) && decide (clk w.core < w.clk + 2)).getLast? with
  | some w => w.val
  | none =>
    match (ws.filter fun w => decide (w.clk + (if w.core == core then 2 else 6) ≤ clk w.core)).getLast? with
    | some w => w.val
    | none => cellGet t.tregs r

/-- Inserts a write in landing order: by instant, then partition and slot order, then issue order (R117). -/
def insertTWrite (w : TWrite) : List TWrite → List TWrite
  | [] => [w]
  | x :: xs => if w.time < x.time || (w.time = x.time && w.key < x.key) then w :: x :: xs else x :: insertTWrite w xs

/-- Folds the writes that every reader sees into the base values. -/
def Team.tFold (t : Team) (clk : Nat → Nat) : Team :=
  let old := t.twrites.takeWhile fun w => decide (w.clk + 6 ≤ clk w.core)
  { t with tregs := cellSets t.tregs (old.map fun w => (w.reg, w.val)), twrites := t.twrites.drop old.length }

/-! ## Bytes -/

/-- `n` bytes of a value, low byte first (R246). -/
def leBytes (v : Nat) : Nat → List Byte
  | 0 => []
  | n + 1 => BitVec.ofNat 8 v :: leBytes (v / 256) n

/-- The value of bytes, low byte first. -/
def leValue : List Byte → Nat
  | [] => 0
  | b :: bs => b.toNat + 256 * leValue bs

def readBytes (m : Mem) (a : Nat) : Nat → List Byte
  | 0 => []
  | n + 1 => cellGet m a :: readBytes m (a + 1) n

def writeBytes (m : Mem) (a : Nat) : List Byte → Mem
  | [] => m
  | b :: bs => writeBytes (cellSet m a b) (a + 1) bs

def readNat (m : Mem) (a n : Nat) : Nat := leValue (readBytes m a n)
def writeNat (m : Mem) (a n v : Nat) : Mem := writeBytes m a (leBytes v n)

/-- Bytes of the three storages behind a location. -/
def State.readLoc (s : State) (l : Loc) (n : Nat) : Nat :=
  match l with
  | .glob pa => readNat s.dram pa n
  | .scratch k => readNat s.scratch k n
  | .pool k => readNat s.pool k n

/-- A write has been performed at a watched line (R315): every entry of the line is to be retried, with the overflow entries of the
cells given (R317). -/
def State.mark (s : State) (line : Nat) (cells : List Nat) : State :=
  if s.vigil.any fun e => e.pa / 128 == line then
    let old := match s.watch.find? fun w => w.1 == line with | some w => w.2.2 | none => []
    { s with watch := (s.watch.filter fun w => w.1 != line) ++ [(line, 0, (old ++ cells).eraseDups)] }
  else s

/-- Device memory with the capability list as it is, whatever has been written over it: it never changes while the device runs (R25,
R27). -/
def State.keepCaps (s : State) (pa n : Nat) (m : Mem) : Mem :=
  match s.capList with
  | some b => if pa < b + 136 ∧ b < pa + n then writeBytes m b (readBytes s.dram b 136) else m
  | none => m

/-- Whether `n` bytes of device memory lie off the capability list. -/
def State.offCaps (s : State) (pa n : Nat) : Bool :=
  match s.capList with
  | some b => decide (pa + n ≤ b) || decide (b + 136 ≤ pa)
  | none => true

/-- The poisoned words after a write of `n` bytes from word `w`: only a write of a whole word clears it (R248). -/
def clearWords (poison : List Nat) (w n : Nat) : List Nat :=
  if n = 4 || n = 8 then poison.filter fun p => !(decide (w ≤ p) && decide (p < w + n / 4)) else poison

/-- Where the pool's words stand among the poisoned ones, past the scratchpads'. -/
def poolWords : Nat := 2 ^ 25

/-- A write to a word or line clears its poison only when it covers it whole (R248). -/
def State.writeLoc (s : State) (l : Loc) (n v : Nat) : State :=
  match l with
  | .glob pa =>
    { s with dram := s.keepCaps pa n (writeNat s.dram pa n v) }.mark (pa / 128) []
  | .scratch k => { s with scratch := writeNat s.scratch k n v, poisonWords := clearWords s.poisonWords (k / 4) n }
  | .pool k => { s with pool := writeNat s.pool k n v, poisonWords := clearWords s.poisonWords (poolWords + k / 4) n }

/-- Whether a read of `n` bytes meets poisoned data (R248). -/
def State.poisoned (s : State) (l : Loc) (n : Nat) : Bool :=
  match l with
  | .glob pa => s.poisonLines.contains (pa / 128) || s.poisonLines.contains ((pa + n - 1) / 128)
  | .scratch k => (List.range ((n + 3) / 4)).any fun i => s.poisonWords.contains (k / 4 + i)
  | .pool k => (List.range ((n + 3) / 4)).any fun i => s.poisonWords.contains (poolWords + k / 4 + i)

/-! ## Update-only copies (R245, R254) -/

/-- The new value of an atomic operation (R254). -/
def atomNew (op : AtomOp) (ty : Ty) (old b cmp : DWord) : DWord :=
  if ty = .f32 then ofW (w32 (BitVec.ofNat 64 (FloatFmt.f32.fadd .rn false (w32 old).toNat (w32 b).toNat).1))
  else
    match op with
    | .add => fit ty (old + b)
    | .min => if ext ty old ≤ ext ty b then fit ty old else fit ty b
    | .max => if ext ty old ≤ ext ty b then fit ty b else fit ty old
    | .and => fit ty (old &&& b)
    | .or => fit ty (old ||| b)
    | .xor => fit ty (old ^^^ b)
    | .exch => fit ty b
    | .cas => if fit ty old = fit ty cmp then fit ty b else fit ty old

/-- The size in bytes of an atomic's operand. -/
def atomSize (ty : Ty) : Nat := if ty.is64 then 8 else 4

/-- Applies one update-only partial at the home. -/
def applyPartial (s : State) (p : Partial) : State :=
  let old : DWord := BitVec.ofNat 64 (s.readLoc (.glob p.addr) (atomSize p.ty))
  s.writeLoc (.glob p.addr) (atomSize p.ty) (atomNew p.op p.ty old p.val 0).toNat

/-- The recall of every update-only copy of a line, in ascending core order (R245). -/
def State.recall (s : State) (line : Nat) : State :=
  let mine := s.partials.filter fun p => p.addr / 128 == line
  let s := { s with partials := s.partials.filter fun p => p.addr / 128 != line }
  ((List.range 256).flatMap fun c => mine.filter fun p => p.core == c).foldl applyPartial s

/-- `n` bytes of device memory as an access that recalls their line finds them (R245). -/
def State.readHome (s : State) (pa n : Nat) : Nat := readNat (s.recall (pa / 128)).dram pa n

/-! ## Energy meters (R379) -/

/-- A launch and those that it was spawned from, directly or through others; `fuel` bounds the chain. -/
def State.launchChain (s : State) : Nat → Nat → List Nat
  | 0, _ => []
  | n + 1, l => l :: (match (s.launch? l).bind fun x => x.parent with | some p => State.launchChain s n p | none => [])

/-- A team that stands on the device or has been taken out. -/
def State.knownTeam? (s : State) (team : Nat) : Option Team :=
  match s.team? team with
  | some t => some t
  | none => (s.saved.find? fun v => v.team.uid == team).map (·.team)

/-- A meter counts `n` events of a team at a place. -/
def State.meter (s : State) (place team : Nat) (kind : Metered) (n : Nat) : State :=
  match s.knownTeam? team with
  | none => s
  | some t =>
    let add := n * Config.weight kind
    let mine (m : Meter) : Bool := m.place == place && m.team == team
    { s with meters :=
        if s.meters.any mine then s.meters.map fun m => if mine m then { m with units := m.units + add } else m
        else s.meters ++
          [{ place := place, team := team, launches := s.launchChain s.launches.length t.launch, asid := t.asid, units := add }] }

/-- The place of the base die under a column. -/
def baseDie (column : Nat) : Nat := 256 + column / 32

/-- The column whose slice is the home of a line (R241). -/
def State.homeColumn (s : State) (pa : Nat) : Nat := tabGetD s.homes (pa / 4096) (Config.firstColumn (pa / 4096) % 256)

/-- The columns whose requests a maintenance action holds: those of a pair of channels, or the one whose bus is repaired (R386, R387). -/
def Maint.holds (m : Maint) (column : Nat) : Bool := if m.repair then m.column == column else m.column / 2 == column / 2

/-- The maintenance action, if any, that holds the requests of a column. -/
def State.maintAt (s : State) (column : Nat) : Option Maint := s.maint.find? fun m => m.holds column

/-- The maintenance action, if any, that holds a request for some addresses of device memory. -/
def State.maintFor (s : State) (pas : List Nat) : Option Maint := s.maint.find? fun m => pas.any fun a => m.holds (s.homeColumn a)

/-- An event takes its place in the order in which a maintenance action's held requests arrived. -/
def State.holdEvent (s : State) (m : Maint) (ev : Instr) : State :=
  { s with maint := s.maint.map fun x => if x = m then { m with arrived := m.arrived ++ [ev] } else x }

/-- An event that makes requests for some addresses of device memory: it happens, as `out` says, unless a maintenance action holds one of them
at its home slice, where the event then has its place in the order of arrival (R386). -/
def State.holdOr (s : State) (pas : State → List Nat) (ev : Instr) (out : Out) : Out :=
  match s.maint with
  | [] => out
  | _ =>
    match out, s.maintFor (pas s) with
    | .next _, some m => if m.arrived.contains ev then .fault .notEnabled else .next (s.holdEvent m ev)
    | out, _ => out

/-- An address in each 4 KiB block of a range: their homes are the range's. -/
def blocksOf (a n : Nat) : List Nat := if n = 0 then [] else (List.range ((a + n - 1) / 4096 + 1 - a / 4096)).map fun i => (a / 4096 + i) * 4096

/-- The meters of the base dies count an access that reaches a slice: of device memory, whose slice goes to DRAM for it or not, or of a
pool (R379). -/
def State.meterSlice (s : State) (team : Nat) (l : Loc) : State :=
  match l with
  | .glob pa =>
    let k := s.choice 2
    (k.2.meter (baseDie (s.homeColumn pa)) team .slice 1).meter (baseDie (s.homeColumn pa)) team .dram k.1
  | .pool k => s.meter (baseDie (k / 2 ^ 23)) team .slice 1
  | .scratch _ => s

/-! ## Translation (R237 to R240) -/

/-- Trap codes (R333). -/
def tcOpcode : BitVec 8 := 0x01
def tcOperand : BitVec 8 := 0x02
def tcModifier : BitVec 8 := 0x03
def tcControl : BitVec 8 := 0x04
def tcStraddle : BitVec 8 := 0x05
def tcWidth : BitVec 8 := 0x06
def tcConvergence : BitVec 8 := 0x07
def tcFormat : BitVec 8 := 0x08
def tcWindow : BitVec 8 := 0x09
def tcNear : BitVec 8 := 0x0A
def tcStrand : BitVec 8 := 0x0B
def tcOverrun : BitVec 8 := 0x0C
def tcAddress : BitVec 8 := 0x10
def tcAlign : BitVec 8 := 0x11
def tcPage : BitVec 8 := 0x12
def tcPerm : BitVec 8 := 0x13
def tcPte : BitVec 8 := 0x14
def tcRemote : BitVec 8 := 0x15
def tcMem : BitVec 8 := 0x16
def tcScale : BitVec 8 := 0x17
def tcLaunch : BitVec 8 := 0x20
def tcHash : BitVec 8 := 0x21
def tcDep : BitVec 8 := 0x22
def tcCycle : BitVec 8 := 0x23
def tcPin : BitVec 8 := 0x30

/-- The trap of an encoding fate (R53). -/
def fateCode : Fate → BitVec 8
  | .straddle => tcStraddle | .control => tcControl | .opcode => tcOpcode | .modifier => tcModifier | .operand => tcOperand

/-- Bytes of DRAM (R236). -/
def dramSize : Nat := 0xC000000000

/-- What a page-table walk finds: a leaf with its physical page and page size in bits, or a failing code, with whether the fault
lies in the tables themselves (ACCESS 6). -/
inductive Walk where
  | leaf (e : BitVec 64) (base bits : Nat)
  | fault (code : BitVec 8) (table : Bool)
  deriving DecidableEq, Repr

/-- A field of a 64-bit entry. -/
def fieldN (e : BitVec 64) (lo n : Nat) : Nat := (e.extractLsb' lo n).toNat

/-- Page size in bits of a leaf at a level, and the virtual bits that index the level. -/
def levelBits : Nat → Nat
  | 0 => 39 | 1 => 30 | 2 => 21 | _ => 16

/-- The index that a level takes from a virtual address (R237). -/
def levelIndex (level va : Nat) : Nat :=
  match level with
  | 0 => va / 2 ^ 39 % 2 ^ 17
  | 1 => va / 2 ^ 30 % 512
  | 2 => va / 2 ^ 21 % 512
  | _ => va / 2 ^ 16 % 32

/-- Whether a leaf is well-formed at its level (R238, R239). -/
def leafOk (level : Nat) (e : BitVec 64) : Bool :=
  level != 0 && !(e.getLsbD 2 && e.getLsbD 3) && fieldN e 10 6 == 0 && fieldN e 48 16 == 0 &&
    fieldN e 16 32 * 2 ^ 16 % 2 ^ levelBits level == 0 && decide (fieldN e 16 32 * 2 ^ 16 + 2 ^ levelBits level ≤ dramSize)

/-- Whether a table pointer at a level is well-formed (R238, R239). -/
def pointerOk (level : Nat) (e : BitVec 64) : Bool :=
  level != 3 && fieldN e 1 8 == 0 && fieldN e 10 6 == 0 && fieldN e 56 8 == 0 &&
    (level == 2 || fieldN e 16 4 == 0) &&
    decide (fieldN e 16 40 * 256 + (if level == 2 then 256 else 4096) ≤ dramSize)

/-- The walk (R237, R239, R245): `fuel` counts the levels left. -/
def walkFrom (s : State) (va : Nat) : Nat → (level table : Nat) → Walk
  | 0, _, _ => .fault tcPte true
  | fuel + 1, level, table =>
    let a := table + 8 * levelIndex level va
    if s.poisonLines.contains (a / 128) then .fault tcMem true
    else
      let e : BitVec 64 := BitVec.ofNat 64 (s.readHome a 8)
      if !e.getLsbD 0 then .fault tcPage false
      else if e.getLsbD 9 then
        if leafOk level e then .leaf e (fieldN e 16 32 * 2 ^ 16) (levelBits level) else .fault tcPte true
      else if pointerOk level e then walkFrom s va fuel (level + 1) (fieldN e 16 40 * 256)
      else .fault tcPte true

/-- The lines that hold the table entries of a walk. -/
def walkLines (s : State) (va : Nat) : Nat → (level table : Nat) → List Nat
  | 0, _, _ => []
  | fuel + 1, level, table =>
    let a := table + 8 * levelIndex level va
    let e : BitVec 64 := BitVec.ofNat 64 (s.readHome a 8)
    a / 128 ::
      (if e.getLsbD 0 && !e.getLsbD 9 && pointerOk level e then walkLines s va fuel (level + 1) (fieldN e 16 40 * 256) else [])

/-- A walk's accesses to the tables have recalled the update-only copies of their lines (R245). -/
def State.recallWalk (s : State) (asid va : Nat) : State :=
  match s.partials, s.context? asid with
  | [], _ | _, none => s
  | _, some c => (walkLines s va 4 0 (c.ptroot.toNat * 2 ^ 20)).foldl State.recall s

/-- The walk of an address space (R236). -/
def State.walk (s : State) (asid va : Nat) : Walk :=
  match s.context? asid with
  | some c => walkFrom s va 4 0 (c.ptroot.toNat * 2 ^ 20)
  | none => .fault tcPage false

/-- What an access needs of a leaf (R239). -/
inductive Need where
  | read | write | both | fetch
  deriving DecidableEq, Repr

def permits (need : Need) (priv : Bool) (e : BitVec 64) : Bool :=
  (match need with
   | .read => e.getLsbD 1
   | .write => e.getLsbD 2
   | .both => e.getLsbD 1 && e.getLsbD 2
   | .fetch => e.getLsbD 3) && (priv || !e.getLsbD 4)

/-- A translated access: the physical address, the lease class and the MIG, NOPIN and PRIV bits; or the trap, whether its ACCESS is 6,
and the size in bits of the page that names it in a fault record (R331). -/
inductive Xlate where
  | ok (pa lcls : Nat) (mig nopin priv : Bool)
  | fault (code : BitVec 8) (table : Bool) (pageBits : Nat)
  deriving DecidableEq, Repr

/-- Translates by a walk, without the cached translations; bits [63:56] of an address must be zero (R235). -/
def State.xlateWalk (s : State) (asid va : Nat) (need : Need) (priv : Bool) : Xlate :=
  if 2 ^ 56 ≤ va then .fault tcAddress false 16
  else
    match s.walk asid va with
    | .fault c t => .fault c t 16
    | .leaf e base bits =>
      if permits need priv e then .ok (base + va % 2 ^ bits) (fieldN e 5 2) (e.getLsbD 7) (e.getLsbD 8) (e.getLsbD 4)
      else .fault tcPerm false bits

/-- The addresses of device memory that a translated access reads and reaches: the tables' entries and the place itself. -/
def State.walkPlaces (s : State) (asid va : Nat) : List Nat :=
  match s.context? asid with | some c => (walkLines s va 4 0 (c.ptroot.toNat * 2 ^ 20)).map (128 * ·) | none => []
def State.placesOf (s : State) (asid va : Nat) (need : Need) (priv : Bool) : List Nat :=
  s.walkPlaces asid va ++ (match s.xlateWalk asid va need priv with | .ok pa _ _ _ _ => [pa] | .fault .. => [])

/-- Translates for a core (R240): a cached translation may be used while one is held; otherwise the tables are walked and the
leaf is cached. Which of the two happens while both are there is not stated. -/
def State.xlate (s : State) (core asid va : Nat) (need : Need) (priv : Bool) : Xlate × State :=
  let cached := s.tlb.find? fun t => t.core == core && t.asid == asid && t.vpage == va / 2 ^ 16
  let walked : Xlate × State :=
    let s := s.recallWalk asid va
    match s.walk asid va with
    | .fault c t => (.fault c t 16, s)
    | .leaf e base bits =>
      let page := base + va % 2 ^ bits / 2 ^ 16 * 2 ^ 16
      let rest := s.tlb.filter fun t => !(t.core == core && t.asid == asid && t.vpage == va / 2 ^ 16)
      let s := { s with tlb := { core := core, asid := asid, vpage := va / 2 ^ 16, leaf := e, base := page, bits := bits } :: rest }
      (if permits need priv e then .ok (base + va % 2 ^ bits) (fieldN e 5 2) (e.getLsbD 7) (e.getLsbD 8) (e.getLsbD 4)
       else .fault tcPerm false bits, s)
  match cached with
  | none => walked
  | some t =>
    let c := s.choice 2
    if c.1 = 0 then
      (if permits need priv t.leaf then
         .ok (t.base + va % 2 ^ 16) (fieldN t.leaf 5 2) (t.leaf.getLsbD 7) (t.leaf.getLsbD 8) (t.leaf.getLsbD 4)
       else .fault tcPerm false t.bits, c.2)
    else (walked.1, { walked.2 with fresh := c.2.fresh })

/-- The size in bits of the page that a core's access to an address is translated by (R331). -/
def State.pageBits (s : State) (core asid va : Nat) : Nat :=
  match s.tlb.find? fun t => t.core == core && t.asid == asid && t.vpage == va / 2 ^ 16 with | some t => t.bits | none => 16

/-- A read by the Almanac, firmware or an engine of `n` bytes at a virtual address that stay in one page: the value, or the
failure. DESIGN CHOICE (log entry 56): it may touch a page with PRIV = 1. The recall of R245 that it causes is `State.touch`'s. -/
def State.vread (s : State) (asid va n : Nat) : Except (BitVec 8) Nat :=
  match s.xlateWalk asid va .read true with
  | .ok pa _ _ _ _ => if s.poisoned (.glob pa) n then .error tcMem else .ok (s.readHome pa n)
  | .fault c _ _ => .error c

/-- A read of `n` bytes at a virtual address has recalled the update-only copies of the lines that it reached, of page tables too (R245). -/
def State.touch (s : State) (asid va n : Nat) : State :=
  match s.partials with
  | [] => s
  | _ =>
    (List.range ((va % 128 + n + 127) / 128)).foldl (fun s i =>
      let a := va / 128 * 128 + 128 * i
      let s := s.recallWalk asid a
      match s.xlateWalk asid a .read true with | .ok pa _ _ _ _ => s.recall (pa / 128) | .fault .. => s) s

/-- Reads a longer block, 8 bytes at a time: `n` units. -/
def State.vreads (s : State) (asid va : Nat) : Nat → Except (BitVec 8) (List Byte)
  | 0 => .ok []
  | n + 1 =>
    match s.vread asid va 8 with
    | .error e => .error e
    | .ok v =>
      match State.vreads s asid (va + 8) n with
      | .error e => .error e
      | .ok r => .ok (leBytes v 8 ++ r)

/-- The latest lease of a line, and the completion time of a write that is performed now (R244), at a physical and at a virtual address. -/
def State.lease (s : State) (pa : Nat) : Nat := tabGetD s.leases (pa / 128) 0
def State.writeTime (s : State) (pa : Nat) : Nat := max (now s) (s.lease pa)
def State.vwriteTime (s : State) (asid va : Nat) : Nat :=
  match s.xlateWalk asid va .write true with | .ok pa _ _ _ _ => s.writeTime pa | .fault .. => 0

end Sys2Proof.Machine
end

