-- ==== Sys2Proof/Machine/Home.lean ====
section
/-! DEFINITION. Accesses at the home slice of a line (R241 to R245, R254, R261), and what the Almanac, firmware and the engines
read and write in device memory: descriptors, cells, the fault log. -/

namespace Sys2Proof.Machine

/-- A read at the home. -/
def State.homeRead (s : State) (pa n : Nat) : DWord × State :=
  let s := s.recall (pa / 128)
  (BitVec.ofNat 64 (readNat s.dram pa n), s)

/-- A store at the home: its completion time (R244) and the device after it. -/
def State.homeWrite (s : State) (pa n v : Nat) : Nat × State :=
  let s := s.recall (pa / 128)
  (s.writeTime pa, s.writeLoc (.glob pa) n v)

/-- A read-modify-write at the home: the old value, the completion time, the device after it. -/
def State.homeAtom (s : State) (pa : Nat) (ty : Ty) (op : AtomOp) (b cmp : DWord) : DWord × Nat × State :=
  let s := s.recall (pa / 128)
  let old : DWord := BitVec.ofNat 64 (readNat s.dram pa (atomSize ty))
  (old, s.writeTime pa, s.writeLoc (.glob pa) (atomSize ty) (atomNew op ty old b cmp).toNat)

/-- A write by the Almanac, firmware or an engine of `n` bytes at a virtual address that stay in one page. -/
def State.vwrite (s : State) (asid va n v : Nat) : Except (BitVec 8) State :=
  let s := s.recallWalk asid va
  match s.xlateWalk asid va .write true with
  | .ok pa _ _ _ _ => .ok (s.homeWrite pa n v).2
  | .fault c _ _ => .error c

/-- Writes a longer block of bytes, 4 at a time. -/
def State.vwrites (s : State) (asid va : Nat) : List Word → Except (BitVec 8) State
  | [] => .ok s
  | w :: ws =>
    match s.vwrite asid va 4 w.toNat with
    | .error e => .error e
    | .ok s => State.vwrites s asid (va + 4) ws

/-! ## Records of fixed bit layout -/

def fldN {w : Nat} (d : BitVec w) (lo n : Nat) : Nat := d.toNat / 2 ^ lo % 2 ^ n
def setFld {w : Nat} (d : BitVec w) (lo n v : Nat) : BitVec w :=
  BitVec.ofNat w (d.toNat - d.toNat / 2 ^ lo % 2 ^ n * 2 ^ lo + v % 2 ^ n * 2 ^ lo)

/-- A task descriptor (R286). -/
abbrev Desc := BitVec 512
def Desc.state (d : Desc) : Nat := fldN d 0 3
def Desc.pooled (d : Desc) : Bool := d.getLsbD 3
def Desc.prio (d : Desc) : Nat := fldN d 4 4
def Desc.dep (d : Desc) : Nat := fldN d 8 16
def Desc.nextDep (d : Desc) : Nat := fldN d 24 16
def Desc.asid (d : Desc) : Nat := fldN d 40 14
def Desc.tmpl (d : Desc) : Nat := fldN d 64 64
def Desc.prec (d : Desc) : Nat := fldN d 128 64
def Desc.succ (d : Desc) : Nat := fldN d 192 64
def Desc.scount (d : Desc) : Nat := fldN d 256 16
def Desc.team (d : Desc) : Nat := fldN d 272 24
def Desc.phase (d : Desc) : Nat := fldN d 296 24
def Desc.waitOn (d : Desc) : Nat := fldN d 320 64
def Desc.helpOf (d : Desc) : Nat := fldN d 384 64
def Desc.depth (d : Desc) : Nat := fldN d 448 4
def Desc.core (d : Desc) : Nat := fldN d 452 8
def Desc.pair (d : Desc) : Bool := d.getLsbD 460

/-- Task states (R286). -/
def stUnstarted : Nat := 0
def stReady : Nat := 1
def stRunning : Nat := 2
def stParked : Nat := 3
def stWaiting : Nat := 4
def stDone : Nat := 5
def stFree : Nat := 7

/-- Whether DEPDEC, TDONE and SPAWN may use a descriptor (R286). -/
def Desc.usable (d : Desc) (asid : Nat) : Bool :=
  d.state != 6 && fldN d 54 10 == 0 && fldN d 461 51 == 0 && d.asid == asid

/-- Reads a descriptor. -/
def State.desc (s : State) (asid a : Nat) : Except (BitVec 8) Desc :=
  match s.vreads asid a 8 with
  | .ok bs => .ok (BitVec.ofNat 512 (leValue bs))
  | .error e => .error e

/-- The eight words that hold 64 bits each of a descriptor, as 32-bit words. -/
def words32 {w : Nat} (d : BitVec w) (n : Nat) : List Word := (List.range n).map fun i => BitVec.ofNat 32 (d.toNat / 2 ^ (32 * i))

/-- Writes a descriptor whole. -/
def State.putDesc (s : State) (asid a : Nat) (d : Desc) : Except (BitVec 8) State := s.vwrites asid a (words32 d 16)

/-- Changes a descriptor in one step at its home; a descriptor that cannot be reached stays as it is. -/
def State.modDesc (s : State) (asid a : Nat) (f : Desc → Desc) : State :=
  let s := s.touch asid a 64
  match s.desc asid a with
  | .error _ => s
  | .ok d =>
    match s.putDesc asid a (f d) with
    | .ok s => s
    | .error _ => s

def Desc.setState (d : Desc) (st : Nat) : Desc := setFld d 0 3 st

/-- A team leaves its core or comes back to it: its task takes another state, unless it is DONE, which only FREE follows (R287). -/
def Desc.move (d : Desc) (st : Nat) : Desc := if d.state = stDone then d else d.setState st

/-! ## Firmware's events and the fault log (R331, R332, R335, R377) -/

/-- The eight words of a fault record (R332). -/
def FRec.words (r : FRec) : List Word :=
  let w0 : Word := (0#3) ++ BitVec.ofBool r.nested ++ r.split ++ r.depth ++ BitVec.ofBool r.cbv ++ r.cb ++ BitVec.ofBool r.ovf ++
    BitVec.ofBool r.more ++ BitVec.ofBool r.notice ++ BitVec.ofBool r.sw ++ r.access ++ r.group ++ r.code
  [w0, r.pcoff, r.addr.extractLsb' 0 32, (r.addr.extractLsb' 32 24).setWidth 32, r.lanes.extractLsb' 0 32,
   r.lanes.extractLsb' 32 32, (r.task.extractLsb' 6 32), ((r.task.extractLsb' 38 18).setWidth 32)]

/-- A firmware mailbox message (R374). -/
def fwMessage (cmd seq status asid : Nat) (arg0 arg1 arg2 : DWord) : List Word :=
  [BitVec.ofNat 32 (cmd + 256 * seq + 65536 * status), BitVec.ofNat 32 asid, arg0.extractLsb' 0 32, arg0.extractLsb' 32 32,
   arg1.extractLsb' 0 32, arg1.extractLsb' 32 32, arg2.extractLsb' 0 32, arg2.extractLsb' 32 32, 0, 0, 0, 0, 0, 0, 0, 0]

/-- Adds a record to a context's fault log (R335, R375, R377): the oldest gives way at 256, and LOG_PENDING is posted when the
log was empty. -/
def State.logFault (s : State) (asid : Nat) (r : FRec) : State :=
  match s.context? asid with
  | none => s
  | some c =>
    let full := decide (256 ≤ c.log.length)
    let log := (if full then c.log.drop 1 else c.log) ++ [r]
    let s := s.setContext { c with log := log, lost := c.lost || full }
    if c.log.isEmpty then { s with fwEvents := s.fwEvents ++ [fwMessage 0x82 0 0 asid 1 0 0] } else s

/-- A record of the Almanac's own (R293): no group remains to receive it. -/
def almanacRecord (code : BitVec 8) (addr task : Nat) : FRec :=
  { delivery := 0, code := code, group := 0, access := 7, sw := false, notice := false, more := false, ovf := false, cb := 0,
    cbv := false, depth := 0, split := 0, nested := false, pcoff := 0, addr := BitVec.ofNat 56 addr, lanes := 0,
    task := BitVec.ofNat 64 task }

/-! ## Ready queues and dependence counters (R289, R290) -/

/-- A task of an address space as one number: descriptors of two contexts may stand at one virtual address. -/
def taskKey (asid task : Nat) : Nat := asid * 2 ^ 56 + task

/-- The launch, or spawned team's template, that a task belongs to: the latest one that wrote its descriptor. -/
def State.launchOfTask (s : State) (asid task : Nat) (d : Desc) : Option Launch :=
  ((s.launches.map (·.2)).filter fun l =>
    l.asid == asid && l.spawned == d.pooled && !l.complete && l.desc + 64 * d.team == task).getLast?

/-- The stack whose queues hold a task: its mapped core's, or its spawner's (R290). -/
def State.taskStack (s : State) (asid task : Nat) (d : Desc) : Nat :=
  if d.pooled then (match s.launchOfTask asid task d with | some l => l.stack | none => 0) else d.core / 32

/-- A task enters the back of a level's queue (R290). Only system tasks hold level 11 and every task here is a program's, so a descriptor
that names a higher level than 10 enters level 10 (R22, R290; log entry 48). -/
def State.enqueue (s : State) (asid task : Nat) (d : Desc) : State :=
  { s with ready := s.ready ++
      [{ stack := s.taskStack asid task d, level := min d.prio 10, asid := asid, task := task, since := now s }] }

/-- Whether a task stands in a ready queue or is reserved for a core. -/
def State.queued (s : State) (asid task : Nat) : Bool :=
  (s.ready.any fun e => e.asid == asid && e.task == task) || s.reservedFor.any fun e => e.1 == taskKey asid task

/-- A task is in no ready queue and reserved for no core. -/
def State.unqueue (s : State) (asid task : Nat) : State :=
  { s with
    ready := s.ready.filter fun e => !(e.asid == asid && e.task == task)
    reservedFor := tabErase s.reservedFor (taskKey asid task) }

/-- A task that has become READY is enqueued at its level (R290, R311), or, if it was UNSTARTED and has been adopted, reserved for its waiter's
core (R310). -/
def State.makeReady (s : State) (asid task : Nat) : State :=
  match s.desc asid task with
  | .error _ => s
  | .ok d =>
    let s := s.modDesc asid task fun d => d.move stReady
    if d.helpOf = 0 || d.state != stUnstarted then s.enqueue asid task d
    else
      match s.desc asid d.helpOf with
      | .ok w => { s with reservedFor := tabSet s.reservedFor (taskKey asid task) w.core }
      | .error _ => s.enqueue asid task d

/-- The outcome of a decrement (R286, R289). -/
inductive DepOut where
  | done (s : State) | underflow | bad | fault (code : BitVec 8)

/-- One decrement of a dependence counter (R289). -/
def State.depDec (s : State) (asid task : Nat) : DepOut :=
  match s.desc asid task with
  | .error c => .fault c
  | .ok d =>
    if !d.usable asid then .bad
    else if d.dep = 0 then .underflow
    else
      match s.putDesc asid task (setFld d 8 16 (d.dep - 1)) with
      | .error c => .fault c
      | .ok s => .done (if d.dep = 1 then s.makeReady asid task else s)

/-! ## Futures (R293, R304, R327, R372) -/

/-- An ownership cell's first word and value (R304). -/
structure CellWords where
  head : BitVec 64
  value : BitVec 64
  deriving DecidableEq, Repr

def CellWords.kind (c : CellWords) : Nat := fldN c.head 0 2
def CellWords.full (c : CellWords) : Bool := c.head.getLsbD 2
def CellWords.spill (c : CellWords) : Bool := c.head.getLsbD 3
def CellWords.status (c : CellWords) : Nat := fldN c.head 4 8
def CellWords.notify (c : CellWords) : Bool := c.head.getLsbD 12
def CellWords.wide (c : CellWords) : Bool := c.head.getLsbD 13
/-- OWNER as a descriptor address. -/
def CellWords.owner (c : CellWords) : Nat := fldN c.head 14 50 * 64
def CellWords.logn (c : CellWords) : Nat := fldN c.value 0 4
/-- CONSUMER as a descriptor address. -/
def CellWords.consumer (c : CellWords) : Nat := fldN c.value 14 50 * 64

/-- Whether a cell is valid for its kind (R303, R304). -/
def CellWords.valid (c : CellWords) : Bool :=
  match c.kind with
  | 0 => !c.wide
  | 1 => !c.full && fldN c.head 4 10 == 0 && c.value == 0
  | 2 => !c.full && fldN c.head 4 9 == 0 && c.logn != 0 && fldN c.value 4 10 == 0
  | _ => false

def State.cell (s : State) (pa : Nat) : CellWords × State :=
  let h := s.homeRead pa 8
  let v := h.2.homeRead (pa + 8) 8
  (⟨h.1, v.1⟩, v.2)

/-- The completion message of R372. -/
def completionMsg (cause asid status : Nat) (cell value : DWord) : HostMsg :=
  .completion
    [BitVec.ofNat 32 (cause + 256 * asid), BitVec.ofNat 32 status, cell.extractLsb' 0 32, cell.extractLsb' 32 32,
     value.extractLsb' 0 32, value.extractLsb' 32 32, 0, 0]

/-- A successful write of a cell operation: overflow entries are scanned if the cell's SPILL is set (R317). -/
def State.cellWritten (s : State) (pa : Nat) (c : CellWords) : State := s.mark (pa / 128) (if c.spill then [pa] else [])

/-- Fills a future at its home (R327): the completion time of the write. -/
def State.fillCell (s : State) (asid va pa : Nat) (c : CellWords) (status : Nat) (value : DWord) : Nat × State :=
  let head := setFld (setFld c.head 2 1 1) 4 8 status
  let w := s.homeWrite pa 8 head.toNat
  let v := w.2.homeWrite (pa + 8) 8 value.toNat
  let s := v.2.cellWritten pa c
  (max w.1 v.1,
   if c.notify then { s with hostOut := s.hostOut ++ [completionMsg 0 asid status (BitVec.ofNat 64 va) value] } else s)

/-- The Almanac fills a completion future as FSET does (R293); a failure goes to the fault log. -/
def State.fillFuture (s : State) (asid future status value task : Nat) : State :=
  if future = 0 then s
  else if future % 16 != 0 then s.logFault asid (almanacRecord tcAlign future task)
  else
    let s := s.recallWalk asid future
    match s.xlateWalk asid future .both true with
    | .fault c _ _ => s.logFault asid (almanacRecord c future task)
    | .ok pa _ _ _ _ =>
      let c := s.cell pa
      if c.2.poisoned (.glob pa) 16 then c.2.logFault asid (almanacRecord tcMem future task)
      else if c.1.kind != 0 || !c.1.valid then c.2.logFault asid (almanacRecord tcOperand future task)
      else (c.2.fillCell asid future pa c.1 status (BitVec.ofNat 64 value)).2

/-! ## The end of tasks, teams and launches (R293, R301, R311) -/

/-- Decrements the successors of a task, in list order: the addresses that underflowed (R301). DESIGN CHOICE (log entry 56): at a team's end
no group is left to trap, and a list entry or a successor that cannot be read or used, or is not 64-byte aligned, is passed over
without a record. -/
def State.decSuccessors (s : State) (asid list : Nat) : Nat → State × List Nat
  | 0 => (s, [])
  | n + 1 =>
    let s := s.touch asid list 8
    match s.vread asid list 8 with
    | .error _ => State.decSuccessors s asid (list + 8) n
    | .ok t =>
      let s := s.touch asid t 64
      match if t % 64 = 0 then s.depDec asid t else .bad with
      | .done s => State.decSuccessors s asid (list + 8) n
      | .underflow =>
        let r := State.decSuccessors s asid (list + 8) n
        (r.1, t :: r.2)
      | _ => State.decSuccessors s asid (list + 8) n

/-- The effect of TDONE on the task of a team whose last group has exited, if it is not DONE yet (R293, R301): the device after it and the
successors that underflowed. -/
def State.taskDone (s : State) (asid task : Nat) : State × List Nat :=
  match s.desc asid task with
  | .error _ => (s, [])
  | .ok d =>
    if d.state = stDone then (s, [])
    else (s.modDesc asid task fun d => d.setState stDone).decSuccessors asid d.succ d.scount

/-- Whether a waiter waits for its team's restart (R310): it is WAITING, or, as it was DONE before, it is out or on its way out for an adoption
and not queued. -/
def State.asleep (s : State) (asid w : Nat) : Bool :=
  match s.desc asid w with
  | .error _ => false
  | .ok d =>
    d.state == stWaiting ||
      (d.state == stDone && !s.queued asid w &&
        ((s.saved.any fun v => v.task == w && v.team.asid == asid && v.why == .adoption) ||
          s.teams.any fun e => e.2.task == w && e.2.asid == asid && e.2.parking == some .adoption))

/-- A waiter becomes READY again and is enqueued (R311). Groups of its team may still be on their way out; it is not started before they are
(`State.startable`). -/
def State.wakeTask (s : State) (asid w : Nat) : State :=
  if s.asleep asid w then (s.modDesc asid w fun d => setFld d 320 64 0).makeReady asid w else s

/-- A task that leaves its core for a reason other than adopting a deeper owner is no longer a helper: its waiter becomes READY
(R311). -/
def State.releaseHelper (s : State) (asid task : Nat) : State :=
  match s.desc asid task with
  | .error _ => s
  | .ok d =>
    let w := d.helpOf
    let s := s.modDesc asid task fun d => setFld (setFld d 384 64 0) 448 4 0
    if w = 0 then s
    else
      let s := { s with vigil := s.vigil.map fun (v : Vigil) => if v.asid = asid && v.adopted = task then { v with adopted := 0 } else v }
      s.wakeTask asid w

/-- The cluster of a placement map's entry. -/
def mapCluster (e : Nat) : Nat := e % 256 / 8

/-- Pool regions whose cluster has no team of the launch left that has not ended are reclaimed (R207). -/
def Launch.reclaim (l : Launch) : Launch :=
  let left (cluster : Nat) : Bool :=
    ((List.range l.teams).zip l.pmap).any fun e => mapCluster e.2 == cluster && !l.ended.contains e.1
  { l with regions := if l.complete then [] else if l.spawned then l.regions else l.regions.filter fun r => left r.1 }

/-- Counts a team that has ended, and completes the launch or template future when it is the last (R293). A team in which a group has
ended by ENDG, in whichever phase, has not ended without it. -/
def State.countEnd (s : State) (t : Team) : State :=
  match s.launch? t.launch with
  | none => s
  | some l =>
    let ended := t.index :: l.ended
    let last := decide (l.teams ≤ ended.length)
    let l := { l with
      ended := ended, clean := l.clean + (if l.endgs.contains t.index then 0 else 1), complete := last || l.complete }
    let s := s.setLaunch l.reclaim
    if last then s.fillFuture l.asid l.future (if l.clean = ended.length then 0 else 0xF3) l.clean t.task else s

/-- The Reel slices that a team started stop (R234). -/
def State.stopSlices (s : State) (team : Nat) : State :=
  { s with reels := s.reels.map fun (e : Nat × ReelCtx) =>
      if e.2.team == team && e.2.busy then (e.1, { e.2 with ended := true }) else e }

/-- A team ends (R293): its task is DONE, an underflow of its successors is logged as the task's own (R312), its future is counted, a pooled descriptor becomes FREE, a waiter that it helped is
released, and its Reel slices stop. -/
def State.endTeam (s : State) (t : Team) : State :=
  let depth := match s.desc t.asid t.task with | .ok d => d.depth | .error _ => 0
  let r := s.taskDone t.asid t.task
  let s := r.2.foldl (fun s a =>
    s.logFault t.asid { almanacRecord tcDep a t.task with depth := BitVec.ofNat 2 depth }) r.1
  let s := (s.unqueue t.asid t.task).releaseHelper t.asid t.task
  let s := s.countEnd t
  let s := s.modDesc t.asid t.task fun d => if d.pooled && d.state == stDone then d.setState stFree else d
  s.stopSlices t.uid

end Sys2Proof.Machine
end

