-- ==== Sys2Proof/Machine/Traps.lean ====
section
/-! DEFINITION. Taking an exception and returning from one (R329 to R340): fault records, deliveries, entering a handler, leaving an
active slot, and the end of a group. -/

namespace Sys2Proof.Machine

/-- A page as the records of a trap tell pages apart (R331): the size in bits of a page, and the page that an address lies in. -/
def pageKey (bits va : Nat) : Nat := va / 2 ^ bits * 64 + bits

/-- One faulting lane: the code, ACCESS, the lane, the address and the page that groups the records (R331). -/
structure LaneFault where
  code : BitVec 8
  access : BitVec 3
  lane : Nat
  addr : DWord
  page : Nat
  deriving DecidableEq, Repr

/-- A precise trap: its records in order, whether TRAP raised it, where TRET resumes, the bitmap and gather of an LDX or STX, and a
notice that is posted with it. -/
structure Trap where
  recs : List TrapRec
  sw : Bool
  resume : Resume
  cb : Option Nat
  gather : Option Gather
  notice : Option TrapRec := none
  deriving DecidableEq, Repr

/-- A trap with one record over some lanes. -/
def Trap.one (code : BitVec 8) (lanes : Lanes) (addr : DWord := 0) (access : BitVec 3 := 0) : Trap :=
  { recs := [⟨code, access, addr, lanes⟩], sw := false, resume := .re, cb := none, gather := none }

/-- Adds a lane to the record of its code and page, or starts one (R331). The lanes come in ascending order, so each record's
first lane is its lowest and the records stand in order of it. -/
def addFault (f : LaneFault) : List (Nat × TrapRec) → List (Nat × TrapRec)
  | [] => [(f.page, ⟨f.code, f.access, f.addr, Lanes.single f.lane⟩)]
  | (p, r) :: rest =>
    if p = f.page && r.code = f.code then (p, { r with lanes := r.lanes ||| Lanes.single f.lane }) :: rest
    else (p, r) :: addFault f rest

/-- The trap of faulting lanes given in ascending order. -/
def Trap.ofFaults (fs : List LaneFault) : Trap :=
  { recs := (fs.foldl (fun rs f => addFault f rs) []).map (·.2), sw := false, resume := .re, cb := none, gather := none }

/-- The length of a task's helper chain (R312, R332). -/
def State.chainDepth (s : State) (g : Group) : Nat :=
  match s.team? g.team with
  | none => 0
  | some t => match s.desc t.asid t.task with | .ok d => d.depth | .error _ => 0

/-- A fault record of a group (R332). -/
def State.mkRec (s : State) (g : Group) (r : TrapRec) (delivery split : Nat) (pc : DWord) (notice sw more nested : Bool)
    (cb : Option Nat) : FRec :=
  let image := match s.launchOf g with | some l => l.image.addr | none => 0
  let task := match s.team? g.team with | some t => t.task | none => 0
  { delivery := delivery, code := r.code, group := BitVec.ofNat 5 g.idx, access := r.access, sw := sw, notice := notice,
    more := more, ovf := false, cb := BitVec.ofNat 2 (cb.getD 0), cbv := cb.isSome, depth := BitVec.ofNat 2 (s.chainDepth g),
    split := BitVec.ofNat 3 split, nested := nested,
    pcoff := ((pc - BitVec.ofNat 64 image) >>> (2 : Nat)).setWidth 32,
    addr := r.addr.setWidth 56, lanes := r.lanes, task := BitVec.ofNat 64 task }

/-- The last element that satisfies a test, changed or removed. -/
def dropLast? {α : Type} (p : α → Bool) (l : List α) : Option (List α) :=
  if l.any p then some (l.reverse.eraseP p).reverse else none

def setOvfLast : List FRec → List FRec
  | [] => []
  | [r] => [{ r with ovf := true }]
  | r :: rs => r :: setOvfLast rs

/-- A record arrives at the fault record queue (R331): at eight records a notice is dropped, and a precise one displaces the newest
notice; a precise record is never dropped. -/
def postRec (q : List FRec) (r : FRec) : List FRec :=
  if q.length < 8 then q ++ [r]
  else if r.notice then setOvfLast q
  else
    match dropLast? (fun x => x.notice) q with
    | some q' => q' ++ [{ r with ovf := true }]
    | none => q ++ [r]

/-- The records of a trap, every one but the last with MORE (R331). -/
def State.trapRecs (s : State) (g : Group) (t : Trap) (delivery split : Nat) (pc : DWord) (nested : Bool) : List FRec :=
  let n := t.recs.length
  (List.range n).zip t.recs |>.map fun e => s.mkRec g e.2 delivery split pc false t.sw (decide (e.1 + 1 < n)) nested t.cb

/-! ## Leaving a slot, and the end of a group -/

/-- Every position that a group holds in its team's queues is retired (R217). -/
def retireAll (t : Team) (idx : Nat) : Team :=
  { t with queues := t.queues.map fun e =>
      if (tabGet? e.2.held idx).isSome then
        (e.1, { e.2 with free := e.2.free + 1, held := tabErase e.2.held idx })
      else e }

/-- The matrix instructions of a group that have not reached, or not used, their collector, in issue order. -/
def State.matrixOpen (s : State) (grp : Nat) : List Op :=
  s.ops.filter fun o => o.grp == grp && (match o.job with | .matrix m => !m.ready | _ => false)

/-- What leaving a slot does to a group's matrix instructions (R188): those that are to happen still, and those that are discarded. A
CST that has not read its collector reads it now; whether the others before it are discarded first is not stated. -/
def matrixSplit (ops : List Op) (keep : Bool) : List Op × List Op :=
  let csts := ops.filter fun o => o.instr matches .cst ..
  let last := match csts.getLast? with | some o => o.uid | none => 0
  let past (o : Op) : Bool := match o.job with | .matrix m => m.read | _ => false
  let stays (o : Op) : Bool := o.instr matches .cst .. || (keep && past o && decide (o.uid < last))
  (ops.filter stays, ops.filter fun o => !stays o)

/-- The set flag of a discarded instruction goes down. -/
def Bank.flagDone (b : Bank) (f : Nat) : Bank := if f ≤ 11 then b.flagDown f else b

/-- A group leaves its active slot (R20, R123, R188, R217): the window, the near file and the collectors are lost, results in flight to
them will be dropped, its queue positions are retired, the greedy marks and the place in the list go, and the slot is free
from this clk. -/
def State.leaveSlot (s : State) (g : Group) (place : Place) : State :=
  let c := s.choice 2
  let m := matrixSplit (s.matrixOpen g.uid) (c.1 = 1)
  let g' := { g with
    place := place, epoch := g.epoch + 1
    bank := m.2.foldl (fun (b : Bank) (o : Op) => b.flagDone o.set) { g.bank with win := [], nst := [], nval := [], prevIssue := none } }
  let s := { c.2 with
    ops := s.ops.filter fun o => !(m.2.any fun (p : Op) => p.uid == o.uid)
    agenda := s.agenda ++ m.1.map fun (o : Op) => Instr.matrixCompletion o.uid }
  let s := (s.setGroup g').modTeam g.team fun t => retireAll t g.idx
  match g.slot? with
  | none => s
  | some k =>
    let p := s.partAt g.core g.part
    s.setPart g.core g.part
      { p with
        marks := p.marks.filter fun m => m.2 != g.uid
        rr := p.rr.filter fun u => u != g.uid
        freed := tabSet p.freed k (s.clkOf g.core) }

/-- The groups of a team that have not exited. -/
def State.standing (s : State) (team : Nat) : List Group :=
  match s.team? team with
  | none => []
  | some t => (s.groupsOf team).filter fun g => !(t.exited.any fun e => e.1 == g.idx)

/-- Whether a group has arrived at its barrier (R300): the release step that it takes first is done. -/
def State.arrived (s : State) (g : Group) : Bool :=
  g.barrier.isSome && !(s.ops.any fun o => o.grp == g.uid && o.job matches .fence ..)

/-- PHEND's completion: every group that has not exited has arrived at a PHEND and every instruction of theirs has completed (R300,
R302). -/
def State.phaseOver (s : State) (team : Nat) : Bool :=
  let gs := s.standing team
  !gs.isEmpty && gs.all fun g => g.barrier.any (·.1) && !(s.ops.any fun o => o.grp == g.uid)

/-- TBAR's completion: every group that has not exited has arrived, and some at a TBAR (R300). -/
def State.barrierOver (s : State) (team : Nat) : Bool :=
  let gs := s.standing team
  gs.all s.arrived && gs.any fun g => g.barrier.any fun b => !b.1

/-- What outlives the end of its group of a handler's instructions: a store, an atomic or a push that has been sent still lands (R336). -/
def Op.survivesEnd (o : Op) : Bool :=
  !o.hand ||
    (match o.job with
     | .access a => !(a.kind matches .load _)
     | .push .. => true
     | .almanac .. => !(o.instr matches .ftest ..)
     | _ => false)

/-- The requests of a group's MAPREQs that firmware has not taken up: they stay posted when it ends, and only their answers are lost (R336,
R346). -/
def State.postedBy (s : State) (g : Group) : List MapReq :=
  s.ops.filterMap fun o =>
    match o.job with
    | .mapreq va migrate false => if o.grp = g.uid then some { op := o.uid, asid := s.asidOf g, va := va, migrate := migrate } else none
    | _ => none

/-- The group ends: every lane has exited, or ENDG, a nested fault, a passed deadline or teardown ends it (R151, R335, R340, R344).
It leaves its slot, is counted out of its team's barriers, and the team ends with its last group (R293). -/
def State.endGroup (s : State) (g : Group) (byEndg : Bool) : State :=
  let g' : Group := { g with
    alive := 0, byEndg := byEndg, hand := none, deliveries := [], frq := [], hold := .free, barrier := none, late := []
    request := none, unwinding := none, leaving := false, debug := .run
    bank := { g.bank with splits := [], recs := [], preds := [] } }
  let s := s.leaveSlot { g' with place := g.place } .ended
  let s := { s with
    posted := s.posted ++ s.postedBy g
    ops := s.ops.filter fun o => o.grp != g.uid || o.survivesEnd
    vigil := s.vigil.filter fun v => v.grp != g.uid || v.overflow.isSome }
  match s.team? g.team with
  | none => s
  | some t =>
    if t.exited.any fun e => e.1 == g.idx then s
    else
      let t := { t with exited := t.exited ++ [(g.idx, byEndg)] }
      let s := (s.setTeam t).modLaunch t.launch fun l =>
        if byEndg && !l.endgs.contains t.index then { l with endgs := t.index :: l.endgs } else l
      if (s.standing t.uid).isEmpty then s.endTeam t else s

/-- A nested fault (R335): the group ends, and its records go to the context's fault log with NESTED = 1. -/
def State.nestedFault (s : State) (g : Group) (t : Trap) (split : Nat) (pc : DWord) : State :=
  let recs := s.trapRecs g t 0 split pc true
  let asid := s.asidOf g
  let s := recs.foldl (fun s r => s.logFault asid r) s
  s.endGroup g true

/-! ## Deliveries and handler entry -/

/-- The group ends because its trap table cannot be read (R334): the delivery's first record, NESTED, and the failed read are
logged. -/
def State.tableFault (s : State) (g : Group) (d : Delivery) (code : BitVec 8) (entry : DWord) : State :=
  let asid := s.asidOf g
  let s :=
    match g.frq.find? (fun r => r.delivery == d.id) with
    | some r => s.logFault asid { r with nested := true }
    | none => s
  let r := s.mkRec g ⟨code, 2, entry, 0⟩ d.id d.split d.pc false false false false none
  (s.logFault asid r).endGroup g true

/-- The trap table's entry for a code (R334): the handler's address, none where the group ends, or a failed read. -/
inductive TableOut where
  | handler (pc : DWord) | none | fault (code : BitVec 8) (entry : DWord)

def State.trapEntry (s : State) (g : Group) (code : BitVec 8) : TableOut :=
  match s.contextOf g with
  | Option.none => .none
  | some c =>
    if c.trapTab = 0 then .none
    else
      let at_ (n : Nat) : DWord := c.trapTab.setWidth 64 + BitVec.ofNat 64 (8 * n)
      let read (n : Nat) := s.vread c.asid (at_ n).toNat 8
      match read code.toNat with
      | .error e => .fault e (at_ code.toNat)
      | .ok v =>
        if v != 0 then .handler (BitVec.ofNat 64 v)
        else
          match read 0 with
          | .error e => .fault e (at_ 0)
          | .ok v => if v != 0 then .handler (BitVec.ofNat 64 v) else .none

/-- The trap table's entries have been read (R245). -/
def State.touchTable (s : State) (g : Group) (code : BitVec 8) : State :=
  match s.partials, s.contextOf g with
  | [], _ | _, none => s
  | _, some c =>
    if c.trapTab = 0 then s
    else (s.touch c.asid (c.trapTab.toNat + 8 * code.toNat) 8).touch c.asid c.trapTab.toNat 8

/-- The handler bank at entry (R335): one split of every lane that has not exited, the user's predicates copied, everything else
empty; nothing issues for 8 clk (R334). The stall distance of the first instruction counts on from the last issue of the
split that is delivered, and the group's pace from its last issue (R91). -/
def handlerBank (g : Group) (d : Delivery) (clk : Nat) (pc : DWord) : Bank :=
  { Bank.empty with
    preds := g.bank.preds
    prevIssue := g.bank.prevIssue
    splits := [{ id := 0, lanes := g.alive, pc := pc, join := none, sfile := [], written := 0, own := false, held := false,
                 last := 0, base := match g.bank.split? d.split with | some sp => sp.base | none => 0
                 notBefore := clk + 8, waited := 0 }] }

/-- Taking an exception: the delivery enters the handler that the trap table names (R334, R335). DESIGN CHOICE (log entry 53): where a notice is
made under a STEP, before the instruction of the split that the STEP names, the STEP issues the handler's first instruction. -/
def State.enterHandler (s : State) (g : Group) (d : Delivery) : State :=
  let s := s.touchTable g d.code
  match s.trapEntry g d.code with
  | .none => s.endGroup g true
  | .fault c e => s.tableFault g d c e
  | .handler pc =>
    s.setGroup { g with
      hand := some { bank := handlerBank g d (s.clkOf g.core) pc, serves := d, serial := g.handSerial, exit := none, mapreq := none }
      handSerial := g.handSerial + 1, leaving := false, saveBad := false
      debug := match g.debug with | .step _ => .step none | x => x }

/-- The next pending delivery of a group, if it may be made now: it holds its slot, no handler runs and no unwind waits (R330, R344). A
notice's HCAUSE.SPLIT is the split that the picker would take next (R337): where the group has several, NOTICE_DELIVERY
finds it. -/
def State.deliver (s : State) (uid : Nat) : State :=
  match s.group? uid with
  | none => s
  | some g =>
    if g.unwinding.isSome then s
    else
      match g.hand, g.slot?, g.deliveries with
      | none, some _, d :: ds =>
        if !d.notice then s.enterHandler g d
        else
          match g.bank.splits with
          | [sp] => s.enterHandler { g with deliveries := { d with split := sp.id } :: ds } { d with split := sp.id }
          | _ => s
      | _, _, _ => s

/-- A precise delivery goes ahead of the notices posted in the same clk (R330). -/
def insertPrecise (d : Delivery) (ds : List Delivery) : List Delivery :=
  let same := (ds.reverse.takeWhile fun x => x.notice && x.clk == d.clk).length
  ds.take (ds.length - same) ++ [d] ++ ds.drop (ds.length - same)

/-- The first record of a trap. -/
def Trap.head (t : Trap) : TrapRec := t.recs.headD ⟨0, 0, 0, 0⟩

/-- A precise trap at an instruction of a group (R329 to R335): in user code its records are posted and its delivery made in turn;
in a handler it is a nested fault. -/
def State.raiseTrap (s : State) (g : Group) (split : Nat) (pc : DWord) (len : Nat) (t : Trap) : State :=
  let g := { g with trapped := if g.debug = .stepping then some t.head.code else g.trapped }
  if g.hand.isSome then s.nestedFault g t split pc
  else
    let id := s.nextId
    let s := { s with nextId := id + 1 }
    let d : Delivery :=
      { id := id, clk := s.clkOf g.core, notice := false, code := t.head.code, sw := t.sw, split := split, pc := pc, len := len,
        addr := t.head.addr.setWidth 56 |>.setWidth 64, more := decide (1 < t.recs.length), resume := t.resume,
        gather := t.gather, debug := false }
    let recs := s.trapRecs g t id split pc false
    let g := { g with frq := recs.foldl postRec g.frq, deliveries := insertPrecise d g.deliveries }
    let s := s.setGroup g
    s.deliver g.uid

/-- A notice (R330): one record, and a delivery at the group's next instruction boundary. A notice whose record finds the queue full
loses the record, and the delivery with it (R331). -/
def State.postNotice (s : State) (uid : Nat) (r : TrapRec) (pc : DWord) : State :=
  match s.group? uid with
  | none => s
  | some g =>
    if g.place = .ended then s
    else
      let id := s.nextId
      let split := g.bank.lastSplit
      let rec_ := s.mkRec g r id split pc true false false false none
      let d : Delivery :=
        { id := id, clk := s.clkOf g.core, notice := true, code := r.code, sw := false, split := split, pc := pc, len := 0,
          addr := r.addr, more := false, resume := .same, gather := none, debug := false }
      let kept := decide (g.frq.length < 8)
      { s with nextId := id + 1 }.setGroup { g with
        frq := postRec g.frq rec_, deliveries := if kept then g.deliveries ++ [d] else g.deliveries }

/-! ## Returning from a handler (R336, R343, R344) -/

/-- Where a delivered split continues (R333). -/
def resumeAt (d : Delivery) (skip : Bool) (pc : DWord) : DWord :=
  match d.resume with
  | .same => pc
  | .after => d.pc + BitVec.ofNat 64 d.len
  | .re => if skip then d.pc + BitVec.ofNat 64 d.len else d.pc
  | .line => if skip then BitVec.ofNat 64 ((d.pc.toNat / 64 + 1) * 64) else d.pc

/-- The user code's pace after a handler (R91): the group's last issue was the handler's. -/
def Bank.follow (b h : Bank) : Bank :=
  match h.prevIssue with
  | none => b
  | some c => { b with prevIssue := some c, splits := b.splits.map fun sp => { sp with base := max sp.base (c + 1) } }

/-- The handler is left: the trap's remaining records are popped and its delivery is over (R336). -/
def closeHandler (g : Group) : Group :=
  match g.hand with
  | none => g
  | some h =>
    { g with
      hand := none
      bank := g.bank.follow h.bank
      frq := g.frq.filter fun r => r.delivery != h.serves.id
      deliveries := g.deliveries.filter fun d => d.id != h.serves.id }

/-- The exit of TRET (R343): the faulting split continues at its resume point, and the next pending delivery is made. -/
def State.tretNow (s : State) (g : Group) (skip : Bool) : State :=
  match g.hand with
  | none => s
  | some h =>
    let d := h.serves
    let g := closeHandler g
    let b := g.bank
    let b :=
      match b.split? d.split with
      | some sp => if d.notice || d.debug then b else b.setSplit { sp with pc := resumeAt d skip sp.pc }
      | none => b
    (s.setGroup { g with bank := b }).deliver g.uid

/-- The split that UNWIND restores (R142, R344): the lanes, records, depths and pc of the strand's STRAND, the scalar copy of the
split that holds the lowest lane still there, and an empty written mask. -/
def unwoundGroup (g : Group) : Group :=
  let lowest := g.bank.splits.find? fun sp => (Lanes.list g.alive 64).any fun l => sp.lanes.has l
  let lowSplit :=
    match (Lanes.list g.alive 64).head? with
    | some l => g.bank.splitOfLane? l
    | none => lowest
  let sfile := match lowSplit with | some sp => sp.sfile | none => []
  { g with
    alive := g.strand.lanes
    depth := g.strand.depths
    bank := { g.bank with
      recs := g.strand.recs
      lastSplit := 0
      splits := [{ id := 0, lanes := g.strand.lanes, pc := g.strand.pc, join := g.strand.innermost, sfile := sfile, written := 0,
                   own := false, held := false, last := 0, base := 0, notBefore := 0, waited := 0 }] } }

end Sys2Proof.Machine
end

