-- ==== Sys2Proof/Machine/Flags.lean ====
section
/-! DEFINITION. Completion flags and sticky flags (R71 to R73, R90), for the user code and for a handler. -/

namespace Sys2Proof.Machine

/-- The bank that an operation belongs to: the handler's, if one runs, or the user's. -/
def Group.bankOf? (g : Group) (hand : Bool) : Option Bank := if hand then g.hand.map (·.bank) else some g.bank

/-- Changes that bank. -/
def Group.modBank (g : Group) (hand : Bool) (f : Bank → Bank) : Group :=
  if hand then { g with hand := g.hand.map fun h => { h with bank := f h.bank } } else { g with bank := f g.bank }

/-- The set flag of an instruction goes up in its issue clk (R90); 15 names none. -/
def Group.setUp (g : Group) (hand : Bool) (f : Nat) : Group := if f ≤ 11 then g.modBank hand (·.flagUp f) else g

/-- It goes down in the clk of completion (R90). -/
def Group.setDown (g : Group) (hand : Bool) (f : Nat) : Group := if f ≤ 11 then g.modBank hand (·.flagDown f) else g

/-- Flags that an instruction raises are ORed into NFLAGS at its completion (R73); a handler's arithmetic adds none (R335). -/
def Group.orNflags (g : Group) (hand : Bool) (fl : FFlags) : Group :=
  if hand then g else { g with nflags := g.nflags ||| fl.setWidth 32 }

/-- Condition 4 of R89: every flag that the wait mask names reads zero. -/
def Bank.waitMet (b : Bank) (mask : BitVec 12) : Bool := (List.range 12).all fun f => !mask.getLsbD f || b.flag f == 0

/-- WAITF's condition with WAIT = 0: all twelve flags read zero (R104). -/
def Bank.flagsClear (b : Bank) : Bool := (List.range 12).all fun f => b.flag f == 0

/-- Condition 5 of R89: the set flag's counter is below 15. -/
def Bank.setRoom (b : Bank) (f : Nat) : Bool := decide (11 < f) || decide (b.flag f < 15)

/-- Whether an operation belongs to a handler that has ended: its flags and results are gone with that handler's bank (R336). -/
def Op.stale (o : Op) (g : Group) : Bool := o.hand && !(g.hand.any fun h => h.serial == o.epoch)

/-- An operation completes (R73, R90): it is outstanding no longer, its flag goes down and its sticky flags are kept. -/
def State.finishOp (s : State) (o : Op) : State :=
  (s.dropOp o.uid).modGroup o.grp fun g =>
    if o.stale g then g else (g.setDown o.hand o.set).orNflags o.hand o.flags

end Sys2Proof.Machine
end

