-- ==== Sys2Proof/Machine/Queue.lean ====
section
/-! DEFINITION. Team queues (R216 to R220): reservations, landing, pops and retirement. -/

namespace Sys2Proof.Machine

def Queue.empty : Queue :=
  { init := false, size := 0, head := 0, tail := 0, free := 0, filled := 0, base := 0, reserved := [], held := [] }

def Team.queue (t : Team) (q : Nat) : Queue := tabGetD t.queues q Queue.empty
def Team.setQueue (t : Team) (q : Nat) (v : Queue) : Team := { t with queues := tabSet t.queues q v }

/-- The queue as a group observes it (R222): until an ordering event of its own follows a QINIT of another group, as it was before. -/
def Team.seenQueue (t : Team) (q idx acquire : Nat) : Queue :=
  match tabGet? t.before q with
  | some b => if !b.seen.contains idx && decide (acquire < b.since) then b.queue else t.queue q
  | none => t.queue q

/-- A group has made a pop, which is an ordering event (R219). -/
def Team.observe (t : Team) (idx : Nat) : Team :=
  { t with before := t.before.map fun e => (e.1, { e.2 with seen := if e.2.seen.contains idx then e.2.seen else idx :: e.2.seen }) }

/-- Key in the physical scratchpads of a team offset: the half in bit 19, the offset below it (R210). -/
def Team.key (t : Team) (off : Nat) : Nat :=
  if off < 2 ^ 19 then t.core * 2 ^ 19 + t.base + off else (t.core + 1) * 2 ^ 19 + t.base2 + (off - 2 ^ 19)

/-- Which core of a bridle pair a group is on: 0 the even one. -/
def Team.half (t : Team) (core : Nat) : Nat := core - t.core

/-- Step 1 of a push: the reservation of position TAIL (R217). -/
def Queue.reserve (q : Queue) (uid : Nat) : Queue :=
  { q with free := q.free - 1, tail := (q.tail + 1) % q.size, reserved := q.reserved ++ [(uid, q.tail, false)] }

/-- Step 3: positions become filled in ring order. -/
def Queue.fill (q : Queue) : Queue :=
  let n := (q.reserved.takeWhile fun r => r.2.2).length
  { q with reserved := q.reserved.drop n, filled := q.filled + n }

/-- Step 2: the push with this reservation has landed. -/
def Queue.land (q : Queue) (uid : Nat) : Queue :=
  Queue.fill { q with reserved := q.reserved.map fun r => if r.1 = uid then (r.1, r.2.1, true) else r }

/-- The position that a reservation holds; none once QINIT has abandoned it (R222). -/
def Queue.position? (q : Queue) (uid : Nat) : Option Nat := (q.reserved.find? fun r => r.1 == uid).map fun r => r.2.1

/-- A group's held position is retired (R217). -/
def Queue.retire (q : Queue) (grp : Nat) : Queue :=
  if (tabGet? q.held grp).isSome then { q with free := q.free + 1, held := tabErase q.held grp } else q

/-- A pop takes position HEAD, which the group then holds (R217); the position that it held before is retired. -/
def Queue.pop (q : Queue) (grp : Nat) : Queue :=
  let q := q.retire grp
  { q with filled := q.filled - 1, head := (q.head + 1) % q.size, held := tabSet q.held grp q.head }

/-- A group pops from a queue of its team. -/
def Team.popQueue (t : Team) (q idx : Nat) : Team := (t.setQueue q ((t.queue q).pop idx)).observe idx

/-- Key of a ring word. -/
def Team.ringKey (t : Team) (q : Queue) (pos : Nat) : Nat := t.key (q.base + 4 * pos)

/-- A push lands: its handle is written at the reserved position, which then counts (R217). A reservation that QINIT or the end of
the phase has abandoned leaves nothing. -/
def State.landPush (s : State) (team q uid : Nat) (handle : Word) : State :=
  match s.team? team with
  | none => s
  | some t =>
    match (t.queue q).position? uid with
    | none => s
    | some pos =>
      let s := s.writeLoc (.scratch (t.ringKey (t.queue q) pos)) 4 handle.toNat
      s.setTeam (t.setQueue q ((t.queue q).land uid))

/-- The handle left in the ring word of a reserved position (R233). -/
def State.ringWord (s : State) (t : Team) (q : Queue) (pos : Nat) : Word :=
  BitVec.ofNat 32 (s.readLoc (.scratch (t.ringKey q pos)) 4)

end Sys2Proof.Machine
end

