-- ==== Sys2Proof/Machine/Banks.lean ====
section
/-! DEFINITION. The banks of the core scratchpads (R214, R215, R390): what accesses ask of them, and when an access completes. -/

namespace Sys2Proof.Machine

/-- What a group access asks of one bank: the bank, as core * 64 + bank, whether a lane below 32 asks, and the distinct words. -/
structure BankAsk where
  bank : Nat
  early : Bool
  words : Nat
  deriving DecidableEq, Repr

/-- The bank of a scratchpad word by its key. -/
def bankOf (key : Nat) : Nat := key / 2 ^ 19 * 64 + key / 4 % 64

/-- Insertion in order of asking. -/
def insertReq (r : BankReq) : List BankReq → List BankReq
  | [] => [r]
  | x :: xs => if r.ask < x.ask then r :: x :: xs else x :: insertReq r xs

/-- What each request at a bank is kept out, in order of asking, from the clk at which the bank is next free (R215, R390): those that ask
in one clk are served in rotation, from a place that `rot` names, each for as many consecutive clk as it asks words, and those of a
later clk after them. `n` bounds the clk that have requests. -/
def bankDelays (rot : Nat → Nat) : (n free : Nat) → List BankReq → List (BankReq × Nat)
  | 0, _, _ => []
  | _, _, [] => []
  | n + 1, free, r :: rs =>
    let crowd := (r :: rs).takeWhile fun x => x.ask == r.ask
    let start := max r.ask free
    let k := rot r.ask % crowd.length
    let turn := crowd.drop k ++ crowd.take k
    ((List.range turn.length).zip turn).map (fun e => (e.2, start - r.ask + ((turn.take e.1).map (·.words)).sum)) ++
      bankDelays rot n (start + (crowd.map (·.words)).sum) ((r :: rs).drop crowd.length)

/-- When a bank with some requests is next free. -/
def bankFree : List BankReq → Nat
  | rs => rs.foldl (fun f r => max f r.ask + r.words) 0

/-- The requests that may still bear on others: those before a clk that has gone by without any at the bank are forgotten. -/
def liveReqs (clk : Nat) (rs : List BankReq) : List BankReq :=
  let idle (k : Nat) : Bool :=
    let f := bankFree (rs.take k)
    decide (f ≤ clk) && ((rs.take k).all fun r => decide (r.ask + 1 < clk)) && (rs.drop k).head?.all fun r => decide (f ≤ r.ask)
  match ((List.range rs.length).reverse.map (· + 1)).find? idle with | some k => rs.drop k | none => rs

/-- What the requests at a bank are kept out. -/
def bankTimes (bank : Nat) (rs : List BankReq) : List (BankReq × Nat) :=
  bankDelays (Config.bankRotation (bank / 64) (bank % 64)) rs.length 0 rs

/-- The clk at which an access completes: where it waits for nothing, and what it is kept out at most (R215, R390). -/
def State.bankDue (s : State) (op : Nat) : Option Nat :=
  let mine := s.banks.filter fun b => b.2.any fun r => r.op == op
  let base := (mine.flatMap fun b => b.2.filterMap fun r => if r.op == op then some r.base else none).foldl max 0
  let kept := mine.flatMap fun b => (bankTimes b.1 b.2).filterMap fun e => if e.1.op == op then some e.2 else none
  if mine.isEmpty then none else some (base + kept.foldl max 0)

/-- The completion of some accesses, as the banks' requests stand. -/
def State.setDues (s : State) (p : Nat → Bool) : State :=
  { s with ops := s.ops.map fun (o : Op) => if p o.uid then { o with due := s.bankDue o.uid <|> o.due } else o }

/-- A request comes to a bank, and the requests there that are past are forgotten. -/
def State.putReq (s : State) (bank : Nat) (r : BankReq) : State :=
  { s with banks := tabSet s.banks bank (insertReq r (liveReqs (s.clkOf (bank / 64)) (tabGetD s.banks bank []))) }

/-- A group access asks its banks (R215, R390): a 64-wide access for lanes 32 to 63 one clk later. The accesses that ask from this clk on at
one of its banks complete as the rotation has them. An operation without a clk of its own, or one that is over, only holds the
bank. -/
def State.askBanks (s : State) (uid : Nat) (as : List BankAsk) : State :=
  let due := (s.op? uid).bind (·.due)
  let s := as.foldl (fun (s : State) (a : BankAsk) =>
    let ask := s.clkOf (a.bank / 64) + (if a.early then 0 else 1)
    s.putReq a.bank { op := if due.isSome then uid else 0, ask := ask, words := a.words, base := due.getD 0 }) s
  let near := as.flatMap fun a =>
    ((tabGetD s.banks a.bank []).filter fun r => decide (s.clkOf (a.bank / 64) ≤ r.ask)).map (·.op)
  s.setDues fun n => near.contains n

/-- Another requester, an engine, the matrix unit or a remote core, asks for a clk of the bank of a scratchpad word (R215): beside those that
ask in the same clk, and, where an earlier group access holds the bank, after it or in the midst of its words, which then lasts a clk
longer. -/
def State.takeBank (s : State) (key : Nat) : State :=
  let bank := bankOf key
  let clk := s.clkOf (bank / 64)
  let rs := tabGetD s.banks bank []
  let open_ := ((rs.map (·.op)).filter fun u => (s.op? u).any fun o => o.due.any fun d => decide (clk < d))
  let holder := (bankTimes bank rs).find? fun e =>
    e.1.op != 0 && decide (e.1.ask < clk) && decide (e.1.ask + e.2 ≤ clk) && decide (clk < e.1.ask + e.2 + e.1.words)
  let k := s.choice 2
  let t :=
    match holder, k.1 with
    | some e, 1 =>
      { k.2 with banks := s.banks.map fun (b : Nat × List BankReq) => (b.1, b.2.map fun (r : BankReq) =>
          if r.op != e.1.op then r
          else { r with base := r.base + 1, words := if b.1 = bank then r.words + 1 else r.words }) }
    | _, _ => k.2.putReq bank { op := 0, ask := clk, words := 1, base := 0 }
  t.setDues fun u => open_.contains u

/-- The banks as an access of an engine or of the matrix unit at a location finds them. -/
def State.takeBankAt (s : State) (l : Loc) : State := match l with | .scratch k => s.takeBank k | _ => s

end Sys2Proof.Machine
end

