-- ==== Sys2Proof/Machine/Operands.lean ====
section
/-! DEFINITION. An instruction at issue: guard, checks, operand reads, the window and the near file, and where results land (R45 to
R48, R87 to R95, R107 to R119, R153 to R157). -/

namespace Sys2Proof.Machine

/-! ## Ports (R87, R88) -/

inductive Port where
  | vec | mat | mem
  deriving DecidableEq, Repr

def Port.idx : Port → Nat
  | .vec => 0 | .mat => 1 | .mem => 2

/-- The port of a major opcode's class. -/
def portOf (opc : BitVec 8) : Port :=
  let c := (opc.extractLsb' 5 3).toNat
  if c ≤ 3 then .vec else if c = 4 then .mat else .mem

/-- The major opcode of an instruction. -/
def opcodeOf (i : Instr) : BitVec 8 :=
  match i.core.coreFields with
  | some f => f.opc
  | none => 0

/-- Clk for which an instruction occupies its port. -/
def occupancy (i : Instr) (width : Nat) : Nat :=
  let n :=
    match i with
    | .mma .. | .mmas .. | .mmab .. => 16
    | .cld .. | .cst .. | .cmprs .. => 8
    | .cscl .. => 4
    | .cclr .. => 2
    | _ => 1
  if width = 64 then 2 * n else n

/-! ## The instruction at issue -/

/-- An instruction that issues: its full form and control fields, its group, split and address, its active lanes, and bits for
the choices of R94. -/
structure Issue where
  i : Instr
  c : Ctl
  g : Group
  sp : Split
  pc : DWord
  len : Nat
  lanes : Lanes
  bits : Nat
  deriving Repr

/-- The index of the first register or slot that an operand names. -/
def opReg (o : Opnd) : Nat := if o.lvl = .n then o.nSlot else o.idx.toNat

/-- Whether a destination takes in a register of a level. -/
def Dest.covers (d : Dest) (lvl : Level) (r : Nat) : Bool := d.op.lvl == lvl && (opReg d.op == r || (d.wide && opReg d.op + 1 == r))

/-- Whether an access has been performed for all of a lane's units. -/
def Access.laneDone (a : Access) (l : Nat) : Bool := a.units.all fun u => u.lane != l || u.performed

/-- The value of lane `l` that an operation lands in S and T: that of its lowest active lane (R115). -/
def Op.lowValue (o : Op) : DWord :=
  match (o.lanes.list 64).head? with
  | some l => cellGet o.vals l
  | none => 0

/-! ## The registers that an operation writes, and early reads (R94, R123, R138, R335, R348) -/

/-- The registers that an operation's landing writes, by level and number: its destination, IADDC's carry, PMOV.set's predicates. -/
def Op.regs (o : Op) : List (Level × Nat) :=
  (match o.dest with
   | some d => (d.op.lvl, opReg d.op) :: (if d.wide then [(d.op.lvl, opReg d.op + 1)] else [])
   | none => []) ++
    (match o.carry with | some (n, _) => [(Level.t, 48 + n)] | none => []) ++
    (match o.job with | .preds => (List.range 7).map fun n => (Level.t, 48 + n) | _ => [])

/-- The place of IADDC's carry in that list. -/
def Op.carryPlace (o : Op) : Nat := match o.dest with | some d => if d.wide then 2 else 1 | none => 0

/-- Whether a register is a predicate. -/
def isPred (lvl : Level) (r : Nat) : Bool := lvl == .t && decide (48 ≤ r) && decide (r ≤ 55)

/-- The word that an operation lands in a register, from its values of a lane; `vals` are those values. -/
def Op.word (o : Op) (vals : Nat → DWord) (lvl : Level) (r lane : Nat) : Word :=
  let one (b : Bool) : Word := if b then 1 else 0
  match o.dest.filter fun d => d.covers lvl r with
  | some d =>
    let w := if opReg d.op == r then (vals lane).extractLsb' 0 32 else (vals lane).extractLsb' 32 32
    if d.predicate then one (w != 0) else if lvl = .t && r = 33 then w &&& 3 else w
  | none =>
    match o.carry.filter fun c => 48 + c.1 == r with
    | some c => one (c.2.has lane)
    | none => one ((vals lane).getLsbD (r - 48))

/-- Whether results in flight to W and N still have a place: the group has not left its slot, the handler has not ended. -/
def Op.near (o : Op) (g : Group) : Bool := if o.hand then !o.stale g else o.epoch == g.epoch

/-- The scalar copy that an S write of an operation goes to (R138, R139, R335): in the handler's bank or the user's, and of which split.
A handler's goes to the user split that HCAUSE.SPLIT names, or to its own copy after the handler has divided; a user's to the split that now
holds its lowest active lane, or else another lane of the split that issued it. -/
def Op.scalarCopy (o : Op) (g : Group) : Option (Bool × Nat) :=
  let target (b : Bank) : Option Split := ((o.lanes.list 64) ++ (o.splitLanes.list 64)).findSome? b.splitOfLane?
  let user : Option (Bool × Nat) := (target g.bank).map fun sp => (false, sp.id)
  match g.hand with
  | some h =>
    if o.hand && !o.stale g then
      (target h.bank).bind fun sp => if sp.own then some (true, sp.id) else g.servedSplit?.map fun u => (false, u.id)
    else user
  | none => user

/-- The scalar copy that a split of the running bank reads. -/
def Group.readCopy (g : Group) (sp : Split) : Option (Bool × Nat) :=
  match g.hand with
  | some _ => if sp.own then some (true, sp.id) else g.servedSplit?.map fun u => (false, u.id)
  | none => some (false, sp.id)

/-- Whether a user instruction in flight still has to write a W entry or an N slot (R348). -/
def State.userWriting (s : State) (g : Group) (u : Opnd) (wide : Bool) : Bool :=
  match u.lvl with
  | .w =>
    g.bank.win.any fun e =>
      match e.2[u.idx.toNat]? with
      | some w => !w.done && w.tag != 0
      | none => false
  | _ =>
    s.ops.any fun o => o.grp == g.uid && !o.hand && o.near g &&
      o.dest.any fun d => d.covers .n u.nSlot || (wide && d.covers .n (u.nSlot + 1))

/-- UREAD's values: the user's entry or slot as it stands, in each active lane (R348). -/
def ureadValue (g : Group) (u : Opnd) (wide : Bool) (l : Nat) : DWord :=
  match u.lvl with
  | .w =>
    match (tabGetD g.bank.win l [])[u.idx.toNat]? with
    | some w => if wide then w.val else ofW (w32 w.val)
    | none => 0
  | _ =>
    let lo := cellGet g.bank.nval (laneKey u.nSlot l)
    if wide then cellGet g.bank.nval (laneKey (u.nSlot + 1) l) ++ lo else ofW lo

/-- The values of a variable-latency operation that exist already, before it lands (R94): a load's once its lane's access has been
performed, a UREAD's once the user's writes to what it names have landed, an answer's once it has come. -/
def State.early (s : State) (g : Group) (o : Op) (l : Nat) : Option (Nat → DWord) :=
  match o.job with
  | .plain | .popped | .preds | .push .. => some (cellGet o.vals)
  | .access a => if a.laneDone l then some (cellGet o.vals) else none
  | .uread u wide => if s.userWriting g u wide then none else some (ureadValue g u wide)
  | _ => none

/-- The lane whose value of an operation a register of a level takes: its own, or for S and T, predicates apart, the operation's
lowest (R115). -/
def Op.raceLane (o : Op) (lvl : Level) (r lane : Nat) : Nat :=
  if lvl = .s || (lvl = .t && !isPred lvl r) then (o.lanes.list 64).headD lane else lane

/-- Whether an operation of variable latency in flight writes the very register that an instruction of a split names (R94). -/
def Op.reaches (o : Op) (g : Group) (sp : Split) (lvl : Level) (r : Nat) : Bool :=
  o.grp == g.uid && o.var && o.regs.contains (lvl, r) &&
    (match lvl with
     | .n => o.hand == g.hand.isSome && o.near g
     | .s => o.scalarCopy g == g.readCopy sp
     | .t => !isPred lvl r || (o.hand == g.hand.isSome && !o.stale g)
     | _ => true)

/-- A read of a register that variable-latency writes in flight will reach may see a new value (R94): for the k-th of them bit
`(n + 32 * k) * 64 + lane` of the free bits chooses. -/
def State.raceWord (s : State) (g : Group) (sp : Split) (bits : Nat) (lvl : Level) (r n lane : Nat) (old : Word) : Word :=
  let os := s.ops.filter fun o => o.reaches g sp lvl r && o.lanes.has (o.raceLane lvl r lane)
  ((List.range os.length).zip os).foldl (fun (v : Word) e =>
    let l := e.2.raceLane lvl r lane
    match s.early g e.2 l with
    | some vals => if bits.testBit ((n + 32 * e.1) * 64 + lane) then e.2.word vals lvl r l else v
    | none => v) old

/-- Lanes of a split in which the guard holds (R42); a predicate that a write of variable latency will reach is read as R94 says. -/
def State.activeLanes (s : State) (g : Group) (sp : Split) (c : Ctl) (bits : Nat) : Lanes :=
  let n := c.gpred.toNat
  let raced (m : Lanes) (l : Nat) : Lanes :=
    let old : Word := if m.has l then 1 else 0
    if s.raceWord g sp bits .t (48 + n) 31 l old = 0 then m &&& ~~~Lanes.single l else m ||| Lanes.single l
  let p : Lanes := if n = 7 then BitVec.allOnes 64 else (sp.lanes.list 64).foldl raced (cellGet g.bk.preds n)
  sp.lanes &&& (if c.gneg then ~~~p else p)

/-- The active lanes in ascending order, and all lanes of the split. -/
def Issue.list (x : Issue) : List Nat := x.lanes.list 64
def Issue.splitList (x : Issue) : List Nat := x.sp.lanes.list 64

/-- The lowest active lane. -/
def Issue.low? (x : Issue) : Option Nat := x.list.head?

def Issue.inHandler (x : Issue) : Bool := x.g.hand.isSome
def Issue.wide (x : Issue) : Bool := x.g.width == 64

/-- Whether a partition applies RR: the policy of the earliest-placed team with a group resident there (R100). -/
def State.roundRobin (s : State) (core part : Nat) : Bool :=
  let teams := (s.groupsAt core part).filterMap fun g => s.team? g.team
  match teams.foldl (fun (m : Option Team) t => match m with | some u => if t.placed < u.placed then some t else some u
                                                              | none => some t) none with
  | some t => match s.launch? t.launch with | some l => l.policy | none => false
  | none => false

/-- Lantern's STEP has used its one issue (R353). -/
def Debug.stepped : Debug → Debug
  | .step _ => .stepping
  | d => d

/-- What R91 and R96 to R99 keep of an issue, whatever comes of it: the port, the greedy mark, the place in the list, the group's and the
split's last issue. DESIGN CHOICE (log entry 46): an instruction that traps at issue has used its port in this way too, and the
marks are kept up under either policy. -/
def State.noteIssue (s : State) (g : Group) (sp : Split) (port : Port) (occ : Nat) : State :=
  let p := s.partAt g.core g.part
  let clk := s.clkOf g.core
  let s := s.setPart g.core g.part
    { p with
      busy := tabSet p.busy port.idx (clk + occ)
      marks := tabSet p.marks port.idx g.uid
      issued := tabSet p.issued port.idx g.uid }
  let b := g.bk
  let b := (b.setSplit { sp with last := clk, base := clk + 1, waited := 0, passed := false })
  let g := g.setBk { b with lastSplit := sp.id, prevIssue := some clk }
  s.setGroup { g with debug := Debug.stepped g.debug }

/-- Whether a destination takes the lowest active lane's value and flags only: S and the team registers (R154). -/
def Dest.uniform (d : Dest) : Bool := d.op.lvl == .s || (d.op.lvl == .t && decide (d.op.idx.toNat < 16))

/-- An operand that is the same in every lane (R153). -/
def Opnd.uniform (o : Opnd) : Bool :=
  match o.lvl with
  | .s | .k | .i => true
  | .t => o.idx != 16 && !isPred .t o.idx.toNat
  | _ => false

/-- The class of an instruction: bits [7:5] of its opcode (R87). -/
def classOf (i : Instr) : Nat := ((opcodeOf i).extractLsb' 5 3).toNat

/-- Whether the scalar unit computes an instruction (R153). -/
def scalarExecuted (i : Instr) : Bool :=
  (classOf i == 1 || classOf i == 2) && (i.reads.all fun sl => Sys2Proof.Machine.Opnd.uniform sl.op) &&
    i.dest.any fun sl => sl.op.lvl == .s || (sl.op.lvl == .t && decide (sl.op.idx.toNat < 16))

/-- The lane-operations of an instruction of the vector datapath or the scalar unit (R152, R155). -/
def Issue.laneOps (x : Issue) : Nat :=
  if classOf x.i = 0 || 3 < classOf x.i then 0
  else if x.lanes = 0 || scalarExecuted x.i then 1
  else x.list.length

/-- Whether an instruction yields: Y, or YIELD, where its partition applies GTO (R101). -/
def State.yields (s : State) (x : Issue) : Bool := (x.c.yield || x.i matches .yield _) && !s.roundRobin x.g.core x.g.part

/-- A yield takes the group's greedy marks away (R101). -/
def State.unmark (s : State) (x : Issue) : State :=
  if s.yields x then
    let p := s.partAt x.g.core x.g.part
    s.setPart x.g.core x.g.part { p with marks := p.marks.filter fun m => m.2 != x.g.uid }
  else s

/-- What an instruction that does not trap at issue leaves beside its effect: its lane-operations are counted (R155), the strand counter
goes up (R125), the group drains (R95), and under GTO a yield makes it the youngest without a mark (R101). DESIGN CHOICE (log entry
46): one that traps at issue leaves none of these, whichever its check (R53 says so of the encodings). -/
def State.took (s : State) (x : Issue) : State :=
  ((s.unmark x).meter x.g.core x.g.team .laneOp x.laneOps).modGroup x.g.uid fun g =>
    { g with
      place := match g.place with | .active k since => .active k (if s.yields x then s.clkOf x.g.core else since) | p => p
      hold := if x.c.drain then .drain else .free
      strand := if g.hand.isSome then g.strand else { g.strand with count := g.strand.count + 1 } }

/-- An instruction of a group issues: the instruction at issue and the device with R91 to R101 noted. -/
def State.begin (s : State) (i : Instr) : Option (Issue × State) :=
  match s.cur, i.ctl with
  | .group uid split pc len, some c =>
    match s.group? uid with
    | none => none
    | some g =>
      match g.bk.split? split with
      | none => none
      | some sp =>
        let s := s.noteIssue g sp (portOf (opcodeOf i)) (occupancy i g.width)
        match s.group? uid with
        | none => none
        | some g =>
          match g.bk.split? split with
          | none => none
          | some sp =>
            some
              ({ i := i, c := c, g := g, sp := sp, pc := pc, len := len, lanes := s.activeLanes g sp c (Config.choose s.fresh)
                 bits := Config.choose s.fresh },
               { s with fresh := s.fresh + 1 })
  | _, _ => none

/-! ## Widths of the fields in use -/

/-- Whether a written field is a pair: VOTE.mask's and MATCH's is one at width 64 (R181, R182). -/
def Issue.wideWrite (x : Issue) (r : Role) : Bool := r.wideWrite || (r == .dstMask && x.wide)

/-- Whether a field is a pair in N, D or S. -/
def Issue.pairField (x : Issue) (sl : Slot) : Bool := sl.role.wideRead || x.wideWrite sl.role

/-- Where the result goes. -/
def Issue.dest (x : Issue) : Option Dest :=
  x.i.dest.map fun sl =>
    { op := sl.op, wide := x.wideWrite sl.role, shift := x.i.producesResult,
      predicate := sl.op.lvl == .t && 48 ≤ sl.op.idx.toNat && sl.op.idx.toNat ≤ 55 }

/-! ## Checks at issue (R17, R34, R45, R109, R111, R112, R122, R126, R186, R230, R335, R341) -/

/-- The terminators (R122). -/
def isTerminator : Instr → Bool
  | .park .. | .fwait .. | .lock .. | .chpush .. | .chpop .. | .waitc .. | .tbar .. | .phend .. | .exit .. => true
  | _ => false

/-- The irrevocable instructions, a Q-level operand apart (R126). -/
def isIrrevocable : Instr → Bool
  | .atom .. | .atomr .. | .qpush .. | .qpop .. | .copy .. | .reel .. | .put .. | .get .. | .ratom .. | .coll ..
  | .fsetFuture .. | .depdec .. | .spawn .. | .launch .. | .lock .. | .unlock .. => true
  | .st _ _ _ _ nr .. => nr
  | .stx _ _ _ _ nr .. => nr
  | _ => false

/-- Whether an instruction may not stand where it is issued: handler instructions in user code, terminators and some others in a
handler, slice instructions in a group (R230, R335, R341). -/
def placeIllegal (i : Instr) (hand : Bool) : Bool :=
  match i with
  | .tret .. | .replay .. | .unwind .. | .endg .. | .frqpop .. | .mapreq .. | .uread .. | .uwrite .. => !hand
  | .aloop .. | .aqput .. | .aend .. => true
  | .strand .. | .call .. | .callx .. | .ret .. | .reel .. | .launch .. | .spawn .. | .trap .. => hand
  | _ => hand && (isTerminator i || portOf (opcodeOf i) == .mat)

/-- Collector number of a matrix instruction (R186). -/
def collectorOf : Instr → Nat
  | .mma _ cn .. | .mmas _ cn .. | .mmab _ cn .. | .cclr _ cn | .cld _ cn .. | .cscl _ cn _ | .cst _ cn .. => cn.toNat
  | _ => 0

/-- Whether the group stands before its first STRAND, at its entry point (R34). -/
def State.atEntry (s : State) (x : Issue) : Bool :=
  match s.launchOf x.g with
  | none => false
  | some l => x.g.strand.pc = 0 && x.pc == BitVec.ofNat 64 (l.image.addr + l.image.codeOff)

/-- The instruction line that a group fetches from, if its core holds it (R39); handler code is privileged (R334). -/
def State.line? (s : State) (g : Group) (pc : DWord) : Option ILine :=
  s.icache.find? fun l => l.core == g.core && l.asid == s.asidOf g && l.line == pc.toNat / 64

/-- The assigned system registers (R337, R346, R378). -/
def sysAssigned (n : Nat) : Bool :=
  (1 ≤ n && n ≤ 3) || n == 0x10 || n == 0x20 || n == 0x21 || n == 0x30 || n == 0x31 || (0x40 ≤ n && n ≤ 0x43) ||
    (0x50 ≤ n && n ≤ 0x55) || (0x60 ≤ n && n ≤ 0x69) || (0x70 ≤ n && n ≤ 0x75)

/-- Whether SRD or SWR may name a number: an assigned one, and outside a handler NFLAGS only (R347). -/
def sysLegal (hand : Bool) (n : Nat) : Bool := sysAssigned n && (hand || n == 1)

/-- The fields of the full or 8-byte word at a place of a line. -/
def fieldsAt (ws : List Word) (k : Nat) : Option Fields :=
  match ws.drop k with
  | w :: v :: rest =>
    if !w.getLsbD 31 then none
    else if !w.getLsbD 30 then some (Fields.of8 (w ++ v))
    else match rest with | u :: _ => some (Fields.ofBits (w ++ v ++ u)) | [] => none
  | _ => none

/-- The trap of an encoding fate (R53): a number that SRD or SWR may not name comes before a bad operand. -/
def fateAt (ws : List Word) (k : Nat) (hand : Bool) (f : Fate) : BitVec 8 :=
  match f, fieldsAt ws k with
  | .operand, some e => if e.opc == 0xE6 && !sysLegal hand (e.mod.extractLsb' 4 12).toNat then tcModifier else tcOperand
  | f, _ => fateCode f

/-- What stands at an address of a held line (R38, R41): its length and the instruction in full form, or the trap of its fetch with
ACCESS. DESIGN CHOICE (log entry 46): where no length is known, at a byte that is no instruction start or at a failed fetch, the length
is 0, so that TRET.skip resumes at the same address; and an address that is not a multiple of 4, which only a trap table's
handler address can be, is rounded down. -/
def ILine.coreAt (l : ILine) (pc : DWord) (hand : Bool) : Nat × Except (BitVec 8 × BitVec 3) Instr :=
  match l.fail with
  | some f => (0, .error f)
  | none =>
    if l.priv && !hand then (0, .error (tcPerm, 1))
    else
      match coreLineAt l.words 0 (pc.toNat % 64 / 4) with
      | none => (0, .error (tcOpcode, 0))
      | some (n, .ok i) => (n, .ok i)
      | some (n, .error f) => (n, .error (fateAt l.words (pc.toNat % 64 / 4) hand f, 0))

/-- Whether a STRAND stands at an address (R122). -/
def State.strandAt (s : State) (g : Group) (pc : DWord) : Bool :=
  match s.line? g pc with
  | none => false
  | some l => match (l.coreAt pc g.hand.isSome).2 with | .ok (.strand ..) => true | _ => false

/-- The registers of a D or S field, as the entry's masks number them. -/
def fieldRegs (o : Opnd) (wide : Bool) : List Nat := if wide then [o.idx.toNat, o.idx.toNat + 1] else [o.idx.toNat]

/-- Whether an instruction writes a survivor of the replayable strand (R126). -/
def Issue.writesSurvivor (x : Issue) : Bool :=
  let e := x.g.strand.entry
  x.i.slots.any fun sl =>
    let regs := if sl.role == .frq then (List.range 8).map (sl.op.idx.toNat + ·) else fieldRegs sl.op (x.wideWrite sl.role)
    sl.role.writes &&
      (match sl.op.lvl with
       | .d => regs.any fun r => e.dmask.getLsbD r
       | .s => regs.any fun r => e.smask.getLsbD r
       | _ => false)

/-- The operand checks that depend on the group: N slots it does not have, D registers beyond its allotment, a mask's pair at
width 64 (R45, R111, R114, R181, R335, R345, R348). -/
def Issue.operandBad (x : Issue) : Bool :=
  x.i.slots.any fun sl =>
    let n := sl.op.idx.toNat
    match sl.role with
    | .userRead _ | .userWrite _ => sl.op.lvl == .n && decide ((if x.wide then 16 else 32) ≤ sl.op.nSlot)
    | .frq => decide (x.g.dslots ≤ n + 7)
    | r =>
      let pair := x.pairField sl
      let badMask := r == .dstMask && x.wide &&
        (match sl.op.lvl with | .t | .q => true | .n | .d | .s => !sl.op.even | _ => false)
      badMask ||
        (match sl.op.lvl with
         | .n => decide (x.g.nearSlots ≤ sl.op.nSlot)
         | .d => decide (x.g.dslots ≤ n) || (pair && decide (x.g.dslots ≤ n + 1))
         | _ => false)

/-- WINDOW_EARLY: a named entry is empty or not complete in a lane of the split (R109). -/
def Issue.windowEarly (x : Issue) : Bool :=
  x.i.reads.any fun sl =>
    sl.op.lvl == .w && x.splitList.any fun l =>
      match (tabGetD x.g.bk.win l [])[sl.op.idx.toNat]? with
      | some e => !e.done
      | none => true

/-- The near slots that an instruction's sources name, each once (R111, R112). -/
def Issue.nearReads (x : Issue) : List Nat :=
  ((x.i.reads.filter fun sl => sl.op.lvl == .n).flatMap fun sl =>
    if sl.role.wideRead then [sl.op.nSlot, sl.op.nSlot + 1] else [sl.op.nSlot]).eraseDups

/-- NEAR_RELEASED: a named slot is released (R111, R112). -/
def Issue.nearReleased (x : Issue) : Bool := x.nearReads.any fun k => cellGet x.g.bk.nst k == 0

/-- The trap of a check at issue, over the lanes of the issuing split. -/
def Issue.trap (x : Issue) (code : BitVec 8) : Trap := Trap.one code x.sp.lanes

/-- Whether `(!p7)` guards a matrix instruction or an exit from a handler, which is then a no-op (R42, R79, R341). -/
def Issue.never (x : Issue) : Bool := x.c.gneg && x.c.gpred == 7

/-- Whether SRD or SWR names a number that it may not (R347), which is ILLEGAL_MODIFIER (R53). -/
def Issue.sysBad (x : Issue) : Bool :=
  match x.i with
  | .srd _ n _ | .swr _ n _ => !sysLegal x.inHandler n.toNat
  | _ => false

/-- The checks that every instruction meets at its issue, in order: the fates of R53 that depend on where it stands and on its
group, then the widths of a matrix instruction (R196), the rules of strands, and the readiness of W and N. DESIGN CHOICE (log entry 46):
the spec ranks neither these groups nor the checks of the last two among each other; so a first instruction that is no STRAND
and breaks a rule of its encoding as well raises that one's trap. A matrix instruction under `(!p7)` raises nothing (R196). -/
def State.issueCheck (s : State) (x : Issue) : Option Trap :=
  let mat := portOf (opcodeOf x.i) == .mat
  let hand := x.inHandler
  if mat && x.never then none
  else if placeIllegal x.i hand then some (x.trap tcOpcode)
  else if x.sysBad then some (x.trap tcModifier)
  else if x.operandBad then some (x.trap tcOperand)
  else if mat && x.g.width == 16 then some (x.trap tcWidth)
  else if mat && x.wide && decide (2 ≤ collectorOf x.i) then some (x.trap tcModifier)
  else if !hand && s.atEntry x && !(x.i matches .strand ..) then some (x.trap tcStrand)
  else if !hand && isTerminator x.i && !(x.i matches .exit ..) && !(x.i matches .phend ..) &&
      !s.strandAt x.g (x.pc + BitVec.ofNat 64 x.len) then some (x.trap tcStrand)
  else if !hand && isTerminator x.i && !(x.i matches .exit ..) && decide (1 < x.g.bank.splits.length) then
    some (x.trap tcConvergence)
  else if !hand && x.g.strand.entry.replay && (isIrrevocable x.i || x.i.qField.isSome || x.writesSurvivor) then
    some (x.trap tcStrand)
  else if x.windowEarly then some (x.trap tcWindow)
  else if x.nearReleased then some (x.trap tcNear)
  else none

/-! ## Reading (R46, R47, R94, R118, R119) -/

/-- A 64-bit special register (R46), named by its even index. -/
def State.tSpecial64 (s : State) (x : Issue) (n : Nat) : DWord :=
  match n with
  | 24 => BitVec.ofNat 64 (now s)
  | 26 => BitVec.ofNat 64 x.g.horizon
  | 28 => match s.contextOf x.g with | some c => BitVec.ofInt 64 c.bal | none => 0
  | 30 => match s.teamOf x.g with | some t => BitVec.ofNat 64 t.task | none => 0
  | n => cellGet x.g.cb ((n - 56) / 2)

/-- A 32-bit T-level register in a lane (R46, R117, R118). -/
def State.tWord (s : State) (x : Issue) (n lane : Nat) : Word :=
  if n < 16 then (match s.teamOf x.g with | some t => t.tGet s.clkOf x.g.uid x.g.core n | none => 0)
  else if 48 ≤ n && n ≤ 55 then (if x.g.bk.pred (n - 48) lane then 1 else 0)
  else
    match n with
    | 16 => BitVec.ofNat 32 lane
    | 17 => BitVec.ofNat 32 x.g.idx
    | 18 => BitVec.ofNat 32 (match s.teamOf x.g with | some t => t.index | none => 0)
    | 19 => BitVec.ofNat 32 x.g.core
    | 20 => BitVec.ofNat 32 (x.g.core / 8)
    | 21 => BitVec.ofNat 32 (x.g.core / 32)
    | 22 => BitVec.ofNat 32 x.g.width
    | 23 => BitVec.ofNat 32 x.sp.id
    | 32 => BitVec.ofNat 32 (match s.teamOf x.g with | some t => t.phase | none => 0)
    | 33 => x.g.smerge
    | 34 => match s.devid with | some d => (1#22) ++ d | none => 0
    | n =>
      let v := s.tSpecial64 x (n - n % 2)
      if n % 2 = 0 then v.extractLsb' 0 32 else v.extractLsb' 32 32

/-- R94 for a register of level `lvl` that the k-th read field names. -/
def State.raced (s : State) (x : Issue) (lvl : Level) (r k lane : Nat) (old : Word) : Word :=
  s.raceWord x.g x.sp x.bits lvl r k lane old

/-- One 32-bit register of a level, in a lane. -/
def State.regWord (s : State) (x : Issue) (lvl : Level) (r k lane : Nat) : Word :=
  match lvl with
  | .n => s.raced x .n r k lane (cellGet x.g.bk.nval (laneKey r lane))
  | .d => s.raced x .d r k lane (x.g.dGet r lane)
  | .s => s.raced x .s r k lane (cellGet (x.g.sfileOf x.sp) r)
  | .k => match s.launchOf x.g with | some l => cellGet l.kbank r | none => 0
  | .t => s.raced x .t r k lane (s.tWord x r lane)
  | _ => 0

/-- The handle that a Q-level source pops: the ring word at HEAD (R217). -/
def State.popWord (s : State) (x : Issue) (q : Nat) : Word :=
  match s.teamOf x.g with
  | none => 0
  | some t => s.ringWord t (t.queue q) (t.queue q).head

/-- The format into which an I-level value of a read field is converted (R47): none where it is used as raw bits. -/
def immFormat (i : Instr) (k : Nat) : Option (FloatFmt × Bool) :=
  match i with
  | .fadd .. | .fsub .. | .fmul .. | .fmin .. | .fmax .. | .faddImm .. | .fsubImm .. | .fmulImm .. | .fminImm .. | .fmaxImm ..
  | .ffma .. | .fsetCompare .. | .frcp .. | .frsq .. | .fsqrt .. | .fex2 .. | .flg2 .. | .fsin .. | .fcos .. | .frnd ..
  | .cscl .. => some (.f32, false)
  | .f2i _ _ sty .. | .cvt _ _ sty .. => if sty = .f32 then some (.f32, false) else none
  | .pset _ _ _ ty .. => if ty = .f32 && decide (k < 2) then some (.f32, false) else none
  | .pack .. => if k < 2 then some (.f32, false) else none
  | .fdot4 .. => if k = 2 then some (.f32, false) else none
  | .atom _ _ ty .. | .atomr _ _ ty .. => if ty = .f32 && k = 1 then some (.f32, false) else none
  | .ratom _ ty aop .. => if ty = .f32 && k = (if aop = .cas then 2 else 1) then some (.f32, false) else none
  | .hfma2 _ ty .. => some (FloatFmt.ofTy ty, true)
  | _ => none

/-- An I-level value (R47). -/
def immValue (i : Instr) (k : Nat) (wide : Bool) (idx : BitVec 8) : DWord :=
  match immFormat i k with
  | some (f, twice) =>
    let n := (f.ofInt .rn false idx.toInt).1
    BitVec.ofNat 64 (if twice then n * 2 ^ 16 + n else n)
  | none => if wide then idx.signExtend 64 else ofW (idx.signExtend 32)

/-- The value of the k-th read field in a lane (R47). -/
def State.readField (s : State) (x : Issue) (k : Nat) (sl : Slot) (lane : Nat) : DWord :=
  let wide := sl.role.wideRead
  match sl.op.lvl with
  | .i => immValue x.i k wide sl.op.idx
  | .w =>
    match (tabGetD x.g.bk.win lane [])[sl.op.idx.toNat]? with
    | some e => if wide then e.val else ofW (w32 e.val)
    | none => 0
  | .q => ofW (s.popWord x sl.op.idx.toNat)
  | .t => if wide then s.tSpecial64 x sl.op.idx.toNat else ofW (s.regWord x .t sl.op.idx.toNat k lane)
  | lvl =>
    let r := opReg sl.op
    let lo := s.regWord x lvl r k lane
    if wide then s.regWord x lvl (r + 1) (8 + k) lane ++ lo else ofW lo

/-- The k-th read field in a lane, by position. -/
def State.src (s : State) (x : Issue) (k lane : Nat) : DWord :=
  match x.i.reads[k]? with
  | some sl => s.readField x k sl lane
  | none => 0

/-- A value taken from the lowest active lane; zero if none is active. -/
def State.srcLow (s : State) (x : Issue) (k : Nat) : DWord :=
  match x.low? with
  | some l => s.src x k l
  | none => 0

/-- A source that must be uniform (R153), which no guard keeps from being read. -/
def State.srcUniform (s : State) (x : Issue) (k : Nat) : DWord := s.src x k (x.low?.getD 0)

/-! ## What an issue does to W, N, the queues and the program counter -/

/-- R112, step 1: each named counted slot is decremented once. -/
def decNear (nst : Cells 4) (ks : List Nat) : Cells 4 :=
  ks.foldl (fun m k => let v := cellGet m k; if v = 8 || v = 0 then m else cellSet m k (v - 1)) nst

/-- The state that a count gives a slot: 0 persistent, else counted (R112). -/
def nearState (count : BitVec 3) : BitVec 4 := if count = 0 then 8 else count.setWidth 4

/-- R112, step 2: the destination slots take the state that the count names. -/
def setNear (nst : Cells 4) (d : Dest) : Cells 4 :=
  if d.op.lvl = .n then
    let st := nearState d.op.nCount
    let m := cellSet nst d.op.nSlot st
    if d.wide then cellSet m (d.op.nSlot + 1) st else m
  else nst

/-- The window of one lane shifts (R108). -/
def shiftLane (e : WEntry) (win : Tab (List WEntry)) (l : Nat) : Tab (List WEntry) :=
  tabSet win l ((e :: tabGetD win l []).take 8)

/-- The window of every lane of the split shifts: a lane that is not active takes a complete zero (R108). -/
def shiftWindow (x : Issue) (tag : Nat) (win : Tab (List WEntry)) : Tab (List WEntry) :=
  x.splitList.foldl (fun w l => shiftLane { tag := tag, done := !x.lanes.has l, val := 0 } w l) win

/-- What a queue operand does at issue (R217, R218): a source pops and a destination reserves; with no active lane, neither. -/
def State.queueIssue (s : State) (x : Issue) (uid : Nat) : State :=
  match x.i.qField with
  | none => s
  | some (isPop, q) =>
    if x.lanes = 0 then s
    else
      s.modTeam x.g.team fun t =>
        if isPop then t.popQueue q x.g.idx else t.setQueue q ((t.queue q).reserve uid)

/-- The split moves to an address (R93 makes a taken branch's bubble). -/
def Group.goTo (g : Group) (split : Nat) (pc : DWord) : Group :=
  match g.bk.split? split with
  | some sp => g.setBk (g.bk.setSplit { sp with pc := pc })
  | none => g

def Issue.nextPc (x : Issue) : DWord := x.pc + BitVec.ofNat 64 x.len

/-- The issue takes effect: reads are counted, the destination slot takes its state, the window shifts under the operation's tag, and
the split goes to the next instruction. -/
def State.commit (s : State) (x : Issue) (uid : Nat) : State :=
  (s.queueIssue x uid).modGroup x.g.uid fun g =>
    let b := g.bk
    let nst := decNear b.nst x.nearReads
    let nst := match x.dest with | some d => setNear nst d | none => nst
    let win := if x.i.producesResult then shiftWindow x uid b.win else b.win
    (g.setBk { b with nst := nst, win := win }).goTo x.sp.id x.nextPc

/-- An outstanding operation of the instruction, with nothing in it yet. -/
def Issue.op (x : Issue) (uid : Nat) : Op :=
  { uid := uid, grp := x.g.uid, hand := x.inHandler
    epoch := match x.g.hand with | some h => h.serial | none => x.g.epoch
    split := x.sp.id, lanes := x.lanes, splitLanes := x.sp.lanes, set := x.c.set.toNat, pc := x.pc, len := x.len, instr := x.i
    due := none, var := true, dest := x.dest, vals := [], flags := 0, carry := none, raced := [], job := .plain }

/-- The instruction stays outstanding: its flag goes up (R90) and the operation is recorded. -/
def State.start (s : State) (x : Issue) (f : Op → Op) : State :=
  let uid := s.nextId
  let s := ({ s with nextId := uid + 1 }).commit x uid
  let s := s.modGroup x.g.uid fun g => g.setUp x.inHandler x.c.set.toNat
  { s with ops := s.ops ++ [f (x.op uid)] }

/-- The instruction stays outstanding without its effect on W, N and the program counter: it has trapped, or may still trap. -/
def State.startHeld (s : State) (x : Issue) (f : Op → Op) : State :=
  let uid := s.nextId
  let s := ({ s with nextId := uid + 1 }).modGroup x.g.uid fun g => g.setUp x.inHandler x.c.set.toNat
  { s with ops := s.ops ++ [f (x.op uid)] }

/-- The group issues nothing further until the operation completes. -/
def State.holdOn (s : State) (grp uid : Nat) : State := s.modGroup grp fun g => { g with hold := .op uid }

/-- An operation holds its group no longer; a drain marker of its instruction still does (R95). -/
def State.unhold (s : State) (o : Op) : State :=
  s.modGroup o.grp fun g =>
    if g.hold = .op o.uid then { g with hold := if o.instr.ctl.any (·.drain) then .drain else .free } else g

/-- The instruction completes at issue, without a result. -/
def State.finish (s : State) (x : Issue) : State := s.commit x 0

/-! ## Landing (R94, R108, R109, R115, R117, R118, R123, R139) -/

/-- The value that a W entry receives: the one written to the destination (R108). -/
def Op.entryValue (o : Op) (d : Dest) (l : Nat) : DWord :=
  let v := match d.op.lvl with | .s | .q => o.lowValue | .t => if d.predicate then cellGet o.vals l else o.lowValue
                               | _ => cellGet o.vals l
  if d.predicate then boolD (w32 v != 0) else if d.wide then v else ofW (w32 v)

/-- The entries of an operation become complete (R109). -/
def landEntries (o : Op) (d : Dest) (win : Tab (List WEntry)) : Tab (List WEntry) :=
  win.map fun e =>
    (e.1, e.2.map fun w =>
      if w.tag == o.uid && !w.done then { w with done := true, val := o.entryValue d e.1 } else w)

/-- Whether an operation's landing writes a lane of the register at a place of `Op.regs`: where another write came between, the lane
keeps either value (R94). -/
def Op.keeps (o : Op) (bits place lane : Nat) : Bool := !Lanes.has (cellGet o.raced place) lane || bits.testBit (place * 64 + lane)

/-- Writes of one 32-bit or pair register in an operation's lanes. -/
def landLanes (m : Cells 32) (o : Op) (d : Dest) (bits : Nat) : Cells 32 :=
  (o.lanes.list 64).foldl (fun m l =>
    let v := cellGet o.vals l
    let m := if o.keeps bits 0 l then cellSet m (laneKey (opReg d.op) l) (v.extractLsb' 0 32) else m
    if d.wide && o.keeps bits 1 l then cellSet m (laneKey (opReg d.op + 1) l) (v.extractLsb' 32 32) else m) m

/-- An S write goes to its copy (R138, R139, R335). -/
def landScalar (g : Group) (o : Op) (f : Split → Split) : Group :=
  match o.scalarCopy g with
  | none => g
  | some (hand, id) =>
    g.modBank hand fun b => match b.split? id with | some sp => b.setSplit (f sp) | none => b

def scalarWrite (o : Op) (d : Dest) (bits : Nat) (sp : Split) : Split :=
  let v := o.lowValue
  let sp := if o.keeps bits 0 0 then sp.sSet (opReg d.op) (v.extractLsb' 0 32) else sp
  if d.wide && o.keeps bits 1 0 then sp.sSet (opReg d.op + 1) (v.extractLsb' 32 32) else sp

/-- Writes of a predicate in an operation's lanes (R118): the predicate at a place of `Op.regs`. -/
def landPred (b : Bank) (o : Op) (place n bits : Nat) (f : Nat → Bool) : Bank :=
  (o.lanes.list 64).foldl (fun b l => if o.keeps bits place l then b.setPred n l (f l) else b) b

/-- The order of team-register writes that land in one clk (R117): core half, partition, active slot. DESIGN CHOICE (log entry 60): a write of a
group that has left its slot stands where one of slot 0 would. -/
def Group.landKey (g : Group) (half : Nat) : Nat := half * 16 + g.part * 4 + (g.slot?.getD 0)

/-- Whether two operations of a group write the same place where they write the same register: the lanes' own, a bank's, or one scalar
copy. -/
def samePlace (g : Group) (o p : Op) (lvl : Level) (r : Nat) : Bool :=
  match lvl with
  | .n => o.hand == p.hand && o.near g && p.near g
  | .s => o.scalarCopy g == p.scalarCopy g
  | .t => !isPred lvl r || (o.hand == p.hand && !o.stale g && !p.stale g)
  | _ => true

/-- The lanes of a register that an operation's landing has reached; all stand for the one value of S and T. -/
def Op.reached (o : Op) (lvl : Level) (r : Nat) : Lanes :=
  if lvl = .s || (lvl = .t && !isPred lvl r) then (if o.lanes = 0 then 0 else BitVec.allOnes 64) else o.lanes

/-- Other operations in flight to registers that have just been written: of two writes the one that lands later leaves either value in
each lane that both reach, unless both have fixed latency (R94). -/
def markRaced (g : Group) (ops : List Op) (o : Op) : List Op :=
  ops.map fun p =>
    if p.uid != o.uid && p.grp == o.grp && (p.var || o.var) then
      let rs := p.regs
      { p with raced := ((List.range rs.length).zip rs).foldl (fun m e =>
          if o.regs.contains e.2 && samePlace g o p e.2.1 e.2.2 then cellSet m e.1 (cellGet m e.1 ||| o.reached e.2.1 e.2.2)
          else m) p.raced }
    else p

/-- An operation's result is written to its destination and its W entries; the free bits decide the lanes of R94. -/
def State.landResult (s : State) (o : Op) : State :=
  match o.dest, s.group? o.grp with
  | some d, some g =>
    let bits := Config.choose s.fresh
    let s := { s with fresh := s.fresh + 1, ops := markRaced g s.ops o }
    let any := o.lanes != 0 && o.keeps bits 0 0
    let g :=
      if o.near g then
        g.modBank o.hand fun b =>
          let b := { b with win := if d.shift then landEntries o d b.win else b.win }
          if d.op.lvl = .n then { b with nval := landLanes b.nval o d bits } else b
      else g
    let g :=
      if d.predicate && !o.stale g then
        g.modBank o.hand fun b => landPred b o 0 (d.op.idx.toNat - 48) bits fun l => w32 (cellGet o.vals l) != 0
      else g
    let g :=
      match d.op.lvl with
      | .d => { g with dfile := landLanes g.dfile o d bits }
      | .s => if o.lanes != 0 then landScalar g o (scalarWrite o d bits) else g
      | .t => if d.op.idx = 33 && any then { g with smerge := w32 o.lowValue &&& 3 } else g
      | _ => g
    let s := s.setGroup g
    if d.op.lvl = .t && decide (d.op.idx.toNat < 16) && any then
      s.modTeam g.team fun t =>
        let w : TWrite :=
          { time := s.time, clk := s.clkOf g.core, key := g.landKey (t.half g.core), reg := d.op.idx.toNat, val := w32 o.lowValue, grp := g.uid
            core := g.core }
        { t with twrites := insertTWrite w t.twrites }
    else s
  | _, _ => s

/-- The predicates that an operation writes beside its result, or alone: IADDC's carry, which lands with its sum (R92, R159), and
PMOV.set's seven (R184). -/
def State.landPreds (s : State) (o : Op) : State :=
  let bits := Config.choose s.fresh
  let carry (b : Bank) : Bank :=
    match o.carry with | some (n, m) => landPred b o o.carryPlace n bits m.has | none => b
  let set (b : Bank) : Bank :=
    match o.job with
    | .preds => (List.range 7).foldl (fun b n => landPred b o n n bits fun l => (cellGet o.vals l).getLsbD n) b
    | _ => b
  match s.group? o.grp with
  | none => s
  | some g =>
    if o.carry.isNone && !(o.job matches .preds) then s
    else
      ({ s with fresh := s.fresh + 1, ops := markRaced g s.ops o }).setGroup
        (if o.stale g then g else g.modBank o.hand fun b => set (carry b))

/-- A result lands and its operation completes (R90, R92). -/
def State.landAndFinish (s : State) (o : Op) : State := ((s.landResult o).landPreds o).finishOp o

end Sys2Proof.Machine
end

