-- ==== Sys2Proof/Machine/Issue.lean ====
section
/-! DEFINITION. The one way an instruction of a group issues (R89, R90, R94, R128, R329): the conditions that make it wait, the checks
that trap, and its effect; and the shapes of effect that many instructions share. -/

namespace Sys2Proof.Machine

/-- The instruction of a split as it would issue now. -/
def State.asIssue (s : State) (i : Instr) (c : Ctl) (g : Group) (sp : Split) (pc : DWord) (len : Nat) : Issue :=
  { i := i, c := c, g := g, sp := sp, pc := pc, len := len, lanes := s.activeLanes g sp c (Config.choose s.fresh)
    bits := Config.choose s.fresh }

/-- A queue's condition for a pop or a push: an uninitialised queue does not wait, it traps (R216, R217). -/
def Queue.open (q : Queue) (isPop : Bool) : Bool := !q.init || (if isPop then decide (0 < q.filled) else decide (0 < q.free))

/-- Whether a queue is initialised, as the issuing group observes it (R222). -/
def Team.initFor (t : Team) (x : Issue) (q : Nat) : Bool := (t.seenQueue q x.g.idx x.g.acquire).init

def State.queueOpen (s : State) (x : Issue) (q : Nat) (isPop : Bool) : Bool :=
  x.lanes == 0 || (match s.teamOf x.g with | some t => !t.initFor x q || (t.queue q).open isPop | none => true)

/-- Condition 7 of R89 for a Q-level operand. -/
def State.fieldOpen (s : State) (x : Issue) : Bool :=
  match x.i.qField with
  | some (isPop, q) => s.queueOpen x q isPop
  | none => true

/-- Key of a Reel context. -/
def reelKey (core ctx : Nat) : Nat := core * 4 + ctx

/-- The Reel's free contexts on a core (R229, R234). -/
def State.freeContexts (s : State) (core : Nat) : List Nat :=
  (List.range 4).filter fun k => !((tabGet? s.reels (reelKey core k)).any fun r => r.busy)

/-- Whether REEL's own checks trap, so that it does not wait (R231). -/
def State.reelBad (s : State) (x : Issue) (qn slice : Nat) : Option (BitVec 8) :=
  let count := match s.launchOf x.g with | some l => l.image.sliceCnt | none => 0
  let init := match s.teamOf x.g with | some t => t.initFor x qn | none => false
  if count ≤ slice then some tcModifier else if !init then some tcOperand else none

/-- Bitmap that an LDX or STX in flight uses (R253). -/
def State.bitmapBusy (s : State) (x : Issue) (cb : Nat) : Bool :=
  s.ops.any fun o => o.grp == x.g.uid && (match o.job with | .access a => a.cb == some cb | _ => false)

/-- Descriptors of a context's task pool, and whether one is FREE (R288). -/
def State.poolEntries (s : State) (asid : Nat) : List Nat :=
  match s.context? asid with
  | none => []
  | some c => (List.range c.taskPN.toNat).map fun k => c.taskPool.toNat + 64 * k

def State.poolFree (s : State) (asid : Nat) : List Nat :=
  (s.poolEntries asid).filter fun a => match s.desc asid a with | .ok d => d.state == stFree | .error _ => false

/-- Conditions 4, 5 and 7 of R89, and those that instructions state of their own: whether the instruction may issue now, or waits. -/
def State.mayIssue (s : State) (x : Issue) : Bool :=
  let b := x.g.bk
  b.waitMet x.c.wait && b.setRoom x.c.set.toNat &&
    (match x.i with
     | .waitf c => c.wait != 0 || b.flagsClear
     | .qpush _ qn _ => s.queueOpen x qn.toNat false
     | .qpop _ qn _ => s.queueOpen x qn.toNat true
     | .copy _ _ _ kind qn .. =>
       x.lanes == 0 ||
         (decide ((s.threads.filter fun t => t.core == x.g.core && t.reel.isNone).length < 32) &&
           (kind != .push || s.queueOpen x qn.toNat false) && s.fieldOpen x)
     | .reel _ qn slice _ =>
       x.lanes == 0 || (s.reelBad x qn.toNat slice.toNat).isSome || (!(s.freeContexts x.g.core).isEmpty && s.fieldOpen x)
     | .ldx _ _ _ cb .. => !s.bitmapBusy x cb.toNat
     | .stx _ _ _ cb .. => !s.bitmapBusy x cb.toNat
     | .mapreq .. => !(x.g.hand.any fun h => h.mapreq.isSome)
     | .put .. | .get .. | .ratom .. =>
       x.lanes == 0 || decide ((s.remotes.filter fun r => r.core == x.g.core && !r.isOver).length < 64)
     | .coll .. =>
       x.lanes == 0 ||
         decide ((s.colls.filter fun k => k.core == x.g.core && !k.isOver && k.cgroup == (w32 (s.srcLow x 1)).toNat / 2 ^ 16 % 2 ^ 12).length < 4)
     | .spawn .. => x.lanes == 0 || !(s.poolFree (s.asidOf x.g)).isEmpty
     | _ => s.fieldOpen x)

/-- The check of a Q-level operand at issue: an uninitialised queue, or a poisoned ring word (R216, R248). -/
def State.queueTrap (s : State) (x : Issue) : Option Trap :=
  match x.i.qField, s.teamOf x.g with
  | some (isPop, q), some t =>
    if x.lanes = 0 then none
    else if !t.initFor x q then some (x.trap tcOperand)
    else if isPop && s.poisoned (.scratch (t.ringKey (t.queue q) (t.queue q).head)) 4 then
      some (Trap.one tcMem x.lanes (BitVec.ofNat 64 ((t.queue q).base + 4 * (t.queue q).head)) 2)
    else none
  | _, _ => none

/-- A precise trap at an instruction at issue, and the notice that comes with it. -/
def State.trapAt (s : State) (x : Issue) (t : Trap) : State :=
  match t.notice with
  | none => s.raiseTrap x.g x.sp.id x.pc x.len t
  | some r => (s.raiseTrap x.g x.sp.id x.pc x.len t).postNotice x.g.uid r x.pc

/-- A precise trap of an instruction that has left something behind. -/
def State.trapNow (s : State) (x : Issue) (t : Trap) : State :=
  match s.group? x.g.uid with
  | some g => s.raiseTrap g x.sp.id x.pc x.len t
  | none => s

/-- STRAND_OVERRUN (R125): a request is pending and the counter exceeds STRAND_MAX; raised once per strand, instead of the
instruction, unless that is a STRAND. -/
def State.overrunDue (s : State) (x : Issue) : Bool :=
  !x.inHandler && x.g.request.isSome && !x.g.strand.overrun && !(x.i matches .strand ..) &&
    (match s.contextOf x.g with
     | some c => c.strmax != 0 && decide (c.strmax.toNat < x.g.strand.count)
     | none => false)

/-- An instruction of a group issues: it waits, changing nothing, while it may not issue; a check that fails traps; else it has the
effect `k`, which may trap in turn, leaving nothing of itself. -/
def issue (i : Instr) (s : State) (k : Issue → State → Except Trap State) : Out :=
  match s.begin i with
  | none => .fault .noIssuer
  | some (x, t) =>
    if !s.mayIssue x then .next s
    else if s.overrunDue x then
      .next ((t.modGroup x.g.uid fun g => { g with strand := { g.strand with overrun := true } }).trapNow x (x.trap tcOverrun))
    else
      match t.issueCheck x with
      | some e => .next (t.trapAt x e)
      | none =>
        match t.queueTrap x with
        | some e => .next (t.trapAt x e)
        | none =>
          match k x (t.took x) with
          | .ok u => .next u
          | .error e => .next (t.trapAt x e)

/-- Whether an operation's clk has come. -/
def Op.isDue (o : Op) (clk : Nat) : Bool := match o.due with | some c => decide (c ≤ clk) | none => true

/-- Whether an operation's clk has come, on the core of its group. -/
def State.opDue (s : State) (o : Op) : Bool :=
  o.isDue (match s.group? o.grp with | some g => s.clkOf g.core | none => s.clk)

/-! ## Results (R92, R154, R157, R223) -/

/-- The lanes whose computation raises flags. -/
def Issue.flagLanes (x : Issue) : List Nat :=
  if x.dest.any (·.uniform) then (match x.low? with | some l => [l] | none => []) else x.list

/-- Values by lane. -/
def laneVals (ls : List Nat) (f : Nat → DWord) : Cells 64 := cellSets [] (ls.map fun l => (l, f l))

/-- The team and queue of a Q-level destination. -/
def Issue.pushJob (x : Issue) (uid : Nat) (handle : Word) : Job :=
  match x.i.qField with
  | some (false, q) => .push x.g.team q uid handle
  | some (true, _) => .popped
  | none => .plain

/-- The clk that a Q-level operand adds to an instruction's latency (R223). -/
def Issue.queueDelay (x : Issue) : Nat := if x.i.qField.isSome then 24 else 0

/-- What the ring word of a pop or a push asks of its bank (R223, R390): that at HEAD, or at TAIL. -/
def Team.ringAsk (t : Team) (isPop : Bool) (q : Nat) : BankAsk :=
  { bank := bankOf (t.ringKey (t.queue q) (if isPop then (t.queue q).head else (t.queue q).tail)), early := true, words := 1 }

/-- What an instruction asks of the banks for its Q-level operand, if it has one. -/
def State.ringAsks (s : State) (x : Issue) : List BankAsk :=
  match x.i.qField, s.teamOf x.g with
  | some (isPop, q), some t => if x.lanes = 0 then [] else [t.ringAsk isPop q]
  | _, _ => []

/-- A result of fixed latency `lat`, computed lane by lane from the sources: it lands at issue + L (R92), 64-wide groups adding 1.
With a Q-level operand the instruction is of variable latency, 24 clk more (R223), and with no active lane it completes at
issue (R218). -/
def State.result (s : State) (x : Issue) (lat : Nat) (f : Nat → Res) (carry : Option (Nat × (Nat → Bool)) := none) : State :=
  let lat := lat + (if x.wide then 1 else 0)
  let q := x.i.qField.isSome
  let after := x.queueDelay + lat
  let vals := laneVals x.list fun l => (f l).1
  let low := match x.low? with | some l => w32 (f l).1 | none => 0
  if q && x.lanes == 0 then s.finish x
  else
    let t := s.start x fun o =>
      { o with
        due := some (s.clkOf x.g.core + after)
        var := q
        vals := vals
        flags := x.flagLanes.foldl (fun fl l => fl ||| (f l).2) 0
        carry := carry.map fun e => (e.1, x.list.foldl (fun m l => if e.2 l then m ||| Lanes.single l else m) 0)
        job := x.pushJob o.uid low }
    if q then t.askBanks s.nextId (s.ringAsks x) else t

/-- A slice instruction in a Reel context (R229, R230): computed once on the context's own scalar file; its flags are discarded. -/
def reelValue (m : Cells 32) (sl : Slot) : DWord :=
  match sl.op.lvl with
  | .s =>
    let lo := cellGet m sl.op.idx.toNat
    if sl.role.wideRead then cellGet m (sl.op.idx.toNat + 1) ++ lo else ofW lo
  | _ => if sl.role.wideRead then sl.op.idx.signExtend 64 else ofW (sl.op.idx.signExtend 32)

def reelCompute (core ctx : Nat) (i : Instr) (f : (Nat → DWord) → Res) (s : State) : Out :=
  match tabGet? s.reels (reelKey core ctx), i.ctl with
  | some r, some _ =>
    let v := (f fun k => match i.reads[k]? with | some sl => reelValue r.sfile sl | none => 0).1
    let sfile :=
      match i.dest with
      | some sl =>
        let m := cellSet r.sfile sl.op.idx.toNat (v.extractLsb' 0 32)
        if sl.role.wideWrite then cellSet m (sl.op.idx.toNat + 1) (v.extractLsb' 32 32) else m
      | none => r.sfile
    .next { s with reels := tabSet s.reels (reelKey core ctx) { r with sfile := sfile } }
  | _, _ => .fault .noIssuer

/-- A result of the issuing group, lane by lane, or of the Reel context whose turn it is. -/
def resultOf (i : Instr) (lat : Nat) (f : (Nat → DWord) → Res) (s : State) : Out :=
  match s.cur with
  | .reel core ctx => reelCompute core ctx i f s
  | _ => issue i s fun x s => .ok (s.result x lat fun l => f fun k => s.src x k l)

/-- Lane functions of one, two and three sources. -/
def result1 (i : Instr) (lat : Nat) (f : DWord → Res) (s : State) : Out := resultOf i lat (fun v => f (v 0)) s
def result2 (i : Instr) (lat : Nat) (f : DWord → DWord → Res) (s : State) : Out := resultOf i lat (fun v => f (v 0) (v 1)) s
def result3 (i : Instr) (lat : Nat) (f : DWord → DWord → DWord → Res) (s : State) : Out :=
  resultOf i lat (fun v => f (v 0) (v 1) (v 2)) s

/-- A result of variable latency that the spec completes `n` clk after issue, the same in every lane or not. -/
def State.later (s : State) (x : Issue) (n : Nat) (f : Nat → DWord) : State :=
  s.start x fun o => { o with due := some (s.clkOf x.g.core + n), vals := laneVals x.list f }

/-- An instruction without a result that completes `n` clk after issue. -/
def State.laterNone (s : State) (x : Issue) (n : Nat) : State := s.start x fun o => { o with due := some (s.clkOf x.g.core + n) }

end Sys2Proof.Machine
end

