-- ==== Sys2Proof/Machine/Alu.lean ====
section
/-! DEFINITION. Moves and integer arithmetic (R129 to R131, R158 to R170), in the full and the compact forms. -/

namespace Sys2Proof.Machine

/-- MOVI's result (R130). -/
def moviValue (m : MoviTy) (imm : BitVec 32) : DWord :=
  match m with
  | .z32 | .z64 => ofW imm
  | .s64 => imm.signExtend 64

/-- MOV (R129). -/
def execMov (c : Ctl) (ty : Ty) (d a : Opnd) (s : State) : Out :=
  result1 (.mov c ty d a) 4 (fun a => (fit ty a, 0)) s

/-- MOVW (R129): the entry goes to a pair without moving the window. -/
def execMovw (c : Ctl) (d a : Opnd) (s : State) : Out :=
  result1 (.movw c d a) 4 (fun a => (a, 0)) s

/-- MOVI (R130). -/
def execMovi (c : Ctl) (m : MoviTy) (d : Opnd) (imm : BitVec 32) (s : State) : Out :=
  resultOf (.movi c m d imm) 4 (fun _ => (moviValue m imm, 0)) s

/-- SEL (R131). -/
def execSel (c : Ctl) (ty : Ty) (d a b x : Opnd) (s : State) : Out :=
  result3 (.sel c ty d a b x) 4 (fun a b p => (fit ty (if p = 1 then a else b), 0)) s

/-- IADD (R158). -/
def execIadd (c : Ctl) (ty : Ty) (sat : Bool) (d a b : Opnd) (s : State) : Out :=
  result2 (.iadd c ty sat d a b) 4 (laneAdd ty sat) s

/-- IADD with a 32-bit immediate (R158). -/
def execIaddImm (c : Ctl) (ty : Ty) (sat : Bool) (d a : Opnd) (imm : BitVec 32) (s : State) : Out :=
  result1 (.iaddImm c ty sat d a imm) 4 (fun a => laneAdd ty sat a (ofW imm)) s

/-- ISUB (R158). -/
def execIsub (c : Ctl) (ty : Ty) (sat : Bool) (d a b : Opnd) (s : State) : Out :=
  result2 (.isub c ty sat d a b) 4 (laneSub ty sat) s

/-- ISUB with a 32-bit immediate (R158). -/
def execIsubImm (c : Ctl) (ty : Ty) (sat : Bool) (d a : Opnd) (imm : BitVec 32) (s : State) : Out :=
  result1 (.isubImm c ty sat d a imm) 4 (fun a => laneSub ty sat a (ofW imm)) s

/-- IADD64 (R158). -/
def execIadd64 (c : Ctl) (ty : Ty) (sat : Bool) (d a b : Opnd) (s : State) : Out :=
  result2 (.iadd64 c ty sat d a b) 6 (laneAdd ty sat) s

/-- IADDC (R159): the carry out is written at the same clk as the sum. -/
def execIaddc (c : Ctl) (d a b x : Opnd) (s : State) : Out :=
  issue (.iaddc c d a b x) s fun y s =>
    let sum (l : Nat) := laneAddc (s.src y 0 l) (s.src y 1 l) (s.src y 2 l == 1)
    .ok (s.result y 4 (fun l => (ofW (sum l).1, 0)) (some (x.idx.toNat - 48, fun l => (sum l).2)))

/-- IMUL (R160). -/
def execImul (c : Ctl) (ty : Ty) (d a b : Opnd) (s : State) : Out :=
  result2 (.imul c ty d a b) 6 (laneMul ty) s

/-- IMULH (R160). -/
def execImulh (c : Ctl) (ty : Ty) (d a b : Opnd) (s : State) : Out :=
  result2 (.imulh c ty d a b) 6 (laneMulh ty) s

/-- IMUL with a 32-bit immediate (R160). -/
def execImulImm (c : Ctl) (ty : Ty) (d a : Opnd) (imm : BitVec 32) (s : State) : Out :=
  result1 (.imulImm c ty d a imm) 6 (fun a => laneMul ty a (ofW imm)) s

/-- IMAD (R160). -/
def execImad (c : Ctl) (ty : Ty) (d a b x : Opnd) (s : State) : Out :=
  result3 (.imad c ty d a b x) 6 (laneMad ty) s

/-- IMADW (R160). -/
def execImadw (c : Ctl) (ty : Ty) (d a b x : Opnd) (s : State) : Out :=
  result3 (.imadw c ty d a b x) 6 (laneMadw ty) s

/-- IDIV (R161). -/
def execIdiv (c : Ctl) (ty : Ty) (d a b : Opnd) (s : State) : Out :=
  result2 (.idiv c ty d a b) 36 (laneDiv ty) s

/-- IREM (R161). -/
def execIrem (c : Ctl) (ty : Ty) (d a b : Opnd) (s : State) : Out :=
  result2 (.irem c ty d a b) 36 (laneRem ty) s

/-- IMIN (R162). -/
def execImin (c : Ctl) (ty : Ty) (d a b : Opnd) (s : State) : Out :=
  result2 (.imin c ty d a b) 4 (laneMin ty) s

/-- IMAX (R162). -/
def execImax (c : Ctl) (ty : Ty) (d a b : Opnd) (s : State) : Out :=
  result2 (.imax c ty d a b) 4 (laneMax ty) s

/-- IABS (R162). -/
def execIabs (c : Ctl) (sat : Bool) (d a : Opnd) (s : State) : Out :=
  result1 (.iabs c sat d a) 4 (laneAbs sat) s

/-- INEG (R162). -/
def execIneg (c : Ctl) (sat : Bool) (d a : Opnd) (s : State) : Out :=
  result1 (.ineg c sat d a) 4 (laneNeg sat) s

/-- LEA (R163). -/
def execLea (c : Ctl) (ty : Ty) (sb : Bool) (d a b x : Opnd) (s : State) : Out :=
  result3 (.lea c ty sb d a b x) 4 (laneLea ty sb) s

/-- AND (R164). -/
def execAnd (c : Ctl) (ty : Ty) (d a b : Opnd) (s : State) : Out :=
  result2 (.and c ty d a b) 4 (laneAnd ty) s

/-- AND with a 32-bit immediate (R164). -/
def execAndImm (c : Ctl) (d a : Opnd) (imm : BitVec 32) (s : State) : Out :=
  result1 (.andImm c d a imm) 4 (fun a => laneAnd .z32 a (ofW imm)) s

/-- OR (R164). -/
def execOr (c : Ctl) (ty : Ty) (d a b : Opnd) (s : State) : Out :=
  result2 (.or c ty d a b) 4 (laneOr ty) s

/-- OR with a 32-bit immediate (R164). -/
def execOrImm (c : Ctl) (d a : Opnd) (imm : BitVec 32) (s : State) : Out :=
  result1 (.orImm c d a imm) 4 (fun a => laneOr .z32 a (ofW imm)) s

/-- XOR (R164). -/
def execXor (c : Ctl) (ty : Ty) (d a b : Opnd) (s : State) : Out :=
  result2 (.xor c ty d a b) 4 (laneXor ty) s

/-- XOR with a 32-bit immediate (R164). -/
def execXorImm (c : Ctl) (d a : Opnd) (imm : BitVec 32) (s : State) : Out :=
  result1 (.xorImm c d a imm) 4 (fun a => laneXor .z32 a (ofW imm)) s

/-- ANDN (R164). -/
def execAndn (c : Ctl) (ty : Ty) (d a b : Opnd) (s : State) : Out :=
  result2 (.andn c ty d a b) 4 (laneAndn ty) s

/-- ANDN with a 32-bit immediate (R164). -/
def execAndnImm (c : Ctl) (d a : Opnd) (imm : BitVec 32) (s : State) : Out :=
  result1 (.andnImm c d a imm) 4 (fun a => laneAndn .z32 a (ofW imm)) s

/-- NOT (R164). -/
def execNot (c : Ctl) (ty : Ty) (d a : Opnd) (s : State) : Out :=
  result1 (.not c ty d a) 4 (laneNot ty) s

/-- SHL (R165). -/
def execShl (c : Ctl) (ty : Ty) (d a b : Opnd) (s : State) : Out :=
  result2 (.shl c ty d a b) 4 (laneShl ty) s

/-- SHR (R165). -/
def execShr (c : Ctl) (ty : Ty) (d a b : Opnd) (s : State) : Out :=
  result2 (.shr c ty d a b) 4 (laneShr ty) s

/-- SAR (R165). -/
def execSar (c : Ctl) (ty : Ty) (d a b : Opnd) (s : State) : Out :=
  result2 (.sar c ty d a b) 4 (laneSar ty) s

/-- ROT (R165). -/
def execRot (c : Ctl) (ty : Ty) (d a b : Opnd) (s : State) : Out :=
  result2 (.rot c ty d a b) 4 (laneRot ty) s

/-- SHF (R166). -/
def execShf (c : Ctl) (left : Bool) (d a b x : Opnd) (s : State) : Out :=
  result3 (.shf c left d a b x) 4 (laneShf left) s

/-- BFE (R167). -/
def execBfe (c : Ctl) (ty : Ty) (d a b : Opnd) (s : State) : Out :=
  result2 (.bfe c ty d a b) 4 (laneBfe ty) s

/-- BFI (R167). -/
def execBfi (c : Ctl) (d a b x : Opnd) (s : State) : Out :=
  result3 (.bfi c d a b x) 4 laneBfi s

/-- POPC (R168). -/
def execPopc (c : Ctl) (ty : Ty) (d a : Opnd) (s : State) : Out :=
  result1 (.popc c ty d a) 4 (lanePopc ty) s

/-- CLZ (R168). -/
def execClz (c : Ctl) (ty : Ty) (d a : Opnd) (s : State) : Out :=
  result1 (.clz c ty d a) 4 (laneClz ty) s

/-- BREV (R168). -/
def execBrev (c : Ctl) (ty : Ty) (d a : Opnd) (s : State) : Out :=
  result1 (.brev c ty d a) 4 (laneBrev ty) s

/-- PRMB (R169). -/
def execPrmb (c : Ctl) (d a b x : Opnd) (s : State) : Out :=
  result3 (.prmb c d a b x) 4 lanePrmb s

/-- ISET (R170). -/
def execIset (c : Ctl) (cmp : Cmp) (ty : Ty) (d a b : Opnd) (s : State) : Out :=
  result2 (.iset c cmp ty d a b) 4 (laneIset cmp ty) s

/-- The compact form `MOV.z32` (R52). MOV (R129). -/
def execMovZ32Compact (c : CCtl) (d a : COpnd) (s : State) : Out :=
  result1 (.mov c.full .z32 d.full a.full) 4 (fun a => (fit .z32 a, 0)) s

/-- The compact form `MOV.z64` (R52). MOV (R129). -/
def execMovZ64Compact (c : CCtl) (d a : COpnd) (s : State) : Out :=
  result1 (.mov c.full .z64 d.full a.full) 4 (fun a => (fit .z64 a, 0)) s

/-- The compact form `MOVW.z64` (R52). MOVW (R129): the entry goes to a pair without moving the window. -/
def execMovwCompact (c : CCtl) (d a : COpnd) (s : State) : Out :=
  result1 (.movw c.full d.full a.full) 4 (fun a => (a, 0)) s

/-- The compact form `IADD.s32` (R52). IADD (R158). -/
def execIaddS32Compact (c : CCtl) (d a b : COpnd) (s : State) : Out :=
  result2 (.iadd c.full .s32 false d.full a.full b.full) 4 (laneAdd .s32 false) s

/-- The compact form `IADD.z32` (R52). IADD (R158). -/
def execIaddZ32Compact (c : CCtl) (d a b : COpnd) (s : State) : Out :=
  result2 (.iadd c.full .z32 false d.full a.full b.full) 4 (laneAdd .z32 false) s

/-- The compact form `ISUB.s32` (R52). ISUB (R158). -/
def execIsubS32Compact (c : CCtl) (d a b : COpnd) (s : State) : Out :=
  result2 (.isub c.full .s32 false d.full a.full b.full) 4 (laneSub .s32 false) s

/-- The compact form `ISUB.z32` (R52). ISUB (R158). -/
def execIsubZ32Compact (c : CCtl) (d a b : COpnd) (s : State) : Out :=
  result2 (.isub c.full .z32 false d.full a.full b.full) 4 (laneSub .z32 false) s

/-- The compact form `IADD64.z64` (R52). IADD64 (R158). -/
def execIadd64Z64Compact (c : CCtl) (d a b : COpnd) (s : State) : Out :=
  result2 (.iadd64 c.full .z64 false d.full a.full b.full) 6 (laneAdd .z64 false) s

/-- The compact form `IADD.s32.sat` (R52). IADD (R158). -/
def execIaddS32SatCompact (c : CCtl) (d a b : COpnd) (s : State) : Out :=
  result2 (.iadd c.full .s32 true d.full a.full b.full) 4 (laneAdd .s32 true) s

/-- The compact form `ISUB.s32.sat` (R52). ISUB (R158). -/
def execIsubS32SatCompact (c : CCtl) (d a b : COpnd) (s : State) : Out :=
  result2 (.isub c.full .s32 true d.full a.full b.full) 4 (laneSub .s32 true) s

/-- The compact form `IADD.z32.sat` (R52). IADD (R158). -/
def execIaddZ32SatCompact (c : CCtl) (d a b : COpnd) (s : State) : Out :=
  result2 (.iadd c.full .z32 true d.full a.full b.full) 4 (laneAdd .z32 true) s

/-- The compact form `IMUL.s32` (R52). IMUL (R160). -/
def execImulS32Compact (c : CCtl) (d a b : COpnd) (s : State) : Out :=
  result2 (.imul c.full .s32 d.full a.full b.full) 6 (laneMul .s32) s

/-- The compact form `IMUL.z32` (R52). IMUL (R160). -/
def execImulZ32Compact (c : CCtl) (d a b : COpnd) (s : State) : Out :=
  result2 (.imul c.full .z32 d.full a.full b.full) 6 (laneMul .z32) s

/-- The compact form `IMULH.s32` (R52). IMULH (R160). -/
def execImulhS32Compact (c : CCtl) (d a b : COpnd) (s : State) : Out :=
  result2 (.imulh c.full .s32 d.full a.full b.full) 6 (laneMulh .s32) s

/-- The compact form `IMULH.z32` (R52). IMULH (R160). -/
def execImulhZ32Compact (c : CCtl) (d a b : COpnd) (s : State) : Out :=
  result2 (.imulh c.full .z32 d.full a.full b.full) 6 (laneMulh .z32) s

/-- The compact form `IDIV.s32` (R52). IDIV (R161). -/
def execIdivS32Compact (c : CCtl) (d a b : COpnd) (s : State) : Out :=
  result2 (.idiv c.full .s32 d.full a.full b.full) 36 (laneDiv .s32) s

/-- The compact form `IDIV.z32` (R52). IDIV (R161). -/
def execIdivZ32Compact (c : CCtl) (d a b : COpnd) (s : State) : Out :=
  result2 (.idiv c.full .z32 d.full a.full b.full) 36 (laneDiv .z32) s

/-- The compact form `IREM.s32` (R52). IREM (R161). -/
def execIremS32Compact (c : CCtl) (d a b : COpnd) (s : State) : Out :=
  result2 (.irem c.full .s32 d.full a.full b.full) 36 (laneRem .s32) s

/-- The compact form `IREM.z32` (R52). IREM (R161). -/
def execIremZ32Compact (c : CCtl) (d a b : COpnd) (s : State) : Out :=
  result2 (.irem c.full .z32 d.full a.full b.full) 36 (laneRem .z32) s

/-- The compact form `IMIN.s32` (R52). IMIN (R162). -/
def execIminS32Compact (c : CCtl) (d a b : COpnd) (s : State) : Out :=
  result2 (.imin c.full .s32 d.full a.full b.full) 4 (laneMin .s32) s

/-- The compact form `IMIN.z32` (R52). IMIN (R162). -/
def execIminZ32Compact (c : CCtl) (d a b : COpnd) (s : State) : Out :=
  result2 (.imin c.full .z32 d.full a.full b.full) 4 (laneMin .z32) s

/-- The compact form `IMAX.s32` (R52). IMAX (R162). -/
def execImaxS32Compact (c : CCtl) (d a b : COpnd) (s : State) : Out :=
  result2 (.imax c.full .s32 d.full a.full b.full) 4 (laneMax .s32) s

/-- The compact form `IMAX.z32` (R52). IMAX (R162). -/
def execImaxZ32Compact (c : CCtl) (d a b : COpnd) (s : State) : Out :=
  result2 (.imax c.full .z32 d.full a.full b.full) 4 (laneMax .z32) s

/-- The compact form `IABS.s32` (R52). IABS (R162). -/
def execIabsS32Compact (c : CCtl) (d a : COpnd) (s : State) : Out :=
  result1 (.iabs c.full false d.full a.full) 4 (laneAbs false) s

/-- The compact form `INEG.s32` (R52). INEG (R162). -/
def execInegS32Compact (c : CCtl) (d a : COpnd) (s : State) : Out :=
  result1 (.ineg c.full false d.full a.full) 4 (laneNeg false) s

/-- The compact form `POPC.z32` (R52). POPC (R168). -/
def execPopcZ32Compact (c : CCtl) (d a : COpnd) (s : State) : Out :=
  result1 (.popc c.full .z32 d.full a.full) 4 (lanePopc .z32) s

/-- The compact form `CLZ.z32` (R52). CLZ (R168). -/
def execClzZ32Compact (c : CCtl) (d a : COpnd) (s : State) : Out :=
  result1 (.clz c.full .z32 d.full a.full) 4 (laneClz .z32) s

/-- The compact form `AND.z32` (R52). AND (R164). -/
def execAndZ32Compact (c : CCtl) (d a b : COpnd) (s : State) : Out :=
  result2 (.and c.full .z32 d.full a.full b.full) 4 (laneAnd .z32) s

/-- The compact form `OR.z32` (R52). OR (R164). -/
def execOrZ32Compact (c : CCtl) (d a b : COpnd) (s : State) : Out :=
  result2 (.or c.full .z32 d.full a.full b.full) 4 (laneOr .z32) s

/-- The compact form `XOR.z32` (R52). XOR (R164). -/
def execXorZ32Compact (c : CCtl) (d a b : COpnd) (s : State) : Out :=
  result2 (.xor c.full .z32 d.full a.full b.full) 4 (laneXor .z32) s

/-- The compact form `ANDN.z32` (R52). ANDN (R164). -/
def execAndnZ32Compact (c : CCtl) (d a b : COpnd) (s : State) : Out :=
  result2 (.andn c.full .z32 d.full a.full b.full) 4 (laneAndn .z32) s

/-- The compact form `NOT.z32` (R52). NOT (R164). -/
def execNotZ32Compact (c : CCtl) (d a : COpnd) (s : State) : Out :=
  result1 (.not c.full .z32 d.full a.full) 4 (laneNot .z32) s

/-- The compact form `BREV.z32` (R52). BREV (R168). -/
def execBrevZ32Compact (c : CCtl) (d a : COpnd) (s : State) : Out :=
  result1 (.brev c.full .z32 d.full a.full) 4 (laneBrev .z32) s

/-- The compact form `AND.z64` (R52). AND (R164). -/
def execAndZ64Compact (c : CCtl) (d a b : COpnd) (s : State) : Out :=
  result2 (.and c.full .z64 d.full a.full b.full) 4 (laneAnd .z64) s

/-- The compact form `OR.z64` (R52). OR (R164). -/
def execOrZ64Compact (c : CCtl) (d a b : COpnd) (s : State) : Out :=
  result2 (.or c.full .z64 d.full a.full b.full) 4 (laneOr .z64) s

/-- The compact form `SHL.z32` (R52). SHL (R165). -/
def execShlZ32Compact (c : CCtl) (d a b : COpnd) (s : State) : Out :=
  result2 (.shl c.full .z32 d.full a.full b.full) 4 (laneShl .z32) s

/-- The compact form `SHR.z32` (R52). SHR (R165). -/
def execShrZ32Compact (c : CCtl) (d a b : COpnd) (s : State) : Out :=
  result2 (.shr c.full .z32 d.full a.full b.full) 4 (laneShr .z32) s

/-- The compact form `SAR.s32` (R52). SAR (R165). -/
def execSarS32Compact (c : CCtl) (d a b : COpnd) (s : State) : Out :=
  result2 (.sar c.full .s32 d.full a.full b.full) 4 (laneSar .s32) s

/-- The compact form `ROT.z32` (R52). ROT (R165). -/
def execRotZ32Compact (c : CCtl) (d a b : COpnd) (s : State) : Out :=
  result2 (.rot c.full .z32 d.full a.full b.full) 4 (laneRot .z32) s

/-- The compact form `SHL.z64` (R52). SHL (R165). -/
def execShlZ64Compact (c : CCtl) (d a b : COpnd) (s : State) : Out :=
  result2 (.shl c.full .z64 d.full a.full b.full) 4 (laneShl .z64) s

/-- The compact form `SHR.z64` (R52). SHR (R165). -/
def execShrZ64Compact (c : CCtl) (d a b : COpnd) (s : State) : Out :=
  result2 (.shr c.full .z64 d.full a.full b.full) 4 (laneShr .z64) s

/-- The compact form `SAR.s64` (R52). SAR (R165). -/
def execSarS64Compact (c : CCtl) (d a b : COpnd) (s : State) : Out :=
  result2 (.sar c.full .s64 d.full a.full b.full) 4 (laneSar .s64) s

/-- The compact form `XOR.z64` (R52). XOR (R164). -/
def execXorZ64Compact (c : CCtl) (d a b : COpnd) (s : State) : Out :=
  result2 (.xor c.full .z64 d.full a.full b.full) 4 (laneXor .z64) s

/-- The compact form `ISET.eq.s32` (R52). ISET (R170). -/
def execIsetEqS32Compact (c : CCtl) (d a b : COpnd) (s : State) : Out :=
  result2 (.iset c.full .eq .s32 d.full a.full b.full) 4 (laneIset .eq .s32) s

/-- The compact form `ISET.ne.s32` (R52). ISET (R170). -/
def execIsetNeS32Compact (c : CCtl) (d a b : COpnd) (s : State) : Out :=
  result2 (.iset c.full .ne .s32 d.full a.full b.full) 4 (laneIset .ne .s32) s

/-- The compact form `ISET.lt.s32` (R52). ISET (R170). -/
def execIsetLtS32Compact (c : CCtl) (d a b : COpnd) (s : State) : Out :=
  result2 (.iset c.full .lt .s32 d.full a.full b.full) 4 (laneIset .lt .s32) s

/-- The compact form `ISET.le.s32` (R52). ISET (R170). -/
def execIsetLeS32Compact (c : CCtl) (d a b : COpnd) (s : State) : Out :=
  result2 (.iset c.full .le .s32 d.full a.full b.full) 4 (laneIset .le .s32) s

/-- The compact form `ISET.gt.s32` (R52). ISET (R170). -/
def execIsetGtS32Compact (c : CCtl) (d a b : COpnd) (s : State) : Out :=
  result2 (.iset c.full .gt .s32 d.full a.full b.full) 4 (laneIset .gt .s32) s

/-- The compact form `ISET.ge.s32` (R52). ISET (R170). -/
def execIsetGeS32Compact (c : CCtl) (d a b : COpnd) (s : State) : Out :=
  result2 (.iset c.full .ge .s32 d.full a.full b.full) 4 (laneIset .ge .s32) s

/-- The compact form `ISET.lt.z32` (R52). ISET (R170). -/
def execIsetLtZ32Compact (c : CCtl) (d a b : COpnd) (s : State) : Out :=
  result2 (.iset c.full .lt .z32 d.full a.full b.full) 4 (laneIset .lt .z32) s

/-- The compact form `ISET.ge.z32` (R52). ISET (R170). -/
def execIsetGeZ32Compact (c : CCtl) (d a b : COpnd) (s : State) : Out :=
  result2 (.iset c.full .ge .z32 d.full a.full b.full) 4 (laneIset .ge .z32) s

/-- The compact form `BFE.z32` (R52). BFE (R167). -/
def execBfeZ32Compact (c : CCtl) (d a b : COpnd) (s : State) : Out :=
  result2 (.bfe c.full .z32 d.full a.full b.full) 4 (laneBfe .z32) s

/-- The compact form `BFE.s32` (R52). BFE (R167). -/
def execBfeS32Compact (c : CCtl) (d a b : COpnd) (s : State) : Out :=
  result2 (.bfe c.full .s32 d.full a.full b.full) 4 (laneBfe .s32) s

/-- The compact form `POPC.z64` (R52). POPC (R168). -/
def execPopcZ64Compact (c : CCtl) (d a : COpnd) (s : State) : Out :=
  result1 (.popc c.full .z64 d.full a.full) 4 (lanePopc .z64) s

/-- The compact form `CLZ.z64` (R52). CLZ (R168). -/
def execClzZ64Compact (c : CCtl) (d a : COpnd) (s : State) : Out :=
  result1 (.clz c.full .z64 d.full a.full) 4 (laneClz .z64) s

end Sys2Proof.Machine
end

