-- ==== Sys2Proof/Machine/Splits.lean ====
section
/-! DEFINITION. Splits, join records and the scalar merge (R135 to R141), the lane call stack (R143), and strands (R120 to R124,
R133). -/

namespace Sys2Proof.Machine

/-! ## Division (R136 to R138) -/

/-- The identifiers that no split has, in ascending order. -/
def Bank.freeIds (b : Bank) : List Nat := (List.range 8).filter fun k => !b.splits.any fun x => x.id == k

/-- Splits in order of identifier. -/
def insertSplit (x : Split) : List Split → List Split
  | [] => [x]
  | y :: ys => if x.id < y.id then x :: y :: ys else y :: insertSplit x ys

/-- One piece of a division: its lanes and where it goes. -/
structure Piece where
  lanes : Lanes
  pc : DWord
  deriving Repr

/-- The splits that a division leaves (R136, R138): the piece that holds `keep` keeps the identifier, the others take the lowest
free ones in order; each has its own copy of the scalar file and an empty written mask, and one that does not fall through pays
the bubble (R93). DESIGN CHOICE (log entry 60): the spec does not say which of several new splits of a BRX or CALLX takes which
identifier; they are numbered in order of their lowest lane. -/
def pieceSplits (sp : Split) (sfile : Cells 32) (own : Bool) (rec_ : Nat) (keep clk : Nat) (next : DWord) :
    List Piece → List Nat → List Split
  | [], _ => []
  | p :: ps, ids =>
    let mine := p.lanes.has keep
    let id := if mine then sp.id else ids.headD 0
    let rest := if mine then ids else ids.tail
    { id := id, lanes := p.lanes, pc := p.pc, join := some rec_, sfile := sfile, written := 0, own := own, held := false
      last := clk, base := clk + 1, notBefore := if p.pc = next then sp.notBefore else clk + 4, waited := 0 }
      :: pieceSplits sp sfile own rec_ keep clk next ps rest

/-- The branches of a record that still have lanes: its splits and the records under it. -/
def Bank.branches (b : Bank) (r : JoinRec) : Nat :=
  (b.splits.filter fun x => x.join == some r.id).length + (b.recs.filter fun x => x.parent == some r.id).length

/-- A group holds at most seven records (R137). DESIGN CHOICE (log entry 51): lanes that exit can leave records with one branch behind, so
that a division would make an eighth; the oldest of those then gives way, as if its one branch had merged at it, and the
branch goes on under its parent. -/
def Bank.makeRoom (b : Bank) : Bank :=
  if b.recs.length < 7 then b
  else
    match b.recs.find? fun r => decide (b.branches r ≤ 1) with
    | none => b
    | some r =>
      { b with
        splits := b.splits.map fun x => if x.join = some r.id then { x with join := r.parent, written := x.written ||| r.baseMask } else x
        recs := (b.recs.filter fun x => x.id != r.id).map fun x =>
          if x.parent = some r.id then { x with parent := r.parent, baseMask := x.baseMask ||| r.baseMask } else x }

/-- A split divides (R137, R138). -/
def Group.divide (g : Group) (sp : Split) (pieces : List Piece) (join : DWord) (keep clk : Nat) (next : DWord) : Group :=
  let sfile := g.sfileOf sp
  let b := g.bk.makeRoom
  let sp := (b.split? sp.id).getD sp
  let r : JoinRec :=
    { id := b.nextRec, addr := join, expected := sp.lanes, arrived := 0, parent := sp.join, base := sfile
      baseMask := sp.written }
  let new := pieceSplits sp sfile g.hand.isSome r.id keep clk next pieces b.freeIds
  g.setBk { b with
    recs := b.recs ++ [r], nextRec := b.nextRec + 1
    splits := new.foldl (fun l x => insertSplit x l) (b.splits.filter fun x => x.id != sp.id) }

/-! ## Merging (R137, R139, R140) -/

/-- Lowest and highest lane of a split. -/
def Split.lowLane (sp : Split) : Nat := (sp.lanes.list 64).headD 64
def Split.highLane (sp : Split) : Nat := (sp.lanes.list 64).getLastD 0

/-- The split that is least under a measure. -/
def leastBy (f : Split → Nat) : List Split → Option Split
  | [] => none
  | x :: xs =>
    match leastBy f xs with
    | none => some x
    | some y => some (if f x ≤ f y then x else y)

/-- One register of the merged split (R140). -/
def mergeReg (mode : Nat) (base : Cells 32) (arrived : List Split) (n : Nat) : Word :=
  let w := arrived.filter fun sp => sp.written.getLsbD n
  match w with
  | [] => cellGet base n
  | [sp] => cellGet sp.sfile n
  | _ =>
    match mode with
    | 0 => match leastBy Split.lowLane w with | some sp => cellGet sp.sfile n | none => 0
    | 1 => match leastBy (fun sp => 64 - sp.highLane) w with | some sp => cellGet sp.sfile n | none => 0
    | 2 => cellGet base n
    | _ => w.foldl (fun v sp => v ||| cellGet sp.sfile n) 0

/-- The merged scalar file. -/
def mergeFile (mode : Nat) (base : Cells 32) (arrived : List Split) : Cells 32 :=
  cellSets [] ((List.range 64).map fun n => (n, mergeReg mode base arrived n))

/-- The union of the written masks. -/
def unionWritten (l : List Split) : BitVec 64 := l.foldl (fun m sp => m ||| sp.written) 0
def unionLanes (l : List Split) : Lanes := l.foldl (fun m sp => m ||| sp.lanes) 0

/-- The scalar file and written mask of a handler that is whole again go back to the user split that it serves (R335). DESIGN CHOICE (log entry
60): the merged file replaces what a user instruction in flight has written to the split's copy while the handler was divided. -/
def Group.returnScalars (g : Group) (sfile : Cells 32) (written : BitVec 64) : Group :=
  match g.servedSplit? with
  | some u => { g with bank := g.bank.setSplit { u with sfile := sfile, written := u.written ||| written } }
  | none => g

/-- One complete record, if there is one: every lane still expected has arrived. Its arrived splits merge, and the merged split
arrives at a parent with the same address at once (R137). -/
def Group.mergeOne (g : Group) (clk : Nat) : Option Group :=
  let b := g.bk
  match b.recs.find? fun r => r.expected == r.arrived with
  | none => none
  | some r =>
    let mine := b.splits.filter fun x => x.join == some r.id && x.held
    let recs := b.recs.filter fun x => x.id != r.id
    match leastBy (·.id) mine with
    | none => some (g.setBk { b with recs := recs })
    | some least =>
      let sfile := mergeFile (g.smerge.toNat % 4) r.base mine
      let written := unionWritten mine ||| r.baseMask
      let lanes := unionLanes mine
      let parent := r.parent.bind fun p => recs.find? fun x => x.id == p
      let again := parent.any fun p => p.addr == r.addr
      let root := g.hand.isSome && r.parent.isNone
      let merged : Split :=
        { least with
          lanes := lanes, join := r.parent, held := again, last := clk, base := clk + 1, waited := 0
          sfile := if root then [] else sfile
          written := if root then 0 else written
          own := g.hand.isSome && !root }
      let rest := b.splits.filter fun x => !(x.join == some r.id && x.held)
      let recs := if again then recs.map fun x => if some x.id == r.parent then { x with arrived := x.arrived ||| lanes } else x
                  else recs
      let last := if mine.any fun x => x.id == b.lastSplit then merged.id else b.lastSplit
      let g := g.setBk { b with recs := recs, splits := insertSplit merged rest, lastSplit := last }
      some (if root then g.returnScalars sfile (unionWritten mine) else g)

/-- Merges, one record after another; `fuel` counts the records. -/
def Group.mergeSome (g : Group) (clk : Nat) : Nat → Group
  | 0 => g
  | n + 1 =>
    match g.mergeOne clk with
    | none => g
    | some g => Group.mergeSome g clk n

/-- Every record that is complete merges, and those that this completes (R137). -/
def Group.mergeAll (g : Group) (clk : Nat) : Group := g.mergeSome clk g.bk.recs.length

/-- A split arrives at its innermost record, if a JOIN stands at that record's address (R137). -/
def Group.arrive (g : Group) (sp : Split) (here next : DWord) (clk : Nat) : Group :=
  let b := g.bk
  match sp.join.bind fun id => b.recs.find? fun r => r.id == id && r.addr == here with
  | none => g
  | some r =>
    let recs := b.recs.map fun x => if x.id = r.id then { x with arrived := x.arrived ||| sp.lanes } else x
    (g.setBk ({ b with recs := recs }.setSplit { sp with held := true, pc := next })).mergeAll clk

/-- Lanes end (R151): they leave their splits and every record. -/
def Group.endLanes (g : Group) (lanes : Lanes) (clk : Nat) : Group :=
  let b := g.bk
  let splits := (b.splits.map fun x => { x with lanes := x.lanes &&& ~~~lanes }).filter fun x => x.lanes != 0
  let recs := b.recs.map fun r => { r with expected := r.expected &&& ~~~lanes, arrived := r.arrived &&& ~~~lanes }
  ({ g.setBk { b with splits := splits, recs := recs } with
      alive := g.alive &&& ~~~lanes
      depth := (lanes.list 64).foldl (fun d l => cellSet d l 0) g.depth }).mergeAll clk

/-! ## The call stack (R143) -/

/-- Key of a byte of a lane slice. -/
def laneSliceKey (g : Group) (z lane off : Nat) : Nat := g.core * 2 ^ 19 + g.laneBase + lane * z + off

/-- The lane-slice size of a group's launch. -/
def State.sliceSize (s : State) (g : Group) : Nat := match s.launchOf g with | some l => l.lanez | none => 0

def Group.callDepth (g : Group) (l : Nat) : Nat := (cellGet g.depth l).toNat

/-- Each of some lanes pushes a return address. -/
def State.pushAll (s : State) (uid : Nat) (ret : DWord) (lanes : List Nat) : State :=
  lanes.foldl (fun s l =>
    match s.group? uid with
    | none => s
    | some g =>
      let z := s.sliceSize g
      let k := g.callDepth l
      (s.writeLoc (.scratch (laneSliceKey g z l (z - 8 * (k + 1)))) 8 ret.toNat).setGroup
        { g with depth := cellSet g.depth l (BitVec.ofNat 16 (k + 1)), pushed := cellSet g.pushed (l * 256 + k) ret }) s

/-- Where a lane's top entry stands in its lane slice, and its key. -/
def State.popOffset (s : State) (x : Issue) (l : Nat) : Nat := s.sliceSize x.g - 8 * x.g.callDepth l
def State.popKey (s : State) (x : Issue) (l : Nat) : Nat := laneSliceKey x.g (s.sliceSize x.g) l (s.popOffset x l)

/-- What a lane's RET pops: the lane slice's entry, or, where a store has changed a live entry, either it or the pushed one. -/
def State.popValue (s : State) (x : Issue) (l : Nat) : DWord :=
  let k := x.g.callDepth l - 1
  if x.bits.testBit l then BitVec.ofNat 64 (s.readLoc (.scratch (s.popKey x l)) 8) else cellGet x.g.pushed (l * 256 + k)

/-- The trap of a RET that reads poisoned entries of the lane slice (R248). A lane that the core's return buffer serves reads none there. -/
def State.popTrap (s : State) (x : Issue) : Option Trap :=
  match x.list.filter fun l => x.bits.testBit l && s.poisoned (.scratch (s.popKey x l)) 8 with
  | [] => none
  | ls => some (Trap.ofFaults (ls.map fun l => ⟨tcMem, 2, l, BitVec.ofNat 64 (s.popOffset x l), 0⟩))

/-- Lanes whose push would reach below offset 0. -/
def State.pushBad (s : State) (x : Issue) : List Nat :=
  x.list.filter fun l => decide (s.sliceSize x.g < 8 * (x.g.callDepth l + 1))

/-! ## Branches (R41, R93, R402) -/

/-- A trap over some lanes with the target of the lowest of them (R402). -/
def laneTrap (code : BitVec 8) (ls : List Nat) (target : Nat → DWord) : Trap :=
  Trap.one code (ls.foldl (fun m l => m ||| Lanes.single l) 0) (match ls with | l :: _ => target l | [] => 0)

/-- The checks of targets over the lanes that go to them: bits [63:56], then alignment. -/
def targetTrap (ls : List Nat) (target : Nat → DWord) : Option Trap :=
  match ls.filter fun l => (target l).extractLsb' 56 8 != 0 with
  | l :: r => some (laneTrap tcAddress (l :: r) target)
  | [] =>
    match ls.filter fun l => (target l).extractLsb' 0 2 != 0 with
    | l :: r => some (laneTrap tcAlign (l :: r) target)
    | [] => none

/-- The split goes to a target, with the bubble of R93 unless it is the next instruction. -/
def State.branchTo (s : State) (x : Issue) (pc : DWord) : State :=
  s.modGroup x.g.uid fun g =>
    match g.bk.split? x.sp.id with
    | none => g
    | some sp =>
      g.setBk (g.bk.setSplit { sp with pc := pc, notBefore := if pc = x.nextPc then sp.notBefore else s.clkOf g.core + 4 })

/-- Whether the guard holds in every lane of the split; none where it holds in some only (R145). -/
def Issue.uniformGuard (x : Issue) : Option Bool := if x.lanes = x.sp.lanes then some true else if x.lanes = 0 then some false else none

/-- The lanes of a split by destination, in order of lowest lane. -/
def fanOut (ls : List Nat) (dest : Nat → DWord) : List Piece :=
  ls.foldl (fun ps l =>
    if ps.any fun p => p.pc == dest l then ps.map fun p => if p.pc == dest l then { p with lanes := p.lanes ||| Lanes.single l } else p
    else ps ++ [{ lanes := Lanes.single l, pc := dest l }]) []

/-- The effect of BRX and CALLX (R147, R148): one destination is a plain branch, more make a division. -/
def State.fan (s : State) (x : Issue) (dest : Nat → DWord) (join : DWord) (keep : Nat) : State :=
  let s := s.finish x
  match fanOut x.splitList dest with
  | [p] => s.branchTo x p.pc
  | ps =>
    s.modGroup x.g.uid fun g =>
      match g.bk.split? x.sp.id with
      | some sp => g.divide sp ps join keep (s.clkOf g.core) x.nextPc
      | none => g

/-- Check 1 of BRX and CALLX (R402). -/
def fanBad (x : Issue) (dest : Nat → DWord) (join : DWord) : Bool :=
  let n := (fanOut x.splitList dest).length
  decide (1 < n) && (join == 0 || decide (8 < x.g.bk.splits.length - 1 + n))

/-! ## Strands (R120 to R124, R133, R142) -/

/-- A range of a liveness entry, if it is valid (R120). -/
def rangeOf (r : BitVec 64) (bridle : Bool) : Option (Nat × Nat) :=
  let off := fieldN r 0 20
  let len := fieldN r 32 21
  if fieldN r 20 12 == 0 && fieldN r 53 11 == 0 && off % 4 == 0 && len % 4 == 0 && decide (4 ≤ len) &&
      decide (off % 2 ^ 19 + len ≤ 2 ^ 19) && (decide (off < 2 ^ 19) || bridle) then some (off, len)
  else none

/-- A liveness entry, if it keeps R120. -/
def liveOf (e : BitVec 640) (bridle : Bool) : Option Live :=
  let n := (e.extractLsb' 337 3).toNat
  let r (k : Nat) : BitVec 64 := e.extractLsb' (384 + 64 * k) 64
  let used := (List.range n).map fun k => rangeOf (r k) bridle
  if 4 < n || e.extractLsb' 340 44 != 0 || used.any (·.isNone) ||
      (List.range 4).any (fun k => decide (n ≤ k) && r k != 0) then none
  else
    some { dmask := e.extractLsb' 0 256, smask := e.extractLsb' 256 64, tmask := e.extractLsb' 320 16
           replay := e.getLsbD 336, ranges := used.filterMap id }

/-- Where an entry of an image's liveness table stands (R279). -/
def Launch.entryAddr (l : Launch) (index : Nat) : Nat := l.image.addr + l.image.liveOff + 80 * index

/-- STRAND has read its entry (R245). -/
def State.touchEntry (s : State) (x : Issue) (index : Nat) : State :=
  match s.launchOf x.g with | some l => s.touch l.asid (l.entryAddr index) 80 | none => s

/-- What STRAND's checks find (R121, R133): the entry, or the trap. An entry that cannot be read raises the failure of the read. -/
def State.strandEntry (s : State) (x : Issue) (index : Nat) : Except Trap Live :=
  match s.launchOf x.g, s.teamOf x.g with
  | some l, some t =>
    if l.image.liveCnt ≤ index then .error (x.trap tcModifier)
    else
      let a := l.entryAddr index
      match s.vreads t.asid a 10 with
      | .error c => .error (Trap.one c x.sp.lanes (BitVec.ofNat 64 a) 2)
      | .ok bs =>
        match liveOf (BitVec.ofNat 640 (leValue bs)) t.bridle with
        | none => .error (x.trap tcModifier)
        | some e =>
          if (e.dmask >>> x.g.dslots) != 0 then .error (x.trap tcOperand)
          else if 1 < x.g.bank.splits.length then .error (x.trap tcConvergence)
          else .ok e
  | _, _ => .error (x.trap tcModifier)

/-- What a STRAND records (R125, R133, R142). -/
def Group.recordStrand (g : Group) (e : Live) (index : Nat) (pc : DWord) : Group :=
  { g with
    strand := { entry := e, index := index, pc := pc, count := 0, lanes := g.alive, recs := g.bank.recs
                innermost := match g.bank.splits with | sp :: _ => sp.join | [] => none
                depths := g.depth, overrun := false } }

/-- A terminator takes its group out of its slot (R122, R123, R217). -/
def State.leaveAtTerminator (s : State) (uid : Nat) (place : Place) : State :=
  match s.group? uid with
  | none => s
  | some g => s.leaveSlot g place

end Sys2Proof.Machine
end

