-- ==== Sys2Proof/Machine/Scratch.lean ====
section
/-! DEFINITION. Where an address of each space leads, and the checks on the way (R204 to R215, R235, R246, R251). -/

namespace Sys2Proof.Machine

/-! ## Scratch addresses (R209 to R213) -/

/-- What a scratch address resolves to: its location, or the code of the first check that fails. -/
abbrev Resolved := Except (BitVec 8) Loc

/-- A lane-slice address (R209). -/
def laneLoc (g : Group) (z lane a n : Nat) : Resolved :=
  if 2 ^ 12 ≤ a then .error tcAddress
  else if a % n != 0 then .error tcAlign
  else if z < a + n then .error tcAddress
  else .ok (.scratch (laneSliceKey g z lane a))

/-- Whether a team has an allotment on a core, and where it begins there. -/
def Team.onCore (t : Team) (core : Nat) : Bool := t.core == core || (t.bridle && t.core + 1 == core)
def Team.baseOn (t : Team) (core : Nat) : Nat := if t.core = core then t.base else t.base2

/-- The size of a team's allotment on each of its cores. -/
def State.tscrOf (s : State) (t : Team) : Nat := match s.launch? t.launch with | some l => l.tscr | none => 0

/-- The earliest placed of some teams. -/
def earliest : List Team → Option Team
  | [] => none
  | t :: ts =>
    match earliest ts with
    | none => some t
    | some u => some (if t.placed ≤ u.placed then t else u)

/-- The allotment that a remote address resolves against (R211). -/
def State.remoteTeam (s : State) (t : Team) (core : Nat) : Option Team :=
  let there := ((s.teams.map (·.2)).filter fun u => u.onCore core && !u.released)
  match earliest (there.filter fun u => u.launch == t.launch) with
  | some u => some u
  | none => earliest (there.filter fun u => u.asid == t.asid)

/-- A core-scratchpad address, as a team uses it on one of its cores (R210, R211, R213): `bytes` bytes from the address, each
access of `n` bytes; `near` where only a local address is allowed. -/
def State.coreLoc (s : State) (t : Team) (core a n bytes : Nat) (near : Bool) : Resolved :=
  let off := a % 2 ^ 19
  let half := a / 2 ^ 19 % 2
  let remote := a / 2 ^ 27 % 2
  if a / 2 ^ 28 != 0 || a / 2 ^ 20 % 16 != 0 || (half = 1 && !t.bridle) || (half = 1 && remote = 1) || (remote = 1 && near) then
    .error tcAddress
  else if a % n != 0 then .error tcAlign
  else
    let target := core / 8 * 8 + a / 2 ^ 24 % 8
    if remote = 1 && target != core then
      if !s.coreMask.getLsbD target then .error tcRemote
      else
        match s.remoteTeam t target with
        | none => .error tcRemote
        | some u => if s.tscrOf u < off + bytes then .error tcAddress else .ok (.scratch (target * 2 ^ 19 + u.baseOn target + off))
    else
      let c := if half = 0 then core else if core = t.core then t.core + 1 else t.core
      if s.tscrOf t < off + bytes then .error tcAddress else .ok (.scratch (c * 2 ^ 19 + t.baseOn c + off))

/-- A pool address (R212). -/
def State.poolLoc (s : State) (t : Team) (core a n bytes : Nat) : Resolved :=
  if 2 ^ 26 ≤ a then .error tcAddress
  else if a % n != 0 then .error tcAlign
  else
    match s.launch? t.launch with
    | none => .error tcAddress
    | some l =>
      match tabGet? l.regions (core / 8) with
      | none => .error tcAddress
      | some base =>
        let off := a % 2 ^ 23
        if l.pool < off + bytes then .error tcAddress
        else .ok (.pool ((core / 8 * 8 + a / 2 ^ 23 % 8) * 2 ^ 23 + base + off))

/-- The location of a team's core or pool address. -/
def State.teamLoc (s : State) (t : Team) (core : Nat) (sp : Space) (a n bytes : Nat) (near : Bool) : Resolved :=
  match sp with
  | .pool => s.poolLoc t core a n bytes
  | _ => s.coreLoc t core a n bytes near

/-! ## One lane's access (R250, R251) -/

/-- Where a lane's access goes: the location and the lease class. -/
structure Target where
  loc : Loc
  lcls : Nat
  /-- The size in bits of the page that it was translated by. -/
  bits : Nat
  deriving DecidableEq, Repr

/-- What an access needs, and the ACCESS of its faults (R239, R332). -/
structure AccNeed where
  need : Need
  access : BitVec 3
  natural : Bool

def needLoad : AccNeed := ⟨.read, 2, false⟩
def needStore : AccNeed := ⟨.write, 3, false⟩
def needAtom : AccNeed := ⟨.both, 4, true⟩

/-- A .glob access of a lane (R235, R246, R239): ADDRESS, ALIGN, then translation. DESIGN CHOICE (log entry 34): an ADDRESS or ALIGN fault has
found no page, and the 64 KiB unit of its address stands for one in the sharing of records. -/
def State.globTarget (s : State) (g : Group) (hand : Bool) (lane va n : Nat) (w : AccNeed) : Except LaneFault Target × State :=
  let bad (code : BitVec 8) (access : BitVec 3) (page : Nat) : LaneFault := ⟨code, access, lane, BitVec.ofNat 64 va, page⟩
  if 2 ^ 56 ≤ va then (.error (bad tcAddress w.access (pageKey 16 va)), s)
  else if (w.natural && va % n != 0) || 128 < va % 128 + n then (.error (bad tcAlign w.access (pageKey 16 va)), s)
  else
    let r := s.xlate g.core (s.asidOf g) va w.need hand
    match r.1 with
    | .ok pa lcls _ _ _ => (.ok ⟨.glob pa, lcls, r.2.pageBits g.core (s.asidOf g) va⟩, r.2)
    | .fault c table bits => (.error (bad c (if table then 6 else w.access) (pageKey bits va)), r.2)

/-- A lane's access in any space. -/
def State.target (s : State) (g : Group) (hand : Bool) (sp : Space) (lane a n : Nat) (w : AccNeed) : Except LaneFault Target × State :=
  match sp with
  | .glob => s.globTarget g hand lane a n w
  | sp =>
    let r : Resolved :=
      match sp, s.teamOf g with
      | .lane, _ => laneLoc g (s.sliceSize g) lane a n
      | sp, some t => s.teamLoc t g.core sp a n n false
      | _, none => .error tcAddress
    match r with
    | .ok loc => (.ok ⟨loc, 3, 16⟩, s)
    | .error c => (.error ⟨c, w.access, lane, BitVec.ofNat 64 a, 0⟩, s)

/-- The targets and the faults of the lanes, in ascending order. -/
def State.targets (s : State) (g : Group) (hand : Bool) (sp : Space) (n : Nat) (w : AccNeed) :
    List (Nat × Nat) → List (Nat × Nat × Target) × List LaneFault × State
  | [] => ([], [], s)
  | (l, a) :: rest =>
    let r := s.target g hand sp l a n w
    let q := State.targets r.2 g hand sp n w rest
    match r.1 with
    | .ok t => ((l, a, t) :: q.1, q.2.1, q.2.2)
    | .error f => (q.1, f :: q.2.1, q.2.2)

/-- The address that a lane of a memory instruction forms (R250): read field `k` is the base, read field `o` the offset. -/
def State.laneAddr (s : State) (x : Issue) (sp : Space) (k : Nat) (o : Option Nat) (l : Nat) : Nat :=
  let off : DWord := match o with | some o => s.src x o l | none => 0
  match sp with
  | .glob => (s.src x k l + (w32 off).signExtend 64).toNat
  | _ => (w32 (s.src x k l) + w32 off).toNat

/-! ## Banks (R214, R215) -/

/-- The words, with their banks, of one lane's access to its group's own scratchpads; none where it goes elsewhere. -/
def ownWords (g : Group) (t : Team) (sp : Space) (lane a n : Nat) (loc : Loc) : List (Nat × Nat) :=
  (List.range ((n + 3) / 4)).filterMap fun i =>
    match sp, loc with
    | .lane, _ => some (g.core * 64 + (lane + a / 4 + i) % 64, 2 ^ 32 + lane * 2 ^ 10 + a / 4 + i)
    | _, .scratch k =>
      if k / 2 ^ 19 == g.core || t.onCore (k / 2 ^ 19) then some (k / 2 ^ 19 * 64 + (k / 4 + i) % 64, k / 4 + i) else none
    | _, _ => none

/-- What lanes' words, given with their lane and bank, ask of each bank. -/
def asksOf (ws : List (Nat × Nat × Nat)) : List BankAsk :=
  ((ws.map (·.2.1)).eraseDups).map fun b =>
    let mine := ws.filter fun w => w.2.1 == b
    { bank := b, early := mine.any fun w => decide (w.1 < 32), words := ((mine.map (·.2.2)).eraseDups).length }

/-- What an access asks of the banks of its group's own scratchpads. -/
def State.bankAsks (s : State) (g : Group) (sp : Space) (n : Nat) (ts : List (Nat × Nat × Target)) : List BankAsk :=
  match sp, s.teamOf g with
  | .glob, _ | .pool, _ | _, none => []
  | sp, some t => asksOf (ts.flatMap fun (e : Nat × Nat × Target) => (ownWords g t sp e.1 e.2.1 n e.2.2.loc).map fun w => (e.1, w))

/-- The clk at which a scratch access of its own core or bridle half completes where it waits for nothing (R215, R223): none where it asks
nothing of them. -/
def State.scratchDue (s : State) (x : Issue) (sp : Space) (n : Nat) (ts : List (Nat × Nat × Target)) : Option Nat :=
  match s.bankAsks x.g sp n ts with
  | [] => none
  | as => some (s.clkOf x.g.core + x.queueDelay + 23 + as.foldl (fun m a => max m a.words) 1)

end Sys2Proof.Machine
end

