-- ==== Sys2Proof/Machine/Access.lean ====
section
/-! DEFINITION. Outstanding accesses (R243 to R246, R257 to R265): how an access is sent, when a part of it may be performed and what
that does, the release part of a fence, and how an access completes. -/

namespace Sys2Proof.Machine

/-! ## Sending (R246, R251) -/

/-- Bytes of a memory type (R252). -/
def tySize : Ty → Nat
  | .z8 | .s8 => 1
  | .z16 | .s16 => 2
  | .z64 | .s64 => 8
  | _ => 4

/-- A loaded element, sign- or zero-extended (R252). -/
def extendTy (ty : Ty) (v : DWord) : DWord :=
  match ty with
  | .z8 => (v.extractLsb' 0 8).setWidth 64
  | .s8 => ofW ((v.extractLsb' 0 8).signExtend 32)
  | .z16 => (v.extractLsb' 0 16).setWidth 64
  | .s16 => ofW ((v.extractLsb' 0 16).signExtend 32)
  | .z64 | .s64 => v
  | _ => ofW (w32 v)

/-- The parts of one lane's access: one, or a byte each where a .glob access is misaligned (R246). -/
def unitsOf (n : Nat) (data cmp : Nat → DWord) (e : Nat × Nat × Target) : List AccUnit :=
  let l := e.1
  let a := e.2.1
  match e.2.2.loc with
  | .glob pa =>
    if a % n = 0 then
      [{ lane := l, off := 0, size := n, va := a, loc := .glob pa, lcls := e.2.2.lcls, data := data l, cmp := cmp l,
         performed := false, ret := 0, poisoned := false, bits := e.2.2.bits }]
    else
      (List.range n).map fun i =>
        { lane := l, off := i, size := 1, va := a + i, loc := .glob (pa + i), lcls := e.2.2.lcls, data := data l >>> (8 * i)
          cmp := 0, performed := false, ret := 0, poisoned := false, bits := e.2.2.bits }
  | loc =>
    [{ lane := l, off := 0, size := n, va := a, loc := loc, lcls := 3, data := data l, cmp := cmp l, performed := false
       ret := 0, poisoned := false }]

/-- A fully coalesced access (R246): 32 lanes, 4 bytes each, covering one aligned line. -/
def isCoalesced (x : Issue) (sp : Space) (n : Nat) (ts : List (Nat × Nat × Target)) : Bool :=
  sp == .glob && x.g.width == 32 && n == 4 && ts.length == 32 &&
    (ts.all fun e => e.2.1 % 4 == 0 && e.2.1 / 128 == (ts.headD (0, 0, ⟨.glob 0, 0, 16⟩)).2.1 / 128) &&
    (ts.map (·.2.1)).eraseDups.length == 32

/-- The addresses of some lanes. -/
def State.laneAddrs (s : State) (x : Issue) (sp : Space) (o : Option Nat) (lanes : List Nat) : List (Nat × Nat) :=
  lanes.map fun l => (l, s.laneAddr x sp 0 o l)

/-- A core's copy of a line goes (R244). -/
def State.dropCopy (s : State) (core line : Nat) : State :=
  { s with copies := s.copies.filter fun c => !(c.core == core && c.line == line) }

/-- A store or atomic removes its lines from its own core's data cache at issue (R244, R245). -/
def State.dropCopies (s : State) (core : Nat) (us : List AccUnit) : State :=
  us.foldl (fun s u => match u.loc with | .glob pa => s.dropCopy core (pa / 128) | _ => s) s

/-! ## The data cache (R243, R261) -/

/-- Length in ns of a lease class; class 3 is never cached. -/
def leaseNs : Nat → Nat
  | 0 => 256 | 1 => 2000 | 2 => 16000 | _ => 0

/-- A copy that a load of `n` bytes by a group may hit: its lease has not expired, its grant is at or after the acquire mark, and no store of
the group to those bytes has been performed since (R243, R244, R262). A line of class 3 is never cached. -/
def State.hitCopy? (s : State) (g : Group) (pa n lcls : Nat) : Option Copy :=
  if 3 ≤ lcls then none
  else
    s.copies.find? fun c =>
      c.core == g.core && c.line == pa / 128 && decide (now s < c.expiry) && decide (g.acquire ≤ c.grant) &&
        !(c.stale.any fun e => e.1 == g.uid && decide (pa % 128 ≤ e.2) && decide (e.2 < pa % 128 + n))

/-- A group's store of `n` bytes has been performed: its core's copy of the line, granted since the store issued, is out of date for the
group there (R244, R262). -/
def State.staleCopy (s : State) (g : Group) (pa n : Nat) : State :=
  { s with copies := s.copies.map fun c =>
      if c.core == g.core && c.line == pa / 128 then
        { c with stale := c.stale ++ (List.range n).map fun i => (g.uid, pa % 128 + i) }
      else c }

/-- The least recently used of some copies. -/
def lruCopy : List Copy → Option Copy
  | [] => none
  | c :: cs =>
    match lruCopy cs with
    | none => some c
    | some d => some (if c.used ≤ d.used then c else d)

/-- A miss grants a lease and leaves a copy; a full cache evicts its least recently used line (R243). -/
def State.grantCopy (s : State) (core line lcls : Nat) : State :=
  if 3 ≤ lcls then s
  else
    let expiry := now s + leaseNs lcls
    let s := s.dropCopy core line
    let mine := s.copies.filter fun c => c.core == core
    let s :=
      if mine.length < 2048 then s
      else match lruCopy mine with | some c => s.dropCopy core c.line | none => s
    { s with
      copies := s.copies ++
        [{ core := core, line := line, bytes := readBytes s.dram (line * 128) 128, grant := now s, expiry := expiry, used := s.clkOf core }]
      leases := tabSet s.leases line (max (tabGetD s.leases line 0) expiry) }

/-- What a performed part read and returned. -/
structure Done where
  val : DWord
  poisoned : Bool
  ret : Nat
  s : State

/-- A .glob load (R261). -/
def State.loadGlob (s : State) (g : Group) (pa n lcls : Nat) (miss : Bool) : Done :=
  let line := pa / 128
  let core := g.core
  match if miss then none else s.hitCopy? g pa n lcls with
  | some c =>
    { val := BitVec.ofNat 64 (leValue ((c.bytes.drop (pa % 128)).take n)), poisoned := false, ret := 0
      s := { s with copies := s.copies.map fun d => if d.core == core && d.line == line then { d with used := s.clkOf core } else d } }
  | none =>
    if s.poisonLines.contains line then ⟨0, true, 0, s⟩
    else
      let s := s.recall line
      ⟨BitVec.ofNat 64 (readNat s.dram pa n), false, 0, s.grantCopy core line lcls⟩

/-- Whether a partial is of another operation or type on some of the bytes of an update. -/
def Partial.clashes (p : Partial) (pa : Nat) (ty : Ty) (op : AtomOp) : Bool :=
  decide (p.addr < pa + atomSize ty) && decide (pa < p.addr + atomSize p.ty) && !(p.addr == pa && p.op == op && p.ty == ty)

/-- ATOMR.glob (R245): the core combines the update into its partial of the word; a partial of another operation or type on the same
bytes is returned first. The grant's completion time is that of a write. No load hits the line while the core holds it so: a copy granted
since the ATOMR issued goes. -/
def State.updateOnly (s : State) (core pa : Nat) (ty : Ty) (op : AtomOp) (b : DWord) : Done :=
  let s := (if s.partials.any (fun p => p.clashes pa ty op) then s.recall (pa / 128) else s).dropCopy core (pa / 128)
  let mine (p : Partial) : Bool := p.core == core && p.addr == pa
  let parts :=
    if s.partials.any mine then
      s.partials.map fun p => if mine p then { p with val := atomNew op ty p.val b 0 } else p
    else s.partials ++ [{ core := core, addr := pa, op := op, ty := ty, val := fit ty b }]
  ⟨0, false, s.writeTime pa, { s with partials := parts }⟩

/-- A part of an access is performed at its cache, home or bank (R252, R254, R261, R264). -/
def State.performAt (s : State) (g : Group) (a : Access) (u : AccUnit) : Done :=
  match u.loc, a.kind with
  | .glob pa, .load _ => s.loadGlob g pa u.size u.lcls a.pref
  | .glob pa, .store _ =>
    let w := s.homeWrite pa u.size u.data.toNat
    ⟨0, false, w.1, w.2.staleCopy g pa u.size⟩
  | .glob pa, .atom ty op returns =>
    if s.poisonLines.contains (pa / 128) then ⟨0, true, 0, s⟩
    else if returns then
      let r := s.homeAtom pa ty op u.data u.cmp
      ⟨r.1, false, r.2.1, r.2.2⟩
    else s.updateOnly g.core pa ty op u.data
  | loc, .load _ =>
    if s.poisoned loc u.size then ⟨0, true, 0, s⟩ else ⟨BitVec.ofNat 64 (s.readLoc loc u.size), false, 0, s⟩
  | loc, .store _ => ⟨0, false, 0, s.writeLoc loc u.size u.data.toNat⟩
  | loc, .atom ty op _ =>
    if s.poisoned loc u.size then ⟨0, true, 0, s⟩
    else
      let old : DWord := BitVec.ofNat 64 (s.readLoc loc u.size)
      ⟨old, false, 0, s.writeLoc loc u.size (atomNew op ty old u.data u.cmp).toNat⟩

/-! ## When a part may be performed (R252, R254, R260, R265) -/

/-- Whether two spans share a byte. -/
def Loc.overlaps (a : Loc) (n : Nat) (b : Loc) (m : Nat) : Bool :=
  match a, b with
  | .glob p, .glob q => decide (p < q + m) && decide (q < p + n)
  | .scratch p, .scratch q => decide (p < q + m) && decide (q < p + n)
  | .pool p, .pool q => decide (p < q + m) && decide (q < p + n)
  | _, _ => false

/-- Whether an outstanding operation has still to perform an access that touches a span. -/
def Op.touches (o : Op) (loc : Loc) (n : Nat) : Bool :=
  match o.job with
  | .access a => a.units.any fun u => !u.performed && u.loc.overlaps u.size loc n
  | .attempt _ _ pa .. => Loc.overlaps (.glob pa) 16 loc n
  | .almanac _ pa .. => Loc.overlaps (.glob pa) 64 loc n
  | .wstat pa _ => Loc.overlaps (.glob pa) 8 loc n
  | _ => false

/-- Whether a location is the group's own scratchpad or its bridle half. -/
def ownLoc (g : Group) (bridle : Bool) (loc : Loc) : Bool :=
  match loc with
  | .scratch k => k / 2 ^ 19 == g.core || (bridle && k / 2 ^ 20 == g.core / 2)
  | _ => false

def Loc.isGlob : Loc → Bool
  | .glob _ => true
  | _ => false

/-- Whether a fence of a scope waits for an earlier access (R255). -/
def Access.awaited (a : Access) (g : Group) (bridle : Bool) (scope : Scope) : Bool :=
  let wide := match scope with | .group | .team => false | _ => true
  match a.kind with
  | .load _ => true
  | .atom _ _ true => true
  | .atom _ _ false => wide || a.units.any fun u => ownLoc g bridle u.loc
  | .store _ => wide || a.units.any fun u => u.loc.isGlob || ownLoc g bridle u.loc

/-- Whether a fence of a scope waits for a matrix instruction that stores to scratchpad (R255). -/
def MatJob.awaited (m : MatJob) (g : Group) (bridle : Bool) (scope : Scope) : Bool :=
  let wide := match scope with | .group | .team => false | _ => true
  !m.writes.isEmpty && (wide || m.writes.any fun w => ownLoc g bridle (.scratch w.key))

/-- Whether a fence of a scope waits for an engine operation (R255). -/
def Thread.awaited (t : Thread) (scope : Scope) : Bool :=
  match scope with
  | .group | .team => false
  | .cluster => t.src != .glob && t.dst != .glob
  | _ => true

/-- The release step for what issued before operation `uid` (R265): device time has reached %horizon, and every earlier access and
engine operation within the scope has completed; WSTAT's read of its counter is a load (R365). -/
def State.releaseMet (s : State) (g : Group) (uid : Nat) (scope : Scope) : Bool :=
  let bridle := match s.teamOf g with | some t => t.bridle | none => false
  decide (g.horizon ≤ now s) &&
    (s.ops.all fun o =>
      !(o.grp == g.uid && decide (o.uid < uid)) ||
        (match o.job with
         | .access a => !a.awaited g bridle scope
         | .matrix m => !m.awaited g bridle scope
         | _ => !(o.instr matches .wstat ..))) &&
    (s.threads.all fun t => !(t.grp == g.uid && decide (t.uid < uid)) || !t.awaited scope)

/-- R260: every earlier access to the same bytes has been performed, every earlier LD.acq and FENCE has completed; a store's lanes
write in ascending order (R252); the release part has been done (R252, R254), once for all its lanes. -/
def State.mayPerform (s : State) (o : Op) (g : Group) (a : Access) (i : Nat) (u : AccUnit) : Bool :=
  !u.performed &&
    (s.ops.all fun p =>
      !(p.grp == o.grp && decide (p.uid < o.uid)) ||
        (!p.touches u.loc u.size &&
          (match p.job with | .access b => !b.acq | .fence .. => false | _ => true))) &&
    (match a.kind, a.cb with
     | .store _, none => (a.units.take i).all fun v => v.performed || !v.loc.overlaps v.size u.loc u.size
     | _, _ => true) &&
    (match a.release with | some sc => !(a.kind matches .store _) && s.releaseMet g o.uid sc | none => true)

/-! ## Performing (R253, R259, R262) -/

/-- A destination whose lanes have a register each. -/
def Dest.perLane (d : Dest) : Bool := d.op.lvl == .d || d.op.lvl == .n || d.predicate

/-- A lane's gathered element as its W entry holds it (R393). -/
def Dest.element (d : Dest) (v : DWord) : DWord := if d.predicate then boolD (w32 v != 0) else if d.wide then v else ofW (w32 v)

/-- The W entry of one lane of an LDX that REPLAY has sent again holds its element as soon as that has landed (R393). -/
def landElement (o : Op) (d : Dest) (l : Nat) (win : Tab (List WEntry)) : Tab (List WEntry) :=
  win.map fun e =>
    if e.1 = l then
      (e.1, e.2.map fun w => if w.tag == o.uid && !w.done then { w with done := true, val := d.element (cellGet o.vals l) } else w)
    else e

/-- A lane of a gather or scatter is marked: its element is in its destination, and its bit is set (R253). -/
def State.markLane (s : State) (o : Op) (again : Bool) (cb l : Nat) : State :=
  let s := s.modGroup o.grp fun g =>
    { g with
      cb := cellSet g.cb cb (cellGet g.cb cb ||| Lanes.single l)
      gathered := cellSet g.gathered (cb * 64 + l) (cellGet o.vals l) }
  let s := s.modGroup o.grp fun g =>
    match o.dest with
    | some d =>
      if again && d.shift && o.near g then g.modBank o.hand fun b => { b with win := landElement o d l b.win } else g
    | none => g
  match o.dest with
  | none => s
  | some d =>
    if d.perLane || (o.lanes.list 64).head? = some l then
      s.landResult { o with lanes := Lanes.single l, dest := some { d with shift := false } }
    else s

/-- Whether a part of an access reads its core's own copy, or joins an update-only line that its core holds, so that nothing of it reaches the
home (R245, R261). -/
def State.hitsCopy (s : State) (g : Group) (a : Access) (u : AccUnit) : Bool :=
  match u.loc, a.kind with
  | .glob pa, .load _ => !a.pref && (s.hitCopy? g pa u.size u.lcls).isSome
  | .glob pa, .atom ty op false =>
    (s.partials.any fun p => p.core == g.core && p.addr / 128 == pa / 128) && !(s.partials.any fun p => p.clashes pa ty op)
  | _, _ => false

/-- The meters count a part of an access (R379): at its core's scratchpad or cache, and below, where an update-only line is granted and
returned by one access each. The matter of a remote core's banks is `State.takeBank`'s. -/
def State.meterUnit (s : State) (g : Group) (a : Access) (u : AccUnit) (hit : Bool) : State :=
  match u.loc with
  | .scratch k =>
    let s := s.meter g.core g.team .scratch 1
    if k / 2 ^ 19 = g.core || (match s.teamOf g with | some t => t.onCore (k / 2 ^ 19) | none => false) then s else s.takeBank k
  | .pool k => s.meterSlice g.team (.pool k)
  | .glob pa =>
    let s := s.meter g.core g.team .cache 1
    if hit then s
    else
      let s := s.meterSlice g.team (.glob pa)
      match a.kind with | .atom _ _ false => s.meterSlice g.team (.glob pa) | _ => s

/-- One part of an access is performed. -/
def State.performUnit (s : State) (uid i : Nat) : State :=
  match s.op? uid with
  | none => s
  | some o =>
    match o.job, s.group? o.grp with
    | .access a, some g =>
      match a.units[i]? with
      | none => s
      | some u =>
        let d := s.performAt g a u
        let t := d.s.meterUnit g a u (s.hitsCopy g a u)
        let units := a.units.set i { u with performed := true, ret := d.ret, poisoned := d.poisoned }
        let a' := { a with units := units, release := none }
        let whole := a'.laneDone u.lane
        let bad := units.any fun v => v.lane == u.lane && v.poisoned
        let raw := if d.poisoned then cellGet o.vals u.lane else cellGet o.vals u.lane ||| (d.val <<< (8 * u.off))
        let v := match a.kind with | .load ty => if whole then extendTy ty raw else raw | _ => raw
        let o' := { o with job := .access a', vals := cellSet o.vals u.lane v }
        let s := (t.setOp o').modGroup o.grp fun g => { g with horizon := max g.horizon d.ret }
        match a.cb with
        | some cb => if whole && !bad then s.markLane o' a.again cb u.lane else s
        | none => s
    | _, _ => s

/-- A coalesced store of a whole line clears its poison (R248). -/
def State.clearPoison (s : State) (a : Access) : State :=
  match a.kind, a.units with
  | .store _, u :: _ =>
    match u.loc with
    | .glob pa => { s with poisonLines := s.poisonLines.filter fun l => l != pa / 128 }
    | _ => s
  | _, _ => s

/-- A coalesced load reads one version of its line (R246): where a part of it misses the copy, all of it does. -/
def State.oneLine (s : State) (uid : Nat) (a : Access) : State :=
  match (s.op? uid).bind fun o => s.group? o.grp with
  | some g => if a.kind matches .load _ && a.units.any fun u => !s.hitsCopy g a u then s.dropCopies g.core a.units else s
  | none => s

/-- All parts of a coalesced access are performed as one step (R246). -/
def State.performAll (s : State) (uid : Nat) (a : Access) : State :=
  ((List.range a.units.length).foldl (fun s i => s.performUnit uid i) (s.oneLine uid a)).clearPoison a

/-! ## Completing (R90, R243, R244, R248, R259) -/

/-- Whether an access may complete: every part performed, its clk reached, and, for a .glob store or an ATOM, device time at every
completion time returned. -/
def State.accessOver (s : State) (o : Op) (a : Access) : Bool :=
  (a.units.all (·.performed)) &&
    s.opDue o &&
    (match a.kind with
     | .load _ | .atom _ _ false => true
     | _ => a.units.all fun u => decide (u.ret ≤ now s))

/-- The lanes that met poisoned data. -/
def Access.badLanes (a : Access) : Lanes :=
  a.units.foldl (fun m u => if u.poisoned then m ||| Lanes.single u.lane else m) 0

/-- Their faults, in ascending order of lane. -/
def Access.badFaults (a : Access) : List LaneFault :=
  let access : BitVec 3 := match a.kind with | .load _ => 2 | .store _ => 3 | .atom .. => 4
  (Lanes.list a.badLanes 64).filterMap fun l =>
    (a.units.find? fun u => u.lane == l && u.poisoned).map fun u =>
      ⟨tcMem, access, l, BitVec.ofNat 64 u.va, if u.loc.isGlob then pageKey u.bits u.va else 0⟩

/-- Only the W entries of an operation land; its other destinations were written lane by lane (R253). -/
def State.landWindow (s : State) (o : Op) : State :=
  s.modGroup o.grp fun g =>
    match o.dest with
    | some d => if d.shift && o.near g then g.modBank o.hand fun b => { b with win := landEntries o d b.win } else g
    | none => g

/-- Poisoned lanes are left unwritten; what their W entries hold is not stated. -/
def State.spoil (s : State) (o : Op) (bad : Lanes) : Op × State :=
  (Lanes.list bad 64).foldl (fun r l =>
    let f := r.2.free
    ({ r.1 with vals := cellSet r.1.vals l f.1, lanes := r.1.lanes &&& ~~~(Lanes.single l) }, f.2)) (o, s)

/-- The effect of an instruction whose issue held its group, at its completion: on the levels, the near slots and the program counter. -/
def State.commitOp (s : State) (o : Op) : State :=
  match s.group? o.grp, o.instr.ctl with
  | some g, some c =>
    match g.bk.split? o.split with
    | some sp => s.commit { i := o.instr, c := c, g := g, sp := sp, pc := o.pc, len := o.len, lanes := o.lanes, bits := 0 } o.uid
    | none => s
  | _, _ => s

/-- A finished access: results, flag, the acquire step of LD.acq, and the trap of poisoned data, at once where the group's issue was
held and in a handler, else late (R248, R252, R335). An LD.acq that traps so has shifted no window and counted no near slot: it takes
these effects here, where it does not trap (R108, R112). -/
def State.completeAccess (s : State) (o : Op) (a : Access) : State :=
  let bad := a.badLanes
  let s := if a.acq && bad = 0 then s.commitOp o else s
  let r := s.spoil o bad
  let s := if a.cb.isSome then r.2.landWindow r.1 else r.2.landResult r.1
  let s := s.finishOp o
  let s := if a.acq then (s.unhold o).modGroup o.grp fun g => { g with acquire := now s } else s
  if bad = 0 || a.pref then s
  else
    match s.group? o.grp with
    | none => s
    | some g =>
      let t : Trap := { Trap.ofFaults a.badFaults with
        cb := a.cb, gather := a.cb.map fun cb => { instr := o.instr, lanes := a.asked, cb := cb } }
      if o.stale g || g.place = .ended then s
      else if a.acq || o.hand then s.raiseTrap g o.split o.pc o.len t
      else s.setGroup { g with late := g.late ++ [{ split := o.split, pc := o.pc, recs := t.recs, cb := t.cb, gather := t.gather }] }

/-- An operation whose answer held the group's issue completes. -/
def State.completeHeld (s : State) (o : Op) : State := ((s.landResult o).finishOp o).unhold o

/-! ## Gathers and scatters (R253, R343, R393) -/

/-- Space, type, bitmap of an LDX or STX, and whether it loads. -/
def gatherOf : Instr → Option (Space × Ty × Nat × Bool)
  | .ldx _ sp ty cb .. => some (sp, ty, cb.toNat, true)
  | .stx _ sp ty cb .. => some (sp, ty, cb.toNat, false)
  | _ => none

/-- The outstanding access of a gather or scatter over the lanes that were sent, of those that were active at its first issue; `again` where
REPLAY sends them. -/
def gatherJob (ty : Ty) (cb : Nat) (load again : Bool) (asked : Lanes) (units : List AccUnit) : Job :=
  .access { kind := if load then .load ty else .store ty, units := units, coalesced := false, acq := false, cb := some cb
            release := none, pref := false, again := again, asked := asked }

/-- A gather or scatter is sent on some of its lanes (R253): the lanes that pass their checks access memory; if any fails, the trap is
raised at the instruction, which then leaves the near levels and the program counter as they were. -/
def State.gatherSend (s : State) (x : Issue) (sp : Space) (ty : Ty) (cb : Nat) (load again : Bool) (lanes : List Nat)
    (old : Cells 64) (resume : Resume) : State :=
  let n := tySize ty
  let w := if load then needLoad else needStore
  let r := s.targets x.g x.inHandler sp n w (s.laneAddrs x sp (some (if load then 1 else 2)) lanes)
  let data (l : Nat) : DWord := if load then 0 else s.src x 1 l
  let units := r.1.flatMap (unitsOf n data fun _ => 0)
  let s := if load then r.2.2 else r.2.2.dropCopies x.g.core units
  let due := s.scratchDue x sp n r.1
  let asks := s.bankAsks x.g sp n r.1 ++ s.ringAsks x
  let uid := s.nextId
  if r.2.1.isEmpty then
    let keep (l : Nat) : DWord := match x.dest with | some d => d.element (cellGet old l) | none => 0
    let s := (s.start x fun o => { o with due := due, vals := old, job := gatherJob ty cb load again x.lanes units }).askBanks uid asks
    s.modGroup x.g.uid fun g => g.setBk { g.bk with
      win := g.bk.win.map fun e =>
        (e.1, e.2.map fun v =>
          if v.tag == uid && !lanes.contains e.1 && x.lanes.has e.1 then
            { v with done := true, val := keep e.1 }
          else v) }
  else
    let t : Trap :=
      { Trap.ofFaults r.2.1 with resume := resume, cb := some cb, gather := some { instr := x.i, lanes := x.lanes, cb := cb } }
    let sent := r.1.foldl (fun m e => m ||| Lanes.single e.1) (0 : Lanes)
    let s :=
      if r.1.isEmpty then s
      else
        (s.startHeld x fun o =>
          { o with
            due := due, lanes := sent, dest := o.dest.map fun d => { d with shift := false }
            job := gatherJob ty cb load again x.lanes units }).askBanks uid asks
    s.trapNow x t

/-- REPLAY's re-send (R343, R393): the lanes that were active at the first issue and are unmarked; marked lanes keep their elements.
After a late trap the split stays where it stood (R333). -/
def State.resend (s : State) (g : Group) (d : Delivery) (t : Gather) : State :=
  match gatherOf t.instr, t.instr.ctl, g.bank.split? d.split with
  | some (sp, ty, cb, load), some c, some split =>
    let x : Issue :=
      { i := t.instr, c := c, g := g, sp := split, pc := d.pc, len := d.len, lanes := t.lanes, bits := Config.choose s.fresh }
    let s := { s with fresh := s.fresh + 1 }
    let marked : Lanes := cellGet g.cb cb
    let lanes := (t.lanes.list 64).filter fun l => !marked.has l
    let old := laneVals ((t.lanes.list 64).filter fun l => marked.has l) fun l => cellGet g.gathered (cb * 64 + l)
    let s := s.gatherSend x sp ty cb load true lanes old d.resume
    let back (b : Bank) : Bank := match b.split? d.split with | some sp => b.setSplit { sp with pc := split.pc } | none => b
    if d.resume = .same then s.modGroup g.uid fun g => { g with bank := back g.bank } else s
  | _, _, _ => s

/-- Whether REPLAY's re-send has to wait for lanes of the first issue that are still in flight (R253). -/
def State.gatherBusy (s : State) (g : Group) (t : Gather) : Bool :=
  s.ops.any fun o => o.grp == g.uid && (match o.job with | .access a => a.cb == some t.cb | _ => false)

end Sys2Proof.Machine
end

