-- ==== Sys2Proof/Machine/Engines.lean ====
section
/-! DEFINITION. Engine threads (R227, R228, R233, R267): the words they move, their failure and their signal; and the contexts of the
Reel (R229 to R234). -/

namespace Sys2Proof.Machine

/-! ## Threads -/

def State.thread? (s : State) (uid : Nat) : Option Thread := s.threads.find? fun t => t.uid == uid
def State.setThread (s : State) (t : Thread) : State :=
  { s with threads := s.threads.map fun x => if x.uid == t.uid then t else x }

/-- A failed engine access: the code, whether the fault lies in the page tables, the address. -/
structure EngineFault where
  code : BitVec 8
  table : Bool
  addr : Nat
  deriving DecidableEq, Repr

/-- Where an engine's word lies: a physical address or a scratch key, after translation. -/
def State.engineLoc (s : State) (core asid : Nat) (priv : Bool) (sp : Space) (need : Need) (a : Nat) :
    Except EngineFault Loc × State :=
  match sp with
  | .glob =>
    if 2 ^ 56 ≤ a then (.error ⟨tcAddress, false, a⟩, s)
    else
      let r := s.xlate core asid a need priv
      match r.1 with
      | .ok pa _ _ _ _ => (.ok (.glob pa), r.2)
      | .fault c table _ => (.error ⟨c, table, a⟩, r.2)
  | .pool => (.ok (.pool a), s)
  | _ => (.ok (.scratch a), s)

/-- An engine reads a word at its home or bank: engines hold no copies (R261). -/
def State.engineRead (s : State) (l : Loc) : Word × State :=
  match l with
  | .glob pa => let r := s.homeRead pa 4; (w32 r.1, r.2)
  | l => (BitVec.ofNat 32 (s.readLoc l 4), s)

/-- An engine writes a word; the completion time that the write returns (R244). -/
def State.engineWrite (s : State) (l : Loc) (v : Word) : Nat × State :=
  match l with
  | .glob pa => s.homeWrite pa 4 v.toNat
  | l => (0, s.writeLoc l 4 v.toNat)

/-- The address by which a thread's instruction names a place of a scratch level (R210 to R212). -/
def State.wordAddr (s : State) (t : Thread) (l : Loc) (a : Nat) : Nat :=
  match l, s.team? t.team with
  | .scratch k, some m =>
    let c := k / 2 ^ 19
    if m.onCore c then (if c = t.core then 0 else 2 ^ 19) + (k % 2 ^ 19 - m.baseOn c)
    else 2 ^ 27 + c % 8 * 2 ^ 24 + (k % 2 ^ 19 - (match s.remoteTeam m c with | some u => u.baseOn c | none => 0))
  | .pool k, some m =>
    let base := match (s.launch? m.launch).bind fun l => tabGet? l.regions (t.core / 8) with | some b => b | none => 0
    k / 2 ^ 23 % 8 * 2 ^ 23 + (k % 2 ^ 23 - base)
  | _, _ => a

/-- A failure stops the transfer, and the slice that started it, and posts a record with the pc of its instruction (R228, R233). -/
def State.failThread (s : State) (t : Thread) (f : EngineFault) : State :=
  let s := s.setThread { t with words := [], failed := true }
  let s := match t.reel with
    | some key => { s with reels := tabMod s.reels key fun r => { r with ended := true } }
    | none => s
  s.postNotice t.grp ⟨f.code, if f.table then 6 else 5, BitVec.ofNat 64 f.addr, 0⟩ t.pc

/-- The meters and the banks as an engine's access finds them (R215, R379). -/
def State.meterWord (s : State) (t : Thread) (l : Loc) : State := ((s.meter t.core t.team .engine 1).meterSlice t.team l).takeBankAt l

/-- The machine may perform a thread's reads and writes in any order (R267): word `i` is read, or, once read, written. -/
def State.moveWord (s : State) (t : Thread) (i : Nat) (w : TWord) : State :=
  match w.val with
  | none =>
    let r := s.engineLoc t.core t.asid t.priv t.src .read w.src
    (match r.1 with
     | .error f => r.2.failThread t f
     | .ok l =>
       let r : Except EngineFault Loc × State := (r.1, r.2.meterWord t l)
       if r.2.poisoned l 4 then r.2.failThread t ⟨tcMem, false, r.2.wordAddr t l w.src⟩
       else
         let q := r.2.engineRead l
         q.2.setThread { t with words := t.words.set i { w with val := some q.1 } })
  | some v =>
    let r := s.engineLoc t.core t.asid t.priv t.dst .write w.dst
    match r.1 with
    | .error f => r.2.failThread t f
    | .ok l =>
      let q := (r.2.meterWord t l).engineWrite l v
      q.2.setThread { t with words := t.words.eraseIdx i, done := max t.done q.1 }

/-- Whether a thread is done (R267): every word written, device time at every completion time. -/
def Thread.isOver (t : Thread) (ns : Nat) : Bool := t.words.isEmpty && decide (t.done ≤ ns)

/-- Bit 31 of a handle, which marks a failed fill (R228). -/
def handleOf (h : Word) (failed : Bool) : Word := if failed then h ||| 0x80000000 else h

/-- The thread signals its completion object and is gone (R227, R228, R233). A poisoned counter stays as it is, with a record for the issuing
group (R228, R248). -/
def State.endThread (s : State) (t : Thread) : State :=
  let s := { s with threads := s.threads.filter fun x => x.uid != t.uid }
  match t.signal with
  | .push team q uid h => s.landPush team q uid (handleOf h t.failed)
  | .count key =>
    if s.poisoned (.scratch key) 4 then
      s.postNotice t.grp ⟨tcMem, 5, BitVec.ofNat 64 (s.wordAddr t (.scratch key) key), 0⟩ t.pc
    else
    let v : Word := BitVec.ofNat 32 (s.readLoc (.scratch key) 4)
    let v := if t.failed then 0x80000000 ||| ((v + 1) &&& 0x7FFFFFFF) else v + 1
    s.writeLoc (.scratch key) 4 v.toNat
  | .flag op => match s.op? op with | some o => s.finishOp o | none => s

/-- The words of a 2-D transfer: rows of `n` words from row addresses. -/
def rowWords (src dst : Nat → Nat) (rows n : Nat) : List TWord :=
  (List.range rows).flatMap fun r => (List.range n).map fun i => { src := src r + 4 * i, dst := dst r + 4 * i, val := none }

/-- The key of every row's first byte, or the first failing check of R213 with the address that it failed at. -/
def State.rowKeys (s : State) (t : Team) (core : Nat) (sp : Space) (a stride n : Nat) (near : Bool) :
    Nat → Except (BitVec 8 × Nat) (List Nat)
  | 0 => .ok []
  | k + 1 =>
    match State.rowKeys s t core sp a stride n near k with
    | .error e => .error e
    | .ok ks =>
      let here := (a + k * stride) % (if sp = .glob then 2 ^ 64 else 2 ^ 32)
      match sp with
      | .glob => .ok (ks ++ [here])
      | sp =>
        match s.teamLoc t core sp here 4 n near with
        | .error c => .error (c, here)
        | .ok (.scratch x) => .ok (ks ++ [x])
        | .ok (.pool x) => .ok (ks ++ [x])
        | .ok (.glob x) => .ok (ks ++ [x])

/-! ## Reel contexts (R229, R234) -/

def State.reel? (s : State) (core ctx : Nat) : Option ReelCtx := tabGet? s.reels (reelKey core ctx)
def State.setReel (s : State) (core ctx : Nat) (r : ReelCtx) : State := { s with reels := tabSet s.reels (reelKey core ctx) r }

/-- Whether AQPUTs of a context are still in flight. -/
def State.reelInFlight (s : State) (key : Nat) : Bool := s.threads.any fun t => t.reel == some key

/-- Whether REELW without .stop, or after it, may complete: the slice is over and everything in flight has landed. -/
def State.reelOver (s : State) (core ctx serial : Nat) : Bool :=
  match s.reel? core ctx with
  | none => true
  | some r => r.serial != serial || !r.busy || (r.ended && !s.reelInFlight (reelKey core ctx))

/-- A context whose slice has passed its last instruction has ended, and one that has ended with nothing in flight is free (R232,
R234). -/
def State.tidyReels (s : State) : State :=
  let passed (r : ReelCtx) : Bool := !(decide (r.start ≤ r.pc) && decide (r.pc < r.stop))
  let s := { s with reels := s.reels.map fun (e : Nat × ReelCtx) =>
    if e.2.busy && !e.2.ended && passed e.2 then (e.1, { e.2 with ended := true }) else e }
  { s with reels := s.reels.map fun (e : Nat × ReelCtx) =>
    if e.2.busy && e.2.ended && !s.reelInFlight e.1 then (e.1, { e.2 with busy := false }) else e }

/-- A fault in a slice stops it and posts a record with the slice's pc to the starting group (R230, R233). -/
def State.sliceFault (s : State) (core ctx : Nat) (code : BitVec 8) (access : BitVec 3) (addr : DWord) : State :=
  match s.reel? core ctx with
  | none => s
  | some r => (s.setReel core ctx { r with ended := true }).postNotice r.grp ⟨code, access, addr, 0⟩ r.here

/-! ## Slice code (R229 to R232) -/

/-- The fields of the word that comes first, whatever its fate. -/
def rawFields : List Word → Option Fields
  | [] => none
  | w :: rest =>
    if !w.getLsbD 31 then
      (compactCore (w.extractLsb' 24 7).toNat { stall := w.extractLsb' 20 4, set := w.extractLsb' 16 4, yield := w.getLsbD 15 }
        (.ofBits (w.extractLsb' 10 5)) (.ofBits (w.extractLsb' 5 5)) (.ofBits (w.extractLsb' 0 5))).bind
        fun e => e.1.coreFields
    else if !w.getLsbD 30 then (match rest with | v :: _ => some (Fields.of8 (w ++ v)) | [] => none)
    else (match rest with | v :: u :: _ => some (Fields.ofBits (w ++ v ++ u)) | _ => none)

/-- The control fields and the guard that a slice instruction must have. -/
def sliceControl (c : Ctl) : Bool :=
  c.stall == 0 && c.wait == 0 && c.set == 15 && !c.drain && !c.yield && !c.gneg && c.gpred == 7

/-- The opcodes, with their SEL or SUB, that a slice may hold. -/
def sliceOpcode (f : Fields) : Bool :=
  match f.opc.toNat with
  | 0x00 => f.mod.extractLsb' 0 2 == 0
  | 0x20 => (mSub f.mod).toNat ≤ 1
  | 0x22 | 0x2A => mSub f.mod == 0
  | n => [0x02, 0x21, 0x23, 0x27, 0xA7, 0xA8, 0xA9].contains n

/-- The instructions that a slice may hold. -/
def sliceInstr : Instr → Bool
  | .nop .. | .movi .. | .iadd .. | .isub .. | .iaddImm .. | .isubImm .. | .imul .. | .imulImm .. | .shl .. | .lea ..
  | .aloop .. | .aqput .. | .aend .. => true
  | _ => false

/-- Every operand names S, or I as a source. -/
def sliceOperand (sl : Slot) : Bool := sl.op.lvl == .s || (sl.op.lvl == .i && sl.role.reads)

/-- The slice instruction whose words come first, or the first fate that applies, in the order of R230. -/
def sliceRead (ws : List Word) : Except Fate Instr :=
  match coreWords ws, rawFields ws with
  | .error .straddle, _ => .error .straddle
  | .error .control, _ | _, none => .error .control
  | r, some f =>
    if !sliceControl f.ctl then .error .control
    else if !sliceOpcode f || f.read.any (fun i => !sliceInstr i) then .error .opcode
    else
      match r with
      | .error e => .error e
      | .ok i => if i.slots.all sliceOperand then .ok i else .error .operand

/-- What stands at an address of a line, for a slice: its length and the instruction, or the code of its fault with ACCESS. -/
def ILine.sliceAt (l : ILine) (pc : DWord) : Nat × Except (BitVec 8 × BitVec 3) Instr :=
  match l.fail with
  | some f => (0, .error f)
  | none =>
    if l.priv then (0, .error (tcPerm, 1))
    else
      let k := pc.toNat % 64 / 4
      match coreLineAt l.words 0 k with
      | none => (0, .error (tcOpcode, 0))
      | some (n, _) =>
        (match sliceRead (l.words.drop k) with
         | .ok i => (n, .ok i)
         | .error f => (n, .error (fateCode f, 0)))

end Sys2Proof.Machine
end

