-- ==== Sys2Proof/Machine/Tiles.lean ====
section
/-! DEFINITION. The arithmetic of the matrix units (R74 to R83, R189 to R192, R198 to R203): lines of packed elements, format words,
block scales, the summation orders, the 2:4 compression and CST's conversion. -/

namespace Sys2Proof.Machine

/-! ## Elements and lines (R74, R77, R189, R191) -/

/-- Format codes (R77). -/
def fmtOfCode : Nat → Option Ty
  | 0 => some .bf16 | 1 => some .f16 | 2 => some .e4m3 | 3 => some .e5m2 | 4 => some .e3m2 | 5 => some .e2m3 | 6 => some .e2m1
  | 7 => some .s8 | 8 => some .z8 | 9 => some .s4 | 10 => some .z4 | _ => none

def isFloatFmt : Ty → Bool
  | .f32 | .f16 | .bf16 | .e4m3 | .e5m2 | .e3m2 | .e2m3 | .e2m1 => true
  | _ => false

/-- K of a format (R191). -/
def fmtK (ty : Ty) : Nat := match ty.bits with | 16 => 16 | 8 => 32 | _ => 64

/-- Elements of width `w` in a word, and words in a line of `n` of them (R74, R189). -/
def perWord (w : Nat) : Nat := if w = 6 then 5 else 32 / w
def lineWords (n w : Nat) : Nat := (n + perWord w - 1) / perWord w
def tileBytes (lines n w : Nat) : Nat := 4 * (lines * lineWords n w)

/-- Element `i` of a line of `n` in a tile's words. -/
def elementAt (tile : List Word) (w n line i : Nat) : Nat :=
  (tile.getD (line * lineWords n w + i / perWord w) 0).toNat / 2 ^ (w * (i % perWord w)) % 2 ^ w

/-- A line of `n` elements as words; unused positions are zero. -/
def packLine (w n : Nat) (f : Nat → Nat) : List Word :=
  (List.range (lineWords n w)).map fun k =>
    BitVec.ofNat 32 ((List.range (perWord w)).foldl (fun v j =>
      if k * perWord w + j < n then v + f (k * perWord w + j) % 2 ^ w * 2 ^ (w * j) else v) 0)

/-- The bytes of a word list. -/
def bytesOf (ws : List Word) : List Byte := ws.flatMap wordBytes

/-! ## Format words (R77, R78, R192, R203) -/

/-- A field of a format word. -/
def fwField (f : Word) (lo n : Nat) : Nat := f.toNat / 2 ^ lo % 2 ^ n
def fwTra (f : Word) : Bool := f.getLsbD 18
def fwTrb (f : Word) : Bool := f.getLsbD 19
def fwRnd (f : Word) : Rnd := match fwField f 15 2 with | 0 => .rn | 1 => .rz | 2 => .ru | _ => .rd

/-- The three forms of R198. -/
inductive MmaKind where
  | plain | sparse | scaled
  deriving DecidableEq, Repr

/-- What a valid format word asks for: the formats, the stored and the logical K, the accumulator (0 f32, 1 f16, 2 s32), the scale mode
and the block size. -/
structure MmaShape where
  fa : Ty
  fb : Ty
  k : Nat
  lk : Nat
  acc : Nat
  scale : Nat
  block : Nat
  deriving DecidableEq, Repr

/-- The class of a format: 16-bit float, narrow float, integer. -/
def fmtClass (ty : Ty) : Nat := if !isFloatFmt ty then 2 else if ty.bits = 16 then 0 else 1

/-- R78, and TRA of R192: the shape that a valid format word gives. -/
def mmaShape (kind : MmaKind) (f : Word) : Option MmaShape :=
  match fmtOfCode (fwField f 0 4), fmtOfCode (fwField f 4 4) with
  | some fa, some fb =>
    let k := min (fmtK fa) (fmtK fb)
    let lk := if kind = .sparse then 2 * k else k
    let sh : MmaShape :=
      { fa := fa, fb := fb, k := k, lk := lk, acc := fwField f 8 2, scale := fwField f 10 2, block := 16 * 2 ^ fwField f 12 2 }
    let fits :=
      match fmtClass fa, fmtClass fb with
      | 0, 0 => fa == fb && decide (sh.acc ≤ 1) && sh.scale == 0 && sh.block == 16 && kind != .scaled
      | 1, 1 =>
        decide (sh.acc ≤ 1) && (if kind = .scaled then sh.scale == 1 || sh.scale == 2 else sh.scale == 0) &&
          fwField f 12 2 != 3 && decide (sh.block ≤ lk)
      | 2, 2 => sh.acc == 2 && sh.scale == 0 && sh.block == 16 && kind != .scaled
      | _, _ => false
    if fits && fwField f 20 12 == 0 && (f.getLsbD 14 == (kind == .sparse)) && !(kind == .sparse && fwTra f) then some sh else none
  | _, _ => none

/-- Rows of a group's collectors (R186, R189). -/
def tileRows (width : Nat) : Nat := if width = 64 then 64 else 32

/-- Lines and elements a line of the A and B tiles (R189). -/
def aLines (sh : MmaShape) (f : Word) (rows : Nat) : Nat × Nat := if fwTra f then (sh.k, rows) else (rows, sh.k)
def bLines (sh : MmaShape) (f : Word) : Nat × Nat := if fwTrb f then (sh.lk, 32) else (32, sh.lk)

/-- Blocks along K for the sums and the scales (R80, R82). -/
def MmaShape.run (sh : MmaShape) : Nat := if fmtClass sh.fa = 0 then 4 else sh.block
def MmaShape.blocks (sh : MmaShape) : Nat := sh.lk / sh.block

/-! ## Metadata and scales (R75, R76, R192) -/

/-- The nibble of a group of four in row `i` whose stored K is `k`. -/
def metaNibble (bytes : List Byte) (k i q : Nat) : Nat := (bytes.getD (i * (k / 4) + q / 2) 0).toNat / 2 ^ (4 * (q % 2)) % 16

def metaBad (bytes : List Byte) (k rows : Nat) : Bool :=
  (List.range rows).any fun i => (List.range (k / 2)).any fun q =>
    metaNibble bytes k i q % 4 == metaNibble bytes k i q / 4

/-- A decoded scale stream: the scales, the nibbles consumed, whether a delta left the range. -/
structure Scales where
  es : List Nat
  used : Nat
  bad : Bool
  deriving DecidableEq, Repr

/-- Decodes a delta stream (R76), from a nibble position and `prev`. -/
def deltaScales (nib : Nat → Nat) : (count pos prev : Nat) → Scales
  | 0, pos, _ => ⟨[], pos, false⟩
  | n + 1, pos, prev =>
    if nib pos = 8 then
      let e := nib (pos + 1) * 16 + nib (pos + 2)
      let r := deltaScales nib n (pos + 3) e
      { r with es := e :: r.es }
    else
      let e : Int := (prev : Int) + (if 8 ≤ nib pos then (nib pos : Int) - 16 else nib pos)
      if e < 0 || 254 < e then ⟨[], pos + 1, true⟩
      else
        let r := deltaScales nib n (pos + 1) e.toNat
        { r with es := e.toNat :: r.es }

/-- A scale stream of `count` blocks in a mode of the format word. -/
def scaleStream (mode : Nat) (bytes : List Byte) (count : Nat) : Scales :=
  if mode = 2 then deltaScales (fun n => (bytes.getD (n / 2) 0).toNat / 2 ^ (4 * (n % 2)) % 16) count 0 127
  else ⟨(List.range count).map fun n => (bytes.getD n 0).toNat, 2 * count, false⟩

/-! ## The multiply-accumulate (R80 to R83, R198) -/

/-- The integer value of an element. -/
def eltInt (ty : Ty) (n : Nat) : Int := if ty.signed && decide (2 ^ (ty.bits - 1) ≤ n) then (n : Int) - (2 ^ ty.bits : Nat) else n

/-- A block's value: the exact sum of its products, scaled (R80, R81). DESIGN CHOICE (log entry 54): a dropped position adds +0; in a block
with E = 255, which is a NaN whatever its products are, the products still raise IV. -/
def blockValue (sh : MmaShape) (a : Nat → Option Nat) (b : Nat → Nat) (ea eb lo n : Nat) : FVal × FFlags :=
  let fa := FloatFmt.ofTy sh.fa
  let fb := FloatFmt.ofTy sh.fb
  let s := (List.range n).foldl (fun (s : ExactSum) i =>
    match a (lo + i) with
    | none => s.add (.fin false 0 0) 0
    | some v => let p := (fa.decode v).times (fb.decode (b (lo + i))); s.add p.1 p.2)
    { ExactSum.empty with nan := ea == 255 || eb == 255 }
  match s.value with
  | (.fin n m e, fl) => (.fin n m (e + ea + eb - 254), fl)
  | r => r

/-- One element of a float accumulation: the f32 accumulator over the blocks in ascending K. -/
def floatRow (sh : MmaShape) (a : Nat → Option Nat) (b sa sb : Nat → Nat) (acc : Nat) : Nat × FFlags :=
  let g := sh.run
  (List.range (sh.lk / g)).foldl (fun (r : Nat × FFlags) k =>
    let v := blockValue sh a b (sa k) (sb k) (k * g) g
    let v := if fmtClass sh.fa = 0 then
        let q := FloatFmt.f32.put .rn false v.1
        (FloatFmt.f32.decode q.1, q.2 ||| v.2)
      else v
    let t := FloatFmt.f32.sum .rn false (FloatFmt.f32.decode r.1) v.1
    (t.1, r.2 ||| t.2 ||| v.2)) (acc, 0)

/-- One element of the collector after a multiply-accumulate, and its flags. -/
def mmaElement (sh : MmaShape) (a : Nat → Option Nat) (b sa sb : Nat → Nat) (c : Word) : Word × FFlags :=
  if sh.acc = 2 then
    let s := (List.range sh.lk).foldl (fun (t : Int) k =>
      match a k with | some v => t + eltInt sh.fa v * eltInt sh.fb (b k) | none => t) c.toInt
    (BitVec.ofInt 32 s, 0)
  else if sh.acc = 1 then
    let w := FloatFmt.f16.convert .f32 .rn false false (c.toNat % 65536)
    let r := floatRow sh a b sa sb w.1
    let o := FloatFmt.f32.convert .f16 .rn false false r.1
    (BitVec.ofNat 32 o.1, w.2 ||| r.2 ||| o.2)
  else
    let r := floatRow sh a b sa sb c.toNat
    (BitVec.ofNat 32 r.1, r.2)

/-- The operands of a multiply-accumulate, as read. -/
structure MmaData where
  a : List Word
  b : List Word
  mta : List Byte
  sa : List Nat
  sb : List Nat

/-- The A element of row `i` at logical position `k`; none where MMAS dropped it. -/
def mmaA (sh : MmaShape) (f : Word) (rows : Nat) (sparse : Bool) (d : MmaData) (i k : Nat) : Option Nat :=
  let w := Ty.bits sh.fa
  let stored (n : Nat) : Nat := if fwTra f then elementAt d.a w rows n i else elementAt d.a w sh.k i n
  if sparse then
    let n := metaNibble d.mta sh.k i (k / 4)
    if k % 4 = n % 4 then some (stored (2 * (k / 4))) else if k % 4 = n / 4 then some (stored (2 * (k / 4) + 1)) else none
  else some (stored k)

/-- The B element at logical position `k` of column `j`. -/
def mmaB (sh : MmaShape) (f : Word) (d : MmaData) (j k : Nat) : Nat :=
  let w := Ty.bits sh.fb
  if fwTrb f then elementAt d.b w 32 k j else elementAt d.b w sh.lk j k

/-- Element (i, j) after the instruction. -/
def mmaAt (sh : MmaShape) (f : Word) (rows : Nat) (sparse : Bool) (d : MmaData) (i j : Nat) (c : Word) : Word × FFlags :=
  let n := sh.blocks
  mmaElement sh (mmaA sh f rows sparse d i) (mmaB sh f d j) (fun k => if d.sa.isEmpty then 127 else d.sa.getD (i * n + k) 127)
    (fun k => if d.sb.isEmpty then 127 else d.sb.getD (j * n + k) 127) c

/-! ## CMPRS (R199) -/

/-- The rank of an element: NaN above infinity above finite, and the magnitude as a dyadic number. -/
def eltRank (ty : Ty) (n : Nat) : Nat × Dyadic :=
  if isFloatFmt ty then
    match (FloatFmt.ofTy ty).decode n with
    | .nan _ => (2, .zero)
    | .inf _ => (1, .zero)
    | .fin _ m e => (0, ⟨m, e⟩)
  else (0, ⟨(eltInt ty n).natAbs, 0⟩)

/-- Whether the element `n` ranks above `m`. -/
def outranks (ty : Ty) (n m : Nat) : Bool :=
  let a := eltRank ty n
  let b := eltRank ty m
  decide (b.1 < a.1) || (a.1 == b.1 && b.2.lt a.2)

/-- The two positions of a group of four that are kept, in ascending order: those that at most one other goes before. -/
def keptPair (ty : Ty) (e : Nat → Nat) : Nat × Nat :=
  let before (p q : Nat) : Bool := outranks ty (e p) (e q) || (!outranks ty (e q) (e p) && decide (p < q))
  let kept := (List.range 4).filter fun q => decide (((List.range 4).filter fun p => p != q && before p q).length < 2)
  (kept.getD 0 0, kept.getD 1 1)

/-- The output words and metadata bytes of a source tile of `rows` lines of 2K elements. -/
def compress (ty : Ty) (rows : Nat) (src : List Word) : List Word × List Byte :=
  let w := ty.bits
  let l := 2 * fmtK ty
  let el (i p : Nat) : Nat := elementAt src w l i p
  let pair (i q : Nat) : Nat × Nat := keptPair ty fun p => el i (4 * q + p)
  let out (i n : Nat) : Nat := el i (4 * (n / 2) + (if n % 2 = 0 then (pair i (n / 2)).1 else (pair i (n / 2)).2))
  let nib (i q : Nat) : Nat := (pair i q).1 + 4 * (pair i q).2
  ((List.range rows).flatMap fun i => packLine w (l / 2) (out i),
   (List.range rows).flatMap fun i => (List.range (l / 8)).map fun n => BitVec.ofNat 8 (nib i (2 * n) + 16 * nib i (2 * n + 1)))

/-! ## CST (R203) -/

/-- The element type that CST writes; none where its format word is invalid. A float and an integer type never meet in AFMT and ACC, whether
bit [14] asks for AFMT or not; codes 11 to 15 are neither. -/
def cstType (f : Word) : Option Ty :=
  let acc := fwField f 8 2
  let ty := fmtOfCode (fwField f 0 4)
  if acc = 3 || fwField f 20 12 != 0 || ty.any (fun ty => isFloatFmt ty != decide (acc ≤ 1)) then none
  else if f.getLsbD 14 then ty
  else some (if acc = 0 then .f32 else if acc = 1 then .f16 else .s32)

/-- One element as CST writes it, and its flags. -/
def cstElement (f : Word) (ty : Ty) (c : Word) : Nat × FFlags :=
  let acc := fwField f 8 2
  let sat := f.getLsbD 17
  if !f.getLsbD 14 then (if acc = 1 then c.toNat % 65536 else c.toNat, 0)
  else if acc = 2 then
    let w := ty.bits
    let lo : Int := if ty.signed then -(2 ^ (w - 1) : Nat) else 0
    let hi : Int := if ty.signed then (2 ^ (w - 1) : Nat) - 1 else (2 ^ w : Nat) - 1
    let n := c.toInt
    let v := if sat then clampTo lo hi n else n
    ((BitVec.ofInt 32 v).toNat % 2 ^ w, if n < lo || hi < n then flagIV else 0)
  else
    let src := if acc = 1 then FloatFmt.f16 else FloatFmt.f32
    src.convert (FloatFmt.ofTy ty) (fwRnd f) false sat (c.toNat % 2 ^ src.width)

/-- Lines and elements a line of CST's output (R189). -/
def cstLines (f : Word) (rows : Nat) : Nat × Nat := if fwTra f then (32, rows) else (rows, 32)

/-- The output words of CST over a collector, and the flags. -/
def cstWords (f : Word) (ty : Ty) (rows : Nat) (c : Nat → Nat → Word) : List Word × FFlags :=
  let sh := cstLines f rows
  let at_ (line n : Nat) : Word := if fwTra f then c n line else c line n
  ((List.range sh.1).flatMap fun l => packLine (ty.bits) sh.2 fun n => (cstElement f ty (at_ l n)).1,
   (List.range sh.1).foldl (fun fl l => (List.range sh.2).foldl (fun fl n => fl ||| (cstElement f ty (at_ l n)).2) fl) 0)

end Sys2Proof.Machine
end

