-- ==== Sys2Proof/Machine/Matrix.lean ====
section
/-! DEFINITION. The matrix instructions and their events (R185 to R203). -/

namespace Sys2Proof.Machine

/-! ## Checks and operands (R79, R190, R196) -/

/-- A class-100 instruction: a guard of `(!p7)` makes it a no-op (R42), and every lane of the width must be active (R79). -/
def matIssue (i : Instr) (s : State) (k : Issue → State → Except Trap State) : Out :=
  issue i s fun x s =>
    if x.never then .ok (s.finish x)
    else if x.lanes != Lanes.below x.g.width then .error (x.trap tcConvergence)
    else k x s

/-- The voted format word: read field `k`, the same in every lane (R79). -/
def State.vote (s : State) (x : Issue) (k : Nat) : Except Trap Word :=
  let f := w32 (s.src x k 0)
  if x.list.any fun l => w32 (s.src x k l) != f then .error (x.trap tcFormat) else .ok f

/-- An operand in scratchpad: its address, its length, its alignment, the ACCESS of its faults, and whether it is a delta-coded scale
stream, whose length depends on its data. -/
structure TileOp where
  addr : Nat
  bytes : Nat
  align : Nat
  access : BitVec 3
  delta : Bool

/-- The words that cover an operand. -/
def tileWords (key addr bytes : Nat) : List MatWord :=
  (List.range ((key % 4 + bytes + 3) / 4)).map fun i =>
    { key := key / 4 * 4 + 4 * i, addr := addr - addr % 4 + 4 * i, val := 0, done := false, bad := false }

/-- Resolves an operand by R213; of a delta stream, as many bytes as lie in its allotment, and at least one. -/
def State.tileOp (s : State) (x : Issue) (t : Team) (o : TileOp) : Except Trap (List MatWord × (Nat × Nat)) :=
  let at_ (n : Nat) : Resolved := s.coreLoc t x.g.core o.addr o.align n false
  let n :=
    if o.delta then
      (((List.range (o.bytes + 1)).reverse.find? fun n => (match at_ n with | .ok _ => true | .error _ => false) && n != 0).getD 1)
    else o.bytes
  match at_ n with
  | .ok (.scratch k) => .ok (tileWords k o.addr n, (k % 4, n))
  | .ok _ => .error (Trap.one tcAddress x.sp.lanes (BitVec.ofNat 64 o.addr) o.access)
  | .error e => .error (Trap.one e x.sp.lanes (BitVec.ofNat 64 o.addr) o.access)

/-- Resolves operands in order (R196, check 4): their words in one list, and the span of each among its bytes. -/
def State.tileOps (s : State) (x : Issue) (t : Team) : (before : Nat) → List TileOp → Except Trap (List MatWord × List (Nat × Nat))
  | _, [] => .ok ([], [])
  | n, o :: os =>
    match s.tileOp x t o with
    | .error e => .error e
    | .ok (ws, start, len) =>
      match State.tileOps s x t (n + ws.length) os with
      | .error e => .error e
      | .ok (vs, spans) => .ok (ws ++ vs, (4 * n + start, len) :: spans)

/-- The tile at an address: aligned to 4, read or written. -/
def tileAt (a : Word) (bytes : Nat) (access : BitVec 3) : TileOp :=
  { addr := a.toNat, bytes := bytes, align := 4, access := access, delta := false }

/-- A scale stream of `n` blocks (R76, R190). -/
def streamAt (a : Word) (mode n : Nat) : TileOp :=
  { addr := a.toNat, bytes := if mode = 2 then (3 * n + 1) / 2 else n, align := 1, access := 2, delta := mode == 2 }

/-- A matrix instruction that reads scratchpad is sent: the group's fetch is held until its read point (R193). Of MMAB's B stream, `late` is a
failed check that ranks after what the decoding of its A stream finds (R196). -/
def State.readTiles (s : State) (x : Issue) (fmt : Word) (reads : List MatWord) (spans : List (Nat × Nat)) (writes : List MatWord)
    (late : Option Trap := none) : State :=
  let uid := s.nextId
  let m : MatJob :=
    { fmt := fmt, reads := reads, spans := spans, read := false, writes := writes, ready := false
      late := late.bind fun t => t.recs.head?.map fun r => (r.code, r.addr) }
  ((s.meter x.g.core x.g.team .matrix 1).startHeld x fun o => { o with job := .matrix m }).holdOn x.g.uid uid

/-- A matrix instruction that reads no scratchpad is outstanding until MATRIX_COMPLETION. -/
def State.matrixStart (s : State) (x : Issue) (fmt : Word) (writes : List MatWord) (vals : Cells 64) : State :=
  let m : MatJob := { fmt := fmt, reads := [], spans := [], read := true, writes := writes, ready := false, late := none }
  (s.meter x.g.core x.g.team .matrix 1).start x fun o => { o with vals := vals, job := .matrix m }

/-! ## MMA, MMAS, MMAB (R198) -/

/-- The three forms: `first` read fields before A. -/
def mmaOp (i : Instr) (kind : MmaKind) (s : State) : Out :=
  matIssue i s fun x s =>
    let first := if kind = .plain then 0 else 1
    match s.vote x (first + 2), s.teamOf x.g with
    | .error e, _ => .error e
    | .ok _, none => .ok (s.finish x)
    | .ok f, some t =>
      match mmaShape kind f with
      | none => .error (x.trap tcOperand)
      | some sh =>
        let rows := tileRows x.g.width
        let la := aLines sh f rows
        let lb := bLines sh f
        let d := s.src x 0 0
        let extra :=
          match kind with
          | .plain => []
          | .sparse => [tileAt (w32 d) (rows * sh.k / 4) 2]
          | .scaled => [streamAt (w32 d) sh.scale (rows * sh.blocks)]
        let last :=
          match kind with
          | .scaled => [streamAt (d.extractLsb' 32 32) sh.scale (32 * sh.blocks)]
          | _ => []
        match s.tileOps x t 0
            ([tileAt (w32 (s.src x first 0)) (tileBytes la.1 la.2 sh.fa.bits) 2,
              tileAt (w32 (s.src x (first + 1) 0)) (tileBytes lb.1 lb.2 sh.fb.bits) 2] ++ extra) with
        | .error e => .error e
        | .ok (ws, spans) =>
          match s.tileOps x t ws.length last with
          | .error e => if sh.scale = 2 then .ok (s.readTiles x f ws spans [] (some e)) else .error e
          | .ok (vs, more) => .ok (s.readTiles x f (ws ++ vs) (spans ++ more) [])

/-- MMA (R198). -/
def execMma (c : Ctl) (cn : BitVec 2) (a b x : Opnd) (s : State) : Out := mmaOp (.mma c cn a b x) .plain s

/-- MMAS (R192, R198). -/
def execMmas (c : Ctl) (cn : BitVec 2) (d a b x : Opnd) (s : State) : Out := mmaOp (.mmas c cn d a b x) .sparse s

/-- MMAB (R75, R76, R198). -/
def execMmab (c : Ctl) (cn : BitVec 2) (d a b x : Opnd) (s : State) : Out := mmaOp (.mmab c cn d a b x) .scaled s

/-! ## CMPRS, CCLR, CLD, CSCL, CST (R199 to R203) -/

/-- CMPRS (R199). -/
def execCmprs (c : Ctl) (ty : Ty) (a b x : Opnd) (s : State) : Out :=
  matIssue (.cmprs c ty a b x) s fun y s =>
    match s.teamOf y.g with
    | none => .ok (s.finish y)
    | some t =>
      let rows := tileRows y.g.width
      let w := ty.bits
      let k := fmtK ty
      match s.tileOps y t 0 [tileAt (w32 (s.src y 0 0)) (tileBytes rows (2 * k) w) 2],
          s.tileOps y t 0 [tileAt (w32 (s.src y 1 0)) (tileBytes rows k w) 3, tileAt (w32 (s.src y 2 0)) (rows * k / 4) 3] with
      | .error e, _ => .error e
      | _, .error e => .error e
      | .ok (ws, spans), .ok (outs, _) => .ok (s.readTiles y 0 ws spans outs)

/-- CCLR (R200). -/
def execCclr (c : Ctl) (cn : BitVec 2) (s : State) : Out :=
  matIssue (.cclr c cn) s fun x s => .ok (s.matrixStart x 0 [] [])

/-- CLD (R201). -/
def execCld (c : Ctl) (cn : BitVec 2) (a x : Opnd) (s : State) : Out :=
  matIssue (.cld c cn a x) s fun y s =>
    match s.teamOf y.g with
    | none => .ok (s.finish y)
    | some t =>
      match s.tileOps y t 0 [tileAt (w32 (s.src y 0 0) + w32 (s.src y 1 0)) (tileRows y.g.width * 128) 2] with
      | .error e => .error e
      | .ok (ws, spans) => .ok (s.readTiles y 0 ws spans [])

/-- CSCL (R202): the factor of each lane is read at issue. -/
def execCscl (c : Ctl) (cn : BitVec 2) (a : Opnd) (s : State) : Out :=
  matIssue (.cscl c cn a) s fun x s => .ok (s.matrixStart x 0 [] (laneVals x.list (s.src x 0)))

/-- CST (R203). -/
def execCst (c : Ctl) (cn : BitVec 2) (a b x : Opnd) (s : State) : Out :=
  matIssue (.cst c cn a b x) s fun y s =>
    match s.vote y 1, s.teamOf y.g with
    | .error e, _ => .error e
    | .ok _, none => .ok (s.finish y)
    | .ok f, some t =>
      match cstType f with
      | none => .error (y.trap tcOperand)
      | some ty =>
        let lines := cstLines f (tileRows y.g.width)
        match s.tileOps y t 0 [tileAt (w32 (s.src y 0 0) + w32 (s.src y 2 0)) (tileBytes lines.1 lines.2 ty.bits) 3] with
        | .error e => .error e
        | .ok (ws, _) => .ok (s.matrixStart y f ws [])

/-! ## The read point (R193, R196) -/

/-- The bytes of operand `k` as read. -/
def MatJob.bytes (m : MatJob) (k : Nat) : List Byte :=
  match m.spans[k]? with
  | some (start, len) => ((bytesOf (m.reads.map (·.val))).drop start).take len
  | none => []

def MatJob.words (m : MatJob) (k : Nat) : List Word := bytesWords (m.bytes k)

/-- The form of a multiply-accumulate. -/
def mmaKindOf : Instr → Option MmaKind
  | .mma .. => some .plain
  | .mmas .. => some .sparse
  | .mmab .. => some .scaled
  | _ => none

/-- The two decoded scale streams of MMAB. -/
def MatJob.streams (m : MatJob) (sh : MmaShape) (rows : Nat) : Scales × Scales :=
  (scaleStream sh.scale (m.bytes 2) (rows * sh.blocks), scaleStream sh.scale (m.bytes 3) (32 * sh.blocks))

/-- The first poisoned word that an operand's reads met, in operand order; of a scale stream, among the bytes that its decoding
consumes. -/
def MatJob.poison (m : MatJob) (used : List Nat) : Option MatWord :=
  let hit (k : Nat) : Option MatWord :=
    match m.spans[k]? with
    | none => none
    | some (start, len) =>
      let n := min len (used.getD k len)
      ((m.reads.drop (start / 4)).take ((start % 4 + n + 3) / 4)).find? (·.bad)
  (List.range m.spans.length).findSome? hit

/-- What the read point finds: the address of a delta stream that runs past its allotment, poisoned data, equal metadata indices, a
scale out of range (R192, R196). -/
def MatJob.readTrap (m : MatJob) (i : Instr) (rows : Nat) (lanes : Lanes) : Option Trap :=
  let addrOf (k : Nat) : Nat :=
    match m.spans[k]? with
    | some (start, _) => (match m.reads[start / 4]? with | some w => w.addr + start % 4 | none => 0)
    | none => 0
  let mem (used : List Nat) : Option Trap := (m.poison used).map fun w => Trap.one tcMem lanes (BitVec.ofNat 64 w.addr) 2
  match mmaKindOf i with
  | some .scaled =>
    match mmaShape .scaled m.fmt with
    | none => none
    | some sh =>
      let r := m.streams sh rows
      let need (e : Scales) : Nat := (e.used + 1) / 2
      if (m.bytes 2).length < need r.1 then some (Trap.one tcAddress lanes (BitVec.ofNat 64 (addrOf 2)) 2)
      else if m.late.isSome then m.late.map fun e => Trap.one e.1 lanes e.2 2
      else if (m.bytes 3).length < need r.2 then some (Trap.one tcAddress lanes (BitVec.ofNat 64 (addrOf 3)) 2)
      else
        match mem [(m.bytes 0).length, (m.bytes 1).length, need r.1, need r.2] with
        | some t => some t
        | none => if r.1.bad || r.2.bad then some (Trap.one tcScale lanes) else none
  | some .sparse =>
    match mem [], mmaShape .sparse m.fmt with
    | some t, _ => some t
    | none, some sh => if metaBad (m.bytes 2) sh.k rows then some (Trap.one tcOperand lanes) else none
    | none, none => none
  | _ => mem []

/-- Words to be written, with their values. -/
def fillWords (ws : List MatWord) (vals : List Word) : List MatWord :=
  (List.range ws.length).zip ws |>.map fun e => { e.2 with val := vals.getD e.1 0 }

/-- The read point: the trap that the data give, precise at the instruction, or the group goes on (R193); CMPRS has its output. -/
def State.readPoint (s : State) (o : Op) (m : MatJob) : State :=
  match s.group? o.grp with
  | none => s.dropOp o.uid
  | some g =>
    let rows := tileRows g.width
    match m.readTrap o.instr rows o.splitLanes with
    | some t =>
      let s := (s.finishOp o).unhold o
      (match s.group? o.grp with | some g => s.raiseTrap g o.split o.pc o.len t | none => s)
    | none =>
      let m := { m with read := true }
      let m :=
        match o.instr with
        | .cmprs _ ty .. =>
          let r := compress ty rows (m.words 0)
          { m with ready := true, writes := fillWords m.writes (r.1 ++ bytesWords r.2) }
        | _ => m
      let s := s.setOp { o with job := .matrix m }
      let s :=
        match o.instr.ctl, g.bk.split? o.split with
        | some c, some sp =>
          s.commit { i := o.instr, c := c, g := g, sp := sp, pc := o.pc, len := o.len, lanes := o.lanes, bits := 0 } o.uid
        | _, _ => s
      s.unhold o

/-- The scratchpad meter and the banks as a word of a matrix instruction finds them (R215, R379). -/
def State.meterMat (s : State) (o : Op) (key : Nat) : State :=
  (match s.group? o.grp with | some g => s.meter g.core g.team .scratch 1 | none => s).takeBank key

/-- One word of a matrix instruction is read, or one is written (R194, R203); a poisoned word's value is not stated. -/
def State.matrixUnit (s : State) (o : Op) (m : MatJob) (unit : Nat) : Option State :=
  if !m.read then
    match m.reads[unit]? with
    | none => none
    | some w =>
      if w.done then none
      else
        let bad := s.poisoned (.scratch w.key) 4
        let r := if bad then s.free else (BitVec.ofNat 64 (s.readLoc (.scratch w.key) 4), s)
        let m := { m with reads := m.reads.set unit { w with val := w32 r.1, done := true, bad := bad } }
        let o := { o with job := .matrix m }
        let s := (r.2.meterMat o w.key).setOp o
        some (if m.reads.all (·.done) then s.readPoint o m else s)
  else if !m.ready then none
  else
    match m.writes[unit]? with
    | none => none
    | some w =>
      if w.done then none
      else
        let s := (s.meterMat o w.key).writeLoc (.scratch w.key) 4 w.val.toNat
        some (s.setOp { o with job := .matrix { m with writes := m.writes.set unit { w with done := true } } })

/-! ## Completion (R187, R197) -/

/-- Key of an element of a collector (R186). -/
def colKey (c row col : Nat) : Nat := (c + 2 * (row / 32)) * 1024 + row % 32 * 32 + col

/-- Rewrites every element of a collector, and the flags that this raises. -/
def mapCollector (cols : Cells 32) (c rows : Nat) (f : Nat → Nat → Word → Word × FFlags) : Cells 32 × FFlags :=
  (List.range rows).foldl (fun r i => (List.range 32).foldl (fun (r : Cells 32 × FFlags) j =>
    let e := f i j (cellGet cols (colKey c i j))
    (cellSet r.1 (colKey c i j) e.1, r.2 ||| e.2)) r) (cols, 0)

/-- The collector after an instruction that changes it, and the flags. -/
def collected (o : Op) (m : MatJob) (width : Nat) (cols : Cells 32) : Cells 32 × FFlags :=
  let c := collectorOf o.instr
  let rows := tileRows width
  match o.instr, mmaKindOf o.instr with
  | _, some kind =>
    (match mmaShape kind m.fmt with
     | none => (cols, 0)
     | some sh =>
       let sc := if kind = .scaled then m.streams sh rows else (⟨[], 0, false⟩, ⟨[], 0, false⟩)
       let d : MmaData :=
         { a := m.words 0, b := m.words 1, mta := if kind = .sparse then m.bytes 2 else [], sa := sc.1.es, sb := sc.2.es }
       mapCollector cols c rows (mmaAt sh m.fmt rows (kind == .sparse) d))
  | .cclr .., _ => mapCollector cols c rows fun _ _ _ => (0, 0)
  | .cld .., _ => mapCollector cols c rows fun i j _ => ((m.words 0).getD (32 * i + j) 0, 0)
  | .cscl .., _ =>
    mapCollector cols c rows fun i _ v =>
      let r := FloatFmt.f32.fmul .rn false v.toNat (w32 (cellGet o.vals i)).toNat
      (BitVec.ofNat 32 r.1, r.2)
  | _, _ => (cols, 0)

/-- MATRIX_COMPLETION (R187, R197, R203): in the issue order of the group's collector instructions, one changes its collector and
completes, or a CST reads its collector; a CST or CMPRS whose every word has been written completes. -/
def execMatrixCompletion (op : Nat) (s : State) : Out :=
  match s.op? op with
  | none => .fault .notEnabled
  | some o =>
    match o.job, s.group? o.grp with
    | .matrix m, some g =>
      if !m.read then .fault .notEnabled
      else if m.ready then (if m.writes.all (·.done) then .next (s.finishOp o) else .fault .notEnabled)
      else if (s.matrixOpen o.grp).any fun p => decide (p.uid < o.uid) then .fault .notEnabled
      else
        match o.instr with
        | .cst .. =>
          (match cstType m.fmt with
           | none => .fault .notEnabled
           | some ty =>
             let c := collectorOf o.instr
             let r := cstWords m.fmt ty (tileRows g.width) fun i j => cellGet g.cols (colKey c i j)
             .next (s.setOp { o with
               flags := o.flags ||| r.2, job := .matrix { m with ready := true, writes := fillWords m.writes r.1 } }))
        | _ =>
          let r := collected o m g.width g.cols
          .next ((s.modGroup o.grp fun g => { g with cols := r.1 }).finishOp { o with flags := o.flags ||| r.2 })
    | _, _ => .fault .notEnabled

end Sys2Proof.Machine
end

