-- ==== Sys2Proof/Machine/Records.lean ====
section
/-! DEFINITION. Launch records and images (R279 to R285), launch acceptance and refusal (R293, R394), phase records (R291, R302), and
the room that a core has for a team (R13, R15, R18, R19, R205, R206). -/

namespace Sys2Proof.Machine

/-! ## The launch record and the image header (R279, R281, R282) -/

/-- A launch record. -/
abbrev Rec := BitVec 2048
def Rec.image (r : Rec) : Nat := fldN r 0 64
def Rec.hash (r : Rec) : Nat := fldN r 64 64
def Rec.teams (r : Rec) : Nat := fldN r 128 24
def Rec.groups (r : Rec) : Nat := fldN r 152 6
def Rec.prio (r : Rec) : Nat := fldN r 160 4
def Rec.depInit (r : Rec) : Nat := fldN r 176 16
def Rec.role (r : Rec) (k : Nat) : Nat := fldN r (192 + 32 * k) 32
def Rec.tscr (r : Rec) : Nat := fldN r 320 20
def Rec.lanez (r : Rec) : Nat := fldN r 340 12
def Rec.pool (r : Rec) : Nat := fldN r 352 32
def Rec.args (r : Rec) : Nat := fldN r 384 64
def Rec.argSize (r : Rec) : Nat := fldN r 448 11
def Rec.pmap (r : Rec) : Nat := fldN r 512 64
def Rec.future (r : Rec) : Nat := fldN r 576 64
def Rec.prBase (r : Rec) : Nat := fldN r 640 64
def Rec.prgBlk (r : Rec) : Nat := fldN r 704 16
def Rec.desc (r : Rec) : Nat := fldN r 768 64
def Rec.succ (r : Rec) : Nat := fldN r 832 64
def Rec.scount (r : Rec) : Nat := fldN r 896 16

/-- A role entry keeps the limits of R282. -/
def roleOk (e : Nat) : Bool :=
  e / 2 ^ 6 % 4 == 0 && e / 2 ^ 17 % 8 == 0 && e / 2 ^ 24 == 0 && decide (e % 64 ≤ 32) && decide (e / 2 ^ 8 % 512 ≤ 256) &&
    decide (e / 2 ^ 20 % 16 ≤ 11)

def roleDef (e : Nat) : RoleDef := { count := e % 64, dslots := e / 2 ^ 8 % 512, prio := e / 2 ^ 20 % 16 }

/-- The roles in use. -/
def Rec.roles (r : Rec) : List RoleDef := ((List.range 4).map fun k => roleDef (r.role k)).filter fun d => d.count != 0

/-- Every role entry is legal, no used role follows an unused one, and the counts sum to GROUPS. -/
def Rec.rolesOk (r : Rec) : Bool :=
  (List.range 4).all (fun k => roleOk (r.role k)) &&
    (List.range 3).all (fun k => r.role k % 64 != 0 || r.role (k + 1) % 64 == 0) &&
    r.roles.foldl (fun n d => n + d.count) 0 == r.groups

/-- Check 1 of R283: reserved bits, limits, roles. A template names one team, and its PMAP and DESC are ignored (R298). -/
def Rec.ok (r : Rec) (spawn : Bool) : Bool :=
  fldN r 158 2 == 0 && fldN r 166 10 == 0 && fldN r 459 21 == 0 && fldN r 720 48 == 0 && fldN r 912 1136 == 0 &&
    r.image % 64 == 0 && (if spawn then r.teams == 1 else r.teams != 0) && decide (1 ≤ r.groups) && decide (r.groups ≤ 32) &&
    decide (r.prio ≤ 10) && r.rolesOk && r.tscr % 256 == 0 && decide (r.tscr ≤ 524288) && r.lanez % 64 == 0 &&
    decide (r.lanez ≤ 2048) && r.pool % 4096 == 0 && r.args % 4 == 0 && r.argSize % 4 == 0 && decide (r.argSize ≤ 1024) &&
    (spawn || (r.pmap % 2 == 0 && r.desc % 64 == 0)) && r.future % 16 == 0 && r.prBase % 64 == 0

/-- An image header. -/
abbrev Header := BitVec 1024
def Header.devHash (h : Header) : Nat := fldN h 64 64
def Header.kcore (h : Header) : Nat := fldN h 512 8
def Header.kcoreUsed (h : Header) : Bool := h.getLsbD 520

/-- Check 2 of R283. -/
def Header.ok (h : Header) (r : Rec) : Bool :=
  fldN h 0 32 == 0x49564745 && fldN h 32 8 == 1 && fldN h 40 2 != 3 && fldN h 42 22 == 0 && fldN h 521 23 == 0 &&
    fldN h 624 400 == 0 && !(h.kcoreUsed && decide (h.kcore < r.argSize / 4))

/-- What the device uses of a header. -/
def Header.toImage (h : Header) (addr : Nat) : Image :=
  { addr := addr, width := 16 * 2 ^ fldN h 40 2, codeOff := fldN h 128 32, codeSize := fldN h 160 32, liveOff := fldN h 192 32
    liveCnt := fldN h 224 32, carryOff := fldN h 256 32, carryCnt := fldN h 288 32, sliceOff := fldN h 320 32
    sliceCnt := fldN h 352 32, estimate := fldN h 544 32 }

/-- The enabled cores (R28). -/
def State.enabledCores (s : State) : Nat := ((List.range 256).filter fun c => s.coreMask.getLsbD c).length

/-- The launch that a record and its header describe, with its K bank (R28, R35). -/
def mkLaunch (s : State) (asid a : Nat) (spawn : Bool) (r : Rec) (h : Header) (map : List Nat) (args : List Word) : Launch :=
  let k := cellSets [] ((List.range args.length).zip args)
  { uid := 0, asid := asid, recAddr := a, image := h.toImage r.image, spawned := spawn, teams := r.teams, groups := r.groups
    prio := r.prio, policy := r.getLsbD 164, bridle := r.getLsbD 165, roles := r.roles, tscr := r.tscr, lanez := r.lanez
    pool := r.pool, kbank := if h.kcoreUsed then cellSet k h.kcore (BitVec.ofNat 32 s.enabledCores) else k
    ecap := fldN r 480 32, pmap := map, future := r.future, prBase := r.prBase, prgBlk := r.prgBlk, desc := r.desc, parent := none
    stack := 0, begun := [], ended := [], clean := 0, endgs := [], complete := false, regions := [], used := 0, capped := false }

/-! ## Where a team's groups live (R15, R18, R19, R205, R284) -/

/-- The role of group `i`: roles are taken in ascending order (R19). -/
def roleOf : List RoleDef → Nat → RoleDef
  | [], _ => { count := 0, dslots := 0, prio := 0 }
  | d :: ds, i => if i < d.count then d else roleOf ds (i - d.count)

/-- Which core of a bridle pair group `i` lives on (R18). -/
def halfOf (bridle : Bool) (i : Nat) : Nat := if bridle && i / 4 % 2 == 1 then 1 else 0

/-- Rows of the deep file that a group occupies (R15). -/
def deepRows (width dslots : Nat) : Nat := if width = 64 then 2 * dslots else dslots

/-- A team's groups on one half, and on one partition of it. -/
def Launch.onHalf (l : Launch) (half : Nat) : List Nat := (List.range l.groups).filter fun i => halfOf l.bridle i == half
def Launch.onPart (l : Launch) (half part : Nat) : List Nat := (l.onHalf half).filter fun i => i % 4 == part
def Launch.rowsOn (l : Launch) (half part : Nat) : Nat :=
  (l.onPart half part).foldl (fun n i => n + deepRows l.image.width (roleOf l.roles i).dslots) 0
def Launch.halves (l : Launch) : List Nat := if l.bridle then [0, 1] else [0]

/-- Pool share in MiB of a cluster (R12). -/
def State.poolShare (s : State) (cluster : Nat) : Nat :=
  match tabGet? s.splits cluster with | some n => n | none => 2

/-- One team fits on an empty core or pair of a cluster (R284). -/
def State.fitsEmpty (s : State) (l : Launch) (core : Nat) : Bool :=
  decide (l.pool ≤ s.poolShare (core / 8) * 2 ^ 20) &&
    l.halves.all fun h =>
      decide (l.tscr + l.lanez * l.image.width * (l.onHalf h).length ≤ 524288) &&
        (List.range 4).all fun p => decide ((l.onPart h p).length ≤ 16) && decide (l.rowsOn h p ≤ 2048)

/-- A placement map's entry is legal (R284). -/
def State.mapEntryOk (s : State) (l : Launch) (e : Nat) : Bool :=
  let core := e % 256
  let pair := e / 256 % 2 == 1
  pair == l.bridle && e / 512 == 0 && s.coreMask.getLsbD core && (!pair || (core % 2 == 0 && s.coreMask.getLsbD (core + 1))) &&
    s.fitsEmpty l core

/-! ## Reading and checking a record (R283) -/

/-- Reads `n` units of `w` bytes each, or the first failure with its address. -/
def State.readUnits (s : State) (asid a w : Nat) : Nat → Except (BitVec 8 × Nat) (List Nat)
  | 0 => .ok []
  | n + 1 =>
    match s.vread asid a w with
    | .error c => .error (c, a)
    | .ok v =>
      match State.readUnits s asid (a + w) w n with
      | .error e => .error e
      | .ok r => .ok (v :: r)

/-- Units of `w` bytes as one number, the first lowest. -/
def joinUnits (w : Nat) : List Nat → Nat
  | [] => 0
  | v :: vs => v + 2 ^ (8 * w) * joinUnits w vs

/-- What the checks of a record give: the launch with its record, or the code that refuses it, the future that the record names (0 for
none) and the failed access, if one refused it. -/
inductive Checked where
  | ok (l : Launch) (r : Rec)
  | bad (code : BitVec 8) (future : Nat) (failed : Option (BitVec 8 × Nat))

/-- The checks of R283, in its order; a template's omit the placement map (R298). -/
def State.checkRecord (s : State) (asid a : Nat) (spawn : Bool) : Checked :=
  match s.readUnits asid a 8 32 with
  | .error e => .bad tcLaunch 0 (some e)
  | .ok us =>
    let r : Rec := BitVec.ofNat 2048 (joinUnits 8 us)
    if !r.ok spawn then .bad tcLaunch r.future none
    else
      match s.readUnits asid r.image 8 16 with
      | .error e => .bad tcLaunch r.future (some e)
      | .ok us =>
        let h : Header := BitVec.ofNat 1024 (joinUnits 8 us)
        if !h.ok r then .bad tcLaunch r.future none
        else if r.hash != h.devHash || h.devHash != Config.deviceHash.toNat then .bad tcHash r.future none
        else
          match if spawn then .ok [] else s.readUnits asid r.pmap 2 r.teams with
          | .error e => .bad tcLaunch r.future (some e)
          | .ok map =>
            if map.any fun e => !s.mapEntryOk (mkLaunch s asid a spawn r h [] []) e then .bad tcLaunch r.future none
            else
              match s.readUnits asid r.args 4 (r.argSize / 4) with
              | .error e => .bad tcLaunch r.future (some e)
              | .ok args => .ok (mkLaunch s asid a spawn r h map (args.map (BitVec.ofNat 32))) r

/-- The checks have read the record, its image's header and, where they came so far, the map and the arguments (R245). -/
def State.touchLaunch (s : State) (asid a : Nat) (spawn : Bool) : State :=
  let s := s.touch asid a 256
  match s.checkRecord asid a spawn with
  | .ok _ r => ((s.touch asid r.image 128).touch asid r.pmap (2 * r.teams)).touch asid r.args r.argSize
  | .bad .. => s

/-! ## Acceptance and refusal (R283, R293) -/

/-- Bytes of a team's phase record (R291). -/
def Launch.recordSize (l : Launch) : Nat := 64 + l.groups * 64 * l.prgBlk

/-- A descriptor as acceptance or SPAWN writes it (R283, R298). -/
def newDesc (l : Launch) (r : Rec) (prio prec team core : Nat) : Desc :=
  let put (d : Desc) (lo n v : Nat) : Desc := setFld d lo n v
  let d := put 0 0 3 (if r.depInit = 0 then stReady else stUnstarted)
  let d := put (put (put d 3 1 l.spawned.toNat) 4 4 prio) 8 16 r.depInit
  let d := put (put (put d 40 14 l.asid) 64 64 l.recAddr) 128 64 prec
  let d := put (put (put d 192 64 r.succ) 256 16 r.scount) 272 24 team
  put (put d 452 8 (core % 256)) 460 1 (core / 256 % 2)

/-- Writes the descriptors of a launch, and enqueues those that are READY: the failed access stops it. -/
def State.writeDescs (s : State) (l : Launch) (r : Rec) : List (Nat × Nat) → Except (BitVec 8 × Nat) State
  | [] => .ok s
  | (t, e) :: rest =>
    let d := newDesc l r l.prio (l.prBase + t * l.recordSize) t e
    let a := l.desc + 64 * t
    match s.putDesc l.asid a d with
    | .error c => .error (c, a)
    | .ok s => State.writeDescs (if r.depInit = 0 then s.enqueue l.asid a d else s) l r rest

/-- The status byte of a refusal (R293). -/
def refusalStatus (code : BitVec 8) : Nat := if code = tcHash then 0xF1 else 0xF2

/-- A refused launch fills its future at once (R293). -/
def State.refuse (s : State) (asid code future : Nat) : State := s.fillFuture asid future code 0 0

/-- The Almanac takes a launch record: it accepts or refuses it; the failed access that refused it, if one did (R283, R293). DESIGN CHOICE (log
entry 56): R283 names only reads; a descriptor that cannot be written refuses the launch with 0xF2 too, and what had been written for it is
undone. -/
def State.takeLaunch (s : State) (asid a : Nat) : Option (BitVec 8 × Nat) × State :=
  let s := s.touchLaunch asid a false
  match s.checkRecord asid a false with
  | .bad code future failed => (failed, s.refuse asid (refusalStatus code) future)
  | .ok l r =>
    let uid := s.nextId
    let l := { l with uid := uid }
    match ({ s with nextId := uid + 1 }.setLaunch l).writeDescs l r ((List.range l.teams).zip l.pmap) with
    | .ok t => (none, t)
    | .error e => (some e, s.refuse asid 0xF2 r.future)

/-! ## Phase records (R291, R302, R310) -/

/-- The set bits of a mask, ascending. -/
def maskBits {w : Nat} (m : BitVec w) : List Nat := (List.range w).filter fun k => m.getLsbD k

/-- Bytes of a block (R291). -/
def blockHead (smask : BitVec 64) : Nat := (8 + 4 * (maskBits smask).length + 63) / 64 * 64
def blockSize (dmask : BitVec 256) (smask : BitVec 64) (width : Nat) : Nat :=
  blockHead smask + 4 * width * (maskBits dmask).length

/-- The address of a group's block. -/
def blockAddr (prec prgBlk idx : Nat) : Nat := prec + 64 + 64 * prgBlk * idx

/-- The block's registers: offset, level and register, and the lane of a D register. -/
def blockSlots (dmask : BitVec 256) (smask : BitVec 64) (width : Nat) : List (Nat × Level × Nat × Nat) :=
  let ss := maskBits smask
  let ds := maskBits dmask
  ((List.range ss.length).zip ss).map (fun e => (8 + 4 * e.1, Level.s, e.2, 0)) ++
    ((List.range ds.length).zip ds).flatMap fun e =>
      (List.range width).map fun l => (blockHead smask + 4 * width * e.1 + 4 * l, Level.d, e.2, l)

/-- The scalar file of a group with one split. -/
def Group.sfile1 (g : Group) : Cells 32 := match g.bank.splits with | sp :: _ => sp.sfile | [] => []

/-- A group's register as a block slot names it. -/
def Group.slotWord (g : Group) (e : Nat × Level × Nat × Nat) : Word :=
  if e.2.1 = .s then cellGet g.sfile1 e.2.2.1 else g.dGet e.2.2.1 e.2.2.2

/-- Writes words one by one. -/
def State.vwriteAll (s : State) (asid : Nat) : List (Nat × Word) → Except (BitVec 8 × Nat) State
  | [] => .ok s
  | (a, w) :: rest =>
    match s.vwrite asid a 4 w.toNat with
    | .error c => .error (c, a)
    | .ok s => State.vwriteAll s asid rest

/-- A block's first two words. -/
def blockWord (index : Nat) (parked inSave : Bool) : Word := BitVec.ofNat 32 (index + 2 ^ 16 * parked.toNat + 2 ^ 17 * inSave.toNat)

/-- Writes a group's block (R291): NFLAGS, INDEX, KIND and INSAVE, then, unless it was saved elsewhere, its registers. -/
def State.writeBlock (s : State) (g : Group) (asid a index : Nat) (parked inSave : Bool) (dmask : BitVec 256) (smask : BitVec 64) :
    Except (BitVec 8 × Nat) State :=
  let regs := if inSave then [] else (blockSlots dmask smask g.width).map fun e => (a + e.1, g.slotWord e)
  s.vwriteAll asid ([(a, g.nflags), (a + 4, blockWord index parked inSave)] ++ regs)

/-- Reads the registers of a block back into a group. -/
def State.readBlock (s : State) (g : Group) (asid a : Nat) : List (Nat × Level × Nat × Nat) → Except (BitVec 8 × Nat) Group
  | [] => .ok g
  | e :: rest =>
    match s.vread asid (a + e.1) 4 with
    | .error c => .error (c, a + e.1)
    | .ok v =>
      let w : Word := BitVec.ofNat 32 v
      let g :=
        if e.2.1 = .s then
          { g with bank := { g.bank with splits := g.bank.splits.map fun sp => { sp with sfile := cellSet sp.sfile e.2.2.1 w } } }
        else g.dSet e.2.2.1 e.2.2.2 w
      State.readBlock s g asid a rest

/-- Where an entry of an image's carry table stands (R279). -/
def Launch.carryAddr (l : Launch) (index : Nat) : Nat := l.image.addr + l.image.carryOff + 48 * index

/-- A carry table entry (R279). DESIGN CHOICE (log entry 52): bits [383:320] are reserved and zero, R302 checks nothing of them, and the model
ignores them. -/
def State.carryEntry (s : State) (l : Launch) (index : Nat) : Except (BitVec 8 × Nat) (BitVec 256 × BitVec 64) :=
  match s.readUnits l.asid (l.carryAddr index) 8 6 with
  | .error e => .error e
  | .ok us => .ok (BitVec.ofNat 256 (joinUnits 8 us), BitVec.ofNat 64 (joinUnits 8 (us.drop 4)))

/-- The largest block that a team may write (R302, R310): the pool slot limits a spawned team's too. -/
def State.blockLimit (s : State) (l : Launch) : Nat :=
  let slot := match s.context? l.asid with | some c => 64 * c.taskPS.toNat | none => 0
  if l.spawned then min (64 * l.prgBlk) slot else 64 * l.prgBlk

/-- Sets or clears a group's VALID bit in its record's header. -/
def State.setValid (s : State) (asid prec idx : Nat) (v : Bool) : Except (BitVec 8 × Nat) State :=
  let s := s.touch asid (prec + 4) 4
  match s.vread asid (prec + 4) 4 with
  | .error c => .error (c, prec + 4)
  | .ok n =>
    let w : Word := BitVec.ofNat 32 n
    let m : Word := 1 <<< idx
    s.vwriteAll asid [(prec + 4, if v then w ||| m else w &&& ~~~m)]

/-! ## Room on a core (R15, R206, R207) -/

/-- Whether a group still holds its rows and lane slices: until its residency ends with its instructions completed, or the phase ends (R20,
R151, R302). One that has been saved holds them until its team is out (R340), but for an adoption, whose groups release theirs as they
leave (R310). -/
def State.holds (s : State) (g : Group) : Bool :=
  !(g.place = .saved && (s.teamOf g).any fun t => t.parking == some .adoption) && (!(g.place = .ended) || s.ops.any fun o => o.grp == g.uid) && !(s.teamOf g).any (·.released)

/-- The spans of a core's scratchpad that are allotted: start and length. -/
def State.allotted (s : State) (core : Nat) : List (Nat × Nat) :=
  (((s.teams.map (·.2)).filter fun t => !t.released).filterMap fun (t : Team) =>
    let n := match s.launch? t.launch with | some l => l.tscr | none => 0
    if t.core = core then some (t.base, n) else if t.bridle && t.core + 1 == core then some (t.base2, n) else none) ++
  ((s.groups.map (·.2)).filterMap fun (g : Group) =>
    let z := match s.launchOf g with | some l => l.lanez | none => 0
    if g.core = core && s.holds g then some (g.laneBase, z * g.width) else none)

/-- The first 256-byte boundary at or after a place. -/
def roundUp (n unit : Nat) : Nat := (n + unit - 1) / unit * unit

/-- The lowest boundary from which `n` bytes are free below `limit`: the candidates are 0 and the end of each allotted span. -/
def firstFit (spans : List (Nat × Nat)) (n unit limit : Nat) : Option Nat :=
  let starts := 0 :: spans.map fun e => roundUp (e.1 + e.2) unit
  let free (a : Nat) : Bool :=
    decide (a + n ≤ limit) && spans.all fun e => n == 0 || e.2 == 0 || decide (a + n ≤ e.1) || decide (e.1 + e.2 ≤ a)
  starts.foldl (fun (m : Option Nat) a =>
    if free a then (match m with | some b => some (min a b) | none => some a) else m) none

/-- Places `k` further spans of `n` bytes. -/
def placeSpans (spans : List (Nat × Nat)) (n : Nat) : Nat → Option (List Nat)
  | 0 => some []
  | k + 1 =>
    match firstFit spans n 256 524288 with
    | none => none
    | some a => (placeSpans ((a, n) :: spans) n k).map (a :: ·)

/-- A team's places on one of its cores: its scratchpad, then the lane slices of its groups there (R206). -/
def State.placeHalf (s : State) (l : Launch) (core half : Nat) : Option (Nat × List Nat) :=
  let spans := s.allotted core
  match firstFit spans l.tscr 256 524288 with
  | none => none
  | some base => (placeSpans ((base, l.tscr) :: spans) (l.lanez * l.image.width) (l.onHalf half).length).map (base, ·)

/-- Rows and groups are free on every partition of a core (R15). -/
def State.rowsFree (s : State) (l : Launch) (core half : Nat) : Bool :=
  (List.range 4).all fun p =>
    let there := (s.groupsAt core p).filter s.holds
    decide (there.length + (l.onPart half p).length ≤ 16) &&
      decide (there.foldl (fun n g => n + deepRows g.width g.dslots) 0 + l.rowsOn half p ≤ 2048)

/-- The pool region of a launch in a cluster: the one it has, or the lowest free one of its size (R206). DESIGN CHOICE (log entry 52): a region
that a smaller pool share no longer holds (R12) stays in use. -/
def State.placePool (s : State) (l : Launch) (cluster : Nat) : Option Nat :=
  match tabGet? l.regions cluster with
  | some a => some a
  | none =>
    let spans := (s.launches.map (·.2)).filterMap fun (m : Launch) => (tabGet? m.regions cluster).map fun a => (a, m.pool)
    firstFit spans l.pool 4096 (s.poolShare cluster * 2 ^ 20)

/-- Where a team goes on a core or pair: its places on each half and its pool region, if it fits. -/
structure Placement where
  halves : List (Nat × List Nat)
  pool : Nat
  deriving DecidableEq, Repr

def State.placement (s : State) (l : Launch) (core : Nat) : Option Placement :=
  if !s.coreMask.getLsbD core || (l.bridle && (core % 2 == 1 || !s.coreMask.getLsbD (core + 1))) then none
  else if !l.halves.all fun h => s.rowsFree l (core + h) h then none
  else
    match s.placePool l (core / 8), l.halves.mapM fun h => s.placeHalf l (core + h) h with
    | some p, some hs => some { halves := hs, pool := p }
    | _, _ => none

end Sys2Proof.Machine
end

