-- ==== Sys2Proof/Machine/Memory.lean ====
section
/-! DEFINITION. Memory instructions (R250 to R256), in the full and the compact forms, and the events of the memory system (R240 to
R249, R259). -/

namespace Sys2Proof.Machine

/-! ## LD and ST (R252) -/

/-- LD: all-or-nothing checks, then an access per lane; LD.acq holds the group until it completes and takes effect on
W, N and the program counter then (`State.completeAccess`). -/
def loadOp (i : Instr) (sp : Space) (ty : Ty) (acq : Bool) (s : State) : Out :=
  issue i s fun x s =>
    if x.lanes = 0 then .ok (s.finish x)
    else
      let n := tySize ty
      let r := s.targets x.g x.inHandler sp n needLoad (s.laneAddrs x sp (some 1) x.list)
      if !r.2.1.isEmpty then .error (Trap.ofFaults r.2.1)
      else
        let a : Access :=
          { kind := .load ty, units := r.1.flatMap (unitsOf n (fun _ => 0) fun _ => 0), coalesced := isCoalesced x sp n r.1
            acq := acq, cb := none, release := none, pref := false }
        let uid := s.nextId
        let f (o : Op) : Op := { o with due := s.scratchDue x sp n r.1, job := .access a }
        let asks := s.bankAsks x.g sp n r.1 ++ s.ringAsks x
        .ok (if acq then ((r.2.2.startHeld x f).askBanks uid asks).holdOn x.g.uid uid else (r.2.2.start x f).askBanks uid asks)

/-- ST; ST.rel takes the release part of FENCE.rel.device first, and holds the group until that is done: the store, which then follows it,
removes its lines from the core's data cache there (`execAccessComplete`). -/
def storeOp (i : Instr) (sp : Space) (ty : Ty) (rel : Bool) (s : State) : Out :=
  issue i s fun x s =>
    if x.lanes = 0 then .ok (s.finish x)
    else
      let n := tySize ty
      let r := s.targets x.g x.inHandler sp n needStore (s.laneAddrs x sp (some 2) x.list)
      if !r.2.1.isEmpty then .error (Trap.ofFaults r.2.1)
      else
        let a : Access :=
          { kind := .store ty, units := r.1.flatMap (unitsOf n (s.src x 1) fun _ => 0), coalesced := isCoalesced x sp n r.1
            acq := false, cb := none, release := if rel then some .device else none, pref := false }
        let uid := s.nextId
        let t := ((if rel then r.2.2 else r.2.2.dropCopies x.g.core a.units).start x fun o => { o with due := s.scratchDue x sp n r.1, job := .access a }).askBanks
          uid (s.bankAsks x.g sp n r.1 ++ s.ringAsks x)
        .ok (if rel then t.holdOn x.g.uid uid else t)

/-- LDX and STX (R253): the bitmap is cleared, then each lane goes its own way. -/
def gatherOp (i : Instr) (sp : Space) (ty : Ty) (cb : Nat) (load : Bool) (s : State) : Out :=
  issue i s fun x s =>
    let s := s.modGroup x.g.uid fun g =>
      { g with cb := cellSet g.cb cb 0, gathered := cellClear g.gathered (cb * 64) 64 }
    if x.lanes = 0 then .ok (s.finish x) else .ok (s.gatherSend x sp ty cb load false x.list [] .re)

/-- ATOM and ATOMR (R254): .cas takes no offset; a scope of .team or wider gives release order. -/
def atomicOp (i : Instr) (sp : Space) (ty : Ty) (op : AtomOp) (scope : Scope) (returns : Bool) (s : State) : Out :=
  issue i s fun x s =>
    if x.lanes = 0 then .ok (s.finish x)
    else
      let n := atomSize ty
      let off : Option Nat := if op = .cas then none else some 2
      let r := s.targets x.g x.inHandler sp n needAtom (s.laneAddrs x sp off x.list)
      if !r.2.1.isEmpty then .error (Trap.ofFaults r.2.1)
      else
        let cmp (l : Nat) : DWord := if op = .cas then s.src x 2 l else 0
        let a : Access :=
          { kind := .atom ty op returns, units := r.1.flatMap (unitsOf n (s.src x 1) cmp), coalesced := false, acq := false
            cb := none, release := if scope = .group then none else some scope, pref := false }
        let t := if returns then r.2.2 else r.2.2.dropCopies x.g.core a.units
        .ok ((t.start x fun o => { o with due := s.scratchDue x sp n r.1, job := .access a }).askBanks s.nextId
          (s.bankAsks x.g sp n r.1 ++ s.ringAsks x))

/-- LD (R252). -/
def execLd (c : Ctl) (sp : Space) (ty : Ty) (acq : Bool) (d a x : Opnd) (s : State) : Out :=
  loadOp (.ld c sp ty acq d a x) sp ty acq s

/-- ST (R252). -/
def execSt (c : Ctl) (sp : Space) (ty : Ty) (rel nr : Bool) (a b x : Opnd) (s : State) : Out :=
  storeOp (.st c sp ty rel nr a b x) sp ty rel s

/-- The compact form `LD.pool.z32` (R52). LD (R252). -/
def execLdPoolZ32Compact (c : CCtl) (d a : COpnd) (s : State) : Out :=
  loadOp (.ld c.full .pool .z32 false d.full a.full .null) .pool .z32 false s

/-- The compact form `ST.pool.z32` (R52). ST (R252). -/
def execStPoolZ32Compact (c : CCtl) (a b : COpnd) (s : State) : Out :=
  storeOp (.st c.full .pool .z32 false false a.full b.full .null) .pool .z32 false s

/-- The compact form `LD.core.z32` (R52). LD (R252). -/
def execLdCoreZ32Compact (c : CCtl) (d a : COpnd) (s : State) : Out :=
  loadOp (.ld c.full .core .z32 false d.full a.full .null) .core .z32 false s

/-- The compact form `ST.core.z32` (R52). ST (R252). -/
def execStCoreZ32Compact (c : CCtl) (a b : COpnd) (s : State) : Out :=
  storeOp (.st c.full .core .z32 false false a.full b.full .null) .core .z32 false s

/-- The compact form `LD.lane.z32` (R52). LD (R252). -/
def execLdLaneZ32Compact (c : CCtl) (d a : COpnd) (s : State) : Out :=
  loadOp (.ld c.full .lane .z32 false d.full a.full .null) .lane .z32 false s

/-- The compact form `ST.lane.z32` (R52). ST (R252). -/
def execStLaneZ32Compact (c : CCtl) (a b : COpnd) (s : State) : Out :=
  storeOp (.st c.full .lane .z32 false false a.full b.full .null) .lane .z32 false s

/-- The compact form `LD.glob.z32` (R52). LD (R252). -/
def execLdGlobZ32Compact (c : CCtl) (d a : COpnd) (s : State) : Out :=
  loadOp (.ld c.full .glob .z32 false d.full a.full .null) .glob .z32 false s

/-- The compact form `ST.glob.z32` (R52). ST (R252). -/
def execStGlobZ32Compact (c : CCtl) (a b : COpnd) (s : State) : Out :=
  storeOp (.st c.full .glob .z32 false false a.full b.full .null) .glob .z32 false s

/-- The compact form `LD.core.z64` (R52). LD (R252). -/
def execLdCoreZ64Compact (c : CCtl) (d a : COpnd) (s : State) : Out :=
  loadOp (.ld c.full .core .z64 false d.full a.full .null) .core .z64 false s

/-- The compact form `ST.core.z64` (R52). ST (R252). -/
def execStCoreZ64Compact (c : CCtl) (a b : COpnd) (s : State) : Out :=
  storeOp (.st c.full .core .z64 false false a.full b.full .null) .core .z64 false s

/-- LDX (R253). -/
def execLdx (c : Ctl) (sp : Space) (ty : Ty) (cb : BitVec 2) (d a x : Opnd) (s : State) : Out :=
  gatherOp (.ldx c sp ty cb d a x) sp ty cb.toNat true s

/-- STX (R253). -/
def execStx (c : Ctl) (sp : Space) (ty : Ty) (cb : BitVec 2) (nr : Bool) (a b x : Opnd) (s : State) : Out :=
  gatherOp (.stx c sp ty cb nr a b x) sp ty cb.toNat false s

/-- ATOM (R254). -/
def execAtom (c : Ctl) (sp : Space) (ty : Ty) (aop : AtomOp) (scope : Scope) (d a b x : Opnd) (s : State) : Out :=
  atomicOp (.atom c sp ty aop scope d a b x) sp ty aop scope true s

/-- ATOMR (R245, R254). -/
def execAtomr (c : Ctl) (sp : Space) (ty : Ty) (aop : AtomOp) (scope : Scope) (a b x : Opnd) (s : State) : Out :=
  atomicOp (.atomr c sp ty aop scope a b x) sp ty aop scope false s

/-! ## FENCE, PIN, UNPIN, ICINV, PREF (R255, R256) -/

/-- FENCE (R255, R265): .acq sets the acquire mark and is done; the others hold the group until their release step. -/
def execFence (c : Ctl) (scope : Scope) (half : FenceHalf) (s : State) : Out :=
  issue (.fence c scope half) s fun x s =>
    if half = .acq then .ok ((s.finish x).modGroup x.g.uid fun g => { g with acquire := now s })
    else
      let uid := s.nextId
      .ok ((s.start x fun o => { o with job := .fence scope half }).holdOn x.g.uid uid)

/-- The first page of a range that PIN or UNPIN may not touch (R239, R256): `n` pages from a page on. -/
def State.rangeFault (s : State) (g : Group) (hand : Bool) (page : Nat) : Nat → Option (BitVec 8 × Bool × Nat) × State
  | 0 => (none, s)
  | n + 1 =>
    let r := s.xlate g.core (s.asidOf g) (page * 2 ^ 16) .both hand
    match r.1 with
    | .fault c table _ => (some (c, table, page * 2 ^ 16), r.2)
    | .ok _ _ _ nopin _ => if nopin then (some (tcPerm, false, page * 2 ^ 16), r.2) else State.rangeFault r.2 g hand (page + 1) n

/-- The checks of a range and the operation that carries it out. -/
def rangeOp (i : Instr) (op : RangeOp) (s : State) : Out :=
  issue i s fun x s =>
    if x.lanes = 0 then .ok (s.finish x)
    else
      let va := (s.srcLow x 0).toNat
      let len := (w32 (s.srcLow x 1)).toNat
      let bad (c : BitVec 8) (access : BitVec 3) (a : Nat) : Trap := Trap.one c x.sp.lanes (BitVec.ofNat 64 a) access
      if 2 ^ 56 ≤ va || 2 ^ 56 < va + len then .error (bad tcAddress 4 va)
      else if op != .icinv && (va % 128 != 0 || len % 128 != 0) then .error (bad tcAlign 4 va)
      else if len = 0 then .ok (s.finish x)
      else
        let r := if op = .icinv then (none, s)
                 else s.rangeFault x.g x.inHandler (va / 2 ^ 16) ((va + len - 1) / 2 ^ 16 - va / 2 ^ 16 + 1)
        match r.1 with
        | some (c, table, a) => .error (bad c (if table then 6 else 4) (max a va))
        | none => .ok (r.2.start x fun o => { o with job := .range op va len })

/-- PIN (R247, R256). -/
def execPin (c : Ctl) (a b : Opnd) (s : State) : Out := rangeOp (.pin c a b) .pin s

/-- UNPIN (R247, R256). -/
def execUnpin (c : Ctl) (a b : Opnd) (s : State) : Out := rangeOp (.unpin c a b) .unpin s

/-- ICINV (R249, R256). -/
def execIcinv (c : Ctl) (a b : Opnd) (s : State) : Out := rangeOp (.icinv c a b) .icinv s

/-- PREF (R256): lanes whose checks fail are dropped. -/
def execPref (c : Ctl) (a x : Opnd) (s : State) : Out :=
  issue (.pref c a x) s fun x s =>
    let r := s.targets x.g x.inHandler .glob 1 needLoad (s.laneAddrs x .glob (some 1) x.list)
    if r.1.isEmpty then .ok (r.2.2.finish x)
    else
      let a : Access :=
        { kind := .load .z8, units := r.1.flatMap (unitsOf 1 (fun _ => 0) fun _ => 0), coalesced := false, acq := false
          cb := none, release := none, pref := true }
      .ok (r.2.2.start x fun o => { o with job := .access a })

/-! ## Pins (R247) -/

/-- The pinned lines of a column's slice, and how many it may have: half of its L2 lines. -/
def State.pinned (s : State) (col : Nat) : List Nat := ((s.pins.map (·.line)).eraseDups).filter fun l => s.homeColumn (l * 128) == col
def State.pinLimit (s : State) (col : Nat) : Nat := (8 - s.poolShare (col / 8)) * 4096

/-- Whether a line may still be pinned. -/
def State.pinRoom (s : State) (line : Nat) : Bool :=
  let col := s.homeColumn (line * 128)
  (s.pinned col).contains line || decide ((s.pinned col).length < s.pinLimit col)

/-- Pins or unpins `n` lines of a range, and the virtual address of the first line refused. -/
def State.pinLines (s : State) (asid : Nat) (pin : Bool) (va : Nat) : Nat → State × Option Nat
  | 0 => (s, none)
  | n + 1 =>
    let s := s.recallWalk asid va
    match s.xlateWalk asid va .both true with
    | .fault .. => State.pinLines s asid pin (va + 128) n
    | .ok pa _ _ _ _ =>
      let mine (p : Pin) : Bool := p.asid == asid && p.line == pa / 128
      if !pin then State.pinLines { s with pins := s.pins.filter fun p => !mine p } asid pin (va + 128) n
      else if s.pins.any mine then State.pinLines s asid pin (va + 128) n
      else if s.pinRoom (pa / 128) then
        State.pinLines { s with pins := s.pins ++ [{ asid := asid, line := pa / 128, va := va }] } asid pin (va + 128) n
      else
        let r := State.pinLines s asid pin (va + 128) n
        (r.1, some va)

/-- What PIN, UNPIN and ICINV do; a PIN that meets the limit posts PIN_DROPPED. -/
def State.rangeDone (s : State) (o : Op) (op : RangeOp) (va len : Nat) : State :=
  match s.group? o.grp with
  | none => s
  | some g =>
    let asid := s.asidOf g
    match op with
    | .icinv =>
      { s with icache := s.icache.filter fun l =>
          !(l.core == g.core && l.asid == asid && decide (va / 64 ≤ l.line) && decide (l.line ≤ (va + len - 1) / 64)) }
    | .pin =>
      let r := s.pinLines asid true va (len / 128)
      (match r.2 with
       | some a => r.1.postNotice g.uid ⟨tcPin, 4, BitVec.ofNat 64 a, o.lanes⟩ o.pc
       | none => r.1)
    | .unpin => (s.pinLines asid false va (len / 128)).1
    | .pref => s

/-! ## Events of the ordering machine (R243, R259) -/

/-- LEASE_EXPIRY (R243, R263): a copy whose lease has run out can be hit no more, and goes. -/
def execLeaseExpiry (core line : Nat) (s : State) : Out :=
  match s.copies.find? fun c => c.core == core && c.line == line with
  | some c => if c.expiry ≤ now s then .next (s.dropCopy core line) else .fault .notEnabled
  | none => .fault .notEnabled

/-! ## Soft errors and migration (R242, R248) -/

/-- SOFT_ERROR (R248): a correctable error is counted for firmware; an uncorrectable one poisons its line or word. -/
def execSoftError (site : ErrorSite) (correctable : Bool) (s : State) : Out :=
  let there := match site with
    | .dramLine l => decide (l < dramSize / 128)
    | .scratchWord core word => decide (core < 256) && decide (word < 2 ^ 17)
    | .poolWord column word => decide (column < 256) && decide (word < 2 ^ 21)
  let put (ws : List Nat) (k : Nat) : List Nat := if ws.contains k then ws else ws ++ [k]
  if !there then .fault .notEnabled
  else if correctable then .next { s with corrected := s.corrected + 1 }
  else
    match site with
    | .dramLine l => .next { s with poisonLines := put s.poisonLines l }
    | .scratchWord core word => .next { s with poisonWords := put s.poisonWords (core * 2 ^ 17 + word) }
    | .poolWord column word => .next { s with poisonWords := put s.poisonWords (poolWords + column * 2 ^ 21 + word) }

/-- A pin is dropped with a record for its context (R247). -/
def State.dropPin (s : State) (p : Pin) : State :=
  ({ s with pins := s.pins.filter (· != p) }).logFault p.asid { almanacRecord tcPin p.va 0 with access := 4, notice := true }

/-- Pins of a column's slice are dropped, those of one line after another, until no more than its limit are left. DESIGN CHOICE (log entry
59): the spec does not say which go when the slice's L2 share shrinks; any may. `n` bounds how many. -/
def State.trimPins (s : State) (col : Nat) : Nat → State
  | 0 => s
  | n + 1 =>
    let lines := s.pinned col
    if lines.length ≤ s.pinLimit col then s
    else
      let k := s.choice lines.length
      State.trimPins ((k.2.pins.filter fun p => p.line == lines.getD k.1 0).foldl State.dropPin k.2) col n

/-- Whether a block lies on a page that a core uses and whose leaf has MIG = 1 (R242). -/
def State.migratable (s : State) (block : Nat) : Bool :=
  s.tlb.any fun t => t.leaf.getLsbD 7 && decide (t.base ≤ block * 4096) && decide (block * 4096 < t.base + 2 ^ 16)

/-- MIGRATION (R242): update-only copies of the block's lines are recalled, their pins dropped, and the block has a new home. None begins
into or out of a column under maintenance (R386). -/
def execMigration (block column : Nat) (s : State) : Out :=
  if !s.migratable block || 256 ≤ column || s.homeColumn (block * 4096) == column || (s.maintAt column).isSome ||
      (s.maintAt (s.homeColumn (block * 4096))).isSome then .fault .notEnabled
  else
    let lines := (List.range 32).map (block * 32 + ·)
    let s := lines.foldl (fun s l => s.recall l) s
    let s := (s.pins.filter fun p => p.line / 32 == block).foldl State.dropPin s
    .next { s with homes := tabSet s.homes block column }

end Sys2Proof.Machine
end

