-- ==== Sys2Proof/Machine/Picker.lean ====
section
/-! DEFINITION. The picker (R89, R91, R93, R96 to R101): which instruction of which group issues on each port of a partition in a clk. -/

namespace Sys2Proof.Machine

/-! ## Fetched instructions (R38 to R41) -/

/-- What a split's next address holds, if its line is in the core's instruction cache: the length and the instruction in full form,
or the trap of its fetch. -/
def State.nextOf (s : State) (g : Group) (sp : Split) : Option (Nat × Except (BitVec 8 × BitVec 3) Instr) :=
  (s.line? g sp.pc).map fun l => l.coreAt sp.pc g.hand.isSome

/-- The port and the stall distance of what is fetched. DESIGN CHOICE (log entry 46): a fault word or a failed fetch competes for the VEC
port, with a stall distance of 0 and no wait mask: the spec names neither its port nor its timing. -/
def portAt (e : Except (BitVec 8 × BitVec 3) Instr) : Port :=
  match e with
  | .ok i => portOf (opcodeOf i)
  | .error _ => .vec

def stallAt (e : Except (BitVec 8 × BitVec 3) Instr) : Nat :=
  match e with
  | .ok i => match i.ctl with | some c => c.stall.toNat | none => 0
  | .error _ => 0

/-! ## Eligibility (R89) -/

/-- Condition 1 and 6: the group holds a slot, nothing has stopped it, no delivery is due first, and no drain or sleep holds it. -/
def State.groupOpen (s : State) (g : Group) : Bool :=
  g.slot?.isSome && !g.leaving && g.unwinding.isNone &&
    (match g.hand with | some h => h.exit.isNone | none => g.deliveries.isEmpty) &&
    (match g.debug with | .halted | .stepping => false | _ => true) &&
    (match g.hold with
     | .free => true
     | .drain => !(s.ops.any fun o => o.grp == g.uid)
     | .sleep .. | .op _ => false)

/-- Condition 3: the stall distance, the bubble, and at most one issue a clk, or every second clk at width 64 (R91, R93). -/
def timeMet (s : State) (g : Group) (sp : Split) (stall : Nat) : Bool :=
  decide (sp.base + stall ≤ s.clkOf g.core) && decide (sp.notBefore ≤ s.clkOf g.core) &&
    (match g.bk.prevIssue with
     | some c => decide (c + (if g.width = 64 then 2 else 1) ≤ s.clkOf g.core)
     | none => true)

/-- Whether the address of a split of a debug context is armed in the group's stack and has not halted it there already (R349). -/
def State.breakAt (s : State) (g : Group) (sp : Split) : Bool :=
  !sp.passed && ((s.contextOf g).any fun c => c.debug) && g.debug matches .run &&
    (List.range 4).any fun k => tabGet? s.breaks (g.core / 32 * 4 + k) == some sp.pc

/-- Conditions 1 to 7 for a split, its port apart; what it would issue. DESIGN CHOICE (log entry 58): a terminator other than EXIT and PHEND, whose
checks look at the STRAND after it (R122), waits for the line of that STRAND too. -/
def State.ready? (s : State) (g : Group) (sp : Split) : Option (Nat × Except (BitVec 8 × BitVec 3) Instr) :=
  if !s.groupOpen g || sp.held || s.breakAt g sp then none
  else
    match s.nextOf g sp with
    | none => none
    | some (n, e) =>
      if !timeMet s g sp (stallAt e) then none
      else
        match e with
        | .error f => some (n, .error f)
        | .ok i =>
          match i.ctl with
          | none => none
          | some c =>
            let x := s.asIssue i c g sp sp.pc n
            let follows := !isTerminator i || i matches .exit .. || i matches .phend .. ||
              (s.line? g (sp.pc + BitVec.ofNat 64 n)).isSome
            if follows && s.mayIssue x then some (n, .ok i) else none

/-- Condition 8: the port is not occupied. -/
def State.portFree (s : State) (g : Group) (p : Port) : Bool :=
  decide (tabGetD (s.partAt g.core g.part).busy p.idx 0 ≤ s.clkOf g.core)

/-- A candidate: a group, its split, and the port of its instruction. -/
structure Cand where
  g : Group
  sp : Split
  port : Port

def State.eligible? (s : State) (g : Group) (sp : Split) : Option Cand :=
  match s.ready? g sp with
  | none => none
  | some (_, e) => if s.portFree g (portAt e) then some { g := g, sp := sp, port := portAt e } else none

/-! ## Which split a group offers (R97) -/

/-- The order in which R97 considers a group's splits. -/
def splitBefore (rr : Bool) (last : Nat) (a b : Split) : Bool :=
  if rr then decide ((a.id + 7 - last) % 8 ≤ (b.id + 7 - last) % 8)
  else
    let ka := if a.id = last then 0 else 1
    let kb := if b.id = last then 0 else 1
    if ka != kb then decide (ka < kb)
    else if a.last != b.last then decide (a.last < b.last)
    else decide (a.id ≤ b.id)

def insertBy {α : Type} (le : α → α → Bool) (x : α) : List α → List α
  | [] => [x]
  | y :: ys => if le x y then x :: y :: ys else y :: insertBy le x ys

def sortBy {α : Type} (le : α → α → Bool) : List α → List α
  | [] => []
  | x :: xs => insertBy le x (sortBy le xs)

/-- The splits of a group that are not held, in R97's order. -/
def State.splitOrder (s : State) (g : Group) : List Split :=
  sortBy (splitBefore (s.roundRobin g.core g.part) g.bk.lastSplit) (g.bk.splits.filter fun x => !x.held)

/-- The splits of a group in the order in which it offers them. R97 gives the order. DESIGN CHOICE (log entry 58): under GTO R97's split that
issued last would keep another ready one waiting past the 64 clk of R22 while it stays eligible; so a split that has been eligible for 32 clk
without issuing goes before it, the longest first. -/
def State.offerOrder (s : State) (g : Group) : List Split :=
  let order := s.splitOrder g
  if s.roundRobin g.core g.part then order
  else sortBy (fun a b => decide (b.waited ≤ a.waited)) (order.filter fun x => decide (32 ≤ x.waited)) ++ order

/-- The split that the picker would take next (R97), whatever delivery is due and whatever Lantern holds: the first eligible one, or the first in
order. -/
def State.nextSplit (s : State) (g : Group) : Option Split :=
  match (s.offerOrder g).find? fun sp => (s.eligible? { g with deliveries := [], debug := .step none } sp).isSome with
  | some sp => some sp
  | none => (s.offerOrder g).head?

/-- What a group offers in this clk; a group that Lantern steps offers only that split (R353). -/
def State.offer (s : State) (g : Group) : Option Cand :=
  let order := match g.debug with | .step (some k) => (s.splitOrder g).filter fun (x : Split) => x.id == k | _ => s.offerOrder g
  order.findSome? (s.eligible? g)

/-! ## The choice on a port (R96, R98, R99) -/

/-- Place in the round-robin list. -/
def rrIndex (p : Part) (uid : Nat) : Nat := (p.rr.takeWhile fun u => u != uid).length

/-- Whether candidate `a` goes before `b` on its port. -/
def candBefore (rr : Bool) (p : Part) (a b : Cand) : Bool :=
  let late (c : Cand) : Nat := if 16 ≤ c.sp.waited then c.sp.waited - 15 else 0
  let age (c : Cand) : Nat := match c.g.place with | .active _ since => since | _ => 0
  let slot (c : Cand) : Nat := c.g.slot?.getD 0
  let marked (c : Cand) : Bool := tabGet? p.marks c.port.idx == some c.g.uid
  if late a != late b then decide (late b < late a)
  else if a.g.prio != b.g.prio then decide (b.g.prio < a.g.prio)
  else if rr then decide (rrIndex p a.g.uid ≤ rrIndex p b.g.uid)
  else if marked a != marked b then marked a
  else if age a != age b then decide (age a < age b)
  else decide (slot a ≤ slot b)

def bestCand (rr : Bool) (p : Part) : List Cand → Option Cand
  | [] => none
  | a :: as =>
    match bestCand rr p as with
    | none => some a
    | some b => some (if candBefore rr p a b then a else b)

/-- The groups that hold a slot of a partition, in ascending slot order. -/
def State.slotHolders (s : State) (core part : Nat) : List Group :=
  sortBy (fun a b => decide (a.slot?.getD 0 ≤ b.slot?.getD 0)) ((s.groupsAt core part).filter fun g => g.slot?.isSome)

/-- Groups whose activation has completed enter the round-robin list at the back (R99, R391), and those that issued in the last clk
served move there, in port order. -/
def refreshList (p : Part) (clk : Nat) (holders : List Group) : Part :=
  let moved := p.issued.map (·.2)
  let rr := (p.rr.filter fun u => !moved.contains u) ++ (moved.filter fun u => p.rr.contains u)
  let new := holders.filter fun g => !rr.contains g.uid && (match g.place with | .active _ since => decide (since ≤ clk) | _ => false)
  { p with rr := rr ++ new.map (·.uid), issued := [] }

/-- A split's count of clk in which it was eligible without issuing (R96). -/
def Group.countWait (g : Group) (ids : List Nat) : Group :=
  g.setBk { g.bk with splits := g.bk.splits.map fun sp => if ids.contains sp.id then { sp with waited := sp.waited + 1 } else sp }

/-- The picker serves a partition in this clk: the winners of the three ports in ascending slot order, and the counts of the others. -/
def State.servePart (s : State) (core part : Nat) : State :=
  let holders := s.slotHolders core part
  let s := s.setPart core part (refreshList (s.partAt core part) (s.clkOf core) holders)
  let p := s.partAt core part
  let rr := s.roundRobin core part
  let offers := holders.filterMap s.offer
  let wins := [Port.vec, .mat, .mem].filterMap fun port => bestCand rr p (offers.filter fun c => c.port == port)
  let won (g : Group) (sp : Split) : Bool := wins.any fun (c : Cand) => c.g.uid == g.uid && c.sp.id == sp.id
  let s := holders.foldl (fun s g =>
    let late := (g.bk.splits.filter fun sp => !won g sp && (s.eligible? g sp).isSome).map (·.id)
    if late.isEmpty then s else s.setGroup (g.countWait late)) s
  { s with
    picks := sortBy (fun a b => decide (a.2.2 ≤ b.2.2)) (wins.map fun c => (c.g.uid, c.sp.id, c.g.slot?.getD 0))
      |>.map fun e => (e.1, e.2.1) }

/-- A group whose next instruction is a pop of a queue of which it holds a position, with conditions 1 to 6 met (R217). -/
def State.retireDue (s : State) (g : Group) : Option Nat :=
  match s.teamOf g with
  | none => none
  | some t =>
    if !s.groupOpen g then none
    else
      (s.splitOrder g).findSome? fun sp =>
        match s.nextOf g sp with
        | some (_, .ok i) =>
          let q : Option Nat := match i with
            | .qpop _ qn _ => some qn.toNat
            | i => match i.qField with | some (true, q) => some q | _ => none
          match q, i.ctl with
          | some q, some c =>
            let x := s.asIssue i c g sp sp.pc 0
            if (tabGet? (t.queue q).held g.idx).isSome && x.lanes != 0 && timeMet s g sp c.stall.toNat && g.bk.waitMet c.wait &&
                g.bk.setRoom c.set.toNat then some q
            else none
          | _, _ => none
        | _ => none

/-- The partitions on which a group holds a slot, by key. -/
def State.activeParts (s : State) : List Nat :=
  ((s.groups.filter fun e => e.2.slot?.isSome).map fun e => partKey e.2.core e.2.part).eraseDups

/-- The next partition to serve from a key on, of a core that has reached a clk. -/
def State.nextPart (s : State) (from_ : Nat) : Option Nat :=
  (s.activeParts.filter fun k => decide (from_ ≤ k) && s.isLive (k / 4)).foldl
    (fun (m : Option Nat) k => match m with | some a => some (min a k) | none => some k) none

/-- A fetch that failed, or a fault word, is reached: its trap is raised at the address that could not be fetched or decoded (R40,
R41), and a line whose fetch failed will be fetched again. It uses the VEC port as an instruction of it would (log entry 46). -/
def State.fetchTrap (s : State) (uid split len : Nat) (code : BitVec 8) (access : BitVec 3) : State :=
  match s.group? uid with
  | none => s
  | some g =>
    match g.bk.split? split with
    | none => s
    | some sp =>
      let s := s.noteIssue g sp .vec (if g.width = 64 then 2 else 1)
      let s := { s with icache := s.icache.filter fun l =>
        !(l.fail.isSome && l.core == g.core && l.asid == s.asidOf g && l.line == sp.pc.toNat / 64) }
      match s.group? uid with
      | none => s
      | some g =>
        let t := Trap.one code sp.lanes (if access = 0 then 0 else sp.pc) access
        s.raiseTrap g split sp.pc len { t with resume := if code = tcStraddle then .line else .re }

end Sys2Proof.Machine
end

