-- ==== Sys2Proof/Machine/Slots.lean ====
section
/-! DEFINITION. The events of active slots and results: activation, results that land, lines that arrive, sleeps that end, queue
positions, notices and breakpoints (R21, R39, R92, R105, R217, R248, R330, R349). -/

namespace Sys2Proof.Machine

/-! ## Activation (R21, R22) -/

/-- Whether the STRAND at which a group without a slot waits passes its checks, so that a pending request is honoured there without
activating it (R123, R124). -/
def State.strandPasses (s : State) (g : Group) : Bool :=
  match g.bank.splits with
  | sp :: _ =>
    match s.nextOf g sp with
    | some (n, .ok (.strand c e)) =>
      (match s.strandEntry (s.asIssue (.strand c e) c g sp sp.pc n) e.toNat with | .ok _ => true | .error _ => false)
    | some _ => false
    | none => true
  | [] => false

/-- The slots of a partition that no group holds. -/
def State.freeSlots (s : State) (core part : Nat) : List Nat :=
  (List.range 4).filter fun k => !((s.groupsAt core part).any fun g => g.slot? == some k)

/-- The resident groups that may be activated. -/
def State.readyGroups (s : State) (core part : Nat) : List Group :=
  (s.groupsAt core part).filter fun g =>
    (match g.place with | .ready _ => true | _ => false) && !g.leaving && (g.request.isNone || g.saveBad || !s.strandPasses g)

/-- Order of R21 and R22: a group that has been ready for 2,048 clk first, then priority, the longest wait, the index, and between
teams the earlier placed. -/
def activateBefore (s : State) (a b : Group) : Bool :=
  let since (g : Group) : Nat := match g.place with | .ready c => c | _ => 0
  let due (g : Group) : Bool := decide (since g + 2048 ≤ s.clkOf g.core)
  let placed (g : Group) : Nat := match s.team? g.team with | some t => t.placed | none => 0
  if due a != due b then due a
  else if a.prio != b.prio then decide (b.prio < a.prio)
  else if since a != since b then decide (since a < since b)
  else if a.team = b.team then decide (a.idx ≤ b.idx)
  else decide (placed a ≤ placed b)

def bestReady (s : State) : List Group → Option Group
  | [] => none
  | a :: as =>
    match bestReady s as with
    | none => some a
    | some b => some (if activateBefore s a b then a else b)

/-- The group is given a slot: near levels empty, one split with identifier 0, and its first instruction no earlier than 4 clk after
the slot became free (R21, R91, R109, R111, R135); after a save it takes an acquire step (R266), and a request to halt it takes
effect (R352). -/
def State.activate (s : State) (g : Group) (slot : Nat) : State :=
  let since := match g.place with | .ready c => c | _ => s.clkOf g.core
  let at_ := max (tabGetD (s.partAt g.core g.part).freed slot 0) since + 4
  let splits := g.bank.splits.map fun sp =>
    { sp with id := if g.bank.splits.length = 1 then 0 else sp.id, last := 0, base := at_, notBefore := at_, waited := 0 }
  (s.setGroup { g with
    place := .active slot at_
    acquire := if g.restored then now s else g.acquire
    restored := false
    debug := if g.debug = .atActivation then .halted else g.debug
    bank := { g.bank with win := [], nst := [], nval := [], splits := splits, lastSplit := 0, prevIssue := none }
    cols := [] }).deliver g.uid

/-- ACTIVATION (R21): the lowest free slot of a partition goes to the best ready group. -/
def execActivation (core part : Nat) (s : State) : Out :=
  match s.freeSlots core part, bestReady s (s.readyGroups core part) with
  | slot :: _, some g => .next (s.activate g slot)
  | _, _ => .fault .notEnabled

/-! ## Results (R92, R217, R223, R348) -/

/-- UWRITE's effect (R348): the user's entry becomes complete with the lane's value, an empty one in its place in the window; or the
near slots named take the value and the state that the field gives. -/
def uwriteLane (b : Bank) (u : Opnd) (wide : Bool) (l : Nat) (v : DWord) : Bank :=
  match u.lvl with
  | .w =>
    let es := tabGetD b.win l []
    let empty : WEntry := { tag := 0, done := false, val := 0 }
    let es := es ++ List.replicate (u.idx.toNat + 1 - es.length) empty
    { b with win := tabSet b.win l (es.set u.idx.toNat { tag := 0, done := true, val := if wide then v else ofW (w32 v) }) }
  | _ =>
    let m := cellSet b.nval (laneKey u.nSlot l) (v.extractLsb' 0 32)
    { b with nval := if wide then cellSet m (laneKey (u.nSlot + 1) l) (v.extractLsb' 32 32) else m }

def State.uwrite (s : State) (o : Op) (u : Opnd) (wide : Bool) : State :=
  s.modGroup o.grp fun g =>
    let b := (o.lanes.list 64).foldl (fun b l => uwriteLane b u wide l (cellGet o.vals l)) g.bank
    let nst := if o.lanes = 0 then b.nst else setNear b.nst { op := u, wide := wide, shift := false, predicate := false }
    { g with bank := { b with nst := nst } }

/-- FIXED_RESULT_LANDS (R92): a result whose clk has come is written and its instruction completes; UREAD's waits for the user's
results in flight to what it names, and UWRITE writes it. -/
def execFixedResultLands (op : Nat) (s : State) : Out :=
  match s.op? op with
  | none => .fault .notEnabled
  | some o =>
    if !s.opDue o then .fault .notEnabled
    else
      match o.job with
      | .plain | .preds | .popped => .next (s.landAndFinish o)
      | .uwrite u wide => .next ((s.uwrite o u wide).finishOp o)
      | .uread u wide =>
        match s.group? o.grp with
        | none => .fault .notEnabled
        | some g =>
          if s.userWriting g u wide then .fault .notEnabled
          else .next (s.landAndFinish { o with vals := laneVals (o.lanes.list 64) (ureadValue g u wide) })
      | _ => .fault .notEnabled

/-- Whether an operation is a store or atomic to the team scratchpad of the group's own core or bridle half (R219). -/
def Op.ownScratchStore (o : Op) (t : Team) : Bool :=
  let own (k : Nat) : Bool := k / 2 ^ 19 == t.core || (t.bridle && k / 2 ^ 19 == t.core + 1)
  match o.job with
  | .access a =>
    !(a.kind matches .load _) && a.units.any fun u => match u.loc with | .scratch k => own k | _ => false
  | .matrix m => m.writes.any fun w => own w.key
  | _ => false

/-- QUEUE_LAND (R217, R219): the push of an instruction lands once every earlier scratch store of its group has completed, and the
instruction completes. -/
def execQueueLand (op : Nat) (s : State) : Out :=
  match s.op? op with
  | none => .fault .notEnabled
  | some o =>
    match o.job, s.group? o.grp with
    | .push team q uid handle, some g =>
      let before := match s.team? team with
        | some t => s.ops.any fun p => p.grp == o.grp && decide (p.uid < o.uid) && p.ownScratchStore t
        | none => false
      if !s.opDue o || before || g.uid != o.grp then .fault .notEnabled
      else .next ((s.landPush team q uid handle).landAndFinish o)
    | _, _ => .fault .notEnabled

/-- QUEUE_RETIRE (R217): a held position is retired when the group's next pop of the queue has become its next instruction. -/
def execQueueRetire (grp qn : Nat) (s : State) : Out :=
  match s.group? grp with
  | none => .fault .notEnabled
  | some g =>
    if s.retireDue g = some qn then .next (s.modTeam g.team fun t => t.setQueue qn ((t.queue qn).retire g.idx))
    else .fault .notEnabled

/-! ## Instruction lines (R39, R41, R240) -/

/-- The lines that a core's groups and Reel contexts fetch from next: of each next instruction, and of the one that follows it. -/
def State.wantedLines (s : State) : List (Nat × Nat × Nat) :=
  ((s.groups.map (·.2)).flatMap (fun (g : Group) =>
    g.bk.splits.flatMap fun (sp : Split) =>
      [(g.core, s.asidOf g, sp.pc.toNat / 64), (g.core, s.asidOf g, (sp.pc.toNat + 12) / 64)]) ++
   s.reels.filterMap (fun (e : Nat × ReelCtx) =>
    if e.2.busy && !e.2.ended then
      (s.team? e.2.team).map fun t => (e.1 / 4, t.asid, e.2.pc.toNat / 64)
    else none)).eraseDups

/-- The line as a fill reads it, whole, at its home (R39), or the failure of the fetch (R41). -/
def State.fillLine (s : State) (core asid line : Nat) : ILine × State :=
  let r := s.xlate core asid (line * 64) .fetch true
  let base : ILine := { core := core, asid := asid, line := line, words := [], priv := false, fail := none }
  match r.1 with
  | .fault c table _ => ({ base with fail := some (c, if table then 6 else 1) }, r.2)
  | .ok pa _ _ _ priv =>
    if r.2.poisoned (.glob pa) 64 then ({ base with fail := some (tcMem, 1) }, r.2)
    else
      let s := r.2.recall (pa / 128)
      ({ base with words := bytesWords (readBytes s.dram pa 64), priv := priv }, s)

/-- The instructions of a line, as its words decode from the first (R37, R38). -/
def countInstrs : List Word → (skip : Nat) → Nat
  | [], _ => 0
  | _ :: ws, skip + 1 => countInstrs ws skip
  | w :: ws, 0 => 1 + countInstrs ws (lengthOf w / 4 - 1)

/-- Bytes that a line takes in the cache, which holds its instructions as 96-bit words (R14). -/
def ILine.size (l : ILine) : Nat := 12 * countInstrs l.words 0

/-- Bytes of a core's instruction cache (R14). -/
def icacheSize : Nat := 131072

/-- Lines of a core leave its cache, whichever (R249), until `size` more bytes have room there (R14); `n` bounds how many. -/
def State.roomInIcache (s : State) (core size : Nat) : Nat → State
  | 0 => s
  | n + 1 =>
    let mine := s.icache.filter fun l => l.core == core
    if (mine.map ILine.size).sum + size ≤ icacheSize then s
    else
      let k := s.choice mine.length
      match mine[k.1]? with
      | none => s
      | some out =>
        State.roomInIcache { k.2 with
          icache := s.icache.filter fun l => !(l.core == core && l.asid == out.asid && l.line == out.line) } core size n

/-- ICACHE_FILL (R39): a wanted line arrives, in place of an older version that eviction removes (R249), once others have left the core's cache
if it is full (R14). -/
def execIcacheFill (core asid line : Nat) (s : State) : Out :=
  if s.wantedLines.contains (core, asid, line) && (s.context? asid).isSome then
    s.holdOr (fun s => s.placesOf asid (line * 64) .fetch true) (.icacheFill core asid line) <|
    let r := s.fillLine core asid line
    let t := { r.2 with icache := r.2.icache.filter fun l => !(l.core == core && l.asid == asid && l.line == line) }
    let t := t.roomInIcache core r.1.size t.icache.length
    .next { t with icache := r.1 :: t.icache }
  else .fault .notEnabled

/-! ## Sleeps, notices, late traps, breakpoints -/

/-- SLEEP_WAKE (R105): the wake time has come, or a request for the group is pending. -/
def execSleepWake (grp : Nat) (s : State) : Out :=
  match s.group? grp with
  | none => .fault .notEnabled
  | some g =>
    match g.hold with
    | .sleep op wake =>
      if now s < wake && g.request.isNone then .fault .notEnabled
      else
        .next
          (match s.op? op with
           | some o => (s.setGroup { g with hold := if o.instr.ctl.any (·.drain) then .drain else .free }).finishOp o
           | none => s.setGroup { g with hold := .free })
    | _ => .fault .notEnabled

/-- NOTICE_DELIVERY (R330): a pending notice enters the handler at the group's next instruction boundary; HCAUSE names the split that
the picker would take next (R337). -/
def execNoticeDelivery (grp : Nat) (s : State) : Out :=
  match s.group? grp with
  | none => .fault .notEnabled
  | some g =>
    match g.hand, g.slot?, g.deliveries with
    | none, some _, d :: ds =>
      if !d.notice || g.unwinding.isSome || g.debug = .halted || g.hold matches .op _ then .fault .notEnabled
      else
        let split := match s.nextSplit g with | some sp => sp.id | none => d.split
        let d := { d with split := split }
        .next (s.enterHandler { g with deliveries := d :: ds } d)
    | _, _, _ => .fault .notEnabled

/-- LATE_MEM_UNCORRECTABLE (R248, R329): the poisoned data of a load that has let later instructions issue raises its trap. -/
def execLateMemUncorrectable (grp : Nat) (s : State) : Out :=
  match s.group? grp with
  | none => .fault .notEnabled
  | some g =>
    match g.hand, g.slot?, g.hold, g.late, g.unwinding with
    | _, _, .op _, _, _ => .fault .notEnabled
    | none, some _, _, l :: rest, none =>
      let g := { g with late := rest }
      .next ((s.setGroup g).raiseTrap g l.split l.pc 0
        { recs := l.recs, sw := false, resume := .same, cb := l.cb, gather := l.gather })
    | _, _, _, _, _ => .fault .notEnabled

def Lantern.empty : Lantern := { request := [], reply := [], events := [], pending := [], replies := [], waiting := none }

def State.lanternAt (s : State) (stack : Nat) : Lantern := tabGetD s.lantern stack Lantern.empty
def State.setLantern (s : State) (stack : Nat) (l : Lantern) : State := { s with lantern := tabSet s.lantern stack l }

/-- A Lantern message (R350): command, SEQ and STATUS, the target's words, ARG0 and ARG1, and DATA. -/
def lanternMessage (cmd seq status : Nat) (target : List Word) (arg0 arg1 : DWord) (data : List Word) : List Word :=
  let body := [arg0.extractLsb' 0 32, arg0.extractLsb' 32 32, arg1.extractLsb' 0 32, arg1.extractLsb' 32 32] ++ data
  BitVec.ofNat 32 (cmd + 256 * seq + 65536 * status) :: (target ++ body ++ List.replicate (15 - target.length - body.length) 0)

/-- The target words of a group: ASID, GROUP and TASK. -/
def State.lanternTarget (s : State) (g : Group) : List Word :=
  match s.teamOf g with
  | some t => [BitVec.ofNat 32 (t.asid + 2 ^ 14 * g.idx), BitVec.ofNat 32 t.task, BitVec.ofNat 32 (t.task / 2 ^ 32)]
  | none => [0, 0, 0]

/-- An event of Lantern's (R351): queued while there is room, else pending. -/
def State.lanternPost (s : State) (g : Group) (pc arg : DWord) : State :=
  let stack := g.core / 32
  let e := lanternMessage 0x80 0 0 (s.lanternTarget g) pc arg []
  let l := s.lanternAt stack
  s.setLantern stack (if l.events.length < 16 then { l with events := l.events ++ [e] } else { l with pending := l.pending ++ [e] })

/-- ADDRESS_BREAKPOINT (R349): the group halts before an instruction at an armed address issues, and Lantern posts an event. -/
def execAddressBreakpoint (grp : Nat) (s : State) : Out :=
  match s.group? grp with
  | none => .fault .notEnabled
  | some g =>
    match (s.splitOrder g).find? fun sp => s.breakAt g sp with
    | none => .fault .notEnabled
    | some sp =>
      if !s.groupOpen g then .fault .notEnabled
      else .next ((s.setGroup { g.setBk (g.bk.setSplit { sp with passed := true }) with debug := .halted }).lanternPost g sp.pc 0x100)

end Sys2Proof.Machine
end

