-- ==== Sys2Proof/Machine/Saves.lean ====
section
/-! DEFINITION. Taking groups and teams out of a core (R116, R124, R208, R310, R339, R340): requests, what the save engine keeps of a
group, and what is kept of a team once all its groups have been saved. -/

namespace Sys2Proof.Machine

/-- Which of two requests stands: an adoption is carried through, and a context switch takes in an empty account. -/
def joinRequest (old : Option Request) (new : Request) : Request :=
  match old, new with
  | some .adoption, _ => .adoption
  | some .switch, .energy => .switch
  | _, r => r

/-- A request under R124 is posted to a resident group. -/
def State.requestGroup (s : State) (uid : Nat) (r : Request) : State :=
  s.modGroup uid fun g => if g.place = .ended || g.place = .saved then g else { g with request := some (joinRequest g.request r) }

/-- A request is posted to every group of a team, which is to be taken out whole. -/
def State.requestTeam (s : State) (team : Nat) (r : Request) : State :=
  let s := s.modTeam team fun t => { t with parking := some (joinRequest t.parking r) }
  (s.standing team).foldl (fun s g => s.requestGroup g.uid r) s

/-- Where a group may be saved: at a STRAND that passes its checks, with its entry, or, at PHEND, which no STRAND follows, as it is. -/
inductive SavePoint where
  | strand (index : Nat) (e : Live)
  | phend
  deriving DecidableEq, Repr

def State.savePoint (s : State) (g : Group) : Option SavePoint :=
  if g.barrier.any (·.1) then some .phend
  else
    match g.bank.splits with
    | [sp] =>
      match s.nextOf g sp with
      | some (n, .ok (.strand c e)) =>
        (match s.strandEntry (s.asIssue (.strand c e) c g sp sp.pc n) e.toNat with
         | .ok live => some (.strand e.toNat live)
         | .error _ => none)
      | _ => none
    | _ => none

/-- Bytes of the save area that a group, and a team beside its groups, need (R339). -/
def Group.saveNeed (g : Group) : Nat := 1024 + 4 * g.width * (g.dslots + 64)
def Launch.saveNeed (l : Launch) : Nat := 4096 + l.tscr * l.halves.length + l.lanez * l.image.width * l.groups

/-- Bytes of a context's save area in use. -/
def State.saveUsed (s : State) (asid : Nat) : Nat :=
  let here := (s.groups.map (·.2)).filter fun g => g.place = .saved && s.asidOf g == asid
  let teams := (here.map (·.team)).eraseDups.filterMap s.team?
  let out := s.saved.filter fun v => v.team.asid == asid
  let needOf (t : Team) : Nat := match s.launch? t.launch with | some l => l.saveNeed | none => 0
  (here.map Group.saveNeed).sum + (teams.map needOf).sum + (out.map fun v => (v.groups.map Group.saveNeed).sum + needOf v.team).sum

/-- The first failure of an access to `n` bytes of a context's save area from an offset on (R376). DESIGN CHOICE (log entry 57): the layout is the
device's own (R339); a group takes its bytes, with its team's if it is the team's first, past those in use. -/
def State.saveAreaBad (s : State) (asid off n : Nat) (need : Need) : Option (BitVec 8 × Nat) :=
  match s.context? asid with
  | none => none
  | some c =>
    let a := c.saveb.toNat + off
    (List.range ((a + n - 1) / 2 ^ 16 - a / 2 ^ 16 + 1)).findSome? fun k =>
      let va := if k = 0 then a else (a / 2 ^ 16 + k) * 2 ^ 16
      match s.xlateWalk asid va need true with
      | .fault e _ _ => some (e, va)
      | .ok .. => none

/-- The bytes of the save area that a group's save takes: its own, and its team's if it is the first (R339). -/
def State.saveBytes (s : State) (g : Group) : Nat :=
  let first := !((s.groupsOf g.team).any fun h => h.place = .saved)
  g.saveNeed + (if first then (match s.launchOf g with | some l => l.saveNeed | none => 0) else 0)

/-- Whether the save area has room for one more group (R339). -/
def State.saveRoom (s : State) (g : Group) : Bool :=
  match s.contextOf g, s.launchOf g with
  | some c, some _ => decide (s.saveUsed c.asid + s.saveBytes g ≤ c.saveSize)
  | _, _ => false

/-- Whether a request is honoured now (R124): the group stands at its STRAND, in its slot or without one, no handler or Lantern holds it,
and every earlier instruction has completed. -/
def State.saveDue (s : State) (g : Group) : Bool :=
  g.request.isSome && !g.saveBad && g.hand.isNone && g.unwinding.isNone && !(s.ops.any fun o => o.grp == g.uid) &&
    (match g.debug with | .halted | .stepping => false | _ => true) &&
    (match g.place with | .active .. => g.leaving | .ready _ | .waiting => true | .saved | .ended => false)

/-- What a save keeps of a group's registers (R116, R339): those that the entry names; every other reads zero. -/
def Group.keep (g : Group) (p : SavePoint) : Group :=
  match p with
  | .phend => g
  | .strand _ e =>
    { g with
      dfile := g.dfile.filter fun c => e.dmask.getLsbD (c.1 / 64)
      bank := { g.bank with splits := g.bank.splits.map fun sp =>
        { sp with sfile := sp.sfile.filter fun c => e.smask.getLsbD c.1 } } }

/-- An adopted-away group's block of the phase record (R310): KIND 1, with its registers where they fit. A block that cannot be written is
logged, and the save area holds the registers. DESIGN CHOICE (log entry 56): of the header only the group's VALID bit is written; PHASE and
the reserved bits stay as they are. -/
def State.parkBlock (s : State) (g : Group) (index : Nat) (e : Live) : Bool × State :=
  match s.teamOf g, s.launchOf g with
  | some t, some l =>
    match s.desc t.asid t.task with
    | .error _ => (false, s)
    | .ok d =>
      let fits := decide (blockSize e.dmask e.smask g.width ≤ s.blockLimit l)
      let a := blockAddr d.prec l.prgBlk g.idx
      match s.writeBlock g t.asid a index true (!fits) e.dmask e.smask with
      | .error f => (false, s.logFault t.asid (almanacRecord f.1 f.2 t.task))
      | .ok s =>
        match s.setValid t.asid d.prec g.idx fits with
        | .error f => (false, s.logFault t.asid (almanacRecord f.1 f.2 t.task))
        | .ok s => (fits, s)
  | _, _ => (false, s)

/-- Lane and offset of a physical key in a group's lane slices. -/
def Group.laneOffset (g : Group) (z k : Nat) : Option (Nat × Nat) :=
  let start := g.core * 2 ^ 19 + g.laneBase
  if z != 0 && decide (start ≤ k) && decide (k < start + z * g.width) then some ((k - start) / z, (k - start) % z) else none

/-- Lane-slice bytes of saved groups, by group * 2^20 + lane * 2^12 + offset. -/
def laneBytes (m : Mem) (gs : List Group) (z : Nat) : Mem :=
  gs.foldl (fun r g => m.foldl (fun (r : Mem) c =>
    match g.laneOffset z c.1 with
    | some (l, o) => cellSet r (g.idx * 2 ^ 20 + l * 2 ^ 12 + o) c.2
    | none => r) r) []

/-- Poisoned words of groups' lane slices, as `Saved.poison` numbers them. -/
def lanePoison (words : List Nat) (gs : List Group) (z : Nat) : List Nat :=
  words.flatMap fun w => gs.filterMap fun g => (g.laneOffset z (4 * w)).map fun e => 2 ^ 30 + g.idx * 2 ^ 18 + e.1 * 2 ^ 10 + e.2 / 4

/-- The save engine saves a group and frees its slot (R124, R310, R339). For an adoption its lane slices leave the core with it (R310 step 4);
else they stay allotted until its team is out (R20, R340 step 3). -/
def State.saveGroup (s : State) (g : Group) (p : SavePoint) : State :=
  let adopted := g.request = some .adoption
  let z := match s.launchOf g with | some l => l.lanez | none => 0
  let h := { g.keep p with
    request := none, leaving := false, restored := true, hold := .free, saveOff := s.saveUsed (s.asidOf g)
    kept := if adopted then laneBytes s.scratch [g] z else [], keptBad := if adopted then lanePoison s.poisonWords [g] z else [] }
  let s := if g.slot?.isSome then s.leaveSlot h .saved else s.setGroup { h with place := .saved }
  match p, s.group? g.uid with
  | .strand i e, some g =>
    let r := if adopted then s.parkBlock g i e else (false, s)
    r.2.modGroup g.uid fun g => { g with savedAt := some (i, e, r.1) }
  | _, _ => s

/-- A save that cannot reach the save area is held, and the group has a notice, which it takes before the save is tried again (R376). -/
def State.saveFails (s : State) (g : Group) (e : BitVec 8 × Nat) : State :=
  (s.setGroup { g with saveBad := true, leaving := false }).postNotice g.uid ⟨e.1, 7, BitVec.ofNat 64 e.2, 0⟩
    (match g.bank.splits with | sp :: _ => sp.pc | [] => 0)

/-- PREEMPTION_SAVE (R124, R339): a save that finds the area full is held. -/
def execPreemptionSave (grp : Nat) (s : State) : Out :=
  match s.group? grp with
  | none => .fault .notEnabled
  | some g =>
    match s.savePoint g with
    | some p =>
      if s.saveDue g && s.saveRoom g then
        match s.saveAreaBad (s.asidOf g) (s.saveUsed (s.asidOf g)) (s.saveBytes g) .write with
        | some e => .next (s.saveFails g e)
        | none => .next (s.saveGroup g p)
      else .fault .notEnabled
    | none => .fault .notEnabled

/-! ## A team is out (R208, R287, R310, R340) -/

/-- A team that is being taken out is out once every group that has not exited is saved, and its engine transfers and the instructions of
the others have landed. -/
def State.isOut (s : State) (t : Team) : Bool :=
  let gs := s.standing t.uid
  t.parking.isSome && !gs.isEmpty && gs.all (fun g => g.place = .saved) && !(s.threads.any fun h => h.team == t.uid) &&
    !(s.groups.any fun e => e.2.team == t.uid && s.ops.any fun o => o.grp == e.1)

/-- Whether a team offset, counted with the half in bit 19 from the team's first core, lies in a range that one of the groups' entries names:
bit 19 of a range is the group's own core's half or the partner's (R120). -/
def namedOff (t : Team) (gs : List Group) (off : Nat) : Bool :=
  gs.any fun g =>
    match g.savedAt with
    | some (_, e, _) =>
      let here := if g.core = t.core then off else if off < 2 ^ 19 then off + 2 ^ 19 else off - 2 ^ 19
      e.ranges.any fun r => decide (r.1 ≤ here) && decide (here < r.1 + r.2)
    | none => g.barrier.isSome

/-- A team offset, counted with the half in bit 19, of a physical key; none outside its allotments. -/
def Team.offsetOf (t : Team) (tscr k : Nat) : Option Nat :=
  let in_ (core base half : Nat) : Option Nat :=
    if decide (core * 2 ^ 19 + base ≤ k) && decide (k < core * 2 ^ 19 + base + tscr) then some (half * 2 ^ 19 + k - core * 2 ^ 19 - base)
    else none
  match in_ t.core t.base 0 with
  | some o => some o
  | none => if t.bridle then in_ (t.core + 1) t.base2 1 else none

/-- Poisoned words of a team's scratchpad, as `Saved.poison` numbers them. -/
def savedPoison (words : List Nat) (t : Team) (tscr : Nat) : List Nat :=
  words.filterMap fun w => (t.offsetOf tscr (4 * w)).map (· / 4)

/-- The team leaves its core with what is kept of it (R208, R310, R340): bytes and team registers that no entry names keep their value
or become zero, which is not stated. A task that adopts a deeper owner and is no helper any more has no depth (R311). -/
def State.takeOut (s : State) (t : Team) : State :=
  let gs := s.standing t.uid
  let z := match s.launch? t.launch with | some l => l.lanez | none => 0
  let tscr := match s.launch? t.launch with | some l => l.tscr | none => 0
  let bits := Config.choose s.fresh
  let kept (o : Nat) : Bool := namedOff t gs o || bits.testBit o
  let reg (r : Nat) : Bool :=
    gs.any (fun g => match g.savedAt with | some (_, e, _) => e.tmask.getLsbD r | none => true) || bits.testBit (2 ^ 21 + r)
  let t' := t.tFold fun c => s.clkOf c + 6
  let record : Saved :=
    { task := t.task, why := t.parking.getD .switch
      team := { t' with tregs := t'.tregs.filter fun c => reg c.1, twrites := [], parking := none }
      groups := gs
      scratch := s.scratch.filterMap fun c =>
        match t.offsetOf tscr c.1 with | some o => if kept o then some (o, c.2) else none | none => none
      lanes := if t.parking = some .adoption then gs.foldl (fun m g => cellSets m g.kept) [] else laneBytes s.scratch gs z
      poison := savedPoison s.poisonWords t tscr ++
        (if t.parking = some .adoption then gs.flatMap (·.keptBad) else lanePoison s.poisonWords gs z) }
  let s := { s.stopSlices t.uid with
    fresh := s.fresh + 1
    groups := s.groups.filter fun e => e.2.team != t.uid
    teams := tabErase s.teams t.uid
    saved := s.saved ++ [record] }
  match record.why with
  | .adoption => s.modDesc t.asid t.task fun d => if d.helpOf = 0 then setFld d 448 4 0 else d
  | _ => (s.releaseHelper t.asid t.task).modDesc t.asid t.task fun d => d.move stParked

/-- A saved team with the same task as a placement names. -/
def State.savedOf? (s : State) (asid task : Nat) : Option Saved := s.saved.find? fun v => v.task == task && v.team.asid == asid

end Sys2Proof.Machine
end

