-- ==== Sys2Proof/Machine/Tasks.lean ====
section
/-! DEFINITION. Launches, tasks and phases (R286 to R302): the six task instructions, and the events of the Almanac that submit, start, age
and end tasks. -/

namespace Sys2Proof.Machine

/-! ## Instructions whose issue is held until the Almanac has answered (R298, R299, R301, R322) -/

/-- The checks of an object's address: ADDRESS, ALIGN, then translation (R251, R296). -/
def State.objectAt (s : State) (x : Issue) (va align : Nat) (need : Need) (access : BitVec 3) : Except Trap Nat × State :=
  let bad (code : BitVec 8) (a : BitVec 3) : Trap := Trap.one code x.sp.lanes (BitVec.ofNat 64 va) a
  if 2 ^ 56 ≤ va then (.error (bad tcAddress access), s)
  else if va % align != 0 then (.error (bad tcAlign access), s)
  else
    let r := s.xlate x.g.core (s.asidOf x.g) va need x.inHandler
    match r.1 with
    | .ok pa _ _ _ _ => (.ok pa, r.2)
    | .fault c table _ => (.error (bad c (if table then 6 else access)), r.2)

/-- The instruction is sent to the Almanac: its group issues nothing until the answer. -/
def State.ask (s : State) (x : Issue) (va pa : Nat) (wide : Bool) (value : DWord) : State :=
  let uid := s.nextId
  (s.startHeld x fun o => { o with job := .almanac va pa wide value }).holdOn x.g.uid uid

/-- A completion time joins a group's %horizon (R244). -/
def State.joinHorizon (s : State) (grp t : Nat) : State := s.modGroup grp fun g => { g with horizon := max g.horizon t }

/-- A held instruction completes with its result in every active lane. -/
def State.answer (s : State) (o : Op) (v : DWord) : State :=
  (((s.commitOp o).landResult { o with vals := laneVals (o.lanes.list 64) fun _ => v }).finishOp o).unhold o

/-- A held instruction traps, precisely: it leaves nothing of itself. -/
def State.failOp (s : State) (o : Op) (t : Trap) : State :=
  let s := (s.finishOp o).unhold o
  match s.group? o.grp with
  | some g => if g.place = .ended || o.stale g then s else s.raiseTrap g o.split o.pc o.len t
  | none => s

/-- A trap of a held instruction over its split's lanes. -/
def Op.trap (o : Op) (code : BitVec 8) (access : BitVec 3) (addr : Nat) : Trap :=
  Trap.one code o.splitLanes (BitVec.ofNat 64 addr) access

/-! ## LAUNCH, SPAWN, DEPDEC, TDONE (R297 to R299, R301) -/

/-- LAUNCH (R297): the record's bytes are checked; LAUNCH_ACCEPTANCE accepts or refuses. -/
def execLaunch (c : Ctl) (a : Opnd) (s : State) : Out :=
  issue (.launch c a) s fun x s =>
    if x.lanes = 0 then .ok (s.finish x)
    else
      let va := (s.srcLow x 0).toNat
      match s.objectAt x va 256 .read 2 with
      | (.error e, _) => .error e
      | (.ok _, t) => .ok (t.start x fun o => { o with job := .launch va (s.asidOf x.g) })

/-- SPAWN (R298): the template's bytes and the level are checked; the Almanac then takes a pool entry. -/
def execSpawn (c : Ctl) (d a b : Opnd) (s : State) : Out :=
  issue (.spawn c d a b) s fun x s =>
    if x.lanes = 0 then .ok (s.finish x)
    else
      let va := (s.srcLow x 0).toNat
      let prio := (w32 (s.srcLow x 1)).toNat
      match s.objectAt x va 256 .read 2 with
      | (.error e, _) => .error e
      | (.ok pa, t) => if 10 < prio then .error (x.trap tcOperand) else .ok (t.ask x va pa false (BitVec.ofNat 64 prio))

/-- DEPDEC (R299). -/
def execDepdec (c : Ctl) (a : Opnd) (s : State) : Out :=
  issue (.depdec c a) s fun x s =>
    if x.lanes = 0 then .ok (s.finish x)
    else
      let va := (s.srcLow x 0).toNat
      match s.objectAt x va 64 .both 4 with
      | (.error e, _) => .error e
      | (.ok pa, t) => .ok (t.ask x va pa false 0)

/-- TDONE (R301) acts on the team's own descriptor. -/
def tdoneOp (i : Instr) (s : State) : Out :=
  issue i s fun x s =>
    if x.lanes = 0 then .ok (s.finish x)
    else
      let task := match s.teamOf x.g with | some t => t.task | none => 0
      let s := s.recallWalk (s.asidOf x.g) task
      match s.xlateWalk (s.asidOf x.g) task .both true with
      | .fault c table _ => .error (Trap.one c x.sp.lanes (BitVec.ofNat 64 task) (if table then 6 else 7))
      | .ok pa _ _ _ _ => .ok (s.ask x task pa false 0)

def execTdone (c : Ctl) (s : State) : Out := tdoneOp (.tdone c) s

/-- The compact form `TDONE` (R52). TDONE (R301). -/
def execTdoneCompact (c : CCtl) (s : State) : Out := tdoneOp (.tdone c.full) s

/-- DEPDEC is performed (R286, R289, R396). -/
def State.depdecNow (s : State) (o : Op) (asid va : Nat) : State :=
  let s := s.touch asid va 64
  match s.depDec asid va with
  | .done t =>
    (t.answer o 0).joinHorizon o.grp (s.vwriteTime asid va)
  | .underflow => s.failOp o (o.trap tcDep 7 va)
  | .bad => s.failOp o (o.trap tcOperand 4 va)
  | .fault c => s.failOp o (o.trap c 4 va)

/-- What stands in the way of a TDONE: a descriptor or list entry that cannot be read or used (R286). -/
def State.succBad (s : State) (asid list : Nat) : Nat → Option (BitVec 8 × Nat)
  | 0 => none
  | n + 1 =>
    match s.vread asid list 8 with
    | .error c => some (c, list)
    | .ok t =>
      if t % 64 != 0 then some (tcAlign, t)
      else
      match s.desc asid t with
      | .error c => some (c, t)
      | .ok d => if !d.usable asid then some (tcOperand, t) else State.succBad s asid (list + 8) n

/-- The end of a TDONE whose every decrement has been performed (R301): one trap for the underflows, after its whole effect. -/
def State.tdoneEnd (s : State) (o : Op) : State :=
  let t := s.answer o 0
  if o.vals.isEmpty then t
  else
    match t.group? o.grp with
    | none => t
    | some g =>
      if g.place = .ended || o.stale g then t
      else
        t.raiseTrap g o.split o.pc o.len
          { recs := o.vals.map fun (e : Nat × DWord) => ⟨tcDep, 7, (e.2.extractLsb' 0 56).setWidth 64, o.splitLanes⟩, sw := false, resume := .after, cb := none
            gather := none }

/-- One step of a TDONE (R301, R395): first the state changes, then one successor's decrement after another; `k` counts them, and the
operation keeps the addresses that underflowed, each with bit 60 set, so that an address of 0 is kept too. -/
def State.tdoneNow (s : State) (o : Op) (asid task pa k : Nat) : State :=
  let s := s.touch asid task 64
  match s.desc asid task with
  | .error c => s.failOp o (o.trap c 7 task)
  | .ok d =>
    if k = 0 then
      if !d.usable asid then s.failOp o (o.trap tcOperand 7 task)
      else if d.state != stRunning then s.answer o 0
      else
        match s.succBad asid d.succ d.scount with
        | some e => s.failOp o (o.trap e.1 7 e.2)
        | none =>
          let t := (s.modDesc asid task fun d => d.setState stDone).joinHorizon o.grp (s.writeTime pa)
          if d.scount = 0 then t.answer o 0 else t.setOp { o with job := .almanac task pa false 1 }
    else
      let next (t : State) (o : Op) : State :=
        if d.scount ≤ k then t.tdoneEnd o else t.setOp { o with job := .almanac task pa false (BitVec.ofNat 64 (k + 1)) }
      let s := s.touch asid (d.succ + 8 * (k - 1)) 8
      match s.vread asid (d.succ + 8 * (k - 1)) 8 with
      | .error c => next (s.logFault asid (almanacRecord c (d.succ + 8 * (k - 1)) task)) o
      | .ok a =>
        let s := s.touch asid a 64
        match s.depDec asid a with
        | .done t => next (t.joinHorizon o.grp (s.vwriteTime asid a)) o
        | .underflow => next s { o with vals := cellSet o.vals k (BitVec.ofNat 64 (2 ^ 60 + a)) }
        | .bad => next (s.logFault asid (almanacRecord tcOperand a task)) o
        | .fault c => next (s.logFault asid (almanacRecord c a task)) o

/-- The pool entries that a SPAWN may come to (R286, R288): the FREE ones, and those of the reserved state, which it cannot use. -/
def State.poolTaken (s : State) (asid : Nat) : List Nat :=
  (s.poolEntries asid).filter fun a => match s.desc asid a with | .ok d => d.state == stFree || d.state == 6 | .error _ => false

/-- Whether SPAWN may not use an entry (R286): its state or a reserved bit, or another context's ASID; a FREE entry holds 0 or its own. -/
def Desc.spawnBad (d : Desc) (asid : Nat) : Bool :=
  d.state == 6 || fldN d 54 10 != 0 || fldN d 461 51 != 0 || (d.asid != 0 && d.asid != asid)

/-- SPAWN is performed (R288, R298): the template's checks, then any FREE entry of the pool; with none free it waits. A failed access that
refuses the template has a record of its own in the trap (R283). -/
def State.spawnNow (s : State) (o : Op) (g : Group) (asid va prio : Nat) : State :=
  let s := s.touchLaunch asid va true
  match s.checkRecord asid va true, s.context? asid with
  | .bad code _ failed, _ =>
    let more := match failed with | some e => [⟨e.1, 7, BitVec.ofNat 64 e.2, o.splitLanes⟩] | none => []
    let t := o.trap code 7 va
    s.failOp o { t with recs := t.recs ++ more }
  | _, none => s.failOp o (o.trap tcLaunch 7 va)
  | .ok l r, some c =>
    if 64 * c.taskPS.toNat < l.recordSize then s.failOp o (o.trap tcLaunch 7 va)
    else
      let free := s.poolTaken asid
      if (s.poolFree asid).isEmpty then s
      else
        let k := s.choice free.length
        let a := free.getD k.1 0
        let i := (a - c.taskPool.toNat) / 64
        let prec := c.taskPool.toNat + 64 * c.taskPN.toNat + 64 * c.taskPS.toNat * i
        let s := k.2
        match s.desc asid a with
        | .error e => s.failOp o (o.trap e 7 a)
        | .ok old =>
          if old.spawnBad asid then s.failOp o (o.trap tcOperand 7 a)
          else
            let parent := match s.teamOf g with | some t => some t.launch | none => none
            let uid := s.nextId
            let l := { l with uid := uid, desc := a, parent := parent, stack := g.core / 32 }
            let d := newDesc l r prio prec 0 0
            let s := { s with nextId := uid + 1 }.setLaunch l
            match s.putDesc asid a d with
            | .error e => s.failOp o (o.trap e 7 a)
            | .ok s => (if r.depInit = 0 then s.enqueue asid a d else s).answer o (BitVec.ofNat 64 a)

/-! ## TBAR and PHEND (R300, R302) -/

/-- Arrival (R300): the group leaves its slot, and its release step of FENCE.team is outstanding. -/
def State.arriveAt (s : State) (x : Issue) (b : Bool × Nat) : State :=
  ((s.start x fun o => { o with job := .fence .team .rel }).modGroup x.g.uid fun g => { g with barrier := some b }).leaveAtTerminator
    x.g.uid .waiting

/-- TBAR (R300), whatever the guard. -/
def execTbar (c : Ctl) (s : State) : Out :=
  issue (.tbar c) s fun x s => .ok (s.arriveAt x (false, 0))

/-- The compact form `TBAR` (R52). TBAR (R300), whatever the guard. -/
def execTbarCompact (c : CCtl) (s : State) : Out :=
  issue (.tbar c.full) s fun x s => .ok (s.arriveAt x (false, 0))

/-- PHEND's checks (R302). -/
def State.phendTrap (s : State) (x : Issue) (index : Nat) : Option Trap :=
  match s.launchOf x.g with
  | none => some (x.trap tcModifier)
  | some l =>
    if l.image.carryCnt ≤ index then some (x.trap tcModifier)
    else
      match s.carryEntry l index with
      | .error e => some (Trap.one e.1 x.sp.lanes (BitVec.ofNat 64 e.2) 2)
      | .ok (dmask, smask) =>
        if (dmask >>> x.g.dslots) != 0 then some (x.trap tcOperand)
        else if s.blockLimit l < blockSize dmask smask x.g.width then some (x.trap tcOperand)
        else none

/-- PHEND (R302), whatever the guard. -/
def execPhend (c : Ctl) (carry : BitVec 16) (s : State) : Out :=
  issue (.phend c carry) s fun x s =>
    match s.phendTrap x carry.toNat with
    | some e => .error e
    | none =>
      let s := match s.launchOf x.g with | some l => s.touch l.asid (l.carryAddr carry.toNat) 48 | none => s
      .ok (s.arriveAt x (true, carry.toNat))

/-- TBAR_COMPLETION (R300): the groups at TBAR take an acquire step, and their STRANDs become ready. -/
def execTbarCompletion (team : Nat) (s : State) : Out :=
  if !s.barrierOver team then .fault .notEnabled
  else
    .next { s with groups := s.groups.map fun (e : Nat × Group) =>
      if e.2.team = team && e.2.barrier.any (fun b => !b.1) then
        let place := if e.2.place = .waiting then .ready (s.clkOf e.2.core) else e.2.place
        (e.1, { e.2 with barrier := none, acquire := now s, place := place })
      else e }

/-- The blocks of the groups that have arrived, and the VALID bits (R302); what cannot be written is logged. -/
def State.phaseBlocks (s : State) (l : Launch) (t : Team) (prec : Nat) : List Group → State × Word
  | [] => (s, 0)
  | g :: gs =>
    let index := match g.barrier with | some b => b.2 | none => 0
    let s := s.touch l.asid (l.carryAddr index) 48
    let r : Except (BitVec 8 × Nat) State :=
      match s.carryEntry l index with
      | .error e => .error e
      | .ok (dmask, smask) => s.writeBlock g t.asid (blockAddr prec l.prgBlk g.idx) index false false dmask smask
    match r with
    | .error e => State.phaseBlocks (s.logFault t.asid (almanacRecord e.1 e.2 t.task)) l t prec gs
    | .ok s =>
      let q := State.phaseBlocks s l t prec gs
      (q.1, q.2 ||| (1 <<< g.idx))

/-- The next phase's task (R302): PHASE + 1, DEP from NEXTDEP. -/
def nextPhase (d : Desc) : Desc :=
  setFld (setFld (setFld (setFld d 296 24 (d.phase + 1)) 8 16 d.nextDep) 24 16 0) 0 3 (if d.nextDep = 0 then stReady else stUnstarted)

/-- A team that has nothing on its core any more. -/
def Team.release (t : Team) : Team := { t with released := true, queues := [], before := [], parking := none }

/-- Groups and team are gone from their core (R302). DESIGN CHOICE (log entry 56): a COPY or an AQPUT that is still in flight goes on moving its
words to and from the same places of the scratchpad, whatever they have been allotted to since. A group that has exited with instructions outstanding lasts until they have completed
(R151), and the team, which has nothing on its core any more, with it. -/
def State.dropTeam (s : State) (team : Nat) : State :=
  let open_ (e : Nat × Group) : Bool := e.2.place = .ended && s.ops.any fun o => o.grp == e.1
  let t := { s with groups := s.groups.filter fun e => e.2.team != team || open_ e }
  if t.groups.any (fun e => e.2.team == team) || s.threads.any (fun h => h.team == team) then
    t.modTeam team Team.release
  else { t with teams := tabErase t.teams team }

/-- PHASE_END (R302): blocks and header are written, everything on the core is released, and the next phase's task is queued or the team
ends. -/
def execPhaseEnd (team : Nat) (s : State) : Out :=
  match s.team? team with
  | none => .fault .notEnabled
  | some t =>
    if !s.phaseOver team then .fault .notEnabled
    else
      s.holdOr (fun s => s.placesOf t.asid t.task .both true) (.phaseEnd team) <|
      match s.desc t.asid t.task, s.launch? t.launch with
      | .ok d, some l =>
        let r := s.phaseBlocks l t d.prec (s.standing team)
        let u :=
          match r.1.vwriteAll t.asid ((List.range 16).map fun k =>
              (d.prec + 4 * k, if k = 0 then BitVec.ofNat 32 t.phase else if k = 1 then r.2 else 0)) with
          | .ok u => u
          | .error e => r.1.logFault t.asid (almanacRecord e.1 e.2 t.task)
        let u := u.stopSlices team
        if d.state = stDone then .next ((u.endTeam t).dropTeam team)
        else
          let u := ((u.dropTeam team).unqueue t.asid t.task).releaseHelper t.asid t.task
          let u := u.modDesc t.asid t.task nextPhase
          .next (if d.nextDep = 0 then u.makeReady t.asid t.task else u)
      | _, _ => .next ((s.endTeam t).dropTeam team)

/-! ## Submission (R295, R297, R394) -/

/-- LAUNCH_ACCEPTANCE (R297): the record is accepted or refused, and LAUNCH completes. The failed access goes to the group's queue, or to
the context's fault log when the group has ended (log entry 41). -/
def execLaunchAcceptance (op : Nat) (s : State) : Out :=
  match s.op? op with
  | none => .fault .notEnabled
  | some o =>
    match o.job with
    | .launch a asid =>
      s.holdOr (fun s => s.placesOf asid a .read true) (.launchAcceptance op) <|
      let r := s.takeLaunch asid a
      let t := r.2.finishOp o
      let lives : Bool := match s.group? o.grp with | some g => !decide (g.place = .ended) | none => false
      .next (match r.1 with
        | some e =>
          if lives then t.postNotice o.grp ⟨e.1, 7, BitVec.ofNat 64 e.2, 0⟩ o.pc else t.logFault asid (almanacRecord e.1 e.2 0)
        | none => t)
    | _ => .fault .notEnabled

/-- SUBMISSION_TAKE (R295): the next record of the ring is handled whole, and HEAD moves past it. -/
def execSubmissionTake (asid : Nat) (s : State) : Out :=
  match s.context? asid with
  | none => .fault .notEnabled
  | some c =>
    if c.sqHead = c.sqTail || c.sqStop then .fault .notEnabled
    else
      let a := c.sqBase + 256 * (c.sqHead.toNat % 2 ^ c.sqLog)
      s.holdOr (fun s => s.placesOf asid a .read true) (.submissionTake asid) <|
      let r := s.takeLaunch asid a
      let t := r.2.modContext asid fun c => { c with sqHead := c.sqHead + 1 }
      .next (match r.1 with | some e => t.logFault asid (almanacRecord e.1 e.2 0) | none => t)

/-- The oldest doorbell write, if it is the one given and every earlier host write has been performed and completed (R371), is taken. -/
def State.takeDoorbell (s : State) (asid off : Nat) (v : Word) : Option State :=
  match s.doorbells with
  | (a, o, w, due) :: rest =>
    if a = asid && o = off && w = v && due.any (fun d => decide (d ≤ now s)) then some { s with doorbells := rest } else none
  | [] => none

/-- SQTAIL (R295, R371): a write of a new TAIL. -/
def execSqtail (asid : Nat) (tail : BitVec 32) (s : State) : Out :=
  match s.context? asid, s.takeDoorbell asid 0 tail with
  | some c, some s =>
    let u := (tail - c.sqHead).toNat
    let u0 := (c.sqTail - c.sqHead).toNat
    if c.sqStop || 2 ^ c.sqLog < u || u < u0 then .next (s.setContext { c with sqOver := true })
    else .next (s.setContext { c with sqTail := tail })
  | _, _ => .fault .notEnabled

/-- SQSTAT_OVER (R6, R295): OVER is cleared by writing one. -/
def execSqstatOver (asid : Nat) (value : Word) (s : State) : Out :=
  match s.context? asid, s.takeDoorbell asid 8 value with
  | some c, some s => .next (s.setContext { c with sqOver := c.sqOver && !value.getLsbD 0 })
  | _, _ => .fault .notEnabled

/-! ## Starting a task (R285, R290, R292, R310, R380 to R382) -/

/-- Whether the Almanac starts tasks of a context (R340, R380). -/
def Context.starts (c : Context) : Bool := c.op = .none && decide (0 < c.bal)

/-- Whether a launch's map, or its template, lets a core run a task, no team that the map lists earlier for the core standing unstarted
(R285). -/
def Launch.mayRunOn (l : Launch) (team core : Nat) : Bool :=
  l.spawned ||
    (l.pmap.getD team 0 % 256 == core &&
      (List.range team).all fun j => l.begun.contains j || l.pmap.getD j 0 % 256 != core)

/-- Whether a launch, or one that it was spawned from, has reached its cap (R382). -/
def State.capReached (s : State) (launch : Nat) : Bool :=
  (s.launchChain s.launches.length launch).any fun l => match s.launch? l with | some l => l.capped | none => false

/-- Whether the Almanac starts no task of a launch for as long as this lasts (R309, R340, R380, R382): a context switch, a deficit past the
allowance, or a reached cap. -/
def State.heldOut (s : State) (asid launch : Nat) : Bool :=
  (match s.context? asid with | some c => c.op != .none || c.heldOff | none => true) || s.capReached launch

/-- The launch and descriptor of a task that a core may start now: a READY one, or a DONE one whose team has been out (R287), with no group
of the team still on its way out (R311). -/
def State.startable (s : State) (core asid task : Nat) : Option (Launch × Desc) :=
  match s.context? asid, s.desc asid task with
  | some c, .ok d =>
    match s.launchOfTask asid task d with
    | some l =>
      let out := s.saved.any fun v => v.task == task && v.team.asid == asid
      let leaving := s.teams.any fun e => e.2.task == task && e.2.asid == asid && e.2.parking.isSome
      if (d.state = stReady || (d.state = stDone && out)) && !leaving && c.starts && !s.capReached l.uid && l.mayRunOn d.team core &&
          (s.placement l core).isSome then some (l, d)
      else none
    | none => none
  | _, _ => none

/-- The order in which one queue level is taken (R381): tasks whose estimate fits the account first, else FIFO. -/
def State.bestOf (s : State) (core : Nat) (es : List ReadyEntry) : Option ReadyEntry :=
  let can := es.filter fun e => (s.startable core e.asid e.task).isSome
  let affordable (e : ReadyEntry) : Bool :=
    match s.startable core e.asid e.task, s.context? e.asid with
    | some (l, _), some c => decide ((l.image.estimate : Int) ≤ c.bal)
    | _, _ => false
  match can.find? affordable with
  | some e => some e
  | none => can.head?

/-- What a core takes next (R290, R310): a task reserved for it, else the first of its own stack's queues, else of the other stacks' in
turn; with the stack whose queue holds it. -/
def State.nextTask (s : State) (core : Nat) : Option (Nat × Option Nat) :=
  match s.reservedFor.find? fun (e : Nat × Nat) => e.2 == core && (s.startable core (e.1 / 2 ^ 56) (e.1 % 2 ^ 56)).isSome with
  | some e => some (e.1, none)
  | none =>
    ((List.range 8).map fun k => (core / 32 + k) % 8).findSome? fun stack =>
      ((List.range 12).map fun k => 11 - k).findSome? fun level =>
        (s.bestOf core (s.ready.filter fun e => e.stack == stack && e.level == level)).map fun e =>
          (taskKey e.asid e.task, some stack)

/-- Clears bytes of a core's scratchpad, with their poison: an allotment reads zero at its start (R207). -/
def State.clearScratch (s : State) (k n : Nat) : State :=
  { s with
    scratch := cellClear s.scratch k n
    poisonWords := s.poisonWords.filter fun w => !(decide (k ≤ 4 * w) && decide (4 * w < k + n)) }

/-- The launch has its pool region in a cluster, zero when it is first allotted (R206, R207). -/
def State.giveRegion (s : State) (l : Launch) (cluster base : Nat) : State :=
  if (tabGet? l.regions cluster).isSome then s
  else
    let cols := (List.range 8).map fun k => (cluster * 8 + k) * 2 ^ 23 + base
    { s with
      pool := cols.foldl (fun m a => cellClear m a l.pool) s.pool
      poisonWords := s.poisonWords.filter fun w =>
        !(cols.any fun a => decide (2 ^ 27 + a ≤ 4 * w) && decide (4 * w < 2 ^ 27 + a + l.pool)) }.modLaunch l.uid fun l =>
      { l with regions := tabSet l.regions cluster base }

/-- A group at the start of a phase (R18, R19, R114, R292): at the kernel's first instruction, everything zero. -/
def newGroup (l : Launch) (team uid idx core laneBase clk : Nat) : Group :=
  let role := roleOf l.roles idx
  let lanes : Lanes := BitVec.ofNat 64 (2 ^ l.image.width - 1)
  let pc : DWord := BitVec.ofNat 64 (l.image.addr + l.image.codeOff)
  { uid := uid, team := team, idx := idx, core := core, part := idx % 4, prio := role.prio, dslots := role.dslots
    width := l.image.width, place := .ready clk, dfile := [], smerge := 0
    bank := { Bank.empty with
      splits := [{ id := 0, lanes := lanes, pc := pc, join := none, sfile := [], written := 0, own := false, held := false, last := 0
                   base := 0, notBefore := 0, waited := 0 }] }
    epoch := 0, hand := none, handSerial := 0, mapstat := 0, cb := [], gathered := [], horizon := 0, acquire := 0, nflags := 0
    depth := [], pushed := []
    strand := { entry := Live.empty, index := 0, pc := 0, count := 0, lanes := lanes, recs := [], innermost := none, depths := []
                overrun := false }
    deliveries := [], frq := [], request := none, hold := .free, debug := .run, trapped := none, late := [], laneBase := laneBase
    cols := [], byEndg := false, barrier := none, alive := lanes, unwinding := none, leaving := false, restored := false
    savedAt := none }

/-- A group takes its carry set back from its block (R292), with an acquire step (R266); a block that is not valid, or was not written by
PHEND, leaves it at zero. -/
def State.carryIn (s : State) (l : Launch) (t : Team) (prec : Nat) (g : Group) : Except (BitVec 8 × Nat) Group :=
  let a := blockAddr prec l.prgBlk g.idx
  match s.readUnits t.asid (prec + 4) 4 1 with
  | .error e => .error e
  | .ok v =>
    if !(v.getD 0 0).testBit g.idx then .ok g
    else
      match s.readUnits t.asid a 4 2 with
      | .error e => .error e
      | .ok w =>
        let index := w.getD 1 0 % 2 ^ 16
        if w.getD 1 0 / 2 ^ 16 % 4 != 0 || l.image.carryCnt ≤ index then .ok g
        else
          match s.carryEntry l index with
          | .error e => .error e
          | .ok (dmask, smask) =>
            s.readBlock { g with nflags := BitVec.ofNat 32 (w.getD 0 0 % 32), acquire := now s } t.asid a (blockSlots dmask smask g.width)

/-- A group of a team that had been taken out (R311, R340): at its STRAND, with the registers saved there; not ready while its wait or its
barrier is unfinished. -/
def State.bringBack (s : State) (l : Launch) (t : Team) (prec core laneBase : Nat) (g : Group) : Except (BitVec 8 × Nat) Group :=
  let place : Place := if g.barrier.isSome || s.vigil.any (fun v => v.grp == g.uid) then .waiting else .ready (s.clkOf core)
  let g' := { g with core := core, laneBase := laneBase, place := place, savedAt := none, kept := [], keptBad := [] }
  match s.saveAreaBad t.asid g.saveOff g.saveNeed .read with
  | some e => .error e
  | none =>
    match g.savedAt with
    | some (_, e, true) => s.readBlock g' t.asid (blockAddr prec l.prgBlk g.idx) (blockSlots e.dmask e.smask g.width)
    | _ => .ok g'

/-- Adds a group, or, where its registers could not be read, the group as it is with a notice (R376). -/
def State.addGroup (s : State) (g : Group) (r : Except (BitVec 8 × Nat) Group) : State :=
  match r with
  | .ok g => s.setGroup g
  | .error e => (s.setGroup g).postNotice g.uid ⟨e.1, 7, BitVec.ofNat 64 e.2, 0⟩ 0

/-- Bytes of a saved team go back to the same team offsets, and of its lane slices to the same lanes (R208). -/
def State.putBack (s : State) (v : Saved) (t : Team) (gs : List Group) (z : Nat) : State :=
  let laneKeyOf (k : Nat) : Nat :=
    match gs.find? fun g => g.idx == k / 2 ^ 20 with
    | some g => laneSliceKey g z (k / 2 ^ 12 % 2 ^ 8) (k % 2 ^ 12)
    | none => 0
  let bad := v.poison.map fun w =>
    if w < 2 ^ 30 then t.key (4 * w) / 4 else laneKeyOf ((w - 2 ^ 30) / 2 ^ 18 * 2 ^ 20 + (w / 2 ^ 10 % 2 ^ 8) * 2 ^ 12 + 4 * (w % 2 ^ 10)) / 4
  { s with
    scratch := cellSets (cellSets s.scratch (v.scratch.map fun c => (t.key c.1, c.2))) (v.lanes.map fun c => (laneKeyOf c.1, c.2))
    poisonWords := s.poisonWords ++ bad }

/-- The team, as it starts or returns. -/
def newTeam (l : Launch) (uid core placed : Nat) (d : Desc) (task : Nat) (p : Placement) : Team :=
  { uid := uid, launch := l.uid, index := d.team, asid := l.asid, task := task, phase := d.phase, core := core, bridle := l.bridle
    placed := placed, base := (p.halves.headD (0, [])).1, base2 := (p.halves.getD 1 (0, [])).1, tregs := [], twrites := []
    queues := [], before := [], exited := [], parking := none, released := false }

/-- The lane-slice place of group `i`. -/
def Placement.laneAt (p : Placement) (l : Launch) (i : Nat) : Nat :=
  let h := halfOf l.bridle i
  ((p.halves.getD h (0, [])).2).getD ((l.onHalf h).takeWhile fun j => j != i).length 0

/-- A task starts on a core (R206, R285, R287, R292, R311). -/
def State.startTask (s : State) (core asid task : Nat) (l : Launch) (d : Desc) (p : Placement) : State :=
  let s := s.unqueue asid task
  let s := s.giveRegion l (core / 8) p.pool
  let s := s.modLaunch l.uid fun l => { l with begun := if l.begun.contains d.team then l.begun else d.team :: l.begun }
  let s := s.modDesc asid task fun d => setFld (setFld (d.move stRunning) 452 8 core) 460 1 l.bridle.toNat
  let z := l.lanez
  let s := ((List.range p.halves.length).zip p.halves).foldl (fun s e =>
    e.2.2.foldl (fun (s : State) a => s.clearScratch ((core + e.1) * 2 ^ 19 + a) (z * l.image.width))
      (s.clearScratch ((core + e.1) * 2 ^ 19 + e.2.1) l.tscr)) s
  match s.savedOf? asid task with
  | some v =>
    let placed := s.nextId
    let base := newTeam l v.team.uid core placed d task p
    let t := { v.team with core := core, placed := placed, base := base.base, base2 := base.base2 }
    let at_ (g : Group) : Group := { g with core := core + halfOf l.bridle g.idx, laneBase := p.laneAt l g.idx }
    let s := { s with nextId := placed + 1, saved := s.saved.filter (· != v) }.setTeam t
    let s := s.putBack v t (v.groups.map at_) z
    v.groups.foldl (fun s g =>
      let h := at_ g
      s.addGroup { h with place := .ready (s.clkOf h.core), savedAt := none, kept := [], keptBad := [] } (s.bringBack l t d.prec h.core h.laneBase g)) s
  | none =>
    let uid := s.nextId
    let t := newTeam l uid core uid d task p
    let s := { s with nextId := uid + 1 + l.groups }.setTeam t
    (List.range l.groups).foldl (fun s i =>
      let at_ := core + halfOf l.bridle i
      let g := newGroup l uid (uid + 1 + i) i at_ (p.laneAt l i) (s.clkOf at_)
      s.addGroup g (if d.phase = 0 then .ok g else s.carryIn l t d.prec g)) s

/-- TASK_PULL (R290): a core takes the first task that it may start; a core of the task's own stack goes before one of another. The
descriptor is given with its context, as `taskKey` numbers it. -/
def execTaskPull (core desc : Nat) (s : State) : Out :=
  match s.nextTask core with
  | none => .fault .notEnabled
  | some (key, stack) =>
    let asid := key / 2 ^ 56
    let task := key % 2 ^ 56
    let sooner (c : Nat) : Bool := (s.nextTask c).any fun e => e.1 == key
    let kept := match stack with
      | some st => st != core / 32 && (List.range 32).any fun k => sooner (st * 32 + k)
      | none => false
    if key != desc || kept then .fault .notEnabled
    else
      match s.startable core asid task with
      | some (l, d) =>
        (match s.placement l core with
         | some p => s.holdOr (fun s => s.placesOf asid task .both true) (.taskPull core desc) (.next (s.startTask core asid task l d p))
         | none => .fault .notEnabled)
      | none => .fault .notEnabled

/-- AGING (R290): a task that has stayed at its level for the interval moves to the back of the next one. -/
def execAging (stack desc : Nat) (s : State) : Out :=
  match s.ready.find? fun e => e.stack == stack && taskKey e.asid e.task == desc with
  | none => .fault .notEnabled
  | some e =>
    if 10 ≤ e.level || now s < e.since + Config.agingInterval then .fault .notEnabled
    else
      .next { s with ready := (s.ready.filter fun x => !(x.stack == stack && taskKey x.asid x.task == desc)) ++
        [{ e with level := e.level + 1, since := now s }] }

end Sys2Proof.Machine
end

