-- ==== Sys2Proof/Machine/Cells.lean ====
section
/-! DEFINITION. Ownership cells, channels and counters at their home (R303 to R306, R320, R323 to R326), the vigil table and its overflow
area (R314 to R319), the owner walk (R313) and adoption (R309, R310). -/

namespace Sys2Proof.Machine

/-! ## One attempt at the home (R303, R307, R323 to R326) -/

/-- What an attempt needs: the context, the waiter's task, the object's virtual and physical address, the operation. -/
structure Wait where
  asid : Nat
  task : Nat
  va : Nat
  pa : Nat
  op : WaitOp
  wide : Bool
  value : DWord
  deriving DecidableEq, Repr

/-- An attempt is satisfied, with a value and the completion time of what it wrote; unmet, with the owner of R306; or finds the object unusable: the code and the address. -/
inductive Tried where
  | met (s : State) (value : DWord) (time : Nat)
  | unmet (s : State) (owner : Nat)
  | bad (code : BitVec 8) (addr : Nat)

/-- Bytes of an object that an attempt reads at its home: a cell, a channel with its control block, or a counter. -/
def WaitOp.bytes : WaitOp → Nat
  | .waitc => 4
  | .chpush | .chpop => 32
  | _ => 16

/-- The kind of cell that an operation needs (R303). -/
def WaitOp.kind : WaitOp → Nat
  | .fwait | .waitc => 0
  | .lock => 1
  | .chpush | .chpop => 2

/-- Whether a cell suits an operation (R303, R325). -/
def CellWords.suits (c : CellWords) (op : WaitOp) (wide : Bool) : Bool :=
  c.valid && c.kind == op.kind && (c.kind != 2 || c.wide == wide)

/-- A channel's control block (R305): HEAD, TAIL and CHUNK. -/
structure Channel where
  head : Nat
  tail : Nat
  chunk : Nat
  deriving DecidableEq, Repr

def State.channel (s : State) (pa : Nat) : Channel :=
  { head := readNat s.dram (pa + 16) 4, tail := readNat s.dram (pa + 20) 4, chunk := readNat s.dram (pa + 24) 8 }

/-- Elements in the ring. -/
def Channel.count (c : Channel) : Nat := (c.tail + 2 ^ 32 - c.head) % 2 ^ 32

/-- Bytes of an element, elements of a chunk (R320), and the address of a ring slot and of a chunk's element. -/
def elemBytes (wide : Bool) : Nat := if wide then 8 else 4
def chunkRoom (wide : Bool) : Nat := if wide then 504 else 1008
def ringAddr (va logn : Nat) (wide : Bool) (k : Nat) : Nat := va + 32 + elemBytes wide * (k % 2 ^ logn)
def chunkAddr (chunk : Nat) (wide : Bool) (k : Nat) : Nat := chunk + 64 + elemBytes wide * k

/-- HEAD and TAIL of a chunk. -/
def State.chunkEnds (s : State) (asid chunk : Nat) : Except (BitVec 8 × Nat) (Nat × Nat) :=
  match s.vread asid (chunk + 8) 4 with
  | .ok n => .ok (n % 2 ^ 16, n / 2 ^ 16)
  | .error e => .error (e, chunk + 8)

/-- The last chunk of a chain (R320): `fuel` bounds the chain by the pool. -/
def State.lastChunk (s : State) (asid : Nat) : Nat → Nat → Except (BitVec 8 × Nat) Nat
  | 0, chunk => .ok chunk
  | n + 1, chunk =>
    match s.vread asid chunk 8 with
    | .error e => .error (e, chunk)
    | .ok 0 => .ok chunk
    | .ok next => State.lastChunk s asid n next

/-- A walk along a chain of chunks has read their headers (R245). -/
def State.touchChain (s : State) (asid : Nat) : Nat → Nat → State
  | 0, _ => s
  | n + 1, chunk =>
    if chunk = 0 || s.partials.isEmpty then s
    else
      let s := s.touch asid chunk 16
      match s.vread asid chunk 8 with | .ok next => State.touchChain s asid n next | .error _ => s

/-- Chunks that a context's pool has. -/
def State.poolChunks (s : State) (asid : Nat) : Nat := match s.context? asid with | some c => c.chkpn.toNat | none => 0

/-- A free chunk of the context's pool (R318), any one. -/
def State.takeChunk (s : State) (asid : Nat) : Option (Nat × State) :=
  match s.context? asid with
  | none => none
  | some c =>
    if c.chunks.isEmpty then none
    else
      let k := s.choice c.chunks.length
      let i := c.chunks.getD k.1 0
      some (c.chkpb.toNat + 4096 * i, k.2.setContext { c with chunks := c.chunks.erase i })

/-- A chunk goes back to the pool (R317, R320). -/
def State.giveChunk (s : State) (asid chunk : Nat) : State :=
  s.modContext asid fun c =>
    let i := (chunk - c.chkpb.toNat) / 4096
    if c.chkpb.toNat ≤ chunk && decide (i < c.chkpn.toNat) && !c.chunks.contains i then { c with chunks := c.chunks ++ [i] } else c

/-- Writes one value of `n` bytes, with the failing address. -/
def State.vput (s : State) (asid va n v : Nat) : Except (BitVec 8 × Nat) State :=
  match s.vwrite asid va n v with
  | .ok s => .ok s
  | .error e => .error (e, va)

/-- CHPUSH's effect (R325). -/
def State.tryPush (s : State) (w : Wait) (c : CellWords) : Tried :=
  let ch := s.channel w.pa
  let s := s.touchChain w.asid (s.poolChunks w.asid + 1) ch.chunk
  let v := if w.wide then w.value.toNat else (w32 w.value).toNat
  if 2 ^ c.logn < ch.count then .bad tcOperand w.va
  else if ch.chunk = 0 then
    if ch.count < 2 ^ c.logn then
      match s.vput w.asid (ringAddr w.va c.logn w.wide ch.tail) (elemBytes w.wide) v with
      | .error e => .bad e.1 e.2
      | .ok t =>
        .met ((t.homeWrite (w.pa + 20) 4 ((ch.tail + 1) % 2 ^ 32)).2.cellWritten w.pa c) 0
          (max (s.writeTime w.pa) (s.vwriteTime w.asid (ringAddr w.va c.logn w.wide ch.tail)))
    else .unmet s c.consumer
  else
    match s.lastChunk w.asid (s.poolChunks w.asid) ch.chunk with
    | .error e => .bad e.1 e.2
    | .ok last =>
      match s.chunkEnds w.asid last with
      | .error e => .bad e.1 e.2
      | .ok (_, tail) =>
        if chunkRoom w.wide ≤ tail then .unmet s c.consumer
        else
          match s.vput w.asid (chunkAddr last w.wide tail) (elemBytes w.wide) v with
          | .error e => .bad e.1 e.2
          | .ok t =>
            match t.vput w.asid (last + 10) 2 (tail + 1) with
            | .error e => .bad e.1 e.2
            | .ok t =>
              .met (t.cellWritten w.pa c) 0
                (max (s.vwriteTime w.asid (chunkAddr last w.wide tail)) (s.vwriteTime w.asid (last + 10)))

/-- A pop has made room for a push: those that wait on the channel count their delay afresh (R320). While CHUNK is nonzero every push goes to
the last chunk, and a pop makes none there. -/
def State.roomMade (s : State) (asid va : Nat) : State :=
  { s with vigil := s.vigil.map fun (v : Vigil) =>
      if v.asid = asid && v.addr = va && v.op = .chpush then { v with since := now s, retry := 0 } else v }

/-- CHPOP's effect (R320, R325): a chunk that a pop empties is unlinked and goes back to the pool. -/
def State.tryPop (s : State) (w : Wait) (c : CellWords) : Tried :=
  let ch := s.channel w.pa
  if 2 ^ c.logn < ch.count then .bad tcOperand w.va
  else if ch.count != 0 then
    let s := s.touch w.asid (ringAddr w.va c.logn w.wide ch.head) (elemBytes w.wide)
    match s.vread w.asid (ringAddr w.va c.logn w.wide ch.head) (elemBytes w.wide) with
    | .error e => .bad e (ringAddr w.va c.logn w.wide ch.head)
    | .ok v =>
      let t := (s.homeWrite (w.pa + 16) 4 ((ch.head + 1) % 2 ^ 32)).2
      .met ((if ch.chunk = 0 then t.roomMade w.asid w.va else t).cellWritten w.pa c) (BitVec.ofNat 64 v) (s.writeTime w.pa)
  else if ch.chunk = 0 then .unmet s c.owner
  else
    let s := s.touch w.asid ch.chunk 16
    match s.chunkEnds w.asid ch.chunk with
    | .error e => .bad e.1 e.2
    | .ok (head, tail) =>
      if tail ≤ head then .unmet s c.owner
      else
        let s := s.touch w.asid (chunkAddr ch.chunk w.wide head) (elemBytes w.wide)
        match s.vread w.asid (chunkAddr ch.chunk w.wide head) (elemBytes w.wide), s.vread w.asid ch.chunk 8 with
        | .error e, _ => .bad e (chunkAddr ch.chunk w.wide head)
        | _, .error e => .bad e ch.chunk
        | .ok v, .ok next =>
          match s.vput w.asid (ch.chunk + 8) 2 (head + 1) with
          | .error e => .bad e.1 e.2
          | .ok t =>
            let t := if head + 1 = tail then (t.homeWrite (w.pa + 24) 8 next).2.giveChunk w.asid ch.chunk else t
            .met ((if head + 1 = tail && next = 0 then t.roomMade w.asid w.va else t).cellWritten w.pa c) (BitVec.ofNat 64 v)
              (max (s.vwriteTime w.asid (ch.chunk + 8)) (if head + 1 = tail then s.writeTime w.pa else 0))

/-- One attempt: a read-modify-write at the home that tests the condition of R306 and, if it holds, performs the effect. -/
def State.tryWait (s : State) (w : Wait) : Tried :=
  let s := s.recall (w.pa / 128)
  if s.poisoned (.glob w.pa) w.op.bytes then .bad tcMem w.va
  else
    match w.op with
    | .waitc => if (w32 w.value).toNat ≤ readNat s.dram w.pa 4 then .met s 0 0 else .unmet s 0
    | op =>
      let r := s.cell w.pa
      let c := r.1
      let s := r.2
      if !c.suits op w.wide then .bad tcOperand w.va
      else
        match op with
        | .fwait => if c.full then .met s (if w.wide then c.value else ofW (w32 c.value)) 0 else .unmet s c.owner
        | .lock =>
          if c.owner = 0 then .met ((s.homeWrite w.pa 8 (setFld c.head 14 50 (w.task / 64)).toNat).2.cellWritten w.pa c) 0 (s.writeTime w.pa)
          else .unmet s c.owner
        | .chpush => s.tryPush w c
        | _ => s.tryPop w c

/-- The virtual addresses at which an attempt at a channel reads or writes an element, or the first chunk, beside the channel's own (R325). -/
def State.waitAddrs (s : State) (w : Wait) : List Nat :=
  match w.op with
  | .chpush | .chpop =>
    let ch := s.channel w.pa
    let logn := (s.cell w.pa).1.logn
    if ch.chunk != 0 then [ch.chunk] else [ringAddr w.va logn w.wide (if w.op = .chpush then ch.tail else ch.head)]
  | _ => []

/-- The places of device memory that an attempt reaches (R386), and the meters' count of it (R379). -/
def State.waitPlaces (s : State) (w : Wait) : List Nat := w.pa :: (s.waitAddrs w).flatMap fun a => s.placesOf w.asid a .read true
def State.meterWait (s : State) (team : Nat) (w : Wait) : State :=
  (s.waitAddrs w).foldl (fun (s : State) a =>
    match s.xlateWalk w.asid a .read true with | .ok pa _ _ _ _ => s.meterSlice team (.glob pa) | .fault .. => s) (s.meterSlice team (.glob w.pa))

/-! ## Notices of the Almanac's own accesses (R376) -/

/-- Acts on a group wherever it stands: a group whose team is out stands among its team's saved groups. -/
def State.onGroup (s : State) (uid : Nat) (f : State → State) : State :=
  if (s.group? uid).isSome then f s
  else
    match s.saved.find? fun v => v.groups.any fun g => g.uid == uid with
    | none => s
    | some v =>
      match v.groups.find? fun g => g.uid == uid with
      | none => s
      | some g =>
        let t := f ((s.setTeam v.team).setGroup { g with place := .saved })
        let g' := (t.group? uid).getD g
        { t with
          groups := tabErase t.groups uid
          teams := tabErase t.teams v.team.uid
          saved := t.saved.map fun w => if w = v then { v with groups := v.groups.map fun h => if h.uid = uid then g' else h } else w }

/-- An access of the Almanac's for a wait has failed: the group that waits has a notice (R376). -/
def State.noticeWait (s : State) (grp : Nat) (pc : DWord) (e : BitVec 8 × Nat) : State :=
  s.onGroup grp fun s => s.postNotice grp ⟨e.1, 7, BitVec.ofNat 64 e.2, 0⟩ pc

/-! ## The owner walk and adoption (R309, R310, R313) -/

/-- The walk along WAITON from an owner: whether it comes to the waiter after another task. -/
def State.walkOwners (s : State) (asid me : Nat) : Nat → (at_ : Nat) → (passed : Bool) → Bool
  | 0, _, _ => false
  | n + 1, a, passed =>
    if a = 0 then false
    else if a = me then passed
    else
      match s.desc asid a with
      | .ok d => State.walkOwners s asid me n d.waitOn true
      | .error _ => false

/-- The walk has read the descriptors that it came to (R245). -/
def State.touchOwners (s : State) (asid me : Nat) : Nat → (at_ : Nat) → State
  | 0, _ => s
  | n + 1, a =>
    if a = 0 || a = me || s.partials.isEmpty then s
    else
      let s := s.touch asid a 64
      match s.desc asid a with | .ok d => State.touchOwners s asid me n d.waitOn | .error _ => s

/-- Whether W's team may adopt the owner X (R309). -/
def State.adoptable (s : State) (t : Team) (x : Nat) : Bool :=
  x != 0 &&
    (match s.desc t.asid x, s.desc t.asid t.task with
     | .ok d, .ok w =>
       (d.state == stUnstarted || d.state == stReady) && d.asid == t.asid && decide (w.depth ≤ 2) && d.helpOf == 0 &&
         (match s.launchOfTask t.asid x d with
          | some l =>
            !s.heldOut t.asid l.uid &&
            if l.spawned then l.bridle == t.bridle
            else l.pmap.getD d.team 0 % 256 == t.core && (l.pmap.getD d.team 0 / 256 % 2 == 1) == t.bridle
          | none => false)
     | _, _ => false)

/-- Adoption (R310): X is W's helper, reserved for W's core once it is READY; W waits on X; W's groups are taken out. -/
def State.adopt (s : State) (t : Team) (x : Nat) : State :=
  match s.desc t.asid x, s.desc t.asid t.task with
  | .ok d, .ok w =>
    let s := s.modDesc t.asid x fun d => setFld (setFld d 384 64 t.task) 448 4 (w.depth + 1)
    let s :=
      if d.state = stReady then
        { s with
          ready := s.ready.filter fun e => !(e.asid == t.asid && e.task == x)
          reservedFor := tabSet s.reservedFor (taskKey t.asid x) t.core }
      else s
    (s.modDesc t.asid t.task fun d => Desc.move (setFld d 320 64 x) stWaiting).requestTeam t.uid .adoption
  | _, _ => s

/-! ## The vigil table and the overflow area (R314, R317, R319) -/

def WaitOp.code : WaitOp → Nat
  | .fwait => 0 | .lock => 1 | .chpush => 2 | .chpop => 3 | .waitc => 4

/-- An entry's 32 bytes. -/
def Vigil.words (v : Vigil) (valid : Bool) : List Word :=
  words32
    (BitVec.ofNat 256
      (v.addr + 2 ^ 64 * v.task + 2 ^ 128 * (v.group % 32) + 2 ^ 133 * v.op.code + 2 ^ 136 * valid.toNat + 2 ^ 137 * v.wide.toNat +
        2 ^ 160 * v.value.toNat + 2 ^ 224 * v.dest.bits.toNat + 2 ^ 240 * (v.age % 65536))) 8

/-- Entries of a context in one chunk. -/
def State.entriesIn (s : State) (asid chunk : Nat) : List Vigil :=
  s.vigil.filter fun v => v.asid == asid && v.overflow.any fun a => chunk / 4096 == a / 4096

/-- Writes USED of a chunk. -/
def State.putUsed (s : State) (asid chunk : Nat) : Except (BitVec 8 × Nat) State :=
  s.vput asid (chunk + 8) 4 (s.entriesIn asid chunk).length

/-- The first chunk of the chain with room, or the last chunk. -/
def State.chunkWithRoom (s : State) (asid : Nat) : Nat → Nat → Except (BitVec 8 × Nat) (Nat × Bool)
  | 0, chunk => .ok (chunk, false)
  | n + 1, chunk =>
    if (s.entriesIn asid chunk).length < 127 then .ok (chunk, true)
    else
      match s.vread asid chunk 8 with
      | .error e => .error (e, chunk)
      | .ok 0 => .ok (chunk, false)
      | .ok next => State.chunkWithRoom s asid n next

/-- The lowest free entry of a chunk. -/
def State.freeEntry (s : State) (asid chunk : Nat) : Nat :=
  let taken := (s.entriesIn asid chunk).filterMap (·.overflow)
  (((List.range 127).map fun k => chunk + 32 + 32 * k).find? fun a => !taken.contains a).getD (chunk + 32)

/-- Puts an entry into a chunk. -/
def State.putEntry (s : State) (v : Vigil) (chunk : Nat) : Except (BitVec 8 × Nat) State :=
  let a := s.freeEntry v.asid chunk
  let t := { s with vigil := s.vigil ++ [{ v with overflow := some a }] }
  match t.vwrites v.asid a (v.words true) with
  | .error e => .error (e, a)
  | .ok t => t.putUsed v.asid chunk

/-- Zeroes a chunk's header. -/
def State.freshChunk (s : State) (asid chunk n : Nat) : Except (BitVec 8 × Nat) State :=
  s.vwriteAll asid ((List.range n).map fun k => (chunk + 4 * k, 0))

/-- An entry for the overflow area: a chunk is linked when the chain is full (R317). No chunk is free: none. -/
def State.spillEntry (s : State) (v : Vigil) : Except (BitVec 8 × Nat) (Option State) :=
  match s.context? v.asid with
  | none => .ok none
  | some c =>
    match s.chunkWithRoom v.asid (c.chkpn.toNat + 1) c.vovb.toNat with
    | .error e => .error e
    | .ok (chunk, true) => ((s.touchChain v.asid (c.chkpn.toNat + 1) c.vovb.toNat).putEntry v chunk).map some
    | .ok (last, false) =>
      let s := s.touchChain v.asid (c.chkpn.toNat + 1) c.vovb.toNat
      match s.takeChunk v.asid with
      | none => .ok none
      | some (chunk, s) =>
        match s.freshChunk v.asid chunk 8 with
        | .error e => .error e
        | .ok s =>
          match s.vput v.asid last 8 chunk with
          | .error e => .error e
          | .ok s => (s.putEntry v chunk).map some

/-- The mark of a spilled wait (R317): SPILL of the cell, or the spilled flag of a counter's line. -/
def State.setSpill (s : State) (v : Vigil) : State :=
  if v.op = .waitc then
    { s with spilled := if s.spilled.contains (v.pa / 128) then s.spilled else s.spilled ++ [v.pa / 128] }
  else (s.homeWrite v.pa 8 (setFld (s.cell v.pa).1.head 3 1 1).toNat).2

/-- A wait takes its entry, in the table of its stack or else in the overflow area. None: no chunk is free, or the overflow area cannot be
used, with the failure. -/
def State.addEntry (s : State) (v : Vigil) : Option State × Option (BitVec 8 × Nat) × State :=
  let v := { v with age := s.nextAge }
  let t := { s with nextAge := s.nextAge + 1 }
  if (s.vigil.filter fun e => e.stack == v.stack && e.overflow.isNone).length < 4096 then
    (some { t with vigil := s.vigil ++ [v] }, none, s)
  else
    match t.spillEntry v with
    | .ok (some t) => (some (t.setSpill v), none, s)
    | .ok none => (none, none, s)
    | .error e => (none, some e, s)

/-- The predecessor of a chunk in the overflow chain. -/
def State.chunkBefore (s : State) (asid chunk : Nat) : Nat → Nat → Option Nat
  | 0, _ => none
  | n + 1, a =>
    match s.vread asid a 8 with
    | .ok next => if next = 0 then none else if next = chunk then some a else State.chunkBefore s asid chunk n next
    | .error _ => none

/-- A chunk of the overflow area has lost an entry: USED is written, and a chunk other than the first that is empty goes back to the
pool. A failed access posts a notice to the group whose entry it was (R376). -/
def State.tidyChunk (s : State) (v : Vigil) (chunk : Nat) : State :=
  match s.context? v.asid with
  | none => s
  | some c =>
    match s.putUsed v.asid chunk with
    | .error e => s.noticeWait v.grp v.pc e
    | .ok s =>
      if chunk = c.vovb.toNat || !(s.entriesIn v.asid chunk).isEmpty then s
      else
        let s := s.touchChain v.asid (c.chkpn.toNat + 1) c.vovb.toNat
        match s.chunkBefore v.asid chunk (c.chkpn.toNat + 1) c.vovb.toNat, s.vread v.asid chunk 8 with
        | some before, .ok next =>
          (match s.vput v.asid before 8 next with | .ok s => s.giveChunk v.asid chunk | .error e => s.noticeWait v.grp v.pc e)
        | none, _ => s
        | _, .error e => s.noticeWait v.grp v.pc (e, chunk)

/-- Removes an entry. -/
def State.removeEntry (s : State) (v : Vigil) : State :=
  let s := { s with vigil := s.vigil.filter fun e => e.age != v.age }
  match v.overflow with
  | none => s
  | some a =>
    let s := match s.vwrites v.asid a (v.words false) with | .ok s => s | .error c => s.noticeWait v.grp v.pc (c, a)
    s.tidyChunk v (a / 4096 * 4096)

/-- A context's entries leave the overflow area (R321): their VALID goes, USED of each chunk becomes 0, and the chunks that were linked are
unlinked and go back to the pool. -/
def State.clearOverflow (s : State) (asid : Nat) : State :=
  (s.vigil.filter fun v => v.asid == asid && v.overflow.isSome).foldl State.removeEntry s

/-- The Almanac tells the host that the chunk pool is empty (R319). -/
def State.chunkLow (s : State) (asid : Nat) : State := { s with hostOut := s.hostOut ++ [completionMsg 1 asid 0 0 0] }

/-- The ns at which a chunk is looked for again (R319). -/
def State.nextTry (s : State) (asid : Nat) : Nat :=
  now s + (match s.context? asid with | some c => c.chdly.toNat * 1000 | none => 0)

end Sys2Proof.Machine
end

