-- ==== Sys2Proof/Machine/Waiting.lean ====
section
/-! DEFINITION. Waiting, ownership and helping (R303 to R328): the eight instructions, the first attempt, the retries of the vigil
table, and the chunks of channels. -/

namespace Sys2Proof.Machine

/-! ## FWAIT, LOCK, CHPUSH, CHPOP, WAITC (R307) -/

/-- The address of a cell or counter: A plus the signed offset C, from the lowest active lane (R250, R322). -/
def State.objectAddr (s : State) (x : Issue) (off : Nat) : Nat :=
  match x.low? with
  | some l => s.laneAddr x .glob 0 (some off) l
  | none => 0

/-- The destination rule of R307: a D or S register, or pair, that the following STRAND's entry names. -/
def State.waitDest (s : State) (x : Issue) (d : Opnd) (wide : Bool) : Option Trap :=
  match s.nextOf x.g { x.sp with pc := x.pc + BitVec.ofNat 64 x.len } with
  | some (n, .ok (.strand c e)) =>
    match s.strandEntry (s.asIssue (.strand c e) c x.g x.sp x.pc n) e.toNat with
    | .error t => some (if t.head.access = 0 then x.trap tcOperand else t)
    | .ok live =>
      let named : Bool :=
        match d.lvl with
        | .d => (fieldRegs d wide).all fun r => live.dmask.getLsbD r
        | .s => (fieldRegs d wide).all fun r => live.smask.getLsbD r
        | _ => false
      if named then none else some (x.trap tcOperand)
  | _ => some (x.trap tcOperand)

/-- The shared mould: checks, then a first attempt that holds the group's issue; with no active lane the group leaves its slot and the
following STRAND is ready at once. -/
def waitOp (i : Instr) (op : WaitOp) (wide : Bool) (dest : Option Opnd) (off : Nat) (value : Option Nat) (s : State) : Out :=
  issue i s fun x s =>
    match dest.bind fun d => s.waitDest x d wide with
    | some e => .error e
    | none =>
      if x.lanes = 0 then .ok ((s.finish x).leaveAtTerminator x.g.uid (.ready (s.clkOf x.g.core)))
      else
        let va := s.objectAddr x off
        let align := match op with | .waitc => 4 | .chpush | .chpop => 32 | _ => 16
        let need : Need := match op with | .fwait | .waitc => .read | _ => .both
        match s.objectAt x va align need 4 with
        | (.error e, _) => .error e
        | (.ok pa, t) =>
          let v := match value with | some k => s.srcLow x k | none => 0
          let t := t.modTeam x.g.team fun tm => retireAll tm x.g.idx
          let uid := t.nextId
          .ok ((t.startHeld x fun o => { o with job := .attempt op va pa wide v 0 }).holdOn x.g.uid uid)

/-- FWAIT (R323). -/
def execFwait (c : Ctl) (ty : Ty) (d a x : Opnd) (s : State) : Out :=
  waitOp (.fwait c ty d a x) .fwait ty.is64 (some d) 1 none s

/-- LOCK (R324). -/
def execLock (c : Ctl) (a x : Opnd) (s : State) : Out := waitOp (.lock c a x) .lock false none 1 none s

/-- CHPUSH (R325). -/
def execChpush (c : Ctl) (ty : Ty) (a b x : Opnd) (s : State) : Out :=
  waitOp (.chpush c ty a b x) .chpush ty.is64 none 2 (some 1) s

/-- CHPOP (R325). -/
def execChpop (c : Ctl) (ty : Ty) (d a x : Opnd) (s : State) : Out :=
  waitOp (.chpop c ty d a x) .chpop ty.is64 (some d) 1 none s

/-- WAITC (R326). -/
def execWaitc (c : Ctl) (a b x : Opnd) (s : State) : Out := waitOp (.waitc c a b x) .waitc false none 2 (some 1) s

/-! ## FSET, FTEST, UNLOCK (R322) -/

/-- An instruction on a cell that never waits: its checks, then one access that holds the group's issue. -/
def cellOp (i : Instr) (need : Need) (off : Nat) (wide : Bool) (value : Option Nat) (s : State) : Out :=
  issue i s fun x s =>
    if x.lanes = 0 then .ok (s.finish x)
    else
      let va := s.objectAddr x off
      match s.objectAt x va 16 need 4 with
      | (.error e, _) => .error e
      | (.ok pa, t) => .ok (t.ask x va pa wide (match value with | some k => s.srcLow x k | none => 0))

/-- FSET of a future (R327). -/
def execFsetFuture (c : Ctl) (ty : Ty) (status : BitVec 8) (a b x : Opnd) (s : State) : Out :=
  cellOp (.fsetFuture c ty status a b x) .both 2 ty.is64 (some 1) s

/-- FTEST (R328). -/
def execFtest (c : Ctl) (d a x : Opnd) (s : State) : Out := cellOp (.ftest c d a x) .read 1 false none s

/-- UNLOCK (R324). -/
def execUnlock (c : Ctl) (a x : Opnd) (s : State) : Out := cellOp (.unlock c a x) .both 1 false none s

/-- Elements in a channel's ring and chunks (R328). -/
def State.chainCount (s : State) (asid : Nat) : Nat → Nat → Except (BitVec 8 × Nat) Nat
  | 0, _ => .ok 0
  | n + 1, chunk =>
    if chunk = 0 then .ok 0
    else
      match s.chunkEnds asid chunk, s.vread asid chunk 8 with
      | .error e, _ => .error e
      | _, .error e => .error (e, chunk)
      | .ok (head, tail), .ok next =>
        match State.chainCount s asid n next with
        | .error e => .error e
        | .ok k => .ok (k + (tail - head))

/-- FTEST's state word (R328). -/
def stateWord (c : CellWords) (count : Nat) : DWord :=
  let ready := match c.kind with | 0 => c.full | 1 => c.owner != 0 | _ => count != 0
  BitVec.ofNat 64
    (ready.toNat + 2 * c.spill.toNat + 4 * c.kind + (if c.kind = 0 then 16 * c.status else 0) + 65536 * min count 65535)

/-- The access of FSET, FTEST or UNLOCK is performed at the cell's home. -/
def State.cellNow (s : State) (o : Op) (asid task va pa : Nat) (wide : Bool) (value : DWord) : State :=
  let s := s.recall (pa / 128)
  if s.poisoned (.glob pa) 16 then s.failOp o (o.trap tcMem 4 va)
  else
    let r := s.cell pa
    let c := r.1
    let s := r.2
    match o.instr with
    | .fsetFuture _ _ status _ _ _ =>
      if !c.suits .fwait false then s.failOp o (o.trap tcOperand 4 va)
      else
        let w := s.fillCell asid va pa c status.toNat (if wide then value else ofW (w32 value))
        (w.2.answer o 0).joinHorizon o.grp w.1
    | .unlock .. =>
      if !c.suits .lock false || c.owner != task / 64 * 64 then s.failOp o (o.trap tcOperand 4 va)
      else
        let w := s.homeWrite pa 8 (setFld c.head 14 50 0).toNat
        ((w.2.cellWritten pa c).answer o 0).joinHorizon o.grp w.1
    | _ =>
      if !c.valid then s.failOp o (o.trap tcOperand 4 va)
      else if c.kind != 2 then s.answer o (stateWord c 0)
      else if va % 32 != 0 then s.failOp o (o.trap tcAlign 4 va)
      else if s.poisoned (.glob pa) 32 then s.failOp o (o.trap tcMem 4 va)
      else
        let ch := s.channel pa
        if 2 ^ c.logn < ch.count then s.failOp o (o.trap tcOperand 4 va)
        else
          let s := s.touchChain asid (s.poolChunks asid) ch.chunk
          match s.chainCount asid (s.poolChunks asid) ch.chunk with
          | .error e => s.failOp o (o.trap e.1 4 e.2)
          | .ok k => s.answer o (stateWord c (ch.count + k))

/-! ## The first attempt (R308) -/

/-- When an attempt, or a held instruction's access, may be performed (R260). -/
def State.mayAttempt (s : State) (o : Op) (pa n : Nat) : Bool :=
  s.ops.all fun p =>
    !(p.grp == o.grp && decide (p.uid < o.uid)) ||
      (!p.touches (.glob pa) n && (match p.job with | .access b => !b.acq | .fence .. => false | _ => true))

/-- What the completion of a satisfied wait does to its group (R268): an acquire step, which a CHPUSH does not take; the completion time of
what it wrote joins %horizon. -/
def Group.completeWait (g : Group) (op : WaitOp) (at_ time : Nat) : Group :=
  { g with acquire := if op = .chpush then g.acquire else at_, horizon := max g.horizon time }

/-- A satisfied first attempt: result, completion and departure; the following STRAND is ready. -/
def State.meet (s : State) (o : Op) (op : WaitOp) (v : DWord) (time : Nat) : State :=
  let core := match s.group? o.grp with | some g => g.core | none => 0
  ((s.answer o v).modGroup o.grp fun g => g.completeWait op (now s) time).leaveAtTerminator o.grp (.ready (s.clkOf core))

/-- An attempt that waits: its group leaves its slot, and its task's WAITON holds the owner. -/
def State.parkWait (s : State) (o : Op) (t : Team) (owner : Nat) (adopt : Bool) : State :=
  let s := (((s.commitOp o).dropOp o.uid).unhold o).leaveAtTerminator o.grp .waiting
  if adopt then s.adopt t owner
  else if owner = 0 then s
  else s.modDesc t.asid t.task fun d => setFld d 320 64 owner

/-- A first attempt is made: satisfied, a cycle, adoption or the vigil table (R308). With no chunk for its entry the group keeps its slot
and tries again (R319). DESIGN CHOICE (log entry 57): where the overflow area cannot be used, the group has its notice (R376), and the
instruction, which has left nothing, issues again after it. -/
def State.firstAttempt (s : State) (o : Op) (g : Group) (t : Team) (w : Wait) (again : Bool) : State :=
  match (s.meterWait t.uid w).tryWait w with
  | .bad c a => s.failOp o (o.trap c 4 a)
  | .met u v time => u.meet o w.op v time
  | .unmet u owner =>
    let u := u.touchOwners t.asid t.task 64 owner
    if u.walkOwners t.asid t.task 64 owner false then u.failOp o (o.trap tcCycle 4 w.va)
    else
      let adopt := u.adoptable t owner
      let v : Vigil :=
        { stack := g.core / 32, overflow := none, asid := t.asid, addr := w.va, pa := w.pa, task := t.task, group := g.idx, grp := g.uid
          op := w.op, wide := w.wide, value := w.value, dest := (match o.dest with | some d => d.op | none => Opnd.null)
          lanes := o.lanes, set := o.set, pc := o.pc, age := 0, owner := owner, adopted := if adopt then owner else 0
          since := now u, retry := 0 }
      match u.addEntry v with
      | (some u, _, _) => u.parkWait o t owner adopt
      | (none, some e, u) => ((u.finishOp o).unhold o).noticeWait g.uid o.pc e
      | (none, none, u) =>
        (if again then u else u.chunkLow t.asid).setOp
          { o with job := .attempt w.op w.va w.pa w.wide w.value (u.nextTry t.asid) }

/-- The wait of an operation. -/
def Op.wait? (o : Op) (t : Team) : Option Wait :=
  match o.job with
  | .attempt op va pa wide value _ =>
    some { asid := t.asid, task := t.task, va := va, pa := pa, op := op, wide := wide, value := value }
  | _ => none

/-- FIRST_ATTEMPT_ANSWER (R307, R308), where no maintenance action holds the attempt (R386). -/
def execFirstAttemptAnswer (op : Nat) (s : State) : Out :=
  match s.op? op with
  | none => .fault .notEnabled
  | some o =>
    match s.group? o.grp with
    | none => .fault .notEnabled
    | some g =>
      match s.team? g.team with
      | none => .fault .notEnabled
      | some t =>
        match o.job, o.wait? t with
        | .attempt _ _ _ _ _ 0, some w =>
          s.holdOr (fun s => s.waitPlaces w) (.firstAttemptAnswer op)
            (if s.mayAttempt o w.pa w.op.bytes then .next (s.firstAttempt o g t w false) else .fault .notEnabled)
        | _, _ => .fault .notEnabled

/-! ## Retries (R311, R315, R316) -/

/-- A result is written to a group's register in every lane that was active at the instruction. -/
def Group.take (g : Group) (d : Opnd) (wide : Bool) (lanes : Lanes) (v : DWord) : Group :=
  let lo := v.extractLsb' 0 32
  let hi := v.extractLsb' 32 32
  let r := d.idx.toNat
  match d.lvl with
  | .d =>
    (lanes.list 64).foldl (fun (g : Group) l => let g := g.dSet r l lo; if wide then g.dSet (r + 1) l hi else g) g
  | .s =>
    { g with bank := { g.bank with splits := g.bank.splits.map fun (sp : Split) =>
        let sp := sp.sSet r lo; if wide then sp.sSet (r + 1) hi else sp } }
  | _ => g

/-- The words of a parked group's block that a result goes to (R316). -/
def blockWrites (g : Group) (e : Live) (a : Nat) (d : Opnd) (wide : Bool) (lanes : Lanes) (v : DWord) : List (Nat × Word) :=
  (blockSlots e.dmask e.smask g.width).filterMap fun sl =>
    if sl.2.1 = d.lvl && (d.lvl == .s || lanes.has sl.2.2.2) then
      if sl.2.2.1 = d.idx.toNat then some (a + sl.1, v.extractLsb' 0 32)
      else if wide && sl.2.2.1 == d.idx.toNat + 1 then some (a + sl.1, v.extractLsb' 32 32)
      else none
    else none

/-- A wait has ended with a value, which goes where the group's register is (R316): into the register, and into the group's block where
that holds the registers. -/
def State.placeResult (s : State) (v : Vigil) (value : DWord) : State :=
  match s.group? v.grp with
  | none => s
  | some g =>
    let s := s.setGroup (g.take v.dest v.wide v.lanes value)
    match g.savedAt, s.teamOf g, s.launchOf g with
    | some (_, e, true), some t, some l =>
      match s.desc t.asid t.task with
      | .error _ => s
      | .ok d =>
        let ws := blockWrites g e (blockAddr d.prec l.prgBlk g.idx) v.dest v.wide v.lanes value
        (match s.vwriteAll t.asid ws with
         | .ok s => s
         | .error f => s.logFault t.asid (almanacRecord f.1 f.2 t.task))
    | _, _, _ => s

/-- The group's part of a wait's end (R315, R316): the result and its completion, or a notice; the flag goes down and the following STRAND
is ready. -/
def State.endForGroup (s : State) (v : Vigil) (out : Except (BitVec 8 × Nat) (DWord × Nat)) : State :=
  let s := match out with | .ok x => s.placeResult v x.1 | .error _ => s
  let s := s.modGroup v.grp fun g =>
    let g := match out with | .ok x => g.completeWait v.op (now s) x.2 | .error _ => g
    { g with bank := g.bank.flagDone v.set, place := if g.place = .waiting then .ready (s.clkOf g.core) else g.place }
  match out with
  | .ok _ => s
  | .error e => s.postNotice v.grp ⟨e.1, 4, BitVec.ofNat 64 e.2, 0⟩ v.pc

/-- Whether a wait is its task's most recent unsatisfied one that has an owner (R313). -/
def State.mostRecent (s : State) (v : Vigil) : Bool :=
  v.owner != 0 && s.vigil.all fun e => !(e.asid == v.asid && e.task == v.task && e.owner != 0 && decide (v.age < e.age))

/-- A wait ends: its entry goes, its group goes on, WAITON is cleared, and an adopted owner is no longer a helper (R311, R313, R315). -/
def State.endWait (s : State) (v : Vigil) (out : Except (BitVec 8 × Nat) (DWord × Nat)) : State :=
  let recent := s.mostRecent v
  let s := (s.removeEntry v).onGroup v.grp fun s => s.endForGroup v out
  let s := if recent then s.modDesc v.asid v.task fun d => setFld d 320 64 0 else s
  if v.adopted = 0 then s
  else (s.modDesc v.asid v.adopted fun d => setFld d 384 64 0).wakeTask v.asid v.task

/-- The wait of an entry. -/
def Vigil.wait (v : Vigil) : Wait :=
  { asid := v.asid, task := v.task, va := v.addr, pa := v.pa, op := v.op, wide := v.wide, value := v.value }

/-- The next entry of a watched line to retry: the oldest not yet retried; those of the overflow area only where R317 scans it. -/
def State.nextRetry (s : State) (line next : Nat) (cells : List Nat) : Option Vigil :=
  s.vigil.foldl (fun (m : Option Vigil) v =>
    let due := v.pa / 128 == line && decide (next ≤ v.age) &&
      (v.overflow.isNone || cells.contains v.pa || (v.op == .waitc && s.spilled.contains line))
    let older := match m with | some w => decide (v.age < w.age) | none => true
    if due && older then some v else m) none

/-- An entry stays, with the owner that its cell names now. -/
def State.keepEntry (s : State) (v : Vigil) (owner : Nat) : State :=
  let t := { s with vigil := s.vigil.map fun e => if e.age = v.age then { e with owner := owner } else e }
  if s.mostRecent v && owner != v.owner then t.modDesc v.asid v.task fun d => setFld d 320 64 owner else t

/-- The team of a group, be it in or out. -/
def State.teamIdOf (s : State) (grp : Nat) : Nat :=
  match s.group? grp with
  | some g => g.team
  | none => match s.saved.find? fun v => v.groups.any fun g => g.uid == grp with | some v => v.team.uid | none => 0

/-- A retry. -/
def State.retryEntry (s : State) (v : Vigil) : State :=
  match (s.meterWait (s.teamIdOf v.grp) v.wait).tryWait v.wait with
  | .met t x time => t.endWait v (.ok (x, time))
  | .bad c a => s.endWait v (.error (c, a))
  | .unmet t owner => t.keepEntry v owner

/-- The places that the next retry of a line reaches. -/
def State.retryPlaces (s : State) (line : Nat) : List Nat :=
  match (s.watch.find? fun w => w.1 == line).bind fun w => s.nextRetry line w.2.1 w.2.2 with
  | some v => s.waitPlaces v.wait
  | none => []

/-- A retry where no maintenance holds it. -/
def vigilNow (line : Nat) (s : State) : Out :=
  if !(s.watch.any fun w => w.1 == line) then .fault .notEnabled
  else
    let s := s.recall line
    match s.watch.find? fun w => w.1 == line with
    | none => .next s
    | some (_, next, cells) =>
      match s.nextRetry line next cells with
      | none => .next { s with watch := s.watch.filter fun w => w.1 != line }
      | some v =>
        let s := { s with watch := s.watch.map fun (w : Nat × Nat × List Nat) => if w.1 = line then (line, v.age + 1, cells) else w }
        .next (s.retryEntry v)

/-- VIGIL_RETRY (R315): the oldest entry of a written line that has not been retried since; the line's retries end when none is left. -/
def execVigilRetry (line : Nat) (s : State) : Out := s.holdOr (fun s => s.retryPlaces line) (.vigilRetry line) (vigilNow line s)

/-! ## Chunks (R319, R320) -/

/-- Whether a waiting CHPUSH's channel is to gain a chunk now. -/
def Vigil.chunkDue (v : Vigil) (t delay : Nat) : Bool := v.op == .chpush && v.retry == 0 && decide (v.since + delay ≤ t)

/-- Whether a push finds no room in a channel: its ring is full, or its last chunk; one whose chain cannot be read is left to the linking. -/
def State.channelFull (s : State) (v : Vigil) (c : CellWords) (ch : Channel) : Bool :=
  if ch.chunk = 0 then decide (2 ^ c.logn ≤ ch.count)
  else
    match s.lastChunk v.asid (s.poolChunks v.asid) ch.chunk with
    | .error _ => true
    | .ok last => match s.chunkEnds v.asid last with | .error _ => true | .ok (_, tail) => decide (chunkRoom v.wide ≤ tail)

/-- A chunk is linked at the end of a channel's chain and the waiting pushes are retried; with none free the entry looks again after the
delay. A channel that cannot be used is left to the retry, and one that is not full has its delay counted afresh. A failed access posts
a notice to the group that waits (R376). -/
def State.linkChunk (s : State) (v : Vigil) (first : Bool) : State :=
  let s := s.recall (v.pa / 128)
  let c := (s.cell v.pa).1
  let ch := s.channel v.pa
  let settled (s : State) : State :=
    { s with vigil := s.vigil.map fun (e : Vigil) =>
        if e.asid = v.asid && e.addr = v.addr && e.op = .chpush then { e with since := now s, retry := 0 } else e }
  if !c.suits .chpush v.wide then (settled s).cellWritten v.pa c
  else if !s.channelFull v c ch then settled s
  else
    let s := s.touchChain v.asid (s.poolChunks v.asid + 1) ch.chunk
    match s.takeChunk v.asid with
    | none =>
      { (if first then s.chunkLow v.asid else s) with
        vigil := s.vigil.map fun (e : Vigil) => if e.age = v.age then { e with retry := s.nextTry v.asid } else e }
    | some (chunk, t) =>
      let done : Except (BitVec 8 × Nat) State :=
        match t.freshChunk v.asid chunk 16 with
        | .error e => .error e
        | .ok t =>
          if ch.chunk = 0 then .ok (t.homeWrite (v.pa + 24) 8 chunk).2
          else
            match t.lastChunk v.asid (t.poolChunks v.asid) ch.chunk with
            | .error e => .error e
            | .ok last => t.vput v.asid last 8 chunk
      match done with
      | .ok t => (settled t).cellWritten v.pa c
      | .error e => (settled s).noticeWait v.grp v.pc e

/-- CHANNEL_OVERFLOW_DELAY (R320): a channel has stayed full for the context's delay while a CHPUSH waits on it. -/
def execChannelOverflowDelay (asid cell : Nat) (s : State) : Out :=
  match s.context? asid with
  | none => .fault .notEnabled
  | some c =>
    match s.vigil.find? fun v => v.asid == asid && v.addr == cell && v.chunkDue (now s) (c.chdly.toNat * 1000) with
    | none => .fault .notEnabled
    | some v => s.holdOr (fun s => s.waitPlaces v.wait) (.channelOverflowDelay asid cell) (.next (s.linkChunk v true))

/-- An operation whose first attempt waits for a chunk. -/
def Op.chunkRetry (o : Op) : Nat := match o.job with | .attempt _ _ _ _ _ r => r | _ => 0

/-- The operations of a context's groups. -/
def State.opAsid (s : State) (o : Op) : Nat := match s.group? o.grp with | some g => s.asidOf g | none => 0

/-- CHUNK_POOL_RETRY (R319): a chunk is looked for again. -/
def execChunkPoolRetry (asid : Nat) (s : State) : Out :=
  match s.ops.find? fun o => o.chunkRetry != 0 && decide (o.chunkRetry ≤ now s) && s.opAsid o == asid with
  | some o =>
    match s.group? o.grp with
    | none => .fault .notEnabled
    | some g =>
      match s.team? g.team with
      | none => .fault .notEnabled
      | some t =>
        match o.wait? t with
        | some w => s.holdOr (fun s => s.waitPlaces w) (.chunkPoolRetry asid) (.next (s.firstAttempt o g t w true))
        | none => .fault .notEnabled
  | none =>
    match s.vigil.find? fun v => v.asid == asid && v.retry != 0 && decide (v.retry ≤ now s) with
    | some v => s.holdOr (fun s => s.waitPlaces v.wait) (.chunkPoolRetry asid) (.next (s.linkChunk v false))
    | none => .fault .notEnabled

end Sys2Proof.Machine
end

