-- ==== Sys2Proof/Machine/Tether.lean ====
section
/-! DEFINITION. Remote windows and the Tether (R354 to R357, R361, R362, R364 to R368): PUT, GET, RATOM and WSTAT, the engines'
steps, and the transactions and frames that arrive for them. -/

namespace Sys2Proof.Machine

/-! ## Tables, routes and counters (R354, R361, R367) -/

/-- A VALID entry of a context's window table: base, size, and the entry's address. -/
structure Window where
  base : Nat
  size : Nat
  entry : Nat
  deriving DecidableEq, Repr

/-- The entry of a window, where it is VALID, or the code and the address of a failed read of it. What the device does with an entry whose
must-be-zero bits are set is not stated (R6 gives R354 no code): the bits are ignored, the model's choice (log entry 52). -/
def State.windowEntry (s : State) (asid w : Nat) : Except (BitVec 8 × Nat) (Option Window) :=
  match s.context? asid with
  | none => .ok none
  | some c =>
    let a := c.winTab + 64 * w
    match s.vread asid a 8, s.vread asid (a + 8) 8 with
    | .error e, _ => .error (e, a)
    | _, .error e => .error (e, a + 8)
    | .ok base, .ok v => .ok (if v / 2 ^ 32 % 2 = 1 then some { base := base, size := v % 2 ^ 32, entry := a } else none)

/-- A VALID window: an entry that cannot be read counts as not VALID (log entry 23). -/
def State.window? (s : State) (asid w : Nat) : Option Window :=
  match s.windowEntry asid w with | .ok w => w | .error _ => none

/-- The record of a failed read of a table, for the group that made the use (R376). -/
def tableRec {α : Type} (r : Except (BitVec 8 × Nat) α) : Option TrapRec :=
  match r with | .ok _ => none | .error e => some ⟨e.1, 5, BitVec.ofNat 64 e.2, 0⟩

/-- A use of a context's table has read an entry (R245). -/
def State.touchIn (s : State) (asid : Nat) (a : Context → Nat) : State :=
  match s.context? asid with | some c => s.touch asid (a c) 16 | none => s

/-- The window that a transfer names on this device: the entry of the lowest ASID that holds it VALID (R354). -/
def State.windowHere (s : State) (w : Nat) : Option (Nat × Window) :=
  s.contexts.findSome? fun (e : Nat × Context) => (s.window? e.1 w).map fun v => (e.1, v)

/-- The places that a message about some bytes of a window reaches: the window's entry with its counters, and the bytes (R386). -/
def State.windowPlaces (s : State) (w off len : Nat) : List Nat :=
  match s.windowHere w with
  | none => []
  | some (asid, v) =>
    s.placesOf asid v.entry .read true ++ s.placesOf asid (v.base + off) .read true ++
      s.placesOf asid (v.base + off + (len - 1)) .read true

/-- The place of the counter of a transfer's own window, which is in the window's entry. -/
def State.ownCounter (s : State) (asid : Nat) (win : BitVec 12) : List Nat :=
  match s.context? asid with | some c => s.placesOf asid (c.winTab + 64 * win.toNat) .both true | none => []

/-- The ports by which traffic to a device may leave: of the route table, and those whose link has not failed. -/
def State.portsTo (s : State) (dev : BitVec 10) : BitVec 24 := cellGet s.routes dev.toNat
def State.routed (s : State) (dev : BitVec 10) : Bool := s.devid.any fun d => d == dev || s.portsTo dev != 0
def State.reachable (s : State) (dev : BitVec 10) : Bool :=
  s.devid.any fun d => d == dev || (s.portsTo dev &&& ~~~(cellGet s.deadLinks 0)) != 0

/-- A counter's increment at its home (R354, R356, R360): of a window's 64-bit counter, with bit 63 set for a failure, or of a
collective's 32-bit counter, with bit 31; or the code with which it cannot be reached. The meters count it for the team whose
transfer it is, 0 where that is another device's (R379). -/
def State.bump (s : State) (team asid va n : Nat) (fail priv : Bool) : Except (BitVec 8) State :=
  let s := s.recallWalk asid va
  match s.xlateWalk asid va .both priv with
  | .fault c _ _ => .error c
  | .ok pa _ _ _ _ =>
    let s := (s.recall (pa / 128)).meterSlice team (.glob pa)
    if s.poisoned (.glob pa) n then .error tcMem
    else
      let v := readNat s.dram pa n
      let top := 2 ^ (8 * n - 1)
      let next := if !fail then (v + 1) % (2 * top) else if n = 4 then (v + 1) % top + top else (v + 1) % (2 * top) % top + top
      .ok (s.homeWrite pa n next).2

/-- The place of a window's counter. -/
def Window.counter (w : Window) (arrived : Bool) : Nat := w.entry + (if arrived then 24 else 16)

/-- A counter of a window that another device's transfer names: where it cannot be reached, the fault goes to the context's log, since no
group here has made the use (log entry 23). -/
def State.bumpWindow (s : State) (asid : Nat) (w : Window) (arrived fail : Bool) : State :=
  match s.bump 0 asid (w.counter arrived) 8 fail true with
  | .ok s => s
  | .error c => s.logFault asid (almanacRecord c (w.counter arrived) 0)

/-- The notice of a failed transfer or collective (R356, R360). -/
def State.remoteNotice (s : State) (grp : Nat) (pc : DWord) (addr : Nat) : State :=
  s.postNotice grp ⟨tcRemote, 5, BitVec.ofNat 64 addr, 0⟩ pc

/-- An engine's read and write of up to eight bytes at a virtual address, with the completion time of the write; the base dies' meters
count them for the team whose transfer it is, 0 where that is another device's (R379). -/
def State.farRead (s : State) (team asid va n : Nat) (priv : Bool) : Option (DWord × State) :=
  let s := s.recallWalk asid va
  match s.xlateWalk asid va .read priv with
  | .fault .. => none
  | .ok pa _ _ _ _ =>
    let s := s.recall (pa / 128)
    if s.poisoned (.glob pa) n then none else some ((s.meterSlice team (.glob pa)).homeRead pa n)

def State.farWrite (s : State) (team asid va n v : Nat) (priv : Bool) : Option (Nat × State) :=
  let s := s.recallWalk asid va
  match s.xlateWalk asid va .write priv with
  | .fault .. => none
  | .ok pa _ _ _ _ => some ((s.meterSlice team (.glob pa)).homeWrite pa n v)

/-- Reads words one after another; none at the first failure. -/
def State.farReads (s : State) (team asid : Nat) (priv : Bool) : List Nat → Option (List Word × State)
  | [] => some ([], s)
  | a :: as =>
    match s.farRead team asid a 4 priv with
    | none => none
    | some r => (State.farReads r.2 team asid priv as).map fun q => (w32 r.1 :: q.1, q.2)

/-- Writes words one after another up to the first failure: the latest completion time, whether all were written, the device. -/
def State.farWrites (s : State) (team asid : Nat) (priv : Bool) : List (Nat × Word) → Nat × Bool × State
  | [] => (0, true, s)
  | e :: es =>
    match s.farWrite team asid e.1 4 e.2.toNat priv with
    | none => (0, false, s)
    | some r =>
      let q := State.farWrites r.2 team asid priv es
      (max r.1 q.1, q.2)

/-! ## PUT, GET, RATOM, WSTAT (R361 to R365) -/

/-- Device and window of a target word, and whether a bit that must be zero is not. -/
def targetDev (w : Word) : BitVec 10 := w.extractLsb' 0 10
def targetWin (w : Word) : BitVec 12 := w.extractLsb' 16 12
def targetBad (w : Word) : Bool := (w &&& 0xF000FC00) != 0

/-- The trap of a local check. -/
def Issue.remoteTrap (x : Issue) (code : BitVec 8) (addr : Nat) : Trap := Trap.one code x.sp.lanes (BitVec.ofNat 64 addr) 5

/-- Steps 2 and 3 of R361 for PUT, GET and RATOM. -/
def State.targetCheck (s : State) (x : Issue) (target : Word) (roff : Nat) : Option Trap :=
  if targetBad target then some (x.trap tcOperand)
  else if (s.window? (s.asidOf x.g) (targetWin target).toNat).isNone || !s.routed (targetDev target) then
    some { x.remoteTrap tcRemote roff with notice := tableRec (s.windowEntry (s.asidOf x.g) (targetWin target).toNat) }
  else none

/-- A transfer as it forks. -/
def State.newRemote (s : State) (x : Issue) (op : Nat) (kind : RemoteKind) (target : Word) (roff local_ len : Nat) : Remote :=
  { op := op, grp := x.g.uid, team := x.g.team, asid := s.asidOf x.g, core := x.g.core, pc := x.pc, priv := x.inHandler, kind := kind
    dev := targetDev target, win := targetWin target, roff := roff, local_ := local_, len := len
    todo := (List.range (len / 4)).map (4 * ·), asked := [], started := false, counted := false, due := 0, failed := false, isOver := false }

/-- PUT and GET (R362). -/
def transferOp (i : Instr) (kind : RemoteKind) (s : State) : Out :=
  issue i s fun x s =>
    if x.lanes = 0 then .ok (s.finish x)
    else
      let roff := (s.srcLow x 0).toNat
      let va := (s.srcLow x 1).toNat
      let len := (w32 (s.srcLow x 2)).toNat
      let target := w32 (s.srcLow x 3)
      match s.targetCheck x target roff with
      | some t => .error t
      | none =>
        if 16777216 < len then .error (x.trap tcOperand)
        else if len % 4 != 0 || va % 4 != 0 || roff % 4 != 0 then .error (x.remoteTrap tcAlign va)
        else if 2 ^ 56 ≤ va || 2 ^ 56 < va + len then .error (x.remoteTrap tcAddress va)
        else
          let s := s.touchIn (s.asidOf x.g) (fun c => c.winTab + 64 * (targetWin target).toNat)
          let r := s.newRemote x s.nextId kind target roff va len
          let t := s.start x fun o => { o with job := .answer }
          .ok { t with remotes := t.remotes ++ [r] }

def execPut (c : Ctl) (d a b x : Opnd) (s : State) : Out := transferOp (.put c d a b x) .put s
def execGet (c : Ctl) (d a b x : Opnd) (s : State) : Out := transferOp (.get c d a b x) .get s

/-- RATOM (R364): sources A the remote offset, B the operand, C the target, and D as the compare value of .cas. -/
def execRatom (c : Ctl) (ty : Ty) (aop : AtomOp) (d a b x : Opnd) (s : State) : Out :=
  issue (.ratom c ty aop d a b x) s fun y s =>
    if y.lanes = 0 then .ok (s.finish y)
    else
      let k := if aop = .cas then 1 else 0
      let roff := (s.srcLow y k).toNat
      let operand := s.srcLow y (k + 1)
      let target := w32 (s.srcLow y (k + 2))
      let cmp := if aop = .cas then s.srcLow y 0 else 0
      match s.targetCheck y target roff with
      | some t => .error t
      | none =>
        if roff % atomSize ty != 0 then .error (y.remoteTrap tcAlign roff)
        else
          let s := s.touchIn (s.asidOf y.g) (fun c => c.winTab + 64 * (targetWin target).toNat)
          let r := { s.newRemote y s.nextId (.ratom ty aop operand cmp) target roff 0 0 with len := atomSize ty }
          let t := s.start y fun o => { o with job := .remote }
          .ok { t with remotes := t.remotes ++ [r] }

/-- WSTAT (R365). -/
def execWstat (c : Ctl) (arrived : Bool) (d a : Opnd) (s : State) : Out :=
  issue (.wstat c arrived d a) s fun x s =>
    if x.lanes = 0 then .ok (s.finish x)
    else
      let w := (w32 (s.srcLow x 0)).toNat
      if 4096 ≤ w then .error (x.trap tcOperand)
      else
        match s.window? (s.asidOf x.g) w with
        | none => .error { x.remoteTrap tcRemote 0 with notice := tableRec (s.windowEntry (s.asidOf x.g) w) }
        | some v =>
          let va := v.counter arrived
          match s.xlateWalk (s.asidOf x.g) va .read true with
          | .fault .. => .error (x.remoteTrap tcRemote 0)
          | .ok pa _ _ _ _ =>
            let s := (s.touchIn (s.asidOf x.g) (fun c => c.winTab + 64 * w)).recallWalk (s.asidOf x.g) va
            .ok (s.start x fun o => { o with job := .wstat pa va })

/-- An answer has come: its value lands at some later clk, and until then a read of the destination may see it or not (R94, log entry 4). -/
def State.landSoon (s : State) (o : Op) (vals : Cells 64) : State :=
  let clk := match s.group? o.grp with | some g => s.clkOf g.core | none => s.clk
  { s with fresh := s.fresh + 1 }.setOp { o with vals := vals, job := .plain, due := some (clk + 1 + Config.choose s.fresh) }

/-- WSTAT's read is performed; poisoned data raises its trap late (R248). -/
def State.wstatNow (s : State) (o : Op) (pa va : Nat) : State :=
  let s := (s.recall (pa / 128)).meterSlice (s.teamIdOf o.grp) (.glob pa)
  if s.poisoned (.glob pa) 8 then
    let r := s.spoil o o.lanes
    let s := (r.2.landResult r.1).finishOp o
    match s.group? o.grp with
    | none => s
    | some g =>
      let t := Trap.one tcMem o.lanes (BitVec.ofNat 64 va) 2
      if o.stale g || g.place = .ended then s
      else if o.hand then s.raiseTrap g o.split o.pc o.len t
      else s.setGroup { g with late := g.late ++ [{ split := o.split, pc := o.pc, recs := t.recs, cb := none, gather := none }] }
  else
    let v := s.homeRead pa 8
    v.2.landSoon o (laneVals (o.lanes.list 64) fun _ => v.1)

/-! ## The initiator's engine (R355, R356, R366) -/

def State.remote? (s : State) (op : Nat) : Option Remote := s.remotes.find? fun r => r.op == op
def State.setRemote (s : State) (r : Remote) : State := { s with remotes := s.remotes.map fun x => if x.op == r.op then r else x }
def State.dropRemote (s : State) (op : Nat) : State := { s with remotes := s.remotes.filter fun x => x.op != op }

/-- Up to `n` words that follow one another among those still to do. -/
def runFrom (todo : List Nat) (a : Nat) : Nat → List Nat
  | 0 => []
  | n + 1 => if todo.contains a then a :: runFrom todo (a + 4) n else []

/-- A request of a transfer over some of its bytes. -/
def Remote.xact (r : Remote) (src : BitVec 10) (a n : Nat) (ws : List Word) : Xact :=
  { src := src, tag := r.op, window := r.win, off := r.roff + a, len := n, total := r.len, words := ws, ok := true }

def State.send (s : State) (m : TetherMsg) : State := { s with tetherOut := s.tetherOut ++ [m] }

/-- A RATOM ends without its old value (R364): the destination is unchanged. -/
def State.ratomFails (s : State) (op : Nat) : State :=
  match s.op? op with
  | none => s
  | some o =>
    let r := s.spoil o o.lanes
    (r.2.landResult r.1).finishOp o

/-- A counter of the initiator's own window entry (R355, R356), where that is VALID; an entry or counter that cannot be reached gives the
initiating group a notice (R376). -/
def State.bumpOwn (s : State) (r : Remote) (arrived fail : Bool) : State :=
  let s := s.touchIn r.asid (fun c => c.winTab + 64 * r.win.toNat)
  match s.windowEntry r.asid r.win.toNat with
  | .error e => s.postNotice r.grp ⟨e.1, 5, BitVec.ofNat 64 e.2, 0⟩ r.pc
  | .ok none => s
  | .ok (some w) =>
    match s.bump r.team r.asid (w.counter arrived) 8 fail true with
    | .ok s => s
    | .error c => s.postNotice r.grp ⟨c, 5, BitVec.ofNat 64 (w.counter arrived), 0⟩ r.pc

/-- A transfer ends in failure: a notice is posted (R356). -/
def State.remoteEnds (s : State) (r : Remote) : State := (s.dropRemote r.op).remoteNotice r.grp r.pc r.roff

/-- A transfer fails at its initiator before the source counter has been incremented (R356): one here is incremented with bit 63. -/
def State.remoteFails (s : State) (r : Remote) : State :=
  let s :=
    match r.kind, r.counted with
    | .put, false => s.bumpOwn r false true
    | .ratom .., _ => s.ratomFails r.op
    | _, _ => s
  s.remoteEnds r

/-- A PUT's source counter is incremented once every read has been performed (R355). -/
def State.putRead (s : State) (r : Remote) : State :=
  if r.todo.isEmpty then (s.bumpOwn r false false).setRemote { r with counted := true, isOver := true } else s.setRemote r

/-- Words of a transfer leave or come over the links, whose energy the base die under the initiating core meters (R379). -/
def State.meterLink (s : State) (r : Remote) (n : Nat) : State := s.meter (baseDie r.core) r.team .link n

/-- A step of a transfer's engine: some of its words, at most 64, or the request of one without words, leave. -/
def State.remoteStep (s : State) (r : Remote) (own : BitVec 10) (unit : Nat) : Option State :=
  if r.isOver then none
  else
    match r.kind with
    | .ratom ty op operand cmp =>
      if r.started then none
      else if !s.reachable r.dev then some (s.remoteFails r)
      else
        let s := (s.setRemote { r with started := true }).meterLink r (r.len / 4)
        let put (v : DWord) : List Word := if ty.is64 then [w32 v, v.extractLsb' 32 32] else [w32 v]
        if ty = .f32 then
          some (s.send (.frame
            { kind := 5, ver := 0, src := own, dst := r.dev, window := r.win, cgroup := 0, seq := BitVec.ofNat 32 r.op, srank := 0
              count := 0, fmt := 0, red := 0, op := 0, level := 0, elem := 0, nelem := 1, extra := BitVec.ofNat 64 r.roff
              payload := put operand }))
        else
          some (s.send (.atomic r.dev (r.xact own 0 r.len (put operand ++ (if op = .cas then put cmp else []))) ty op))
    | kind =>
      match r.todo[unit]?, r.len, r.started with
      | none, 0, false =>
        if !s.reachable r.dev then some (s.remoteFails r)
        else if kind = .put then some ((s.send (.write r.dev (r.xact own 0 0 []))).putRead { r with started := true })
        else some ((s.send (.read r.dev (r.xact own 0 0 []))).setRemote { r with started := true, asked := [0] })
      | some a, _, _ =>
        if !s.reachable r.dev then some (s.remoteFails r)
        else
          let k := s.choice 64
          let run := runFrom r.todo a (k.1 + 1)
          let s := k.2.meterLink r run.length
          let r' := { r with started := true, todo := r.todo.filter fun b => !run.contains b }
          if kind = .put then
            match s.farReads r.team r.asid r.priv (run.map (r.local_ + ·)) with
            | none => some (s.remoteFails r)
            | some q => some ((q.2.send (.write r.dev (r.xact own a (4 * run.length) q.1))).putRead r')
          else
            some ((s.send (.read r.dev (r.xact own a (4 * run.length) []))).setRemote { r' with asked := r.asked ++ run })
      | _, _, _ => none

/-! ## What arrives (R355, R356, R366) -/

/-- A message that this device has sent to itself leaves the package fabric as it arrives (R366); any other comes from outside. -/
def State.takeMsg (s : State) (src : BitVec 10) (m : TetherMsg) : Option State :=
  match s.devid with
  | none => none
  | some d =>
    if src != d then some s
    else if s.tetherOut.contains m then some { s with tetherOut := s.tetherOut.erase m }
    else none

/-- What this device remembers of a transfer that names a window of its own. -/
def State.inbound? (s : State) (x : Xact) (write : Bool) : Inbound :=
  (s.inbound.find? fun b => b.src == x.src && b.tag == x.tag && b.write == write).getD
    { src := x.src, tag := x.tag, window := x.window, write := write, done := 0, total := x.total, due := 0, failed := false }

def State.setInbound (s : State) (b : Inbound) : State :=
  { s with inbound := (s.inbound.filter fun c => !(c.src == b.src && c.tag == b.tag && c.write == b.write)) ++ [b] }

/-- A read that has asked for all its bytes is over. -/
def State.noteRead (s : State) (b : Inbound) : State :=
  { s with inbound := (s.inbound.filter fun c => !(c.src == b.src && c.tag == b.tag && !c.write)) ++ (if b.total ≤ b.done then [] else [b]) }

def State.dropInbound (s : State) (b : Inbound) : State :=
  { s with inbound := s.inbound.filter fun c => !(c.src == b.src && c.tag == b.tag && c.write == b.write) }

/-- Words of a PUT arrive where no maintenance holds them. -/
def writeNow (x : Xact) (s : State) : Out :=
  match s.devid with
  | none => .fault .notEnabled
  | some own =>
    match s.takeMsg x.src (.write own x) with
    | none => .fault .notEnabled
    | some s =>
      let b := s.inbound? x true
      let b' := { b with done := b.done + x.len }
      if b.failed then .next (s.setInbound b')
      else
        let bad (s : State) : State :=
          (s.setInbound { b' with failed := true }).send (.readCompletion x.src { x with words := [], ok := false })
        match s.windowHere x.window.toNat with
        | none => .next (bad s)
        | some e =>
          if e.2.size < x.off + x.len then .next (bad s)
          else
            let k := x.words.length
            let r := s.farWrites 0 e.1 false (((List.range k).map fun i => e.2.base + x.off + 4 * i).zip x.words)
            .next (if r.2.1 then r.2.2.setInbound { b' with due := max b.due r.1 } else bad r.2.2)

/-- TRANSACTION_WRITE (R355, R356): words of a PUT are written into the window; a first failure is reported. -/
def execTransactionWrite (x : Xact) (s : State) : Out :=
  s.holdOr (fun s => s.windowPlaces x.window.toNat x.off x.len) (.transactionWrite x) (writeNow x s)

/-- Words of a window are asked for where no maintenance holds them. -/
def readNow (x : Xact) (s : State) : Out :=
  match s.devid with
  | none => .fault .notEnabled
  | some own =>
    match s.takeMsg x.src (.read own x) with
    | none => .fault .notEnabled
    | some s =>
      let b := s.inbound? x false
      let b' := { b with done := b.done + x.len }
      let w := s.windowHere x.window.toNat
      let bad (s : State) : State := s.send (.readCompletion x.src { x with words := [], ok := false })
      let words := match w with
        | some e =>
          if e.2.size < x.off + x.len then none
          else s.farReads 0 e.1 false ((List.range (x.len / 4)).map fun i => e.2.base + x.off + 4 * i)
        | none => none
      if b.failed then .next ((bad s).noteRead b')
      else
        match words, w with
        | some q, some e =>
          let t := q.2.send (.readCompletion x.src { x with words := q.1, ok := true })
          .next ((if b'.total ≤ b'.done then t.bumpWindow e.1 e.2 false false else t).noteRead b')
        | _, _ =>
          let t := match w with | some e => s.bumpWindow e.1 e.2 false true | none => s
          .next ((bad t).noteRead { b' with failed := true })

/-- TRANSACTION_READ (R355, R356): words of a window are read for a GET and answered; ISSUED is incremented with the last. -/
def execTransactionRead (x : Xact) (s : State) : Out :=
  s.holdOr (fun s => s.windowPlaces x.window.toNat x.off x.len) (.transactionRead x) (readNow x s)

/-- A GET's words arrive where no maintenance holds them. -/
def readBackNow (x : Xact) (s : State) : Out :=
  match s.devid, s.remote? x.tag with
  | some own, some r =>
    if x.src != own then .fault .notEnabled
    else
      let s := match s.takeMsg r.dev (.readCompletion own x) with | some s => s | none => s
      if !x.ok then .next (if r.kind = .put && !r.counted then s.remoteFails r else s.remoteEnds r)
      else
        match r.kind with
        | .get =>
          let a := x.off - r.roff
          let got := (List.range (max 1 x.words.length)).map fun i => a + 4 * i
          if !(got.all fun b => r.asked.contains b) then .fault .notEnabled
          else
            let w := s.farWrites r.team r.asid r.priv (((List.range x.words.length).map fun i => r.local_ + a + 4 * i).zip x.words)
            .next (w.2.2.setRemote
              { r with asked := r.asked.filter fun b => !got.contains b, due := max r.due w.1, failed := r.failed || !w.2.1 })
        | _ => .fault .notEnabled
  | _, _ => .fault .notEnabled

/-- The local words of a transfer, `n` bytes from an offset in it. -/
def State.localPlaces (s : State) (r : Remote) (a n : Nat) : List Nat :=
  s.placesOf r.asid (r.local_ + a) .read r.priv ++ s.placesOf r.asid (r.local_ + a + (n - 1)) .read r.priv

/-- TRANSACTION_READ_COMPLETION (R355, R356): a GET's words are written to the local buffer; a failure there counts once every read has been
performed. One that does not succeed ends its transfer, a GET or a PUT, with a notice, before or after a PUT's source counter has been
incremented. -/
def execTransactionReadCompletion (x : Xact) (s : State) : Out :=
  s.holdOr (fun s =>
      match s.remote? x.tag with
      | some r => s.localPlaces r (x.off - r.roff) x.len ++ (if x.ok then [] else s.ownCounter r.asid r.win)
      | none => []) (.transactionReadCompletion x) (readBackNow x s)

/-- A RATOM's operation at the home of its target (R364): the old value, if it can be performed. -/
def State.farAtom (s : State) (window : BitVec 12) (off : Nat) (ty : Ty) (op : AtomOp) (b cmp : DWord) : Option (DWord × State) :=
  match s.windowHere window.toNat with
  | none => none
  | some e =>
    if e.2.size < off + atomSize ty then none
    else
      let s := s.recallWalk e.1 (e.2.base + off)
      match s.xlateWalk e.1 (e.2.base + off) .both false with
      | .fault .. => none
      | .ok pa _ _ _ _ =>
        let s := s.recall (pa / 128)
        if s.poisoned (.glob pa) (atomSize ty) then none
        else
          let r := s.homeAtom pa ty op b cmp
          some (r.1, r.2.2)

/-- The operand that starts at a word of a request. -/
def operandAt (ty : Ty) (ws : List Word) (i : Nat) : DWord :=
  if ty.is64 then ws.getD (i + 1) 0 ++ ws.getD i 0 else ofW (ws.getD i 0)

/-- An atomic arrives where no maintenance holds it. -/
def atomicNow (x : Xact) (ty : Ty) (aop : AtomOp) (s : State) : Out :=
  match s.devid with
  | none => .fault .notEnabled
  | some own =>
    match s.takeMsg x.src (.atomic own x ty aop) with
    | none => .fault .notEnabled
    | some s =>
      match s.farAtom x.window x.off ty aop (operandAt ty x.words 0) (operandAt ty x.words (if ty.is64 then 2 else 1)) with
      | some r =>
        let ws := if ty.is64 then [w32 r.1, r.1.extractLsb' 32 32] else [w32 r.1]
        .next (r.2.send (.atomicCompletion x.src { x with words := ws, ok := true }))
      | none => .next (s.send (.atomicCompletion x.src { x with words := [], ok := false }))

/-- TRANSACTION_ATOMIC (R364). -/
def execTransactionAtomic (x : Xact) (ty : Ty) (aop : AtomOp) (s : State) : Out :=
  s.holdOr (fun s => s.windowPlaces x.window.toNat x.off (atomSize ty)) (.transactionAtomic x ty aop) (atomicNow x ty aop s)

/-- A RATOM receives its old value, with which it completes (R364). -/
def State.ratomDone (s : State) (r : Remote) (v : Option DWord) : State :=
  match v with
  | none => s.remoteFails r
  | some v =>
    let s := s.dropRemote r.op
    match s.op? r.op with
    | none => s
    | some o => s.landSoon o (laneVals (o.lanes.list 64) fun _ => v)

/-- TRANSACTION_ATOMIC_COMPLETION (R364). -/
def execTransactionAtomicCompletion (x : Xact) (s : State) : Out :=
  match s.devid, s.remote? x.tag with
  | some own, some r =>
    if x.src != own then .fault .notEnabled
    else
      match r.kind, r.started with
      | .ratom ty _ _ _, true =>
        let s := match s.takeMsg r.dev (.atomicCompletion own x) with | some s => s | none => s
        .next (s.ratomDone r (if x.ok then some (operandAt ty x.words 0) else none))
      | _, _ => .fault .notEnabled
  | _, _ => .fault .notEnabled

/-- A frame that arrives for this device. -/
def State.takeFrame (s : State) (f : Frame) : Option State :=
  if s.devid = some f.dst then s.takeMsg f.src (.frame f) else none

/-- An FADD arrives where no maintenance holds it. -/
def faddNow (f : Frame) (s : State) : Out :=
  match s.takeFrame f with
  | none => .fault .notEnabled
  | some s =>
    if f.kind != 5 || f.ver != 0 then .fault .notEnabled
    else
      let back (ws : List Word) : TetherMsg :=
        .frame { f with kind := 6, src := f.dst, dst := f.src, nelem := BitVec.ofNat 16 ws.length, payload := ws }
      match s.farAtom f.window f.extra.toNat .f32 .add (ofW (f.payload.headD 0)) 0 with
      | some r => .next (r.2.send (back [w32 r.1]))
      | none => .next (s.send (back []))

/-- FADD_FRAME (R364, R368): the add is performed, and FADDR answers with the old value, or with no value where it failed. -/
def execFaddFrame (f : Frame) (s : State) : Out :=
  s.holdOr (fun s => s.windowPlaces f.window.toNat f.extra.toNat 4) (.faddFrame f) (faddNow f s)

/-- FADDR (R364, R368). -/
def execFaddr (f : Frame) (s : State) : Out :=
  match s.takeFrame f with
  | none => .fault .notEnabled
  | some s =>
    if f.kind != 6 || f.ver != 0 then .fault .notEnabled
    else
      match s.remotes.find? fun r => r.op % 2 ^ 32 == f.seq.toNat && r.started && r.dev == f.src && (r.kind matches .ratom ..) with
      | none => .fault .notEnabled
      | some r => .next (s.ratomDone r (f.payload.head?.map ofW))

/-- RESERVED_FRAME_DROP (R368). -/
def execReservedFrameDrop (f : Frame) (s : State) : Out :=
  match s.takeFrame f with
  | none => .fault .notEnabled
  | some s =>
    if 1 ≤ f.kind.toNat && f.kind.toNat ≤ 6 && f.ver = 0 then .fault .notEnabled
    else .next { s with dropped := s.dropped + 1 }

/-! ## Failed links (R356) -/

/-- A transfer of this device's whose target no link reaches any more: before its source counter has been incremented it fails there; after
that, the words that are still under way are lost or arrive, and a GET's local window counts the failure. Whether a source that
cannot be reached had counted by then is a free choice (log entry 22). -/
def State.lostRemote (s : State) (r : Remote) : State :=
  let k := s.choice 2
  match r.kind with
  | .put => if !r.counted then s.remoteFails r else if k.1 = 0 then k.2 else k.2.remoteEnds r
  | .get =>
    if !r.started || !r.todo.isEmpty then s.remoteFails r
    else if r.asked.isEmpty then s
    else if k.1 = 0 then k.2.remoteEnds r
    else (k.2.bumpOwn r true true).remoteEnds r
  | .ratom .. => s.remoteFails r

/-- A transfer of a device that no link reaches any more, at this device's window: one that has not been read whole counts its failure at
ISSUED; one that has not been written whole counts it at ARRIVED, if its source had counted, which this device cannot see. -/
def State.lostInbound (s : State) (b : Inbound) : State :=
  if b.write && decide (b.total ≤ b.done) then s
  else
    let k := s.choice 2
    let t := (if b.write then k.2 else s).dropInbound b
    match t.windowHere b.window.toNat with
    | some e =>
      if b.write then (if k.1 = 0 then t else t.bumpWindow e.1 e.2 true true)
      else if b.failed then t
      else t.bumpWindow e.1 e.2 false true
    | none => t

/-! ## Arrivals (R355) -/

/-- A PUT is done at its target, and a GET at its initiator, once every word has been written and device time has reached every
completion time, and no maintenance action holds the counter (R386): ARRIVED is incremented. Where a write has failed, it is incremented with bit 63 once every read has been performed, and a
GET posts its notice (R356). -/
def State.arrivals (s : State) : State :=
  let s := s.inbound.foldl (fun (s : State) (b : Inbound) =>
    if b.write && decide (b.total ≤ b.done) && (b.failed || decide (b.due ≤ now s)) &&
        (s.maintFor (s.windowPlaces b.window.toNat 0 0)).isNone then
      let s := s.dropInbound b
      match s.windowHere b.window.toNat with | some e => s.bumpWindow e.1 e.2 true b.failed | none => s
    else s) s
  s.remotes.foldl (fun (s : State) (r : Remote) =>
    if r.kind = .get && r.started && r.todo.isEmpty && r.asked.isEmpty && (r.failed || decide (r.due ≤ now s)) &&
        (s.maintFor (s.ownCounter r.asid r.win)).isNone then
      let s := (s.dropRemote r.op).bumpOwn r true r.failed
      if r.failed then s.remoteNotice r.grp r.pc r.roff else s
    else s) s

end Sys2Proof.Machine
end

