-- ==== Sys2Proof/Machine/Collective.lean ====
section
/-! DEFINITION. Collectives (R86, R358 to R360, R363, R398 to R401): COLL, the tree of its engines, its frames, and failed links. -/

namespace Sys2Proof.Machine

/-! ## The collective group table (R358) -/

structure CollGroup where
  count : Nat
  rank : Nat
  list : Nat
  deriving DecidableEq, Repr

/-- A configured entry of a context's collective group table, or the code and the address of a failed read of it. What the device does with
an entry whose must-be-zero bits are set is not stated (R6 gives R358 no code): the bits are ignored, the model's choice (log
entry 52). -/
def State.collEntry (s : State) (asid g : Nat) : Except (BitVec 8 × Nat) (Option CollGroup) :=
  match s.context? asid with
  | none => .ok none
  | some c =>
    let a := c.cgTab + 16 * g
    match s.vread asid a 8, s.vread asid (a + 8) 8 with
    | .error e, _ => .error (e, a)
    | _, .error e => .error (e, a + 8)
    | .ok v, .ok list =>
      .ok (if v % 2 ^ 11 = 0 then none else some { count := v % 2 ^ 11, rank := v / 2 ^ 16 % 2 ^ 10, list := list })

/-- A configured group: an entry that cannot be read counts as not configured (log entry 23). -/
def State.collGroup? (s : State) (asid g : Nat) : Option CollGroup :=
  match s.collEntry asid g with | .ok k => k | .error _ => none

/-- The context in which frames for a group are matched: the lowest ASID that has it configured. -/
def State.collAsid (s : State) (g : Nat) : Option Nat :=
  s.contexts.findSome? fun (e : Nat × Context) => (s.collGroup? e.1 g).map fun _ => e.1

/-! ## Values (R86, R363, R368) -/

/-- Bytes of an element, and of a value that travels in PART and RESULT frames. -/
def collBytes : CollFmt → Nat
  | .f32 | .s32 => 4
  | .bf16 | .f16 => 2
  | .s64 => 8
def collWire : CollFmt → Nat
  | .s64 => 8
  | _ => 4

/-- An element as it travels, and a final value in the element format, rounded once with RNE. -/
def collWiden (f : CollFmt) (v : DWord) : DWord :=
  match f with
  | .bf16 => BitVec.ofNat 64 (FloatFmt.bf16.convert .f32 .rn false false v.toNat).1
  | .f16 => BitVec.ofNat 64 (FloatFmt.f16.convert .f32 .rn false false v.toNat).1
  | _ => v
def collNarrow (f : CollFmt) (v : DWord) : DWord :=
  match f with
  | .bf16 => BitVec.ofNat 64 (FloatFmt.f32.convert .bf16 .rn false false v.toNat).1
  | .f16 => BitVec.ofNat 64 (FloatFmt.f32.convert .f16 .rn false false v.toNat).1
  | _ => v

/-- One node of the tree (R86). -/
def collNode (f : CollFmt) (r : CollRed) (a b : DWord) : DWord :=
  match f, r with
  | .s32, .sum => ofW (w32 (a + b))
  | .s32, .min => (laneMin .s32 a b).1
  | .s32, .max => (laneMax .s32 a b).1
  | .s64, .sum => a + b
  | .s64, .min => (laneMin .s64 a b).1
  | .s64, .max => (laneMax .s64 a b).1
  | _, .sum => (laneFadd .rn false a b).1
  | _, .min => (laneFmin false a b).1
  | _, .max => (laneFmax false a b).1

/-! ## The tree (R86, R359) -/

/-- Nodes at a level, the level of the root, and the level at which a rank's node is a right operand. -/
def Coll.width (k : Coll) (level : Nat) : Nat := (k.count + 2 ^ level - 1) / 2 ^ level
def Coll.top (k : Coll) : Nat := ((List.range 11).find? fun l => k.width l ≤ 1).getD 11
def Coll.rise (k : Coll) : Nat := ((List.range 11).find? fun l => k.rank / 2 ^ l % 2 == 1).getD 11

/-- A partial value received for a node. -/
def Coll.part? (k : Coll) (level node elem : Nat) : Option DWord :=
  (k.parts.find? fun p => p.1 == level && p.2.1 == node && p.2.2.1 == elem).map fun p => p.2.2.2

/-- The value at a level of the node whose lowest leaf is this rank, once all of it is known. -/
def Coll.nodeValue (k : Coll) (elem : Nat) : Nat → Option DWord
  | 0 => tabGet? k.own elem
  | l + 1 =>
    match Coll.nodeValue k elem l with
    | none => none
    | some a =>
      let sibling := k.rank / 2 ^ l + 1
      if sibling < k.width l then (k.part? l sibling elem).map (collNode k.fmt k.red a) else some a

def Coll.reduces (k : Coll) : Bool := k.cop == .allreduce || k.cop == .reducescatter

/-- The elements of a rank's block. -/
def Coll.block (k : Coll) (r : Nat) : List Nat := (List.range (k.n / k.count)).map fun i => r * (k.n / k.count) + i

/-- The final value of an element on this rank, in the element format. -/
def Coll.result? (k : Coll) (elem : Nat) : Option DWord :=
  if k.reduces then
    (if k.rank = 0 then k.nodeValue elem k.top else tabGet? k.finals elem).map (collNarrow k.fmt)
  else tabGet? k.finals elem

/-- Elements that a rank reads, and writes (R359). -/
def collReads (cop : CollOp) (n count rank : Nat) : List Nat :=
  match cop with
  | .allgather => (List.range (n / count)).map fun i => rank * (n / count) + i
  | .broadcast => if rank = 0 then List.range n else []
  | _ => List.range n
def collWrites (cop : CollOp) (n count rank : Nat) : List Nat :=
  match cop with
  | .allreduce => List.range n
  | .allgather => (List.range n).filter fun e => e / (n / count) != rank
  | .reducescatter => (List.range (n / count)).map fun i => rank * (n / count) + i
  | .broadcast => if rank = 0 then [] else List.range n

/-! ## Messages (R359, R368) -/

/-- A message that a rank has to send: its kind and level, the rank it goes to, its elements and the bytes of each value. -/
structure CollMsg where
  kind : Nat
  level : Nat
  toRank : Nat
  elems : List Nat
  size : Nat
  deriving DecidableEq, Repr

/-- Runs of at most `n` elements. -/
def chunksOf (n : Nat) : Nat → List Nat → List (List Nat)
  | 0, _ => []
  | fuel + 1, es => if es.isEmpty then [] else es.take n :: chunksOf n fuel (es.drop n)

/-- Every message of a rank. -/
def Coll.messages (k : Coll) : List CollMsg :=
  let others := (List.range k.count).filter fun r => r != k.rank
  let split (kind level dst size : Nat) (es : List Nat) : List CollMsg :=
    (chunksOf (256 / size) (es.length + 1) es).map fun c => { kind := kind, level := level, toRank := dst, elems := c, size := size }
  match k.cop with
  | .allgather => others.flatMap fun r => split 3 0 r (collBytes k.fmt) (k.block k.rank)
  | .broadcast => if k.rank = 0 then others.flatMap fun r => split 3 0 r (collBytes k.fmt) (List.range k.n) else []
  | cop =>
    if k.rank != 0 then split 1 k.rise (k.rank - 2 ^ k.rise) (collWire k.fmt) (List.range k.n)
    else others.flatMap fun r => split 2 k.top r (collWire k.fmt) (if cop = .reducescatter then k.block r else List.range k.n)

/-- The value that a message carries of an element. -/
def Coll.carried (k : Coll) (m : CollMsg) (elem : Nat) : Option DWord :=
  if m.kind = 3 then tabGet? k.own elem else k.nodeValue elem m.level

/-- Whether a message has been sent; whether it can be sent. -/
def Coll.isSent (k : Coll) (m : CollMsg) : Bool := k.sent.contains (m.toRank, m.elems.headD 0)
def Coll.isReady (k : Coll) (m : CollMsg) : Bool := m.elems.all fun e => (k.carried m e).isSome

/-- Bytes as words, the last filled up with zeros. -/
def packWords (bs : List Byte) : List Word := bytesWords (bs ++ List.replicate ((4 - bs.length % 4) % 4) 0)

/-- A frame of a collective. -/
def Coll.frame (k : Coll) (src dst : BitVec 10) (kind level elem nelem : Nat) (payload : List Word) : Frame :=
  { kind := BitVec.ofNat 8 kind, ver := 0, src := src, dst := dst, window := BitVec.ofNat 12 k.window
    cgroup := BitVec.ofNat 12 k.cgroup, seq := BitVec.ofNat 32 k.seq, srank := BitVec.ofNat 10 k.rank
    count := BitVec.ofNat 11 k.count, fmt := k.fmt.code, red := k.red.code
    op := k.cop.code, level := BitVec.ofNat 8 level, elem := BitVec.ofNat 32 elem
    nelem := BitVec.ofNat 16 nelem, extra := BitVec.ofNat 64 k.n, payload := payload }

/-- Value `i` of a payload. -/
def payloadValue (ws : List Word) (size i : Nat) : DWord :=
  BitVec.ofNat 64 (joinUnits 4 (ws.map (·.toNat)) / 2 ^ (8 * size * i) % 2 ^ (8 * size))

/-! ## The engines -/

def State.coll? (s : State) (uid : Nat) : Option Coll := s.colls.find? fun k => k.uid == uid
def State.setColl (s : State) (k : Coll) : State := { s with colls := s.colls.map fun c => if c.uid == k.uid then k else c }

/-- The device of a rank (R358), where the list can be read. -/
def State.rankDev (s : State) (k : Coll) (r : Nat) : Option (BitVec 10) :=
  match s.vread k.asid (k.list + 2 * r) 2 with
  | .ok v => some (BitVec.ofNat 10 v)
  | .error _ => none

/-- Whether a frame belongs to a collective (R398). -/
def Coll.matches (k : Coll) (f : Frame) : Bool :=
  f.cgroup.toNat == k.cgroup && f.seq == BitVec.ofNat 32 k.seq

/-- Where a frame is held whose group no context had configured when it came. -/
def heldNowhere : Nat := 2 ^ 14

/-- Whether a held frame is held for a collective: in its context, or nowhere, where its context is the one in which the group's frames are
matched (R358). -/
def State.awaits (s : State) (k : Coll) (e : Nat × Frame) : Bool :=
  (e.1 == k.asid || (e.1 == heldNowhere && s.collAsid k.cgroup == some k.asid)) && k.matches e.2

/-- Whether a held frame is held in a context: for it, or nowhere, where it is the one in which the group's frames are matched now. -/
def State.heldIn (s : State) (asid : Nat) (e : Nat × Frame) : Bool :=
  e.1 == asid || (e.1 == heldNowhere && s.collAsid e.2.cgroup.toNat == some asid)

/-- The collective aborts on this member (R360, R398): bit 31 and one more in its counter, a notice, no frame held for it any more; with
`tell`, the other members that can be reached learn of it. -/
def State.abortColl (s : State) (k : Coll) (tell : Bool) : State :=
  let held := s.held.filter fun e => !s.awaits k e
  let s :=
    match s.bump k.team k.asid k.counter 4 true k.priv with
    | .ok s => s
    | .error c => s.postNotice k.grp ⟨c, 5, BitVec.ofNat 64 k.counter, 0⟩ k.pc
  let s := { s.setColl { k with isOver := true } with held := held }
  let s := s.remoteNotice k.grp k.pc 0
  match s.devid, tell with
  | some own, true =>
    ((List.range k.count).filter fun r => r != k.rank).foldl (fun (s : State) r =>
      match s.rankDev k r with
      | some d => if s.reachable d then s.send (.frame (k.frame own d 4 0 0 0 [])) else s
      | none => s) s
  | _, _ => s

/-- The messages whose values are known are sent; the first that has no route aborts the collective. -/
def State.sendAll (s : State) (k : Coll) (own : BitVec 10) : List CollMsg → State
  | [] => s.setColl k
  | m :: ms =>
    if k.isSent m || !k.isReady m then State.sendAll s k own ms
    else
      match s.rankDev k m.toRank with
      | none => s.abortColl k true
      | some d =>
        if !s.reachable d then s.abortColl k true
        else
          let bytes := m.elems.flatMap fun e => leBytes ((k.carried m e).getD 0).toNat m.size
          let f := k.frame own d m.kind m.level (m.elems.headD 0) m.elems.length (packWords bytes)
          State.sendAll ((s.meter (baseDie k.core) k.team .link m.elems.length).send (.frame f)) { k with sent := k.sent ++ [(m.toRank, m.elems.headD 0)] } own ms

/-- The engines go on as far as what they know allows. -/
def State.advance (s : State) (uid : Nat) : State :=
  match s.coll? uid, s.devid with
  | some k, some own => if k.isOver then s else s.sendAll k own k.messages
  | _, _ => s

/-- The elements that share an aligned word with one, or the element itself where it is larger: they are read, or written, together. -/
def Coll.together (k : Coll) (es : List Nat) (e : Nat) : List Nat :=
  es.filter fun x => x * collBytes k.fmt / 4 == e * collBytes k.fmt / 4

/-- Reads some elements of the window, each exactly once (R399). -/
def State.collRead (s : State) (k : Coll) : List Nat → Option (Coll × State)
  | [] => some (k, s)
  | e :: es =>
    match s.farRead k.team k.asid (k.base + e * collBytes k.fmt) (collBytes k.fmt) k.priv with
    | none => none
    | some r =>
      let v := if k.reduces then collWiden k.fmt r.1 else r.1
      State.collRead r.2 { k with own := tabSet k.own e v, toRead := k.toRead.filter (· != e) } es

/-- Writes the results of some elements. -/
def State.collWrite (s : State) (k : Coll) : List Nat → Option (Coll × State)
  | [] => some (k, s)
  | e :: es =>
    match s.farWrite k.team k.asid (k.base + e * collBytes k.fmt) (collBytes k.fmt) ((k.result? e).getD 0).toNat k.priv with
    | none => none
    | some r => State.collWrite r.2 { k with due := max k.due r.1, toWrite := k.toWrite.filter (· != e) } es

/-- The ranks to which a rank's engines send the values that they read (R359). -/
def Coll.sendsTo (k : Coll) : List Nat :=
  let others := (List.range k.count).filter fun r => r != k.rank
  match k.cop with
  | .allgather => others
  | .broadcast => if k.rank = 0 then others else []
  | _ => if k.rank = 0 then others else [k.rank - 2 ^ k.rise]

/-- Whether the engines lack a route that they need (R360). -/
def State.lacksRoute (s : State) (k : Coll) : Bool :=
  k.sendsTo.any fun r => match s.rankDev k r with | some d => !s.reachable d | none => true

/-- Whether this member's window is still VALID (R360). -/
def State.collValid (s : State) (k : Coll) : Bool := (s.window? k.asid k.window).isSome

/-- A step of a collective's engines: a word of the window is read, where the routes for what is read are there (R360), or, once it has been
read and its results are known, written. A window that is no longer VALID aborts the collective. -/
def State.collStep (s : State) (k : Coll) (unit : Nat) : Option State :=
  if k.isOver || k.toRead.length + k.toWrite.length ≤ unit then none
  else if !s.collValid k then some (s.abortColl k true)
  else
    match k.toRead[unit]? with
    | some e =>
      if s.lacksRoute k then some (s.abortColl k true)
      else
        match s.collRead k (k.together k.toRead e) with
        | some r => some ((r.2.setColl r.1).advance k.uid)
        | none => some (s.abortColl k true)
    | none =>
      match k.toWrite[unit - k.toRead.length]? with
      | none => none
      | some e =>
        let es := k.together k.toWrite e
        if !(es.all fun x => (k.result? x).isSome) || !(k.together k.toRead e).isEmpty then none
        else
          match s.collWrite k es with
          | some r => some (r.2.setColl r.1)
          | none => some (s.abortColl k true)

/-- Results done on this rank: the counter is incremented (R359, R400), where no maintenance action holds it (R386); the collective is over once its messages have gone too. -/
def State.collOver (s : State) (k : Coll) : State :=
  if k.isOver then s
  else if !k.counted && k.toRead.isEmpty && k.toWrite.isEmpty && decide (k.due ≤ now s) then
    if (s.maintFor (s.placesOf k.asid k.counter .both k.priv)).isSome then s else
    match s.bump k.team k.asid k.counter 4 false k.priv with
    | .ok t => t.setColl { k with counted := true, isOver := k.messages.all k.isSent }
    | .error _ => s.abortColl k true
  else if k.counted && k.messages.all k.isSent then s.setColl { k with isOver := true }
  else s

def State.collsOver (s : State) : State := s.colls.foldl (fun s k => s.collOver k) s

/-! ## Frames (R360, R368, R398) -/

/-- Whether a frame's collective is the same as this rank's. -/
def Coll.agrees (k : Coll) (f : Frame) : Bool :=
  f.op == k.cop.code && f.fmt == k.fmt.code && f.red == k.red.code && f.extra.toNat == k.n &&
    f.count.toNat == k.count

/-- Whether the receiver expects a frame of this kind from its sender's rank, for these elements (R360). -/
def Coll.expects (k : Coll) (f : Frame) : Bool :=
  let r := f.srank.toNat
  let lo := f.elem.toNat
  let hi := lo + f.nelem.toNat
  match f.kind.toNat with
  | 1 =>
    let l := f.level.toNat
    k.reduces && decide (l < k.top) && k.rank % 2 ^ (l + 1) == 0 && r == k.rank + 2 ^ l && decide (r < k.count) && decide (hi ≤ k.n)
  | 2 =>
    k.reduces && k.rank != 0 && r == 0 && f.level.toNat == k.top && decide (hi ≤ k.n)
  | 3 =>
    decide (hi ≤ k.n) && r != k.rank &&
      (match k.cop with
       | .allgather =>
         decide (r < k.count) && decide (r * (k.n / k.count) ≤ lo) && decide (hi ≤ (r + 1) * (k.n / k.count))
       | .broadcast => r == 0
       | _ => false)
  | _ => false

/-- What a frame's values add to a rank's knowledge; a value that is known stays. -/
def Coll.learn (k : Coll) (f : Frame) : Coll :=
  let size := if f.kind = 3 then collBytes k.fmt else collWire k.fmt
  (List.range f.nelem.toNat).foldl (fun (k : Coll) i =>
    let e := f.elem.toNat + i
    let v := payloadValue f.payload size i
    if f.kind = 1 then
      let l := f.level.toNat
      let node := f.srank.toNat / 2 ^ l
      if (k.part? l node e).isSome then k else { k with parts := (l, node, e, v) :: k.parts }
    else if (tabGet? k.finals e).isSome then k
    else { k with finals := tabSet k.finals e v }) k

/-- A collective acts on a frame. -/
def State.collFrame (s : State) (k : Coll) (f : Frame) : State :=
  if k.isOver then s
  else if f.kind = 4 then s.abortColl k false
  else if !s.collValid k || !k.agrees f || !k.expects f || s.rankDev k f.srank.toNat != some f.src then s.abortColl k true
  else (s.setColl (k.learn f)).advance k.uid

/-- A frame arrives: it acts on its collective, is held until that issues, or, where that has ended, is discarded (R398). -/
def State.frameIn (s : State) (f : Frame) : State :=
  match s.collAsid f.cgroup.toNat with
  | none => { s with held := s.held ++ [(heldNowhere, f)] }
  | some asid =>
    match s.colls.find? fun k => k.asid == asid && !k.isOver && k.matches f with
    | some k => s.collFrame k f
    | none =>
      let next := tabGetD s.collSeq (asid * 4096 + f.cgroup.toNat) 0
      if next != 0 && (BitVec.ofNat 32 (next - 1) - f.seq).toNat < 2 ^ 31 then s else { s with held := s.held ++ [(asid, f)] }

/-- An event whose frame has the kind that it names. -/
def frameEvent (kind : Nat) (f : Frame) (s : State) : Out :=
  match s.takeFrame f with
  | none => .fault .notEnabled
  | some s => if f.kind.toNat = kind && f.ver = 0 then .next (s.frameIn f) else .fault .notEnabled

/-- PART, RESULT, BLOCK and ABORT frames (R368). -/
def execPart (f : Frame) (s : State) : Out := frameEvent 1 f s
def execResult (f : Frame) (s : State) : Out := frameEvent 2 f s
def execBlock (f : Frame) (s : State) : Out := frameEvent 3 f s
def execAbort (f : Frame) (s : State) : Out := frameEvent 4 f s

/-! ## COLL (R361, R363) -/

/-- COLL's collective as it forks: the next in its group's sequence. -/
def State.newColl (s : State) (x : Issue) (cop : CollOp) (fmt : CollFmt) (red : CollRed) (win cg counter : Nat) (w : Window)
    (g : CollGroup) : Coll :=
  let asid := s.asidOf x.g
  let n := w.size / collBytes fmt
  { uid := s.nextId, grp := x.g.uid, team := x.g.team, asid := asid, core := x.g.core, pc := x.pc, priv := x.inHandler, cgroup := cg
    seq := tabGetD s.collSeq (asid * 4096 + cg) 0, cop := cop, fmt := fmt, red := red, window := win, base := w.base
    counter := counter, list := g.list, n := n, count := g.count, rank := g.rank, toRead := collReads cop n g.count g.rank
    toWrite := collWrites cop n g.count g.rank, own := [], parts := [], finals := [], sent := [], due := 0, counted := false
    isOver := false }

/-- The frames held for a collective are acted on once it has issued (R398). -/
def State.releaseHeld (s : State) (k : Coll) : State :=
  if s.collAsid k.cgroup != some k.asid then s
  else
    let mine := s.held.filter (s.awaits k)
    let s := { s with held := s.held.filter fun e => !s.awaits k e }
    mine.foldl (fun (s : State) e => match s.coll? k.uid with | some k => s.collFrame k e.2 | none => s) s

/-- COLL (R361, R363). -/
def execColl (c : Ctl) (cop : CollOp) (cfmt : CollFmt) (cred : CollRed) (a b : Opnd) (s : State) : Out :=
  issue (.coll c cop cfmt cred a b) s fun x s =>
    if x.lanes = 0 then .ok (s.finish x)
    else
      let counter := (s.srcLow x 0).toNat
      let v := w32 (s.srcLow x 1)
      let win := v.toNat % 2 ^ 12
      let cg := v.toNat / 2 ^ 16 % 2 ^ 12
      let asid := s.asidOf x.g
      if (v &&& 0xF000F000) != 0 then .error (x.trap tcOperand)
      else
        match s.window? asid win, s.collGroup? asid cg with
        | some w, some g =>
          if s.devid.isNone || g.count ≤ g.rank then .error (x.remoteTrap tcRemote 0)
          else if w.size % collBytes cfmt != 0 ||
              ((cop == .allgather || cop == .reducescatter) && w.size / collBytes cfmt % g.count != 0) then
            .error (x.trap tcOperand)
          else if counter % 4 != 0 then .error (x.remoteTrap tcAlign counter)
          else if 2 ^ 56 ≤ counter then .error (x.remoteTrap tcAddress counter)
          else
            let s := (s.touchIn asid fun c => c.winTab + 64 * win).touchIn asid fun c => c.cgTab + 16 * cg
            let k := s.newColl x cop cfmt cred win cg counter w g
            let t := s.start x fun o => { o with job := .answer }
            let t := { t with colls := t.colls ++ [k], collSeq := tabSet t.collSeq (asid * 4096 + cg) (k.seq + 1) }
            .ok ((t.releaseHeld k).advance k.uid)
        | _, _ =>
          let first := tableRec (s.windowEntry asid win)
          .error { x.remoteTrap tcRemote 0 with notice := if first.isSome then first else tableRec (s.collEntry asid cg) }

/-! ## Failed links (R356, R360) -/

/-- The ranks with which a rank's engines exchange frames. -/
def Coll.peers (k : Coll) : List Nat :=
  let all := (List.range k.count).filter fun r => r != k.rank
  match k.cop with
  | .allgather => all
  | .broadcast => if k.rank = 0 then all else [0]
  | _ =>
    if k.rank = 0 then all
    else 0 :: (k.rank - 2 ^ k.rise) :: (((List.range k.rise).map fun l => k.rank + 2 ^ l).filter fun r => decide (r < k.count))

/-- LINK_FAILURE (R356, R360): the port is used no longer, and the transfers, here and of this device's windows, and the collectives that
have no other route fail. -/
def execLinkFailure (port : Nat) (s : State) : Out :=
  if 24 ≤ port then .fault .notEnabled
  else
    let s := { s with deadLinks := cellSet s.deadLinks 0 (cellGet s.deadLinks 0 ||| ((1#24) <<< port)) }
    let s := s.remotes.foldl (fun (s : State) (r : Remote) => if s.reachable r.dev then s else s.lostRemote r) s
    let s := s.inbound.foldl (fun (s : State) (b : Inbound) => if s.reachable b.src then s else s.lostInbound b) s
    .next (s.colls.foldl (fun (s : State) (k : Coll) =>
      if !k.isOver && k.peers.any fun r => (match s.rankDev k r with | some d => !s.reachable d | none => false) then s.abortColl k true
      else s) s)

end Sys2Proof.Machine
end

