-- ==== Sys2Proof/Machine/Control.lean ====
section
/-! DEFINITION. The control instructions (R102 to R106, R113, R132 to R134, R144 to R151, R402), in the full and the compact forms. -/

namespace Sys2Proof.Machine

/-- NOP (R103, R230): it completes at issue. -/
def execNop (c : Ctl) (s : State) : Out :=
  match s.cur with
  | .reel _ _ => .next s
  | _ => issue (.nop c) s fun x s => .ok (s.finish x)

/-- WAITF (R104): its wait is its condition to issue. -/
def execWaitf (c : Ctl) (s : State) : Out :=
  issue (.waitf c) s fun x s => .ok (s.finish x)

/-- SLEEP (R105): the group issues nothing until the wake time, unless a request for it is pending. -/
def execSleep (c : Ctl) (a : Opnd) (s : State) : Out :=
  issue (.sleep c a) s fun x s =>
    let n := x.list.foldl (fun m l => max m (w32 (s.src x 0 l)).toInt) 0
    if n ≤ 0 || x.g.request.isSome then .ok (s.finish x)
    else
      let wake := now s + n.toNat
      let op := s.nextId
      .ok ((s.start x fun o => { o with job := .sleep wake }).modGroup x.g.uid fun g => { g with hold := .sleep op wake })

/-- YIELD (R106): R101 takes effect at its issue, whatever its own Y field holds. -/
def execYield (c : Ctl) (s : State) : Out :=
  issue (.yield c) s fun x s => .ok (s.finish x)

/-- NREL (R113, R132): the slot is released whatever the guard. -/
def execNrel (c : Ctl) (d : Opnd) (s : State) : Out :=
  issue (.nrel c d) s fun x s =>
    .ok ((s.finish x).modGroup x.g.uid fun g => g.setBk { g.bk with nst := cellSet g.bk.nst d.nSlot 0 })

/-- STRAND (R133): its checks, then a pending request takes the group out without an issue (R124), else the strand is recorded. -/
def execStrand (c : Ctl) (entry : BitVec 16) (s : State) : Out :=
  issue (.strand c entry) s fun x t =>
    match t.strandEntry x entry.toNat with
    | .error e => .error e
    | .ok e =>
      if x.g.request.isSome then .ok (s.modGroup x.g.uid fun g => { g with leaving := true })
      else .ok (((t.touchEntry x entry.toNat).finish x).modGroup x.g.uid fun g => g.recordStrand e entry.toNat x.pc)

/-- PARK (R134): the group leaves its slot, and the following STRAND is ready at once. -/
def execPark (c : Ctl) (s : State) : Out :=
  issue (.park c) s fun x s =>
    .ok ((s.finish x).leaveAtTerminator x.g.uid (.ready (s.clkOf x.g.core)))

/-- BRA (R145). -/
def execBra (c : Ctl) (target : BitVec 24) (s : State) : Out :=
  issue (.bra c target) s fun x s =>
    let t : DWord := x.pc + ((target.signExtend 64) <<< 2)
    match x.uniformGuard with
    | none => .error (x.trap tcConvergence)
    | some false => .ok (s.finish x)
    | some true =>
      match targetTrap x.list fun _ => t with
      | some e => .error e
      | none => .ok ((s.finish x).branchTo x t)

/-- BRC (R146): lanes whose guard holds take the target, the others fall through; both ways make a division. -/
def execBrc (c : Ctl) (hint : Hint) (target : BitVec 24) (join : BitVec 20) (s : State) : Out :=
  issue (.brc c hint target join) s fun x s =>
    let t : DWord := x.pc + ((target.signExtend 64) <<< 2)
    let j : DWord := x.pc + ((join.signExtend 64) <<< 2)
    let rest := x.sp.lanes &&& ~~~x.lanes
    if x.lanes = 0 then .ok (s.finish x)
    else if rest != 0 && decide (8 ≤ x.g.bk.splits.length) then .error (x.trap tcConvergence)
    else
      match targetTrap x.list fun _ => t with
      | some e => .error e
      | none =>
        if rest = 0 then .ok ((s.finish x).branchTo x t)
        else
          let kept := if hint = .likely then x.lanes else rest
          .ok ((s.finish x).modGroup x.g.uid fun g =>
            match g.bk.split? x.sp.id with
            | some sp =>
              g.divide sp [{ lanes := x.lanes, pc := t }, { lanes := rest, pc := x.nextPc }] j ((kept.list 64).headD 0) (s.clkOf x.g.core)
                x.nextPc
            | none => g)

/-- BRX (R147): per-lane targets, with the join address of the lowest lane whose guard holds. -/
def execBrx (c : Ctl) (hint : Hint) (a b : Opnd) (s : State) : Out :=
  issue (.brx c hint a b) s fun x s =>
    let dest (l : Nat) : DWord := if x.lanes.has l then s.src x 0 l else x.nextPc
    let j := s.srcLow x 1
    if x.list.any fun l => s.src x 1 l != j then .error (x.trap tcConvergence)
    else if fanBad x dest j then .error (x.trap tcConvergence)
    else
      match targetTrap x.list dest with
      | some e => .error e
      | none =>
        let lowAct := (x.low?).getD (x.splitList.headD 0)
        .ok (s.fan x dest j (if hint = .likely then lowAct else x.splitList.headD 0))

/-- CALL (R148). -/
def execCall (c : Ctl) (target : BitVec 24) (s : State) : Out :=
  issue (.call c target) s fun x s =>
    let t : DWord := x.pc + ((target.signExtend 64) <<< 2)
    match x.uniformGuard with
    | none => .error (x.trap tcConvergence)
    | some false => .ok (s.finish x)
    | some true =>
      match targetTrap x.list fun _ => t with
      | some e => .error e
      | none =>
        match s.pushBad x with
        | l :: r => .error (laneTrap tcAddress (l :: r) fun _ => t)
        | [] => .ok (((s.finish x).pushAll x.g.uid x.nextPc x.list).branchTo x t)

/-- CALLX (R148): BRX with the join address set to the next instruction, where lanes whose guard holds push it. -/
def execCallx (c : Ctl) (a : Opnd) (s : State) : Out :=
  issue (.callx c a) s fun x s =>
    let dest (l : Nat) : DWord := if x.lanes.has l then s.src x 0 l else x.nextPc
    if fanBad x dest x.nextPc then .error (x.trap tcConvergence)
    else
      match targetTrap x.list dest with
      | some e => .error e
      | none =>
        match s.pushBad x with
        | l :: r => .error (laneTrap tcAddress (l :: r) dest)
        | [] => .ok ((s.fan x dest x.nextPc (x.splitList.headD 0)).pushAll x.g.uid x.nextPc x.list)

/-- RET (R143, R149). -/
def execRet (c : Ctl) (s : State) : Out :=
  issue (.ret c) s fun x s =>
    match x.uniformGuard with
    | none => .error (x.trap tcConvergence)
    | some false => .ok (s.finish x)
    | some true =>
      match x.list.filter fun l => x.g.callDepth l == 0 with
      | l :: r => .error (laneTrap tcAddress (l :: r) fun _ => 0)
      | [] =>
        match x.list.filter fun l => x.g.strand.entry.replay && decide (x.g.callDepth l ≤ (cellGet x.g.strand.depths l).toNat) with
        | l :: r => .error (laneTrap tcStrand (l :: r) (s.popValue x))
        | [] =>
          let t := match x.low? with | some l => s.popValue x l | none => 0
          match s.popTrap x with
          | some e => .error e
          | none =>
          if x.list.any fun l => s.popValue x l != t then .error (x.trap tcConvergence)
          else
            match targetTrap x.list fun _ => t with
            | some e => .error e
            | none =>
              .ok (((s.finish x).modGroup x.g.uid fun g =>
                { g with
                  depth := x.list.foldl (fun d l => cellSet d l (cellGet d l - 1)) g.depth
                  pushed := x.list.foldl (fun m l => cellSet m (l * 256 + g.callDepth l - 1) 0) g.pushed }).branchTo x t)

/-- JOIN (R137, R150): it acts on the split whatever the guard. -/
def execJoin (c : Ctl) (s : State) : Out :=
  issue (.join c) s fun x s =>
    .ok ((s.finish x).modGroup x.g.uid fun g =>
      match g.bk.split? x.sp.id with
      | some sp => g.arrive sp x.pc x.nextPc (s.clkOf g.core)
      | none => g)

/-- EXIT (R151): the active lanes end, and the group with its last one. -/
def execExit (c : Ctl) (s : State) : Out :=
  issue (.exit c) s fun x s =>
    let t := ((s.finish x).modTeam x.g.team fun t => retireAll t x.g.idx).modGroup x.g.uid fun g => g.endLanes x.lanes (s.clkOf g.core)
    match t.group? x.g.uid with
    | none => .ok t
    | some g => .ok (if g.alive = 0 then t.endGroup g false else t)

/-- The compact form `NOP` (R52). NOP (R103, R230): it completes at issue. -/
def execNopCompact (c : CCtl) (s : State) : Out :=
  match s.cur with
  | .reel _ _ => .next s
  | _ => issue (.nop c.full) s fun x s => .ok (s.finish x)

/-- The compact form `NREL` (R52). NREL (R113, R132): the slot is released whatever the guard. -/
def execNrelCompact (c : CCtl) (d : COpnd) (s : State) : Out :=
  issue (.nrel c.full d.full) s fun x s =>
    .ok ((s.finish x).modGroup x.g.uid fun g => g.setBk { g.bk with nst := cellSet g.bk.nst d.full.nSlot 0 })

/-- The compact form `STRAND` (R52). STRAND (R133): its checks, then a pending request takes the group out without an issue (R124), else the strand is recorded. -/
def execStrandCompact (c : CCtl) (s : State) : Out :=
  issue (.strand c.full 0) s fun x t =>
    match t.strandEntry x (0 : BitVec 16).toNat with
    | .error e => .error e
    | .ok e =>
      if x.g.request.isSome then .ok (s.modGroup x.g.uid fun g => { g with leaving := true })
      else .ok (((t.touchEntry x (0 : BitVec 16).toNat).finish x).modGroup x.g.uid fun g => g.recordStrand e (0 : BitVec 16).toNat x.pc)

/-- The compact form `PARK` (R52). PARK (R134): the group leaves its slot, and the following STRAND is ready at once. -/
def execParkCompact (c : CCtl) (s : State) : Out :=
  issue (.park c.full) s fun x s =>
    .ok ((s.finish x).leaveAtTerminator x.g.uid (.ready (s.clkOf x.g.core)))

/-- The compact form `EXIT` (R52). EXIT (R151): the active lanes end, and the group with its last one. -/
def execExitCompact (c : CCtl) (s : State) : Out :=
  issue (.exit c.full) s fun x s =>
    let t := ((s.finish x).modTeam x.g.team fun t => retireAll t x.g.idx).modGroup x.g.uid fun g => g.endLanes x.lanes (s.clkOf g.core)
    match t.group? x.g.uid with
    | none => .ok t
    | some g => .ok (if g.alive = 0 then t.endGroup g false else t)

/-- The compact form `RET` (R52). RET (R143, R149). -/
def execRetCompact (c : CCtl) (s : State) : Out :=
  issue (.ret c.full) s fun x s =>
    match x.uniformGuard with
    | none => .error (x.trap tcConvergence)
    | some false => .ok (s.finish x)
    | some true =>
      match x.list.filter fun l => x.g.callDepth l == 0 with
      | l :: r => .error (laneTrap tcAddress (l :: r) fun _ => 0)
      | [] =>
        match x.list.filter fun l => x.g.strand.entry.replay && decide (x.g.callDepth l ≤ (cellGet x.g.strand.depths l).toNat) with
        | l :: r => .error (laneTrap tcStrand (l :: r) (s.popValue x))
        | [] =>
          let t := match x.low? with | some l => s.popValue x l | none => 0
          match s.popTrap x with
          | some e => .error e
          | none =>
          if x.list.any fun l => s.popValue x l != t then .error (x.trap tcConvergence)
          else
            match targetTrap x.list fun _ => t with
            | some e => .error e
            | none =>
              .ok (((s.finish x).modGroup x.g.uid fun g =>
                { g with
                  depth := x.list.foldl (fun d l => cellSet d l (cellGet d l - 1)) g.depth
                  pushed := x.list.foldl (fun m l => cellSet m (l * 256 + g.callDepth l - 1) 0) g.pushed }).branchTo x t)

/-- The compact form `JOIN` (R52). JOIN (R137, R150): it acts on the split whatever the guard. -/
def execJoinCompact (c : CCtl) (s : State) : Out :=
  issue (.join c.full) s fun x s =>
    .ok ((s.finish x).modGroup x.g.uid fun g =>
      match g.bk.split? x.sp.id with
      | some sp => g.arrive sp x.pc x.nextPc (s.clkOf g.core)
      | none => g)

/-- The compact form `YIELD` (R52). YIELD (R106): R101 takes effect at its issue, whatever its own Y field holds. -/
def execYieldCompact (c : CCtl) (s : State) : Out :=
  issue (.yield c.full) s fun x s => .ok (s.finish x)

end Sys2Proof.Machine
end

