-- ==== Sys2Proof/Machine/HostLink.lean ====
section
/-! DEFINITION. The host link (R369 to R371): host windows, the management window's contents, and the host's WRITE and READ messages. -/

namespace Sys2Proof.Machine

/-! ## The capability list (R25, R26, R404) -/

/-- The list's 34 words: the header, then the six entries in ascending TYPE. -/
def State.capWords (s : State) : List Word :=
  let entry (ty len next : Nat) (body : List Word) : List Word :=
    [BitVec.ofNat 32 (ty + 2 ^ 16 + len * 2 ^ 24), BitVec.ofNat 32 next] ++ body
  let cores := (List.range 256).countP fun n => s.coreMask.getLsbD n
  [0x43415031, 0x00060001, 0x00000010, 136] ++
    entry 1 2 32 [s.grade.setWidth 32 ||| BitVec.ofNat 32 (8 * 2 ^ 8 + cores * 2 ^ 16), 3300] ++
    entry 2 5 72 (words32 s.coreMask 8) ++
    entry 3 2 88 [BitVec.ofNat 32 (96 + 2 * 2 ^ 16 + 8 * 2 ^ 24), 0] ++
    entry 4 2 104 [BitVec.ofNat 32 (24 + 4 * 2 ^ 8 + 1024 * 2 ^ 16), Config.enabledPorts.setWidth 32] ++
    entry 5 2 120 [0x1F, 0] ++
    entry 6 2 0 [BitVec.ofNat 32 (16384 + 4096 * 2 ^ 16), 4500]

/-! ## The management window (R350, R370, R373) -/

/-- What a word of window 0 belongs to. -/
inductive HostPlace where
  | caps (word : Nat)
  | lanternRequest (stack word : Nat) | lanternReply (stack word : Nat)
  | fwRequest (word : Nat) | fwReply (word : Nat) | fwEvent (word : Nat)
  | descriptor (word : Nat)
  | doorbell (asid off : Nat)
  deriving DecidableEq, Repr

/-- The contents of an offset, a multiple of 4, in window 0. -/
def hostPlace (off : Nat) : Option HostPlace :=
  let word := off % 64 / 4
  if off % 4 != 0 then none
  else if off < 136 then some (.caps (off / 4))
  else if 0x100000 ≤ off && off < 0x100800 then
    let stack := (off - 0x100000) / 256
    match off % 256 / 64 with
    | 0 => some (.lanternRequest stack word)
    | 1 => some (.lanternReply stack word)
    | _ => none
  else if 0x110000 ≤ off && off < 0x1100C0 then
    match (off - 0x110000) / 64 with
    | 0 => some (.fwRequest word)
    | 1 => some (.fwReply word)
    | _ => some (.fwEvent word)
  else if 0x200010 ≤ off && off < 0x200400 then some (.descriptor ((off - 0x200000) / 4))
  else if 0x4000000 ≤ off && off < 0x4000000 + 0x1000 * 16384 then
    let reg := off % 0x1000
    if reg = 0 || reg = 4 || reg = 8 then some (.doorbell ((off - 0x4000000) / 0x1000) reg) else none
  else none

/-- A doorbell register's value (R295). -/
def Context.doorbell (c : Context) (off : Nat) : Word :=
  match off with
  | 0 => c.sqTail
  | 4 => c.sqHead
  | _ => BitVec.ofNat 32 (c.sqOver.toNat + 2 * c.sqStop.toNat)

/-- The bits of a firmware message's word that are not reserved (R374). -/
def fwMask (word : Nat) : Word := match word with | 0 => 0x80FFFFFF | 1 => 0x00003FFF | _ => 0xFFFFFFFF

/-- What a READ finds at a place; nothing at the doorbell page of an ASID that names no context. DESIGN CHOICE (log entry 60): the bits
[127:113] of a window descriptor, which R370 reserves and lets be set, read back as they were written. -/
def State.hostGet (s : State) (p : HostPlace) : Option Word :=
  match p with
  | .caps k => s.capWords[k]?
  | .lanternRequest st k => some (cellGet (s.lanternAt st).request k)
  | .lanternReply st k => some (cellGet (s.lanternAt st).reply k)
  | .fwRequest k => some (cellGet s.fwRequest k &&& fwMask k)
  | .fwReply k => some (cellGet s.fwReply k)
  | .fwEvent k => some (cellGet s.fwEvent k)
  | .descriptor k => some (cellGet s.hostWins k)
  | .doorbell a off => (s.context? a).map fun c => c.doorbell off

/-- Whether the other side owns a message slot. -/
def slotOwned (m : Cells 32) : Bool := (cellGet m 0).getLsbD 31

/-- The bits of a Lantern message's word that are not reserved (R350). -/
def lanternMask (word : Nat) : Word := match word with | 0 => 0x80FFFFFF | 1 => 0x007FFFFF | _ => 0xFFFFFFFF

/-- Whether a maintenance action holds a WRITE of the host's (R386). -/
def State.hostHeld (s : State) : Bool := s.maint.any fun m => m.arrived.any fun i => match i with | .hostWrite .. => true | _ => false

/-- A WRITE of one word to a place, none where it is read-only or names nothing; `old` is the device before the message, whose OWN bits
decide whether a request is lost (R350, R373). -/
def State.hostPut (s old : State) (p : HostPlace) (v : Word) : Option State :=
  match p with
  | .caps _ => none
  | .lanternRequest st k =>
    let l := s.lanternAt st
    if slotOwned (old.lanternAt st).request then some s
    else some (s.setLantern st { l with request := cellSet l.request k (v &&& lanternMask k) })
  | .lanternReply st k =>
    let l := s.lanternAt st
    some (s.setLantern st { l with reply := cellSet l.reply k (v &&& lanternMask k) })
  | .fwRequest k => if slotOwned old.fwRequest then some s else some { s with fwRequest := cellSet s.fwRequest k v }
  | .fwReply k => some { s with fwReply := cellSet s.fwReply k (v &&& fwMask k) }
  | .fwEvent k => some { s with fwEvent := cellSet s.fwEvent k (v &&& fwMask k) }
  | .descriptor k => some { s with hostWins := cellSet s.hostWins k v }
  | .doorbell a off =>
    if off = 4 || (s.context? a).isNone then none
    else some { s with doorbells := s.doorbells ++ [(a, off, v, if s.hostHeld then none else some s.hostHorizon)] }

/-- A WRITE of consecutive words, whole or not at all. -/
def State.hostPuts (s old : State) (off : Nat) : List Word → Option State
  | [] => some s
  | w :: ws =>
    match hostPlace off with
    | none => none
    | some p =>
      match s.hostPut old p w with
      | none => none
      | some s => State.hostPuts s old (off + 4) ws

def State.hostGets (s : State) (off : Nat) : Nat → Option (List Word)
  | 0 => some []
  | n + 1 =>
    match (hostPlace off).bind s.hostGet, State.hostGets s (off + 4) n with
    | some w, some ws => some (w :: ws)
    | _, _ => none

/-- Whether a message may be made of window 0 at an offset, as far as that shows without its words: a message without words too must name a
place that can be read, or written. -/
def State.hostNamed (s : State) (off : Nat) (write : Bool) : Bool :=
  (hostPlace off).any fun p => if write then (s.hostPut s p 0).isSome else (s.hostGet p).isSome

/-! ## Windows 1 to 63 (R370) -/

/-- A word of a window's descriptor. -/
def State.hostWin (s : State) (win i : Nat) : Nat := (cellGet s.hostWins (win * 4 + i)).toNat

/-- Whether a window's descriptor allows a message, of no words too: it is well-formed, its context lives, and the whole message lies in the
window. -/
def State.windowOpen (s : State) (win off len : Nat) (write : Bool) : Bool :=
  let w := s.hostWin win
  w 3 / 2 ^ 17 == 0 && w 0 % 4096 == 0 && (!(w 3).testBit 14 || (s.context? (w 3 % 2 ^ 14)).isSome) &&
    (w 3).testBit (if write then 16 else 15) && decide (off + 4 * len ≤ w 2 * 4096)

/-- Where a word of a message stands in device memory, if its address translates. -/
def State.windowAddr (s : State) (win off : Nat) (write : Bool) (k : Nat) : Option Nat :=
  let w := s.hostWin win
  let a := w 0 + 2 ^ 32 * w 1 + off + 4 * k
  if (w 3).testBit 14 then
    match s.xlateWalk (w 3 % 2 ^ 14) a (if write then .write else .read) true with
    | .ok pa _ _ _ _ => some pa
    | .fault .. => none
  else if a + 4 ≤ dramSize then some a
  else none

/-- The addresses of every word of a message, if it may be performed. -/
def State.windowAddrs (s : State) (win off len : Nat) (write : Bool) : Option (List Nat) :=
  if s.windowOpen win off len write then (List.range len).mapM (s.windowAddr win off write) else none

/-- The translations of a message's words have read the page tables (R245). -/
def State.touchWindow (s : State) (win off len : Nat) : State :=
  let w := s.hostWin win
  if (w 3).testBit 14 then
    (List.range len).foldl (fun (s : State) k => s.recallWalk (w 3 % 2 ^ 14) (w 0 + 2 ^ 32 * w 1 + off + 4 * k)) s
  else s

/-- A WRITE is dropped and counted (R370). -/
def State.dropWrite (s : State) : State := { s with hostDropped := s.hostDropped + 1 }

/-- The lines that a run of words covers whole. -/
def wholeLines (pas : List Nat) : List Nat :=
  (pas.map (· / 128)).eraseDups.filter fun l => (List.range 32).all fun k => pas.contains (l * 128 + 4 * k)

/-- The words of a WRITE are performed at their homes (R261, R371); a line written whole loses its poison (R248). -/
def State.hostStore (s : State) (es : List (Nat × Word)) : State :=
  let s := es.foldl (fun (s : State) e =>
    let r := s.homeWrite e.1 4 e.2.toNat
    { r.2 with hostHorizon := max r.2.hostHorizon r.1 }) s
  { s with poisonLines := s.poisonLines.filter fun l => !(wholeLines (es.map (·.1))).contains l }

/-- The places in device memory of a message's words and of their translations. -/
def State.messagePlaces (s : State) (win off len : Nat) (pas : List Nat) : List Nat :=
  let w := s.hostWin win
  if (w 3).testBit 14 then
    (List.range len).flatMap (fun k => s.walkPlaces (w 3 % 2 ^ 14) (w 0 + 2 ^ 32 * w 1 + off + 4 * k)) ++ pas
  else pas

/-- The maintenance action that holds a message of the host's: one at a home that it needs, or one that holds an earlier WRITE to some of its
words, which goes before it (R371, R386). -/
def State.hostMaint (s : State) (win off len : Nat) (pas : List Nat) : Option Maint :=
  match s.maint with
  | [] => none
  | _ =>
    match s.maintFor (s.messagePlaces win off len pas) with
    | some m => some m
    | none =>
      s.maint.find? fun m => m.arrived.any fun i =>
        match i with
        | .hostWrite w o ws => ((s.windowAddrs w.toNat o.toNat ws.length true).getD []).any fun a => pas.contains a
        | _ => false

/-- The image area of window 0, which takes WRITEs at stage 4 (R388): its first offset, its size, and the length's offset. -/
def imageArea : Nat := 0x01000000
def imageSize : Nat := 0x03000000
def imageLength : Nat := 0x00FFFFF0

/-- A WRITE at stage 4: to the image area, or of the image's length, which offers it. -/
def State.imageWrite (s : State) (off : Nat) (words : List Word) : State :=
  if imageArea ≤ off && off + 4 * words.length ≤ imageArea + imageSize then
    { s with offered := writeBytes s.offered (off - imageArea) (words.flatMap fun w => leBytes w.toNat 4) }
  else
    match words with
    | [n] =>
      if off = imageLength then
        { s with agenda := s.agenda ++ [.hostImageOffer (readBytes s.offered 0 (min n.toNat imageSize))] }
      else s.dropWrite
    | _ => s.dropWrite

/-- A message's form (R369): at most 64 words, at an offset that is a multiple of 4. -/
def hostFormOk (off len : Nat) : Bool := off % 4 == 0 && decide (len ≤ 64)

/-- HOST_WRITE (R370, R371, R385, R388); a maintenance action may hold it (R386). -/
def execHostWrite (hwin : BitVec 6) (offset : BitVec 48) (words : List Word) (s : State) : Out :=
  let off := offset.toNat
  if s.stopped then .fault .notEnabled
  else if !hostFormOk off words.length then .next s.dropWrite
  else if s.stage != 7 then .next (if s.stage = 4 && hwin = 0 then s.imageWrite off words else s.dropWrite)
  else if hwin = 0 then .next (if s.hostNamed off true then (s.hostPuts s off words).getD s.dropWrite else s.dropWrite)
  else
    match s.windowAddrs hwin.toNat off words.length true with
    | some pas =>
      (match s.hostMaint hwin.toNat off words.length pas with
       | some m => .next (s.holdEvent m (.hostWrite hwin offset words))
       | none => .next ((s.touchWindow hwin.toNat off words.length).hostStore (pas.zip words)))
    | none => .next s.dropWrite

/-- A message to the host. -/
def State.tellHost (s : State) (m : HostMsg) : State := { s with hostOut := s.hostOut ++ [m] }

/-- The words of a READ of windows 1 to 63, read at their homes; none where a word is poisoned. -/
def State.hostLoad (s : State) : List Nat → Option (List Word) × State
  | [] => (some [], s)
  | a :: as =>
    let r := s.homeRead a 4
    let q := State.hostLoad r.2 as
    (if s.poisoned (.glob a) 4 then none else q.1.map (r.1.extractLsb' 0 32 :: ·), q.2)

/-- HOST_READ (R370, R371, R385): a READ of a doorbell page waits for the doorbell writes before it; a maintenance action may hold another
(R386). -/
def execHostRead (hwin : BitVec 6) (offset : BitVec 48) (len : BitVec 10) (tag : BitVec 8) (s : State) : Out :=
  let off := offset.toNat
  let answer (s : State) (r : Option (List Word)) : State :=
    s.tellHost (match r with | some ws => .readData tag ws | none => .error tag)
  if s.stopped then .fault .notEnabled
  else if s.stage != 7 || !hostFormOk off len.toNat then .next (answer s none)
  else if hwin = 0 then
    if 0x4000000 ≤ off && !s.doorbells.isEmpty then .next { s with hostWait := s.hostWait ++ [.hostRead hwin offset len tag] }
    else .next (answer s (if s.hostNamed off false then s.hostGets off len.toNat else none))
  else
    match s.windowAddrs hwin.toNat off len.toNat false with
    | some pas =>
      (match s.hostMaint hwin.toNat off len.toNat pas with
       | some m => .next (s.holdEvent m (.hostRead hwin offset len tag))
       | none =>
         let r := (s.touchWindow hwin.toNat off len.toNat).hostLoad pas
         .next (answer r.2 r.1))
    | none => .next (answer s none)

/-- REGISTER_WRITE (R6, R370, R373): one word of a host window descriptor, or of a mailbox at its offset in window 0. -/
def execRegisterWrite (reg : HostReg) (value : Word) (s : State) : Out :=
  let place : Option HostPlace :=
    match reg with
    | .windowWord win word => if 1 ≤ win && win < 64 && word < 4 then some (.descriptor (win * 4 + word)) else none
    | .mailboxWord off =>
      match hostPlace off with
      | some (.doorbell ..) => none
      | p => p
  if s.stopped then .fault .notEnabled
  else if s.stage != 7 then .next s.dropWrite
  else .next ((place.bind fun p => s.hostPut s p value).getD s.dropWrite)

end Sys2Proof.Machine
end

