-- ==== Sys2Proof/Machine/Firmware.lean ====
section
/-! DEFINITION. The firmware mailbox (R373 to R377): contexts, energy settings, shootdowns, the fault log, routes, migrations and splits. -/

namespace Sys2Proof.Machine

/-! ## Requests and replies (R373, R374) -/

/-- A request: its words. -/
abbrev Request32 := Cells 32

def reqCmd (r : Request32) : Nat := (cellGet r 0).toNat % 256
def reqSeq (r : Request32) : Nat := (cellGet r 0).toNat / 256 % 256
def reqAsid (r : Request32) : Nat := (cellGet r 1).toNat % 2 ^ 14
def reqArg (r : Request32) (k : Nat) : Nat := (cellGet r (2 + 2 * k)).toNat + 2 ^ 32 * (cellGet r (3 + 2 * k)).toNat
/-- Whether the reserved fields are zero. -/
def reqClean (r : Request32) : Bool := (cellGet r 0).toNat / 2 ^ 24 % 2 ^ 7 == 0 && (cellGet r 1).toNat / 2 ^ 14 == 0

def stOk : Nat := 0
def stNoContext : Nat := 1
def stBadArg : Nat := 2
def stBusy : Nat := 3
def stNoAsid : Nat := 4
def stLocked : Nat := 5

/-- A reply waits for the reply slot. -/
def State.fwAnswer (s : State) (cmd seq status asid : Nat) (a0 a1 a2 : Nat := 0) : State :=
  { s with fwReplies := s.fwReplies ++
      [fwMessage cmd seq status asid (BitVec.ofNat 64 a0) (BitVec.ofNat 64 a1) (BitVec.ofNat 64 a2)] }

def State.reply (s : State) (r : Request32) (status : Nat) (a0 a1 a2 : Nat := 0) : State :=
  s.fwAnswer (reqCmd r) (reqSeq r) status (reqAsid r) a0 a1 a2

/-- Whether firmware may take a request: it runs, the host has set OWN, and no reply waits. -/
def State.fwReady (s : State) : Bool := s.stage == 7 && !s.stopped && s.fwReplies.isEmpty && slotOwned s.fwRequest

/-- Firmware takes a request: OWN is cleared. -/
def State.fwTake (s : State) : State := { s with fwRequest := cellSet s.fwRequest 0 (cellGet s.fwRequest 0 &&& 0x7FFFFFFF) }

/-- The places of device memory that a request's command reaches: a descriptor, a buffer, a route table, the tables of a page. -/
def State.fwPlaces (s : State) : List Nat :=
  let a := reqArg s.fwRequest 0
  let buffer (n : Nat) : List Nat := if a + n ≤ dramSize then blocksOf a n else []
  match reqCmd s.fwRequest with
  | 1 => buffer 256
  | 9 => buffer 512
  | 10 => buffer (32 * reqArg s.fwRequest 1)
  | 11 => buffer 4096
  | 13 => (s.migrates.filter fun m => m.tag == some a).flatMap fun m => s.walkPlaces m.asid m.va
  | _ => []

/-- Firmware takes and serves a request with a command, where no maintenance action holds what it reaches (R386). -/
def fwServe (cmd : Nat) (ev : Instr) (s : State) (k : Request32 → State → State) : Out :=
  if !s.fwReady || reqCmd s.fwRequest != cmd then .fault .notEnabled
  else
    s.holdOr State.fwPlaces ev
      (.next (if !reqClean s.fwRequest then s.fwTake.reply s.fwRequest stBadArg else k s.fwRequest s.fwTake))

/-- A command for a live context that nothing is being done to. -/
def withContext (r : Request32) (s : State) (k : Context → State) : State :=
  match s.context? (reqAsid r) with
  | none => s.reply r stNoContext
  | some c =>
    match c.op with
    | .switching .. => s.reply r stBusy
    | _ => k c

/-! ## CTX_CREATE (R376) -/

/-- The reserved bits of a context descriptor, as (low bit, width). -/
def ctxReserved : List (Nat × Nat) := [(28, 36), (133, 59), (352, 32), (552, 24), (929, 1119)]

/-- Its virtual addresses, as (low bit, alignment). -/
def ctxAddresses : List (Nat × Nat) :=
  [(64, 256), (192, 2048), (256, 64), (384, 4096), (448, 4096), (576, 4096), (704, 64), (768, 16)]

def ctxDescOk (d : BitVec 2048) : Bool :=
  ctxReserved.all (fun e => fldN d e.1 e.2 == 0) &&
    ctxAddresses.all (fun e => fldN d e.1 64 % e.2 == 0 && decide (fldN d e.1 64 < 2 ^ 56)) &&
    decide (1 ≤ fldN d 128 5) && decide (fldN d 128 5 ≤ 16)

/-- The context that a descriptor describes. -/
def newContext (d : BitVec 2048) (asid : Nat) : Context :=
  let f (lo n : Nat) : Nat := fldN d lo n
  { asid := asid, ptroot := BitVec.ofNat 28 (f 0 28), sqBase := f 64 64, sqLog := f 128 5, sqTail := 0, sqHead := 0, sqOver := false
    sqStop := false, trapTab := BitVec.ofNat 56 (f 192 56), taskPool := BitVec.ofNat 56 (f 256 56), taskPN := BitVec.ofNat 16 (f 320 16)
    taskPS := BitVec.ofNat 16 (f 336 16), vovb := BitVec.ofNat 56 (f 384 56), chkpb := BitVec.ofNat 56 (f 448 56)
    chkpn := BitVec.ofNat 24 (f 512 24), chdly := BitVec.ofNat 16 (if f 536 16 = 0 then 20 else f 536 16)
    saveb := BitVec.ofNat 56 (f 576 56), saveSize := f 640 64, winTab := f 704 64, cgTab := f 768 64, strmax := 8192
    debug := d.getLsbD 928, bal := 0, rate := BitVec.ofNat 32 (f 832 32), ceil := BitVec.ofNat 32 (f 864 32)
    allow := BitVec.ofNat 32 (f 896 32), next := none, isOver := false, log := [], lost := false, op := .none, order := []
    chunks := List.range (f 512 24) }

/-- The first address-space identifier from one on, in turn, that no live context has. -/
def State.freeAsid (s : State) : Nat → Nat → Nat
  | 0, a => a
  | n + 1, a => if (s.context? (a % 16384)).isNone then a % 16384 else State.freeAsid s n (a + 1)

/-- Bytes of device memory by physical address, as firmware reads them at their homes. -/
def State.fwRead (s : State) (pa n : Nat) : List Byte × State :=
  let lines := (List.range (n / 128 + 2)).map fun k => pa / 128 + k
  let s := (lines.filter fun l => decide (l * 128 < pa + n)).foldl (fun s l => s.recall l) s
  (readBytes s.dram pa n, s)

/-- Whether a physical range lies inside DRAM, and holds no poisoned line. -/
def inDram (pa n : Nat) : Bool := decide (pa + n ≤ dramSize)
def State.cleanRange (s : State) (pa n : Nat) : Bool :=
  (List.range (n / 128 + 2)).all fun k => decide (pa + n ≤ (pa / 128 + k) * 128) || !s.poisonLines.contains (pa / 128 + k)

/-- Writes the task pool, every entry FREE (R288); none if an entry cannot be written. -/
def State.writePool (s : State) (asid base : Nat) : Nat → Option State
  | 0 => some s
  | n + 1 =>
    match s.putDesc asid base (BitVec.ofNat 512 stFree) with
    | .ok s => State.writePool s asid (base + 64) n
    | .error _ => none

/-- CTX_CREATE (R376): which free ASID the context receives is not stated. -/
def execCtxCreate (s : State) : Out :=
  fwServe 1 .ctxCreate s fun r s =>
    let a := reqArg r 0
    if a % 256 != 0 || !inDram a 256 || !s.cleanRange a 256 then s.reply r stBadArg
    else if 16384 ≤ s.contexts.length then s.reply r stNoAsid
    else
      let q := s.fwRead a 256
      let d : BitVec 2048 := BitVec.ofNat 2048 (leValue q.1)
      if !ctxDescOk d then q.2.reply r stBadArg
      else
        let k := q.2.choice 16384
        let asid := k.2.freeAsid (s.contexts.length + 1) k.1
        let c := newContext d asid
        match (k.2.setContext c).writePool asid c.taskPool.toNat c.taskPN.toNat with
        | none => q.2.reply r stBadArg
        | some s => s.fwAnswer (reqCmd r) (reqSeq r) stOk asid

/-! ## MIGRATE requests (R377) -/

/-- Firmware gives the oldest waiting MIGRATE request a tag, while fewer than 64 are unanswered, and posts its event. -/
def State.askOne (s : State) : State :=
  if 64 ≤ (s.migrates.filter fun m => m.tag.isSome).length then s
  else
    match s.migrates.find? fun m => m.tag.isNone with
    | none => s
    | some m =>
      let code := if m.size = 16 then 0 else if m.size = 21 then 1 else 2
      let page := m.va / 2 ^ m.size * 2 ^ m.size
      { s with
        nextTag := s.nextTag + 1
        migrates := s.migrates.map fun x => if x.op = m.op then { x with tag := some s.nextTag } else x
        fwEvents := s.fwEvents ++
          [fwMessage 0x81 0 0 m.asid (BitVec.ofNat 64 s.nextTag) (BitVec.ofNat 64 page) (BitVec.ofNat 64 code)] }

/-- Every waiting MIGRATE request for which a tag is free is posted. -/
def State.askHost (s : State) : State := (List.range 64).foldl (fun s _ => s.askOne) s

/-! ## CTX_TEARDOWN (R294, R321) -/

/-- The FUTURE of a LAUNCH that has not reached the Almanac receives 0xF0. -/
def State.refuseLaunch (s : State) (asid a : Nat) : State :=
  match s.checkRecord asid a false with
  | .ok _ r => s.refuse asid 0xF0 r.future
  | .bad _ future _ => s.refuse asid 0xF0 future

/-- The futures of launches that have not completed. -/
def State.closeLaunch (s : State) (l : Launch) : State :=
  if l.complete then s else s.fillFuture l.asid l.future (if l.begun.isEmpty then 0xF0 else 0xF3) l.clean l.desc

/-- A context is torn down: descriptors stay as they stand; its teams, tasks, futures, waits, held frames, translations and pins are gone,
its overflow area holds no entry (R321), and its ASID is free, with the MIGRATE_REQ tags that its requests had. -/
def State.teardown (s : State) (asid : Nat) : State :=
  let teams := (s.teams.map (·.2)).filter fun (t : Team) => t.asid == asid
  let ours (team : Nat) : Bool := teams.any fun (t : Team) => t.uid == team
  let groups := (s.groups.map (·.2)).filter fun (g : Group) => ours g.team
  let mine (grp : Nat) : Bool := groups.any fun (g : Group) => g.uid == grp
  let asked := s.ops.filterMap fun (o : Op) => match o.job with | .launch a d => if d = asid then some a else none | _ => none
  let s := asked.foldl (fun s a => s.refuseLaunch asid a) s
  let s := s.clearOverflow asid
  let s := ((s.launches.map (·.2)).filter fun (l : Launch) => l.asid == asid).foldl State.closeLaunch s
  let s := { s with
    teams := s.teams.filter fun (e : Nat × Team) => e.2.asid != asid
    vigil := s.vigil.filter fun (v : Vigil) => v.asid != asid }
  let s := groups.foldl (fun s (g : Group) => match s.group? g.uid with | some g => s.endGroup g true | none => s) s
  let spilled := s.vigil.filter fun (v : Vigil) => v.overflow.isSome
  let kept (o : Op) : Bool := !mine o.grp || (match o.job with | .access a => !(a.kind matches .load _) | _ => false)
  let lost (i : Instr) : Bool := match i with | .matrixCompletion u => s.ops.any fun o => o.uid == u && !kept o | _ => false
  State.askHost { s with
    agenda := s.agenda.filter fun i => !lost i
    groups := s.groups.map fun (e : Nat × Group) => if mine e.1 then (e.1, { e.2 with place := .ended }) else e
    ops := s.ops.filter kept
    reels := s.reels.filter fun (e : Nat × ReelCtx) => !ours e.2.team
    collSeq := s.collSeq.filter fun (e : Nat × Nat) => e.1 / 4096 != asid
    held := s.held.filter fun (e : Nat × Frame) => !s.heldIn asid e
    meters := s.meters.map fun m => if m.asid = asid then { m with asid := 2 ^ 14, launches := [] } else m
    threads := s.threads.filter fun t => t.asid != asid
    remotes := s.remotes.filter fun r => r.asid != asid
    colls := s.colls.filter fun k => k.asid != asid
    launches := s.launches.filter fun (e : Nat × Launch) => e.2.asid != asid
    saved := s.saved.filter fun (v : Saved) => v.team.asid != asid
    ready := s.ready.filter fun e => e.asid != asid
    reservedFor := s.reservedFor.filter fun (e : Nat × Nat) => e.1 / 2 ^ 56 != asid
    spilled := s.spilled.filter fun l => spilled.any fun v => v.pa / 128 == l
    migrates := s.migrates.filter fun m => m.asid != asid
    posted := s.posted.filter fun m => m.asid != asid
    pins := s.pins.filter fun p => p.asid != asid
    tlb := s.tlb.filter fun t => t.asid != asid
    icache := s.icache.filter fun l => l.asid != asid
    doorbells := s.doorbells.filter fun (d : Nat × Nat × Word × Option Nat) => d.1 != asid
    contexts := tabErase s.contexts asid }

/-- The teardowns of a context that waited for its switch, in order: the first tears it down, and the others find no context. -/
def State.tearAll (s : State) (asid : Nat) : List Nat → State
  | [] => s
  | seq :: rest =>
    if (s.context? asid).isSome then State.tearAll ((s.teardown asid).fwAnswer 2 seq stOk asid) asid rest
    else State.tearAll (s.fwAnswer 2 seq stNoContext asid) asid rest

/-- CTX_TEARDOWN (R294, R374): it waits for a switch in progress. -/
def execCtxTeardown (s : State) : Out :=
  fwServe 2 .ctxTeardown s fun r s =>
    match s.context? (reqAsid r) with
    | none => s.reply r stNoContext
    | some c =>
      match c.op with
      | .switching d q tears => s.setContext { c with sqStop := true, op := .switching d q (tears ++ [reqSeq r]) }
      | _ => s.tearAll c.asid [reqSeq r]

/-! ## CTX_SWITCH and CTX_RESUME (R340) -/

/-- CTX_SWITCH: the READY tasks leave their queues in order, and every team of the context is asked to leave. -/
def execCtxSwitch (s : State) : Out :=
  fwServe 3 .ctxSwitch s fun r s => withContext r s fun c =>
    let mine := s.ready.filter fun e => e.asid == c.asid
    let s := { s with ready := s.ready.filter fun e => e.asid != c.asid }
    let s := s.setContext { c with
      op := .switching (now s + reqArg r 0) (reqSeq r) []
      order := c.order ++ mine.map fun e => (e.stack, e.level, e.task) }
    ((s.teams.map (·.2)).filter fun (t : Team) => t.asid == c.asid).foldl (fun s (t : Team) => s.requestTeam t.uid .switch) s

/-- The end of a switch (R340 step 4): every team has left; then the teardowns that wait for it. -/
def State.switchOver (s : State) (c : Context) : State :=
  match c.op with
  | .switching _ seq tears =>
    if s.teams.any fun (e : Nat × Team) => e.2.asid == c.asid && !e.2.released then s
    else ((s.setContext { c with op := .switched }).fwAnswer 3 seq stOk c.asid).tearAll c.asid tears
  | _ => s

/-- Whether a team taken out whole is to come back when what took it out is over: PARKED, or DONE as it was before (R287), and not queued yet. -/
def State.isParked (s : State) (v : Saved) : Bool :=
  match s.desc v.team.asid v.task with
  | .ok d => d.state == stParked || (d.state == stDone && v.why != .adoption && !s.queued v.team.asid v.task)
  | .error _ => false

/-- CTX_RESUME: the recorded tasks are queued again in order at their levels, and every PARKED task becomes READY, those of a launch past
its cap apart: they stay PARKED as if the cap had parked them, until CAP_RAISE (R382). -/
def execCtxResume (s : State) : Out :=
  fwServe 4 .ctxResume s fun r s => withContext r s fun c =>
    if c.op != .switched then s.reply r stOk
    else
      let s := s.setContext { c with op := .none, order := [] }
      let back (e : Nat × Nat × Nat) : ReadyEntry :=
        { stack := e.1, level := e.2.1, asid := c.asid, task := e.2.2, since := now s }
      let s := { s with ready := s.ready ++ c.order.map back }
      let parked := s.saved.filter fun (v : Saved) =>
        v.team.asid == c.asid && s.isParked v && !s.capReached v.team.launch
      let s := { s with saved := s.saved.map fun (v : Saved) =>
        if v.team.asid = c.asid && s.isParked v && s.capReached v.team.launch then { v with why := .energy } else v }
      (parked.foldl (fun (s : State) (v : Saved) => s.makeReady c.asid v.task) s).reply r stOk

/-- CONTEXT_SWITCH_DEADLINE (R340): past the deadline the groups that a handler or Lantern stops are ended. -/
def execContextSwitchDeadline (asid : Nat) (s : State) : Out :=
  match s.context? asid with
  | none => .fault .notEnabled
  | some c =>
    match c.op with
    | .switching deadline _ _ =>
      let stuck := (s.groups.map (·.2)).filter fun (g : Group) =>
        s.asidOf g == asid && (s.teamOf g).isSome && g.place != .ended &&
          (g.hand.isSome || (match g.debug with | .halted | .stepping => true | _ => false))
      if now s < deadline || stuck.isEmpty then .fault .notEnabled
      else .next (stuck.foldl (fun s g => match s.group? g.uid with | some g => s.endGroup g true | none => s) s)
    | _ => .fault .notEnabled

/-! ## ENERGY_SET, CAP_RAISE (R378, R382) -/

/-- ENERGY_SET: the values apply from the next account tick. -/
def execEnergySet (s : State) : Out :=
  fwServe 5 .energySet s fun r s => withContext r s fun c =>
    if (List.range 3).any fun k => decide (2 ^ 32 ≤ reqArg r k) then s.reply r stBadArg
    else
      let v (k : Nat) : Word := BitVec.ofNat 32 (reqArg r k)
      (s.setContext { c with next := some (v 0, v 1, v 2) }).reply r stOk

/-- The PARKED tasks of a context that its account and its launches' caps let run become READY (R380, R382). -/
def State.releaseParked (s : State) (c : Context) : State :=
  if !c.starts then s
  else
    let parked := s.saved.filter fun (v : Saved) =>
      v.team.asid == c.asid && v.why == .energy && s.isParked v && !s.capReached v.team.launch
    parked.foldl (fun s v => s.makeReady c.asid v.task) s

/-- CAP_RAISE: of the live launch that a DESC names. -/
def execCapRaise (s : State) : Out :=
  fwServe 6 .capRaise s fun r s => withContext r s fun c =>
    let cap := reqArg r 1
    match ((s.launches.map (·.2)).filter fun (l : Launch) =>
        l.asid == c.asid && !l.complete && !l.spawned && l.desc == reqArg r 0).getLast? with
    | none => s.reply r stBadArg
    | some l =>
      if 2 ^ 32 ≤ cap || (cap != 0 && decide (cap * 1000 < l.used)) then s.reply r stBadArg
      else
        let s := s.setLaunch { l with ecap := cap, capped := cap != 0 && decide (cap * 1000 ≤ l.used) }
        (s.releaseParked c).reply r stOk

/-! ## SHOOTDOWN (R240, R247) -/

/-- A shootdown of a virtual range: cached translations and instruction lines go, and pins whose line is no longer mapped there. -/
def State.shootdown (s : State) (asid base len : Nat) : State :=
  let meets (lo size : Nat) : Bool := decide (lo < base + len) && decide (base < lo + size)
  let s := { s with
    tlb := s.tlb.filter fun t => !(t.asid == asid && meets (t.vpage * 2 ^ 16) (2 ^ 16))
    icache := s.icache.filter fun l => !(l.asid == asid && meets (l.line * 64) 64) }
  let maps (va line : Nat) : Bool :=
    match s.walk asid va with
    | .leaf _ b bits => (b + va % 2 ^ bits) / 128 == line
    | .fault .. => false
  (s.pins.filter fun p => p.asid == asid && meets (p.va / 128 * 128) 128 && !maps p.va p.line).foldl State.dropPin s

def execShootdown (s : State) : Out :=
  fwServe 7 .shootdown s fun r s => withContext r s fun c =>
    if 2 ^ 56 < reqArg r 0 + reqArg r 1 then s.reply r stBadArg
    else (s.shootdown c.asid (reqArg r 0) (reqArg r 1)).reply r stOk

/-! ## HASH, ATTEST, FAULT_LOG (R280, R375, R389) -/

def execHash (s : State) : Out := fwServe 8 .hash s fun r s => s.reply r stOk Config.deviceHash.toNat

/-- Firmware writes bytes at their homes. -/
def State.fwWrite (s : State) (pa : Nat) : List Byte → State
  | [] => s
  | b :: bs => State.fwWrite (s.homeWrite pa 1 b.toNat).2 (pa + 1) bs

/-- ATTEST: the report is written to the buffer. -/
def execAttest (s : State) : Out :=
  fwServe 9 .attest s fun r s =>
    let a := reqArg r 0
    if !inDram a 512 then s.reply r stBadArg
    else
      let nonce : BitVec 256 := BitVec.ofNat 256 (joinUnits 4 ((List.range 8).map fun k => (cellGet r (8 + k)).toNat))
      let n := min Config.reportLength 512
      (s.fwWrite a ((List.range n).map (Config.reportByte nonce s.grade s.coreMask s.image))).reply r stOk 0 n

/-- FAULT_LOG: the oldest records are moved into the buffer. -/
def execFaultLog (s : State) : Out :=
  fwServe 10 .faultLog s fun r s => withContext r s fun c =>
    let a := reqArg r 0
    let cap := reqArg r 1
    if 2 ^ 16 ≤ cap || !inDram a (32 * cap) then s.reply r stBadArg
    else
      let n := min cap c.log.length
      let bytes := ((c.log.take n).flatMap FRec.words).flatMap fun w => leBytes w.toNat 4
      ((s.fwWrite a bytes).modContext c.asid fun c => { c with log := c.log.drop n, lost := false }).reply r stOk 0 n c.lost.toNat

/-! ## ROUTE_SET, ROUTE_LOCK (R367) -/

def execRouteSet (s : State) : Out :=
  fwServe 11 .routeSet s fun r s =>
    let a := reqArg r 0
    let own := reqArg r 1
    if s.routeLocked then s.reply r stLocked
    else if 2 ^ 10 ≤ own || !inDram a 4096 || !s.cleanRange a 4096 then s.reply r stBadArg
    else
      let q := s.fwRead a 4096
      let entry (k : Nat) : Nat := readNat q.2.dram (a + 4 * k) 4
      if (List.range 1024).any (fun k => decide (2 ^ 24 ≤ entry k)) || entry own != 0 then q.2.reply r stBadArg
      else
        { q.2 with
          routes := cellSets [] ((List.range 1024).map fun k => (k, BitVec.ofNat 24 (entry k)))
          devid := some (BitVec.ofNat 10 own) }.reply r stOk

def execRouteLock (s : State) : Out := fwServe 12 .routeLock s fun r s => State.reply { s with routeLocked := true } r stOk

/-! ## MAPREQ and MIGRATE_ANSWER (R346, R377, R392) -/

/-- A leaf entry with its address and level, valid or not; none where the walk ends at a pointer that is not valid, or meets an entry that
R239 calls PTE_INVALID. -/
def leafAt (s : State) (va : Nat) : Nat → (level table : Nat) → Option (Nat × Nat × BitVec 64)
  | 0, _, _ => none
  | fuel + 1, level, table =>
    let a := table + 8 * levelIndex level va
    let e : BitVec 64 := BitVec.ofNat 64 (s.readHome a 8)
    if s.poisonLines.contains (a / 128) then none
    else if e.getLsbD 9 then
      (if e.getLsbD 0 then (if leafOk level e then some (a, level, e) else none) else if level = 0 then none else some (a, level, e))
    else if e.getLsbD 0 && pointerOk level e then leafAt s va fuel (level + 1) (fieldN e 16 40 * 256)
    else none

def State.leafOf (s : State) (asid va : Nat) : Option (Nat × Nat × BitVec 64) :=
  match s.context? asid with
  | some c => leafAt s va 4 0 (c.ptroot.toNat * 2 ^ 20)
  | none => none

/-- A leaf that becomes valid: V = 1, RES = 0, with the frame given. -/
def validLeaf (e : BitVec 64) (frame : Nat) : BitVec 64 := setFld (setFld (setFld e 0 1 1) 14 2 0) 16 32 (frame / 2 ^ 16)

/-- The answer of a MAPREQ: MAPSTAT is written, and the instruction completes. -/
def State.answerMap (s : State) (o : Op) (status : Nat) : State :=
  (s.finishOp o).modGroup o.grp fun g =>
    { g with
      mapstat := status
      hand := g.hand.map fun h => if h.mapreq == some o.uid then { h with mapreq := none } else h }

/-- The answer of a request, which is lost where its instruction is gone (R336). -/
def State.answerReq (s : State) (uid status : Nat) : State := match s.op? uid with | some o => s.answerMap o status | none => s

/-- The page becomes valid, and the shootdown of it completes. -/
def State.mapPage (s : State) (asid va a level : Nat) (leaf : BitVec 64) : State :=
  let size := 2 ^ levelBits level
  ((s.homeWrite a 8 leaf.toNat).2).shootdown asid (va / size * size) size

/-- What firmware does with a MAPREQ whose leaf it has found (R392). -/
def State.serveMap (s : State) (uid asid va : Nat) (migrate : Bool) : State :=
  let s := s.recallWalk asid va
  match s.leafOf asid va with
  | none => s.answerReq uid 2
  | some (a, level, e) =>
    if e.getLsbD 0 then s.answerReq uid 0
    else
      match fieldN e 14 2 with
      | 1 =>
        let leaf := validLeaf e (fieldN e 16 32 * 2 ^ 16)
        if leafOk level leaf then (s.mapPage asid va a level leaf).answerReq uid 0 else s.answerReq uid 2
      | 2 =>
        if !leafOk level (validLeaf e 0) then s.answerReq uid 2
        else if !migrate then s.answerReq uid 1
        else
          let m : Migrate := { tag := none, op := uid, asid := asid, va := va, size := levelBits level }
          let s := match s.op? uid with | some o => s.setOp { o with job := .mapreq va migrate true } | none => s
          State.askHost { s with migrates := s.migrates ++ [m] }
      | _ => s.answerReq uid 2

/-- Whether an earlier request for the same leaf is outstanding: they are served one at a time, in order. A request that firmware has posted
is, even when its group has ended since (R336). -/
def State.mapBehind (s : State) (uid asid va : Nat) : Bool :=
  match s.leafOf asid va with
  | none => false
  | some (a, _, _) =>
    let same (asid va : Nat) : Bool := match s.leafOf asid va with | some (b, _, _) => b == a | none => false
    (s.ops.any fun (p : Op) =>
      decide (p.uid < uid) && (match p.job, s.group? p.grp with | .mapreq v _ _, some g => same (s.asidOf g) v | _, _ => false)) ||
      (s.posted.any fun m => decide (m.op < uid) && same m.asid m.va) ||
      s.migrates.any fun m => m.op != uid && same m.asid m.va

/-- MAPREQ_ANSWER (R392): firmware serves a request, be its group there still or not (R336). -/
def execMapreqAnswer (req : Nat) (s : State) : Out :=
  match s.op? req, s.posted.find? fun m => m.op == req with
  | none, none => .fault .notEnabled
  | none, some m =>
    if s.mapBehind req m.asid m.va then .fault .notEnabled
    else s.holdOr (fun s => s.walkPlaces m.asid m.va) (.mapreqAnswer req) <| .next (State.serveMap { s with posted := s.posted.filter fun x => x.op != req } req m.asid m.va m.migrate)
  | some o, _ =>
    match o.job, s.group? o.grp with
    | .mapreq va migrate false, some g =>
      let asid := s.asidOf g
      if s.mapBehind req asid va then .fault .notEnabled
      else s.holdOr (fun s => s.walkPlaces asid va) (.mapreqAnswer req) (.next (s.serveMap req asid va migrate))
    | _, _ => .fault .notEnabled

/-- MIGRATE_ANSWER (R375, R377): the frame that holds the page now, or a refusal. Where the group has ended since (R336), only the answer to
its MAPREQ is lost. -/
def execMigrateAnswer (s : State) : Out :=
  fwServe 13 .migrateAnswer s fun r s => withContext r s fun c =>
    let frame := reqArg r 1
    match s.migrates.find? fun m => m.asid == c.asid && m.tag == some (reqArg r 0) with
    | none => s.reply r stBadArg
    | some m =>
      if frame % 2 ^ m.size != 0 || !inDram frame (2 ^ m.size) then s.reply r stBadArg
      else
        let s := { s with migrates := s.migrates.filter fun x => x.op != m.op }
        let s := s.recallWalk c.asid m.va
        let answer (s : State) (status : Nat) : State := s.answerReq m.op status
        let s :=
          if frame = 0 then answer s 2
          else
            match s.leafOf c.asid m.va with
            | none => answer s 2
            | some (a, level, e) =>
              if e.getLsbD 0 then answer s 0
              else if levelBits level = m.size && leafOk level (validLeaf e frame) then
                answer (s.mapPage c.asid m.va a level (validLeaf e frame)) 0
              else answer s 2
        s.askHost.reply r stOk

/-! ## SPLIT_SET, SPLIT_CHANGE (R12) -/

/-- SPLIT_SET: the reply is sent when the split is in force. -/
def execSplitSet (s : State) : Out :=
  fwServe 14 .splitSet s fun r s =>
    if 32 ≤ reqArg r 0 || 8 < reqArg r 1 then s.reply r stBadArg
    else { s with splitWanted := s.splitWanted ++ [(reqArg r 0, reqArg r 1, reqSeq r)] }

/-- Whether a team is resident on a core of a cluster. -/
def State.clusterUsed (s : State) (cluster : Nat) : Bool :=
  s.teams.any fun (e : Nat × Team) =>
    !e.2.released && (e.2.core / 8 == cluster || (e.2.bridle && (e.2.core + 1) / 8 == cluster))

/-- SPLIT_CHANGE (R12): the oldest split wanted for a cluster comes into force; no slice keeps more than half of its L2 lines pinned
(R247). -/
def execSplitChange (cluster : Nat) (s : State) : Out :=
  match s.splitWanted.find? fun (w : Nat × Nat × Nat) => w.1 == cluster with
  | none => .fault .notEnabled
  | some w =>
    if s.clusterUsed cluster then .fault .notEnabled
    else
      let t := { s with splits := tabSet s.splits cluster w.2.1, splitWanted := s.splitWanted.erase w }
      let t := (List.range 8).foldl (fun (t : State) i => t.trimPins (8 * cluster + i) t.pins.length) t
      .next (t.fwAnswer 14 w.2.2 stOk 0)

/-! ## Events (R373, R377) -/

/-- A message is written into a slot with OWN set. -/
def putSlot (ws : List Word) : Cells 32 :=
  cellSets [] ((List.range ws.length).zip (match ws with | w :: r => (w ||| 0x80000000) :: r | [] => []))

/-- FIRMWARE_EVENT_DELIVER (R373): the oldest event is written into the event slot once the host has cleared OWN. -/
def execFirmwareEventDeliver (s : State) : Out :=
  match s.fwEvents with
  | [] => .fault .notEnabled
  | e :: es =>
    if s.stage != 7 || s.stopped || slotOwned s.fwEvent then .fault .notEnabled
    else .next { s with fwEvent := putSlot e, fwEvents := es }

/-- Firmware between its events: the oldest reply goes into the reply slot once the host has cleared OWN, and a request with an unknown
command is answered. -/
def State.fwSettle (s : State) : State :=
  let s := match s.fwReplies with
    | e :: es => if slotOwned s.fwReply then s else { s with fwReply := putSlot e, fwReplies := es }
    | [] => s
  let cmd := reqCmd s.fwRequest
  if s.fwReady && (cmd == 0 || decide (14 < cmd)) then s.fwTake.reply s.fwRequest stBadArg else s

end Sys2Proof.Machine
end

