-- ==== Sys2Proof/Machine/FloatAlu.lean ====
section
/-! DEFINITION. Float arithmetic, conversions, packing and dot products (R171 to R179), in the full and the compact forms. -/

namespace Sys2Proof.Machine

/-- FADD (R171). -/
def execFadd (c : Ctl) (rnd : Rnd) (ftz : Bool) (d a b : Opnd) (s : State) : Out :=
  result2 (.fadd c rnd ftz d a b) 5 (laneFadd rnd ftz) s

/-- FADD with a 32-bit immediate (R171). -/
def execFaddImm (c : Ctl) (rnd : Rnd) (ftz : Bool) (d a : Opnd) (imm : BitVec 32) (s : State) : Out :=
  result1 (.faddImm c rnd ftz d a imm) 5 (fun a => laneFadd rnd ftz a (ofW imm)) s

/-- FSUB (R171). -/
def execFsub (c : Ctl) (rnd : Rnd) (ftz : Bool) (d a b : Opnd) (s : State) : Out :=
  result2 (.fsub c rnd ftz d a b) 5 (laneFsub rnd ftz) s

/-- FSUB with a 32-bit immediate (R171). -/
def execFsubImm (c : Ctl) (rnd : Rnd) (ftz : Bool) (d a : Opnd) (imm : BitVec 32) (s : State) : Out :=
  result1 (.fsubImm c rnd ftz d a imm) 5 (fun a => laneFsub rnd ftz a (ofW imm)) s

/-- FMUL (R171). -/
def execFmul (c : Ctl) (rnd : Rnd) (ftz : Bool) (d a b : Opnd) (s : State) : Out :=
  result2 (.fmul c rnd ftz d a b) 5 (laneFmul rnd ftz) s

/-- FMUL with a 32-bit immediate (R171). -/
def execFmulImm (c : Ctl) (rnd : Rnd) (ftz : Bool) (d a : Opnd) (imm : BitVec 32) (s : State) : Out :=
  result1 (.fmulImm c rnd ftz d a imm) 5 (fun a => laneFmul rnd ftz a (ofW imm)) s

/-- FMIN (R172). -/
def execFmin (c : Ctl) (ftz : Bool) (d a b : Opnd) (s : State) : Out :=
  result2 (.fmin c ftz d a b) 5 (laneFmin ftz) s

/-- FMIN with a 32-bit immediate (R172). -/
def execFminImm (c : Ctl) (ftz : Bool) (d a : Opnd) (imm : BitVec 32) (s : State) : Out :=
  result1 (.fminImm c ftz d a imm) 5 (fun a => laneFmin ftz a (ofW imm)) s

/-- FMAX (R172). -/
def execFmax (c : Ctl) (ftz : Bool) (d a b : Opnd) (s : State) : Out :=
  result2 (.fmax c ftz d a b) 5 (laneFmax ftz) s

/-- FMAX with a 32-bit immediate (R172). -/
def execFmaxImm (c : Ctl) (ftz : Bool) (d a : Opnd) (imm : BitVec 32) (s : State) : Out :=
  result1 (.fmaxImm c ftz d a imm) 5 (fun a => laneFmax ftz a (ofW imm)) s

/-- FFMA (R173). -/
def execFfma (c : Ctl) (rnd : Rnd) (ftz : Bool) (d a b x : Opnd) (s : State) : Out :=
  result3 (.ffma c rnd ftz d a b x) 5 (laneFfma rnd ftz) s

/-- FSET, the comparison (R174). -/
def execFsetCompare (c : Ctl) (cmp : Cmp) (ftz : Bool) (d a b : Opnd) (s : State) : Out :=
  result2 (.fsetCompare c cmp ftz d a b) 5 (laneFset cmp ftz) s

/-- FRCP (R175). -/
def execFrcp (c : Ctl) (ftz : Bool) (d a : Opnd) (s : State) : Out :=
  result1 (.frcp c ftz d a) 14 (laneFrcp ftz) s

/-- FRSQ (R175). -/
def execFrsq (c : Ctl) (ftz : Bool) (d a : Opnd) (s : State) : Out :=
  result1 (.frsq c ftz d a) 14 (laneFrsq ftz) s

/-- FSQRT (R175). -/
def execFsqrt (c : Ctl) (ftz : Bool) (d a : Opnd) (s : State) : Out :=
  result1 (.fsqrt c ftz d a) 14 (laneFsqrt ftz) s

/-- FEX2 (R175). -/
def execFex2 (c : Ctl) (ftz : Bool) (d a : Opnd) (s : State) : Out :=
  result1 (.fex2 c ftz d a) 14 (laneFex2 ftz) s

/-- FLG2 (R175). -/
def execFlg2 (c : Ctl) (ftz : Bool) (d a : Opnd) (s : State) : Out :=
  result1 (.flg2 c ftz d a) 14 (laneFlg2 ftz) s

/-- FSIN (R175). -/
def execFsin (c : Ctl) (ftz : Bool) (d a : Opnd) (s : State) : Out :=
  result1 (.fsin c ftz d a) 14 (laneFsin ftz) s

/-- FCOS (R175). -/
def execFcos (c : Ctl) (ftz : Bool) (d a : Opnd) (s : State) : Out :=
  result1 (.fcos c ftz d a) 14 (laneFcos ftz) s

/-- HFMA2 (R176). -/
def execHfma2 (c : Ctl) (ty : Ty) (sw bc nc : Bool) (rnd : Rnd) (ftz : Bool) (d a b x : Opnd) (s : State) : Out :=
  result3 (.hfma2 c ty sw bc nc rnd ftz d a b x) 5 (laneHfma2 ty sw bc nc rnd ftz) s

/-- F2I (R177). -/
def execF2i (c : Ctl) (ty sty : Ty) (rnd : Rnd) (ftz : Bool) (d a : Opnd) (s : State) : Out :=
  result1 (.f2i c ty sty rnd ftz d a) 5 (laneF2i ty sty rnd ftz) s

/-- I2F (R177). -/
def execI2f (c : Ctl) (ty sty : Ty) (rnd : Rnd) (ftz : Bool) (d a : Opnd) (s : State) : Out :=
  result1 (.i2f c ty sty rnd ftz d a) 5 (laneI2f ty sty rnd ftz) s

/-- CVT (R177). -/
def execCvt (c : Ctl) (ty sty : Ty) (rnd : Rnd) (ftz : Bool) (d a : Opnd) (s : State) : Out :=
  result1 (.cvt c ty sty rnd ftz d a) 5 (laneCvt ty sty rnd ftz) s

/-- FRND (R177). -/
def execFrnd (c : Ctl) (rnd : Rnd) (ftz : Bool) (d a : Opnd) (s : State) : Out :=
  result1 (.frnd c rnd ftz d a) 5 (laneFrnd rnd ftz) s

/-- PACK (R178). -/
def execPack (c : Ctl) (ty : Ty) (elt : BitVec 4) (rnd : Rnd) (ftz : Bool) (d a b x : Opnd) (s : State) : Out :=
  result3 (.pack c ty elt rnd ftz d a b x) 5 (lanePack ty elt rnd ftz) s

/-- UNPK (R178). -/
def execUnpk (c : Ctl) (ty : Ty) (elt : BitVec 4) (ftz : Bool) (d a : Opnd) (s : State) : Out :=
  result1 (.unpk c ty elt ftz d a) 5 (laneUnpk ty elt ftz) s

/-- DOT4 (R84, R179). -/
def execDot4 (c : Ctl) (d a b x : Opnd) (s : State) : Out :=
  result3 (.dot4 c d a b x) 6 (laneDot 8 4) s

/-- DOT8 (R84, R179). -/
def execDot8 (c : Ctl) (d a b x : Opnd) (s : State) : Out :=
  result3 (.dot8 c d a b x) 6 (laneDot 4 8) s

/-- FDOT4 (R84, R179). -/
def execFdot4 (c : Ctl) (ty : Ty) (d a b x : Opnd) (s : State) : Out :=
  result3 (.fdot4 c ty d a b x) 6 (laneFdot4 ty) s

/-- The compact form `FADD.f32` (R52). FADD (R171). -/
def execFaddF32Compact (c : CCtl) (d a b : COpnd) (s : State) : Out :=
  result2 (.fadd c.full .rn false d.full a.full b.full) 5 (laneFadd .rn false) s

/-- The compact form `FSUB.f32` (R52). FSUB (R171). -/
def execFsubF32Compact (c : CCtl) (d a b : COpnd) (s : State) : Out :=
  result2 (.fsub c.full .rn false d.full a.full b.full) 5 (laneFsub .rn false) s

/-- The compact form `FMUL.f32` (R52). FMUL (R171). -/
def execFmulF32Compact (c : CCtl) (d a b : COpnd) (s : State) : Out :=
  result2 (.fmul c.full .rn false d.full a.full b.full) 5 (laneFmul .rn false) s

/-- The compact form `FMIN.f32` (R52). FMIN (R172). -/
def execFminF32Compact (c : CCtl) (d a b : COpnd) (s : State) : Out :=
  result2 (.fmin c.full false d.full a.full b.full) 5 (laneFmin false) s

/-- The compact form `FMAX.f32` (R52). FMAX (R172). -/
def execFmaxF32Compact (c : CCtl) (d a b : COpnd) (s : State) : Out :=
  result2 (.fmax c.full false d.full a.full b.full) 5 (laneFmax false) s

/-- The compact form `FADD.f32.ftz` (R52). FADD (R171). -/
def execFaddF32FtzCompact (c : CCtl) (d a b : COpnd) (s : State) : Out :=
  result2 (.fadd c.full .rn true d.full a.full b.full) 5 (laneFadd .rn true) s

/-- The compact form `FSUB.f32.ftz` (R52). FSUB (R171). -/
def execFsubF32FtzCompact (c : CCtl) (d a b : COpnd) (s : State) : Out :=
  result2 (.fsub c.full .rn true d.full a.full b.full) 5 (laneFsub .rn true) s

/-- The compact form `FMUL.f32.ftz` (R52). FMUL (R171). -/
def execFmulF32FtzCompact (c : CCtl) (d a b : COpnd) (s : State) : Out :=
  result2 (.fmul c.full .rn true d.full a.full b.full) 5 (laneFmul .rn true) s

/-- The compact form `FSET.eq.f32` (R52). FSET, the comparison (R174). -/
def execFsetEqF32Compact (c : CCtl) (d a b : COpnd) (s : State) : Out :=
  result2 (.fsetCompare c.full .eq false d.full a.full b.full) 5 (laneFset .eq false) s

/-- The compact form `FSET.ne.f32` (R52). FSET, the comparison (R174). -/
def execFsetNeF32Compact (c : CCtl) (d a b : COpnd) (s : State) : Out :=
  result2 (.fsetCompare c.full .ne false d.full a.full b.full) 5 (laneFset .ne false) s

/-- The compact form `FSET.lt.f32` (R52). FSET, the comparison (R174). -/
def execFsetLtF32Compact (c : CCtl) (d a b : COpnd) (s : State) : Out :=
  result2 (.fsetCompare c.full .lt false d.full a.full b.full) 5 (laneFset .lt false) s

/-- The compact form `FSET.le.f32` (R52). FSET, the comparison (R174). -/
def execFsetLeF32Compact (c : CCtl) (d a b : COpnd) (s : State) : Out :=
  result2 (.fsetCompare c.full .le false d.full a.full b.full) 5 (laneFset .le false) s

/-- The compact form `FSET.gt.f32` (R52). FSET, the comparison (R174). -/
def execFsetGtF32Compact (c : CCtl) (d a b : COpnd) (s : State) : Out :=
  result2 (.fsetCompare c.full .gt false d.full a.full b.full) 5 (laneFset .gt false) s

/-- The compact form `FSET.ge.f32` (R52). FSET, the comparison (R174). -/
def execFsetGeF32Compact (c : CCtl) (d a b : COpnd) (s : State) : Out :=
  result2 (.fsetCompare c.full .ge false d.full a.full b.full) 5 (laneFset .ge false) s

/-- The compact form `FSET.un.f32` (R52). FSET, the comparison (R174). -/
def execFsetUnF32Compact (c : CCtl) (d a b : COpnd) (s : State) : Out :=
  result2 (.fsetCompare c.full .un false d.full a.full b.full) 5 (laneFset .un false) s

/-- The compact form `FRND.f32` (R52). FRND (R177). -/
def execFrndF32Compact (c : CCtl) (d a : COpnd) (s : State) : Out :=
  result1 (.frnd c.full .rn false d.full a.full) 5 (laneFrnd .rn false) s

/-- The compact form `FRCP.f32` (R52). FRCP (R175). -/
def execFrcpF32Compact (c : CCtl) (d a : COpnd) (s : State) : Out :=
  result1 (.frcp c.full false d.full a.full) 14 (laneFrcp false) s

/-- The compact form `FRSQ.f32` (R52). FRSQ (R175). -/
def execFrsqF32Compact (c : CCtl) (d a : COpnd) (s : State) : Out :=
  result1 (.frsq c.full false d.full a.full) 14 (laneFrsq false) s

/-- The compact form `FSQRT.f32` (R52). FSQRT (R175). -/
def execFsqrtF32Compact (c : CCtl) (d a : COpnd) (s : State) : Out :=
  result1 (.fsqrt c.full false d.full a.full) 14 (laneFsqrt false) s

/-- The compact form `FEX2.f32` (R52). FEX2 (R175). -/
def execFex2F32Compact (c : CCtl) (d a : COpnd) (s : State) : Out :=
  result1 (.fex2 c.full false d.full a.full) 14 (laneFex2 false) s

/-- The compact form `FLG2.f32` (R52). FLG2 (R175). -/
def execFlg2F32Compact (c : CCtl) (d a : COpnd) (s : State) : Out :=
  result1 (.flg2 c.full false d.full a.full) 14 (laneFlg2 false) s

/-- The compact form `FSIN.f32` (R52). FSIN (R175). -/
def execFsinF32Compact (c : CCtl) (d a : COpnd) (s : State) : Out :=
  result1 (.fsin c.full false d.full a.full) 14 (laneFsin false) s

/-- The compact form `FCOS.f32` (R52). FCOS (R175). -/
def execFcosF32Compact (c : CCtl) (d a : COpnd) (s : State) : Out :=
  result1 (.fcos c.full false d.full a.full) 14 (laneFcos false) s

/-- The compact form `FRND.f32.rz` (R52). FRND (R177). -/
def execFrndF32RzCompact (c : CCtl) (d a : COpnd) (s : State) : Out :=
  result1 (.frnd c.full .rz false d.full a.full) 5 (laneFrnd .rz false) s

/-- The compact form `F2I.s32.f32.rz` (R52). F2I (R177). -/
def execF2iS32F32RzCompact (c : CCtl) (d a : COpnd) (s : State) : Out :=
  result1 (.f2i c.full .s32 .f32 .rz false d.full a.full) 5 (laneF2i .s32 .f32 .rz false) s

/-- The compact form `F2I.z32.f32.rz` (R52). F2I (R177). -/
def execF2iZ32F32RzCompact (c : CCtl) (d a : COpnd) (s : State) : Out :=
  result1 (.f2i c.full .z32 .f32 .rz false d.full a.full) 5 (laneF2i .z32 .f32 .rz false) s

/-- The compact form `I2F.f32.s32` (R52). I2F (R177). -/
def execI2fF32S32Compact (c : CCtl) (d a : COpnd) (s : State) : Out :=
  result1 (.i2f c.full .f32 .s32 .rn false d.full a.full) 5 (laneI2f .f32 .s32 .rn false) s

/-- The compact form `I2F.f32.z32` (R52). I2F (R177). -/
def execI2fF32Z32Compact (c : CCtl) (d a : COpnd) (s : State) : Out :=
  result1 (.i2f c.full .f32 .z32 .rn false d.full a.full) 5 (laneI2f .f32 .z32 .rn false) s

/-- The compact form `CVT.f16.f32` (R52). CVT (R177). -/
def execCvtF16F32Compact (c : CCtl) (d a : COpnd) (s : State) : Out :=
  result1 (.cvt c.full .f16 .f32 .rn false d.full a.full) 5 (laneCvt .f16 .f32 .rn false) s

/-- The compact form `CVT.f32.f16` (R52). CVT (R177). -/
def execCvtF32F16Compact (c : CCtl) (d a : COpnd) (s : State) : Out :=
  result1 (.cvt c.full .f32 .f16 .rn false d.full a.full) 5 (laneCvt .f32 .f16 .rn false) s

/-- The compact form `CVT.bf16.f32` (R52). CVT (R177). -/
def execCvtBf16F32Compact (c : CCtl) (d a : COpnd) (s : State) : Out :=
  result1 (.cvt c.full .bf16 .f32 .rn false d.full a.full) 5 (laneCvt .bf16 .f32 .rn false) s

/-- The compact form `CVT.f32.bf16` (R52). CVT (R177). -/
def execCvtF32Bf16Compact (c : CCtl) (d a : COpnd) (s : State) : Out :=
  result1 (.cvt c.full .f32 .bf16 .rn false d.full a.full) 5 (laneCvt .f32 .bf16 .rn false) s

/-- The compact form `PACK.e4m3` (R52). PACK (R178). -/
def execPackE4m3Compact (c : CCtl) (d a b : COpnd) (s : State) : Out :=
  result3 (.pack c.full .e4m3 0 .rn false d.full a.full b.full .null) 5 (lanePack .e4m3 0 .rn false) s

/-- The compact form `PACK.e5m2` (R52). PACK (R178). -/
def execPackE5m2Compact (c : CCtl) (d a b : COpnd) (s : State) : Out :=
  result3 (.pack c.full .e5m2 0 .rn false d.full a.full b.full .null) 5 (lanePack .e5m2 0 .rn false) s

/-- The compact form `PACK.e2m1` (R52). PACK (R178). -/
def execPackE2m1Compact (c : CCtl) (d a b : COpnd) (s : State) : Out :=
  result3 (.pack c.full .e2m1 0 .rn false d.full a.full b.full .null) 5 (lanePack .e2m1 0 .rn false) s

/-- The compact form `PACK.bf16` (R52). PACK (R178). -/
def execPackBf16Compact (c : CCtl) (d a b : COpnd) (s : State) : Out :=
  result3 (.pack c.full .bf16 0 .rn false d.full a.full b.full .null) 5 (lanePack .bf16 0 .rn false) s

/-- The compact form `UNPK.e4m3` (R52). UNPK (R178). -/
def execUnpkE4m3Compact (c : CCtl) (d a : COpnd) (s : State) : Out :=
  result1 (.unpk c.full .e4m3 0 false d.full a.full) 5 (laneUnpk .e4m3 0 false) s

/-- The compact form `UNPK.e5m2` (R52). UNPK (R178). -/
def execUnpkE5m2Compact (c : CCtl) (d a : COpnd) (s : State) : Out :=
  result1 (.unpk c.full .e5m2 0 false d.full a.full) 5 (laneUnpk .e5m2 0 false) s

/-- The compact form `UNPK.e2m1` (R52). UNPK (R178). -/
def execUnpkE2m1Compact (c : CCtl) (d a : COpnd) (s : State) : Out :=
  result1 (.unpk c.full .e2m1 0 false d.full a.full) 5 (laneUnpk .e2m1 0 false) s

/-- The compact form `UNPK.bf16` (R52). UNPK (R178). -/
def execUnpkBf16Compact (c : CCtl) (d a : COpnd) (s : State) : Out :=
  result1 (.unpk c.full .bf16 0 false d.full a.full) 5 (laneUnpk .bf16 0 false) s

/-- The compact form `DOT4.s8` (R52). DOT4 (R84, R179). -/
def execDot4S8Compact (c : CCtl) (d a b : COpnd) (s : State) : Out :=
  result3 (.dot4 c.full d.full a.full b.full .null) 6 (laneDot 8 4) s

/-- The compact form `DOT8.s4` (R52). DOT8 (R84, R179). -/
def execDot8S4Compact (c : CCtl) (d a b : COpnd) (s : State) : Out :=
  result3 (.dot8 c.full d.full a.full b.full .null) 6 (laneDot 4 8) s

/-- The compact form `FDOT4.e4m3` (R52). FDOT4 (R84, R179). -/
def execFdot4E4m3Compact (c : CCtl) (d a b : COpnd) (s : State) : Out :=
  result3 (.fdot4 c.full .e4m3 d.full a.full b.full .null) 6 (laneFdot4 .e4m3) s

/-- The compact form `FDOT4.e5m2` (R52). FDOT4 (R84, R179). -/
def execFdot4E5m2Compact (c : CCtl) (d a b : COpnd) (s : State) : Out :=
  result3 (.fdot4 c.full .e5m2 d.full a.full b.full .null) 6 (laneFdot4 .e5m2) s

end Sys2Proof.Machine
end

