-- ==== Sys2Proof/Machine/Handler.lean ====
section
/-! DEFINITION. The handler instructions, system registers and breakpoints (R336 to R349), and what becomes of a group between its
instructions: exits of handlers, unwinding, leaving at a STRAND. -/

namespace Sys2Proof.Machine

/-! ## Leaving a handler (R336, R343, R344) -/

/-- REPLAY (R343): a gather is sent again on its unmarked lanes; any other trap resumes as TRET does. -/
def State.replayNow (s : State) (g : Group) (h : Handler) : State :=
  match h.serves.gather with
  | none => s.tretNow g false
  | some t =>
    let g := closeHandler g
    ((s.setGroup g).resend g h.serves t).deliver g.uid

/-- What a handler's exit waits for: every instruction of the handler, a MAPREQ of UNWIND's apart, and for REPLAY the lanes of the
gather that are still in flight. -/
def State.exitReady (s : State) (g : Group) (h : Handler) (e : HExit) : Bool :=
  let open_ := s.opsOf g true
  match e with
  | .tret _ => open_.isEmpty
  | .replay => open_.isEmpty && (match h.serves.gather with | some t => !s.gatherBusy g t | none => true)
  | .unwind => open_.all fun o => h.mapreq == some o.uid

/-- The exit that a handler waits to make (R336). -/
def State.exitHandler (s : State) (g : Group) : State :=
  match g.hand with
  | none => s
  | some h =>
    match h.exit with
    | none => s
    | some e =>
      if !s.exitReady g h e then s
      else
        match e with
        | .tret skip => s.tretNow g skip
        | .replay => s.replayNow g h
        | .unwind =>
          let waits := h.mapreq.bind fun r => if (s.op? r).isSome then some r else none
          s.setGroup { closeHandler g with unwinding := some waits }

/-- UNWIND's end (R344): once the user's instructions have completed, the strand's STRAND is restored, the group leaves its slot, and
the STRAND is ready at once or when the handler's MAPREQ has been answered. -/
def State.unwindGroup (s : State) (g : Group) : State :=
  match g.unwinding with
  | none => s
  | some m =>
    let waits := m.bind fun r => if (s.op? r).isSome then some r else none
    if g.slot?.isSome then
      if !(s.opsOf g false).isEmpty then s
      else
        let place : Place := if waits.isSome then .waiting else .ready (s.clkOf g.core)
        s.leaveSlot { unwoundGroup g with unwinding := waits.map some } place
    else if waits.isNone then s.setGroup { g with unwinding := none, place := .ready (s.clkOf g.core) }
    else s

/-- A handler instruction that leaves the handler: the exit is noted, and made as soon as it may be. -/
def leaveHandler (i : Instr) (e : HExit) (s : State) : Out :=
  issue i s fun x s =>
    if x.never then .ok (s.finish x)
    else
      let s := (s.finish x).modGroup x.g.uid fun g => { g with hand := g.hand.map fun h => { h with exit := some e } }
      .ok (match s.group? x.g.uid with | some g => s.exitHandler g | none => s)

/-- TRAP (R342): its effect is the trap, with the drain, the count and the yield of an instruction that has issued (R95, R101, R125). -/
def execTrap (c : Ctl) (code : BitVec 8) (s : State) : Out :=
  issue (.trap c code) s fun x s =>
    if x.lanes = 0 then .ok (s.finish x)
    else .ok (s.trapNow x { Trap.one code x.lanes with sw := true, resume := .after })

/-- TRET (R343). -/
def execTret (c : Ctl) (skip : Bool) (s : State) : Out := leaveHandler (.tret c skip) (.tret skip) s

/-- REPLAY (R343). -/
def execReplay (c : Ctl) (s : State) : Out := leaveHandler (.replay c) .replay s

/-- UNWIND (R344): a nested fault where the strand is not replayable. -/
def execUnwind (c : Ctl) (s : State) : Out :=
  issue (.unwind c) s fun x s =>
    if x.never then .ok (s.finish x)
    else if !x.g.strand.entry.replay then .error (x.trap tcStrand)
    else
      let s := (s.finish x).modGroup x.g.uid fun g => { g with hand := g.hand.map fun h => { h with exit := some .unwind } }
      .ok (match s.group? x.g.uid with | some g => s.exitHandler g | none => s)

/-- ENDG (R336, R344): it does not wait. -/
def execEndg (c : Ctl) (s : State) : Out :=
  issue (.endg c) s fun x s =>
    if x.never then .ok (s.finish x)
    else
      let s := s.finish x
      .ok (match s.group? x.g.uid with | some g => s.endGroup g true | none => s)

/-! ## FRQPOP, MAPREQ (R345, R346) -/

/-- The oldest record leaves the fault record queue; one of a later delivery takes that delivery with it. -/
def popRecord (g : Group) : Option FRec × Group :=
  match g.frq with
  | [] => (none, g)
  | r :: rest =>
    let serving := match g.hand with | some h => h.serves.id | none => 0
    (some r, { g with
      frq := rest
      deliveries := if r.delivery = serving then g.deliveries else g.deliveries.filter fun d => d.id != r.delivery })

/-- FRQPOP (R345): eight registers, 8 clk later. -/
def execFrqpop (c : Ctl) (d : Opnd) (s : State) : Out :=
  issue (.frqpop c d) s fun x s =>
    if x.lanes = 0 then .ok (s.finish x)
    else
      let r := popRecord x.g
      let ws : List Word := match r.1 with | some r => r.words | none => []
      let s := s.modGroup x.g.uid fun g => (popRecord g).2
      let vals (i : Nat) : Cells 64 := laneVals x.list fun _ => ofW (ws.getD i 0)
      let uid := s.nextId
      let s := s.start x fun o => { o with due := some (s.clkOf x.g.core + 8), vals := vals 0 }
      let rest := (List.range 7).map fun i =>
        { x.op (uid + 1 + i) with
          set := 15, due := some (s.clkOf x.g.core + 8), vals := vals (i + 1)
          dest := some { op := ⟨.d, d.idx + BitVec.ofNat 8 (i + 1)⟩, wide := false, shift := false, predicate := false } }
      .ok { s with nextId := uid + 8, ops := s.ops ++ rest }

/-- MAPREQ (R346): the kind, then bits [63:56] of the address are checked; firmware answers. -/
def execMapreq (c : Ctl) (a b : Opnd) (s : State) : Out :=
  issue (.mapreq c a b) s fun x s =>
    if x.lanes = 0 then .ok (s.finish x)
    else
      let va := (s.srcLow x 0).toNat
      let kind := (w32 (s.srcLow x 1)).toNat
      if 1 < kind then .error (x.trap tcOperand)
      else if 2 ^ 56 ≤ va then .error (Trap.one tcAddress x.sp.lanes (BitVec.ofNat 64 va))
      else
        let uid := s.nextId
        .ok ((s.start x fun o => { o with job := .mapreq va (kind == 1) false }).modGroup x.g.uid fun g =>
          { g with hand := g.hand.map fun h => { h with mapreq := some uid } })

/-! ## SRD and SWR (R72, R73, R337, R338, R347) -/

/-- The flags that the group's instructions in flight will add to NFLAGS, one entry each (R73): a matrix instruction's are those of
its turn at the collector. -/
def State.flagsInFlight (s : State) (g : Group) : List FFlags :=
  let mat := (s.matrixOpen g.uid).foldl (fun (r : Cells 32 × List FFlags) o =>
    match o.job, o.instr with
    | .matrix m, .cst .. =>
      (match cstType m.fmt with
       | some ty => (r.1, (cstWords m.fmt ty (tileRows g.width) fun i j => cellGet r.1 (colKey (collectorOf o.instr) i j)).2 :: r.2)
       | none => r)
    | .matrix m, _ => if m.read then let q := collected o m g.width r.1; (q.1, q.2 :: r.2) else r
    | _, _ => r) (g.cols, [])
  ((s.opsOf g false).map (·.flags)) ++ mat.2

/-- NFLAGS as an SRD reads it: what has completed, and of each instruction in flight its flags or none (R73). -/
def State.nflagsRead (s : State) (x : Issue) : Word :=
  let fs := s.flagsInFlight x.g
  (List.range fs.length).zip fs |>.foldl (fun (v : Word) e => if x.bits.testBit e.1 then v ||| e.2.setWidth 32 else v) x.g.nflags

/-- A system register's value. -/
def State.sysRead (s : State) (x : Issue) (n : Nat) : Word :=
  let c := s.contextOf x.g
  let of (f : Context → Word) : Word := match c with | some c => f c | none => 0
  let hand (f : Delivery → Word) : Word := match x.g.hand with | some h => f h.serves | none => 0
  let lo {w : Nat} (v : BitVec w) : Word := v.extractLsb' 0 32
  let hi {w : Nat} (v : BitVec w) : Word := v.extractLsb' 32 32
  match n with
  | 0x001 => s.nflagsRead x
  | 0x002 => lo Config.capBase
  | 0x003 => hi Config.capBase
  | 0x010 => of fun c => c.strmax.setWidth 32
  | 0x020 => of fun c => BitVec.ofNat 32 c.asid
  | 0x021 => of fun c => c.ptroot.setWidth 32
  | 0x030 => lo Config.deviceHash
  | 0x031 => hi Config.deviceHash
  | 0x040 => of fun c => lo c.taskPool
  | 0x041 => of fun c => hi c.taskPool
  | 0x042 => of fun c => c.taskPN.setWidth 32
  | 0x043 => of fun c => c.taskPS.setWidth 32
  | 0x050 => of fun c => lo c.vovb
  | 0x051 => of fun c => hi c.vovb
  | 0x052 => of fun c => lo c.chkpb
  | 0x053 => of fun c => hi c.chkpb
  | 0x054 => of fun c => c.chkpn.setWidth 32
  | 0x055 => of fun c => c.chdly.setWidth 32
  | 0x060 => of fun c => lo c.trapTab
  | 0x061 => of fun c => hi c.trapTab
  | 0x062 => hand fun d =>
      (0#16) ++ BitVec.ofBool d.debug ++ BitVec.ofBool d.more ++ BitVec.ofBool x.g.strand.entry.replay ++ BitVec.ofNat 3 d.split ++
        BitVec.ofBool d.sw ++ BitVec.ofBool d.notice ++ d.code
  | 0x063 => hand fun d => lo d.pc
  | 0x064 => hand fun d => hi d.pc
  | 0x065 => hand fun d => lo d.addr
  | 0x066 => hand fun d => hi d.addr
  | 0x067 => BitVec.ofNat 32 x.g.mapstat
  | 0x068 => of fun c => lo c.saveb
  | 0x069 => of fun c => hi c.saveb
  | 0x070 => of fun c => lo (BitVec.ofInt 64 c.bal)
  | 0x071 => of fun c => hi (BitVec.ofInt 64 c.bal)
  | 0x072 => of fun c => c.rate
  | 0x073 => of fun c => c.ceil
  | 0x074 => of fun c => c.allow
  | 0x075 => of fun c => (0#30) ++ BitVec.ofBool c.isOver ++ BitVec.ofBool (decide (c.bal ≤ 0))
  | _ => 0

/-- SRD (R347). -/
def execSrd (c : Ctl) (num : BitVec 12) (d : Opnd) (s : State) : Out :=
  issue (.srd c num d) s fun x s =>
    let v := s.sysRead x num.toNat
    .ok (s.later x 8 fun _ => ofW v)

/-- A write of a system register: NFLAGS, STRMAX and CHDLY take it, every other ignores it. -/
def State.sysWrite (s : State) (x : Issue) (n : Nat) (v : Word) : State :=
  match n with
  | 0x001 => s.modGroup x.g.uid fun g => { g with nflags := v &&& 0x1F }
  | 0x010 => s.modContext (s.asidOf x.g) fun c => { c with strmax := v.extractLsb' 0 24 }
  | 0x055 => s.modContext (s.asidOf x.g) fun c => if v.extractLsb' 0 16 = 0 then c else { c with chdly := v.extractLsb' 0 16 }
  | _ => s

/-- SWR (R347): the lowest active lane's value, at issue. -/
def execSwr (c : Ctl) (num : BitVec 12) (a : Opnd) (s : State) : Out :=
  issue (.swr c num a) s fun x s =>
    if x.lanes = 0 then .ok (s.finish x)
    else
      let v := w32 (s.srcLow x 0)
      .ok ((s.finish x).sysWrite x num.toNat v)

/-! ## UREAD, UWRITE, BKPT (R348, R349) -/

/-- UREAD (R348): FIXED_RESULT_LANDS copies the value, 4 clk later or once the user's writes in flight to it have landed. -/
def execUread (c : Ctl) (wide : Bool) (u d : Opnd) (s : State) : Out :=
  issue (.uread c wide u d) s fun x s =>
    .ok (s.start x fun o => { o with due := some (s.clkOf x.g.core + 4), job := .uread u wide })

/-- UWRITE (R348): FIXED_RESULT_LANDS writes the user's entry or slot 4 clk later. -/
def execUwrite (c : Ctl) (wide : Bool) (u a : Opnd) (s : State) : Out :=
  issue (.uwrite c wide u a) s fun x s =>
    .ok (s.start x fun o => { o with due := some (s.clkOf x.g.core + 4), vals := laneVals x.list (s.src x 0), job := .uwrite u wide })

/-- BKPT (R349): in a context created with debugging it halts the group, and Lantern posts an event. -/
def execBkpt (c : Ctl) (tag : BitVec 8) (s : State) : Out :=
  issue (.bkpt c tag) s fun x s =>
    let s := s.finish x
    if x.never || !((s.contextOf x.g).any fun c => c.debug) then .ok s
    else
      .ok ((s.modGroup x.g.uid fun g => { g with debug := .halted }).lanternPost x.g x.pc (tag.setWidth 64))

end Sys2Proof.Machine
end

