-- ==== Sys2Proof/Machine/Lane.lean ====
section
/-! DEFINITION. Lane instructions and predicates (R180 to R184), in the full and the compact forms. -/

namespace Sys2Proof.Machine

/-- SHFL's source lane (R180). -/
def shflLane (m : ShflMode) (v l b : Nat) : Nat :=
  let base := l - l % v
  match m with
  | .idx => base + b % v
  | .up => if l < base + b then l else l - b
  | .down => if base + v ≤ l + b then l else l + b
  | .xor => base + ((l - base) ^^^ (b % v))

/-- SHFL (R180): a segment width that is not 0 or a power of two within the group's width traps, whether a lane is active or not. -/
def shuffle (m : ShflMode) (ty : Ty) (i : Instr) (s : State) : Out :=
  issue i s fun x s =>
    let c := (w32 (s.srcUniform x 2)).toNat
    let v := if c = 0 then x.g.width else c
    if !(v == 1 || v == 2 || v == 4 || v == 8 || v == 16 || v == 32 || v == 64) || decide (x.g.width < v) then
      .error (x.trap tcOperand)
    else
      .ok (s.result x 8 fun l =>
        let k := shflLane m v l (w32 (s.src x 1 l)).toNat
        (fit ty (s.src x 0 (if x.lanes.has k then k else l)), 0))

/-- The active lanes in which a predicate source holds (R181). -/
def predLanes (s : State) (x : Issue) (k : Nat) : Lanes :=
  x.list.foldl (fun m l => if s.src x k l = 1 then m ||| Lanes.single l else m) 0

/-- VOTE's result (R181). -/
def voteValue (m : VoteMode) (act p : Lanes) : DWord :=
  match m with
  | .every => boolD (p == act)
  | .some => boolD (p != 0)
  | .same => boolD (p == 0 || p == act)
  | .mask => p
  | .count => BitVec.ofNat 64 (popCount p 64)
  | .first => match (p.list 64).head? with | some l => BitVec.ofNat 64 l | none => 0xFFFFFFFF

/-- PSET's comparison, with FSET's flags for .f32 (R183). -/
def psetCompare (c : Cmp) (ty : Ty) (a b : DWord) : Res := if ty = .f32 then laneFset c false a b else laneIset c ty a b

def psetCombine (m : PsetComb) (v c : Bool) : DWord :=
  match m with
  | .plain => boolD v
  | .and => boolD (v && c)
  | .or => boolD (v || c)

/-- SHFL (R180). -/
def execShfl (c : Ctl) (sm : ShflMode) (ty : Ty) (d a b x : Opnd) (s : State) : Out :=
  shuffle sm ty (.shfl c sm ty d a b x) s

/-- VOTE (R181). -/
def execVote (c : Ctl) (vm : VoteMode) (d a : Opnd) (s : State) : Out :=
  issue (.vote c vm d a) s fun x s => .ok (s.result x 8 fun _ => (voteValue vm x.lanes (predLanes s x 0), 0))

/-- MATCH (R182). -/
def execMatchI (c : Ctl) (ty : Ty) (d a : Opnd) (s : State) : Out :=
  issue (.matchI c ty d a) s fun x s =>
    let v (l : Nat) := fit ty (s.src x 0 l)
    .ok (s.result x 8 fun l => (x.list.foldl (fun m k => if v k = v l then m ||| Lanes.single k else m) 0, 0))

/-- PSET (R183). -/
def execPset (c : Ctl) (pc : PsetComb) (cmp : Cmp) (ty : Ty) (d a b x : Opnd) (s : State) : Out :=
  issue (.pset c pc cmp ty d a b x) s fun x s =>
    .ok (s.result x 2 fun l =>
      let r := psetCompare cmp ty (s.src x 0 l) (s.src x 1 l)
      (psetCombine pc (r.1 != 0) (s.src x 2 l != 0), r.2))

/-- PMOV.get (R184). -/
def execPmovGet (c : Ctl) (d : Opnd) (s : State) : Out :=
  issue (.pmovGet c d) s fun x s =>
    .ok (s.result x 2 fun l =>
      ((List.range 7).foldl (fun v n => if s.regWord x .t (48 + n) n l != 0 then v ||| ((1#64) <<< n) else v) 0, 0))

/-- PMOV.set (R184): the seven predicates are written 2 clk later. -/
def execPmovSet (c : Ctl) (a : Opnd) (s : State) : Out :=
  issue (.pmovSet c a) s fun x s =>
    let q := x.i.qField.isSome
    if q && x.lanes == 0 then .ok (s.finish x)
    else
      let t := s.start x fun o =>
        { o with due := some (s.clkOf x.g.core + 2 + (if x.wide then 1 else 0) + x.queueDelay), var := q, job := .preds,
                 vals := laneVals x.list (s.src x 0) }
      .ok (if q then t.askBanks s.nextId (s.ringAsks x) else t)

/-- The compact form `SHFL.idx.z32` (R52). SHFL (R180). -/
def execShflIdxCompact (c : CCtl) (d a b : COpnd) (s : State) : Out :=
  shuffle .idx .z32 (.shfl c.full .idx .z32 d.full a.full b.full .null) s

/-- The compact form `SHFL.up.z32` (R52). SHFL (R180). -/
def execShflUpCompact (c : CCtl) (d a b : COpnd) (s : State) : Out :=
  shuffle .up .z32 (.shfl c.full .up .z32 d.full a.full b.full .null) s

/-- The compact form `SHFL.down.z32` (R52). SHFL (R180). -/
def execShflDownCompact (c : CCtl) (d a b : COpnd) (s : State) : Out :=
  shuffle .down .z32 (.shfl c.full .down .z32 d.full a.full b.full .null) s

/-- The compact form `SHFL.xor.z32` (R52). SHFL (R180). -/
def execShflXorCompact (c : CCtl) (d a b : COpnd) (s : State) : Out :=
  shuffle .xor .z32 (.shfl c.full .xor .z32 d.full a.full b.full .null) s

/-- The compact form `MATCH.z32` (R52). MATCH (R182). -/
def execMatchZ32Compact (c : CCtl) (d a : COpnd) (s : State) : Out :=
  issue (.matchI c.full .z32 d.full a.full) s fun x s =>
    let v (l : Nat) := fit .z32 (s.src x 0 l)
    .ok (s.result x 8 fun l => (x.list.foldl (fun m k => if v k = v l then m ||| Lanes.single k else m) 0, 0))

/-- The compact form `MATCH.z64` (R52). MATCH (R182). -/
def execMatchZ64Compact (c : CCtl) (d a : COpnd) (s : State) : Out :=
  issue (.matchI c.full .z64 d.full a.full) s fun x s =>
    let v (l : Nat) := fit .z64 (s.src x 0 l)
    .ok (s.result x 8 fun l => (x.list.foldl (fun m k => if v k = v l then m ||| Lanes.single k else m) 0, 0))

end Sys2Proof.Machine
end

