-- ==== Sys2Proof/Machine/Lantern.lean ====
section
/-! DEFINITION. Lantern (R349 to R353): the mailbox commands of each stack's debug monitor, its events, and its hold on a group. -/

namespace Sys2Proof.Machine

/-! ## Requests and replies (R350, R351) -/

def lxOk : Nat := 0
def lxNoTarget : Nat := 1
def lxNotHalted : Nat := 2
def lxBadArg : Nat := 3
def lxBusy : Nat := 4
def lxTrapped : Nat := 5

/-- The words of a request that name its target: ASID, GROUP and SPLIT, and TASK. -/
def reqTarget (r : Request32) : List Word := [cellGet r 1, cellGet r 2, cellGet r 3]
def reqGroup (r : Request32) : Nat := (cellGet r 1).toNat / 2 ^ 14 % 32
def reqSplit (r : Request32) : Nat := (cellGet r 1).toNat / 2 ^ 19 % 8
def reqSplitV (r : Request32) : Bool := (cellGet r 1).getLsbD 22
def reqTask (r : Request32) : Nat := (cellGet r 2).toNat + 2 ^ 32 * (cellGet r 3).toNat
/-- ARG0, ARG1 and the words of DATA. -/
def lxArg (r : Request32) (k : Nat) : Nat := (cellGet r (4 + 2 * k)).toNat + 2 ^ 32 * (cellGet r (5 + 2 * k)).toNat
def lxData (r : Request32) (k : Nat) : Word := cellGet r (8 + k)

/-- A reply waits for the reply slot. -/
def State.lanternReply (s : State) (stack : Nat) (r : Request32) (status : Nat) (a0 a1 : DWord := 0) (data : List Word := []) : State :=
  let l := s.lanternAt stack
  s.setLantern stack { l with replies := l.replies ++ [lanternMessage (reqCmd r) (reqSeq r) status (reqTarget r) a0 a1 data] }

/-- Lantern takes a request, clearing OWN, and serves it; while a HALT or STEP is not done, any other command is BUSY. -/
def lanternServe (stack cmd : Nat) (s : State) (k : Request32 → State → State) : Out :=
  let l := s.lanternAt stack
  let r := l.request
  if 8 ≤ stack || s.stage != 7 || s.stopped || !slotOwned r || reqCmd r != cmd || !l.replies.isEmpty then .fault .notEnabled
  else
    let t := s.setLantern stack { l with request := cellSet r 0 (cellGet r 0 &&& 0x7FFFFFFF) }
    .next (if l.waiting.isSome then t.lanternReply stack r lxBusy else k r t)

/-- The group that a request names: resident, of a context created with debugging, not ended, and of this stack. -/
def State.lanternTarget? (s : State) (stack : Nat) (r : Request32) : Option Group :=
  match s.context? (reqAsid r) with
  | none => none
  | some c =>
    if !c.debug then none
    else
      (s.groups.map (·.2)).find? fun (g : Group) =>
        g.idx == reqGroup r && g.core / 32 == stack && g.place != .ended &&
          (match s.teamOf g with | some t => t.asid == c.asid && t.task == reqTask r | none => false)

def withTarget (stack : Nat) (r : Request32) (s : State) (k : Group → State) : State :=
  match s.lanternTarget? stack r with
  | none => s.lanternReply stack r lxNoTarget
  | some g => k g

def withHalted (stack : Nat) (r : Request32) (s : State) (k : Group → State) : State :=
  withTarget stack r s fun g => if g.debug = .halted then k g else s.lanternReply stack r lxNotHalted

/-- The program counter of the split that the picker would take next, and the mask of live splits. -/
def State.nextPc (s : State) (g : Group) : DWord := match s.nextSplit g with | some sp => sp.pc | none => 0
def Group.liveMask (g : Group) : Nat := (g.bk.splits.map fun sp => 2 ^ sp.id).sum

/-! ## HALT, RESUME, BREAK, SPLITS, STEP (R352, R353) -/

/-- HALT: a group without a slot halts at its next activation. -/
def execHaltCmd (stack : Nat) (s : State) : Out :=
  lanternServe stack 1 s fun r s => withTarget stack r s fun g =>
    if g.slot?.isSome then
      let g := { g with debug := .halted }
      (s.setGroup g).lanternReply stack r lxOk (s.nextPc g) (BitVec.ofNat 64 g.liveMask)
    else
      let l := s.lanternAt stack
      (s.setGroup { g with debug := .atActivation }).setLantern stack
        { l with waiting := some { words := cellGet r 0 :: reqTarget r, grp := g.uid, job := .halt } }

/-- RESUME. -/
def execResumeCmd (stack : Nat) (s : State) : Out :=
  lanternServe stack 6 s fun r s => withHalted stack r s fun g =>
    (s.setGroup { g with debug := .run }).lanternReply stack r lxOk

/-- BREAK: one of the stack's four addresses is armed or disarmed. -/
def execBreakCmd (stack : Nat) (s : State) : Out :=
  lanternServe stack 5 s fun r s =>
    let key := stack * 4 + lxArg r 1 % 4
    let s := { s with
      breaks := if (lxArg r 1).testBit 2 then tabSet s.breaks key (BitVec.ofNat 64 (lxArg r 0)) else tabErase s.breaks key }
    s.lanternReply stack r lxOk

/-- SPLITS. -/
def execSplitsCmd (stack : Nat) (s : State) : Out :=
  lanternServe stack 7 s fun r s => withTarget stack r s fun g =>
    let next := match s.nextSplit g with | some sp => sp.id | none => 0
    let a0 := BitVec.ofNat 64 (g.liveMask + 256 * next)
    match g.bk.split? (reqSplit r) with
    | none => s.lanternReply stack r lxOk a0
    | some sp =>
      let join : DWord := match sp.join.bind fun j => g.bk.recs.find? fun x => x.id == j with | some x => x.addr | none => 0
      s.lanternReply stack r lxOk a0 sp.lanes
        [sp.pc.extractLsb' 0 32, sp.pc.extractLsb' 32 32, join.extractLsb' 0 32, join.extractLsb' 32 32]

/-- STEP: one instruction of one split. -/
def execStepCmd (stack : Nat) (s : State) : Out :=
  lanternServe stack 4 s fun r s => withHalted stack r s fun g =>
    if reqSplitV r && (g.bk.split? (reqSplit r)).isNone then s.lanternReply stack r lxBadArg
    else
      let l := s.lanternAt stack
      let step : Debug := .step (if reqSplitV r then some (reqSplit r) else none)
      (s.setGroup { g with debug := step, trapped := none }).setLantern stack
        { l with waiting := some { words := cellGet r 0 :: reqTarget r, grp := g.uid, job := .step } }

/-! ## READ and WRITE (R348, R352) -/

/-- The 32 bits of a lane that a READ returns: of the user's frozen levels. None where the field names nothing that can be read. -/
def State.lanternRead (s : State) (g : Group) (u : Opnd) (high : Bool) (lane : Nat) : Option Word :=
  let n := u.idx.toNat
  let g' := { g with hand := none }
  let pick (lo hi : Word) : Word := if high then hi else lo
  let none_ : Split :=
    { id := 0, lanes := 0, pc := 0, join := none, sfile := [], written := 0, own := false, held := false, last := 0, base := 0
      notBefore := 0, waited := 0 }
  let sp : Split := match g.bank.splitOfLane? lane with | some sp => sp | none => g.bank.splits.headD none_
  let x : Issue :=
    { i := .nop ⟨0, 0, 0, false, false, false, 0⟩, c := ⟨0, 0, 0, false, false, false, 0⟩, g := g', sp := sp, pc := sp.pc, len := 0
      lanes := sp.lanes, bits := 0 }
  match u.lvl with
  | .w =>
    if 8 ≤ n then none
    else
      let v := match (tabGetD g.bank.win lane [])[n]? with | some e => e.val | none => 0
      some (pick (w32 v) (v.extractLsb' 32 32))
  | .n =>
    if (if g.width = 64 then 16 else 32) ≤ n + high.toNat then none
    else some (cellGet g.bank.nval (laneKey (n + high.toNat) lane))
  | .d => if g.dslots ≤ n + high.toNat then none else some (g.dGet (n + high.toNat) lane)
  | .s => if 64 ≤ n + high.toNat then none else some (cellGet sp.sfile (n + high.toNat))
  | .t =>
    if (35 ≤ n && n < 48) || 64 ≤ n + high.toNat then none else some (s.tWord x (n + high.toNat) lane)
  | .k => match s.launchOf g with | some l => some (cellGet l.kbank (n + high.toNat)) | none => none
  | _ => none

/-- A WRITE of a lane's 32 bits. None where the field names nothing that can be written. -/
def State.lanternWrite (s : State) (grp : Nat) (u : Opnd) (high : Bool) (lane : Nat) (v : Word) : Option State :=
  match s.group? grp with
  | none => none
  | some g =>
    let n := u.idx.toNat
    match u.lvl with
    | .w =>
      if 8 ≤ n then none
      else
        let old := match (tabGetD g.bank.win lane [])[n]? with | some e => e.val | none => 0
        let new : DWord := if high then v ++ old.extractLsb' 0 32 else old.extractLsb' 32 32 ++ v
        some (s.setGroup { g with bank := uwriteLane g.bank u true lane new })
    | .n =>
      if (if g.width = 64 then 16 else 32) ≤ n % 32 + high.toNat then none
      else
        let u' : Opnd := ⟨.n, u.idx + BitVec.ofNat 8 high.toNat⟩
        let b := uwriteLane g.bank u' false lane (ofW v)
        some (s.setGroup { g with bank := { b with nst := setNear b.nst { op := u', wide := false, shift := false, predicate := false } } })
    | .d => if g.dslots ≤ n + high.toNat then none else some (s.setGroup (g.dSet (n + high.toNat) lane v))
    | .s =>
      if 64 ≤ n + high.toNat then none
      else
        match g.bank.splitOfLane? lane with
        | some sp => some (s.setGroup { g with bank := g.bank.setSplit (sp.sSet (n + high.toNat) v) })
        | none => some s
    | .t =>
      if n + high.toNat < 16 then
        some (s.modTeam g.team fun t => { t with tregs := cellSet t.tregs (n + high.toNat) v, twrites := t.twrites.filter fun w => w.reg != n + high.toNat })
      else if n = 33 && !high then some (s.setGroup { g with smerge := v &&& 3 })
      else none
    | _ => none

/-- The operand field, the first lane and the lanes of a READ or WRITE, none past the group's width. -/
def reqOpnd (r : Request32) : Opnd := Opnd.ofBits (BitVec.ofNat 11 (lxArg r 0))
def reqHigh (r : Request32) : Bool := (lxArg r 0).testBit 24
def reqLanes (r : Request32) (g : Group) : List Nat :=
  ((List.range 8).map (lxArg r 0 / 2 ^ 16 % 64 + ·)).filter fun l => decide (l < g.width)

/-- The words that a READ returns, lane by lane; none where the field names nothing that can be read. -/
def State.lanternReads (s : State) (r : Request32) (g : Group) : Option (List Word) :=
  match (reqLanes r g).mapM (s.lanternRead g (reqOpnd r) (reqHigh r)) with
  | some (w :: ws) => some (w :: ws)
  | _ => none

/-- Lantern enters the handler bank of a halted group at its debug entry (R349): HCAUSE.DEBUG is 1. In a group that has halted in its
handler it acts from where it is (log entry 53). An instruction that still holds the group's issue has not reached its boundary: Lantern
enters when it has. -/
def State.debugEntry (s : State) (g : Group) : State :=
  if g.hand.isSome || g.hold matches .op _ then s
  else
    let next := s.nextSplit g
    let d : Delivery :=
      { id := 0, clk := s.clkOf g.core, notice := false, code := 0, sw := false, split := match next with | some sp => sp.id | none => 0
        pc := s.nextPc g, len := 0, addr := 0, more := false, resume := .same, gather := none, debug := true }
    s.setGroup { g with
      hand := some { bank := handlerBank g d (s.clkOf g.core) (s.nextPc g), serves := d, serial := g.handSerial, exit := none, mapreq := none }
      handSerial := g.handSerial + 1 }

/-- Lantern leaves the handler bank. -/
def Group.debugExit (g : Group) : Group := if g.hand.any (·.serves.debug) then { g with hand := none } else g

/-- A READ or WRITE begins: Lantern is in the group's handler bank until it is done. -/
def State.lanternAccess (s : State) (stack : Nat) (r : Request32) (g : Group) : State :=
  let l := s.lanternAt stack
  (s.debugEntry g).setLantern stack { l with waiting := some { words := cellGet r 0 :: reqTarget r, grp := g.uid, job := .access r } }

/-- READ. -/
def execReadCmd (stack : Nat) (s : State) : Out :=
  lanternServe stack 2 s fun r s => withHalted stack r s fun g =>
    if (s.lanternReads r g).isSome then s.lanternAccess stack r g else s.lanternReply stack r lxBadArg

/-- The words of a WRITE, lane by lane. -/
def State.lanternWrites (s : State) (r : Request32) (grp : Nat) : List (Nat × Nat) → Option State
  | [] => some s
  | (k, l) :: rest =>
    match s.lanternWrite grp (reqOpnd r) (reqHigh r) l (lxData r k) with
    | some s => State.lanternWrites s r grp rest
    | none => none

/-- The whole of a WRITE to a group; none where the field names nothing that can be written. -/
def State.lanternStores (s : State) (r : Request32) (g : Group) : Option State :=
  let ls := reqLanes r g
  if ls.isEmpty then none else s.lanternWrites r g.uid ((List.range ls.length).zip ls)

/-- WRITE. -/
def execWriteCmd (stack : Nat) (s : State) : Out :=
  lanternServe stack 3 s fun r s => withHalted stack r s fun g =>
    if (s.lanternStores r g).isSome then s.lanternAccess stack r g else s.lanternReply stack r lxBadArg

/-- Whether the UREAD of a READ still waits for the user's instructions in flight to what it names (R348, R352). A WRITE of half a W entry
reads the entry first. -/
def State.accessWaits (s : State) (r : Request32) (g : Group) : Bool :=
  let u := reqOpnd r
  match u.lvl with
  | .w => s.userWriting g u true
  | .n => reqCmd r == 2 && s.userWriting g ⟨.n, u.idx + BitVec.ofNat 8 (reqHigh r).toNat⟩ false
  | _ => false

/-- A READ or WRITE ends: its reply's status and DATA, and the device after it; none while its UREAD waits. -/
def State.accessDone (s : State) (grp : Nat) (r : Request32) : Option (Nat × List Word × State) :=
  match s.group? grp with
  | none => some (lxNoTarget, [], s)
  | some g =>
    if g.place = .ended then some (lxNoTarget, [], s)
    else if g.hold matches .op _ then none
    else if s.accessWaits r g then none
    else
      let s := s.debugEntry g
      let leave (s : State) : State := s.modGroup grp Group.debugExit
      if reqCmd r = 2 then
        match s.lanternReads r g with
        | some ws => some (lxOk, ws, leave s)
        | none => some (lxBadArg, [], leave s)
      else
        match s.lanternStores r g with
        | some t => some (lxOk, [], leave t)
        | none => some (lxBadArg, [], leave s)

/-! ## Events, and what becomes of a command that takes time (R351, R353) -/

/-- LANTERN_EVENT: the oldest queued event is written into the reply slot, and the oldest pending one takes its place in the queue. -/
def execLanternEvent (stack : Nat) (s : State) : Out :=
  let l := s.lanternAt stack
  match l.events with
  | [] => .fault .notEnabled
  | e :: es =>
    if s.stage != 7 || s.stopped || slotOwned l.reply || l.waiting.isSome || !l.replies.isEmpty then .fault .notEnabled
    else .next (s.setLantern stack { l with reply := putSlot e, events := es ++ l.pending.take 1, pending := l.pending.drop 1 })

/-- A stepped group is halted again once its instruction has issued and, if it holds fetch, has been checked; one that has left its slot
halts at its next activation. -/
def State.haltAgain (s : State) (g : Group) : State :=
  if g.debug != .stepping || g.hold matches .op _ then s
  else s.setGroup { g with debug := if g.slot?.isSome then .halted else .atActivation }

/-- The reply of a HALT or STEP that is done: its status, ARG0 and ARG1. -/
def State.lanternDone (s : State) (w : LanternWait) : Option (Nat × DWord × DWord) :=
  let step := decide (w.job = .step)
  match s.group? w.grp with
  | none => some (if step then lxOk else lxNoTarget, 0, 0)
  | some g =>
    let trap : Nat × DWord := match g.trapped with | none => (lxOk, 0) | some code => (lxTrapped, code.setWidth 64)
    if g.place = .ended then some (if step then (trap.1, 0, trap.2) else (lxNoTarget, 0, 0))
    else if step then
      match g.debug with
      | .step _ | .stepping => none
      | _ =>
        let pc : DWord := match g.bk.split? g.bk.lastSplit with | some sp => sp.pc | none => s.nextPc g
        some (trap.1, pc, trap.2)
    else
      match g.debug with
      | .atActivation => none
      | _ => some (lxOk, s.nextPc g, BitVec.ofNat 64 g.liveMask)

/-- What a command that takes time has come to, once it is done: its status, ARG0, ARG1 and DATA, and the device after it. -/
def State.waitDone (s : State) (w : LanternWait) : Option ((Nat × DWord × DWord × List Word) × State) :=
  match w.job with
  | .access r => (s.accessDone w.grp r).map fun e => ((e.1, 0, 0, e.2.1), e.2.2)
  | _ => (s.lanternDone w).map fun e => ((e.1, e.2.1, e.2.2, []), s)

/-- Lantern between its events: what is done is answered, the oldest reply goes into the reply slot once the host has cleared OWN, and a
request with an unknown command is answered. -/
def State.lanternSettle (s : State) (stack : Nat) : State :=
  let q : Lantern × State :=
    let l := s.lanternAt stack
    match l.waiting with
    | none => (l, s)
    | some w =>
      match s.waitDone w with
      | none => (l, s)
      | some (e, s) =>
        let h := (w.words.headD 0).toNat
        ({ l with
            waiting := none
            replies := l.replies ++ [lanternMessage (h % 256) (h / 256 % 256) e.1 (w.words.drop 1) e.2.1 e.2.2.1 e.2.2.2] }, s)
  let l := q.1
  let s := q.2
  let l := match l.replies with
    | e :: es => if slotOwned l.reply then l else { l with reply := putSlot e, replies := es }
    | [] => l
  let s := if l = s.lanternAt stack then s else s.setLantern stack l
  let cmd := reqCmd l.request
  if s.stage == 7 && !s.stopped && slotOwned l.request && l.replies.isEmpty && (cmd == 0 || decide (7 < cmd)) then
    (s.setLantern stack { l with request := cellSet l.request 0 (cellGet l.request 0 &&& 0x7FFFFFFF) }).lanternReply stack l.request lxBadArg
  else s

end Sys2Proof.Machine
end

