-- ==== Sys2Proof/Machine/Perform.lean ====
section
/-! DEFINITION. The two events of the ordering machine that every outstanding access shares (R259): performing and completing. -/

namespace Sys2Proof.Machine

/-- Bytes of the object of a held instruction: a template, a descriptor, a channel or another cell. -/
def objectBytes : Instr → Nat
  | .spawn .. => 256
  | .depdec .. | .tdone .. => 64
  | .ftest .. => 32
  | _ => 16

/-- A held instruction's access is performed. -/
def State.objectNow (s : State) (o : Op) (g : Group) (va pa : Nat) (wide : Bool) (value : DWord) : State :=
  let asid := s.asidOf g
  let s := s.meterSlice g.team (.glob pa)
  match o.instr with
  | .spawn .. => s.spawnNow o g asid va value.toNat
  | .depdec .. => s.depdecNow o asid va
  | .tdone .. => s.tdoneNow o asid va pa value.toNat
  | _ => s.cellNow o asid (match s.team? g.team with | some t => t.task | none => 0) va pa wide value

/-- A step of an engine (R267): of a COPY's or slice's thread, of a PUT, GET or RATOM, or of a collective. -/
def State.engineStep (s : State) (uid unit : Nat) : Option State :=
  match s.thread? uid, s.remote? uid, s.coll? uid with
  | some t, _, _ => t.words[unit]?.map fun w => s.moveWord t unit w
  | _, some r, _ => s.devid.bind fun own => s.remoteStep r own unit
  | _, _, some k => s.collStep k unit
  | _, _, _ => none

/-- The places that the next read or write of an engine thread's word reaches; its translation may be cached in the core. -/
def State.wordPlaces (s : State) (t : Thread) (w : TWord) : List Nat :=
  let at_ := if w.val.isNone then (t.src, w.src) else (t.dst, w.dst)
  let need : Need := if w.val.isNone then .read else .write
  if at_.1 != .glob then []
  else if s.tlb.any fun e => e.core == t.core && e.asid == t.asid && e.vpage == at_.2 / 2 ^ 16 then
    match s.xlateWalk t.asid at_.2 need t.priv with | .ok pa _ _ _ _ => [pa] | .fault .. => []
  else s.placesOf t.asid at_.2 need t.priv

/-- Those of a step of a PUT's engine: the words that it reads next, and, where they may be the last, the source counter. -/
def State.putPlaces (s : State) (r : Remote) (unit : Nat) : List Nat :=
  match r.kind, r.todo[unit]? with
  | .put, some a => s.localPlaces r a (min 256 (r.len - a)) ++ (if r.todo.length ≤ 64 then s.ownCounter r.asid r.win else [])
  | .put, none => s.ownCounter r.asid r.win
  | _, _ => []

/-- Those of an element of a collective. -/
def State.elementPlaces (s : State) (k : Coll) (unit : Nat) : List Nat :=
  match (k.toRead ++ k.toWrite)[unit]? with
  | some e => s.placesOf k.asid (k.base + e * collBytes k.fmt) .read k.priv
  | none => []

/-- The places in device memory that an access takes to their home slices: an access that misses, an engine's step, a held instruction's
object. -/
def State.requestPlaces (s : State) (op unit : Nat) : List Nat :=
  match s.thread? op, s.remote? op, s.coll? op, s.op? op with
  | some t, _, _, _ => match t.words[unit]? with | some w => s.wordPlaces t w | none => []
  | none, some r, _, _ => s.putPlaces r unit
  | none, none, some k, _ => s.elementPlaces k unit
  | none, none, none, some o =>
    match o.job, s.group? o.grp with
    | .access a, some g =>
      (match a.units[unit]? with
       | some u => (match u.loc with | .glob pa => if s.hitsCopy g a u then [] else [pa] | _ => [])
       | none => [])
    | .almanac _ pa _ _, _ => [pa]
    | _, _ => []
  | none, none, none, none => []

/-- What is performed where no maintenance holds the request. -/
def performNow (op unit : Nat) (s : State) : Out :=
  match s.engineStep op unit with
  | some t => .next t
  | none =>
  match s.op? op with
  | none => .fault .notEnabled
  | some o =>
    match o.job, s.group? o.grp with
    | .access a, some g =>
      match a.units[unit]? with
      | none => .fault .notEnabled
      | some u =>
        if a.coalesced then
          if unit = 0 && (List.range a.units.length).all (fun i =>
              match a.units[i]? with | some v => s.mayPerform o g a i v | none => true) then
            .next (s.performAll op a)
          else .fault .notEnabled
        else if s.mayPerform o g a unit u then .next (s.performUnit op unit)
        else .fault .notEnabled
    | .almanac va pa wide value, some g =>
      if s.mayAttempt o pa (objectBytes o.instr) then .next (s.objectNow o g va pa wide value) else .fault .notEnabled
    | .matrix m, _ => match s.matrixUnit o m unit with | some s => .next s | none => .fault .notEnabled
    | _, _ => .fault .notEnabled

/-- ACCESS_PERFORM: one lane's access, or a fully coalesced access whole, is performed; an engine takes a step; a matrix instruction reads or
writes a word (R194); or a held instruction's access to its object is performed (R298, R299, R301, R322); each where no
maintenance action holds it (R386). -/
def execAccessPerform (op unit : Nat) (s : State) : Out := s.holdOr (fun s => s.requestPlaces op unit) (.accessPerform op unit) (performNow op unit s)

/-- ACCESS_COMPLETE: an access, a fence, a range instruction or a wait for the Reel completes, or an answer returns. -/
def execAccessComplete (op : Nat) (s : State) : Out :=
  match s.op? op with
  | none => .fault .notEnabled
  | some o =>
    match o.job, s.group? o.grp with
    | .access a, some g =>
      match a.kind, a.release with
      | .store _, some sc =>
        if s.releaseMet g o.uid sc then
          .next (((s.setOp { o with job := .access { a with release := none } }).dropCopies g.core a.units).unhold o)
        else .fault .notEnabled
      | _, _ => if s.accessOver o a then .next (s.completeAccess o a) else .fault .notEnabled
    | .fence sc half, some g =>
      if !s.releaseMet g o.uid sc then .fault .notEnabled
      else
        let s := if half = .full then s.modGroup o.grp fun g => { g with acquire := now s } else s
        .next (s.completeHeld o)
    | .range r va len, some _ => .next ((s.rangeDone o r va len).finishOp o)
    | .wstat pa va, some _ =>
      s.holdOr (fun _ => [pa]) (.accessComplete op) (if s.mayAttempt o pa 8 then .next (s.wstatNow o pa va) else .fault .notEnabled)
    | .answer, some _ => if s.opDue o then .next (s.completeHeld o) else .fault .notEnabled
    | .reelWait core ctx serial, some _ =>
      if s.opDue o && s.reelOver core ctx serial then .next (s.finishOp o) else .fault .notEnabled
    | _, _ => .fault .notEnabled

end Sys2Proof.Machine
end

