-- ==== Sys2Proof/Machine/Power.lean ====
section
/-! DEFINITION. Energy accounts, limits, clocks, cold start and maintenance (R378 to R389). -/

namespace Sys2Proof.Machine

/-! ## The account tick (R379 to R382) -/

/-- What one meter is charged at the n-th tick (R379): of the energy that the rails of its place delivered, the share of its units in the
place's, in whole µJ. -/
def State.charge (s : State) (n : Nat) (m : Meter) : Nat :=
  Config.railEnergy n m.place * m.units / ((s.meters.filter fun x => x.place == m.place).map (·.units)).sum

/-- What the meters that satisfy `p` are charged together. -/
def State.charges (s : State) (n : Nat) (p : Meter → Bool) : Nat := ((s.meters.filter p).map (s.charge n)).sum

/-- A launch after a tick: its spent total, to which the teams of the launches spawned from it add (R382), and whether that has reached its
cap. -/
def State.tickLaunch (s : State) (n : Nat) (l : Launch) : Launch :=
  let used := l.used + s.charges n fun m => m.launches.contains l.uid
  { l with used := used, capped := l.capped || (l.ecap != 0 && decide (l.ecap * 1000 ≤ used)) }

/-- A context's account after a tick (R378, R379): RATE * 100 µs is RATE / 10 µJ, rounded down (log entry 28). -/
def State.tickContext (s : State) (n : Nat) (c : Context) : Context :=
  let set := c.next.getD (c.rate, c.ceil, c.allow)
  let spent := s.charges n fun m => m.asid == c.asid
  let bal := min (c.bal - (spent : Int) + ((set.1.toNat / 10 : Nat) : Int)) ((set.2.1.toNat * 1000 : Nat) : Int)
  let past : Bool := decide (((set.2.2.toNat * 1000 : Nat) : Int) < -bal)
  { c with
    rate := set.1, ceil := set.2.1, allow := set.2.2, next := none, bal := bal
    isOver := past, heldOff := (c.heldOff || past) && decide (bal ≤ 0) }

/-- The teams that are asked to leave at a tick: those of a context past its allowance, and of a launch that has reached its cap. -/
def State.tickLeaves (s : State) (t : Team) : Bool :=
  (match s.context? t.asid with | some c => c.isOver | none => false) || s.capReached t.launch

/-- ACCOUNT_TICK (R379 to R382). -/
def execAccountTick (s : State) : Out :=
  if s.stopped || now s < s.lastTick + Config.accountTick then .fault .notEnabled
  else
    let at_ := s.lastTick + Config.accountTick
    let n := at_ / Config.accountTick
    let t := { s with
      lastTick := at_
      meters := []
      contexts := s.contexts.map fun (e : Nat × Context) => (e.1, s.tickContext n e.2)
      launches := s.launches.map fun (e : Nat × Launch) => (e.1, s.tickLaunch n e.2) }
    let t := ((t.teams.map (·.2)).filter t.tickLeaves).foldl (fun (t : State) (m : Team) => t.requestTeam m.uid .energy) t
    .next ((t.contexts.map (·.2)).foldl State.releaseParked t)

/-! ## Limits and clocks (R383, R384) -/

/-- A core's clock changes. -/
def State.setClock (s : State) (core : Nat) (f : Clock → Clock) : State :=
  { s with clocks := tabSet s.clocks core (f (s.clockOf core)) }

/-- CURRENT_LIMIT (R383): the analogue limiter lengthens every clk of the cores on the compute dies that the affected rail feeds by so many
1/33 ns; 0 when the current is below the limit. -/
def execCurrentLimit (x : RailStretch) (s : State) : Out :=
  if s.stopped then .fault .notEnabled
  else
    .next (((List.range 256).filter fun core => x.dies.getLsbD (core / 32)).foldl (fun (s : State) core =>
      s.setClock core fun c => { c with stretch := x.stretch }) s)

/-- THERMAL_TRIP (R383): every clock stops and the host link drops. -/
def execThermalTrip (s : State) : Out := if s.stopped then .fault .notEnabled else .next { s with stopped := true }

/-- DROOP (R384): one clk of a core is longer by so many 1/33 ns. -/
def execDroop (x : CoreStretch) (s : State) : Out :=
  if s.stopped || 256 ≤ x.core then .fault .notEnabled
  else .next (s.setClock x.core fun c => { c with edge := c.edge + x.stretch })

/-- TRACKING_LOOP (R384): a core's clock runs at another frequency, at most 3,300 MHz. -/
def execTrackingLoop (x : CoreRate) (s : State) : Out :=
  if s.stopped || 256 ≤ x.core || x.mhz = 0 || 3300 < x.mhz then .fault .notEnabled
  else .next (s.setClock x.core fun c => { c with mhz := x.mhz })

/-! ## Cold start (R385, R388) -/

/-- BOOTST, which the host reads over the UCIe sideband (R385): the sideband is firmware's, and no message of it changes anything here (log
entry 33). -/
def State.bootst (s : State) : Word := BitVec.ofNat 32 (s.stage.toNat + 2 ^ 4 * s.fail.toNat + 2 ^ 8 * s.tjmin.toNat)

/-- The capability list is written at CAPBASE (R25, R337), where it then stands unchanged (R27). -/
def State.writeCaps (s : State) : State :=
  if inDram Config.capBase.toNat 136 then
    { s with
      dram := writeBytes s.dram Config.capBase.toNat (s.capWords.flatMap fun w => leBytes w.toNat 4)
      capList := some Config.capBase.toNat }
  else s

/-- The firmware image that is offered is verified: it runs, or the device waits for the host's (R388). The flash keeps its own. -/
def State.verifyImage (s : State) (image : List Byte) : State :=
  if Config.imageVerifies image then { s with stage := 5, fail := false, image := image }
  else { s with stage := 4, fail := true }

/-- POWER_GOOD (R385): the boot ROM's next stage, with the coldest junction's reading. After a thermal trip the cold start begins
anew; what the part and its flash hold stays. -/
def execPowerGood (tjmin : BitVec 8) (s : State) : Out :=
  if s.stopped then
    .next { State.reset with fresh := s.fresh, grade := s.grade, coreMask := s.coreMask, flash := s.flash }
  else
    let s := { s with tjmin := tjmin }
    let cold := tjmin.slt 0
    match s.stage.toNat with
    | 0 => .next { s with stage := if cold then 1 else 2 }
    | 1 => .next (if cold then s else { s with stage := 2 })
    | 2 => .next { s with stage := 3 }
    | 3 => .next (s.verifyImage s.flash)
    | 5 => .next { s with stage := 6 }
    | 6 => .next { s.writeCaps with stage := 7 }
    | _ => .fault .notEnabled

/-- HOST_IMAGE_OFFER (R388). -/
def execHostImageOffer (image : List Byte) (s : State) : Out :=
  if s.stopped || s.stage != 4 then .fault .notEnabled else .next (s.verifyImage image)

/-! ## Maintenance (R386, R387) -/

/-- A maintenance action begins: accesses in flight are whole steps of the model, which have completed. -/
def State.beginMaint (s : State) (column : Nat) (repair : Bool) : State :=
  { s with maint := s.maint ++ [{ column := column, repair := repair, since := now s, arrived := [] }] }

/-- A maintenance action ends: the requests that it has held are performed in the order of their arrival, before any other. -/
def State.endMaint (s : State) (m : Maint) : State := { s with maint := s.maint.erase m, agenda := m.arrived ++ s.agenda }

/-- Whether maintenance may go on at a column. -/
def State.mayMaintain (s : State) (column : Nat) : Bool := !s.stopped && s.stage == 7 && decide (column < 256)

/-- CHANNEL_RETRAIN (R386): the retraining of a column's pair of channels begins, one pair at a time and while no other action runs in its
columns; or, where it is under way, ends. -/
def execChannelRetrain (column : Nat) (s : State) : Out :=
  if !s.mayMaintain column then .fault .notEnabled
  else
    match s.maint.find? fun m => !m.repair && m.column / 2 == column / 2 with
    | some m => .next (s.endMaint m)
    | none =>
      if s.maint.any fun m => !m.repair || m.column / 2 == column / 2 then .fault .notEnabled else .next (s.beginMaint column false)

/-- BUS_REPAIR (R387): the repair of a column's vertical bus begins while no other action runs in the column; or, where it is under way,
ends. -/
def execBusRepair (column : Nat) (s : State) : Out :=
  if !s.mayMaintain column then .fault .notEnabled
  else
    match s.maint.find? fun m => m.repair && m.column == column with
    | some m => .next (s.endMaint m)
    | none => if (s.maintAt column).isSome then .fault .notEnabled else .next (s.beginMaint column true)

/-- The bound on what a maintenance action holds up: 50 µs (R386), in ns. -/
def maintBound : Nat := 50000

/-- The event that ends an action. -/
def Maint.over (m : Maint) : Instr := if m.repair then .busRepair m.column else .channelRetrain m.column

end Sys2Proof.Machine
end

