-- ==== Sys2Proof/Machine/Transfer.lean ====
section
/-! DEFINITION. Queue instructions, COPY and the Reel's instructions, and the events of the engines (R221 to R234). -/

namespace Sys2Proof.Machine

/-! ## Queue instructions (R221 to R224) -/

/-- The ring base of QINIT as the queue keeps it: the half in bit 19, counted from the even core of the team. -/
def ringBase (t : Team) (core a : Nat) : Nat :=
  let half := a / 2 ^ 19 % 2
  (if core = t.core then half else 1 - half) * 2 ^ 19 + a % 2 ^ 19

/-- QINIT's effect on the team (R222): the issuing group observes it, the others as `Team.seenQueue` says. DESIGN CHOICE (log entry 50):
of two QINITs of one queue with no ordering event between, the other groups observe the state before the second. -/
def Team.initQueue (t : Team) (qn idx now : Nat) (q : Queue) : Team :=
  { t with before := tabSet t.before qn { queue := t.queue qn, since := now, seen := [idx] } }.setQueue qn q

/-- QINIT (R222): it applies at issue and completes 4 clk later. -/
def execQinit (c : Ctl) (qn : BitVec 4) (a b : Opnd) (s : State) : Out :=
  issue (.qinit c qn a b) s fun x s =>
    match s.teamOf x.g with
    | none => .ok (s.finish x)
    | some t =>
      if x.lanes = 0 then .ok (s.finish x)
      else
        let base := (w32 (s.srcLow x 0)).toNat
        let slots := (w32 (s.srcLow x 1)).toNat
        match s.coreLoc t x.g.core base 4 (4 * slots) true with
        | .error e => .error (Trap.one e x.sp.lanes (BitVec.ofNat 64 base))
        | .ok _ =>
          if slots = 0 || 255 < slots then .error (x.trap tcOperand)
          else
            let q : Queue :=
              { init := true, size := slots, head := 0, tail := 0, free := slots, filled := 0, base := ringBase t x.g.core base
                reserved := [], held := [] }
            .ok ((s.modTeam t.uid fun t => t.initQueue qn.toNat x.g.idx (now s) q).laterNone x 4)

/-- QPUSH (R217, R219, R223): the position is reserved at issue; QUEUE_LAND writes the handle 24 clk later, or as the ring word's bank has
it. -/
def execQpush (c : Ctl) (qn : BitVec 4) (a : Opnd) (s : State) : Out :=
  issue (.qpush c qn a) s fun x s =>
    match s.teamOf x.g with
    | none => .ok (s.finish x)
    | some t =>
      if x.lanes = 0 then .ok (s.finish x)
      else if !t.initFor x qn.toNat then .error (x.trap tcOperand)
      else
        let uid := s.nextId
        let handle := w32 (s.srcLow x 0)
        let s := s.modTeam t.uid fun t => t.setQueue qn.toNat ((t.queue qn.toNat).reserve uid)
        .ok ((s.start x fun o => { o with due := some (s.clkOf x.g.core + 24), job := .push t.uid qn.toNat uid handle }).askBanks uid
          [t.ringAsk false qn.toNat])

/-- QPOP (R217, R223): every active lane receives the handle at HEAD. -/
def execQpop (c : Ctl) (qn : BitVec 4) (d : Opnd) (s : State) : Out :=
  issue (.qpop c qn d) s fun x s =>
    match s.teamOf x.g with
    | none => .ok (s.finish x)
    | some t =>
      let q := t.queue qn.toNat
      if x.lanes = 0 then .ok (s.finish x)
      else if !t.initFor x qn.toNat then .error (x.trap tcOperand)
      else if s.poisoned (.scratch (t.ringKey q q.head)) 4 then
        .error (Trap.one tcMem x.lanes (BitVec.ofNat 64 (q.base + 4 * q.head)) 2)
      else
        let handle := s.ringWord t q q.head
        let s := s.modTeam t.uid fun t => t.popQueue qn.toNat x.g.idx
        .ok ((s.start x fun o =>
          { o with due := some (s.clkOf x.g.core + 24), vals := laneVals x.list fun _ => ofW handle, job := .popped }).askBanks s.nextId
          [t.ringAsk true qn.toNat])

/-- The state word of QSTAT (R224). -/
def statWord (q : Queue) (idx : Nat) : Word :=
  if q.init then
    (0#6) ++ BitVec.ofBool (tabGet? q.held idx).isSome ++ (1#1) ++ BitVec.ofNat 8 q.size ++ BitVec.ofNat 8 q.free ++
      BitVec.ofNat 8 q.filled
  else 0

/-- QSTAT (R224). -/
def execQstat (c : Ctl) (qn : BitVec 4) (d : Opnd) (s : State) : Out :=
  issue (.qstat c qn d) s fun x s =>
    let w := match s.teamOf x.g with | some t => statWord (t.seenQueue qn.toNat x.g.idx x.g.acquire) x.g.idx | none => 0
    .ok (s.later x 8 fun _ => ofW w)

/-! ## COPY (R225 to R228) -/

/-- The limits of R226 on the four shape registers and the addresses: the code that a bad one raises, and the address where that is
bad. -/
def shapeBad (rows bytes sstride dstride : Nat) (addrs : List Nat) : Option (BitVec 8 × Option Nat) :=
  if 65535 < rows || 16777216 < bytes then some (tcOperand, none)
  else if bytes % 4 != 0 || sstride % 4 != 0 || dstride % 4 != 0 then some (tcAlign, none)
  else (addrs.find? fun a => a % 4 != 0).map fun a => (tcAlign, some a)

/-- A precise failure of an engine instruction's check of a scratch address. -/
def engineTrap (x : Issue) (e : BitVec 8 × Nat) : Trap := Trap.one e.1 x.sp.lanes (BitVec.ofNat 64 e.2) 5

/-- The completion object of a COPY, or the check that it fails: a queue position under the thread's identifier, a counter, a flag. -/
def State.copySignal (s : State) (x : Issue) (t : Team) (kind : CopyKind) (q op thread : Nat) (d : Word) : Except Trap Signal :=
  match kind with
  | .flag => .ok (.flag op)
  | .push => if t.initFor x q then .ok (.push t.uid q thread d) else .error (x.trap tcOperand)
  | .count =>
    match s.coreLoc t x.g.core d.toNat 4 4 true with
    | .ok (.scratch k) => .ok (.count k)
    | .ok _ => .error (x.trap tcAddress)
    | .error e => .error (engineTrap x (e, d.toNat))

/-- COPY (R225 to R228): its checks, then the engine takes it as a thread; .push reserves its position. -/
def execCopy (c : Ctl) (sp dsp : Space) (kind : CopyKind) (qn : BitVec 4) (d a b x : Opnd) (s : State) : Out :=
  issue (.copy c sp dsp kind qn d a b x) s fun y s =>
    let first := if kind = .flag then 0 else 1
    let lane := (y.low?).getD 0
    let shape (j : Nat) : Nat := (s.regWord y .s (x.idx.toNat + j) (16 + j) lane).toNat
    let src := (s.srcLow y first).toNat
    let dst := (s.srcLow y (first + 1)).toNat
    match shapeBad (shape 0) (shape 1) (shape 2) (shape 3) [src, dst], s.teamOf y.g with
    | some (e, none), _ => .error (y.trap e)
    | some (e, some a), _ => .error (engineTrap y (e, a))
    | none, none => .ok (s.finish y)
    | none, some t =>
      if y.lanes = 0 then .ok (s.finish y)
      else
        let rows := if shape 1 = 0 then 0 else shape 0
        let op := s.nextId
        match s.rowKeys t y.g.core sp src (shape 2) (shape 1) false rows, s.rowKeys t y.g.core dsp dst (shape 3) (shape 1) false rows with
        | .error e, _ => .error (engineTrap y e)
        | _, .error e => .error (engineTrap y e)
        | .ok ks, .ok kd =>
          match s.copySignal y t kind qn.toNat op (op + 1) (w32 (s.srcLow y 0)) with
          | .error e => .error e
          | .ok sig =>
            let thread : Thread :=
              { uid := op + 1, grp := y.g.uid, team := t.uid, asid := t.asid, core := y.g.core, pc := y.pc, priv := y.inHandler
                reel := none, src := sp, dst := dsp
                words := rowWords (fun r => ks.getD r 0) (fun r => kd.getD r 0) rows (shape 1 / 4)
                done := 0, signal := sig, failed := false }
            let asks := s.ringAsks y
            let s := if kind = .push then s.modTeam t.uid fun t => t.setQueue qn.toNat ((t.queue qn.toNat).reserve (op + 1)) else s
            let due := if y.i.qField.isSome then some (s.clkOf y.g.core + 24) else none
            let s := s.start y fun o => { o with due := due, job := if kind = .flag then .copyFlag (op + 1) else .answer }
            let s := if y.i.qField.isSome then s.askBanks op asks else s
            .ok { s with threads := s.threads ++ [thread], nextId := op + 2 }

/-- COPY_TRANSFER_DONE (R227, R233): a thread whose every word has moved signals its completion object. -/
def execCopyTransferDone (op : Nat) (s : State) : Out :=
  match s.thread? op with
  | none => .fault .notEnabled
  | some t => if t.isOver (now s) then .next (s.endThread t) else .fault .notEnabled

/-! ## REEL and REELW (R231, R234) -/

/-- A slice handle. -/
def sliceHandle (ctx serial : Nat) : Word := BitVec.ofNat 16 serial ++ (0#14) ++ BitVec.ofNat 2 ctx

/-- The slice table's entry: the offset from the image and the length. -/
def State.sliceEntry (s : State) (l : Launch) (slice : Nat) : Except (BitVec 8 × Nat) (Nat × Nat) :=
  let a := l.image.addr + l.image.sliceOff + 8 * slice
  match s.vread l.asid a 8 with
  | .error e => .error (e, a)
  | .ok v => .ok (v % 2 ^ 32, v / 2 ^ 32)

/-- A slice starts in a free context (R229, R231); an entry that cannot be read stops it at once. -/
def State.startSlice (s : State) (x : Issue) (l : Launch) (ctx qn slice : Nat) : Nat × State :=
  let serial := ((match s.reel? x.g.core ctx with | some r => r.serial | none => 0) + 1) % 65536
  let s := s.touch l.asid (l.image.addr + l.image.sliceOff + 8 * slice) 8
  let e := s.sliceEntry l slice
  let start : Nat := match e with | .ok v => l.image.addr + v.1 | .error _ => 0
  let stop : Nat := match e with | .ok v => l.image.addr + v.1 + v.2 | .error _ => 0
  let r : ReelCtx :=
    { busy := true, serial := serial, grp := x.g.uid, team := x.g.team, queue := qn, pc := BitVec.ofNat 64 start
      here := BitVec.ofNat 64 start, start := BitVec.ofNat 64 start, stop := BitVec.ofNat 64 stop, since := s.clkOf x.g.core + 4
      sfile := x.g.sfileOf x.sp, loops := [], ended := false }
  let s := s.setReel x.g.core ctx r
  (serial, match e with | .error f => s.sliceFault x.g.core ctx f.1 5 (BitVec.ofNat 64 f.2) | .ok _ => s)

/-- REEL (R231): its checks, a free context, the copy of the scalar file, and the handle 4 clk later. Which of several free contexts is
taken is not stated. -/
def execReel (c : Ctl) (qn : BitVec 4) (slice : BitVec 12) (d : Opnd) (s : State) : Out :=
  issue (.reel c qn slice d) s fun x s =>
    match s.reelBad x qn.toNat slice.toNat, s.launchOf x.g with
    | some e, _ => .error (x.trap e)
    | none, none => .ok (s.finish x)
    | none, some l =>
      if x.lanes = 0 then .ok (s.finish x)
      else
        let free := s.freeContexts x.g.core
        let k := s.choice free.length
        let ctx := free.getD k.1 0
        let r := k.2.startSlice x l ctx qn.toNat slice.toNat
        let handle := sliceHandle ctx r.1
        let t := r.2.start x fun o =>
          { o with
            due := some (s.clkOf x.g.core + 4 + x.queueDelay), vals := laneVals x.list fun _ => ofW handle
            job := x.pushJob o.uid handle }
        .ok (if x.i.qField.isSome then t.askBanks r.2.nextId (s.ringAsks x) else t)

/-- REELW (R234): it completes when the slice is over and everything in flight has landed; .stop ends the slice first. -/
def execReelw (c : Ctl) (stop : Bool) (a : Opnd) (s : State) : Out :=
  issue (.reelw c stop a) s fun x s =>
    if x.lanes = 0 then .ok (s.finish x)
    else
      let h := w32 (s.srcLow x 0)
      let ctx := h.toNat % 4
      let serial := h.toNat / 65536
      if h.extractLsb' 2 14 != 0 then .error (x.trap tcOperand)
      else
        match s.reel? x.g.core ctx with
        | none => .ok (s.finish x)
        | some r =>
          if r.serial != serial then .ok (s.finish x)
          else
            let s := if stop then s.setReel x.g.core ctx { r with ended := true } else s
            let due := if x.i.qField.isSome then some (s.clkOf x.g.core + 24) else none
            let t := s.start x fun o => { o with due := due, job := .reelWait x.g.core ctx serial }
            .ok (if x.i.qField.isSome then t.askBanks s.nextId (s.ringAsks x) else t)

/-! ## Slice instructions (R232, R233) -/

/-- The line that holds an address of a context's slice: the core's, or as a fill would read it. -/
def State.sliceLine (s : State) (core asid : Nat) (pc : DWord) : ILine :=
  match s.icache.find? fun l => l.core == core && l.asid == asid && l.line == pc.toNat / 64 with
  | some l => l
  | none =>
    let base : ILine := { core := core, asid := asid, line := pc.toNat / 64, words := [], priv := false, fail := none }
    match s.xlateWalk asid (pc.toNat / 64 * 64) .fetch true with
    | .fault c table _ => { base with fail := some (c, if table then 6 else 1) }
    | .ok pa _ _ _ priv =>
      if s.poisoned (.glob pa) 64 then { base with fail := some (tcMem, 1) }
      else { base with words := bytesWords (readBytes (s.recall (pa / 128)).dram pa 64), priv := priv }

/-- The address after the AEND that matches an ALOOP whose next instruction is at `pc`: the next AEND at the same depth (R232). -/
def State.afterLoop (s : State) (core asid : Nat) (stop pc : DWord) (depth : Nat) : Nat → Option DWord
  | 0 => none
  | n + 1 =>
    if stop ≤ pc then none
    else
      let e := (s.sliceLine core asid pc).sliceAt pc
      let next : DWord := if e.1 = 0 then BitVec.ofNat 64 ((pc.toNat / 64 + 1) * 64) else pc + BitVec.ofNat 64 e.1
      match e.2 with
      | .ok (.aend ..) => if depth = 0 then some next else State.afterLoop s core asid stop next (depth - 1) n
      | .ok (.aloop ..) => State.afterLoop s core asid stop next (depth + 1) n
      | _ => State.afterLoop s core asid stop next depth n

/-- An instruction that only a slice may hold: its effect in the Reel context whose turn it is; issued by a group it traps as not
being in its place (R230). -/
def sliceOnly (i : Instr) (k : Nat → Nat → ReelCtx → State → State) (s : State) : Out :=
  match s.cur with
  | .reel core ctx =>
    match s.reel? core ctx with
    | some r => .next (k core ctx r s)
    | none => .fault .noIssuer
  | _ => issue i s fun x s => .ok (s.finish x)

/-- ALOOP (R232). -/
def execAloop (c : Ctl) (d a : Opnd) (s : State) : Out :=
  sliceOnly (.aloop c d a)
    (fun core ctx r s =>
      let asid := match s.team? r.team with | some t => t.asid | none => 0
      match s.afterLoop core asid r.stop r.pc 0 (((r.stop - r.pc).toNat) / 4 + 1) with
      | none => s.sliceFault core ctx tcOperand 0 0
      | some next =>
        let s := s.touch asid r.pc.toNat (next - r.pc).toNat
        if 4 ≤ r.loops.length then s.sliceFault core ctx tcOperand 0 0
        else
          let count := w32 (reelValue r.sfile ⟨.src32, a⟩)
          let r := { r with sfile := cellSet r.sfile d.idx.toNat 0 }
          s.setReel core ctx
            (if count = 0 then { r with pc := next } else { r with loops := (r.pc, count, d.idx.toNat) :: r.loops })) s

/-- AEND (R232). -/
def execAend (c : Ctl) (s : State) : Out :=
  sliceOnly (.aend c)
    (fun core ctx r s =>
      match r.loops with
      | [] => s.setReel core ctx { r with ended := true }
      | (start, count, idx) :: rest =>
        let v := cellGet r.sfile idx + 1
        let r := { r with sfile := cellSet r.sfile idx v }
        s.setReel core ctx (if v.toNat < count.toNat then { r with pc := start } else { r with loops := rest })) s

/-- The keys of an AQPUT's rows at its source and its destination, or the first check that fails with its address. -/
def State.tileKeys (s : State) (t : Team) (core : Nat) (sp : Space) (src : Nat) (h shape : Word) :
    Except (BitVec 8 × Nat) (List Nat × List Nat) :=
  let rows := shape.toNat % 256 + 1
  let words := shape.toNat / 256 % 1024 + 1
  let stride := 16 * (shape.toNat / 2 ^ 18)
  if sp = .glob && src % 4 != 0 then .error (tcAlign, src)
  else
    match s.rowKeys t core sp src stride (4 * words) false rows, s.rowKeys t core .core h.toNat (4 * words) (4 * words) true rows with
    | .error e, _ => .error e
    | _, .error e => .error e
    | .ok a, .ok b => .ok (a, b)

/-- AQPUT (R233): it reserves a position of the bound queue, and the fetch into the buffer that its ring word names runs behind it. -/
def execAqput (c : Ctl) (qn : BitVec 4) (sp : Space) (a b : Opnd) (s : State) : Out :=
  sliceOnly (.aqput c qn sp a b)
    (fun core ctx r s =>
      match s.team? r.team with
      | none => s.setReel core ctx { r with ended := true }
      | some t =>
        let q := t.queue qn.toNat
        if qn.toNat != r.queue || !q.init then s.sliceFault core ctx tcOperand 0 0
        else
          let uid := s.nextId
          let h := s.ringWord t q q.tail
          let bad := s.poisoned (.scratch (t.ringKey q q.tail)) 4
          let src := (reelValue r.sfile ⟨if sp = .glob then .adr64 else .adr32, a⟩).toNat
          let shape := w32 (reelValue r.sfile ⟨.src32, b⟩)
          let s := { s with nextId := uid + 1 }.setTeam (t.setQueue qn.toNat (q.reserve uid))
          match if bad then .error (tcMem, q.base + 4 * q.tail) else s.tileKeys t core sp src h shape with
          | .error e => (s.sliceFault core ctx e.1 5 (BitVec.ofNat 64 e.2)).landPush t.uid qn.toNat uid (handleOf h true)
          | .ok (ks, kd) =>
            let thread : Thread :=
              { uid := uid, grp := r.grp, team := t.uid, asid := t.asid, core := core, pc := r.here, priv := false
                reel := some (reelKey core ctx), src := sp, dst := .core
                words := rowWords (fun n => ks.getD n 0) (fun n => kd.getD n 0) ks.length (shape.toNat / 256 % 1024 + 1)
                done := 0, signal := .push t.uid qn.toNat uid h, failed := false }
            { s with threads := s.threads ++ [thread] }) s

/-! ## The Reel's turn (R229, R230) -/

/-- Whether a context has a slice instruction to execute now: its S copy is taken, the slice has not ended or passed its last
instruction, its line is held, and an AQPUT has a position to reserve (R231 to R233). -/
def State.reelReady (s : State) (core ctx : Nat) : Option (ReelCtx × Nat × Except (BitVec 8 × BitVec 3) Instr) :=
  match s.reel? core ctx with
  | none => none
  | some r =>
    if !r.busy || r.ended || s.clkOf core < r.since || !(decide (r.start ≤ r.pc) && decide (r.pc < r.stop)) then none
    else
      match s.team? r.team with
      | none => none
      | some t =>
        match s.icache.find? fun l => l.core == core && l.asid == t.asid && l.line == r.pc.toNat / 64 with
        | none => none
        | some l =>
          let e := l.sliceAt r.pc
          let waits := match e.2 with
            | .ok (.aqput _ qn ..) => qn.toNat == r.queue && !(t.queue r.queue).open false
            | _ => false
          if waits then none else some (r, e)

/-- The context of a core whose turn it is: the first ready one after the one that executed last (R229). -/
def State.reelTurn (s : State) (core : Nat) : Option Nat :=
  let last := tabGetD s.reelLast core 3
  ((List.range 4).map fun k => (last + 1 + k) % 4).find? fun k => (s.reelReady core k).isSome

/-- REEL_EXECUTE (R229, R230): the context whose turn it is executes one slice instruction, or stops at one that the slice may not
hold. -/
def execReelExecute (core ctx : Nat) (s : State) : Out :=
  match s.reelReady core ctx with
  | none => .fault .notEnabled
  | some (r, n, e) =>
    if s.reelTurn core != some ctx then .fault .notEnabled
    else
      let s := { s with reelLast := tabSet s.reelLast core ctx }
      match e with
      | .error f =>
        let t := s.setReel core ctx { r with here := r.pc }
        let t := { t with icache := t.icache.filter fun l => !(l.fail.isSome && l.core == core && l.line == r.pc.toNat / 64) }
        .next (t.sliceFault core ctx f.1 f.2 (if f.2 = 0 then 0 else r.pc))
      | .ok i =>
        let s := s.setReel core ctx { r with here := r.pc, pc := r.pc + BitVec.ofNat 64 n }
        .next { s with cur := .reel core ctx, agenda := i :: s.agenda }

end Sys2Proof.Machine
end

