-- ==== Sys2Proof/Machine/Dispatch.lean ====
section
/-! DEFINITION. One arm for every instruction, compact form and event: its meaning. -/

namespace Sys2Proof.Machine

/-- The effect of one step of the machine (R59, R95). -/
def exec (i : Instr) (s : State) : Host.Outcome State Fault Refusal :=
  match i with
  | .nop c => Sys2Proof.Machine.execNop c s
  | .waitf c => Sys2Proof.Machine.execWaitf c s
  | .sleep c a => Sys2Proof.Machine.execSleep c a s
  | .yield c => Sys2Proof.Machine.execYield c s
  | .mov c ty d a => Sys2Proof.Machine.execMov c ty d a s
  | .movw c d a => Sys2Proof.Machine.execMovw c d a s
  | .movi c m d imm => Sys2Proof.Machine.execMovi c m d imm s
  | .sel c ty d a b x => Sys2Proof.Machine.execSel c ty d a b x s
  | .nrel c d => Sys2Proof.Machine.execNrel c d s
  | .strand c entry => Sys2Proof.Machine.execStrand c entry s
  | .park c => Sys2Proof.Machine.execPark c s
  | .bra c target => Sys2Proof.Machine.execBra c target s
  | .brc c hint target join => Sys2Proof.Machine.execBrc c hint target join s
  | .brx c hint a b => Sys2Proof.Machine.execBrx c hint a b s
  | .call c target => Sys2Proof.Machine.execCall c target s
  | .callx c a => Sys2Proof.Machine.execCallx c a s
  | .ret c => Sys2Proof.Machine.execRet c s
  | .join c => Sys2Proof.Machine.execJoin c s
  | .exit c => Sys2Proof.Machine.execExit c s
  | .iadd c ty sat d a b => Sys2Proof.Machine.execIadd c ty sat d a b s
  | .isub c ty sat d a b => Sys2Proof.Machine.execIsub c ty sat d a b s
  | .iadd64 c ty sat d a b => Sys2Proof.Machine.execIadd64 c ty sat d a b s
  | .iaddImm c ty sat d a imm => Sys2Proof.Machine.execIaddImm c ty sat d a imm s
  | .isubImm c ty sat d a imm => Sys2Proof.Machine.execIsubImm c ty sat d a imm s
  | .iaddc c d a b x => Sys2Proof.Machine.execIaddc c d a b x s
  | .imul c ty d a b => Sys2Proof.Machine.execImul c ty d a b s
  | .imulh c ty d a b => Sys2Proof.Machine.execImulh c ty d a b s
  | .imulImm c ty d a imm => Sys2Proof.Machine.execImulImm c ty d a imm s
  | .imad c ty d a b x => Sys2Proof.Machine.execImad c ty d a b x s
  | .imadw c ty d a b x => Sys2Proof.Machine.execImadw c ty d a b x s
  | .idiv c ty d a b => Sys2Proof.Machine.execIdiv c ty d a b s
  | .irem c ty d a b => Sys2Proof.Machine.execIrem c ty d a b s
  | .imin c ty d a b => Sys2Proof.Machine.execImin c ty d a b s
  | .imax c ty d a b => Sys2Proof.Machine.execImax c ty d a b s
  | .iabs c sat d a => Sys2Proof.Machine.execIabs c sat d a s
  | .ineg c sat d a => Sys2Proof.Machine.execIneg c sat d a s
  | .lea c ty sb d a b x => Sys2Proof.Machine.execLea c ty sb d a b x s
  | .and c ty d a b => Sys2Proof.Machine.execAnd c ty d a b s
  | .or c ty d a b => Sys2Proof.Machine.execOr c ty d a b s
  | .xor c ty d a b => Sys2Proof.Machine.execXor c ty d a b s
  | .andn c ty d a b => Sys2Proof.Machine.execAndn c ty d a b s
  | .not c ty d a => Sys2Proof.Machine.execNot c ty d a s
  | .andImm c d a imm => Sys2Proof.Machine.execAndImm c d a imm s
  | .orImm c d a imm => Sys2Proof.Machine.execOrImm c d a imm s
  | .xorImm c d a imm => Sys2Proof.Machine.execXorImm c d a imm s
  | .andnImm c d a imm => Sys2Proof.Machine.execAndnImm c d a imm s
  | .shl c ty d a b => Sys2Proof.Machine.execShl c ty d a b s
  | .shr c ty d a b => Sys2Proof.Machine.execShr c ty d a b s
  | .sar c ty d a b => Sys2Proof.Machine.execSar c ty d a b s
  | .rot c ty d a b => Sys2Proof.Machine.execRot c ty d a b s
  | .shf c left d a b x => Sys2Proof.Machine.execShf c left d a b x s
  | .bfe c ty d a b => Sys2Proof.Machine.execBfe c ty d a b s
  | .bfi c d a b x => Sys2Proof.Machine.execBfi c d a b x s
  | .popc c ty d a => Sys2Proof.Machine.execPopc c ty d a s
  | .clz c ty d a => Sys2Proof.Machine.execClz c ty d a s
  | .brev c ty d a => Sys2Proof.Machine.execBrev c ty d a s
  | .prmb c d a b x => Sys2Proof.Machine.execPrmb c d a b x s
  | .iset c cmp ty d a b => Sys2Proof.Machine.execIset c cmp ty d a b s
  | .fadd c rnd ftz d a b => Sys2Proof.Machine.execFadd c rnd ftz d a b s
  | .fsub c rnd ftz d a b => Sys2Proof.Machine.execFsub c rnd ftz d a b s
  | .fmul c rnd ftz d a b => Sys2Proof.Machine.execFmul c rnd ftz d a b s
  | .fmin c ftz d a b => Sys2Proof.Machine.execFmin c ftz d a b s
  | .fmax c ftz d a b => Sys2Proof.Machine.execFmax c ftz d a b s
  | .faddImm c rnd ftz d a imm => Sys2Proof.Machine.execFaddImm c rnd ftz d a imm s
  | .fsubImm c rnd ftz d a imm => Sys2Proof.Machine.execFsubImm c rnd ftz d a imm s
  | .fmulImm c rnd ftz d a imm => Sys2Proof.Machine.execFmulImm c rnd ftz d a imm s
  | .fminImm c ftz d a imm => Sys2Proof.Machine.execFminImm c ftz d a imm s
  | .fmaxImm c ftz d a imm => Sys2Proof.Machine.execFmaxImm c ftz d a imm s
  | .ffma c rnd ftz d a b x => Sys2Proof.Machine.execFfma c rnd ftz d a b x s
  | .fsetCompare c cmp ftz d a b => Sys2Proof.Machine.execFsetCompare c cmp ftz d a b s
  | .frcp c ftz d a => Sys2Proof.Machine.execFrcp c ftz d a s
  | .frsq c ftz d a => Sys2Proof.Machine.execFrsq c ftz d a s
  | .fsqrt c ftz d a => Sys2Proof.Machine.execFsqrt c ftz d a s
  | .fex2 c ftz d a => Sys2Proof.Machine.execFex2 c ftz d a s
  | .flg2 c ftz d a => Sys2Proof.Machine.execFlg2 c ftz d a s
  | .fsin c ftz d a => Sys2Proof.Machine.execFsin c ftz d a s
  | .fcos c ftz d a => Sys2Proof.Machine.execFcos c ftz d a s
  | .hfma2 c ty sw bc nc rnd ftz d a b x => Sys2Proof.Machine.execHfma2 c ty sw bc nc rnd ftz d a b x s
  | .f2i c ty sty rnd ftz d a => Sys2Proof.Machine.execF2i c ty sty rnd ftz d a s
  | .i2f c ty sty rnd ftz d a => Sys2Proof.Machine.execI2f c ty sty rnd ftz d a s
  | .cvt c ty sty rnd ftz d a => Sys2Proof.Machine.execCvt c ty sty rnd ftz d a s
  | .frnd c rnd ftz d a => Sys2Proof.Machine.execFrnd c rnd ftz d a s
  | .pack c ty elt rnd ftz d a b x => Sys2Proof.Machine.execPack c ty elt rnd ftz d a b x s
  | .unpk c ty elt ftz d a => Sys2Proof.Machine.execUnpk c ty elt ftz d a s
  | .dot4 c d a b x => Sys2Proof.Machine.execDot4 c d a b x s
  | .dot8 c d a b x => Sys2Proof.Machine.execDot8 c d a b x s
  | .fdot4 c ty d a b x => Sys2Proof.Machine.execFdot4 c ty d a b x s
  | .shfl c sm ty d a b x => Sys2Proof.Machine.execShfl c sm ty d a b x s
  | .vote c vm d a => Sys2Proof.Machine.execVote c vm d a s
  | .matchI c ty d a => Sys2Proof.Machine.execMatchI c ty d a s
  | .pset c pc cmp ty d a b x => Sys2Proof.Machine.execPset c pc cmp ty d a b x s
  | .pmovGet c d => Sys2Proof.Machine.execPmovGet c d s
  | .pmovSet c a => Sys2Proof.Machine.execPmovSet c a s
  | .mma c cn a b x => Sys2Proof.Machine.execMma c cn a b x s
  | .mmas c cn d a b x => Sys2Proof.Machine.execMmas c cn d a b x s
  | .mmab c cn d a b x => Sys2Proof.Machine.execMmab c cn d a b x s
  | .cmprs c ty a b x => Sys2Proof.Machine.execCmprs c ty a b x s
  | .cclr c cn => Sys2Proof.Machine.execCclr c cn s
  | .cld c cn a x => Sys2Proof.Machine.execCld c cn a x s
  | .cscl c cn a => Sys2Proof.Machine.execCscl c cn a s
  | .cst c cn a b x => Sys2Proof.Machine.execCst c cn a b x s
  | .qinit c qn a b => Sys2Proof.Machine.execQinit c qn a b s
  | .qpush c qn a => Sys2Proof.Machine.execQpush c qn a s
  | .qpop c qn d => Sys2Proof.Machine.execQpop c qn d s
  | .qstat c qn d => Sys2Proof.Machine.execQstat c qn d s
  | .copy c sp dsp kind qn d a b x => Sys2Proof.Machine.execCopy c sp dsp kind qn d a b x s
  | .reel c qn slice d => Sys2Proof.Machine.execReel c qn slice d s
  | .reelw c stop a => Sys2Proof.Machine.execReelw c stop a s
  | .aloop c d a => Sys2Proof.Machine.execAloop c d a s
  | .aqput c qn sp a b => Sys2Proof.Machine.execAqput c qn sp a b s
  | .aend c => Sys2Proof.Machine.execAend c s
  | .ld c sp ty acq d a x => Sys2Proof.Machine.execLd c sp ty acq d a x s
  | .st c sp ty rel nr a b x => Sys2Proof.Machine.execSt c sp ty rel nr a b x s
  | .ldx c sp ty cb d a x => Sys2Proof.Machine.execLdx c sp ty cb d a x s
  | .stx c sp ty cb nr a b x => Sys2Proof.Machine.execStx c sp ty cb nr a b x s
  | .atom c sp ty aop scope d a b x => Sys2Proof.Machine.execAtom c sp ty aop scope d a b x s
  | .atomr c sp ty aop scope a b x => Sys2Proof.Machine.execAtomr c sp ty aop scope a b x s
  | .fence c scope half => Sys2Proof.Machine.execFence c scope half s
  | .pin c a b => Sys2Proof.Machine.execPin c a b s
  | .unpin c a b => Sys2Proof.Machine.execUnpin c a b s
  | .icinv c a b => Sys2Proof.Machine.execIcinv c a b s
  | .pref c a x => Sys2Proof.Machine.execPref c a x s
  | .launch c a => Sys2Proof.Machine.execLaunch c a s
  | .spawn c d a b => Sys2Proof.Machine.execSpawn c d a b s
  | .depdec c a => Sys2Proof.Machine.execDepdec c a s
  | .phend c carry => Sys2Proof.Machine.execPhend c carry s
  | .tbar c => Sys2Proof.Machine.execTbar c s
  | .tdone c => Sys2Proof.Machine.execTdone c s
  | .fwait c ty d a x => Sys2Proof.Machine.execFwait c ty d a x s
  | .fsetFuture c ty status a b x => Sys2Proof.Machine.execFsetFuture c ty status a b x s
  | .ftest c d a x => Sys2Proof.Machine.execFtest c d a x s
  | .lock c a x => Sys2Proof.Machine.execLock c a x s
  | .unlock c a x => Sys2Proof.Machine.execUnlock c a x s
  | .chpush c ty a b x => Sys2Proof.Machine.execChpush c ty a b x s
  | .chpop c ty d a x => Sys2Proof.Machine.execChpop c ty d a x s
  | .waitc c a b x => Sys2Proof.Machine.execWaitc c a b x s
  | .trap c code => Sys2Proof.Machine.execTrap c code s
  | .tret c skip => Sys2Proof.Machine.execTret c skip s
  | .replay c => Sys2Proof.Machine.execReplay c s
  | .unwind c => Sys2Proof.Machine.execUnwind c s
  | .endg c => Sys2Proof.Machine.execEndg c s
  | .frqpop c d => Sys2Proof.Machine.execFrqpop c d s
  | .mapreq c a b => Sys2Proof.Machine.execMapreq c a b s
  | .srd c num d => Sys2Proof.Machine.execSrd c num d s
  | .swr c num a => Sys2Proof.Machine.execSwr c num a s
  | .uread c wide u d => Sys2Proof.Machine.execUread c wide u d s
  | .uwrite c wide u a => Sys2Proof.Machine.execUwrite c wide u a s
  | .bkpt c tag => Sys2Proof.Machine.execBkpt c tag s
  | .put c d a b x => Sys2Proof.Machine.execPut c d a b x s
  | .get c d a b x => Sys2Proof.Machine.execGet c d a b x s
  | .ratom c ty aop d a b x => Sys2Proof.Machine.execRatom c ty aop d a b x s
  | .coll c cop cfmt cred a b => Sys2Proof.Machine.execColl c cop cfmt cred a b s
  | .wstat c arrived d a => Sys2Proof.Machine.execWstat c arrived d a s
  | .activation core part => Sys2Proof.Machine.execActivation core part s
  | .fixedResultLands op => Sys2Proof.Machine.execFixedResultLands op s
  | .icacheFill core asid line => Sys2Proof.Machine.execIcacheFill core asid line s
  | .sleepWake grp => Sys2Proof.Machine.execSleepWake grp s
  | .accessPerform op unit => Sys2Proof.Machine.execAccessPerform op unit s
  | .accessComplete op => Sys2Proof.Machine.execAccessComplete op s
  | .leaseExpiry core line => Sys2Proof.Machine.execLeaseExpiry core line s
  | .queueLand op => Sys2Proof.Machine.execQueueLand op s
  | .queueRetire grp qn => Sys2Proof.Machine.execQueueRetire grp qn s
  | .copyTransferDone op => Sys2Proof.Machine.execCopyTransferDone op s
  | .reelExecute core ctx => Sys2Proof.Machine.execReelExecute core ctx s
  | .preemptionSave grp => Sys2Proof.Machine.execPreemptionSave grp s
  | .noticeDelivery grp => Sys2Proof.Machine.execNoticeDelivery grp s
  | .lateMemUncorrectable grp => Sys2Proof.Machine.execLateMemUncorrectable grp s
  | .softError site correctable => Sys2Proof.Machine.execSoftError site correctable s
  | .migration block column => Sys2Proof.Machine.execMigration block column s
  | .vigilRetry line => Sys2Proof.Machine.execVigilRetry line s
  | .firstAttemptAnswer op => Sys2Proof.Machine.execFirstAttemptAnswer op s
  | .channelOverflowDelay asid cell => Sys2Proof.Machine.execChannelOverflowDelay asid cell s
  | .chunkPoolRetry asid => Sys2Proof.Machine.execChunkPoolRetry asid s
  | .tbarCompletion team => Sys2Proof.Machine.execTbarCompletion team s
  | .phaseEnd team => Sys2Proof.Machine.execPhaseEnd team s
  | .submissionTake asid => Sys2Proof.Machine.execSubmissionTake asid s
  | .taskPull core desc => Sys2Proof.Machine.execTaskPull core desc s
  | .aging stack desc => Sys2Proof.Machine.execAging stack desc s
  | .accountTick => Sys2Proof.Machine.execAccountTick s
  | .contextSwitchDeadline asid => Sys2Proof.Machine.execContextSwitchDeadline asid s
  | .currentLimit stretch => Sys2Proof.Machine.execCurrentLimit stretch s
  | .thermalTrip => Sys2Proof.Machine.execThermalTrip s
  | .droop stretch => Sys2Proof.Machine.execDroop stretch s
  | .powerGood tjmin => Sys2Proof.Machine.execPowerGood tjmin s
  | .hostImageOffer image => Sys2Proof.Machine.execHostImageOffer image s
  | .channelRetrain column => Sys2Proof.Machine.execChannelRetrain column s
  | .busRepair column => Sys2Proof.Machine.execBusRepair column s
  | .splitChange cluster => Sys2Proof.Machine.execSplitChange cluster s
  | .mapreqAnswer req => Sys2Proof.Machine.execMapreqAnswer req s
  | .firmwareEventDeliver => Sys2Proof.Machine.execFirmwareEventDeliver s
  | .hostWrite hwin offset words => Sys2Proof.Machine.execHostWrite hwin offset words s
  | .hostRead hwin offset len tag => Sys2Proof.Machine.execHostRead hwin offset len tag s
  | .registerWrite reg value => Sys2Proof.Machine.execRegisterWrite reg value s
  | .sqtail asid tail => Sys2Proof.Machine.execSqtail asid tail s
  | .sqstatOver asid value => Sys2Proof.Machine.execSqstatOver asid value s
  | .ctxCreate => Sys2Proof.Machine.execCtxCreate s
  | .ctxTeardown => Sys2Proof.Machine.execCtxTeardown s
  | .ctxSwitch => Sys2Proof.Machine.execCtxSwitch s
  | .ctxResume => Sys2Proof.Machine.execCtxResume s
  | .energySet => Sys2Proof.Machine.execEnergySet s
  | .capRaise => Sys2Proof.Machine.execCapRaise s
  | .shootdown => Sys2Proof.Machine.execShootdown s
  | .hash => Sys2Proof.Machine.execHash s
  | .attest => Sys2Proof.Machine.execAttest s
  | .faultLog => Sys2Proof.Machine.execFaultLog s
  | .routeSet => Sys2Proof.Machine.execRouteSet s
  | .routeLock => Sys2Proof.Machine.execRouteLock s
  | .migrateAnswer => Sys2Proof.Machine.execMigrateAnswer s
  | .splitSet => Sys2Proof.Machine.execSplitSet s
  | .haltCmd stack => Sys2Proof.Machine.execHaltCmd stack s
  | .readCmd stack => Sys2Proof.Machine.execReadCmd stack s
  | .writeCmd stack => Sys2Proof.Machine.execWriteCmd stack s
  | .stepCmd stack => Sys2Proof.Machine.execStepCmd stack s
  | .breakCmd stack => Sys2Proof.Machine.execBreakCmd stack s
  | .resumeCmd stack => Sys2Proof.Machine.execResumeCmd stack s
  | .splitsCmd stack => Sys2Proof.Machine.execSplitsCmd stack s
  | .lanternEvent stack => Sys2Proof.Machine.execLanternEvent stack s
  | .part f => Sys2Proof.Machine.execPart f s
  | .result f => Sys2Proof.Machine.execResult f s
  | .block f => Sys2Proof.Machine.execBlock f s
  | .abort f => Sys2Proof.Machine.execAbort f s
  | .faddr f => Sys2Proof.Machine.execFaddr f s
  | .transactionWrite x => Sys2Proof.Machine.execTransactionWrite x s
  | .transactionRead x => Sys2Proof.Machine.execTransactionRead x s
  | .transactionReadCompletion x => Sys2Proof.Machine.execTransactionReadCompletion x s
  | .transactionAtomic x ty aop => Sys2Proof.Machine.execTransactionAtomic x ty aop s
  | .linkFailure port => Sys2Proof.Machine.execLinkFailure port s
  | .matrixCompletion op => Sys2Proof.Machine.execMatrixCompletion op s
  | .launchAcceptance op => Sys2Proof.Machine.execLaunchAcceptance op s
  | .faddFrame f => Sys2Proof.Machine.execFaddFrame f s
  | .reservedFrameDrop f => Sys2Proof.Machine.execReservedFrameDrop f s
  | .transactionAtomicCompletion x => Sys2Proof.Machine.execTransactionAtomicCompletion x s
  | .addressBreakpoint grp => Sys2Proof.Machine.execAddressBreakpoint grp s
  | .trackingLoop mhz => Sys2Proof.Machine.execTrackingLoop mhz s
  | .nopCompact c => Sys2Proof.Machine.execNopCompact c s
  | .movZ32Compact c d a => Sys2Proof.Machine.execMovZ32Compact c d a s
  | .movZ64Compact c d a => Sys2Proof.Machine.execMovZ64Compact c d a s
  | .movwCompact c d a => Sys2Proof.Machine.execMovwCompact c d a s
  | .nrelCompact c d => Sys2Proof.Machine.execNrelCompact c d s
  | .strandCompact c => Sys2Proof.Machine.execStrandCompact c s
  | .parkCompact c => Sys2Proof.Machine.execParkCompact c s
  | .exitCompact c => Sys2Proof.Machine.execExitCompact c s
  | .retCompact c => Sys2Proof.Machine.execRetCompact c s
  | .joinCompact c => Sys2Proof.Machine.execJoinCompact c s
  | .yieldCompact c => Sys2Proof.Machine.execYieldCompact c s
  | .tbarCompact c => Sys2Proof.Machine.execTbarCompact c s
  | .tdoneCompact c => Sys2Proof.Machine.execTdoneCompact c s
  | .iaddS32Compact c d a b => Sys2Proof.Machine.execIaddS32Compact c d a b s
  | .iaddZ32Compact c d a b => Sys2Proof.Machine.execIaddZ32Compact c d a b s
  | .isubS32Compact c d a b => Sys2Proof.Machine.execIsubS32Compact c d a b s
  | .isubZ32Compact c d a b => Sys2Proof.Machine.execIsubZ32Compact c d a b s
  | .iadd64Z64Compact c d a b => Sys2Proof.Machine.execIadd64Z64Compact c d a b s
  | .iaddS32SatCompact c d a b => Sys2Proof.Machine.execIaddS32SatCompact c d a b s
  | .isubS32SatCompact c d a b => Sys2Proof.Machine.execIsubS32SatCompact c d a b s
  | .iaddZ32SatCompact c d a b => Sys2Proof.Machine.execIaddZ32SatCompact c d a b s
  | .imulS32Compact c d a b => Sys2Proof.Machine.execImulS32Compact c d a b s
  | .imulZ32Compact c d a b => Sys2Proof.Machine.execImulZ32Compact c d a b s
  | .imulhS32Compact c d a b => Sys2Proof.Machine.execImulhS32Compact c d a b s
  | .imulhZ32Compact c d a b => Sys2Proof.Machine.execImulhZ32Compact c d a b s
  | .idivS32Compact c d a b => Sys2Proof.Machine.execIdivS32Compact c d a b s
  | .idivZ32Compact c d a b => Sys2Proof.Machine.execIdivZ32Compact c d a b s
  | .iremS32Compact c d a b => Sys2Proof.Machine.execIremS32Compact c d a b s
  | .iremZ32Compact c d a b => Sys2Proof.Machine.execIremZ32Compact c d a b s
  | .iminS32Compact c d a b => Sys2Proof.Machine.execIminS32Compact c d a b s
  | .iminZ32Compact c d a b => Sys2Proof.Machine.execIminZ32Compact c d a b s
  | .imaxS32Compact c d a b => Sys2Proof.Machine.execImaxS32Compact c d a b s
  | .imaxZ32Compact c d a b => Sys2Proof.Machine.execImaxZ32Compact c d a b s
  | .iabsS32Compact c d a => Sys2Proof.Machine.execIabsS32Compact c d a s
  | .inegS32Compact c d a => Sys2Proof.Machine.execInegS32Compact c d a s
  | .popcZ32Compact c d a => Sys2Proof.Machine.execPopcZ32Compact c d a s
  | .clzZ32Compact c d a => Sys2Proof.Machine.execClzZ32Compact c d a s
  | .andZ32Compact c d a b => Sys2Proof.Machine.execAndZ32Compact c d a b s
  | .orZ32Compact c d a b => Sys2Proof.Machine.execOrZ32Compact c d a b s
  | .xorZ32Compact c d a b => Sys2Proof.Machine.execXorZ32Compact c d a b s
  | .andnZ32Compact c d a b => Sys2Proof.Machine.execAndnZ32Compact c d a b s
  | .notZ32Compact c d a => Sys2Proof.Machine.execNotZ32Compact c d a s
  | .brevZ32Compact c d a => Sys2Proof.Machine.execBrevZ32Compact c d a s
  | .andZ64Compact c d a b => Sys2Proof.Machine.execAndZ64Compact c d a b s
  | .orZ64Compact c d a b => Sys2Proof.Machine.execOrZ64Compact c d a b s
  | .shlZ32Compact c d a b => Sys2Proof.Machine.execShlZ32Compact c d a b s
  | .shrZ32Compact c d a b => Sys2Proof.Machine.execShrZ32Compact c d a b s
  | .sarS32Compact c d a b => Sys2Proof.Machine.execSarS32Compact c d a b s
  | .rotZ32Compact c d a b => Sys2Proof.Machine.execRotZ32Compact c d a b s
  | .shlZ64Compact c d a b => Sys2Proof.Machine.execShlZ64Compact c d a b s
  | .shrZ64Compact c d a b => Sys2Proof.Machine.execShrZ64Compact c d a b s
  | .sarS64Compact c d a b => Sys2Proof.Machine.execSarS64Compact c d a b s
  | .xorZ64Compact c d a b => Sys2Proof.Machine.execXorZ64Compact c d a b s
  | .isetEqS32Compact c d a b => Sys2Proof.Machine.execIsetEqS32Compact c d a b s
  | .isetNeS32Compact c d a b => Sys2Proof.Machine.execIsetNeS32Compact c d a b s
  | .isetLtS32Compact c d a b => Sys2Proof.Machine.execIsetLtS32Compact c d a b s
  | .isetLeS32Compact c d a b => Sys2Proof.Machine.execIsetLeS32Compact c d a b s
  | .isetGtS32Compact c d a b => Sys2Proof.Machine.execIsetGtS32Compact c d a b s
  | .isetGeS32Compact c d a b => Sys2Proof.Machine.execIsetGeS32Compact c d a b s
  | .isetLtZ32Compact c d a b => Sys2Proof.Machine.execIsetLtZ32Compact c d a b s
  | .isetGeZ32Compact c d a b => Sys2Proof.Machine.execIsetGeZ32Compact c d a b s
  | .faddF32Compact c d a b => Sys2Proof.Machine.execFaddF32Compact c d a b s
  | .fsubF32Compact c d a b => Sys2Proof.Machine.execFsubF32Compact c d a b s
  | .fmulF32Compact c d a b => Sys2Proof.Machine.execFmulF32Compact c d a b s
  | .fminF32Compact c d a b => Sys2Proof.Machine.execFminF32Compact c d a b s
  | .fmaxF32Compact c d a b => Sys2Proof.Machine.execFmaxF32Compact c d a b s
  | .faddF32FtzCompact c d a b => Sys2Proof.Machine.execFaddF32FtzCompact c d a b s
  | .fsubF32FtzCompact c d a b => Sys2Proof.Machine.execFsubF32FtzCompact c d a b s
  | .fmulF32FtzCompact c d a b => Sys2Proof.Machine.execFmulF32FtzCompact c d a b s
  | .fsetEqF32Compact c d a b => Sys2Proof.Machine.execFsetEqF32Compact c d a b s
  | .fsetNeF32Compact c d a b => Sys2Proof.Machine.execFsetNeF32Compact c d a b s
  | .fsetLtF32Compact c d a b => Sys2Proof.Machine.execFsetLtF32Compact c d a b s
  | .fsetLeF32Compact c d a b => Sys2Proof.Machine.execFsetLeF32Compact c d a b s
  | .fsetGtF32Compact c d a b => Sys2Proof.Machine.execFsetGtF32Compact c d a b s
  | .fsetGeF32Compact c d a b => Sys2Proof.Machine.execFsetGeF32Compact c d a b s
  | .fsetUnF32Compact c d a b => Sys2Proof.Machine.execFsetUnF32Compact c d a b s
  | .frndF32Compact c d a => Sys2Proof.Machine.execFrndF32Compact c d a s
  | .frcpF32Compact c d a => Sys2Proof.Machine.execFrcpF32Compact c d a s
  | .frsqF32Compact c d a => Sys2Proof.Machine.execFrsqF32Compact c d a s
  | .fsqrtF32Compact c d a => Sys2Proof.Machine.execFsqrtF32Compact c d a s
  | .fex2F32Compact c d a => Sys2Proof.Machine.execFex2F32Compact c d a s
  | .flg2F32Compact c d a => Sys2Proof.Machine.execFlg2F32Compact c d a s
  | .fsinF32Compact c d a => Sys2Proof.Machine.execFsinF32Compact c d a s
  | .fcosF32Compact c d a => Sys2Proof.Machine.execFcosF32Compact c d a s
  | .frndF32RzCompact c d a => Sys2Proof.Machine.execFrndF32RzCompact c d a s
  | .f2iS32F32RzCompact c d a => Sys2Proof.Machine.execF2iS32F32RzCompact c d a s
  | .f2iZ32F32RzCompact c d a => Sys2Proof.Machine.execF2iZ32F32RzCompact c d a s
  | .i2fF32S32Compact c d a => Sys2Proof.Machine.execI2fF32S32Compact c d a s
  | .i2fF32Z32Compact c d a => Sys2Proof.Machine.execI2fF32Z32Compact c d a s
  | .cvtF16F32Compact c d a => Sys2Proof.Machine.execCvtF16F32Compact c d a s
  | .cvtF32F16Compact c d a => Sys2Proof.Machine.execCvtF32F16Compact c d a s
  | .cvtBf16F32Compact c d a => Sys2Proof.Machine.execCvtBf16F32Compact c d a s
  | .cvtF32Bf16Compact c d a => Sys2Proof.Machine.execCvtF32Bf16Compact c d a s
  | .packE4m3Compact c d a b => Sys2Proof.Machine.execPackE4m3Compact c d a b s
  | .packE5m2Compact c d a b => Sys2Proof.Machine.execPackE5m2Compact c d a b s
  | .packE2m1Compact c d a b => Sys2Proof.Machine.execPackE2m1Compact c d a b s
  | .packBf16Compact c d a b => Sys2Proof.Machine.execPackBf16Compact c d a b s
  | .unpkE4m3Compact c d a => Sys2Proof.Machine.execUnpkE4m3Compact c d a s
  | .unpkE5m2Compact c d a => Sys2Proof.Machine.execUnpkE5m2Compact c d a s
  | .unpkE2m1Compact c d a => Sys2Proof.Machine.execUnpkE2m1Compact c d a s
  | .unpkBf16Compact c d a => Sys2Proof.Machine.execUnpkBf16Compact c d a s
  | .dot4S8Compact c d a b => Sys2Proof.Machine.execDot4S8Compact c d a b s
  | .dot8S4Compact c d a b => Sys2Proof.Machine.execDot8S4Compact c d a b s
  | .fdot4E4m3Compact c d a b => Sys2Proof.Machine.execFdot4E4m3Compact c d a b s
  | .fdot4E5m2Compact c d a b => Sys2Proof.Machine.execFdot4E5m2Compact c d a b s
  | .shflIdxCompact c d a b => Sys2Proof.Machine.execShflIdxCompact c d a b s
  | .shflUpCompact c d a b => Sys2Proof.Machine.execShflUpCompact c d a b s
  | .shflDownCompact c d a b => Sys2Proof.Machine.execShflDownCompact c d a b s
  | .shflXorCompact c d a b => Sys2Proof.Machine.execShflXorCompact c d a b s
  | .matchZ32Compact c d a => Sys2Proof.Machine.execMatchZ32Compact c d a s
  | .matchZ64Compact c d a => Sys2Proof.Machine.execMatchZ64Compact c d a s
  | .bfeZ32Compact c d a b => Sys2Proof.Machine.execBfeZ32Compact c d a b s
  | .bfeS32Compact c d a b => Sys2Proof.Machine.execBfeS32Compact c d a b s
  | .popcZ64Compact c d a => Sys2Proof.Machine.execPopcZ64Compact c d a s
  | .clzZ64Compact c d a => Sys2Proof.Machine.execClzZ64Compact c d a s
  | .ldPoolZ32Compact c d a => Sys2Proof.Machine.execLdPoolZ32Compact c d a s
  | .stPoolZ32Compact c a b => Sys2Proof.Machine.execStPoolZ32Compact c a b s
  | .ldCoreZ32Compact c d a => Sys2Proof.Machine.execLdCoreZ32Compact c d a s
  | .stCoreZ32Compact c a b => Sys2Proof.Machine.execStCoreZ32Compact c a b s
  | .ldLaneZ32Compact c d a => Sys2Proof.Machine.execLdLaneZ32Compact c d a s
  | .stLaneZ32Compact c a b => Sys2Proof.Machine.execStLaneZ32Compact c a b s
  | .ldGlobZ32Compact c d a => Sys2Proof.Machine.execLdGlobZ32Compact c d a s
  | .stGlobZ32Compact c a b => Sys2Proof.Machine.execStGlobZ32Compact c a b s
  | .ldCoreZ64Compact c d a => Sys2Proof.Machine.execLdCoreZ64Compact c d a s
  | .stCoreZ64Compact c a b => Sys2Proof.Machine.execStCoreZ64Compact c a b s

end Sys2Proof.Machine
end

