-- ==== Sys2Proof/Machine/Cycle.lean ====
section
/-! DEFINITION. How the device comes from one instant to the next (R1, R5, R96, R258, R259): what it tidies between events, the events that
must happen now, those that may, the issue of a clk, and the clk's end. -/

namespace Sys2Proof.Machine

/-! ## Between events -/

/-- Acts on every group that the device holds, as it stands when its turn comes. -/
def State.eachGroup (s : State) (f : State → Group → State) : State :=
  (s.groups.map (·.1)).foldl (fun s uid => match s.group? uid with | some g => f s g | none => s) s

/-- Acts on every team. -/
def State.eachTeam (s : State) (f : State → Team → State) : State :=
  (s.teams.map (·.1)).foldl (fun s uid => match s.team? uid with | some t => f s t | none => s) s

/-- A group whose residency is over is gone (R151): it has ended, and its instructions have completed. -/
def State.dropEnded (s : State) : State :=
  { s with groups := s.groups.filter fun (e : Nat × Group) =>
      !(e.2.place = .ended && !(s.ops.any fun o => o.grp == e.1)) }

/-- Whether a remote transfer or collective of a team is under way, for whose energy its context still pays (R379). -/
def State.farBusy (s : State) (team : Nat) : Bool :=
  (s.remotes.any fun r => r.team == team && !r.isOver) || s.colls.any fun k => k.team == team && !k.isOver

/-- A team has left its core once its last group has and its engine transfers have landed (R293). -/
def State.dropEndedTeams (s : State) : State :=
  { s with teams := s.teams.filterMap fun (e : Nat × Team) =>
      if (s.groups.any fun (g : Nat × Group) => g.2.team == e.1) || s.threads.any fun t => t.team == e.1 then some e
      else if s.farBusy e.1 then some (e.1, e.2.release)
      else none }

/-- The group that a vigil entry names still waits. -/
def State.waitLives (s : State) (v : Vigil) : Bool :=
  (match s.group? v.grp with | some g => g.place != .ended | none => false) ||
    s.saved.any fun t => t.groups.any fun g => g.uid == v.grp

/-- Entries of the overflow area whose group has ended are removed (R151). -/
def State.dropDeadWaits (s : State) : State :=
  (s.vigil.filter fun v => v.overflow.isSome && !s.waitLives v).foldl State.removeEntry s

/-- Remote transfers and collectives that nothing can come of are forgotten. -/
def State.dropOver (s : State) : State :=
  { s with
    remotes := s.remotes.filter fun r => !r.isOver || (s.group? r.grp).isSome
    colls := s.colls.filter fun k => !k.isOver }

/-- Once no WRITE of the host's is held, doorbell writes that came after one wait for its completion time like the others (R371). -/
def State.dueDoorbells (s : State) : State :=
  if s.hostHeld then s
  else
    { s with doorbells := s.doorbells.map fun (d : Nat × Nat × Word × Option Nat) =>
        (d.1, d.2.1, d.2.2.1, match d.2.2.2 with | some t => some t | none => some s.hostHorizon) }

/-- The oldest doorbell write, when it may be performed, and READs of doorbells when none is left (R371). -/
def State.ringDoorbell (s : State) : State :=
  match s.doorbells with
  | (a, off, v, due) :: rest =>
    if (s.context? a).isNone then { s with doorbells := rest }
    else if !due.any (fun d => decide (d ≤ now s)) then s
    else { s with agenda := s.agenda ++ [if off = 0 then .sqtail a v else .sqstatOver a v] }
  | [] => { s with agenda := s.agenda ++ s.hostWait, hostWait := [] }

/-- What follows at once from what has happened: handlers are left, groups unwound and halted again, teams taken out or gone, waits and
transfers ended, switches finished, and the mailboxes' slots filled. -/
def State.settle (s : State) : State :=
  let s := s.eachGroup fun s g => s.exitHandler g
  let s := s.eachGroup fun s g => s.unwindGroup g
  let s := s.eachGroup fun s g => s.haltAgain g
  let s := (List.range 8).foldl State.lanternSettle s
  let s := s.dropDeadWaits.dropEnded.dropEndedTeams
  let s := s.eachTeam fun s t => if s.isOut t then s.takeOut t else s
  let s := s.tidyReels.arrivals.collsOver.dropOver
  let s := (s.contexts.map (·.1)).foldl (fun s a => match s.context? a with | some c => s.switchOver c | none => s) s
  s.fwSettle.dueDoorbells.ringDoorbell

/-! ## Events that happen as soon as they may -/

/-- Events that nothing delays (R12, R105, R124, R248, R300, R302, R330, R340, R349). -/
def State.prompt (s : State) : List Instr :=
  s.splitWanted.map (fun (w : Nat × Nat × Nat) => Instr.splitChange w.1) ++
    (s.groups.filter fun (e : Nat × Group) => e.2.hold matches .sleep ..).map (fun e => Instr.sleepWake e.1) ++
    (s.groups.map (·.1)).flatMap (fun g => [.lateMemUncorrectable g, .noticeDelivery g, .preemptionSave g, .addressBreakpoint g]) ++
    (s.teams.map (·.1)).flatMap (fun t => [.tbarCompletion t, .phaseEnd t]) ++
    (s.contexts.map (·.1)).map Instr.contextSwitchDeadline

/-! ## Events that happen at an instant that the spec does not state (R258, R262, R290) -/

/-- Those of an operation. -/
def opEvents (o : Op) : List Instr :=
  match o.job with
  | .access a =>
    (if a.coalesced then [.accessPerform o.uid 0]
     else ((List.range a.units.length).zip a.units).filterMap fun e => if e.2.performed then none else some (.accessPerform o.uid e.1)) ++
      [.accessComplete o.uid]
  | .almanac .. => [.accessPerform o.uid 0]
  | .matrix m => (List.range (m.reads.length + m.writes.length)).map (Instr.accessPerform o.uid) ++ [.matrixCompletion o.uid]
  | .attempt .. => [.firstAttemptAnswer o.uid]
  | .launch .. => [.launchAcceptance o.uid]
  | .mapreq .. => [.mapreqAnswer o.uid]
  | .fence .. | .range .. | .wstat .. | .answer | .reelWait .. => [.accessComplete o.uid]
  | _ => []

/-- A message that this device has sent to itself arrives. -/
def messageEvent (own : BitVec 10) (m : TetherMsg) : Option Instr :=
  match m with
  | .frame f =>
    if f.dst != own then none
    else
      some
        (if f.ver != 0 then .reservedFrameDrop f
         else
           match f.kind.toNat with
           | 1 => .part f
           | 2 => .result f
           | 3 => .block f
           | 4 => .abort f
           | 5 => .faddFrame f
           | 6 => .faddr f
           | _ => .reservedFrameDrop f)
  | .write d x => if d = own then some (.transactionWrite x) else none
  | .read d x => if d = own then some (.transactionRead x) else none
  | .readCompletion d x => if d = own then some (.transactionReadCompletion x) else none
  | .atomic d x ty op => if d = own then some (.transactionAtomic x ty op) else none
  | .atomicCompletion d x => if d = own then some (.transactionAtomicCompletion x) else none

/-- The event of the firmware command that waits, by its code (R375). -/
def fwEvent? (cmd : Nat) : List Instr :=
  match cmd with
  | 1 => [.ctxCreate]
  | 2 => [.ctxTeardown]
  | 3 => [.ctxSwitch]
  | 4 => [.ctxResume]
  | 5 => [.energySet]
  | 6 => [.capRaise]
  | 7 => [.shootdown]
  | 8 => [.hash]
  | 9 => [.attest]
  | 10 => [.faultLog]
  | 11 => [.routeSet]
  | 12 => [.routeLock]
  | 13 => [.migrateAnswer]
  | 14 => [.splitSet]
  | _ => []

/-- The event of a Lantern command, by its code (R352). -/
def lanternEvent? (stack cmd : Nat) : List Instr :=
  match cmd with
  | 1 => [.haltCmd stack]
  | 2 => [.readCmd stack]
  | 3 => [.writeCmd stack]
  | 4 => [.stepCmd stack]
  | 5 => [.breakCmd stack]
  | 6 => [.resumeCmd stack]
  | 7 => [.splitsCmd stack]
  | _ => []

/-- What each core may take from the ready queues. -/
def State.pulls (s : State) : List Instr :=
  if s.ready.isEmpty && s.reservedFor.isEmpty then []
  else (List.range 256).filterMap fun core => (s.nextTask core).map fun e => .taskPull core e.1

/-- A migration that the device may make of its own accord (R242): of one of a page's sixteen blocks, to some column. -/
def State.migrations (s : State) : List Instr :=
  let k := Config.choose s.fresh
  (s.tlb.filter fun t => t.leaf.getLsbD 7).map fun t => .migration (t.base / 4096 + k % 16) (k / 16 % 256)

/-- Every event that may happen now, and some that may not, migrations apart. -/
def State.offers (s : State) : List Instr :=
  (s.wantedLines.filter fun w => !(s.icache.any fun l => l.core == w.1 && l.asid == w.2.1 && l.line == w.2.2)).map
      (fun w => Instr.icacheFill w.1 w.2.1 w.2.2) ++
    s.ops.flatMap opEvents ++
    s.threads.flatMap (fun t => (List.range t.words.length).map (Instr.accessPerform t.uid) ++ [.copyTransferDone t.uid]) ++
    s.remotes.flatMap (fun r => (List.range (max 1 r.todo.length)).map (Instr.accessPerform r.op)) ++
    s.colls.flatMap (fun k => (List.range (k.toRead.length + k.toWrite.length)).map (Instr.accessPerform k.uid)) ++
    (match s.devid with | some own => s.tetherOut.filterMap (messageEvent own) | none => []) ++
    s.watch.map (fun w => Instr.vigilRetry w.1) ++
    s.posted.map (fun m => Instr.mapreqAnswer m.op) ++
    s.contexts.map (fun (e : Nat × Context) => Instr.submissionTake e.1) ++
    s.pulls ++
    fwEvent? (reqCmd s.fwRequest) ++ [.firmwareEventDeliver] ++
    (List.range 8).flatMap (fun k => lanternEvent? k (reqCmd (s.lanternAt k).request) ++ [.lanternEvent k]) ++
    s.maint.map Maint.over

/-- What the device may do next. -/
def State.candidates (s : State) : List Instr := s.offers ++ s.migrations

/-- Whether an event may happen now. -/
def enabled (s : State) (i : Instr) : Bool := match exec i s with | .next _ => true | _ => false

/-- One event of the device between its clks: one that must happen now, else one that may, or none, which ends the events of this clk
(log entry 4). -/
def eventStep (s : State) : Out :=
  let s := s.settle
  if !s.agenda.isEmpty then .next s
  else
    match s.prompt.find? (enabled s) with
    | some i => exec i s
    | none =>
      let c := s.candidates
      let k := s.choice (c.length + 1)
      if k.1 = c.length then .next { k.2 with turn := 1 }
      else
        match (c.drop k.1 ++ c.take k.1).find? (enabled k.2) with
        | some i => exec i k.2
        | none => .next { k.2 with turn := 1 }

/-! ## The issue of a clk (R96) -/

/-- What stands at an address of a held line, as its word says (R36 to R41). -/
noncomputable def ILine.instrAt (l : ILine) (pc : DWord) (hand : Bool) : Nat × Except (BitVec 8 × BitVec 3) Instr :=
  match l.fail with
  | some f => (0, .error f)
  | none =>
    if l.priv && !hand then (0, .error (tcPerm, 1))
    else
      match lineAt l.words 0 (pc.toNat % 64 / 4) with
      | none => (0, .error (tcOpcode, 0))
      | some (n, .ok i) => (n, .ok i)
      | some (n, .error f) => (n, .error (fateAt l.words (pc.toNat % 64 / 4) hand f, 0))

/-- What a split of a group fetches next. -/
noncomputable def State.fetched (s : State) (g : Group) (sp : Split) : Option (Nat × Except (BitVec 8 × BitVec 3) Instr) :=
  (s.line? g sp.pc).map fun l => l.instrAt sp.pc g.hand.isSome

/-- A choice of the picker issues what its split fetches. -/
def issueAs (s : State) (uid split : Nat) (fetch : Group → Split → Option (Nat × Except (BitVec 8 × BitVec 3) Instr)) : Out :=
  match s.group? uid with
  | none => .next s
  | some g =>
    match g.bk.split? split with
    | none => .next s
    | some sp =>
      match fetch g sp with
      | none => .next s
      | some (n, .error f) => .next (s.fetchTrap uid split n f.1 f.2)
      | some (n, .ok i) => exec i { s with cur := .group uid split sp.pc n }

/-- The partitions' part of a clk: held queue positions are retired, then the picker serves the partition (R217). -/
def partStep (s : State) (k : Nat) : Out :=
  match (s.slotHolders (k / 4) (k % 4)).findSome? fun g => (s.retireDue g).map fun q => Instr.queueRetire g.uid q with
  | some i => exec i { s with turn := k + 1 }
  | none => .next { s.servePart (k / 4) (k % 4) with turn := k + 2 }

/-- The turn at which the partitions have all been served. -/
def reelTurns : Nat := 1025

/-- The Reels' part of a clk (R229): on every core one context executes one slice instruction. -/
def State.reelDue (s : State) : Option (Nat × Nat) :=
  ((s.reels.map fun (e : Nat × ReelCtx) => e.1 / 4).eraseDups).findSome? fun core =>
    if s.isLive core && decide (s.turn ≤ reelTurns + core) then (s.reelTurn core).map fun ctx => (core, ctx) else none

/-- Partitions on which a group may be activated. -/
def State.readyParts (s : State) : List Nat :=
  ((s.groups.filter fun (e : Nat × Group) => s.isLive e.2.core && e.2.place matches .ready _).map fun e => partKey e.2.core e.2.part).eraseDups

/-- A wanted line may be evicted at a clk's end, whichever it is (R249): none when the choice is 0. -/
def State.evictLine (s : State) : State :=
  let k := s.choice (s.icache.length + 1)
  if k.1 = 0 then k.2 else { k.2 with icache := s.icache.take (k.1 - 1) ++ s.icache.drop k.1 }

/-- Update-only copies may go home by themselves at a clk's end (R245): those of one line of one core, whichever it is, or none when the
choice is 0. -/
def State.evictPartials (s : State) : State :=
  let k := s.choice (s.partials.length + 1)
  match if k.1 = 0 then none else s.partials[k.1 - 1]? with
  | none => k.2
  | some p =>
    let mine (q : Partial) : Bool := q.core == p.core && q.addr / 128 == p.addr / 128
    (s.partials.filter mine).foldl applyPartial { k.2 with partials := s.partials.filter fun q => !mine q }

/-- The events with which an operation lands or completes at its clk (R92, R215, R217); a scratch access that has not been performed is
performed then. -/
def landEvents (o : Op) : List Instr :=
  match o.job with
  | .plain | .preds | .popped | .uwrite .. | .uread .. => [.fixedResultLands o.uid]
  | .push .. => [.queueLand o.uid]
  | .access a =>
    if o.due.isNone then []
    else
      ((List.range a.units.length).zip a.units).filterMap
          (fun e => if e.2.performed || (a.coalesced && e.1 != 0) then none else some (.accessPerform o.uid e.1)) ++ [.accessComplete o.uid]
  | _ => []

/-- Whether the clk that has been reached is one of the core of an operation's group. -/
def State.opLive (s : State) (o : Op) : Bool := match s.group? o.grp with | some g => s.isLive g.core | none => s.fullLive

/-- What lands by itself at its clk (R92, R215, R217): a UREAD after the rest. -/
def State.landings (s : State) : List Instr :=
  let due := s.ops.filter fun o => s.opLive o && s.opDue o
  let last (o : Op) : Bool := o.job matches .uread ..
  ((due.filter fun o => !last o) ++ due.filter last).flatMap landEvents

/-- Events whose instant has come (R243, R290, R319, R320, R379, R386). -/
def State.timed (s : State) : List Instr :=
  (s.copies.filter fun c => decide (c.expiry ≤ now s)).map (fun c => Instr.leaseExpiry c.core c.line) ++
    (if s.lastTick + Config.accountTick ≤ now s then [.accountTick] else []) ++
    (s.maint.filter fun m => decide (m.since + maintBound ≤ now s + 1)).map Maint.over ++
    (s.ready.filter fun e => decide (e.level < 10) && decide (e.since + Config.agingInterval ≤ now s)).map
      (fun e => Instr.aging e.stack (taskKey e.asid e.task)) ++
    (s.vigil.filter fun v => v.op == .chpush && v.retry == 0).map (fun v => Instr.channelOverflowDelay v.asid v.addr) ++
    ((s.vigil.filter fun v => v.retry != 0).map (·.asid) ++ (s.ops.filter fun o => o.chunkRetry != 0).map s.opAsid).eraseDups.map
      Instr.chunkPoolRetry

/-- The boot ROM goes on (R385): the coldest junction's reading is not the device's to choose. -/
def State.booting (s : State) : List Instr := if s.stage = 7 || s.stage = 4 then [] else [.powerGood s.tjmin]

/-- What has been possible for long happens (R22): the spec promises progress without a bound, and at every so many clk all that may happen
does, migrations apart (log entry 48). -/
def State.overdue (s : State) : List Instr := if s.clk % (Config.patience + 1) = 0 then s.offers else []

/-- The next instant that is a clk of some core. -/
def State.nextEdge (s : State) : Nat := s.clocks.foldl (fun m (e : Nat × Clock) => min m e.2.edge) s.edge

/-- Device time goes on to the next clk of any core (R5, R384): of those that run at full speed together, and of each that has a clock of
its own. -/
def State.advanceTime (s : State) : State :=
  let at_ := s.nextEdge
  let full := decide (s.edge = at_)
  { s with
    time := at_
    fullLive := full
    clk := if full then s.clk + 1 else s.clk
    edge := if full then s.edge + 10 else s.edge
    clocks := s.clocks.map fun (e : Nat × Clock) => (e.1, if e.2.edge = at_ then e.2.next else { e.2 with live := false }) }

/-- The end of a clk: device time goes on, and what is due at the next one is in hand. The coldest junction has a new reading, which is not
the device's to choose (R385). -/
def State.tick (s : State) : State :=
  let s := { s with turn := 0, picks := [] }.advanceTime.evictLine.evictPartials
  let v := s.free
  let s := { v.2 with tjmin := v.1.setWidth 8 }
  { s with agenda := s.booting ++ s.landings ++ s.timed ++ s.overdue }

/-- The clk after its events: the partitions in turn, the Reels, activations, and the clk's end. -/
def serveStep (s : State) : Out :=
  match if s.turn < reelTurns then s.nextPart (s.turn - 1) else none with
  | some k => partStep s k
  | none =>
    match s.reelDue with
    | some (core, ctx) => exec (.reelExecute core ctx) { s with turn := reelTurns + core + 1 }
    | none =>
      match (s.readyParts.map fun k => Instr.activation (k / 4) (k % 4)).find? (enabled s) with
      | some i => exec i { s with turn := reelTurns + 256 }
      | none => .next s.tick

/-- An event in hand happens; one that has become impossible does not. -/
def agendaStep (i : Instr) (s : State) : Out :=
  match exec i s with
  | .fault .notEnabled => .next s
  | o => o

/-- After a thermal trip nothing happens until the cold start (R383). -/
def stoppedStep (s : State) : Out :=
  match s.agenda with
  | [] => .next s
  | .powerGood t :: rest => exec (.powerGood t) { s with agenda := rest }
  | _ :: rest => .next { s with agenda := rest }

/-- A step with the fetch given. -/
def stepWith (fetch : State → Group → Split → Option (Nat × Except (BitVec 8 × BitVec 3) Instr)) (s : State) : Out :=
  if s.stopped then stoppedStep s
  else
    match s.agenda with
    | i :: rest => agendaStep i { s with agenda := rest }
    | [] =>
      if s.turn = 0 then eventStep s
      else
        match s.picks with
        | (uid, split) :: rest => issueAs { s with picks := rest } uid split (fetch { s with picks := rest })
        | [] => serveStep s

end Sys2Proof.Machine
end

