-- ==== Sys2Proof/Laws/Compact.lean ====
section
/-! SUPPORT. A compact word is decoded to a row whose full form is what the picker reads, and the two have the same meaning (R51, R52). -/

namespace Sys2Proof

/-- An instruction in its full form, or the fate of its word. -/
def coreOf : Except Fate Instr → Except Fate Instr
  | .ok i => .ok i.core
  | .error e => .error e

/-- What the decoder makes of a compact code's row. -/
def rowOut (w : Word) : Option Instr → Except Fate Instr
  | none => .error .control
  | some i => if i.compactWord != some w || !i.operandsOk then .error .operand else .ok i

/-- What the picker makes of its full form. -/
def formOut (x y z : BitVec 5) : Option (Instr × Bool × Bool × Bool) → Except Fate Instr
  | none => .error .control
  | some (i, ud, ua, ub) => if (!ud && x != 0) || (!ua && y != 0) || (!ub && z != 0) || !i.operandsOk then .error .operand else .ok i

theorem unused_zero (k : BitVec 7) (c : CCtl) (x y z : BitVec 5) (w : Word) (self : compactBits k c x y z = w) (ud ua ub : Bool) :
    (some (compactBits k c (if ud then x else 0) (if ua then y else 0) (if ub then z else 0)) != some w) =
      ((!ud && x != 0) || (!ua && y != 0) || (!ub && z != 0)) := by
  rw [← self, Bool.eq_iff_iff]
  simp only [bne_iff_ne, ne_eq, Option.some.injEq, compactBits_inj, Bool.or_eq_true, Bool.and_eq_true, Bool.not_eq_true']
  have ex : (0#5 = x) = (x = 0#5) := propext eq_comm
  have ey : (0#5 = y) = (y = 0#5) := propext eq_comm
  have ez : (0#5 = z) = (z = 0#5) := propext eq_comm
  cases ud <;> cases ua <;> cases ub <;> by_cases hx : x = 0#5 <;> by_cases hy : y = 0#5 <;>
    by_cases hz : z = 0#5 <;> simp [ex, ey, ez, hx, hy, hz]

theorem rows_agree (k : BitVec 7) (c : CCtl) (x y z : BitVec 5) (w : Word) (self : compactBits k c x y z = w)
    (r : Option Instr) (q : Option (Instr × Bool × Bool × Bool)) (agree : compactAgree k c (.ofBits x) (.ofBits y) (.ofBits z) r q) :
    coreOf (rowOut w r) = formOut x y z q := by
  cases r with
  | none => cases q with
    | none => rfl
    | some q => exact agree.elim
  | some i => cases q with
    | none => exact agree.elim
    | some q =>
      obtain ⟨j, ud, ua, ub⟩ := q
      obtain ⟨hc, ho, hw⟩ := agree
      have key := unused_zero k c x y z w self ud ua ub
      simp only [COpnd.bits_ofBits] at hw
      rw [← hw] at key
      simp only [rowOut, formOut, key, ho]
      split <;> simp only [coreOf, hc]

/-- A compact word's row has the full form that `coreCompact` reads. -/
theorem decodeCompact_core (w : Word) (h : w.getLsbD 31 = false) : coreOf (decodeCompact w) = coreCompact w := by
  have agree := compact_agree (w.extractLsb' 24 7).toNat (w.extractLsb' 24 7).isLt
    { stall := w.extractLsb' 20 4, set := w.extractLsb' 16 4, yield := w.getLsbD 15 }
    (.ofBits (w.extractLsb' 10 5)) (.ofBits (w.extractLsb' 5 5)) (.ofBits (w.extractLsb' 0 5))
  rw [BitVec.ofNat_toNat, BitVec.setWidth_eq] at agree
  have out := rows_agree _ _ _ _ _ w (compactBits_self w h) _ _ agree
  have e1 : decodeCompact w = if 12 ≤ (w.extractLsb' 16 4).toNat && (w.extractLsb' 16 4).toNat ≤ 14 then .error .control
      else rowOut w (compactRow (w.extractLsb' 24 7).toNat { stall := w.extractLsb' 20 4, set := w.extractLsb' 16 4, yield := w.getLsbD 15 }
        (.ofBits (w.extractLsb' 10 5)) (.ofBits (w.extractLsb' 5 5)) (.ofBits (w.extractLsb' 0 5))) := by
    rw [decodeCompact]
    rfl
  have e2 : coreCompact w = if 12 ≤ (w.extractLsb' 16 4).toNat && (w.extractLsb' 16 4).toNat ≤ 14 then .error .control
      else formOut (w.extractLsb' 10 5) (w.extractLsb' 5 5) (w.extractLsb' 0 5)
        (compactCore (w.extractLsb' 24 7).toNat { stall := w.extractLsb' 20 4, set := w.extractLsb' 16 4, yield := w.getLsbD 15 }
          (.ofBits (w.extractLsb' 10 5)) (.ofBits (w.extractLsb' 5 5)) (.ofBits (w.extractLsb' 0 5))) := by
    rw [coreCompact]
    rfl
  rw [e1, e2]
  by_cases h : (12 ≤ (w.extractLsb' 16 4).toNat && (w.extractLsb' 16 4).toNat ≤ 14) = true
  · rw [if_pos h, if_pos h]; rfl
  · rw [if_neg h, if_neg h, out]

/-- Two readings of a word agree: the same fate, or an instruction and itself or its full form. -/
def agreeOn {ε : Type} : Except ε Instr → Except ε Instr → Prop
  | .ok i, .ok j => j = i ∨ j = i.core
  | .error e, .error f => e = f
  | _, _ => False

theorem agreeOn_refl {ε : Type} (x : Except ε Instr) : agreeOn x x := by
  cases x <;> simp [agreeOn]

theorem agreeOn_coreOf (x : Except Fate Instr) : agreeOn x (coreOf x) := by
  cases x <;> simp [agreeOn, coreOf]

theorem words_agree (ws : List Word) : agreeOn (decodeWords ws) (coreWords ws) := by
  cases ws with
  | nil => exact agreeOn_refl _
  | cons w rest =>
    rw [decodeWords.eq_def, coreWords.eq_def]
    by_cases h : w.getLsbD 31 = false
    · simp only [h, Bool.not_false, if_true]
      rw [← decodeCompact_core w h]
      exact agreeOn_coreOf _
    · simp only [Bool.not_eq_false] at h
      simp only [h, Bool.not_true, Bool.false_eq_true, if_false]
      exact agreeOn_refl _

/-- Two readings of a line agree. -/
def lineAgree : Option (Nat × Except Fate Instr) → Option (Nat × Except Fate Instr) → Prop
  | some (n, x), some (m, y) => n = m ∧ agreeOn x y
  | none, none => True
  | _, _ => False

theorem line_agree (ws : List Word) : ∀ skip k, lineAgree (lineAt ws skip k) (coreLineAt ws skip k) := by
  induction ws with
  | nil => intro skip k; simp [lineAt, coreLineAt, lineAgree]
  | cons w ws ih =>
    intro skip k
    cases skip with
    | succ n =>
      simp only [lineAt, coreLineAt]
      split
      · trivial
      · exact ih n (k - 1)
    | zero =>
      simp only [lineAt, coreLineAt]
      split
      · exact ⟨rfl, words_agree _⟩
      · exact ih _ _

namespace Machine

set_option maxRecDepth 4000 in
/-- An instruction and its full form have the same meaning (R51, R52). -/
theorem exec_core (i : Instr) (s : State) : exec i s = exec i.core s := by
  cases i <;> rfl

theorem exec_agree {ε : Type} {i j : Instr} (h : agreeOn (ε := ε) (.ok i) (.ok j)) (s : State) : exec i s = exec j s := by
  rcases h with rfl | rfl
  · rfl
  · exact exec_core i s

/-- What a line's reading gives a group, with the trap of each fate. -/
def fetchOf (code : Fate → BitVec 8) : Option (Nat × Except Fate Instr) → Nat × Except (BitVec 8 × BitVec 3) Instr
  | none => (0, .error (tcOpcode, 0))
  | some (n, .ok i) => (n, .ok i)
  | some (n, .error f) => (n, .error (code f, 0))

theorem fetchOf_agree (code : Fate → BitVec 8) (x y : Option (Nat × Except Fate Instr)) (h : lineAgree x y) :
    (fetchOf code x).1 = (fetchOf code y).1 ∧ agreeOn (fetchOf code x).2 (fetchOf code y).2 := by
  rcases x with _ | ⟨n, e | i⟩ <;> rcases y with _ | ⟨m, f | j⟩
  all_goals first
    | exact h.elim
    | exact h.2.elim
    | exact ⟨rfl, rfl⟩
    | exact ⟨h.1, h.2⟩
    | exact ⟨h.1, congrArg (fun e => (code e, (0 : BitVec 3))) h.2⟩

theorem instrAt_agree (l : ILine) (pc : DWord) (hand : Bool) :
    (l.instrAt pc hand).1 = (l.coreAt pc hand).1 ∧ agreeOn (l.instrAt pc hand).2 (l.coreAt pc hand).2 := by
  rw [ILine.instrAt, ILine.coreAt]
  cases l.fail with
  | some f => exact ⟨rfl, rfl⟩
  | none =>
    cases (l.priv && !hand) with
    | true => exact ⟨rfl, rfl⟩
    | false => exact fetchOf_agree (fateAt l.words (pc.toNat % 64 / 4) hand) _ _ (line_agree l.words 0 (pc.toNat % 64 / 4))

/-- What a picker's choice does with what it fetches. -/
def issueFetched (s : State) (uid split : Nat) (pc : DWord) : Option (Nat × Except (BitVec 8 × BitVec 3) Instr) → Out
  | none => .next s
  | some (n, .error f) => .next (s.fetchTrap uid split n f.1 f.2)
  | some (n, .ok i) => exec i { s with cur := .group uid split pc n }

theorem issueFetched_agree (s : State) (uid split : Nat) (pc : DWord) (x y : Nat × Except (BitVec 8 × BitVec 3) Instr)
    (h : x.1 = y.1 ∧ agreeOn x.2 y.2) : issueFetched s uid split pc (some x) = issueFetched s uid split pc (some y) := by
  rcases x with ⟨n, e | i⟩ <;> rcases y with ⟨m, f | j⟩
  · obtain ⟨hn, hx⟩ := h
    simp only at hn
    rw [hn, show e = f from hx]
  · exact h.2.elim
  · exact h.2.elim
  · obtain ⟨hn, hx⟩ := h
    simp only at hn
    subst hn
    exact exec_agree hx _

/-- A fetch that reads compact words in their full form issues the same. -/
theorem issueAs_fetched (s : State) (uid split : Nat) : issueAs s uid split s.fetched = issueAs s uid split s.nextOf := by
  rw [issueAs, issueAs]
  cases s.group? uid with
  | none => rfl
  | some g =>
    dsimp only
    cases g.bk.split? split with
    | none => rfl
    | some sp =>
      show issueFetched s uid split sp.pc (s.fetched g sp) = issueFetched s uid split sp.pc (s.nextOf g sp)
      rw [State.fetched, State.nextOf]
      cases s.line? g sp.pc with
      | none => rfl
      | some l => exact issueFetched_agree _ _ _ _ _ _ (instrAt_agree l sp.pc g.hand.isSome)

theorem stepWith_fetched (s : State) : stepWith State.fetched s = stepWith State.nextOf s := by
  rw [stepWith, stepWith]
  cases s.agenda with
  | cons i rest => rfl
  | nil =>
    cases s.picks with
    | nil => rfl
    | cons p rest => dsimp only; rw [issueAs_fetched]

end Machine

end Sys2Proof
end

