-- ==== Sys2Proof/Machine/Place.lean ====
section
/-! DEFINITION. A device on which one group is about to issue given words: what a launch, a placement, an activation and a line fill
would have left (log entry 13). -/

namespace Sys2Proof.Machine

/-- Where the words stand: the first words of a line of the address space 0. -/
def placePc : Nat := 0x1000

/-- A context without tables, whose account is not empty. -/
def placeContext : Context :=
  { asid := 0, ptroot := 0, sqBase := 0, sqLog := 1, sqTail := 0, sqHead := 0, sqOver := false, sqStop := false, trapTab := 0
    taskPool := 0, taskPN := 0, taskPS := 0, vovb := 0, chkpb := 0, chkpn := 0, chdly := 20, saveb := 0, saveSize := 0, winTab := 0
    cgTab := 0, strmax := 8192, debug := false, bal := 1, rate := 0, ceil := 0, allow := 0, next := none, isOver := false, log := []
    lost := false, op := .none, order := [], chunks := [] }

/-- A launch of one team of one 32-wide group with 248 D registers; its image lies just before the words. -/
def placeLaunch (uid : Nat) : Launch :=
  { uid := uid, asid := 0, recAddr := 0
    image := { addr := placePc - 256, width := 32, codeOff := 128, codeSize := 4096, liveOff := 0, liveCnt := 0, carryOff := 0, carryCnt := 0
               sliceOff := 0, sliceCnt := 0, estimate := 0 }
    spawned := false, teams := 1, groups := 1, prio := 0, policy := false, bridle := false
    roles := [{ count := 1, dslots := 248, prio := 0 }], tscr := 0, lanez := 0, pool := 0, kbank := [], ecap := 0, pmap := [0]
    future := 0, prBase := 0, prgBlk := 0, desc := 0, parent := none, stack := 0, begun := [0], ended := [], clean := 0
    endgs := [], complete := false, regions := [], used := 0, capped := false }

def placeTeam (uid launch : Nat) : Team :=
  { uid := uid, launch := launch, index := 0, asid := 0, task := 0, phase := 0, core := 0, bridle := false, placed := uid, base := 0
    base2 := 0, tregs := [], twrites := [], queues := [], before := [], exited := [], parking := none, released := false }

/-- The group, past its first STRAND, in slot 0 of its partition. -/
def placeGroup (uid team clk : Nat) : Group :=
  let g := newGroup (placeLaunch 0) team uid 0 0 0 clk
  { g with
    place := .active 0 clk
    strand := { g.strand with pc := BitVec.ofNat 64 (placePc - 12) }
    bank := { g.bank with splits := g.bank.splits.map fun sp => { sp with pc := BitVec.ofNat 64 placePc } } }

/-- The device with the words at the address that the group's split fetches from, the picker having chosen it. -/
def State.placeWords (s : State) (ws : List Word) : State :=
  let n := s.nextId
  let line : ILine :=
    { core := 0, asid := 0, line := placePc / 64, words := (ws ++ List.replicate 16 0).take 16, priv := false, fail := none }
  { s with
    stage := 7, stopped := false, agenda := [], turn := 1, picks := [(n + 2, 0)], nextId := n + 3
    contexts := tabSet s.contexts 0 placeContext
    launches := tabSet s.launches n (placeLaunch n)
    teams := tabSet s.teams (n + 1) (placeTeam (n + 1) n)
    groups := tabSet s.groups (n + 2) (placeGroup (n + 2) (n + 1) (s.clkOf 0))
    icache := line :: s.icache.filter fun l => !(l.core == 0 && l.asid == 0 && l.line == placePc / 64) }

end Sys2Proof.Machine
end

