-- ==== Sys2Proof/Machine/Step.lean ====
section
/-! DEFINITION. One step of the device, and the device about to issue a given word. -/

namespace Sys2Proof.Machine

/-- One step: an event in hand, an event of the device between its clks, an instruction that the picker has chosen, or the next part of
the clk. -/
noncomputable def step (s : State) : Host.Outcome State Fault Refusal := stepWith State.fetched s

/-- The step as it runs: compact words are read in their full form, which has the same meaning. -/
def stepRun (s : State) : Host.Outcome State Fault Refusal := stepWith State.nextOf s

@[csimp] theorem step_eq_stepRun : @step = @stepRun := by
  funext s
  exact stepWith_fetched s

/-- The device about to fetch and run the instruction whose bits are `w`, as the opcode table numbers them. -/
def State.withFetchWord (s : State) (nbits w : Nat) : State := s.placeWords (tableWords nbits w)

end Sys2Proof.Machine
end

