-- ==== Sys2Proof/Safety.lean ====
section
/-! DEFINITION. What counts as a safe run: the device never stops (R1 and the rules of faults give every condition an effect on the device,
none an end of it), and every state on the way keeps the forms that State's tables rest on. -/

namespace Sys2Proof.Machine

/-- The three memories, DRAM, the scratchpads and the slice pools, are in canonical form. -/
def State.memWf (s : State) : Bool := Memory.wf s.dram && Memory.wf s.scratch && Memory.wf s.pool

/-- Every record of a table is listed under its own identifier. -/
def keyed {α : Type} (id : α → Nat) (t : Tab α) : Bool := t.all fun e => id e.2 == e.1

/-- The invariant of the device: its grade and core mask belong together (R1), its memories are in canonical form, and groups, teams, launches
and contexts are listed under their own identifiers. -/
def State.inv (s : State) : Bool :=
  s.partOk && s.memWf && keyed (·.uid) s.groups && keyed (·.uid) s.teams && keyed (·.uid) s.launches && keyed (·.asid) s.contexts

/-- Whether an outcome is a next state. -/
def goesOn (o : Out) : Bool := match o with | .next _ => true | .fault _ => false | .refused _ => false

/-- The device with the issue of an instruction noted at the picker, before any check: what a trap of that instruction is raised on (R53). -/
def State.noted (s : State) (i : Instr) : State := match s.begin i with | some r => r.2 | none => s

/-- The state of a trap that the effect of an instruction at issue raises: none of the effect, the exception alone (R53, R329). -/
def State.trapOf (s : State) (i : Instr) (x : Issue) (e : Trap) : State := (s.noted i).trapAt x e

/-- An instruction of a group issues at a state (R53, R89): the group and split that issue are those that State names, no condition of R89
makes the instruction wait, and every check at issue passes. `x` is the instruction at issue and `t` the device once the instruction
is taken, counted and metered, on which its effect acts. -/
structure Issues (s : State) (i : Instr) (x : Issue) (t : State) : Prop where
  own : s.cur = .group x.g.uid x.sp.id x.pc x.len
  begins : s.begin i = some (x, s.noted i)
  ready : s.mayIssue x = true
  within : s.overrunDue x = false
  legal : (s.noted i).issueCheck x = none
  queued : (s.noted i).queueTrap x = none
  taken : t = (s.noted i).took x

/-- Every byte of the three memories reads in `u` as it reads in `s`. -/
def SameBytes (s u : State) : Prop :=
  ∀ a, cellGet u.dram a = cellGet s.dram a ∧ cellGet u.scratch a = cellGet s.scratch a ∧ cellGet u.pool a = cellGet s.pool a

/-- A run of steps from one state to another. -/
inductive Reaches : State → State → Prop where
  | refl (s : State) : Reaches s s
  | step {s t u : State} : Machine.step s = .next t → Reaches t u → Reaches s u

/-- A run that never stops, over memories in canonical form. -/
def Safe (s : State) : Prop := ∀ t, Reaches s t → goesOn (Machine.step t) = true ∧ t.inv = true

end Sys2Proof.Machine
end

