-- ==== Sys2Proof/Certificates/Slice0/Obligations.lean ====
section
/-! DEFINITION. The statements about the machine, and the vocabulary that they are written in. -/

namespace Sys2Proof.Claims

open Sys2Proof.Machine

/-! ## Vocabulary -/

/-- Operations that differ at most in the clk at which each is due: accesses that ask a bank of a scratchpad in one clk keep each other waiting (R215). -/
def SameOps (os ps : List Op) : Prop := (os.map fun o => { o with due := none }) = ps.map fun o => { o with due := none }

/-- One operation is added, for the issuing group, with the active lanes and the destination of the instruction. The operations before it stay as they are,
but that where the instruction asks a bank of a scratchpad the clk at which some are due may move. -/
def Added (banks : Prop) (x : Issue) (t u : State) (o : Op) : Prop :=
  ∃ os, u.ops = os ++ [o] ∧ SameOps t.ops os ∧ (¬banks → os = t.ops) ∧ o.uid = t.nextId ∧ o.grp = x.g.uid ∧ o.lanes = x.lanes ∧ o.dest = x.dest

/-- One operation is added, by an instruction that asks a bank for a Q-level operand only. -/
abbrev Adds (x : Issue) (t u : State) (o : Op) : Prop := Added (x.i.qField.isSome = true) x t u o

/-- An operation that asks a bank of a scratchpad is due at clk `n` where it waits for nothing there, which is certain while the banks have no requests,
and not before it (R215, R223, R390). -/
def DueAt (t : State) (o : Op) (n : Nat) : Prop := (∃ d, o.due = some d ∧ n ≤ d) ∧ (t.banks = [] → o.due = some n)

/-- The instruction stays outstanding with a result of latency `lat`: one operation is added, for the issuing group, with the value of
`f` in every active lane, the flags of the lanes that raise any, and the clk at which it lands; with a Q-level operand, whose ring word asks a bank,
24 clk later (R92, R154, R157, R223). A Q-level operand with no active lane completes at once (R218). -/
def Pending (x : Issue) (t u : State) (lat : Nat) (f : Nat → Res) : Prop :=
  if x.i.qField.isSome && x.lanes == 0 then u = t.finish x
  else
    ∃ o : Op, Adds x t u o ∧
      (let n := t.clkOf x.g.core + lat + (if x.wide then 1 else 0)
       (x.i.qField = none → o.due = some n) ∧ (x.i.qField.isSome = true → DueAt t o (n + 24))) ∧
      (∀ l ∈ x.list, cellGet o.vals l = (f l).1) ∧
      o.flags = (x.flagLanes.map fun l => (f l).2).foldl (· ||| ·) 0

/-- Every issue of the instruction goes on to a next state in which its result is pending; `f` takes the values of its sources. -/
def ResultIs (i : Instr) (lat : Nat) (f : (Nat → DWord) → Res) : Prop :=
  ∀ s x t, Issues s i.core x t → ∃ u, exec i s = .next u ∧ Pending x t u lat fun l => f fun k => t.src x k l

/-- Integer add, subtract, multiply, divide, minimum, maximum and sign (R158 to R162): latency and lane function. -/
def integerTable : Instr → Option (Nat × ((Nat → DWord) → Res))
  | .iadd _ ty sat .. => some (4, fun v => laneAdd ty sat (v 0) (v 1))
  | .isub _ ty sat .. => some (4, fun v => laneSub ty sat (v 0) (v 1))
  | .iadd64 _ ty sat .. => some (6, fun v => laneAdd ty sat (v 0) (v 1))
  | .iaddImm _ ty sat _ _ n => some (4, fun v => laneAdd ty sat (v 0) (ofW n))
  | .isubImm _ ty sat _ _ n => some (4, fun v => laneSub ty sat (v 0) (ofW n))
  | .imul _ ty .. => some (6, fun v => laneMul ty (v 0) (v 1))
  | .imulh _ ty .. => some (6, fun v => laneMulh ty (v 0) (v 1))
  | .imulImm _ ty _ _ n => some (6, fun v => laneMul ty (v 0) (ofW n))
  | .imad _ ty .. => some (6, fun v => laneMad ty (v 0) (v 1) (v 2))
  | .imadw _ ty .. => some (6, fun v => laneMadw ty (v 0) (v 1) (v 2))
  | .idiv _ ty .. => some (36, fun v => laneDiv ty (v 0) (v 1))
  | .irem _ ty .. => some (36, fun v => laneRem ty (v 0) (v 1))
  | .imin _ ty .. => some (4, fun v => laneMin ty (v 0) (v 1))
  | .imax _ ty .. => some (4, fun v => laneMax ty (v 0) (v 1))
  | .iabs _ sat .. => some (4, fun v => laneAbs sat (v 0))
  | .ineg _ sat .. => some (4, fun v => laneNeg sat (v 0))
  | _ => none

/-- Moves, logic, shifts, bit fields and integer comparison (R129 to R131, R163 to R170). -/
def logicTable : Instr → Option (Nat × ((Nat → DWord) → Res))
  | .mov _ ty .. => some (4, fun v => (fit ty (v 0), 0))
  | .movw .. => some (4, fun v => (v 0, 0))
  | .movi _ m _ n => some (4, fun _ => (moviValue m n, 0))
  | .sel _ ty .. => some (4, fun v => (fit ty (if v 2 = 1 then v 0 else v 1), 0))
  | .lea _ ty sb .. => some (4, fun v => laneLea ty sb (v 0) (v 1) (v 2))
  | .and _ ty .. => some (4, fun v => laneAnd ty (v 0) (v 1))
  | .or _ ty .. => some (4, fun v => laneOr ty (v 0) (v 1))
  | .xor _ ty .. => some (4, fun v => laneXor ty (v 0) (v 1))
  | .andn _ ty .. => some (4, fun v => laneAndn ty (v 0) (v 1))
  | .not _ ty .. => some (4, fun v => laneNot ty (v 0))
  | .andImm _ _ _ n => some (4, fun v => laneAnd .z32 (v 0) (ofW n))
  | .orImm _ _ _ n => some (4, fun v => laneOr .z32 (v 0) (ofW n))
  | .xorImm _ _ _ n => some (4, fun v => laneXor .z32 (v 0) (ofW n))
  | .andnImm _ _ _ n => some (4, fun v => laneAndn .z32 (v 0) (ofW n))
  | .shl _ ty .. => some (4, fun v => laneShl ty (v 0) (v 1))
  | .shr _ ty .. => some (4, fun v => laneShr ty (v 0) (v 1))
  | .sar _ ty .. => some (4, fun v => laneSar ty (v 0) (v 1))
  | .rot _ ty .. => some (4, fun v => laneRot ty (v 0) (v 1))
  | .shf _ left .. => some (4, fun v => laneShf left (v 0) (v 1) (v 2))
  | .bfe _ ty .. => some (4, fun v => laneBfe ty (v 0) (v 1))
  | .bfi .. => some (4, fun v => laneBfi (v 0) (v 1) (v 2))
  | .popc _ ty .. => some (4, fun v => lanePopc ty (v 0))
  | .clz _ ty .. => some (4, fun v => laneClz ty (v 0))
  | .brev _ ty .. => some (4, fun v => laneBrev ty (v 0))
  | .prmb .. => some (4, fun v => lanePrmb (v 0) (v 1) (v 2))
  | .iset _ cmp ty .. => some (4, fun v => laneIset cmp ty (v 0) (v 1))
  | _ => none

/-- Float arithmetic, the SFU, conversions, packing and dot products (R171 to R179). -/
def floatTable : Instr → Option (Nat × ((Nat → DWord) → Res))
  | .fadd _ rnd ftz .. => some (5, fun v => laneFadd rnd ftz (v 0) (v 1))
  | .fsub _ rnd ftz .. => some (5, fun v => laneFsub rnd ftz (v 0) (v 1))
  | .fmul _ rnd ftz .. => some (5, fun v => laneFmul rnd ftz (v 0) (v 1))
  | .fmin _ ftz .. => some (5, fun v => laneFmin ftz (v 0) (v 1))
  | .fmax _ ftz .. => some (5, fun v => laneFmax ftz (v 0) (v 1))
  | .faddImm _ rnd ftz _ _ n => some (5, fun v => laneFadd rnd ftz (v 0) (ofW n))
  | .fsubImm _ rnd ftz _ _ n => some (5, fun v => laneFsub rnd ftz (v 0) (ofW n))
  | .fmulImm _ rnd ftz _ _ n => some (5, fun v => laneFmul rnd ftz (v 0) (ofW n))
  | .fminImm _ ftz _ _ n => some (5, fun v => laneFmin ftz (v 0) (ofW n))
  | .fmaxImm _ ftz _ _ n => some (5, fun v => laneFmax ftz (v 0) (ofW n))
  | .ffma _ rnd ftz .. => some (5, fun v => laneFfma rnd ftz (v 0) (v 1) (v 2))
  | .fsetCompare _ cmp ftz .. => some (5, fun v => laneFset cmp ftz (v 0) (v 1))
  | .frcp _ ftz .. => some (14, fun v => laneFrcp ftz (v 0))
  | .frsq _ ftz .. => some (14, fun v => laneFrsq ftz (v 0))
  | .fsqrt _ ftz .. => some (14, fun v => laneFsqrt ftz (v 0))
  | .fex2 _ ftz .. => some (14, fun v => laneFex2 ftz (v 0))
  | .flg2 _ ftz .. => some (14, fun v => laneFlg2 ftz (v 0))
  | .fsin _ ftz .. => some (14, fun v => laneFsin ftz (v 0))
  | .fcos _ ftz .. => some (14, fun v => laneFcos ftz (v 0))
  | .hfma2 _ ty sw bc nc rnd ftz .. => some (5, fun v => laneHfma2 ty sw bc nc rnd ftz (v 0) (v 1) (v 2))
  | .f2i _ ty sty rnd ftz .. => some (5, fun v => laneF2i ty sty rnd ftz (v 0))
  | .i2f _ ty sty rnd ftz .. => some (5, fun v => laneI2f ty sty rnd ftz (v 0))
  | .cvt _ ty sty rnd ftz .. => some (5, fun v => laneCvt ty sty rnd ftz (v 0))
  | .frnd _ rnd ftz .. => some (5, fun v => laneFrnd rnd ftz (v 0))
  | .pack _ ty elt rnd ftz .. => some (5, fun v => lanePack ty elt rnd ftz (v 0) (v 1) (v 2))
  | .unpk _ ty elt ftz .. => some (5, fun v => laneUnpk ty elt ftz (v 0))
  | .dot4 .. => some (6, fun v => laneDot 8 4 (v 0) (v 1) (v 2))
  | .dot8 .. => some (6, fun v => laneDot 4 8 (v 0) (v 1) (v 2))
  | .fdot4 _ ty .. => some (6, fun v => laneFdot4 ty (v 0) (v 1) (v 2))
  | _ => none

/-- What the registers of a bank hold: the near slots' values, the predicates, every split's lanes and scalar copy, the join records. -/
def bankRegs (b : Bank) : Cells 32 × Cells 64 × (Nat → Option (Lanes × Cells 32 × BitVec 64)) × List JoinRec :=
  (b.nval, b.preds, fun id => (b.split? id).map fun sp => (sp.lanes, sp.sfile, sp.written), b.recs)

/-- What the registers of a group hold, its W entries and program counters apart. -/
structure Regs where
  d : Cells 32
  smerge : Word
  nflags : Word
  cb : Cells 64
  cols : Cells 32
  depth : Cells 16
  mapstat : Nat
  frq : List FRec
  user : Cells 32 × Cells 64 × (Nat → Option (Lanes × Cells 32 × BitVec 64)) × List JoinRec
  handler : Option (Cells 32 × Cells 64 × (Nat → Option (Lanes × Cells 32 × BitVec 64)) × List JoinRec)

def regsOf (g : Group) : Regs :=
  { d := g.dfile, smerge := g.smerge, nflags := g.nflags, cb := g.cb, cols := g.cols, depth := g.depth, mapstat := g.mapstat
    frq := g.frq, user := bankRegs g.bank, handler := g.hand.map fun h => bankRegs h.bank }

/-- No register has changed but the W window, the program counters, the states of near slots and completion flags: registers, predicates and join
records of every group, the team registers, the kernel's constants and the contexts' system registers are as they were. -/
def SameRegs (s u : State) : Prop :=
  (∀ uid, (u.group? uid).map regsOf = (s.group? uid).map regsOf) ∧
    (∀ uid, (u.team? uid).map (fun t => (t.tregs, t.twrites)) = (s.team? uid).map fun t => (t.tregs, t.twrites)) ∧
    u.launches = s.launches ∧ u.contexts = s.contexts

/-- Every byte of memory reads as before, once no core holds a partial result: reading page tables, a descriptor or a table returns first those of the
lines that it reaches (R245). -/
def KeepsBytes (s u : State) : Prop := s.partials = [] → SameBytes s u

/-- Nothing that a program can read has changed but the W window, the program counters, the states of near slots and completion flags. -/
def Untouched (s u : State) : Prop := SameRegs s u ∧ SameBytes s u

/-- The same of an instruction that translates an address or reads a table. -/
def Undisturbed (s u : State) : Prop := SameRegs s u ∧ KeepsBytes s u

end Sys2Proof.Claims

open Sys2Proof Sys2Proof.Machine Sys2Proof.Claims

/-! ## Reset, encoding, steps -/

/-- Right after power-good the device is at boot stage 0, not failed, not stopped, at clk 0; no context, team, group, instruction, lease,
copy or translation exists, memory lists nothing poisoned, every host window descriptor and mailbox word reads zero, and no route is set
(R367, R370, R385). That leases, copies, translations, poison lists, routes, the device id and the tables start empty is the model's choice
(log entry 42): the spec gives no reset value for them. -/
def Obligations.ResetState : Prop :=
  State.reset.stage = 0 ∧ State.reset.fail = false ∧ State.reset.stopped = false ∧ State.reset.clk = 0 ∧ State.reset.groups = [] ∧
    State.reset.teams = [] ∧ State.reset.contexts = [] ∧ State.reset.ops = [] ∧ State.reset.leases = [] ∧ State.reset.copies = [] ∧
    State.reset.tlb = [] ∧ State.reset.poisonLines = [] ∧ State.reset.poisonWords = [] ∧
    (∀ k, cellGet State.reset.hostWins k = 0) ∧ (∀ k, cellGet State.reset.fwRequest k = 0) ∧ (∀ k, cellGet State.reset.routes k = 0) ∧
    State.reset.devid = none

/-- Every part that the spec gives starts from a state that meets the invariant `State.inv`: `State.reset` does, and so does the reset state of
a part of any grade and core mask that belong together, which R1 fixes: OZ-880-H (grade 0) enables all 256 cores, and OZ-880-M (grade 1) all
but exactly one of each of the 32 clusters of eight. -/
def Obligations.ResetMeetsInvariant : Prop :=
  State.reset.inv = true ∧
    ∀ (grade : BitVec 8) (mask : BitVec 256),
      ((State.resetAs grade mask).partOk = true ↔
        (grade = 0 ∧ ∀ k < 256, mask.getLsbD k = true) ∨
          (grade = 1 ∧ ∀ c < 32, ∃ k < 8, mask.getLsbD (8 * c + k) = false ∧ ∀ j < 8, j ≠ k → mask.getLsbD (8 * c + j) = true)) ∧
        ((State.resetAs grade mask).partOk = true → (State.resetAs grade mask).inv = true)

/-- Every step keeps the invariant `State.inv`: from any state that meets it, whatever instruction or event the step is, the part keeps a
grade and a core mask that belong together (R1), the three memories stay in canonical form, and every group, team, launch and context
stays listed under its own identifier. -/
def Obligations.StepKeepsInvariant : Prop :=
  ∀ s t, s.inv = true → Machine.step s = .next t → t.inv = true

/-- Decoding the words that the encoder writes for a well-formed instruction gives the instruction back, whatever words follow: for every
instruction that a group or a slice may issue, in the compact, the 8-byte and the full form, with every field at every value that the
encoding admits. -/
def Obligations.DecodeEncode : Prop :=
  ∀ i : Instr, i.ctl.isSome → i.wf = true → ∀ rest, decodeWords (encode i ++ rest) = .ok i

/-- A step runs the decoded instruction. Where the device has no event in hand, its clk is at the issue of a partition, and the picker has chosen
a split whose line is held, may be executed and decodes at the split's address to an instruction of `n` bytes, the step is `exec` of that
instruction at the same state, with the choice taken from the list and the group, split, address and length noted as the issuer; where the
decoder refuses what stands there, the step is the trap of its fate with ACCESS 0, where a number that SRD or SWR may not name comes before a
bad operand (R38, R41, R53, R96). -/
def Obligations.StepRunsDecoded : Prop :=
  ∀ (s : State) (uid split : Nat) (rest : List (Nat × Nat)) (g : Group) (sp : Split) (l : ILine) (n : Nat),
    s.stopped = false → s.agenda = [] → s.turn ≠ 0 → s.picks = (uid, split) :: rest → s.group? uid = some g →
    g.bk.split? split = some sp → s.line? g sp.pc = some l → l.fail = none → (l.priv = false ∨ g.hand.isSome = true) →
    (∀ i, lineAt l.words 0 (sp.pc.toNat % 64 / 4) = some (n, .ok i) →
      Machine.step s = exec i { s with picks := rest, cur := .group uid split sp.pc n }) ∧
    (∀ f, lineAt l.words 0 (sp.pc.toNat % 64 / 4) = some (n, .error f) →
      Machine.step s = .next (State.fetchTrap { s with picks := rest } uid split n (fateAt l.words (sp.pc.toNat % 64 / 4) g.hand.isSome f) 0))

/-- Words written out from the spec's encodings decode to the instructions that they stand for: the worked examples of R103, R130, R133, R150, R163, R183,
R198, R223, R252, R254, R255 and R341, one or more of each of the families of control, move, arithmetic, predicate, matrix, queue, memory and handler
instructions. -/
def Obligations.DecodeExamples : Prop :=
  decodeWords [0x000F0000] = .ok (.nopCompact ⟨0, 15, false⟩) ∧
    decodeWords [0x090F0000] = .ok (.joinCompact ⟨0, 15, false⟩) ∧
    decodeWords [0xC0003C02, 0x7000060D, 0x80000008] = .ok (.movi ⟨0, 0, 15, false, false, false, 7⟩ .z32 ⟨.s, 6⟩ 8) ∧
    decodeWords [0xC0003C21, 0x7000060A, 0xC14003E8] =
      .ok (.iaddImm ⟨0, 0, 15, false, false, false, 7⟩ .s32 false ⟨.s, 5⟩ ⟨.s, 5⟩ 1000) ∧
    decodeWords [0xCC003C27, 0x70010405, 0x40000602] =
      .ok (.lea ⟨3, 0, 15, false, false, false, 7⟩ .z64 false ⟨.d, 2⟩ ⟨.k, 0⟩ ⟨.w, 0⟩ ⟨.i, 2⟩) ∧
    decodeWords [0xC0003C63, 0x72008863, 0x04183E00] =
      .ok (.pset ⟨0, 0, 15, false, false, false, 7⟩ .plain .lt .s32 ⟨.t, 49⟩ ⟨.t, 16⟩ ⟨.s, 7⟩ .null) ∧
    decodeWords [0xC0003CE0, 0x70085C01, 0x80300600] = .ok (.trap ⟨0, 0, 15, false, false, false, 7⟩ 0x85) ∧
    decodeWords [0x83C000E1, 0x70183060] = .ok (.tret ⟨0, 0, 15, false, false, false, 7⟩ false) ∧
    decodeWords [0x83C000E1, 0x70383060] = .ok (.tret ⟨0, 0, 15, false, false, false, 7⟩ true) ∧
    decodeWords [0x83C000E3, 0x70383060] = .ok (.endg ⟨0, 0, 15, false, false, false, 7⟩) ∧
    decodeWords [0xC0004480, 0x70000C00, 0x4050A30A] = .ok (.mma ⟨0, 1, 1, false, false, false, 7⟩ 0 ⟨.n, 1⟩ ⟨.d, 20⟩ ⟨.s, 10⟩) ∧
    decodeWords [0xC0003CA1, 0x70002C00, 0x87B00600] = .ok (.qpush ⟨0, 0, 15, false, false, false, 7⟩ 2 ⟨.d, 30⟩) ∧
    decodeWords [0xC00004A2, 0x70002249, 0x80300600] = .ok (.qpop ⟨0, 0, 1, false, false, false, 7⟩ 2 ⟨.n, 0x24⟩) ∧
    decodeWords [0x7D300250] = .ok (.stGlobZ32Compact ⟨3, 0, false⟩ ⟨.d, 2⟩ ⟨.d, 0⟩) ∧
    decodeWords [0xC0003CC4, 0x73008412, 0x80B00E04] =
      .ok (.atom ⟨0, 0, 15, false, false, false, 7⟩ .glob .s32 .add .device ⟨.d, 9⟩ ⟨.d, 2⟩ ⟨.i, 1⟩ ⟨.i, 4⟩) ∧
    decodeWords [0x83C000E9, 0x70B83060] = .ok (.bkpt ⟨0, 0, 15, false, false, false, 7⟩ 5) ∧
    decodeWords [0x83C00005, 0x70783060] = .ok (.strand ⟨0, 0, 15, false, false, false, 7⟩ 3) ∧
    decodeWords [0x83C020C5, 0x70783060] = .ok (.fence ⟨0, 8, 15, false, false, false, 7⟩ .device .full)

/-! ## Issue: waiting, checks, exceptions -/

/-- An instruction that may not issue changes nothing: while a condition of R89 holds it back, `exec` leaves the whole state as it is, whatever the
instruction. -/
def Obligations.WaitingChangesNothing : Prop :=
  ∀ (i : Instr) (s : State) (x : Issue) (t : State), s.begin i.core = some (x, t) → s.mayIssue x = false → exec i s = .next s

/-- A check that fails at issue traps at the instruction, with none of its effect: the next state is that of the exception alone, on the device
with the issue noted (R53, R329). What is noted of an instruction that traps at issue is the model's choice (log entry 46): the port and marks,
but no drain, no yield and no count. -/
def Obligations.FailedCheckTraps : Prop :=
  ∀ (i : Instr) (s : State) (x : Issue) (t : State) (e : Trap),
    s.begin i.core = some (x, t) → s.mayIssue x = true → s.overrunDue x = false → t.issueCheck x = some e →
    exec i s = .next (t.trapAt x e)

/-- A handler instruction issued in user code (TRET, REPLAY, UNWIND, ENDG, FRQPOP, MAPREQ, UREAD, UWRITE) raises ILLEGAL_OPCODE, and has none of its
effect (R341). That the record names the lanes of the split and no address is the model's choice (log entries 16 and 17). -/
def Obligations.HandlerInstructionsArePrivileged : Prop :=
  ∀ (i : Instr) (s : State) (x : Issue) (t : State),
    (match i with
     | .tret .. | .replay .. | .unwind .. | .endg .. | .frqpop .. | .mapreq .. | .uread .. | .uwrite .. => True
     | _ => False) →
    s.begin i = some (x, t) → s.mayIssue x = true → s.overrunDue x = false → x.g.hand = none →
    exec i s = .next (t.raiseTrap x.g x.sp.id x.pc x.len (Trap.one 0x01 x.sp.lanes))

/-- An instruction that passes the checks before it and names a W entry that is empty or not complete in a lane of its split raises
WINDOW_EARLY; one that names only complete entries and a released near slot raises NEAR_RELEASED (R109, R111, R112). The premises name an
instruction in user code, in its place, no terminator, outside a replayable strand, a matrix instruction with a guard other than `(!p7)` and a width and collector that it may have. That the record names the lanes of
the split and no address is the model's choice (log entries 16 and 17). -/
def Obligations.ReadinessTraps : Prop :=
  ∀ (t : State) (x : Issue),
    placeIllegal x.i false = false →
    (portOf (opcodeOf x.i) = .mat → x.never = false ∧ x.g.width ≠ 16 ∧ (x.wide = true → collectorOf x.i < 2)) → isTerminator x.i = false → x.g.hand = none →
    x.sysBad = false → x.operandBad = false → t.atEntry x = false → x.g.strand.entry.replay = false →
    ((∃ sl ∈ x.i.reads, sl.op.lvl = .w ∧ ∃ l ∈ x.splitList,
        ((tabGetD x.g.bank.win l [])[sl.op.idx.toNat]?).all (fun e => !e.done) = true) →
      t.issueCheck x = some (Trap.one 0x09 x.sp.lanes)) ∧
    ((∀ sl ∈ x.i.reads, sl.op.lvl = .w → ∀ l ∈ x.splitList,
        ((tabGetD x.g.bank.win l [])[sl.op.idx.toNat]?).any (fun e => e.done) = true) →
      (∃ k ∈ x.nearReads, cellGet x.g.bank.nst k = 0) → t.issueCheck x = some (Trap.one 0x0A x.sp.lanes))

/-- Taking an exception in user code: a trap of one record at an instruction of a group that holds its slot, with no delivery pending, appends
that record to the group's fault record queue with its code, group, ACCESS, split and lanes, and enters the handler that the trap table
names: the handler's one split holds every lane that has not exited, stands at the handler's address and issues nothing for 8 clk; its window, near
file and completion flags are empty and the user's predicates are copied; the user's bank, the D registers and every byte of memory stay
as they were, partial results of the trap table's lines being returned before it is read (R245, R330 to R332, R334, R335). -/
def Obligations.TrapEntersHandler : Prop :=
  ∀ (s : State) (g : Group) (split len slot since : Nat) (pc entry : DWord) (r : TrapRec),
    g.hand = none → g.unwinding = none → g.debug ≠ .stepping → g.place = .active slot since → g.deliveries = [] → g.frq.length < 8 →
    (s.touchTable g r.code).trapEntry g r.code = .handler entry →
    ∃ (u : State) (g' : Group) (h : Handler) (q : FRec),
      u = s.raiseTrap g split pc len { recs := [r], sw := false, resume := .re, cb := none, gather := none } ∧
      u.group? g.uid = some g' ∧ g'.hand = some h ∧ g'.frq = g.frq ++ [q] ∧
      q.code = r.code ∧ q.access = r.access ∧ q.lanes = r.lanes ∧ q.addr = r.addr.setWidth 56 ∧ q.notice = false ∧ q.sw = false ∧
      q.more = false ∧ q.nested = false ∧ q.group = BitVec.ofNat 5 g.idx ∧ q.split = BitVec.ofNat 3 split ∧ q.delivery = h.serves.id ∧
      h.serves.code = r.code ∧ h.serves.pc = pc ∧ h.serves.split = split ∧ h.serves.resume = .re ∧
      (h.bank.splits.map fun sp => (sp.id, sp.lanes, sp.pc, sp.notBefore)) = [(0, g.alive, entry, s.clkOf g.core + 8)] ∧
      h.bank.win = [] ∧ h.bank.nst = [] ∧ h.bank.flags = [] ∧ h.bank.preds = g.bank.preds ∧
      g'.bank = g.bank ∧ g'.dfile = g.dfile ∧ g'.nflags = g.nflags ∧ KeepsBytes s u ∧
      (∀ uid, uid ≠ g.uid → u.group? uid = s.group? uid)

/-- A trap in a handler is a nested fault: the group's residency ends, its handler and its deliveries are gone and none of its lanes is left
(R335). -/
def Obligations.NestedFaultEndsGroup : Prop :=
  ∀ (s : State) (g : Group) (split len : Nat) (pc : DWord) (e : Trap),
    g.hand.isSome = true →
    ∃ g', (s.raiseTrap g split pc len e).group? g.uid = some g' ∧ g'.place = .ended ∧ g'.hand = none ∧ g'.deliveries = [] ∧ g'.alive = 0

/-! ## Arithmetic: what an instruction computes, and what it leaves as it is -/

/-- Integer arithmetic completes: every issue of IADD, ISUB, IADD64, IMUL, IMULH, IMAD, IMADW, IDIV, IREM, IMIN, IMAX, IABS or INEG, with a register or
an immediate source, in the full or a compact form, goes on to a next state in which its result is pending in every active lane with the
latency of its rule: 4 for add, subtract, minimum, maximum and sign, 6 for IADD64 and the multiplies, 36 for divide and remainder (R92,
R158 to R162). -/
def Obligations.IntegerResults : Prop :=
  ∀ (i : Instr) (lat : Nat) (f : (Nat → DWord) → Res), integerTable i.core = some (lat, f) → ResultIs i lat f

/-- Moves, logic and shifts complete: every issue of MOV, MOVW, MOVI, SEL, LEA, AND, OR, XOR, ANDN, NOT, SHL, SHR, SAR, ROT, SHF, BFE, BFI, POPC, CLZ, BREV,
PRMB or ISET, in the full or a compact form, goes on to a next state in which its result is pending with latency 4 (R92, R129 to R131,
R163 to R170). -/
def Obligations.LogicResults : Prop :=
  ∀ (i : Instr) (lat : Nat) (f : (Nat → DWord) → Res), logicTable i.core = some (lat, f) → ResultIs i lat f

/-- Float instructions complete: every issue of FADD, FSUB, FMUL, FMIN, FMAX, FFMA, FSET, the seven SFU functions, HFMA2, F2I, I2F, CVT, FRND, PACK, UNPK,
DOT4, DOT8 or FDOT4, with a register or an immediate source, in the full or a compact form, goes on to a next state in which its result is
pending with latency 5, of the SFU 14, of the dot products 6 (R92, R171 to R179). -/
def Obligations.FloatResults : Prop :=
  ∀ (i : Instr) (lat : Nat) (f : (Nat → DWord) → Res), floatTable i.core = some (lat, f) → ResultIs i lat f

/-- SHFL's segment width as its third source gives it, which must be uniform and is read whether a lane is active or not: 0 stands for the group's
width (R153, R180). -/
def Sys2Proof.Claims.segment (x : Issue) (t : State) : Nat := if w32 (t.srcUniform x 2) = 0 then x.g.width else (w32 (t.srcUniform x 2)).toNat

/-- Whether it is a legal one (R180): a power of two up to the group's width. -/
def Sys2Proof.Claims.legalSegment (x : Issue) (t : State) : Prop := segment x t ∈ [1, 2, 4, 8, 16, 32, 64] ∧ segment x t ≤ x.g.width

/-- The values of VOTE and the source lanes of SHFL. For a set of lanes that hold a predicate, within those that are active, .every is 1 exactly where every
active lane holds it, .some where a lane does, .same where all or none of the active ones do, .mask has a bit for each lane that does, .count is their number and
.first the lowest of them or 0xFFFFFFFF. SHFL's source lane lies in the lane's own segment of v lanes for .idx, at place B mod v, and for .xor, at the lane's place with the
bits of B mod v inverted; .up and .down count B lanes down and up, and stay at the lane itself where that leaves the segment (R180, R181). -/
def Sys2Proof.Claims.LaneValues : Prop :=
  (∀ act p : Lanes, (∀ l, p.has l = true → act.has l = true) →
    (∀ m ∈ [VoteMode.every, .some, .same], voteValue m act p = 0 ∨ voteValue m act p = 1) ∧
    (voteValue .every act p = 1 ↔ ∀ l < 64, act.has l = true → p.has l = true) ∧
    (voteValue .some act p = 1 ↔ ∃ l < 64, p.has l = true) ∧
    (voteValue .same act p = 1 ↔ (∀ l < 64, p.has l = false) ∨ ∀ l < 64, act.has l = true → p.has l = true) ∧
    (∀ l < 64, (voteValue .mask act p).getLsbD l = p.has l) ∧
    (voteValue .count act p).toNat = ((List.range 64).filter fun l => p.has l).length ∧
    ((∀ l < 64, p.has l = false) → voteValue .first act p = 0xFFFFFFFF) ∧
    (∀ l < 64, p.has l = true → (∀ k < l, p.has k = false) → voteValue .first act p = BitVec.ofNat 64 l)) ∧
  (∀ v l b : Nat, v ∈ [1, 2, 4, 8, 16, 32, 64] →
    shflLane .idx v l b / v = l / v ∧ shflLane .idx v l b % v = b % v ∧
    (b ≤ l % v → shflLane .up v l b = l - b) ∧ (l % v < b → shflLane .up v l b = l) ∧
    (l % v + b < v → shflLane .down v l b = l + b) ∧ (v ≤ l % v + b → shflLane .down v l b = l) ∧
    shflLane .xor v l b / v = l / v ∧ shflLane .xor v l b % v = (l % v) ^^^ (b % v))

/-- The lane and predicate instructions complete, in the full or a compact form, with their results pending. IADDC (latency 4): each lane's sum of A, B
and the carry predicate, with the carry out pending beside it. SHFL (8), with a legal segment width: A of the source lane where that is active,
else the lane's own; with an illegal one it raises ILLEGAL_OPERAND, whether a lane is active or not. VOTE (8) and MATCH (8): the sets of R181 and R182. PSET (2): the comparison, joined with C under .and and .or. PMOV.get (2): the
seven predicates. PMOV.set: the predicates of every active lane, 2 clk later, or 26 from a queue. The values of VOTE and the source lanes of SHFL are those of `LaneValues` (R159, R180 to R184). That SHFL's record names the
split's lanes and no address is the model's choice (log entries 16 and 17). -/
def Obligations.LaneResults : Prop :=
  LaneValues ∧
  ∀ (i : Instr) (s : State) (x : Issue) (t : State), Issues s i.core x t →
    match i.core with
    | .iaddc _ _ _ _ p =>
      ∃ u, exec i s = .next u ∧ Pending x t u 4 (fun l => (ofW (laneAddc (t.src x 0 l) (t.src x 1 l) (t.src x 2 l == 1)).1, 0)) ∧
        (¬(x.i.qField.isSome = true ∧ x.lanes = 0) → ∃ o m, Adds x t u o ∧ o.carry = some (p.idx.toNat - 48, m) ∧
          ∀ l ∈ x.list, Lanes.has m l = (laneAddc (t.src x 0 l) (t.src x 1 l) (t.src x 2 l == 1)).2)
    | .shfl _ m ty .. =>
      (legalSegment x t →
        ∃ u, exec i s = .next u ∧ Pending x t u 8 (fun l =>
          let k := shflLane m (segment x t) l (w32 (t.src x 1 l)).toNat
          (fit ty (t.src x 0 (if x.lanes.has k then k else l)), 0))) ∧
      (¬legalSegment x t → exec i s = .next (s.trapOf i.core x (Trap.one 0x02 x.sp.lanes)))
    | .vote _ m .. => ∃ u, exec i s = .next u ∧ Pending x t u 8 (fun _ => (voteValue m x.lanes (predLanes t x 0), 0))
    | .matchI _ ty .. =>
      ∃ (u : State) (f : Nat → DWord), exec i s = .next u ∧ Pending x t u 8 (fun l => (f l, 0)) ∧
        ∀ l ∈ x.list, ∀ k, Lanes.has (f l) k = (decide (k ∈ x.list) && fit ty (t.src x 0 k) == fit ty (t.src x 0 l))
    | .pset _ c cmp ty .. =>
      ∃ u, exec i s = .next u ∧ Pending x t u 2 (fun l =>
        let r := psetCompare cmp ty (t.src x 0 l) (t.src x 1 l)
        (psetCombine c (r.1 != 0) (t.src x 2 l != 0), r.2))
    | .pmovGet .. =>
      ∃ (u : State) (f : Nat → DWord), exec i s = .next u ∧ Pending x t u 2 (fun l => (f l, 0)) ∧
        ∀ l ∈ x.list, ∀ n < 64, (f l).getLsbD n = (decide (n < 7) && t.regWord x .t (48 + n) n l != 0)
    | .pmovSet .. =>
      (x.lanes = 0 → x.i.qField.isSome → exec i s = .next (t.finish x)) ∧
        (¬(x.lanes = 0 ∧ x.i.qField.isSome = true) → ∃ u o, exec i s = .next u ∧ Adds x t u o ∧ o.job = .preds ∧
          (let n := t.clkOf x.g.core + 2 + if x.wide then 1 else 0
           (x.i.qField = none → o.due = some n) ∧ (x.i.qField.isSome = true → DueAt t o (n + 24))) ∧
          ∀ l ∈ x.list, cellGet o.vals l = t.src x 0 l)
    | _ => True

/-- The instructions that touch nothing but registers, and those only when their results land: the arithmetic of the three tables, IADDC, SHFL, VOTE, MATCH,
PSET, PMOV, NOP, WAITF and YIELD. A SHFL whose segment width is illegal traps instead. -/
def Sys2Proof.Claims.registerOnly (i : Instr) : Bool :=
  (integerTable i).isSome || (logicTable i).isSome || (floatTable i).isSome ||
    (match i with
     | .iaddc .. | .shfl .. | .vote .. | .matchI .. | .pset .. | .pmovGet .. | .pmovSet .. | .nop .. | .waitf .. | .yield .. => true
     | _ => false)

/-- The frame of the register instructions at their issue: an arithmetic, lane or predicate instruction, SHFL with a legal segment width among them, NOP, WAITF or
YIELD that issues changes no register, predicate or join record of any group, no team register, no kernel constant, no system register and no
byte of memory; its result reaches its destination only when it lands (R92, R157, R180). -/
def Obligations.RegisterInstructionsFrame : Prop :=
  ∀ (i : Instr) (s : State) (x : Issue) (t u : State),
    registerOnly i.core = true → Issues s i.core x t → ((∃ c m ty d a b n, i.core = .shfl c m ty d a b n) → legalSegment x t) →
    exec i s = .next u → Untouched s u

/-- The checks of a memory instruction's lanes: the lanes that pass, with their targets, those that fail, and the device after the translations. -/
abbrev Sys2Proof.Claims.checks (t : State) (x : Issue) (sp : Space) (n : Nat) (w : AccNeed) (off : Option Nat) :
    List (Nat × Nat × Target) × List LaneFault × State :=
  t.targets x.g x.inHandler sp n w (t.laneAddrs x sp off x.list)

/-- The instructions whose effect on the window and the near slots falls at their issue, and the condition, on the state and the operands alone, that their own
checks pass: the arithmetic of the three tables, the lane and predicate instructions, loads, stores and atomics (an LD.acq takes these effects when it completes), the queue instructions, REEL, SRD, NOP, WAITF and YIELD. -/
def Sys2Proof.Claims.takesEffect (x : Issue) (t : State) (i : Instr) : Prop :=
  match i with
  | .iaddc .. | .vote .. | .matchI .. | .pset .. | .pmovGet .. | .pmovSet .. | .srd .. | .qstat .. | .nop .. | .waitf .. | .yield .. => True
  | .shfl .. => legalSegment x t
  | .ld _ sp ty acq .. => acq = false ∧ (x.lanes ≠ 0 → (checks t x sp (tySize ty) needLoad (some 1)).2.1 = [])
  | .st _ sp ty .. => x.lanes ≠ 0 → (checks t x sp (tySize ty) needStore (some 2)).2.1 = []
  | .atom _ sp ty op .. | .atomr _ sp ty op .. =>
    x.lanes ≠ 0 → (checks t x sp (atomSize ty) needAtom (if op = .cas then none else some 2)).2.1 = []
  | .qpush _ qn _ => ∃ m, t.teamOf x.g = some m ∧ (x.lanes ≠ 0 → m.initFor x qn.toNat = true)
  | .qpop _ qn _ =>
    ∃ m, t.teamOf x.g = some m ∧
      (x.lanes ≠ 0 → m.initFor x qn.toNat = true ∧ t.poisoned (.scratch (m.ringKey (m.queue qn.toNat) (m.queue qn.toNat).head)) 4 = false)
  | .reel _ qn slice _ => t.reelBad x qn.toNat slice.toNat = none
  | i => (integerTable i).isSome = true ∨ (logicTable i).isSome = true ∨ (floatTable i).isSome = true

/-- The W window shifts by one at the issue of a result-producing instruction, in the lanes of the issuing split alone: entry w1 is the new result's, not
complete in the active lanes and a complete zero in the others, each older entry moves one place, and the ninth is lost; an instruction
that is not result-producing moves nothing. With a Q-level operand it is the same; an instruction that completes at issue, having no lane to wait for, leaves no entry that waits (R108, R218, R223). -/
def Obligations.WindowShifts : Prop :=
  ∀ (i : Instr) (s : State) (x : Issue) (t : State), takesEffect x t i.core → Issues s i.core x t →
    ∃ u g tag, exec i s = .next u ∧ u.group? x.g.uid = some g ∧
      (x.i.producesResult = true → x.lanes ≠ 0 → t.nextId ≤ tag ∧ ∃ o ∈ u.ops, o.uid = tag) ∧
      ∀ l < 64, tabGetD g.bk.win l [] =
        if x.i.producesResult && x.sp.lanes.has l then
          (({ tag := tag, done := !x.lanes.has l, val := 0 } : WEntry) :: tabGetD x.g.bk.win l []).take 8
        else tabGetD x.g.bk.win l []

/-- Near slots are counted at issue: a slot that a source names loses one from its count, once however often it is named, a persistent one stays;
then the slot that the destination names takes the state of its count field, 0 persistent; every other slot keeps its state (R111, R112). -/
def Obligations.NearSlotsCount : Prop :=
  ∀ (i : Instr) (s : State) (x : Issue) (t : State), takesEffect x t i.core → Issues s i.core x t →
    ∃ u g, exec i s = .next u ∧ u.group? x.g.uid = some g ∧
      let names (k : Nat) (d : Dest) : Bool := d.op.lvl == .n && (k == d.op.nSlot || (d.wide && k == d.op.nSlot + 1))
      ∀ k, cellGet g.bk.nst k =
        if x.dest.any (names k) then (match x.dest with | some d => if d.op.nCount = 0 then 8 else d.op.nCount.setWidth 4 | none => 0)
        else if k ∈ x.nearReads ∧ cellGet x.g.bk.nst k ≠ 8 ∧ cellGet x.g.bk.nst k ≠ 0 then cellGet x.g.bk.nst k - 1
        else cellGet x.g.bk.nst k

/-- A result lands in a D register: when its clk has come, FIXED_RESULT_LANDS writes the register, or the pair, in exactly the operation's lanes, ORs the
operation's flags into NFLAGS for user code, and the operation is outstanding no longer; every other D register and lane, the merge mode,
every other group, every team and every byte of memory stay as they were (R73, R90, R92). -/
def Obligations.ResultLandsInD : Prop :=
  ∀ (s : State) (o : Op) (d : Dest) (g : Group),
    s.op? o.uid = some o → s.opDue o = true → o.job = .plain → o.dest = some d → d.op.lvl = .d → o.raced = [] → o.carry = none →
    s.group? o.grp = some g → g.uid = o.grp →
    ∃ u g', exec (.fixedResultLands o.uid) s = .next u ∧ u.group? o.grp = some g' ∧
      (∀ r l, l < 64 → g'.dGet r l =
        if o.lanes.has l = true ∧ r = d.op.idx.toNat then (cellGet o.vals l).extractLsb' 0 32
        else if o.lanes.has l = true ∧ d.wide = true ∧ r = d.op.idx.toNat + 1 then (cellGet o.vals l).extractLsb' 32 32
        else g.dGet r l) ∧
      g'.nflags = (if o.hand then g.nflags else g.nflags ||| o.flags.setWidth 32) ∧ g'.smerge = g.smerge ∧ u.op? o.uid = none ∧
      (∀ uid, uid ≠ o.grp → u.group? uid = s.group? uid) ∧ u.teams = s.teams ∧ SameBytes s u

/-- A result lands in a scalar or a team register: the register takes the value of the operation's lowest active lane.
An S register is that of the split that holds the lane, which also marks it written; a team register's write is listed with its landing clk,
and its own group reads it from that clk on (R115, R117, R138, R154). The premises name user code of one split, a destination of one register. -/
def Obligations.UniformResultLands : Prop :=
  ∀ (s : State) (o : Op) (d : Dest) (g : Group) (sp : Split) (low : Nat) (rest : List Nat),
    s.op? o.uid = some o → s.opDue o = true → o.job = .plain → o.dest = some d → d.wide = false → o.raced = [] → o.carry = none →
    o.hand = false → s.group? o.grp = some g → g.uid = o.grp → g.hand = none → g.bank.splits = [sp] → o.lanes.list 64 = low :: rest →
    sp.lanes.has low = true →
    (d.op.lvl = .s → ∃ u g' sp', exec (.fixedResultLands o.uid) s = .next u ∧ u.group? o.grp = some g' ∧ g'.bank.splits = [sp'] ∧
      (∀ r, cellGet sp'.sfile r = if r = d.op.idx.toNat then (cellGet o.vals low).extractLsb' 0 32 else cellGet sp.sfile r) ∧
      sp'.written = (sp.written ||| ((1#64) <<< d.op.idx.toNat)) ∧ g'.dfile = g.dfile ∧ SameBytes s u) ∧
    (d.op.lvl = .t → d.op.idx.toNat < 16 → ∀ tm, s.team? g.team = some tm →
      (∀ w ∈ tm.twrites, w.time < s.time ∨ w.time = s.time ∧ w.key ≤ g.landKey (tm.half g.core)) →
      ∃ u tm', exec (.fixedResultLands o.uid) s = .next u ∧ u.team? g.team = some tm' ∧
        tm'.tGet s.clkOf g.uid g.core d.op.idx.toNat = w32 (cellGet o.vals low) ∧ SameBytes s u)

/-! ## Arithmetic: the values -/

/-- Integer add and subtract: the result is the exact sum or difference, wrapped to the type, or under .sat the nearest value of the type; IV is raised exactly
where a signed type cannot hold the exact result; a 32-bit result leaves the upper half zero (R61, R158). -/
def Obligations.AddSubtractValues : Prop :=
  ∀ (ty : Ty) (a b : DWord), ty ∈ [Ty.s32, .z32, .s64, .z64] →
    ∀ (n : Int) (r : Bool → Res),
      (n = ext ty a + ext ty b ∧ (r = fun sat => laneAdd ty sat a b)) ∨ (n = ext ty a - ext ty b ∧ (r = fun sat => laneSub ty sat a b)) →
      (ext ty (r false).1 - n) % 2 ^ ty.bits = 0 ∧
      (tyMin ty ≤ n → n ≤ tyMax ty → ext ty (r true).1 = n) ∧
      (n < tyMin ty → ext ty (r true).1 = tyMin ty) ∧ (tyMax ty < n → ext ty (r true).1 = tyMax ty) ∧
      (∀ sat, (r sat).2 = if ty.signed ∧ (n < tyMin ty ∨ tyMax ty < n) then flagIV else 0) ∧
      (ty.bits = 32 → ∀ sat, (r sat).1.extractLsb' 32 32 = 0)

/-- IDIV and IREM never trap: every issue of either completes, with latency 36. The quotient truncates towards zero and the remainder has the dividend's sign, so that
dividend = quotient * divisor + remainder, except that the one quotient that s32 cannot hold wraps to the most negative value with IV; a zero divisor gives the bound of the
type on the dividend's side and the dividend itself, with DZ (R62, R161). -/
def Obligations.DivisionValues : Prop :=
  ∀ ty : Ty, ty = .s32 ∨ ty = .z32 →
    (∀ (i : Instr) (c : Ctl) (d x y : Opnd),
      (i.core = .idiv c ty d x y → ResultIs i 36 fun v => laneDiv ty (v 0) (v 1)) ∧
      (i.core = .irem c ty d x y → ResultIs i 36 fun v => laneRem ty (v 0) (v 1))) ∧
    ∀ a b : DWord,
      (ext ty b ≠ 0 →
        ext ty (laneRem ty a b).1 = (ext ty a).tmod (ext ty b) ∧ (laneRem ty a b).2 = 0 ∧
        (¬(ty = .s32 ∧ ext ty a = -2 ^ 31 ∧ ext ty b = -1) →
          ext ty (laneDiv ty a b).1 = (ext ty a).tdiv (ext ty b) ∧
          ext ty (laneDiv ty a b).1 * ext ty b + ext ty (laneRem ty a b).1 = ext ty a ∧ (laneDiv ty a b).2 = 0) ∧
        (ty = .s32 → ext ty a = -2 ^ 31 → ext ty b = -1 → ext ty (laneDiv ty a b).1 = -2 ^ 31 ∧ (laneDiv ty a b).2 = flagIV)) ∧
      (ext ty b = 0 →
        laneDiv ty a b = (ofW (if ty = .z32 then 0xFFFFFFFF else if ext ty a < 0 then 0x80000000 else 0x7FFFFFFF), flagDZ) ∧
        laneRem ty a b = (ofW (w32 a), flagDZ))

/-- Multiplication: IMUL is the exact product wrapped, with IV where s32 cannot hold it; IMULH and IMUL of one type together are its 64 bits; IMADW adds a 64-bit
addend modulo 2 ^ 64 (R160). -/
def Obligations.MultiplyValues : Prop :=
  ∀ (ty : Ty) (a b c : DWord), ty = .s32 ∨ ty = .z32 →
    (w32 (laneMulh ty a b).1 ++ w32 (laneMul ty a b).1 : DWord) = BitVec.ofInt 64 (ext ty a * ext ty b) ∧
    (laneMul ty a b).2 = (if ty = .s32 ∧ ¬(-2 ^ 31 ≤ ext ty a * ext ty b ∧ ext ty a * ext ty b < 2 ^ 31) then flagIV else 0) ∧
    (laneMulh ty a b).2 = 0 ∧ (laneMadw ty a b c).1 = BitVec.ofInt 64 (ext ty a * ext ty b) + c ∧
    laneMad ty a b 0 = laneMul ty a b

/-- Shifts: SHL is multiplication and SHR division by 2 ^ n within the width, SAR division rounded down, each with every count from the width up giving 0, 0 and the
sign; ROT moves bit i to bit (i + n) mod w. SHF returns the low word of C above A moved right by min(B, 32), and SHF.l the high word of it moved
left; a count of 32 or more returns C, or A under .l (R165, R166). -/
def Obligations.ShiftValues : Prop :=
  (∀ (a b : DWord), let n := (w32 b).toNat
    (laneShl .z32 a b).1.toNat = (if n < 32 then (w32 a).toNat * 2 ^ n % 2 ^ 32 else 0) ∧
    (laneShl .z64 a b).1.toNat = (if n < 64 then a.toNat * 2 ^ n % 2 ^ 64 else 0) ∧
    (laneShr .z32 a b).1.toNat = (w32 a).toNat / 2 ^ n ∧ (laneShr .z64 a b).1.toNat = a.toNat / 2 ^ n ∧
    (w32 (laneSar .s32 a b).1).toInt = (w32 a).toInt / 2 ^ n ∧ (laneSar .s64 a b).1.toInt = a.toInt / 2 ^ n ∧
    (∀ i < 32, (laneRot .z32 a b).1.getLsbD ((i + n) % 32) = (w32 a).getLsbD i) ∧
    (∀ i < 64, (laneRot .z64 a b).1.getLsbD ((i + n) % 64) = a.getLsbD i)) ∧
  (∀ (a b c : DWord), let n := min (w32 b).toNat 32
    let x := (w32 c).toNat * 2 ^ 32 + (w32 a).toNat
    (laneShf false a b c).1.toNat = x / 2 ^ n % 2 ^ 32 ∧ (laneShf true a b c).1.toNat = x * 2 ^ n % 2 ^ 64 / 2 ^ 32 ∧
    (32 ≤ (w32 b).toNat → (laneShf false a b c).1 = ofW (w32 c) ∧ (laneShf true a b c).1 = ofW (w32 a)) ∧
    (∀ left, (laneShf left a b c).2 = 0))

/-- Bit fields and bit counts, for every position and length. BFE's field is the low min(k, 32) bits of A moved right by p, with zeros above bit 31 of A, and 0 where k is 0; as .s32 its
top bit is its sign, at the width at which it was read. BFI puts the low bits of A at p and leaves every other bit of C, all of them where k is 0 or p is past bit 31; BFE reads back the field that BFI inserted.
POPC of a value and of its complement add up to the width; CLZ of a nonzero value is the number of bits above its highest one, and of zero the width; BREV moves bit i to bit w - 1 - i (R167, R168). -/
def Obligations.BitFieldValues : Prop :=
  (∀ (a b c : DWord), let p := (b.extractLsb' 0 8).toNat; let k := (b.extractLsb' 8 8).toNat
    0 < k → p + k ≤ 32 →
      (laneBfe .z32 (laneBfi a b c).1 b).1.toNat = (w32 a).toNat % 2 ^ k ∧
      (∀ i < 32, i < p ∨ p + k ≤ i → (laneBfi a b c).1.getLsbD i = (w32 c).getLsbD i)) ∧
  (∀ (a b c : DWord), let p := (b.extractLsb' 0 8).toNat; let k := (b.extractLsb' 8 8).toNat
    let f := (w32 a).toNat / 2 ^ p % 2 ^ min k 32
    (laneBfe .z32 a b).1.toNat = f ∧ (k = 0 → (laneBfe .s32 a b).1 = 0) ∧
    (0 < k → (w32 (laneBfe .s32 a b).1).toInt = if 2 ^ (min k 32 - 1) ≤ f then (f : Int) - (2 ^ min k 32 : Nat) else f) ∧
    (∀ i < 32, (laneBfi a b c).1.getLsbD i = if p ≤ i ∧ i < p + k then (w32 a).getLsbD (i - p) else (w32 c).getLsbD i)) ∧
  (∀ (a : DWord), (lanePopc .z64 a).1.toNat + (lanePopc .z64 (~~~a)).1.toNat = 64 ∧
    (lanePopc .z32 a).1.toNat + (lanePopc .z32 (~~~a)).1.toNat = 32) ∧
  (∀ (a : DWord), a ≠ 0 → let z := (laneClz .z64 a).1.toNat
    z < 64 ∧ 2 ^ (63 - z) ≤ a.toNat ∧ a.toNat < 2 ^ (64 - z)) ∧
  (∀ (a : DWord), w32 a ≠ 0 → let z := (laneClz .z32 a).1.toNat
    z < 32 ∧ 2 ^ (31 - z) ≤ (w32 a).toNat ∧ (w32 a).toNat < 2 ^ (32 - z)) ∧
  (∀ (a : DWord), (laneClz .z64 0).1 = 64 ∧ (w32 a = 0 → (laneClz .z32 a).1 = 32)) ∧
  (∀ (a : DWord), ∀ i < 64, (laneBrev .z64 a).1.getLsbD (63 - i) = a.getLsbD i) ∧
  (∀ (a : DWord), ∀ i < 32, (laneBrev .z32 a).1.getLsbD (31 - i) = a.getLsbD i)

/-- A chain of two IADDCs adds 64-bit numbers: the low words with carry in `c`, then the high words with the carry out of the first, are the words of the 65-bit sum
(R159). -/
def Obligations.CarryChain : Prop :=
  ∀ (a b : DWord) (c : Bool),
    let lo := laneAddc a b c
    let hi := laneAddc (a >>> 32) (b >>> 32) lo.2
    lo.1.toNat + 2 ^ 32 * hi.1.toNat + 2 ^ 64 * hi.2.toNat = a.toNat + b.toNat + c.toNat

/-- Float comparison: for every pair of bit patterns, with and without .ftz, .ne is the complement of .eq and .ord of .un; .gt and .ge are .lt and .le with the operands
exchanged; a NaN makes every ordered relation false and .ne true; and .le holds exactly where .lt or .eq does (R174). -/
def Obligations.FloatComparison : Prop :=
  ∀ (ftz : Bool) (a b : DWord), let f (c : Cmp) (a b : DWord) : Bool := (laneFset c ftz a b).1 == 1
    f .ne a b = !f .eq a b ∧ f .ord a b = !f .un a b ∧ f .gt a b = f .lt b a ∧ f .ge a b = f .le b a ∧
    f .le a b = (f .lt a b || f .eq a b) ∧
    (((f32Of ftz a).isNan || (f32Of ftz b).isNan) = true → f .un a b = true ∧ f .eq a b = false ∧ f .lt a b = false)

/-- Float addition and multiplication do not depend on the order of their operands: for every rounding mode, with and without .ftz, the result and the flags
of A op B are those of B op A (R65, R67, R171). -/
def Obligations.FloatCommutes : Prop :=
  ∀ (rnd : Rnd) (ftz : Bool) (a b : DWord),
    laneFadd rnd ftz a b = laneFadd rnd ftz b a ∧ laneFmul rnd ftz a b = laneFmul rnd ftz b a

/-! ## Control -/

/-- What a JOIN of a split of user code leaves of its group. With no innermost record, or one of another address, the records are as they were, and the split goes on. At its
own record `r` it arrives: its lanes are among those arrived, and while others are expected it is held, all its lanes still its own. With the last of them the record is gone,
the splits that have arrived are one, under the parent record, with their lanes, the scalar file of R140 and the written registers of all, and every split that had not arrived stands
as it stood; where the parent record has the same address the merged split has arrived there too, and is held; else it goes on after the JOIN (R137, R140, R150). The
premises name the one record of the split, and no other that is complete. -/
def Sys2Proof.Claims.Joins (x : Issue) (g : Group) : Prop :=
  let next : DWord := x.pc + BitVec.ofNat 64 x.len
  let recs := x.g.bank.recs
  x.g.hand = none → g.hand = none ∧
    ((∀ r ∈ recs, x.sp.join = some r.id → r.addr ≠ x.pc) →
      g.bank.recs = recs ∧ ∃ sp, g.bank.split? x.sp.id = some sp ∧ sp.held = x.sp.held ∧ sp.lanes = x.sp.lanes ∧ sp.join = x.sp.join ∧ sp.pc = next) ∧
    (∀ r ∈ recs, x.sp.join = some r.id → r.addr = x.pc → (∀ q ∈ recs, q.id = r.id → q = r) → (∀ q ∈ recs, q.id ≠ r.id → q.expected ≠ q.arrived) →
      (r.arrived ||| x.sp.lanes ≠ r.expected →
        (g.bank.recs.find? fun q => q.id == r.id) = some { r with arrived := r.arrived ||| x.sp.lanes } ∧
        ∃ sp, g.bank.split? x.sp.id = some sp ∧ sp.held = true ∧ sp.lanes = x.sp.lanes ∧ sp.join = some r.id) ∧
      (r.arrived ||| x.sp.lanes = r.expected →
        let there := (x.g.bank.splits.map fun q => if q.id = x.sp.id then { x.sp with held := true } else q).filter fun q =>
          q.join == some r.id && q.held
        let up := r.parent.bind fun p => recs.find? fun q => q.id == p
        let others : Prop := ∀ q ∈ x.g.bank.splits, q.id ≠ x.sp.id → ¬(q.join = some r.id ∧ q.held = true) → q ∈ g.bank.splits
        (∀ q ∈ g.bank.recs, q.id ≠ r.id) ∧
        ((∀ p, up = some p → p.addr ≠ r.addr) →
          others ∧ ∃ m ∈ g.bank.splits, m.join = r.parent ∧ m.held = false ∧ ((∀ q ∈ there, q.id ≠ x.sp.id → q.pc = next) → m.pc = next) ∧
            (∀ l, m.lanes.has l = there.any fun q => q.lanes.has l) ∧
            (∀ n < 64, cellGet m.sfile n = mergeReg (x.g.smerge.toNat % 4) r.base there n) ∧
            ∀ n < 64, m.written.getLsbD n = (r.baseMask.getLsbD n || there.any fun q => q.written.getLsbD n)) ∧
        (∀ p, up = some p → p.addr = r.addr → p.id ≠ r.id → (∀ q ∈ recs, q.id = p.id → q = p) → p.arrived ||| unionLanes there ≠ p.expected →
          others ∧ ∃ m ∈ g.bank.splits, m.join = some p.id ∧ m.held = true ∧ (∀ l, m.lanes.has l = there.any fun q => q.lanes.has l) ∧
            (g.bank.recs.find? fun q => q.id == p.id) = some { p with arrived := p.arrived ||| unionLanes there })))

/-- NOP, WAITF, YIELD, NREL, SLEEP and JOIN complete, in the full or a compact form. NOP, WAITF and YIELD complete at issue and move their split to the next instruction. NREL
releases its slot whatever the guard. SLEEP with no positive count, or with a request pending for its group, completes at issue; otherwise the group
issues nothing until the longest of its lanes' counts has passed. JOIN, whatever the guard, is an arrival at the split's innermost record where that names its address, and has no effect
else, as `Joins` says (R103 to R106, R113, R137, R140, R150). -/
def Obligations.SimpleControlCompletes : Prop :=
  ∀ (i : Instr) (s : State) (x : Issue) (t : State), Issues s i.core x t →
    match i.core with
    | .nop .. | .waitf .. | .yield .. =>
      exec i s = .next (t.finish x) ∧
        ∃ g sp, (t.finish x).group? x.g.uid = some g ∧ g.bk.split? x.sp.id = some sp ∧ sp.pc = x.pc + BitVec.ofNat 64 x.len
    | .nrel _ d => ∃ u g, exec i s = .next u ∧ u.group? x.g.uid = some g ∧ cellGet g.bk.nst d.nSlot = 0
    | .sleep .. =>
      ((∀ l ∈ x.list, (w32 (t.src x 0 l)).toInt ≤ 0) ∨ x.g.request.isSome = true → exec i s = .next (t.finish x)) ∧
        (∀ l ∈ x.list, 0 < (w32 (t.src x 0 l)).toInt → x.g.request = none →
          ∃ u g op wake, exec i s = .next u ∧ u.group? x.g.uid = some g ∧ g.hold = .sleep op wake ∧
            now t + (w32 (t.src x 0 l)).toInt.toNat ≤ wake)
    | .join .. =>
      (∃ u, exec i s = .next u) ∧ ∀ u, exec i s = .next u → ∀ g, u.group? x.g.uid = some g → Joins x g
    | _ => True

/-- BRA: where the guard holds in every lane of the split, and the target is an aligned address of 56 bits, the split goes to it, with
the bubble of a taken branch; where it holds in none,
the split goes to the next instruction; where it holds in some only, ILLEGAL_CONVERGENCE is raised (R145, R402), over the split's lanes and with
no address by the model's choice (log entries 16 and 17). -/
def Obligations.BraBranches : Prop :=
  ∀ (s : State) (x : Issue) (t : State) (c : Ctl) (off : BitVec 24), Issues s (.bra c off) x t →
    let target : DWord := x.pc + (off.signExtend 64 <<< 2)
    (x.lanes = x.sp.lanes → target.extractLsb' 56 8 = 0 → target.extractLsb' 0 2 = 0 →
      ∃ u g sp, exec (.bra c off) s = .next u ∧ u.group? x.g.uid = some g ∧ g.bk.split? x.sp.id = some sp ∧ sp.pc = target ∧
        sp.lanes = x.sp.lanes ∧ sp.notBefore = (if target = x.pc + BitVec.ofNat 64 x.len then x.sp.notBefore else s.clkOf x.g.core + 4)) ∧
    (x.lanes = 0 → x.lanes ≠ x.sp.lanes →
      ∃ u g sp, exec (.bra c off) s = .next u ∧ u.group? x.g.uid = some g ∧ g.bk.split? x.sp.id = some sp ∧
        sp.pc = x.pc + BitVec.ofNat 64 x.len) ∧
    (x.lanes ≠ 0 → x.lanes ≠ x.sp.lanes →
      exec (.bra c off) s = .next (s.trapOf (.bra c off) x (Trap.one 0x07 x.sp.lanes)))

/-- BRC divides: with the guard true in some lanes of the split and false in others, fewer than eight splits and an aligned target of 56 bits, the
lanes whose guard holds stand at the target and the others at the next instruction, in two splits under a new join record that expects
every lane of the old split, has the join address and, where the group holds fewer than seven records, keeps the old split's record as its parent; with the guard true in no lane the
split goes on, and with it true in every lane it goes to the target (R136, R137, R146). -/
def Obligations.BrcDivides : Prop :=
  ∀ (s : State) (x : Issue) (t : State) (c : Ctl) (h : Hint) (off : BitVec 24) (joff : BitVec 20), Issues s (.brc c h off joff) x t →
    let target : DWord := x.pc + (off.signExtend 64 <<< 2)
    target.extractLsb' 56 8 = 0 → target.extractLsb' 0 2 = 0 →
    (x.lanes = 0 → exec (.brc c h off joff) s = .next (t.finish x)) ∧
    (x.lanes ≠ 0 → x.lanes = x.sp.lanes →
      ∃ u g sp, exec (.brc c h off joff) s = .next u ∧ u.group? x.g.uid = some g ∧ g.bk.split? x.sp.id = some sp ∧ sp.pc = target) ∧
    (x.lanes ≠ 0 → x.lanes ≠ x.sp.lanes → x.g.bk.splits.length < 8 →
      ∃ u g r a b, exec (.brc c h off joff) s = .next u ∧ u.group? x.g.uid = some g ∧ r ∈ g.bk.recs ∧ a ∈ g.bk.splits ∧ b ∈ g.bk.splits ∧
        r.addr = x.pc + (joff.signExtend 64 <<< 2) ∧ r.expected = x.sp.lanes ∧ r.arrived = 0 ∧ (x.g.bk.recs.length < 7 → r.parent = x.sp.join) ∧
        a.lanes = x.lanes ∧ a.pc = target ∧ a.join = some r.id ∧ a.written = 0 ∧
        b.lanes = x.sp.lanes &&& ~~~x.lanes ∧ b.pc = x.pc + BitVec.ofNat 64 x.len ∧ b.join = some r.id ∧ b.written = 0 ∧
        (x.g.hand = none → a.sfile = x.sp.sfile ∧ b.sfile = x.sp.sfile))

/-- BRX and CALLX complete for aligned destinations of 56 bits that leave at most eight splits, BRX with one join address, nonzero where the destinations differ, CALLX with room in the lane slices; with
one destination for every lane of the split they are plain branches to it. With several they divide: each lane stands at its destination, in one split with exactly those lanes that have the same, under a new join record
that expects every lane of the old split and has the join address, CALLX's being the next instruction; the written masks are empty. CALLX makes each lane whose guard holds one call deeper (R136, R137, R138, R147, R148, R402). -/
def Obligations.IndirectBranchesComplete : Prop :=
  ∀ (i : Instr) (s : State) (x : Issue) (t : State), Issues s i x t →
    let dest (l : Nat) : DWord := if x.lanes.has l then t.src x 0 l else x.pc + BitVec.ofNat 64 x.len
    (∀ l ∈ x.list, (dest l).extractLsb' 56 8 = 0 ∧ (dest l).extractLsb' 0 2 = 0) →
    (fanOut x.splitList dest).length ≤ 1 ∨ x.g.bk.splits.length - 1 + (fanOut x.splitList dest).length ≤ 8 →
    let uniform : Prop := ∀ l ∈ x.splitList, ∀ k ∈ x.splitList, dest l = dest k
    let fans (g : Group) (join : DWord) : Prop :=
      (∀ l ∈ x.splitList, uniform → (g.bk.split? x.sp.id).map (fun sp => (sp.pc, sp.lanes, sp.join)) = some (dest l, x.sp.lanes, x.sp.join)) ∧
      (¬uniform → ∃ r ∈ g.bk.recs, r.addr = join ∧ r.expected = x.sp.lanes ∧ r.arrived = 0 ∧ (x.g.bk.recs.length < 7 → r.parent = x.sp.join) ∧
        ∀ l ∈ x.splitList, ∃ a ∈ g.bk.splits, a.join = some r.id ∧ a.pc = dest l ∧ a.held = false ∧ a.written = 0 ∧
          (x.g.hand = none → a.sfile = x.sp.sfile) ∧ ∀ k < 64, a.lanes.has k = (x.sp.lanes.has k && dest k == dest l))
    match i with
    | .brx .. =>
      (∀ l ∈ x.list, t.src x 1 l = t.srcLow x 1) → (¬uniform → t.srcLow x 1 ≠ 0) →
        ∃ u g, exec i s = .next u ∧ u.group? x.g.uid = some g ∧ fans g (t.srcLow x 1)
    | .callx .. =>
      x.pc + BitVec.ofNat 64 x.len ≠ 0 → (∀ l ∈ x.list, 8 * (x.g.callDepth l + 1) ≤ t.sliceSize x.g ∧ x.g.callDepth l < 65535) →
        ∃ u g, exec i s = .next u ∧ u.group? x.g.uid = some g ∧ (∀ l ∈ x.list, g.callDepth l = x.g.callDepth l + 1) ∧
          fans g (x.pc + BitVec.ofNat 64 x.len)
    | _ => True

/-- CALL with a uniform true guard, an aligned target of 56 bits and room in every active lane's slice goes to its target, each active lane one
call deeper; RET with a uniform true guard, every lane's stack nonempty and outside a replayable strand, all lanes popping one aligned address of 56 bits, goes
there, each active lane one call shallower; where it reads a poisoned word of a lane slice it raises MEM_UNCORRECTABLE instead (R143, R148, R149, R248). -/
def Obligations.CallAndReturn : Prop :=
  ∀ (i : Instr) (s : State) (x : Issue) (t : State), Issues s i.core x t → x.lanes = x.sp.lanes → x.lanes ≠ 0 →
    match i.core with
    | .call _ off =>
      let target : DWord := x.pc + (off.signExtend 64 <<< 2)
      target.extractLsb' 56 8 = 0 → target.extractLsb' 0 2 = 0 → (∀ l ∈ x.list, 8 * (x.g.callDepth l + 1) ≤ t.sliceSize x.g) →
      (∀ l ∈ x.list, x.g.callDepth l < 65535) →
        ∃ u g sp, exec i s = .next u ∧ u.group? x.g.uid = some g ∧ g.bk.split? x.sp.id = some sp ∧ sp.pc = target ∧
          ∀ l ∈ x.list, g.callDepth l = x.g.callDepth l + 1
    | .ret .. =>
      ∀ a : DWord, a.extractLsb' 56 8 = 0 → a.extractLsb' 0 2 = 0 → (∀ l ∈ x.list, x.g.callDepth l ≠ 0 ∧ t.popValue x l = a) →
      x.g.strand.entry.replay = false →
        (∀ e, t.popTrap x = some e → exec i s = .next (s.trapOf i.core x e) ∧ e.head.code = 0x16) ∧
        (t.popTrap x = none → ∃ u g sp, exec i s = .next u ∧ u.group? x.g.uid = some g ∧ g.bk.split? x.sp.id = some sp ∧ sp.pc = a ∧
          ∀ l ∈ x.list, g.callDepth l + 1 = x.g.callDepth l)
    | _ => True

/-- STRAND records its strand: with its entry readable and keeping its rules and no request pending, the group's strand has that entry, this address and a counter
of zero, and the split goes on to the next instruction; with a request pending the group is to leave, and the STRAND has not issued. PARK takes its group out of its slot, ready at once. EXIT
ends the active lanes: those that stay alive are the group's others, and with its last lane the group ends (R122 to R124, R133, R134, R151). -/
def Obligations.StrandParkExit : Prop :=
  ∀ (i : Instr) (s : State) (x : Issue) (t : State), Issues s i.core x t →
    match i.core with
    | .strand _ index =>
      ∀ e, t.strandEntry x index.toNat = .ok e →
        (x.g.request = none → ∃ u g, exec i s = .next u ∧ u.group? x.g.uid = some g ∧ g.strand.entry = e ∧ g.strand.pc = x.pc ∧
          g.strand.count = 0 ∧ g.strand.index = index.toNat ∧ g.strand.lanes = x.g.alive ∧
          (g.bk.split? x.sp.id).map (·.pc) = some (x.pc + BitVec.ofNat 64 x.len)) ∧
        (x.g.request.isSome = true → ∃ u, exec i s = .next u ∧ u = s.modGroup x.g.uid fun g => { g with leaving := true })
    | .park .. =>
      ∃ u g, exec i s = .next u ∧ u.group? x.g.uid = some g ∧ g.place = .ready (s.clkOf x.g.core) ∧ g.bank.win = [] ∧ g.bank.nst = []
    | .exit .. =>
      ∃ u g, exec i s = .next u ∧ u.group? x.g.uid = some g ∧ g.alive = x.g.alive &&& ~~~x.lanes ∧
        (g.alive = 0 → g.place = .ended)
    | _ => True

/-- STRAND's checks: an index beyond the table, or an entry that breaks R120, raises ILLEGAL_MODIFIER; an entry whose DMASK has a bit at or beyond the role's dslots
raises ILLEGAL_OPERAND (R121), over the split's lanes and with no address by the model's choice (log entries 16 and 17). -/
def Obligations.StrandChecks : Prop :=
  ∀ (i : Instr) (s : State) (x : Issue) (t : State) (c : Ctl) (index : BitVec 16) (l : Launch) (m : Team),
    i.core = .strand c index → Issues s i.core x t → t.launchOf x.g = some l → t.teamOf x.g = some m →
    let traps (code : BitVec 8) : Prop := exec i s = .next (s.trapOf i.core x (Trap.one code x.sp.lanes))
    (l.image.liveCnt ≤ index.toNat → traps 0x03) ∧
    (index.toNat < l.image.liveCnt → ∀ bs, t.vreads m.asid (l.image.addr + l.image.liveOff + 80 * index.toNat) 10 = .ok bs →
      (liveOf (BitVec.ofNat 640 (leValue bs)) m.bridle = none → traps 0x03) ∧
      (∀ e, liveOf (BitVec.ofNat 640 (leValue bs)) m.bridle = some e → (∃ r, x.g.dslots ≤ r ∧ e.dmask.getLsbD r = true) → traps 0x02))

/-- The scalar merge of R140, register by register: one written by no arrived split keeps the value of the division, one written by a single split takes that
split's; one written by several takes, by the merge mode, the lowest lane's, the highest lane's, the division's value, or the OR of the written values. -/
def Obligations.ScalarMerge : Prop :=
  ∀ (mode : Nat) (base : Cells 32) (arrived : List Split) (n : Nat),
    let w := arrived.filter fun sp => sp.written.getLsbD n
    (w = [] → mergeReg mode base arrived n = cellGet base n) ∧
    (∀ sp, w = [sp] → mergeReg mode base arrived n = cellGet sp.sfile n) ∧
    (1 < w.length →
      (mode = 0 → ∃ sp ∈ w, (∀ q ∈ w, sp.lowLane ≤ q.lowLane) ∧ mergeReg mode base arrived n = cellGet sp.sfile n) ∧
      (mode = 1 → ∃ sp ∈ w, (∀ q ∈ w, q.highLane ≤ sp.highLane) ∧ mergeReg mode base arrived n = cellGet sp.sfile n) ∧
      (mode = 2 → mergeReg mode base arrived n = cellGet base n) ∧
      (mode = 3 → ∀ k, (mergeReg mode base arrived n).getLsbD k = w.any fun sp => (cellGet sp.sfile n).getLsbD k))

/-! ## Memory -/

/-- An access of the lanes `lanes` is sent, under the bitmap `cb` if it names one: one operation is added, none of it performed, with a part at the address of
each of those lanes and of no other, which carries the lane's data; other operations stay, but that a scratchpad's bank may delay them; no byte of memory has
changed, the partial results of page tables' lines apart, which a translation returns. -/
def Sys2Proof.Claims.SentBy (lanes : Lanes) (x : Issue) (t u : State) (sp : Space) (off : Option Nat) (kind : AccKind) (data cb : Option Nat)
    (dest : Option Dest) : Prop :=
  ∃ os o a, u.ops = os ++ [o] ∧ SameOps t.ops os ∧ (sp = .glob ∨ sp = .pool → x.i.qField = none → os = t.ops) ∧ o.uid = t.nextId ∧ o.grp = x.g.uid ∧
    o.lanes = lanes ∧ o.dest = dest ∧ o.job = .access a ∧ a.kind = kind ∧ a.cb = cb ∧
    (∀ v ∈ a.units, v.performed = false ∧ v.lane ∈ lanes.list 64) ∧
    (∀ l ∈ lanes.list 64, ∃ v ∈ a.units, v.lane = l ∧ v.off = 0 ∧ v.va = t.laneAddr x sp 0 off l ∧ ∀ k, data = some k → v.data = t.src x k l) ∧
    KeepsBytes t u ∧ (sp ≠ .glob → SameBytes t u)

/-- An access of every active lane is sent. -/
abbrev Sys2Proof.Claims.Sent (x : Issue) (t u : State) (sp : Space) (off : Option Nat) (kind : AccKind) (data : Option Nat)
    (cb : Option Nat := none) : Prop :=
  SentBy x.lanes x t u sp off kind data cb x.dest

/-- LD, ST, ATOM and ATOMR complete their issue, in every space and type and in the compact forms: with no active lane they complete at once; with every lane's
check passed the access is sent, an LD.acq and an ST.rel holding the group until their fence part is done; with a check failed they trap
with the failing lanes' records and send nothing (R243, R246, R250 to R252, R254). -/
def Obligations.AccessesComplete : Prop :=
  ∀ (i : Instr) (s : State) (x : Issue) (t : State), Issues s i.core x t →
    let outcome (sp : Space) (n : Nat) (w : AccNeed) (off : Option Nat) (kind : AccKind) (data : Option Nat) (holds : Bool) : Prop :=
      (x.lanes = 0 → exec i s = .next (t.finish x)) ∧
      (x.lanes ≠ 0 → (checks t x sp n w off).2.1 = [] → ∃ u, exec i s = .next u ∧ Sent x t u sp off kind data ∧
        (holds = true → (u.group? x.g.uid).map (·.hold) = some (.op t.nextId))) ∧
      (x.lanes ≠ 0 → (checks t x sp n w off).2.1 ≠ [] →
        exec i s = .next (s.trapOf i.core x (Trap.ofFaults (checks t x sp n w off).2.1)))
    match i.core with
    | .ld _ sp ty acq .. => outcome sp (tySize ty) needLoad (some 1) (.load ty) none acq
    | .st _ sp ty rel .. => outcome sp (tySize ty) needStore (some 2) (.store ty) (some 1) rel
    | .atom _ sp ty op .. =>
      outcome sp (atomSize ty) needAtom (if op = .cas then none else some 2) (.atom ty op true) (some 1) false
    | .atomr _ sp ty op .. =>
      outcome sp (atomSize ty) needAtom (if op = .cas then none else some 2) (.atom ty op false) (some 1) false
    | _ => True

/-- The check bitmap of an LDX or STX is cleared before anything else: its marks and the elements gathered under it are gone. -/
def Sys2Proof.Claims.cleared (t : State) (x : Issue) (cb : Nat) : State :=
  t.modGroup x.g.uid fun g => { g with cb := cellSet g.cb cb 0, gathered := cellClear g.gathered (cb * 64) 64 }

/-- The lanes that pass their checks. -/
def Sys2Proof.Claims.passing (r : List (Nat × Nat × Target)) : Lanes := r.foldl (fun m e => m ||| Lanes.single e.1) 0

/-- LDX and STX complete their issue, the bitmap that they name cleared at once in every case, and no other. With no active lane that is all. With every lane's check
passed the access of every active lane is sent under that bitmap. With a check failed, the lanes that pass, if any, are sent under it, with the destination and no
shift of the window, and the trap of the failing lanes is raised at the instruction, with the bitmap named in its records and kept for REPLAY; the instruction
has then moved neither the window nor its split (R253, R331, R343). -/
def Obligations.GathersComplete : Prop :=
  ∀ (i : Instr) (s : State) (x : Issue) (t : State), Issues s i x t →
    let outcome (sp : Space) (ty : Ty) (cb : Nat) (w : AccNeed) (off : Nat) (kind : AccKind) (data : Option Nat) : Prop :=
      let c := cleared t x cb
      let r := checks c x sp (tySize ty) w (some off)
      let clear (u : State) : Prop :=
        ∃ g, u.group? x.g.uid = some g ∧ cellGet g.cb cb = 0 ∧ ∀ k, k ≠ cb → cellGet g.cb k = cellGet x.g.cb k
      (x.lanes = 0 → ∃ u, exec i s = .next u ∧ clear u ∧ u.ops = t.ops ∧ SameBytes t u) ∧
      (x.lanes ≠ 0 → r.2.1 = [] → ∃ u, exec i s = .next u ∧ clear u ∧ Sent x c u sp (some off) kind data (some cb)) ∧
      (x.lanes ≠ 0 → r.2.1 ≠ [] → ∃ v g,
        exec i s = .next (v.raiseTrap g x.sp.id x.pc x.len
          { Trap.ofFaults r.2.1 with cb := some cb, gather := some { instr := x.i, lanes := x.lanes, cb := cb } }) ∧
        v.group? x.g.uid = some g ∧ clear v ∧ g.bk.win = x.g.bk.win ∧ (g.bk.split? x.sp.id).map (·.pc) = some x.sp.pc ∧
        (r.1 = [] → v.ops = t.ops ∧ KeepsBytes t v) ∧
        (r.1 ≠ [] → SentBy (passing r.1) x c v sp (some off) kind data (some cb) (x.dest.map fun d => { d with shift := false })))
    match i with
    | .ldx _ sp ty cb .. => outcome sp ty cb.toNat needLoad 1 (.load ty) none
    | .stx _ sp ty cb .. => outcome sp ty cb.toNat needStore 2 (.store ty) (some 1)
    | _ => True

/-- A part of an access is at its turn: the operation and the part stand, it is no coalesced access and no gather, the ordering rules of R260 let it be
performed, and no maintenance action holds the home of its bytes, where it reaches the home (R386). -/
def Sys2Proof.Claims.AtTurn (s : State) (uid k : Nat) (o : Op) (a : Access) (v : AccUnit) (g : Group) : Prop :=
  s.engineStep uid k = none ∧ s.op? uid = some o ∧ o.uid = uid ∧ o.job = .access a ∧ a.units[k]? = some v ∧ a.coalesced = false ∧ a.cb = none ∧
    s.group? o.grp = some g ∧ g.uid = o.grp ∧ s.mayPerform o g a k v = true ∧ s.maintFor (s.requestPlaces uid k) = none

/-- FENCE, PIN, UNPIN, ICINV and PREF complete. FENCE.acq sets the group's acquire mark to device time and is done; FENCE and FENCE.rel hold the group's issue until
their release step. PIN, UNPIN and ICINV with no active lane or an empty range complete at issue, and otherwise, their range inside the address space, aligned, and its
pages allowing it, carry it out as an operation. PREF never traps: lanes whose checks fail are dropped, and each lane that passes has its line to read into the data cache; when that part is performed, at its turn,
the lane has its line in the core's data cache, read from the home, with a lease of its page's class that runs from then on (R243, R255, R256, R265). -/
def Obligations.FencesAndRangesComplete : Prop :=
  (∀ (s : State) (uid k pa : Nat) (o : Op) (a : Access) (v : AccUnit) (g : Group), AtTurn s uid k o a v g → a.kind = .load .z8 → a.pref = true →
    v.loc = .glob pa → v.lcls < 3 → s.poisonLines.contains (pa / 128) = false →
    ∃ u c, exec (.accessPerform uid k) s = .next u ∧ KeepsBytes s u ∧ c ∈ u.copies ∧ c.core = g.core ∧ c.line = pa / 128 ∧ c.grant = now s ∧
      c.expiry = now s + [256, 2000, 16000].getD v.lcls 0 ∧ c.expiry ≤ u.lease pa ∧ c.bytes = readBytes u.dram (pa / 128 * 128) 128 ∧
      u.groups = s.groups) ∧
  ∀ (i : Instr) (s : State) (x : Issue) (t : State), Issues s i x t →
    let va := (t.srcLow x 0).toNat
    let len := (w32 (t.srcLow x 1)).toNat
    let ranged (op : RangeOp) (aligned : Bool) : Prop :=
      (x.lanes = 0 → exec i s = .next (t.finish x)) ∧
      (x.lanes ≠ 0 → va < 2 ^ 56 → va + len ≤ 2 ^ 56 → (aligned = true → va % 128 = 0 ∧ len % 128 = 0) →
        (len = 0 → exec i s = .next (t.finish x)) ∧
        (len ≠ 0 → (aligned = true → (t.rangeFault x.g x.inHandler (va / 2 ^ 16) ((va + len - 1) / 2 ^ 16 - va / 2 ^ 16 + 1)).1 = none) →
          ∃ u o, exec i s = .next u ∧ u.ops = t.ops ++ [o] ∧ o.job = .range op va len ∧ KeepsBytes t u))
    match i with
    | .fence _ sc half =>
      if half = .acq then ∃ u g, exec i s = .next u ∧ u.group? x.g.uid = some g ∧ g.acquire = now s
      else ∃ u o g, exec i s = .next u ∧ u.ops = t.ops ++ [o] ∧ o.job = .fence sc half ∧ u.group? x.g.uid = some g ∧ g.hold = .op o.uid
    | .pin .. => ranged .pin true
    | .unpin .. => ranged .unpin true
    | .icinv .. => ranged .icinv false
    | .pref .. =>
      let r := checks t x .glob 1 needLoad (some 1)
      ∃ u, exec i s = .next u ∧ KeepsBytes t u ∧ (u.group? x.g.uid).map (·.frq) = some x.g.frq ∧ (r.1 = [] → u.ops = t.ops) ∧
        (r.1 ≠ [] → ∃ o a, u.ops = t.ops ++ [o] ∧ o.job = .access a ∧ a.pref = true ∧ a.kind = .load .z8 ∧
          a.units.map (fun v => (v.lane, v.loc, v.lcls, v.performed)) = r.1.map fun e => (e.1, e.2.2.loc, e.2.2.lcls, false))
    | _ => True

/-- A store is performed: ACCESS_PERFORM writes exactly the part's bytes, low byte first, at the location that the part names; every other byte of the three memories,
every register of every group and every team stay as they were. In device memory the premise is that no core holds a partial result of
the line, which would be returned first; and the 136 bytes of the capability list never change, whatever is written to them (R27, R244, R246, R252, R259,
R261). -/
def Obligations.StorePerforms : Prop :=
  ∀ (s : State) (uid k : Nat) (o : Op) (a : Access) (v : AccUnit) (g : Group) (ty : Ty), AtTurn s uid k o a v g → a.kind = .store ty →
    ∃ u, exec (.accessPerform uid k) s = .next u ∧
      (∀ id, (u.group? id).map regsOf = (s.group? id).map regsOf) ∧ u.teams = s.teams ∧
      (∀ p, v.loc = .scratch p → (∀ j < v.size, cellGet u.scratch (p + j) = v.data.extractLsb' (8 * j) 8) ∧
        (∀ b, b < p ∨ p + v.size ≤ b → cellGet u.scratch b = cellGet s.scratch b) ∧
        (∀ b, cellGet u.dram b = cellGet s.dram b) ∧ (∀ b, cellGet u.pool b = cellGet s.pool b)) ∧
      (∀ p, v.loc = .pool p → (∀ j < v.size, cellGet u.pool (p + j) = v.data.extractLsb' (8 * j) 8) ∧
        (∀ b, b < p ∨ p + v.size ≤ b → cellGet u.pool b = cellGet s.pool b) ∧
        (∀ b, cellGet u.dram b = cellGet s.dram b) ∧ (∀ b, cellGet u.scratch b = cellGet s.scratch b)) ∧
      (∀ p, v.loc = .glob p → (∀ q ∈ s.partials, q.addr / 128 ≠ p / 128) →
        (∀ j < v.size, (∀ c, s.capList = some c → p + j < c ∨ c + 136 ≤ p + j) → cellGet u.dram (p + j) = v.data.extractLsb' (8 * j) 8) ∧
        (∀ c, s.capList = some c → ∀ j < 136, cellGet u.dram (c + j) = cellGet s.dram (c + j)) ∧
        (∀ b, b < p ∨ p + v.size ≤ b → cellGet u.dram b = cellGet s.dram b) ∧
        (∀ b, cellGet u.scratch b = cellGet s.scratch b) ∧ (∀ b, cellGet u.pool b = cellGet s.pool b))

/-- A load is performed: ACCESS_PERFORM changes no byte of memory and no register, and the lane's value becomes the bytes at the location, low byte first, sign- or
zero-extended by the type; in device memory those of the home where the core has no copy that may be hit, the line is not poisoned and no partial result of it is
out (R246, R252, R261). -/
def Obligations.LoadPerforms : Prop :=
  ∀ (s : State) (uid k : Nat) (o : Op) (a : Access) (v : AccUnit) (g : Group) (ty : Ty), AtTurn s uid k o a v g → a.kind = .load ty →
    v.off = 0 → v.size = tySize ty → (∀ j w, a.units[j]? = some w → w.lane = v.lane → j = k) → cellGet o.vals v.lane = 0 →
    (match v.loc with
     | .glob p => s.hitCopy? g p v.size v.lcls = none ∧ s.poisonLines.contains (p / 128) = false ∧ ∀ q ∈ s.partials, q.addr / 128 ≠ p / 128
     | loc => s.poisoned loc v.size = false) →
    ∃ u o', exec (.accessPerform uid k) s = .next u ∧ u.op? uid = some o' ∧
      cellGet o'.vals v.lane = extendTy ty (BitVec.ofNat 64 (s.readLoc v.loc v.size)) ∧
      (∀ id, (u.group? id).map regsOf = (s.group? id).map regsOf) ∧ u.teams = s.teams ∧ SameBytes s u

/-- An atomic is performed in one step on a scratchpad or pool location, and ATOM on one of device memory at its home: the lane's value is the old word, and the location
holds the old value joined with the operand by the operation; every other byte stays. ATOMR on device memory, no core holding a partial result of the line, leaves
every byte as it is and its own core the partial result of the operand, and what the recall of the line makes of it is the old value joined with the
operand. In device memory the location lies off the capability list (R245, R254, R259, R264). -/
def Obligations.AtomicPerforms : Prop :=
  ∀ (s : State) (uid k : Nat) (o : Op) (a : Access) (v : AccUnit) (g : Group) (ty : Ty) (op : AtomOp) (ret : Bool),
    AtTurn s uid k o a v g → a.kind = .atom ty op ret → v.off = 0 → v.size = atomSize ty → cellGet o.vals v.lane = 0 →
    s.poisoned v.loc v.size = false →
    let old : DWord := BitVec.ofNat 64 (s.readLoc v.loc v.size)
    let holds (m m' : Mem) (p : Nat) (w : DWord) : Prop :=
      (∀ j < v.size, cellGet m' (p + j) = w.extractLsb' (8 * j) 8) ∧ (∀ b, b < p ∨ p + v.size ≤ b → cellGet m' b = cellGet m b)
    (∀ p, v.loc = .scratch p →
      ∃ u o', exec (.accessPerform uid k) s = .next u ∧ u.op? uid = some o' ∧ cellGet o'.vals v.lane = old ∧
        holds s.scratch u.scratch p (atomNew op ty old v.data v.cmp) ∧ (∀ b, cellGet u.dram b = cellGet s.dram b) ∧
        (∀ b, cellGet u.pool b = cellGet s.pool b)) ∧
    (∀ p, v.loc = .pool p →
      ∃ u o', exec (.accessPerform uid k) s = .next u ∧ u.op? uid = some o' ∧ cellGet o'.vals v.lane = old ∧
        holds s.pool u.pool p (atomNew op ty old v.data v.cmp) ∧ (∀ b, cellGet u.dram b = cellGet s.dram b) ∧
        (∀ b, cellGet u.scratch b = cellGet s.scratch b)) ∧
    (∀ p, v.loc = .glob p → s.offCaps p v.size = true → (∀ q ∈ s.partials, q.addr / 128 ≠ p / 128) →
      (ret = true →
        ∃ u o', exec (.accessPerform uid k) s = .next u ∧ u.op? uid = some o' ∧ cellGet o'.vals v.lane = old ∧ u.partials = s.partials ∧
          holds s.dram u.dram p (atomNew op ty old v.data v.cmp) ∧ (∀ b, cellGet u.scratch b = cellGet s.scratch b) ∧
          (∀ b, cellGet u.pool b = cellGet s.pool b)) ∧
      (ret = false → g.core < 256 →
        ∃ u, exec (.accessPerform uid k) s = .next u ∧ SameBytes s u ∧ u.partials = s.partials ++ [⟨g.core, p, op, ty, fit ty v.data⟩] ∧
          holds s.dram (u.recall (p / 128)).dram p (atomNew op ty old (fit ty v.data) 0)))

/-- The atomic operations on integers: the new value of .add is the sum modulo 2 ^ w, of .min and .max the lesser and greater as the type compares, of .and, .or and
.xor the bitwise one, of .exch the operand, of .cas the operand where the old value equals the compare value and the old value where not (R254). -/
def Obligations.AtomicValues : Prop :=
  ∀ (ty : Ty) (old b cmp : DWord), ty ∈ [Ty.s32, .z32, .s64, .z64] →
    let v (op : AtomOp) : DWord := atomNew op ty old b cmp
    (ext ty (v .add) - (ext ty old + ext ty b)) % 2 ^ ty.bits = 0 ∧
    ext ty (v .min) = min (ext ty old) (ext ty b) ∧ ext ty (v .max) = max (ext ty old) (ext ty b) ∧
    v .and = fit ty (old &&& b) ∧ v .or = fit ty (old ||| b) ∧ v .xor = fit ty (old ^^^ b) ∧ v .exch = fit ty b ∧
    ext ty (v .cas) = (if ext ty old = ext ty cmp then ext ty b else ext ty old)

/-- An access completes: a load all of whose parts have been performed, none poisoned, at its clk or later, writes its D register in exactly the operation's lanes, and
is outstanding no longer; no byte of memory changes (R90, R252, R259). -/
def Obligations.LoadLands : Prop :=
  ∀ (s : State) (o : Op) (a : Access) (d : Dest) (g : Group) (ty : Ty),
    s.op? o.uid = some o → o.job = .access a → a.kind = .load ty → a.acq = false → a.cb = none → a.release = none →
    (∀ v ∈ a.units, v.performed = true ∧ v.poisoned = false) → s.opDue o = true → o.dest = some d → d.op.lvl = .d → d.wide = false →
    o.raced = [] → s.group? o.grp = some g → g.uid = o.grp →
    ∃ u g', exec (.accessComplete o.uid) s = .next u ∧ u.group? o.grp = some g' ∧ u.op? o.uid = none ∧ SameBytes s u ∧
      (∀ r l, l < 64 → g'.dGet r l =
        if o.lanes.has l = true ∧ r = d.op.idx.toNat then (cellGet o.vals l).extractLsb' 0 32 else g.dGet r l) ∧
      (∀ id, id ≠ o.grp → u.group? id = s.group? id)

/-! ## The matrix unit -/

/-- The matrix instructions, by name. -/
def Sys2Proof.Claims.isMatrix : Instr → Prop
  | .mma .. | .mmas .. | .mmab .. | .cmprs .. | .cclr .. | .cld .. | .cscl .. | .cst .. => True
  | _ => False

/-- The read field that holds a matrix instruction's format word (R77, R79). -/
def Sys2Proof.Claims.formatField : Instr → Option Nat
  | .mma .. => some 2
  | .mmas .. | .mmab .. => some 3
  | .cst .. => some 1
  | _ => none

/-- The operands of a matrix instruction in scratchpad, in the order in which they are checked (R196), for a format word; none where the word is
not legal (R78, R192, R203). -/
def Sys2Proof.Claims.tiles (t : State) (x : Issue) (f : Word) : Option (List TileOp) :=
  let rows := tileRows x.g.width
  let v (k : Nat) : Word := w32 (t.src x k 0)
  let ab (sh : MmaShape) (k : Nat) : List TileOp :=
    [tileAt (v k) (tileBytes (aLines sh f rows).1 (aLines sh f rows).2 sh.fa.bits) 2,
     tileAt (v (k + 1)) (tileBytes (bLines sh f).1 (bLines sh f).2 sh.fb.bits) 2]
  match x.i with
  | .mma .. => (mmaShape .plain f).map fun sh => ab sh 0
  | .mmas .. => (mmaShape .sparse f).map fun sh => ab sh 1 ++ [tileAt (v 0) (rows * sh.k / 4) 2]
  | .mmab .. =>
    (mmaShape .scaled f).map fun sh =>
      ab sh 1 ++ [streamAt (v 0) sh.scale (rows * sh.blocks), streamAt ((t.src x 0 0).extractLsb' 32 32) sh.scale (32 * sh.blocks)]
  | .cmprs _ ty .. =>
    some [tileAt (v 0) (tileBytes rows (2 * fmtK ty) ty.bits) 2, tileAt (v 1) (tileBytes rows (fmtK ty) ty.bits) 3,
      tileAt (v 2) (rows * fmtK ty / 4) 3]
  | .cld .. => some [tileAt (v 0 + v 1) (rows * 128) 2]
  | .cst .. => (cstType f).map fun ty => [tileAt (v 0 + v 2) (tileBytes (cstLines f rows).1 (cstLines f rows).2 ty.bits) 3]
  | _ => some []

/-- MMA, MMAS, MMAB, CMPRS, CCLR, CLD, CSCL and CST issue. A guard of `(!p7)` makes them no-ops, which raise nothing whatever they name. With a lane of the width inactive they raise
ILLEGAL_CONVERGENCE, with a format word that differs among the lanes FORMAT_DIVERGENT, with an illegal one ILLEGAL_OPERAND, each record over the split's lanes
and with no address by the model's choice (log entries 16 and 17). With every lane active and every
operand in scratchpad resolved the instruction is outstanding, no register and no byte of memory has changed, and those that read scratchpad hold their
group until the read point (R42, R77 to R79, R187, R190, R193, R196, R198 to R203). -/
def Obligations.MatrixIssues : Prop :=
  (∀ (i : Instr) (s : State) (x : Issue) (t : State), isMatrix i → s.begin i = some (x, t) → s.mayIssue x = true → s.overrunDue x = false →
    t.queueTrap x = none → x.never = true → exec i s = .next ((t.took x).finish x)) ∧
  ∀ (i : Instr) (s : State) (x : Issue) (t : State) (m : Team), isMatrix i → Issues s i x t → t.teamOf x.g = some m →
    let raises (e : Trap) : Prop := exec i s = .next (s.trapOf i x e)
    let f : Word := match formatField i with | some k => w32 (t.src x k 0) | none => 0
    let reads : Bool := match i with | .cclr .. | .cscl .. | .cst .. => false | _ => true
    (x.never = true → exec i s = .next (t.finish x)) ∧
    (x.never = false → x.lanes ≠ Lanes.below x.g.width → raises (Trap.one 0x07 x.sp.lanes)) ∧
    (x.never = false → x.lanes = Lanes.below x.g.width →
      ((∃ k, formatField i = some k ∧ ∃ l ∈ x.list, w32 (t.src x k l) ≠ f) → raises (Trap.one 0x08 x.sp.lanes)) ∧
      ((∀ k, formatField i = some k → ∀ l ∈ x.list, w32 (t.src x k l) = f) →
        (tiles t x f = none → raises (Trap.one 0x02 x.sp.lanes)) ∧
        (∀ ops, tiles t x f = some ops → (∀ o ∈ ops, ∃ r, t.tileOp x m o = .ok r) →
          ∃ u o j, exec i s = .next u ∧ Adds x t u o ∧ o.job = .matrix j ∧ j.fmt = f ∧ j.read = !reads ∧ j.ready = false ∧ Untouched s u ∧
            (reads = true → (u.group? x.g.uid).map (·.hold) = some (.op o.uid)) ∧
            (∀ c cn a, i = .cscl c cn a → ∀ l ∈ x.list, cellGet o.vals l = t.src x 0 l))))

/-- The operands of a multiply-accumulate as its reads left them: the tiles A and B, MMAS's metadata, MMAB's decoded scales. -/
def Sys2Proof.Claims.matData (j : MatJob) (kind : MmaKind) (sh : MmaShape) (rows : Nat) : MmaData :=
  { a := j.words 0, b := j.words 1, mta := if kind = .sparse then j.bytes 2 else []
    sa := if kind = .scaled then (j.streams sh rows).1.es else []
    sb := if kind = .scaled then (j.streams sh rows).2.es else [] }

/-- The rational number that a finite value stands for. -/
def Sys2Proof.Claims.exactly : FVal → Option ℚ
  | .fin n m e => some ((if n then -1 else 1) * (m : ℚ) * 2 ^ e)
  | _ => none

/-- What is added to the accumulator for the k-th run along K: the exact sum of a block's products with its scales, or the sum of four 16-bit products rounded
once to f32 (R80, R82). -/
def Sys2Proof.Claims.runValue (sh : MmaShape) (a : Nat → Option Nat) (b sa sb : Nat → Nat) (k : Nat) : FVal :=
  let v := (blockValue sh a b (sa k) (sb k) (k * sh.run) sh.run).1
  if fmtClass sh.fa = 0 then FloatFmt.f32.decode (FloatFmt.f32.put .rn false v).1 else v

/-- The values of the matrix instructions. Integers: the exact products are added to the accumulator with wrap, and set no flag. Floats: the f32 accumulator, widened from
f16 and rounded back to it at the end where it is f16, takes the runs along K in ascending order, each sum rounded to nearest even; a block of finite elements
is the exact sum of its products, no product for a dropped position, times its two scales 2 ^ (E - 127), and one with a scale of 255 is a NaN. CMPRS keeps of each
group of four two elements, in ascending order of position: those that no other outranks but one, where of two equal ones the lower position goes first; and its
metadata nibble holds their positions (R75, R80 to R83, R192, R199). -/
def Sys2Proof.Claims.MatrixValues : Prop :=
  (∀ (sh : MmaShape) (a : Nat → Option Nat) (b sa sb : Nat → Nat) (c : Word),
    (sh.acc = 2 → mmaElement sh a b sa sb c =
      (BitVec.ofInt 32 (c.toInt + ((List.range sh.lk).map fun k => match a k with | some v => eltInt sh.fa v * eltInt sh.fb (b k) | none => 0).sum), 0)) ∧
    (∀ r : Nat → Nat, (∀ k, r (k + 1) = (FloatFmt.f32.sum .rn false (FloatFmt.f32.decode (r k)) (runValue sh a b sa sb k)).1) →
      (sh.acc = 0 → r 0 = c.toNat → (mmaElement sh a b sa sb c).1 = BitVec.ofNat 32 (r (sh.lk / sh.run))) ∧
      (sh.acc = 1 → r 0 = (FloatFmt.f16.convert .f32 .rn false false (c.toNat % 65536)).1 →
        (mmaElement sh a b sa sb c).1 = BitVec.ofNat 32 (FloatFmt.f32.convert .f16 .rn false false (r (sh.lk / sh.run))).1))) ∧
  (∀ (sh : MmaShape) (a : Nat → Option Nat) (b : Nat → Nat) (ea eb lo n : Nat),
    (∀ p q : Nat → ℚ, ea < 255 → eb < 255 →
      (∀ i < n, match a (lo + i) with
        | some v => exactly ((FloatFmt.ofTy sh.fa).decode v) = some (p i) ∧ exactly ((FloatFmt.ofTy sh.fb).decode (b (lo + i))) = some (q i)
        | none => p i = 0) →
      exactly (blockValue sh a b ea eb lo n).1 =
        some (((List.range n).map fun i => p i * q i).sum * 2 ^ ((ea : Int) - 127) * 2 ^ ((eb : Int) - 127))) ∧
    (ea = 255 ∨ eb = 255 → (blockValue sh a b ea eb lo n).1 = .nan false)) ∧
  (∀ (ty : Ty) (rows : Nat) (src : List Word) (i q : Nat), ty ∈ [Ty.bf16, .f16, .e4m3, .e5m2, .e3m2, .e2m3, .e2m1, .s8, .z8, .s4, .z4] →
    i < rows → 4 * q < 2 * fmtK ty →
    let e (p : Nat) : Nat := elementAt src ty.bits (2 * fmtK ty) i (4 * q + p)
    ∃ p p', p < p' ∧ p' < 4 ∧ elementAt (compress ty rows src).1 ty.bits (fmtK ty) i (2 * q) = e p ∧
      elementAt (compress ty rows src).1 ty.bits (fmtK ty) i (2 * q + 1) = e p' ∧
      metaNibble (compress ty rows src).2 (fmtK ty) i q = p + 4 * p' ∧
      ∀ r < 4, r ≠ p → r ≠ p' → ∀ k, k = p ∨ k = p' → outranks ty (e r) (e k) = false ∧ (outranks ty (e k) (e r) = false → k < r))

/-- MATRIX_COMPLETION acts on a collector in issue order: while an earlier instruction of the group has not used its collector it may not happen. In its turn
CCLR makes every element zero, CLD loads row a, column b from word 32 * a + b of the tile, CSCL multiplies row a by lane a's factor, rounded to nearest even,
and MMA, MMAS and MMAB make of each element of their collector, and of no other, what the format word and the operands as read make of it, with the values of
`MatrixValues`; each then completes. A CST reads its collector, and completes when its last word has been written. The read of the last word of a CMPRS that meets no poisoned
data is its read point: it frees the group, and the instruction has the compressed tile and its metadata to write. No byte of memory changes (R75, R80 to R83, R187,
R193, R197 to R203). -/
def Obligations.MatrixCompletes : Prop :=
  MatrixValues ∧
  (∀ (s : State) (o : Op) (j : MatJob) (g : Group) (k : Nat) (w : MatWord) (c : Ctl) (ty : Ty) (a b x : Opnd),
    s.engineStep o.uid k = none → s.op? o.uid = some o → o.instr = .cmprs c ty a b x → o.job = .matrix j →
    s.group? o.grp = some g → g.hold = .op o.uid → j.read = false → j.reads[k]? = some w → w.done = false →
    (∀ i v, j.reads[i]? = some v → v.bad = false ∧ (i ≠ k → v.done = true)) → s.poisoned (.scratch w.key) 4 = false →
    let now_ : MatJob :=
      { j with reads := j.reads.set k { w with val := BitVec.ofNat 32 (readNat s.scratch w.key 4), done := true, bad := false } }
    let r := compress ty (tileRows g.width) (now_.words 0)
    ∃ u o' j', exec (.accessPerform o.uid k) s = .next u ∧ u.op? o.uid = some o' ∧ o'.job = .matrix j' ∧ j'.read = true ∧ j'.ready = true ∧
      (u.group? o.grp).map (·.hold) = some (if c.drain then .drain else .free) ∧ SameBytes s u ∧ j'.writes.length = j.writes.length ∧
      ∀ (i : Nat) (v : MatWord), j.writes[i]? = some v → j'.writes[i]? = some { v with val := (r.1 ++ bytesWords r.2).getD i 0 }) ∧
  ∀ (s : State) (o : Op) (j : MatJob) (g : Group),
    s.op? o.uid = some o → o.job = .matrix j → s.group? o.grp = some g → j.read = true →
    let rows := tileRows g.width
    let c := collectorOf o.instr
    let changes (v : Nat → Nat → Option Word) : Prop :=
      ∃ u g', exec (.matrixCompletion o.uid) s = .next u ∧ u.group? o.grp = some g' ∧ u.op? o.uid = none ∧ SameBytes s u ∧
        (∀ a < rows, ∀ b < 32, ∀ w, v a b = some w → cellGet g'.cols (colKey c a b) = w) ∧
        (∀ k, (∀ a < rows, ∀ b < 32, k ≠ colKey c a b) → cellGet g'.cols k = cellGet g.cols k)
    (j.ready = true → (∀ w ∈ j.writes, w.done = true) →
      ∃ u, exec (.matrixCompletion o.uid) s = .next u ∧ u.op? o.uid = none ∧ SameBytes s u) ∧
    (j.ready = false → (∃ p ∈ s.matrixOpen o.grp, p.uid < o.uid) → exec (.matrixCompletion o.uid) s = .fault .notEnabled) ∧
    (j.ready = false → (∀ p ∈ s.matrixOpen o.grp, o.uid ≤ p.uid) →
      match o.instr with
      | .cclr .. => changes fun _ _ => some 0
      | .cld .. => changes fun a b => some ((j.words 0).getD (32 * a + b) 0)
      | .cscl .. =>
        changes fun a b =>
          some (BitVec.ofNat 32
            (FloatFmt.f32.fmul .rn false (cellGet g.cols (colKey c a b)).toNat (w32 (cellGet o.vals a)).toNat).1)
      | .mma .. | .mmas .. | .mmab .. =>
        changes fun a b =>
          (mmaKindOf o.instr).bind fun kind => (mmaShape kind j.fmt).map fun sh =>
            (mmaAt sh j.fmt rows (kind == .sparse) (matData j kind sh rows) a b (cellGet g.cols (colKey c a b))).1
      | .cst .. =>
        ∀ ty, cstType j.fmt = some ty →
          ∃ u o' j', exec (.matrixCompletion o.uid) s = .next u ∧ u.op? o.uid = some o' ∧ o'.job = .matrix j' ∧ j'.ready = true ∧
            u.groups = s.groups ∧ SameBytes s u
      | _ => True)

/-! ## Queues and engines -/

/-- QINIT, QPUSH, QPOP and QSTAT complete. With no active lane the first three complete at issue without effect. QINIT of 1 to 255 slots that lie in the
group's own scratchpad starts the queue empty with FREE at its size, and completes in 4 clk. QPUSH reserves the position at TAIL, its handle outstanding to it
for 24 clk, or longer where the bank of the ring word keeps it waiting; QPOP gives every active lane the handle at HEAD after as many, and the group holds that position from then on; on a queue that is uninitialised as
their group observes it both raise ILLEGAL_OPERAND. QSTAT is legal on any queue and gives every active lane the state word that its group observes after 8 clk.
After a QINIT its own group observes the new queue, and another group that has taken no acquire step since the queue as it was (R222). No register and no byte of
memory changes at their issue (R216 to R218, R221 to R224). That the trap records name the split's lanes and no address, and how long another group observes the
queue as it was, is the model's choice (log entries 16, 17 and 50). -/
def Obligations.QueueInstructions : Prop :=
  ∀ (i : Instr) (s : State) (x : Issue) (t : State) (m : Team),
    Issues s i x t → i.qField = none → t.teamOf x.g = some m → m.uid = x.g.team →
    let raises (e : Trap) : Prop := exec i s = .next (s.trapOf i x e)
    match i with
    | .qinit _ qn .. =>
      let base := (w32 (t.srcLow x 0)).toNat
      let slots := (w32 (t.srcLow x 1)).toNat
      (x.lanes = 0 → exec i s = .next (t.finish x)) ∧
      (x.lanes ≠ 0 → (∃ l, t.coreLoc m x.g.core base 4 (4 * slots) true = .ok l) →
        (slots = 0 ∨ 255 < slots → raises (Trap.one 0x02 x.sp.lanes)) ∧
        (1 ≤ slots → slots ≤ 255 →
          ∃ u o m', exec i s = .next u ∧ Adds x t u o ∧ o.due = some (t.clkOf x.g.core + 4) ∧ u.teamOf x.g = some m' ∧ Untouched s u ∧
            (m'.queue qn.toNat).init = true ∧ (m'.queue qn.toNat).size = slots ∧ (m'.queue qn.toNat).free = slots ∧
            (m'.queue qn.toNat).filled = 0 ∧ (m'.queue qn.toNat).head = 0 ∧ (m'.queue qn.toNat).tail = 0 ∧
            (∀ k, k ≠ qn.toNat → m'.queue k = m.queue k) ∧ (∀ a, m'.seenQueue qn.toNat x.g.idx a = m'.queue qn.toNat) ∧
            (∀ k a, k ≠ x.g.idx → a < now s → m'.seenQueue qn.toNat k a = m.queue qn.toNat)))
    | .qpush _ qn _ =>
      let q := m.queue qn.toNat
      (x.lanes = 0 → exec i s = .next (t.finish x)) ∧
      (x.lanes ≠ 0 → m.initFor x qn.toNat = false → raises (Trap.one 0x02 x.sp.lanes)) ∧
      (x.lanes ≠ 0 → m.initFor x qn.toNat = true → q.init = true →
        ∃ u o m', exec i s = .next u ∧ Added True x t u o ∧ DueAt t o (t.clkOf x.g.core + 24) ∧
          o.job = .push m.uid qn.toNat o.uid (w32 (t.srcLow x 0)) ∧ u.teamOf x.g = some m' ∧ Untouched s u ∧
          (m'.queue qn.toNat).free + 1 = q.free ∧ (m'.queue qn.toNat).tail = (q.tail + 1) % q.size ∧
          (m'.queue qn.toNat).filled = q.filled ∧ (m'.queue qn.toNat).reserved = q.reserved ++ [(o.uid, q.tail, false)])
    | .qpop _ qn _ =>
      let q := m.queue qn.toNat
      (x.lanes = 0 → exec i s = .next (t.finish x)) ∧
      (x.lanes ≠ 0 → m.initFor x qn.toNat = false → raises (Trap.one 0x02 x.sp.lanes)) ∧
      (x.lanes ≠ 0 → m.initFor x qn.toNat = true → q.init = true → t.poisoned (.scratch (m.ringKey q q.head)) 4 = false →
        ∃ u o m', exec i s = .next u ∧ Added True x t u o ∧ DueAt t o (t.clkOf x.g.core + 24) ∧ o.job = .popped ∧
          (∀ l ∈ x.list, cellGet o.vals l = ofW (BitVec.ofNat 32 (readNat t.scratch (m.ringKey q q.head) 4))) ∧
          u.teamOf x.g = some m' ∧ Untouched s u ∧ (m'.queue qn.toNat).filled + 1 = q.filled ∧
          (m'.queue qn.toNat).head = (q.head + 1) % q.size ∧ tabGet? (m'.queue qn.toNat).held x.g.idx = some q.head)
    | .qstat _ qn _ =>
      let q := m.seenQueue qn.toNat x.g.idx x.g.acquire
      ∃ u o w, exec i s = .next u ∧ Adds x t u o ∧ o.due = some (t.clkOf x.g.core + 8) ∧ Untouched s u ∧ (∀ l ∈ x.list, cellGet o.vals l = ofW w) ∧
        (q.init = false → w = 0) ∧
        (q.init = true → w.extractLsb' 0 8 = BitVec.ofNat 8 q.filled ∧ w.extractLsb' 8 8 = BitVec.ofNat 8 q.free ∧
          w.extractLsb' 16 8 = BitVec.ofNat 8 q.size ∧ w.getLsbD 24 = true ∧ w.getLsbD 25 = (tabGet? q.held x.g.idx).isSome ∧
          w.extractLsb' 26 6 = 0)
    | _ => True

/-- COPY, REEL and REELW complete. COPY whose shape, rows and completion object pass their checks becomes a thread of the copy engine with every word of its
rows to move. REEL takes a free context of its core, gives it the scalar file of its split, and returns the slice's handle. REELW waits for its slice,
which .stop ends first; a handle with a bit of [15:2] set raises ILLEGAL_OPERAND, over the split's lanes and with no address by the model's choice (log entries 16
and 17), and one that names no slice of its core is done at once. No register
and no byte of memory changes at their issue (R225 to R227, R229, R231, R234). -/
def Obligations.EngineInstructions : Prop :=
  ∀ (i : Instr) (s : State) (x : Issue) (t : State) (m : Team), Issues s i x t → t.teamOf x.g = some m →
    match i with
    | .copy _ sp dsp kind qn _ _ _ sk =>
      let first := if kind = .flag then 0 else 1
      let lane := (x.low?).getD 0
      let shape (j : Nat) : Nat := (t.regWord x .s (sk.idx.toNat + j) (16 + j) lane).toNat
      let src := (t.srcLow x first).toNat
      let dst := (t.srcLow x (first + 1)).toNat
      let rows := if shape 1 = 0 then 0 else shape 0
      shape 0 ≤ 65535 → shape 1 ≤ 16777216 → shape 1 % 4 = 0 → shape 2 % 4 = 0 → shape 3 % 4 = 0 → src % 4 = 0 → dst % 4 = 0 →
        (x.lanes = 0 → exec i s = .next (t.finish x)) ∧
        (x.lanes ≠ 0 → ∀ ks kd sig, t.rowKeys m x.g.core sp src (shape 2) (shape 1) false rows = .ok ks →
          t.rowKeys m x.g.core dsp dst (shape 3) (shape 1) false rows = .ok kd →
          t.copySignal x m kind qn.toNat t.nextId (t.nextId + 1) (w32 (t.srcLow x 0)) = .ok sig →
          ∃ u o th, exec i s = .next u ∧ Adds x t u o ∧ u.threads = t.threads ++ [th] ∧ th.uid = t.nextId + 1 ∧ th.grp = x.g.uid ∧
            th.src = sp ∧ th.dst = dsp ∧ th.signal = sig ∧ th.words.length = rows * (shape 1 / 4) ∧
            (∀ w ∈ th.words, w.val = none) ∧ Untouched s u)
    | .reel _ qn slice _ =>
      x.lanes ≠ 0 → t.reelBad x qn.toNat slice.toNat = none →
        ∃ u os o ctx r, exec i s = .next u ∧ u.ops = os ++ [o] ∧ SameOps t.ops os ∧ (x.i.qField = none → os = t.ops) ∧ ctx ∈ t.freeContexts x.g.core ∧ u.reel? x.g.core ctx = some r ∧
          r.busy = true ∧ r.queue = qn.toNat ∧ r.grp = x.g.uid ∧ r.since = t.clkOf x.g.core + 4 ∧ r.sfile = x.g.sfileOf x.sp ∧ r.loops = [] ∧
          (x.i.qField = none → o.due = some (t.clkOf x.g.core + 4)) ∧ (x.i.qField.isSome = true → DueAt t o (t.clkOf x.g.core + 28)) ∧
          (∀ l ∈ x.list, cellGet o.vals l = ofW (BitVec.ofNat 32 (r.serial % 65536 * 65536 + ctx % 4))) ∧ KeepsBytes s u
    | .reelw _ stop _ =>
      let h := w32 (t.srcLow x 0)
      let ctx := h.toNat % 4
      (x.lanes = 0 → exec i s = .next (t.finish x)) ∧
      (x.lanes ≠ 0 → h.extractLsb' 2 14 ≠ 0 → exec i s = .next (s.trapOf i x (Trap.one 0x02 x.sp.lanes))) ∧
      (x.lanes ≠ 0 → h.extractLsb' 2 14 = 0 →
        ((∀ r, t.reel? x.g.core ctx = some r → r.serial ≠ h.toNat / 65536) → exec i s = .next (t.finish x)) ∧
        (∀ r, t.reel? x.g.core ctx = some r → r.serial = h.toNat / 65536 →
          ∃ u o, exec i s = .next u ∧ Adds x t u o ∧ o.job = .reelWait x.g.core ctx r.serial ∧ Untouched s u ∧
            (stop = true → (u.reel? x.g.core ctx).map (·.ended) = some true)))
    | _ => True

/-- A slice executes. REEL_EXECUTE takes the context whose turn it is, with its next instruction in hand and its program counter past it. An arithmetic
instruction that R230 lets a slice hold, with operands that it lets it name, writes its S register, or the pair where the result has 64 bits, and nothing else of the
context, with the lane function of its sources; AEND counts its loop's index register up, going back
to the start while it is below the count, and with no loop open ends the slice; ALOOP sets its index register to zero, opening a loop or, for a count of
0, passing over it; AQPUT reserves a position of the bound queue and sets a thread of the engine going; NOP does nothing. ALOOP, AEND and AQPUT issued by a group raise ILLEGAL_OPCODE, over the split's lanes and with no
address by the model's choice (log entries 16 and 17) (R229 to R233). -/
def Obligations.SliceInstructions : Prop :=
  (∀ (s : State) (core ctx n : Nat) (r : ReelCtx) (i : Instr),
    s.reelReady core ctx = some (r, n, .ok i) → s.reelTurn core = some ctx →
    ∃ u r', exec (.reelExecute core ctx) s = .next u ∧ u.cur = .reel core ctx ∧ u.agenda = i :: s.agenda ∧ u.reel? core ctx = some r' ∧
      r'.here = r.pc ∧ r'.pc = r.pc + BitVec.ofNat 64 n ∧ r'.sfile = r.sfile ∧ SameBytes s u) ∧
  (∀ (i : Instr) (s : State) (x : Issue) (t : State), (match i with | .aloop .. | .aend .. | .aqput .. => True | _ => False) →
    s.begin i = some (x, t) → s.mayIssue x = true → s.overrunDue x = false → exec i s = .next (t.trapAt x (Trap.one 0x01 x.sp.lanes))) ∧
  (∀ (s : State) (core ctx : Nat) (r : ReelCtx), s.cur = .reel core ctx → s.reel? core ctx = some r →
    (∀ c, exec (.nop c) s = .next s) ∧ (∀ c, exec (.nopCompact c) s = .next s) ∧
    (∀ i lat f, sliceInstr i = true → i.slots.all sliceOperand = true → (integerTable i = some (lat, f) ∨ logicTable i = some (lat, f)) →
      ∀ sl, i.dest = some sl →
      ∃ u r', exec i s = .next u ∧ u.reel? core ctx = some r' ∧ r'.pc = r.pc ∧ r'.loops = r.loops ∧ u.groups = s.groups ∧ SameBytes s u ∧
        let v := (f fun k => match i.reads[k]? with | some sl => reelValue r.sfile sl | none => 0).1
        ∀ k, cellGet r'.sfile k =
          if sl.role.wideWrite = true ∧ k = sl.op.idx.toNat + 1 then v.extractLsb' 32 32
          else if k = sl.op.idx.toNat then v.extractLsb' 0 32
          else cellGet r.sfile k) ∧
    (∀ c, ∃ u r', exec (.aend c) s = .next u ∧ u.reel? core ctx = some r' ∧
      (r.loops = [] → r'.ended = true) ∧
      (∀ start count idx rest, r.loops = (start, count, idx) :: rest →
        cellGet r'.sfile idx = cellGet r.sfile idx + 1 ∧
        (if (cellGet r.sfile idx + 1).toNat < count.toNat then r'.pc = start ∧ r'.loops = r.loops else r'.pc = r.pc ∧ r'.loops = rest))) ∧
    (∀ c d a m next, s.team? r.team = some m → s.afterLoop core m.asid r.stop r.pc 0 ((r.stop - r.pc).toNat / 4 + 1) = some next →
      r.loops.length < 4 →
      let count := w32 (reelValue r.sfile ⟨.src32, a⟩)
      ∃ u r', exec (.aloop c d a) s = .next u ∧ u.reel? core ctx = some r' ∧ cellGet r'.sfile d.idx.toNat = 0 ∧
        (if count = 0 then r'.pc = next ∧ r'.loops = r.loops
         else r'.pc = r.pc ∧ r'.loops = (r.pc, count, d.idx.toNat) :: r.loops)) ∧
    (∀ c qn sp a b m ks kd, s.team? r.team = some m → m.uid = r.team → qn.toNat = r.queue → (m.queue qn.toNat).init = true →
      let q := m.queue qn.toNat
      let h := s.ringWord m q q.tail
      s.poisoned (.scratch (m.ringKey q q.tail)) 4 = false →
      State.tileKeys { s with nextId := s.nextId + 1, teams := tabSet s.teams m.uid (m.setQueue qn.toNat (q.reserve s.nextId)) } m core sp
        (reelValue r.sfile ⟨if sp = .glob then .adr64 else .adr32, a⟩).toNat h (w32 (reelValue r.sfile ⟨.src32, b⟩)) = .ok (ks, kd) →
      ∃ u m' th, exec (.aqput c qn sp a b) s = .next u ∧ u.team? r.team = some m' ∧
        (m'.queue qn.toNat).reserved = q.reserved ++ [(s.nextId, q.tail, false)] ∧ u.threads = s.threads ++ [th] ∧
        th.signal = .push m.uid qn.toNat s.nextId h ∧ th.src = sp ∧ th.dst = .core ∧ SameBytes s u))

/-! ## Handlers and system registers -/

/-- TRAP with no active lane does nothing. Otherwise it raises a precise trap with one record: CODE its code, SW 1, LANES its active lanes, ACCESS 0 and ADDR 0, and its resume point
is after it. A group that holds its slot, with no delivery pending and room for the record, is then in the handler that the trap table names, that record
the newest of its queue. TRAP is not result-producing: the user's window stands as it was; codes above 127 need the full form (R342). -/
def Obligations.TrapRaises : Prop :=
  (∀ c code, Instr.producesResult (.trap c code) = false ∧
    ∀ w rest, decodeWords (w :: rest) = .ok (.trap c code) → 127 < code.toNat → w.getLsbD 31 = true ∧ w.getLsbD 30 = true) ∧
  ∀ (s : State) (x : Issue) (t : State) (c : Ctl) (code : BitVec 8), Issues s (.trap c code) x t →
    (x.lanes = 0 → exec (.trap c code) s = .next (t.finish x)) ∧
    (x.lanes ≠ 0 →
      exec (.trap c code) s = .next (t.trapNow x
        { recs := [⟨code, 0, 0, x.lanes⟩], sw := true, resume := .after, cb := none, gather := none })) ∧
    (x.lanes ≠ 0 → x.g.unwinding = none → ∀ slot since entry, x.g.place = .active slot since → x.g.debug ≠ .stepping → x.g.deliveries = [] →
      x.g.frq.length < 8 → (t.touchTable x.g code).trapEntry x.g code = .handler entry →
      ∃ u g' h q, exec (.trap c code) s = .next u ∧ u.group? x.g.uid = some g' ∧ g'.hand = some h ∧ g'.frq = x.g.frq ++ [q] ∧
        q.code = code ∧ q.sw = true ∧ q.lanes = x.lanes ∧ q.access = 0 ∧ q.addr = 0 ∧ h.serves.code = code ∧ h.serves.sw = true ∧
        h.serves.resume = .after ∧ h.serves.pc = x.pc ∧ h.serves.len = x.len ∧
        (h.bank.splits.map fun sp => (sp.lanes, sp.pc)) = [(x.g.alive, entry)] ∧ g'.bank = x.g.bank)

/-- What REPLAY does with a precise trap that an LDX or STX raised: the instruction is sent again, under the same bitmap and set flag, on those of the lanes that were active at its first
issue which are not marked in the bitmap. With their checks passed, one operation is added for all those first lanes with a part at the address of each unmarked one, the marks stay, and the split
goes on after the instruction, as after TRET.skip. With a check failed, those lanes raise a new precise trap at the same instruction, and the marks stay as they are (R253, R343, R393). -/
def Sys2Proof.Claims.Replays (i : Instr) (s : State) (x : Issue) (t : State) (h : Handler) : Prop :=
  ∀ (q : Gather) (g : Group) (sp : Split) (c : Ctl) (space : Space) (ty : Ty) (cb : Nat) (load : Bool),
    h.serves.gather = some q → h.serves.resume = .re → t.group? x.g.uid = some g → q.instr.ctl = some c → gatherOf q.instr = some (space, ty, cb, load) →
    (closeHandler g).bank.split? h.serves.split = some sp → t.gatherBusy x.g q = false →
    let y : Issue :=
      { i := q.instr, c := c, g := closeHandler g, sp := sp, pc := h.serves.pc, len := h.serves.len, lanes := q.lanes, bits := Config.choose t.fresh }
    let v : State := { t.setGroup y.g with fresh := t.fresh + 1 }
    let left := (q.lanes.list 64).filter fun l => !Lanes.has (cellGet g.cb cb) l
    let off := some (if load then 1 else 2)
    let r := v.targets y.g false space (tySize ty) (if load then needLoad else needStore) (v.laneAddrs y space off left)
    (r.2.1 = [] →
      ∃ u g' os o a, exec i s = .next u ∧ u.group? x.g.uid = some g' ∧ g'.hand = none ∧ g'.dfile = g.dfile ∧ cellGet g'.cb cb = cellGet g.cb cb ∧
        (g'.bank.split? h.serves.split).map (fun p => (p.pc, p.lanes)) = some (h.serves.pc + BitVec.ofNat 64 h.serves.len, sp.lanes) ∧
        u.ops = os ++ [o] ∧ SameOps t.ops os ∧ o.grp = x.g.uid ∧ o.instr = q.instr ∧ o.lanes = q.lanes ∧ o.set = c.set.toNat ∧
        o.job = .access a ∧ a.cb = some cb ∧ a.again = true ∧ a.kind = (if load then .load ty else .store ty) ∧
        (∀ w ∈ a.units, w.performed = false ∧ w.lane ∈ left) ∧
        (∀ l ∈ left, ∃ w ∈ a.units, w.lane = l ∧ w.off = 0 ∧ w.va = v.laneAddr y space 0 off l ∧ (load = false → w.data = v.src y 1 l))) ∧
    (r.2.1 ≠ [] →
      ∃ (w : State) (g' : Group), exec i s = .next ((w.raiseTrap g' sp.id h.serves.pc h.serves.len
          { Trap.ofFaults r.2.1 with cb := some cb, gather := some { instr := q.instr, lanes := q.lanes, cb := cb } }).deliver x.g.uid) ∧
        w.group? x.g.uid = some g' ∧ cellGet g'.cb cb = cellGet g.cb cb ∧ (g'.bank.split? sp.id).map (·.pc) = some sp.pc)

/-- Leaving a handler. TRET, with every instruction of the handler complete and no other delivery pending, gives the group back to its user code: the near levels and D
are as they were, and the split that HCAUSE names stands at the resume point of R333, under .skip after the faulting instruction; a software trap continues after
its TRAP in both, and a notice leaves every split where it stood. While instructions of the handler are outstanding the exit waits for them. REPLAY of a trap that no LDX or STX raised acts as
TRET, and of one that such an instruction raised it sends that instruction again, as `Replays` says. UNWIND of a replayable strand leaves the handler for the user's outstanding instructions; of another it is a nested fault with STRAND_VIOLATION, over the split's lanes
and with no address by the model's choice (log entries 16 and 17). ENDG ends every lane and the
group. No byte of memory changes at a TRET or UNWIND (R333, R336, R341, R343, R344). -/
def Obligations.HandlerReturns : Prop :=
  (∀ (d : Delivery) (pc : DWord),
    (d.resume = .re → resumeAt d false pc = d.pc ∧ resumeAt d true pc = d.pc + BitVec.ofNat 64 d.len) ∧
    (d.resume = .after → ∀ skip, resumeAt d skip pc = d.pc + BitVec.ofNat 64 d.len) ∧
    (d.resume = .same → ∀ skip, resumeAt d skip pc = pc) ∧
    (d.resume = .line → resumeAt d false pc = d.pc ∧ resumeAt d true pc = BitVec.ofNat 64 ((d.pc.toNat / 64 + 1) * 64))) ∧
  ∀ (i : Instr) (s : State) (x : Issue) (t : State) (h : Handler), Issues s i x t → x.g.hand = some h → x.never = false →
    let alone : Prop := t.opsOf x.g true = []
    let last : Prop := ∀ d ∈ x.g.deliveries, d.id = h.serves.id
    let back (skip : Bool) : Prop :=
      ∃ u g', exec i s = .next u ∧ u.group? x.g.uid = some g' ∧ g'.hand = none ∧ g'.deliveries = [] ∧ g'.dfile = x.g.dfile ∧
        g'.bank.win = x.g.bank.win ∧ g'.bank.nst = x.g.bank.nst ∧ g'.bank.nval = x.g.bank.nval ∧ g'.bank.preds = x.g.bank.preds ∧
        SameBytes s u ∧
        (h.serves.notice = true →
          g'.bank.splits.map (fun q => (q.id, q.pc, q.lanes, q.join, q.held)) = x.g.bank.splits.map fun q => (q.id, q.pc, q.lanes, q.join, q.held)) ∧
        (h.serves.notice = false → h.serves.debug = false → ∀ sp, x.g.bank.split? h.serves.split = some sp →
          (g'.bank.split? h.serves.split).map (fun q => (q.pc, q.lanes)) = some (resumeAt h.serves skip sp.pc, sp.lanes))
    (∀ c skip, i = .tret c skip →
      (∃ u, exec i s = .next u) ∧ (alone → last → back skip) ∧
        (¬alone → ∃ u g', exec i s = .next u ∧ u.group? x.g.uid = some g' ∧ g'.hand.map (·.exit) = some (some (.tret skip)))) ∧
    (∀ c, i = .replay c → (∃ u, exec i s = .next u) ∧ (h.serves.gather = none → alone → last → back false) ∧ (alone → last → Replays i s x t h)) ∧
    (∀ c, i = .unwind c →
      (x.g.strand.entry.replay = false → exec i s = .next (s.trapOf i x (Trap.one 0x0B x.sp.lanes))) ∧
      (x.g.strand.entry.replay = true → alone → h.mapreq = none →
        ∃ u g', exec i s = .next u ∧ u.group? x.g.uid = some g' ∧ g'.hand = none ∧ g'.unwinding = some none ∧ SameBytes s u)) ∧
    (∀ c, i = .endg c →
      ∃ u g', exec i s = .next u ∧ u.group? x.g.uid = some g' ∧ g'.place = .ended ∧ g'.alive = 0 ∧ g'.byEndg = true ∧ g'.hand = none)

/-- FRQPOP, MAPREQ, UREAD, UWRITE, SRD, SWR and BKPT complete. FRQPOP takes the oldest record and leaves its eight words, or zeros where there is none, in eight D registers 8 clk
later. MAPREQ is outstanding until firmware answers; a kind above 1 raises ILLEGAL_OPERAND, before an address with a bit of [63:56] set raises ADDRESS. UREAD and
UWRITE reach the user's W and N 4 clk later. SRD of an assigned number, outside a handler of NFLAGS only, gives every active lane the register after 8 clk, and
any other number raises ILLEGAL_MODIFIER, as for SWR, before a bad operand or an entry that is not ready does (R53); SWR writes NFLAGS, STRMAX or CHDLY at issue, and no other
register. BKPT in a context without debugging completes at issue, and in one with it halts the group (R341, R345 to R349). That these records name the split's lanes, ACCESS 0
and, MAPREQ's ADDRESS apart, no address is the model's choice (log entries 16 and 17). -/
def Obligations.HandlerAndSystemInstructions : Prop :=
  (∀ (i : Instr) (s : State) (x : Issue) (t : State) (num : BitVec 12), s.begin i = some (x, t) → s.mayIssue x = true → s.overrunDue x = false →
    ((∃ c d, i = .srd c num d) ∨ ∃ c a, i = .swr c num a) → (sysAssigned num.toNat && (x.g.hand.isSome || num == 1)) = false →
    exec i s = .next (t.trapAt x (Trap.one 0x03 x.sp.lanes))) ∧
  ∀ (i : Instr) (s : State) (x : Issue) (t : State), Issues s i x t →
    let raises (e : Trap) : Prop := exec i s = .next (s.trapOf i x e)
    (∀ c d, i = .frqpop c d → d.lvl = .d →
      (x.lanes = 0 → exec i s = .next (t.finish x)) ∧
      (x.lanes ≠ 0 →
        let ws : List Word := match x.g.frq with | r :: _ => r.words | [] => []
        ∃ u g' os, exec i s = .next u ∧ u.group? x.g.uid = some g' ∧ g'.frq = x.g.frq.tail ∧ u.ops = t.ops ++ os ∧ os.length = 8 ∧
          SameBytes s u ∧ ∀ (k : Nat) (o : Op), os[k]? = some o → o.grp = x.g.uid ∧ o.lanes = x.lanes ∧ o.due = some (t.clkOf x.g.core + 8) ∧
            o.dest.map (·.op) = some ⟨.d, d.idx + BitVec.ofNat 8 k⟩ ∧ ∀ l ∈ x.list, cellGet o.vals l = ofW (ws.getD k 0))) ∧
    (∀ c a b, i = .mapreq c a b →
      let va := (t.srcLow x 0).toNat
      let kind := (w32 (t.srcLow x 1)).toNat
      (x.lanes = 0 → exec i s = .next (t.finish x)) ∧
      (x.lanes ≠ 0 → 1 < kind → raises (Trap.one 0x02 x.sp.lanes)) ∧
      (x.lanes ≠ 0 → kind ≤ 1 → 2 ^ 56 ≤ va → raises (Trap.one 0x10 x.sp.lanes (t.srcLow x 0))) ∧
      (x.lanes ≠ 0 → kind ≤ 1 → va < 2 ^ 56 →
        ∃ u o, exec i s = .next u ∧ Adds x t u o ∧ o.job = .mapreq va (kind == 1) false ∧ Untouched s u)) ∧
    (∀ c wide v d, i = .uread c wide v d →
      ∃ u o, exec i s = .next u ∧ Adds x t u o ∧ o.due = some (t.clkOf x.g.core + 4) ∧ o.job = .uread v wide ∧ Untouched s u) ∧
    (∀ c wide v a, i = .uwrite c wide v a →
      ∃ u o, exec i s = .next u ∧ Adds x t u o ∧ o.due = some (t.clkOf x.g.core + 4) ∧ o.job = .uwrite v wide ∧ Untouched s u ∧
        ∀ l ∈ x.list, cellGet o.vals l = t.src x 0 l) ∧
    (∀ c num d, i = .srd c num d →
      ∃ u o v, exec i s = .next u ∧ Adds x t u o ∧ o.due = some (t.clkOf x.g.core + 8) ∧ Untouched s u ∧ (∀ l ∈ x.list, cellGet o.vals l = ofW v) ∧
        (∀ k, t.contextOf x.g = some k → (num = 0x010 → v = k.strmax.setWidth 32) ∧ (num = 0x055 → v = k.chdly.setWidth 32) ∧
          (num = 0x060 → v = k.trapTab.extractLsb' 0 32) ∧ (num = 0x061 → v = k.trapTab.extractLsb' 32 32)) ∧
        (∀ h, x.g.hand = some h → (num = 0x063 → v = h.serves.pc.extractLsb' 0 32) ∧ (num = 0x064 → v = h.serves.pc.extractLsb' 32 32) ∧
          (num = 0x065 → v = h.serves.addr.extractLsb' 0 32)) ∧
        (num = 0x067 → v = BitVec.ofNat 32 x.g.mapstat)) ∧
    (∀ c num a, i = .swr c num a →
      let v := w32 (t.srcLow x 0)
      (x.lanes = 0 → exec i s = .next (t.finish x)) ∧
      (x.lanes ≠ 0 →
        (num = 0x001 → ∃ u g', exec i s = .next u ∧ u.group? x.g.uid = some g' ∧ g'.nflags = v &&& 0x1F) ∧
        (num = 0x010 → ∀ k, t.contextOf x.g = some k →
          ∃ u k', exec i s = .next u ∧ u.contextOf x.g = some k' ∧ k'.strmax = v.extractLsb' 0 24 ∧ k'.chdly = k.chdly) ∧
        (num = 0x055 → ∀ k, t.contextOf x.g = some k →
          ∃ u k', exec i s = .next u ∧ u.contextOf x.g = some k' ∧ k'.strmax = k.strmax ∧
            k'.chdly = if v.extractLsb' 0 16 = 0 then k.chdly else v.extractLsb' 0 16) ∧
        (num ≠ 0x001 → num ≠ 0x010 → num ≠ 0x055 → exec i s = .next (t.finish x)))) ∧
    (∀ c tag, i = .bkpt c tag →
      (x.never = true ∨ (∀ k, t.contextOf x.g = some k → k.debug = false) → exec i s = .next (t.finish x)) ∧
      (x.never = false → ∀ k, t.contextOf x.g = some k → k.debug = true →
        ∃ u g', exec i s = .next u ∧ u.group? x.g.uid = some g' ∧ g'.debug = .halted ∧ SameBytes s u))

/-! ## Cells, tasks and the Tether -/

/-- The waiting instructions: the wait, the destination, its width, and the read field of the offset (R307, R323 to R326). -/
def Sys2Proof.Claims.waitShape : Instr → Option (WaitOp × Option Opnd × Bool × Nat)
  | .fwait _ ty d .. => some (.fwait, some d, ty.is64, 1)
  | .lock .. => some (.lock, none, false, 1)
  | .chpush _ ty .. => some (.chpush, none, ty.is64, 2)
  | .chpop _ ty d .. => some (.chpop, some d, ty.is64, 1)
  | .waitc .. => some (.waitc, none, false, 2)
  | _ => none

/-- FWAIT, LOCK, CHPUSH, CHPOP and WAITC with no active lane take their group out of its slot, ready at once; else, their object translated, they make a first attempt that holds the
group. FSET, FTEST, UNLOCK, SPAWN and DEPDEC, with no active lane complete, and else ask the home of their object, TDONE that of its task, and hold the group until the answer; LAUNCH asks and holds
nothing. TBAR and PHEND, whatever the guard, take their group out of its slot to wait at the barrier. An object that fails its checks raises the trap of the
check; a level above 10 raises ILLEGAL_OPERAND in SPAWN, over the split's lanes and with no address by the model's choice (log entries 16 and 17). No byte of memory changes where they ask, wait or leave, the partial results that a translation returns apart (R297 to R302, R307, R308, R322 to R328). -/
def Obligations.CellAndTaskInstructions : Prop :=
  (∀ (i : Instr) (s : State) (x : Issue) (t : State) (op : WaitOp) (d : Option Opnd) (wide : Bool) (off : Nat),
    waitShape i = some (op, d, wide, off) → Issues s i x t → (∀ e, d = some e → t.waitDest x e wide = none) →
    let va := t.objectAddr x off
    let align : Nat := match op with | .waitc => 4 | .chpush | .chpop => 32 | _ => 16
    let need : Need := match op with | .fwait | .waitc => .read | _ => .both
    let v : DWord := match op with | .chpush | .waitc => t.srcLow x 1 | _ => 0
    (x.lanes = 0 → ∃ u g', exec i s = .next u ∧ u.group? x.g.uid = some g' ∧ g'.place = .ready (s.clkOf x.g.core) ∧ SameBytes s u) ∧
    (x.lanes ≠ 0 → ∀ e t', t.objectAt x va align need 4 = (.error e, t') → exec i s = .next (s.trapOf i x e)) ∧
    (x.lanes ≠ 0 → ∀ pa t', t.objectAt x va align need 4 = (.ok pa, t') →
      ∃ u o, exec i s = .next u ∧ Adds x t u o ∧ o.job = .attempt op va pa wide v 0 ∧ (u.group? x.g.uid).map (·.hold) = some (.op o.uid) ∧
        KeepsBytes s u)) ∧
  (∀ (i : Instr) (s : State) (x : Issue) (t : State), Issues s i.core x t →
    let asks (va align : Nat) (need : Need) (access : BitVec 3) (wide : Bool) (v : DWord) : Prop :=
      (x.lanes = 0 → exec i s = .next (t.finish x)) ∧
      (x.lanes ≠ 0 → ∀ e t', t.objectAt x va align need access = (.error e, t') →
        exec i s = .next (s.trapOf i.core x e)) ∧
      (x.lanes ≠ 0 → ∀ pa t', t.objectAt x va align need access = (.ok pa, t') →
        ∃ u o, exec i s = .next u ∧ Adds x t u o ∧ o.job = .almanac va pa wide v ∧ (u.group? x.g.uid).map (·.hold) = some (.op o.uid) ∧
          KeepsBytes s u)
    (∀ c ty status a b y, i = .fsetFuture c ty status a b y → asks (t.objectAddr x 2) 16 .both 4 ty.is64 (t.srcLow x 1)) ∧
    (∀ c d a y, i = .ftest c d a y → asks (t.objectAddr x 1) 16 .read 4 false 0) ∧
    (∀ c a y, i = .unlock c a y → asks (t.objectAddr x 1) 16 .both 4 false 0) ∧
    (∀ c a, i = .depdec c a → asks (t.srcLow x 0).toNat 64 .both 4 false 0) ∧
    (∀ c d a b, i = .spawn c d a b → (w32 (t.srcLow x 1)).toNat ≤ 10 →
      asks (t.srcLow x 0).toNat 256 .read 2 false (ofW (w32 (t.srcLow x 1)))) ∧
    (∀ c d a b, i = .spawn c d a b → x.lanes ≠ 0 → 10 < (w32 (t.srcLow x 1)).toNat →
      ∀ pa t', t.objectAt x (t.srcLow x 0).toNat 256 .read 2 = (.ok pa, t') →
        exec i s = .next (s.trapOf i.core x (Trap.one 0x02 x.sp.lanes))) ∧
    (∀ c a, i = .launch c a →
      (x.lanes = 0 → exec i s = .next (t.finish x)) ∧
      (x.lanes ≠ 0 → ∀ pa t', t.objectAt x (t.srcLow x 0).toNat 256 .read 2 = (.ok pa, t') →
        ∃ u o, exec i s = .next u ∧ Adds x t u o ∧ o.job = .launch (t.srcLow x 0).toNat (t.asidOf x.g) ∧ KeepsBytes s u)) ∧
    (∀ c, i.core = .tdone c →
      (x.lanes = 0 → exec i s = .next (t.finish x)) ∧
      (x.lanes ≠ 0 → ∀ m pa lcls mig nopin priv, t.teamOf x.g = some m →
        (t.recallWalk m.asid m.task).xlateWalk m.asid m.task .both true = .ok pa lcls mig nopin priv →
        ∃ u o, exec i s = .next u ∧ Adds x t u o ∧ o.job = .almanac m.task pa false 0 ∧
          (u.group? x.g.uid).map (·.hold) = some (.op o.uid) ∧ KeepsBytes s u)) ∧
    (∀ c, i.core = .tbar c →
      ∃ u g', exec i s = .next u ∧ u.group? x.g.uid = some g' ∧ g'.place = .waiting ∧ g'.barrier = some (false, 0) ∧ SameBytes s u) ∧
    (∀ c carry, i = .phend c carry →
      (∀ e, t.phendTrap x carry.toNat = some e → exec i s = .next (s.trapOf i.core x e)) ∧
      (t.phendTrap x carry.toNat = none →
        ∃ u g', exec i s = .next u ∧ u.group? x.g.uid = some g' ∧ g'.place = .waiting ∧ g'.barrier = some (true, carry.toNat) ∧ KeepsBytes s u)))

/-- PUT, GET, RATOM, COLL and WSTAT complete: with no active lane at issue; else, their target and their operands passing the checks of R361 to R365, as a transfer of the engine
with every word of it to do, as a collective next in its group's sequence, or as a read of the window's counter. At their issue PUT, GET, RATOM and WSTAT change no register and no byte of
memory, the partial results that a look at the window table returns apart (R245, R354, R361 to R365). -/
def Obligations.TetherInstructions : Prop :=
  ∀ (i : Instr) (s : State) (x : Issue) (t : State), Issues s i x t →
    let starts (r : Remote) (o : Op) : Prop :=
      ∃ u, exec i s = .next u ∧ Adds x t u o ∧ u.remotes = t.remotes ++ [r] ∧ r.op = o.uid ∧ r.grp = x.g.uid ∧ r.started = false ∧
        r.asked = [] ∧ r.isOver = false ∧ Undisturbed s u
    (∀ kind, (∃ c d a b y, i = .put c d a b y ∧ kind = RemoteKind.put ∨ i = .get c d a b y ∧ kind = RemoteKind.get) →
      let roff := (t.srcLow x 0).toNat
      let va := (t.srcLow x 1).toNat
      let len := (w32 (t.srcLow x 2)).toNat
      let target := w32 (t.srcLow x 3)
      (x.lanes = 0 → exec i s = .next (t.finish x)) ∧
      (x.lanes ≠ 0 → t.targetCheck x target roff = none → len ≤ 16777216 → len % 4 = 0 → va % 4 = 0 → roff % 4 = 0 → va < 2 ^ 56 →
        va + len ≤ 2 ^ 56 →
        ∃ r o, starts r o ∧ o.job = .answer ∧ r.kind = kind ∧ r.dev = target.extractLsb' 0 10 ∧ r.win = target.extractLsb' 16 12 ∧
          r.roff = roff ∧ r.local_ = va ∧ r.len = len ∧ r.todo = (List.range (len / 4)).map (4 * ·))) ∧
    (∀ c ty aop d a b y, i = .ratom c ty aop d a b y →
      let k := if aop = .cas then 1 else 0
      let roff := (t.srcLow x k).toNat
      let target := w32 (t.srcLow x (k + 2))
      (x.lanes = 0 → exec i s = .next (t.finish x)) ∧
      (x.lanes ≠ 0 → t.targetCheck x target roff = none → roff % atomSize ty = 0 →
        ∃ r o, starts r o ∧ o.job = .remote ∧ r.kind = .ratom ty aop (t.srcLow x (k + 1)) (if aop = .cas then t.srcLow x 0 else 0) ∧
          r.dev = target.extractLsb' 0 10 ∧ r.win = target.extractLsb' 16 12 ∧ r.roff = roff ∧ r.len = atomSize ty)) ∧
    (∀ c arrived d a, i = .wstat c arrived d a →
      let w := (w32 (t.srcLow x 0)).toNat
      (x.lanes = 0 → exec i s = .next (t.finish x)) ∧
      (x.lanes ≠ 0 → w < 4096 → ∀ v pa lcls mig nopin priv, t.window? (t.asidOf x.g) w = some v →
        t.xlateWalk (t.asidOf x.g) (v.entry + if arrived then 24 else 16) .read true = .ok pa lcls mig nopin priv →
        ∃ u o, exec i s = .next u ∧ Adds x t u o ∧ o.job = .wstat pa (v.entry + if arrived then 24 else 16) ∧ Undisturbed s u)) ∧
    (∀ c cop fmt red a b, i = .coll c cop fmt red a b →
      let counter := (t.srcLow x 0).toNat
      let v := w32 (t.srcLow x 1)
      let cg := v.toNat / 2 ^ 16 % 2 ^ 12
      (x.lanes = 0 → exec i s = .next (t.finish x)) ∧
      (x.lanes ≠ 0 → v &&& 0xF000F000 = 0 → ∀ w k, t.window? (t.asidOf x.g) (v.toNat % 2 ^ 12) = some w →
        t.collGroup? (t.asidOf x.g) cg = some k → t.devid.isSome = true → k.rank < k.count → w.size % collBytes fmt = 0 →
        (cop = .allgather ∨ cop = .reducescatter → w.size / collBytes fmt % k.count = 0) → counter % 4 = 0 → counter < 2 ^ 56 →
        (∀ q ∈ t.colls, q.uid ≠ t.nextId) →
        ∃ u q, exec i s = .next u ∧ u.coll? t.nextId = some q ∧ q.cop = cop ∧ q.fmt = fmt ∧ q.red = red ∧ q.cgroup = cg ∧
          q.base = w.base ∧ q.n = w.size / collBytes fmt ∧ q.count = k.count ∧ q.rank = k.rank ∧ q.counter = counter ∧
          q.seq = tabGetD t.collSeq (t.asidOf x.g * 4096 + cg) 0 ∧
          tabGetD u.collSeq (t.asidOf x.g * 4096 + cg) 0 = q.seq + 1))

/-! ## Events of slots and results -/

/-- The events of active slots and results happen when their condition holds. ACTIVATION gives the lowest free slot to the best ready group, with empty near levels and its first
instruction 4 clk or more after the slot became free. UWRITE and UREAD land at their clk, UREAD after the user's results in flight. ICACHE_FILL brings a wanted line, where no maintenance action holds its home. SLEEP_WAKE ends a sleep at its wake
time or for a request. QUEUE_LAND writes a push's handle into its ring position; QUEUE_RETIRE frees a held position. COPY_TRANSFER_DONE signals: a counter word grows by one. PREEMPTION_SAVE saves a group that stands at its
STRAND, keeping of D what the entry names; where the area cannot be reached, the group stays and has a notice. NOTICE_DELIVERY enters the handler for the oldest notice, HCAUSE naming the split that would issue next; LATE_MEM_UNCORRECTABLE raises the late trap with every split resuming where it stood; ADDRESS_BREAKPOINT halts its group before the
first split that stands at an armed address and has not halted there, and no other split is marked by it (R21, R39, R92, R105, R116, R124, R217, R227, R248, R330, R337, R348, R349, R376). The
model's choice in it: the save that cannot reach its area is tried again after the notice (log entry 57). -/
def Obligations.SlotEvents : Prop :=
  (∀ (s : State) (slot : Nat) (rest : List Nat) (g : Group),
    s.freeSlots g.core g.part = slot :: rest → bestReady s (s.readyGroups g.core g.part) = some g → g.deliveries = [] →
    ∃ u g' since, exec (.activation g.core g.part) s = .next u ∧ u.group? g.uid = some g' ∧ g'.place = .active slot since ∧
      tabGetD (s.partAt g.core g.part).freed slot 0 + 4 ≤ since ∧ (∀ sp ∈ g'.bank.splits, sp.notBefore = since) ∧ g'.bank.win = [] ∧
      g'.bank.nst = [] ∧ g'.cols = [] ∧ g'.dfile = g.dfile ∧ SameBytes s u) ∧
  (∀ (s : State) (o : Op) (v : Opnd) (wide : Bool) (g : Group),
    s.op? o.uid = some o → s.opDue o = true → s.group? o.grp = some g →
    (o.job = .uwrite v wide →
      ∃ u g', exec (.fixedResultLands o.uid) s = .next u ∧ u.group? o.grp = some g' ∧ u.op? o.uid = none ∧ SameBytes s u ∧
        (v.lvl = .w → ∀ l < 64, o.lanes.has l = true → ∃ e, (tabGetD g'.bank.win l [])[v.idx.toNat]? = some e ∧ e.done = true ∧
          e.val = if wide then cellGet o.vals l else ofW (w32 (cellGet o.vals l))) ∧
        (v.lvl = .n → ∀ l < 64, o.lanes.has l = true → cellGet g'.bank.nval (laneKey v.nSlot l) = w32 (cellGet o.vals l))) ∧
    (o.job = .uread v wide → s.userWriting g v wide = true → exec (.fixedResultLands o.uid) s = .fault .notEnabled) ∧
    (o.job = .uread v wide → s.userWriting g v wide = false → g.uid = o.grp →
      ∃ u g', exec (.fixedResultLands o.uid) s = .next u ∧ u.group? o.grp = some g' ∧ u.op? o.uid = none ∧ SameBytes s u ∧
        ∀ d, o.dest = some d → d.op.lvl = .d → d.wide = false → o.raced = [] → o.carry = none →
          ∀ l < 64, o.lanes.has l = true → g'.dGet d.op.idx.toNat l = w32 (ureadValue g v wide l))) ∧
  (∀ (s : State) (core asid line : Nat), s.wantedLines.contains (core, asid, line) = true → (s.context? asid).isSome = true →
    s.maintFor (s.placesOf asid (line * 64) .fetch true) = none →
    ∃ u l, exec (.icacheFill core asid line) s = .next u ∧ l ∈ u.icache ∧ l.core = core ∧ l.asid = asid ∧ l.line = line ∧
      (∀ k ∈ u.icache, k.core = core → k.asid = asid → k.line = line → k = l) ∧
      (l.fail = none → ∃ pa, l.words = bytesWords (readBytes u.dram pa 64))) ∧
  (∀ (s : State) (g : Group) (op wake : Nat), s.group? g.uid = some g → g.hold = .sleep op wake →
    (now s < wake → g.request = none → exec (.sleepWake g.uid) s = .fault .notEnabled) ∧
    (wake ≤ now s ∨ g.request.isSome = true →
      ∃ u g', exec (.sleepWake g.uid) s = .next u ∧ u.group? g.uid = some g' ∧ (g'.hold = .free ∨ g'.hold = .drain) ∧ u.op? op = none ∧
        SameBytes s u)) ∧
  (∀ (s : State) (o : Op) (tm q uid : Nat) (h : Word) (g : Group) (m : Team),
    s.op? o.uid = some o → s.opDue o = true → o.job = .push tm q uid h → s.group? o.grp = some g → g.uid = o.grp → s.team? tm = some m →
    ((∃ p ∈ s.ops, p.grp = o.grp ∧ p.uid < o.uid ∧ p.ownScratchStore m = true) → exec (.queueLand o.uid) s = .fault .notEnabled) ∧
    ((∀ p ∈ s.ops, p.grp = o.grp → p.uid < o.uid → p.ownScratchStore m = false) →
      ∃ u, exec (.queueLand o.uid) s = .next u ∧ u.op? o.uid = none ∧
        ((m.queue q).position? uid = none → SameBytes s u) ∧
        (∀ pos, (m.queue q).position? uid = some pos →
          let k := m.ringKey (m.queue q) pos
          (∀ j < 4, cellGet u.scratch (k + j) = h.extractLsb' (8 * j) 8) ∧ (∀ b, b < k ∨ k + 4 ≤ b → cellGet u.scratch b = cellGet s.scratch b) ∧
            (∀ b, cellGet u.dram b = cellGet s.dram b) ∧ ∀ b, cellGet u.pool b = cellGet s.pool b))) ∧
  (∀ (s : State) (grp qn : Nat) (g : Group) (m : Team), s.group? grp = some g → s.retireDue g = some qn → s.team? g.team = some m →
    ∃ u m', exec (.queueRetire grp qn) s = .next u ∧ u.team? g.team = some m' ∧ (m'.queue qn).free = (m.queue qn).free + 1 ∧
      tabGet? (m'.queue qn).held g.idx = none ∧ u.groups = s.groups ∧ SameBytes s u) ∧
  (∀ (s : State) (th : Thread), s.thread? th.uid = some th →
    ((th.words ≠ [] ∨ now s < th.done) → exec (.copyTransferDone th.uid) s = .fault .notEnabled) ∧
    (th.words = [] → th.done ≤ now s →
      ∃ u, exec (.copyTransferDone th.uid) s = .next u ∧ u.thread? th.uid = none ∧
        (∀ key, th.signal = .count key → th.failed = false →
          BitVec.ofNat 32 (readNat u.scratch key 4) = BitVec.ofNat 32 (readNat s.scratch key 4) + 1) ∧
        (∀ op, th.signal = .flag op → u.op? op = none))) ∧
  (∀ (s : State) (g : Group) (p : SavePoint), s.group? g.uid = some g → s.savePoint g = some p → s.saveDue g = true →
    (s.saveRoom g = false → exec (.preemptionSave g.uid) s = .fault .notEnabled) ∧
    (∀ e, s.saveRoom g = true → s.saveAreaBad (s.asidOf g) (s.saveUsed (s.asidOf g)) (s.saveBytes g) .write = some e →
      ∃ u g', exec (.preemptionSave g.uid) s = .next u ∧ u.group? g.uid = some g' ∧ g'.saveBad = true ∧ g'.place = g.place ∧
        g'.request = g.request ∧ g'.dfile = g.dfile ∧ g'.bank = g.bank) ∧
    (s.saveRoom g = true → s.saveAreaBad (s.asidOf g) (s.saveUsed (s.asidOf g)) (s.saveBytes g) .write = none →
      ∃ u g', exec (.preemptionSave g.uid) s = .next u ∧ u.group? g.uid = some g' ∧ g'.place = .saved ∧ g'.request = none ∧
        g'.restored = true ∧ (∀ i e, p = .strand i e → ∀ r, ∀ l < 64, g'.dGet r l = if e.dmask.getLsbD r then g.dGet r l else 0))) ∧
  (∀ (s : State) (g : Group) (d : Delivery) (ds : List Delivery) (slot since : Nat) (pc : DWord),
    s.group? g.uid = some g → g.hand = none → g.place = .active slot since → g.deliveries = d :: ds → d.notice = true →
    g.debug ≠ .halted → (∀ op, g.hold ≠ .op op) → g.unwinding = none → (s.touchTable g d.code).trapEntry g d.code = .handler pc →
    ∃ u g' h, exec (.noticeDelivery g.uid) s = .next u ∧ u.group? g.uid = some g' ∧ g'.hand = some h ∧ h.serves.id = d.id ∧
      h.serves.code = d.code ∧ h.serves.notice = true ∧ (h.bank.splits.map fun sp => (sp.lanes, sp.pc)) = [(g.alive, pc)] ∧
      h.serves.split = (match s.nextSplit g with | some sp => sp.id | none => d.split) ∧ g'.bank = g.bank ∧ KeepsBytes s u) ∧
  (∀ (s : State) (g : Group) (l : Late) (rest : List Late) (slot since : Nat),
    s.group? g.uid = some g → g.hand = none → g.place = .active slot since → (∀ op, g.hold ≠ .op op) → g.unwinding = none → g.late = l :: rest →
    let g' : Group := { g with late := rest }
    exec (.lateMemUncorrectable g.uid) s = .next ((s.setGroup g').raiseTrap g' l.split l.pc 0
      { recs := l.recs, sw := false, resume := .same, cb := l.cb, gather := l.gather })) ∧
  (∀ (s : State) (g : Group) (sp : Split), s.group? g.uid = some g → (s.splitOrder g).find? (s.breakAt g) = some sp →
    s.groupOpen g = true →
    ∃ u g', exec (.addressBreakpoint g.uid) s = .next u ∧ u.group? g.uid = some g' ∧ g'.debug = .halted ∧
      (∀ q ∈ g'.bk.splits, q.id = sp.id → q = { sp with passed := true }) ∧ (∀ q, q.id ≠ sp.id → (q ∈ g'.bk.splits ↔ q ∈ g.bk.splits)) ∧
      g'.dfile = g.dfile ∧ SameBytes s u)

/-! ## Events of memory, waits and tasks -/

/-- The state in which a maintenance action holds one more request, last. -/
def Sys2Proof.Claims.holding (s : State) (m : Maint) (ev : Instr) : State :=
  { s with maint := s.maint.map fun x => if x = m then { m with arrived := m.arrived ++ [ev] } else x }

/-- A request waits for a maintenance action: it is held, once (R386). -/
def Sys2Proof.Claims.Waits (s : State) (m : Maint) (ev : Instr) : Prop :=
  (m.arrived.contains ev = true → exec ev s = .fault .notEnabled) ∧ (m.arrived.contains ev = false → exec ev s = .next (holding s m ev))

/-- The places in device memory that a request of the memory system or of the Tether reaches, and what the request does there (R386). -/
def Sys2Proof.Claims.homeEvent (s : State) : Instr → Option (List Nat × Out)
  | .accessPerform op unit => some (s.requestPlaces op unit, performNow op unit s)
  | .vigilRetry line => some (s.retryPlaces line, vigilNow line s)
  | .transactionWrite x => some (s.windowPlaces x.window.toNat x.off x.len, writeNow x s)
  | .transactionRead x => some (s.windowPlaces x.window.toNat x.off x.len, readNow x s)
  | .transactionAtomic x ty op => some (s.windowPlaces x.window.toNat x.off (atomSize ty), atomicNow x ty op s)
  | .faddFrame f => some (s.windowPlaces f.window.toNat f.extra.toNat 4, faddNow f s)
  | _ => none

/-- The events of the memory system, of waiting and of tasks happen when their condition holds. ACCESS_COMPLETE ends a fence once its release step is met, a range instruction, an answer, WSTAT and REELW. A lease that has run out takes
its copy away; a soft error is counted, or poisons its line or word; MIGRATION gives a block of a page with MIG its new home. A first attempt that is met completes with an acquire step, its group ready; one that a maintenance action holds waits in it; retries go on while their line is marked. A doorbell write waits while it is not due. TBAR_COMPLETION makes the
groups at the barrier ready with an acquire step; PHASE_END takes the team and its groups from the core; SUBMISSION_TAKE moves HEAD by one; TASK_PULL starts a startable task, and AGING raises one level. SQTAIL takes a TAIL that is within the ring and does not go back, else
sets OVER; SQSTAT clears it (R242, R243, R248, R255, R259, R290, R295, R297, R300, R302, R308). -/
def Obligations.MemoryAndTaskEvents : Prop :=
  (∀ (s : State) (o : Op) (g : Group), s.op? o.uid = some o → s.group? o.grp = some g → g.uid = o.grp →
    (∀ sc half, o.job = .fence sc half →
      (s.releaseMet g o.uid sc = false → exec (.accessComplete o.uid) s = .fault .notEnabled) ∧
      (s.releaseMet g o.uid sc = true →
        ∃ u g', exec (.accessComplete o.uid) s = .next u ∧ u.group? o.grp = some g' ∧ u.op? o.uid = none ∧ g'.hold ≠ .op o.uid ∧
          (half = .full → g'.acquire = now s) ∧ SameBytes s u)) ∧
    (∀ r va len, o.job = .range r va len →
      ∃ u, exec (.accessComplete o.uid) s = .next u ∧ u.op? o.uid = none ∧ SameBytes s u ∧
        (r = .icinv → ∀ l ∈ u.icache, l.core = g.core → l.asid = s.asidOf g → l.line < va / 64 ∨ (va + len - 1) / 64 < l.line)) ∧
    (o.job = .answer → s.opDue o = true →
      ∃ u g', exec (.accessComplete o.uid) s = .next u ∧ u.group? o.grp = some g' ∧ u.op? o.uid = none ∧ g'.hold ≠ .op o.uid ∧ SameBytes s u) ∧
    (∀ pa va, o.job = .wstat pa va → s.mayAttempt o pa 8 = true → s.maintFor [pa] = none →
      ∃ u, exec (.accessComplete o.uid) s = .next u ∧ (s.poisoned (.glob pa) 8 = true → u.op? o.uid = none) ∧
        (s.poisoned (.glob pa) 8 = false → (∀ p ∈ s.partials, p.addr / 128 ≠ pa / 128) →
          ∃ p, u.op? o.uid = some p ∧ p.job = .plain ∧ p.due.isSome = true ∧ p.dest = o.dest ∧ p.lanes = o.lanes ∧
            ∀ l < 64, o.lanes.has l = true → cellGet p.vals l = BitVec.ofNat 64 (readNat s.dram pa 8))) ∧
    (∀ core ctx serial, o.job = .reelWait core ctx serial → s.opDue o = true →
      (s.reelOver core ctx serial = false → exec (.accessComplete o.uid) s = .fault .notEnabled) ∧
      (s.reelOver core ctx serial = true → ∃ u, exec (.accessComplete o.uid) s = .next u ∧ u.op? o.uid = none ∧ SameBytes s u)) ∧
    (∀ va pa wide v, o.job = .almanac va pa wide v → s.engineStep o.uid 0 = none → s.mayAttempt o pa (objectBytes o.instr) = true →
      s.maintFor (s.requestPlaces o.uid 0) = none → ∃ u, exec (.accessPerform o.uid 0) s = .next u) ∧
    (∀ t op va pa wide v w, s.team? g.team = some t → o.job = .attempt op va pa wide v 0 → o.wait? t = some w →
      s.mayAttempt o pa op.bytes = true → s.maintFor (s.waitPlaces w) = none →
      (∃ u, exec (.firstAttemptAnswer o.uid) s = .next u) ∧
      (∀ m x time, (s.meterWait t.uid w).tryWait w = .met m x time → m.group? o.grp = some g → m.clkOf g.core = s.clkOf g.core → now m = now s →
        ∃ u g', exec (.firstAttemptAnswer o.uid) s = .next u ∧ u.group? o.grp = some g' ∧ u.op? o.uid = none ∧
          g'.place = .ready (s.clkOf g.core) ∧ g'.acquire = (if op = .chpush then g.acquire else now s) ∧ time ≤ g'.horizon)) ∧
    (∀ t op va pa wide v w m, s.team? g.team = some t → o.job = .attempt op va pa wide v 0 → o.wait? t = some w →
      s.mayAttempt o pa op.bytes = true → s.maintFor (s.waitPlaces w) = some m →
      Waits s m (.firstAttemptAnswer o.uid)) ∧
    (∀ a asid, o.job = .launch a asid → s.maintFor (s.placesOf asid a .read true) = none → ∃ u, exec (.launchAcceptance o.uid) s = .next u ∧ u.op? o.uid = none)) ∧
  (∀ (s : State) (core line : Nat) (c : Copy), (s.copies.find? fun c => c.core == core && c.line == line) = some c →
    (now s < c.expiry → exec (.leaseExpiry core line) s = .fault .notEnabled) ∧
    (c.expiry ≤ now s → ∃ u, exec (.leaseExpiry core line) s = .next u ∧ (∀ k ∈ u.copies, ¬(k.core = core ∧ k.line = line)) ∧ SameBytes s u)) ∧
  (∀ (s : State) (site : ErrorSite),
    (match site with
     | .dramLine l => l < dramSize / 128
     | .scratchWord core w => core < 256 ∧ w < 2 ^ 17
     | .poolWord column w => column < 256 ∧ w < 2 ^ 21) →
    (∃ u, exec (.softError site true) s = .next u ∧ u.corrected = s.corrected + 1 ∧ u.poisonLines = s.poisonLines ∧
      u.poisonWords = s.poisonWords ∧ SameBytes s u) ∧
    (∃ u, exec (.softError site false) s = .next u ∧ SameBytes s u ∧
      (match site with
       | .dramLine l => l ∈ u.poisonLines ∧ u.poisonWords = s.poisonWords
       | .scratchWord core w => core * 2 ^ 17 + w ∈ u.poisonWords ∧ u.poisonLines = s.poisonLines
       | .poolWord column w => poolWords + column * 2 ^ 21 + w ∈ u.poisonWords ∧ u.poisonLines = s.poisonLines))) ∧
  (∀ (s : State) (block column : Nat), s.migratable block = true → column < 256 → s.homeColumn (block * 4096) ≠ column →
    ((s.maintAt column).isSome = true ∨ (s.maintAt (s.homeColumn (block * 4096))).isSome = true →
      exec (.migration block column) s = .fault .notEnabled) ∧
    (s.maintAt column = none → s.maintAt (s.homeColumn (block * 4096)) = none →
      ∃ u, exec (.migration block column) s = .next u ∧ u.homeColumn (block * 4096) = column ∧
        (∀ p ∈ u.partials, p.addr / 4096 ≠ block) ∧ ∀ p ∈ u.pins, p.line / 32 ≠ block)) ∧
  (∀ (s : State) (line : Nat),
    ((∀ w ∈ s.watch, w.1 ≠ line) → exec (.vigilRetry line) s = .fault .notEnabled) ∧
    (s.maintFor (s.retryPlaces line) = none → (∃ w ∈ s.watch, w.1 = line) →
      (∃ u, exec (.vigilRetry line) s = .next u) ∧
      (s.partials = [] → (∀ v ∈ s.vigil, v.pa / 128 ≠ line) →
        ∃ u, exec (.vigilRetry line) s = .next u ∧ (∀ w ∈ u.watch, w.1 ≠ line) ∧ SameBytes s u))) ∧
  (∀ (s : State) (asid cell : Nat) (c : Context), s.context? asid = some c →
    (∀ v, s.vigil.find? (fun v => v.asid == asid && v.addr == cell && v.chunkDue (now s) (c.chdly.toNat * 1000)) = some v →
      s.maintFor (s.waitPlaces v.wait) = none → ∃ u, exec (.channelOverflowDelay asid cell) s = .next u) ∧
    ((∀ v ∈ s.vigil, v.asid = asid → v.addr = cell → now s < v.since + c.chdly.toNat * 1000) →
      exec (.channelOverflowDelay asid cell) s = .fault .notEnabled)) ∧
  (∀ (s : State) (asid : Nat), (∀ o ∈ s.ops, o.chunkRetry = 0) →
    (∀ v, s.vigil.find? (fun v => v.asid == asid && v.retry != 0 && decide (v.retry ≤ now s)) = some v →
      s.maintFor (s.waitPlaces v.wait) = none → ∃ u, exec (.chunkPoolRetry asid) s = .next u) ∧
    ((∀ v ∈ s.vigil, v.asid = asid → v.retry = 0 ∨ now s < v.retry) → exec (.chunkPoolRetry asid) s = .fault .notEnabled)) ∧
  (∀ (s : State) (team : Nat),
    (s.barrierOver team = false → exec (.tbarCompletion team) s = .fault .notEnabled) ∧
    (s.barrierOver team = true →
      ∃ u, exec (.tbarCompletion team) s = .next u ∧ u.teams = s.teams ∧ SameBytes s u ∧
        ∀ uid g, s.group? uid = some g →
          (g.team ≠ team → u.group? uid = some g) ∧
          (∀ n, g.team = team → g.barrier = some (false, n) →
            ∃ g', u.group? uid = some g' ∧ g'.barrier = none ∧ g'.acquire = now s ∧ (g.place = .waiting → g'.place = .ready (s.clkOf g.core))))) ∧
  (∀ (s : State) (team : Nat) (t : Team), s.team? team = some t →
    (s.phaseOver team = false → exec (.phaseEnd team) s = .fault .notEnabled) ∧
    (s.phaseOver team = true → s.maintFor (s.placesOf t.asid t.task .both true) = none →
      ∃ u, exec (.phaseEnd team) s = .next u ∧ (∀ e ∈ u.groups, e.2.team = team → e.2.place = .ended) ∧
        (∀ m, u.team? team = some m → m.released = true) ∧
        ((∀ e ∈ s.groups, e.2.team = team → ∀ o ∈ s.ops, o.grp ≠ e.1) → (∀ h ∈ s.threads, h.team ≠ team) →
          u.team? team = none ∧ ∀ e ∈ u.groups, e.2.team ≠ team))) ∧
  (∀ (s : State) (asid : Nat) (c : Context), s.context? asid = some c → c.asid = asid →
    ((c.sqHead = c.sqTail ∨ c.sqStop = true) → exec (.submissionTake asid) s = .fault .notEnabled) ∧
    (c.sqHead ≠ c.sqTail → c.sqStop = false →
      s.maintFor (s.placesOf asid (c.sqBase + 256 * (c.sqHead.toNat % 2 ^ c.sqLog)) .read true) = none →
      ∃ u c', exec (.submissionTake asid) s = .next u ∧ u.context? asid = some c' ∧ c'.sqHead = c.sqHead + 1 ∧ c'.sqTail = c.sqTail) ∧
    (∀ off v rest, s.doorbells = (asid, off, v, none) :: rest →
      exec (.sqtail asid v) s = .fault .notEnabled ∧ exec (.sqstatOver asid v) s = .fault .notEnabled) ∧
    (∀ tail due rest, s.doorbells = (asid, 0, tail, some due) :: rest → due ≤ now s →
      let used := (tail - c.sqHead).toNat
      let before := (c.sqTail - c.sqHead).toNat
      ∃ u, exec (.sqtail asid tail) s = .next u ∧ u.doorbells = rest ∧
        u.context? asid = some (if c.sqStop = false ∧ used ≤ 2 ^ c.sqLog ∧ before ≤ used then { c with sqTail := tail } else { c with sqOver := true })) ∧
    (∀ v due rest, s.doorbells = (asid, 8, v, some due) :: rest → due ≤ now s →
      ∃ u, exec (.sqstatOver asid v) s = .next u ∧ u.doorbells = rest ∧
        u.context? asid = some { c with sqOver := c.sqOver && !v.getLsbD 0 }) ∧
    (∀ deadline q tears, c.op = .switching deadline q tears →
      (now s < deadline → exec (.contextSwitchDeadline asid) s = .fault .notEnabled) ∧
      (deadline ≤ now s → (∃ e ∈ s.groups, s.asidOf e.2 = asid ∧ (s.teamOf e.2).isSome = true ∧ e.2.place ≠ .ended ∧ e.2.hand.isSome = true) →
        ∃ u, exec (.contextSwitchDeadline asid) s = .next u))) ∧
  (∀ (s : State) (core key : Nat) (stack : Option Nat), s.nextTask core = some (key, stack) → (stack = none ∨ stack = some (core / 32)) →
    (s.startable core (key / 2 ^ 56) (key % 2 ^ 56)).isSome = true →
    s.maintFor (s.placesOf (key / 2 ^ 56) (key % 2 ^ 56) .both true) = none →
    ∃ u uid t, exec (.taskPull core key) s = .next u ∧ u.team? uid = some t ∧ t.core = core ∧
      ∀ e ∈ u.ready, ¬(e.asid = key / 2 ^ 56 ∧ e.task = key % 2 ^ 56)) ∧
  (∀ (s : State) (stack key : Nat) (e : ReadyEntry), (s.ready.find? fun e => e.stack == stack && taskKey e.asid e.task == key) = some e →
    (10 ≤ e.level ∨ now s < e.since + 1000000 → exec (.aging stack key) s = .fault .notEnabled) ∧
    (e.level < 10 → e.since + 1000000 ≤ now s →
      ∃ u before, exec (.aging stack key) s = .next u ∧ u.ready = before ++ [{ e with level := e.level + 1, since := now s }] ∧ SameBytes s u))

/-! ## Events of the device and the host -/

/-- The events of energy, clocks, boot, maintenance and the host link happen when their condition holds. ACCOUNT_TICK moves the tick by 100 us, puts new settings in force, charges each context what its meters are charged and clears them, never lets a balance pass its ceiling, and says over exactly below the
allowance. The limiter changes only the clocks of the cores of its dies, the droop detector and the tracking loop only that of their core. POWER_GOOD takes the boot from stage to stage, waiting in stage 1 while the junction is below 0 degrees, and begins anew after a thermal trip; an
image runs only if it verifies. A maintenance action of a column begins, holds every request of the memory system and of the Tether that reaches its column, and when it ends the requests it has held are performed in the order of their arrival, before anything else. Host WRITEs outside what they may reach are dropped and counted, READs answered with an error; in the management window the
capability list reads, and a TAIL write waits as a doorbell; elsewhere a word is written at its home, where no action holds it (R25, R27, R369 to R371, R378, R379, R383 to R388). The model's choices in it: the rate's tenth is rounded down (log entry 28), a core's clock as a record of its own (log entry 1), what a
cold start keeps (log entry 33), a malformed WRITE is dropped whole (log entry 30), what of a place's energy a meter is charged (log entry 9), and what an action holds (log entry 55). -/
def Obligations.DeviceEvents : Prop :=
  (∀ s : State, s.stopped = false →
    (now s < s.lastTick + 100000 → exec .accountTick s = .fault .notEnabled) ∧
    (s.lastTick + 100000 ≤ now s →
      ∃ u, exec .accountTick s = .next u ∧ u.lastTick = s.lastTick + 100000 ∧ u.meters = [] ∧
        ∀ asid c, s.context? asid = some c →
          ∃ c', u.context? asid = some c' ∧ c'.next = none ∧ (c'.rate, c'.ceil, c'.allow) = c.next.getD (c.rate, c.ceil, c.allow) ∧
            c'.bal ≤ ((c'.ceil.toNat * 1000 : Nat) : Int) ∧ (c'.isOver = true ↔ ((c'.allow.toNat * 1000 : Nat) : Int) < -c'.bal) ∧
            c'.bal = min (c.bal - (s.charges (u.lastTick / 100000) (fun m => m.asid == c.asid) : Int) + ((c'.rate.toNat / 10 : Nat) : Int))
              ((c'.ceil.toNat * 1000 : Nat) : Int) ∧
            ((∀ m ∈ s.meters, m.asid ≠ c.asid) →
              c'.bal = min (c.bal + ((c'.rate.toNat / 10 : Nat) : Int)) ((c'.ceil.toNat * 1000 : Nat) : Int)))) ∧
  (∀ (s : State) (n core : Nat) (dies : BitVec 8), s.stopped = false →
    let one (u : State) (c : Clock) : Prop := u = { s with clocks := u.clocks } ∧ u.clockOf core = c ∧ ∀ k, k ≠ core → u.clockOf k = s.clockOf k
    (∃ u, exec (.currentLimit ⟨dies, n⟩) s = .next u ∧ u = { s with clocks := u.clocks } ∧
      ∀ k, u.clockOf k = if k < 256 ∧ dies.getLsbD (k / 32) = true then { s.clockOf k with stretch := n } else s.clockOf k) ∧
    (core < 256 →
      ∃ u, exec (.droop ⟨core, n⟩) s = .next u ∧ one u { s.clockOf core with edge := (s.clockOf core).edge + n }) ∧
    (256 ≤ core → exec (.droop ⟨core, n⟩) s = .fault .notEnabled) ∧
    (∃ u, exec .thermalTrip s = .next u ∧ u = { s with stopped := true }) ∧
    (core < 256 → 1 ≤ n → n ≤ 3300 → ∃ u, exec (.trackingLoop ⟨core, n⟩) s = .next u ∧ one u { s.clockOf core with mhz := n }) ∧
    (256 ≤ core ∨ n = 0 ∨ 3300 < n → exec (.trackingLoop ⟨core, n⟩) s = .fault .notEnabled)) ∧
  (∀ (s : State) (t : BitVec 8),
    (s.stopped = true → ∃ u, exec (.powerGood t) s = .next u ∧ u.stage = 0 ∧ u.stopped = false ∧ u.groups = [] ∧ u.contexts = [] ∧ u.dram = [] ∧
      u.flash = s.flash ∧ u.grade = s.grade ∧ u.coreMask = s.coreMask) ∧
    (s.stopped = false →
      (s.stage = 0 ∨ s.stage = 1 → ∃ u, exec (.powerGood t) s = .next u ∧ u.tjmin = t ∧ u.stage = if t.toInt < 0 then 1 else 2) ∧
      (s.stage = 2 → ∃ u, exec (.powerGood t) s = .next u ∧ u.stage = 3) ∧
      (s.stage = 3 → ∃ u, exec (.powerGood t) s = .next u ∧
        (Config.imageVerifies s.flash = true → u.stage = 5 ∧ u.fail = false ∧ u.image = s.flash) ∧
        (Config.imageVerifies s.flash = false → u.stage = 4 ∧ u.fail = true ∧ u.image = s.image)) ∧
      (s.stage = 5 → ∃ u, exec (.powerGood t) s = .next u ∧ u.stage = 6) ∧
      (s.stage = 6 → ∃ u, exec (.powerGood t) s = .next u ∧ u.stage = 7) ∧
      (s.stage = 4 ∨ s.stage = 7 → exec (.powerGood t) s = .fault .notEnabled) ∧
      (s.stage ≠ 4 → ∀ image, exec (.hostImageOffer image) s = .fault .notEnabled) ∧
      (s.stage = 4 → ∀ image, ∃ u, exec (.hostImageOffer image) s = .next u ∧
        (Config.imageVerifies image = true → u.stage = 5 ∧ u.fail = false ∧ u.image = image ∧ u.flash = s.flash) ∧
        (Config.imageVerifies image = false → u.stage = 4 ∧ u.fail = true ∧ u.image = s.image)) ∧
      (s.stage = 7 → ∀ column < 256, ∀ repair : Bool,
        let i : Instr := if repair then .busRepair column else .channelRetrain column
        (s.maint = [] → ∃ u m, exec i s = .next u ∧ u = { s with maint := [m] } ∧ m.repair = repair ∧ m.column = column ∧
          m.since = now s ∧ m.arrived = []) ∧
        (∀ m, s.maint = [m] → m.repair = repair → m.column = column →
          exec i s = .next { s with maint := [], agenda := m.arrived ++ s.agenda }) ∧
        (∀ m, s.maint = [m] → m.repair ≠ repair → m.column = column → exec i s = .fault .notEnabled)))) ∧
  (∀ (s : State) (ev : Instr) (places : List Nat) (out : Out), homeEvent s ev = some (places, out) →
    (s.maintFor places = none → exec ev s = out) ∧
    (∀ m u, s.maintFor places = some m → out = .next u → Waits s m ev)) ∧
  (∀ (s : State) (win : BitVec 6) (off : BitVec 48) (ws : List Word), s.stopped = false →
    let dropped : Prop := ∃ u, exec (.hostWrite win off ws) s = .next u ∧ u = { s with hostDropped := s.hostDropped + 1 }
    (off.toNat % 4 ≠ 0 ∨ 64 < ws.length → dropped) ∧
    (s.stage ≠ 7 → s.stage ≠ 4 → dropped) ∧
    (s.stage = 7 → win ≠ 0 → s.windowAddrs win.toNat off.toNat ws.length true = none → dropped) ∧
    (s.stage = 7 → win = 0 → off.toNat < 136 → dropped) ∧
    (s.stage = 7 → ∀ asid c w, asid < 16384 → win = 0 → off.toNat = 0x4000000 + 0x1000 * asid → ws = [w] → s.context? asid = some c →
      ∃ u, exec (.hostWrite win off ws) s = .next u ∧ u = { s with doorbells :=
        s.doorbells ++ [(asid, 0, w, if s.hostHeld then none else some s.hostHorizon)] }) ∧
    (s.stage = 7 → ∀ w pa, win ≠ 0 → ws = [w] → off.toNat % 4 = 0 → s.windowAddrs win.toNat off.toNat 1 true = some [pa] →
      (∀ m, s.hostMaint win.toNat off.toNat 1 [pa] = some m → exec (.hostWrite win off ws) s = .next (holding s m (.hostWrite win off ws))) ∧
      (s.hostMaint win.toNat off.toNat 1 [pa] = none →
      (∀ q ∈ s.partials, q.addr / 128 ≠ pa / 128 ∧ (s.hostWin win.toNat 3).testBit 14 = false) →
      ∃ u, exec (.hostWrite win off ws) s = .next u ∧
        (∀ j < 4, (∀ c, s.capList = some c → pa + j < c ∨ c + 136 ≤ pa + j) → cellGet u.dram (pa + j) = w.extractLsb' (8 * j) 8) ∧
        (∀ c, s.capList = some c → ∀ j < 136, cellGet u.dram (c + j) = cellGet s.dram (c + j)) ∧
        (∀ b, b < pa ∨ pa + 4 ≤ b → cellGet u.dram b = cellGet s.dram b) ∧ u.scratch = s.scratch ∧ u.pool = s.pool))) ∧
  (∀ (s : State) (win : BitVec 6) (off : BitVec 48) (len : BitVec 10) (tag : BitVec 8), s.stopped = false →
    let fails : Prop := ∃ u, exec (.hostRead win off len tag) s = .next u ∧ u = { s with hostOut := s.hostOut ++ [.error tag] }
    (off.toNat % 4 ≠ 0 ∨ 64 < len.toNat → fails) ∧
    (s.stage ≠ 7 → fails) ∧
    (s.stage = 7 → win ≠ 0 → s.windowAddrs win.toNat off.toNat len.toNat false = none → fails) ∧
    (s.stage = 7 → win = 0 → off = 0 → len = 1 →
      ∃ u, exec (.hostRead win off len tag) s = .next u ∧ u = { s with hostOut := s.hostOut ++ [.readData tag [0x43415031]] })) ∧
  (∀ (s : State) (reg : HostReg) (v : Word), s.stopped = false →
    (∃ u, exec (.registerWrite reg v) s = .next u ∧ SameBytes s u) ∧
    (∀ win w, reg = .windowWord win w → 1 ≤ win → win < 64 → w < 4 → s.stage = 7 →
      ∃ u, exec (.registerWrite reg v) s = .next u ∧ cellGet u.hostWins (win * 4 + w) = v ∧
        ∀ k, k ≠ win * 4 + w → cellGet u.hostWins k = cellGet s.hostWins k))

/-! ## The mailboxes -/

/-- The firmware command that an event serves (R375). -/
def Sys2Proof.Claims.firmwareCommand : Instr → Option Nat
  | .ctxCreate => some 1 | .ctxTeardown => some 2 | .ctxSwitch => some 3 | .ctxResume => some 4 | .energySet => some 5 | .capRaise => some 6
  | .shootdown => some 7 | .hash => some 8 | .attest => some 9 | .faultLog => some 10 | .routeSet => some 11 | .routeLock => some 12
  | .migrateAnswer => some 13 | .splitSet => some 14
  | _ => none

/-- The stack and the Lantern command that an event serves (R352). -/
def Sys2Proof.Claims.lanternCommand : Instr → Option (Nat × Nat)
  | .haltCmd k => some (k, 1) | .readCmd k => some (k, 2) | .writeCmd k => some (k, 3) | .stepCmd k => some (k, 4) | .breakCmd k => some (k, 5)
  | .resumeCmd k => some (k, 6) | .splitsCmd k => some (k, 7)
  | _ => none

/-- Bytes of device memory that the capability list does not meet, so that a write changes them (R372). -/
def Sys2Proof.Claims.clearOfCaps (s : State) (pa n : Nat) : Prop := ∀ c, s.capList = some c → pa + n ≤ c ∨ c + 136 ≤ pa

/-- CTX_CREATE: a descriptor that breaks a limit is BAD_ARG. Else a free ASID receives the context that it describes, which is live with HEAD and TAIL 0, empty balance and
nothing of it logged, and every other context stays. Where the task pool cannot be written the answer is BAD_ARG and no context exists (R376). -/
def Sys2Proof.Claims.Creates (s : State) (i : Instr) : Prop :=
  let r := s.fwRequest
  let d : BitVec 2048 := BitVec.ofNat 2048 (leValue (readBytes s.dram (reqArg r 0) 256))
  let bad (u : State) : Prop := u.fwReplies = [fwMessage 1 (reqSeq r) 2 (reqAsid r) 0 0 0] ∧ u.contexts = s.contexts
  (ctxDescOk d = false → ∃ u, exec i s = .next u ∧ bad u) ∧
  (ctxDescOk d = true → ∃ u, exec i s = .next u ∧ (fldN d 320 16 ≠ 0 ∧ bad u ∨
    ∃ asid c, asid < 16384 ∧ s.context? asid = none ∧ u.context? asid = some c ∧ (∀ k, k ≠ asid → u.context? k = s.context? k) ∧
      u.fwReplies = [fwMessage 1 (reqSeq r) 0 asid 0 0 0] ∧ c.asid = asid ∧ c.ptroot.toNat = fldN d 0 28 ∧ c.sqBase = fldN d 64 64 ∧
      c.sqLog = fldN d 128 5 ∧ c.sqHead = 0 ∧ c.sqTail = 0 ∧ c.sqOver = false ∧ c.sqStop = false ∧ c.trapTab.toNat = fldN d 192 56 ∧
      c.taskPool.toNat = fldN d 256 56 ∧ c.taskPN.toNat = fldN d 320 16 ∧ c.taskPS.toNat = fldN d 336 16 ∧ c.vovb.toNat = fldN d 384 56 ∧
      c.chkpb.toNat = fldN d 448 56 ∧ c.chkpn.toNat = fldN d 512 24 ∧ c.chdly.toNat = (if fldN d 536 16 = 0 then 20 else fldN d 536 16) ∧
      c.saveb.toNat = fldN d 576 56 ∧ c.saveSize = fldN d 640 64 ∧ c.winTab = fldN d 704 64 ∧ c.cgTab = fldN d 768 64 ∧
      c.rate.toNat = fldN d 832 32 ∧ c.ceil.toNat = fldN d 864 32 ∧ c.allow.toNat = fldN d 896 32 ∧ c.debug = d.getLsbD 928 ∧ c.bal = 0 ∧
      c.log = [] ∧ c.op = .none))

/-- What CTX_RESUME, CAP_RAISE, SHOOTDOWN, FAULT_LOG and MIGRATE_ANSWER do to a live context that no switch is taking out. A resume queues the recorded tasks again in order, and of a
context that is not switched out does nothing. CAP_RAISE sets the cap of the newest live launch that has the descriptor. After a shootdown no translation or instruction line of the range is cached, and
every other one is. FAULT_LOG moves the oldest records into the buffer and says how many, and whether any was lost. MIGRATE_ANSWER ends the request with its tag: refused with frame 0; otherwise its page is at the
frame, and its MAPREQ completes with what came of it (R240, R340, R375, R377, R382, R392). -/
def Sys2Proof.Claims.Commands (s : State) (i : Instr) (c : Context) : Prop :=
  let r := s.fwRequest
  let a := reqArg r 0
  let b := reqArg r 1
  let code := reqCmd r
  let told (u : State) (status a0 a1 a2 : Nat) : Prop :=
    exec i s = .next u ∧ u.fwReplies = [fwMessage code (reqSeq r) status c.asid (BitVec.ofNat 64 a0) (BitVec.ofNat 64 a1) (BitVec.ofNat 64 a2)]
  (code = 4 → ∃ u, told u 0 0 0 0 ∧
    (c.op = .none → u.ready = s.ready ∧ u.contexts = s.contexts) ∧
    (c.op = .switched → s.saved = [] →
      u.ready = s.ready ++ c.order.map (fun e => { stack := e.1, level := e.2.1, asid := c.asid, task := e.2.2, since := now s }) ∧
      u.context? c.asid = some { c with op := .none, order := [] })) ∧
  (code = 6 →
    let live := (s.launches.map (·.2)).filter fun l => l.asid == c.asid && !l.complete && !l.spawned && l.desc == a
    (live = [] → ∃ u, told u 2 0 0 0) ∧
    (∀ l, live.getLast? = some l → ((2 ^ 32 ≤ b ∨ (b ≠ 0 ∧ b * 1000 < l.used)) → ∃ u, told u 2 0 0 0) ∧
      (b < 2 ^ 32 → b = 0 ∨ l.used ≤ b * 1000 → ∃ u l', told u 0 0 0 0 ∧ u.launch? l.uid = some l' ∧ l'.ecap = b ∧ l'.used = l.used ∧
        (l'.capped = true ↔ b ≠ 0 ∧ b * 1000 ≤ l.used)))) ∧
  (code = 7 → (2 ^ 56 < a + b → ∃ u, told u 2 0 0 0) ∧
    (a + b ≤ 2 ^ 56 → ∃ u, told u 0 0 0 0 ∧
      (∀ t, t ∈ u.tlb ↔ t ∈ s.tlb ∧ ¬(t.asid = c.asid ∧ t.vpage * 2 ^ 16 < a + b ∧ a < t.vpage * 2 ^ 16 + 2 ^ 16)) ∧
      (∀ l, l ∈ u.icache ↔ l ∈ s.icache ∧ ¬(l.asid = c.asid ∧ l.line * 64 < a + b ∧ a < l.line * 64 + 64)))) ∧
  (code = 10 → (2 ^ 16 ≤ b ∨ dramSize < a + 32 * b → ∃ u, told u 2 0 0 0) ∧
    (b < 2 ^ 16 → a + 32 * b ≤ dramSize →
      let n := min b c.log.length
      ∃ u, told u 0 0 n c.lost.toNat ∧ u.context? c.asid = some { c with log := c.log.drop n, lost := false } ∧
        (s.partials = [] → clearOfCaps s a (32 * n) → ∀ k < n, ∀ w < 8,
          readNat u.dram (a + 32 * k + 4 * w) 4 = (((c.log.map FRec.words).getD k []).getD w 0).toNat))) ∧
  (code = 13 →
    (s.migrates.find? (fun m => m.asid == c.asid && m.tag == some a) = none → ∃ u, told u 2 0 0 0) ∧
    (∀ m, s.migrates.find? (fun m => m.asid == c.asid && m.tag == some a) = some m →
      ((b % 2 ^ m.size ≠ 0 ∨ dramSize < b + 2 ^ m.size) → ∃ u, told u 2 0 0 0 ∧ u.migrates = s.migrates) ∧
      (b % 2 ^ m.size = 0 → b + 2 ^ m.size ≤ dramSize → ∃ u, told u 0 0 0 0 ∧ (∀ x ∈ u.migrates, x.op ≠ m.op) ∧
        ∀ o g, s.op? m.op = some o → o.uid = m.op → s.group? o.grp = some g → g.uid = o.grp →
          ∃ g', u.group? o.grp = some g' ∧ u.op? m.op = none ∧ (b = 0 → g'.mapstat = 2) ∧
            (b ≠ 0 → (s.recallWalk c.asid m.va).leafOf c.asid m.va = none → g'.mapstat = 2) ∧
            ∀ pa level e, b ≠ 0 → (s.recallWalk c.asid m.va).leafOf c.asid m.va = some (pa, level, e) →
              (e.getLsbD 0 = true → g'.mapstat = 0) ∧
              (e.getLsbD 0 = false → levelBits level = m.size → leafOk level (validLeaf e b) = true → g'.mapstat = 0 ∧
                (clearOfCaps s pa 8 → readNat u.dram pa 8 = (validLeaf e b).toNat)))))

/-- The mailbox commands are served. While firmware runs, with no reply waiting, it takes a request whose OWN is set, whatever the command: a reserved field that is not zero is BAD_ARG; a command for a context that is not live is NO_CONTEXT; a request that a maintenance action holds waits; every
command has its effect, ROUTE_SET that of the table in memory while the routes are not locked; a context that a switch is taking out answers BUSY, and a CTX_TEARDOWN of it waits for the switch. A split changes once no team is on its cluster; a MAPREQ whose leaf is valid is answered DONE, one that has none DENIED, and one that was posted is served though its group has ended; an event goes into its free slot. Lantern takes a request in the same way: BUSY while another
is being served, NO_TARGET without the group; HALT halts a group that holds its slot, RESUME lets a halted one run, and a READ enters the handler bank of a halted group with HCAUSE.DEBUG 1 (R12, R240, R294, R336, R340, R346, R349 to R353, R367, R373 to R378, R382, R386, R392). The model's choices in it: a command is
answered OK whatever the arguments hold that R375 does not name, and NO_CONTEXT comes before BAD_ARG (log entry 31); the order of Lantern's checks (log entry 32); how long Lantern stays in the handler bank (log entry 53). -/
def Obligations.MailboxCommands : Prop :=
  (∀ (i : Instr) (s : State) (code : Nat), firmwareCommand i = some code → reqCmd s.fwRequest = code →
    let r := s.fwRequest
    let replies (status a0 : Nat) : Prop :=
      ∃ u, exec i s = .next u ∧ u.fwReplies = [fwMessage code (reqSeq r) status (reqAsid r) (BitVec.ofNat 64 a0) 0 0] ∧
        (cellGet u.fwRequest 0).getLsbD 31 = false
    (s.fwReady = false → exec i s = .fault .notEnabled) ∧
    (∀ m, s.fwReady = true → s.maintFor s.fwPlaces = some m → Waits s m i) ∧
    (s.fwReady = true → s.maintFor s.fwPlaces = none →
      (∃ u, exec i s = .next u) ∧
      (reqClean r = false → replies 2 0) ∧
      (reqClean r = true →
        (code ∈ [2, 3, 4, 5, 6, 7, 10, 13] → s.context? (reqAsid r) = none → replies 1 0) ∧
        (code = 8 → replies 0 Config.deviceHash.toNat) ∧
        (code = 11 → s.routeLocked = true → replies 5 0) ∧
        (code = 12 → replies 0 0 ∧ ∃ u, exec i s = .next u ∧ u.routeLocked = true) ∧
        (code = 1 → reqArg r 0 % 256 = 0 → reqArg r 0 + 256 ≤ dramSize → s.cleanRange (reqArg r 0) 256 = true → s.contexts.length < 16384 →
          s.partials = [] → Creates s i) ∧
        (code = 9 → reqArg r 0 + 512 ≤ dramSize → s.partials = [] → clearOfCaps s (reqArg r 0) 512 →
          let n := min Config.reportLength 512
          let nonce : BitVec 256 := BitVec.ofNat 256 (joinUnits 4 ((List.range 8).map fun k => (cellGet r (8 + k)).toNat))
          ∃ u, exec i s = .next u ∧ u.fwReplies = [fwMessage 9 (reqSeq r) 0 (reqAsid r) 0 (BitVec.ofNat 64 n) 0] ∧
            ∀ k < n, cellGet u.dram (reqArg r 0 + k) = Config.reportByte nonce s.grade s.coreMask s.image k) ∧
        (code = 11 → s.routeLocked = false → reqArg r 1 < 1024 → reqArg r 0 + 4096 ≤ dramSize → s.cleanRange (reqArg r 0) 4096 = true →
          s.partials = [] →
          let entry (k : Nat) : Nat := readNat s.dram (reqArg r 0 + 4 * k) 4
          (((∃ k < 1024, 2 ^ 24 ≤ entry k) ∨ entry (reqArg r 1) ≠ 0) →
            replies 2 0 ∧ ∃ u, exec i s = .next u ∧ u.routes = s.routes ∧ u.devid = s.devid) ∧
          ((∀ k < 1024, entry k < 2 ^ 24) → entry (reqArg r 1) = 0 →
            replies 0 0 ∧ ∃ u, exec i s = .next u ∧ u.devid = some (BitVec.ofNat 10 (reqArg r 1)) ∧
              ∀ k < 1024, cellGet u.routes k = BitVec.ofNat 24 (entry k))) ∧
        (code = 14 → reqArg r 0 < 32 → reqArg r 1 ≤ 8 →
          ∃ u, exec i s = .next u ∧ u.splitWanted = s.splitWanted ++ [(reqArg r 0, reqArg r 1, reqSeq r)] ∧ u.fwReplies = []) ∧
        (∀ c d q ts, s.context? (reqAsid r) = some c → c.asid = reqAsid r → c.op = .switching d q ts →
          (code ∈ [3, 4, 5, 6, 7, 10, 13] → replies 3 0) ∧
          (code = 2 → ∃ u, exec i s = .next u ∧ u.fwReplies = [] ∧
            u.context? (reqAsid r) = some { c with sqStop := true, op := .switching d q (ts ++ [reqSeq r]) })) ∧
        (∀ c, s.context? (reqAsid r) = some c → c.asid = reqAsid r → c.op = .none ∨ c.op = .switched → Commands s i c ∧
          (code = 2 → ∃ u, exec i s = .next u ∧ u.context? (reqAsid r) = none) ∧
          (code = 3 → ∃ u c', exec i s = .next u ∧ u.context? (reqAsid r) = some c' ∧
            c'.op = .switching (now s + reqArg r 0) (reqSeq r) [] ∧ ∀ e ∈ u.ready, e.asid ≠ reqAsid r) ∧
          (code = 5 → reqArg r 0 < 2 ^ 32 → reqArg r 1 < 2 ^ 32 → reqArg r 2 < 2 ^ 32 →
            ∃ u, exec i s = .next u ∧ u.context? (reqAsid r) = some { c with
              next := some (BitVec.ofNat 32 (reqArg r 0), BitVec.ofNat 32 (reqArg r 1), BitVec.ofNat 32 (reqArg r 2)) }))))) ∧
  (∀ (s : State) (cluster share seq : Nat), (s.splitWanted.find? fun w => w.1 == cluster) = some (cluster, share, seq) →
    (s.clusterUsed cluster = true → exec (.splitChange cluster) s = .fault .notEnabled) ∧
    (s.clusterUsed cluster = false →
      ∃ u, exec (.splitChange cluster) s = .next u ∧ tabGet? u.splits cluster = some share ∧
        u.fwReplies = s.fwReplies ++ [fwMessage 14 seq 0 0 0 0 0])) ∧
  (∀ (s : State) (o : Op) (g : Group) (va : Nat) (m : Bool), s.op? o.uid = some o → s.group? o.grp = some g → o.job = .mapreq va m false →
    s.mapBehind o.uid (s.asidOf g) va = false → s.maintFor (s.walkPlaces (s.asidOf g) va) = none →
    (∃ u, exec (.mapreqAnswer o.uid) s = .next u) ∧
    (∀ status, ((s.recallWalk (s.asidOf g) va).leafOf (s.asidOf g) va = none ∧ status = 2) ∨
        (∃ a level e, (s.recallWalk (s.asidOf g) va).leafOf (s.asidOf g) va = some (a, level, e) ∧ e.getLsbD 0 = true ∧ status = 0) →
      ∃ u g', exec (.mapreqAnswer o.uid) s = .next u ∧ u.group? o.grp = some g' ∧ g'.mapstat = status ∧ u.op? o.uid = none ∧ KeepsBytes s u)) ∧
  (∀ (s : State) (m : MapReq), s.op? m.op = none → s.posted.find? (fun x => x.op == m.op) = some m → s.mapBehind m.op m.asid m.va = false →
    s.maintFor (s.walkPlaces m.asid m.va) = none →
    ∃ u, exec (.mapreqAnswer m.op) s = .next u ∧ (∀ x ∈ u.posted, x.op ≠ m.op) ∧
      (∀ a level e, (s.recallWalk m.asid m.va).leafOf m.asid m.va = some (a, level, e) → e.getLsbD 0 = false → fieldN e 14 2 = 1 →
        leafOk level (validLeaf e (fieldN e 16 32 * 2 ^ 16)) = true → clearOfCaps s a 8 →
        readNat u.dram a 8 = (validLeaf e (fieldN e 16 32 * 2 ^ 16)).toNat)) ∧
  (∀ (s : State) (w : Word) (ws : List Word) (es : List (List Word)), s.fwEvents = (w :: ws) :: es → s.stage = 7 → s.stopped = false →
    (slotOwned s.fwEvent = true → exec .firmwareEventDeliver s = .fault .notEnabled) ∧
    (slotOwned s.fwEvent = false → ∃ u, exec .firmwareEventDeliver s = .next u ∧ u.fwEvents = es ∧ slotOwned u.fwEvent = true)) ∧
  (∀ (i : Instr) (s : State) (stack code : Nat), lanternCommand i = some (stack, code) →
    let l := s.lanternAt stack
    let r := l.request
    stack < 8 → s.stage = 7 → s.stopped = false → slotOwned r = true → reqCmd r = code → l.replies = [] →
      let replies (status : Nat) : Prop :=
        ∃ u, exec i s = .next u ∧ (u.lanternAt stack).replies = [lanternMessage code (reqSeq r) status (reqTarget r) 0 0 []] ∧
          slotOwned (u.lanternAt stack).request = false
      (∃ u, exec i s = .next u ∧ SameBytes s u) ∧
      (l.waiting.isSome = true → replies 4) ∧
      (l.waiting = none →
        (code ≠ 5 → s.lanternTarget? stack r = none → replies 1) ∧
        (∀ g, s.lanternTarget? stack r = some g →
          (code = 1 → g.slot?.isSome = true → ∃ u g', exec i s = .next u ∧ u.group? g.uid = some g' ∧ g'.debug = .halted ∧ g'.bank = g.bank) ∧
          (code = 6 → g.debug = .halted → replies 0 ∧ ∃ u g', exec i s = .next u ∧ u.group? g.uid = some g' ∧ g'.debug = .run) ∧
          (code ∈ [2, 3, 4, 6] → g.debug ≠ .halted → replies 2) ∧
          (code = 2 → g.debug = .halted → g.hand = none → (s.lanternReads r g).isSome = true →
            ∃ u g' h, exec i s = .next u ∧ u.group? g.uid = some g' ∧ g'.hand = some h ∧ h.serves.debug = true ∧ g'.bank = g.bank ∧
              g'.dfile = g.dfile ∧ (u.lanternAt stack).waiting.isSome = true)))) ∧
  (∀ (s : State) (stack : Nat) (w : Word) (ws : List Word) (es : List (List Word)),
    let l := s.lanternAt stack
    l.events = (w :: ws) :: es → s.stage = 7 → s.stopped = false → l.waiting = none → l.replies = [] →
    (slotOwned l.reply = true → exec (.lanternEvent stack) s = .fault .notEnabled) ∧
    (slotOwned l.reply = false →
      ∃ u, exec (.lanternEvent stack) s = .next u ∧ slotOwned (u.lanternAt stack).reply = true ∧
        (u.lanternAt stack).events = es ++ l.pending.take 1))

/-! ## What arrives on the Tether -/

/-- What arrives on the Tether for this device is acted on; what does not stand in a message for it, or has another kind, is not. PART, RESULT, BLOCK and ABORT frames of no configured group are held. A frame of a reserved kind or version is dropped and counted. FADD and the atomic
transaction answer with the old value, or without one where the target cannot be reached; a write or read of a window that is not VALID is answered with a failure and writes nothing; a failed completion ends its transfer, and leaves memory as it is unless it ends a PUT whose source counter has not been incremented; a RATOM receives its old value, which
lands in its lanes. A failed link's port is used no longer (R354 to R356, R360, R364, R366 to R368, R398). That a FADDR without its payload is a failure, and that a window-table entry which cannot be read counts as not VALID, are the model's choices (log entry
23), as is when after its arrival the old value lands (log entry 4). -/
def Obligations.TetherEvents : Prop :=
  (∀ (s : State) (f : Frame) (i : Instr) (k : Nat), (i, k) ∈ [(Instr.part f, 1), (.result f, 2), (.block f, 3), (.abort f, 4)] →
    (s.takeFrame f = none → exec i s = .fault .notEnabled) ∧
    (∀ t, s.takeFrame f = some t →
      (f.kind.toNat ≠ k ∨ f.ver ≠ 0 → exec i s = .fault .notEnabled) ∧
      (f.kind.toNat = k → f.ver = 0 →
        (∃ u, exec i s = .next u) ∧
        (t.collAsid f.cgroup.toNat = none → ∃ u, exec i s = .next u ∧ u.held = t.held ++ [(heldNowhere, f)] ∧ u.colls = t.colls ∧ SameBytes t u)))) ∧
  (∀ (s t : State) (f : Frame), s.takeFrame f = some t →
    ((f.kind.toNat = 0 ∨ 6 < f.kind.toNat ∨ f.ver ≠ 0) →
      ∃ u, exec (.reservedFrameDrop f) s = .next u ∧ u.dropped = t.dropped + 1 ∧ u.colls = t.colls ∧ SameBytes t u) ∧
    (f.kind = 5 → f.ver = 0 → s.maintFor (s.windowPlaces f.window.toNat f.extra.toNat 4) = none →
      let back (ws : List Word) : TetherMsg :=
        .frame { f with kind := 6, src := f.dst, dst := f.src, nelem := BitVec.ofNat 16 ws.length, payload := ws }
      (t.farAtom f.window f.extra.toNat .f32 .add (ofW (f.payload.headD 0)) 0 = none →
        ∃ u, exec (.faddFrame f) s = .next u ∧ u.tetherOut = t.tetherOut ++ [back []] ∧ SameBytes t u) ∧
      (∀ old v, t.farAtom f.window f.extra.toNat .f32 .add (ofW (f.payload.headD 0)) 0 = some (old, v) →
        ∃ u, exec (.faddFrame f) s = .next u ∧ u.tetherOut = v.tetherOut ++ [back [w32 old]] ∧ SameBytes v u)) ∧
    (f.kind = 6 → f.ver = 0 → ∀ r,
      (t.remotes.find? fun r => r.op % 2 ^ 32 == f.seq.toNat && r.started && r.dev == f.src && (r.kind matches .ratom ..)) = some r →
      ∃ u, exec (.faddr f) s = .next u ∧ (f.payload ≠ [] → u.remote? r.op = none ∧
        ∀ o, t.op? r.op = some o → ∃ p, u.op? r.op = some p ∧ p.due.isSome = true ∧ p.dest = o.dest ∧ p.lanes = o.lanes ∧
          ∀ l < 64, o.lanes.has l = true → cellGet p.vals l = ofW (f.payload.headD 0)))) ∧
  (∀ (s : State) (own : BitVec 10) (x : Xact), s.devid = some own →
    (∀ t, s.takeMsg x.src (.write own x) = some t → s.maintFor (s.windowPlaces x.window.toNat x.off x.len) = none →
      (∃ u, exec (.transactionWrite x) s = .next u) ∧
      ((t.inbound? x true).failed = false → t.windowHere x.window.toNat = none →
        ∃ u, exec (.transactionWrite x) s = .next u ∧
          u.tetherOut = t.tetherOut ++ [.readCompletion x.src { x with words := [], ok := false }] ∧ SameBytes t u)) ∧
    (∀ t, s.takeMsg x.src (.read own x) = some t → s.maintFor (s.windowPlaces x.window.toNat x.off x.len) = none →
      (∃ u, exec (.transactionRead x) s = .next u) ∧
      (t.windowHere x.window.toNat = none →
        ∃ u, exec (.transactionRead x) s = .next u ∧
          u.tetherOut = t.tetherOut ++ [.readCompletion x.src { x with words := [], ok := false }] ∧ SameBytes t u)) ∧
    (∀ t ty op, s.takeMsg x.src (.atomic own x ty op) = some t →
      s.maintFor (s.windowPlaces x.window.toNat x.off (atomSize ty)) = none →
      (∃ u, exec (.transactionAtomic x ty op) s = .next u) ∧
      (t.windowHere x.window.toNat = none →
        ∃ u, exec (.transactionAtomic x ty op) s = .next u ∧
          u.tetherOut = t.tetherOut ++ [.atomicCompletion x.src { x with words := [], ok := false }] ∧ SameBytes t u)) ∧
    (∀ r, s.remote? x.tag = some r → x.src = own →
      (x.ok = false → s.maintFor (s.localPlaces r (x.off - r.roff) x.len ++ s.ownCounter r.asid r.win) = none →
        ∃ u, exec (.transactionReadCompletion x) s = .next u ∧ u.remote? x.tag = none ∧
        ((r.kind = .put → r.counted = true) → SameBytes s u)) ∧
      (x.ok = true → r.kind = .get → s.maintFor (s.localPlaces r (x.off - r.roff) x.len) = none → (∀ i < max 1 x.words.length, x.off - r.roff + 4 * i ∈ r.asked) →
        ∃ u, exec (.transactionReadCompletion x) s = .next u) ∧
      (∀ ty op b cmp, r.kind = .ratom ty op b cmp → r.started = true →
        (∃ u, exec (.transactionAtomicCompletion x) s = .next u) ∧
        (x.ok = true → ∃ u, exec (.transactionAtomicCompletion x) s = .next u ∧ u.remote? x.tag = none ∧
          ∀ o, s.op? r.op = some o → ∃ p, u.op? r.op = some p ∧ p.due.isSome = true ∧ p.dest = o.dest ∧ p.lanes = o.lanes ∧
            ∀ l < 64, o.lanes.has l = true → cellGet p.vals l = operandAt ty x.words 0)))) ∧
  (∀ (s : State) (port : Nat),
    (24 ≤ port → exec (.linkFailure port) s = .fault .notEnabled) ∧
    (port < 24 → ∃ u, exec (.linkFailure port) s = .next u ∧ (cellGet u.deadLinks 0).getLsbD port = true))
end

