-- ==== Sys2Proof/Laws/Tables.lean ====
section
/-! SUPPORT. The laws of the two kinds of table: what a read after a write gives, and that every operation keeps the canonical form. -/

namespace Sys2Proof.Machine

/-! ## Cells: reads after writes -/

@[simp] theorem cellGet_nil {w : Nat} (k : Nat) : cellGet ([] : Cells w) k = 0 := rfl

theorem cellGet_insert {w : Nat} (k : Nat) (v : BitVec w) (m : Cells w) (h : ∀ e ∈ m, e.1 ≠ k) (j : Nat) :
    cellGet (cellInsert k v m) j = if j = k then v else cellGet m j := by
  induction m with
  | nil => simp only [cellInsert, cellGet, eq_comm]
  | cons e m ih =>
    obtain ⟨a, x⟩ := e
    have ha : a ≠ k := h _ (List.mem_cons_self ..)
    have ih := ih fun e he => h e (List.mem_cons_of_mem _ he)
    simp only [cellInsert]
    split
    · simp only [cellGet, eq_comm]
    · simp only [cellGet, ih]
      by_cases hj : a = j
      · subst hj; simp [ha]
      · simp [hj]

/-- A key that a filter keeps reads as before, and one that it drops reads as zero. -/
theorem cellGet_filter {w : Nat} (p : Nat → Bool) (m : Cells w) (j : Nat) :
    cellGet (m.filter fun e => p e.1) j = if p j then cellGet m j else 0 := by
  induction m with
  | nil => simp
  | cons e m ih =>
    obtain ⟨a, x⟩ := e
    by_cases hp : p a
    · rw [List.filter_cons_of_pos (by simpa using hp)]
      simp only [cellGet, ih]
      by_cases hj : a = j
      · subst hj; simp [hp]
      · simp [hj]
    · rw [List.filter_cons_of_neg (by simpa using hp), ih]
      by_cases hj : a = j
      · subst hj; simp [hp]
      · simp [cellGet, hj]

/-- A read after a write. -/
@[simp] theorem cellGet_cellSet {w : Nat} (m : Cells w) (k : Nat) (v : BitVec w) (j : Nat) :
    cellGet (cellSet m k v) j = if j = k then v else cellGet m j := by
  have hf := cellGet_filter (w := w) (fun a => a != k) m j
  unfold cellSet
  split
  · next hv =>
    rw [hf]
    by_cases hj : j = k <;> simp [hj, hv]
  · rw [cellGet_insert _ _ _ (fun e he => by simpa using (List.mem_filter.mp he).2), hf]
    by_cases hj : j = k <;> simp [hj]

theorem cellGet_cellClear {w : Nat} (m : Cells w) (lo n j : Nat) :
    cellGet (cellClear m lo n) j = if lo ≤ j ∧ j < lo + n then 0 else cellGet m j := by
  unfold cellClear
  rw [cellGet_filter (fun a => !(decide (lo ≤ a) && decide (a < lo + n)))]
  by_cases h : lo ≤ j ∧ j < lo + n <;> simp [h]

/-- Keys that are not written read as before. -/
theorem cellGet_cellSets_of_not_mem {w : Nat} (es : List (Nat × BitVec w)) (m : Cells w) (j : Nat) (h : ∀ e ∈ es, e.1 ≠ j) :
    cellGet (cellSets m es) j = cellGet m j := by
  induction es generalizing m with
  | nil => rfl
  | cons e es ih =>
    obtain ⟨k, v⟩ := e
    rw [cellSets, ih _ fun e he => h e (List.mem_cons_of_mem _ he), cellGet_cellSet,
      if_neg fun hj => h _ (List.mem_cons_self ..) hj.symm]

/-! ## Cells: the canonical form -/

/-- The canonical form in words: keys strictly rising, no zero. -/
theorem cellWf_iff {w : Nat} (m : Cells w) : cellWf m = true ↔ m.Pairwise (fun a b => a.1 < b.1) ∧ ∀ e ∈ m, e.2 ≠ 0 := by
  induction m with
  | nil => simp [cellWf]
  | cons e m ih =>
    obtain ⟨a, v⟩ := e
    cases m with
    | nil => simp [cellWf]
    | cons e m =>
      obtain ⟨b, x⟩ := e
      rw [cellWf, Bool.and_eq_true, Bool.and_eq_true, ih, bne_iff_ne, decide_eq_true_eq, List.pairwise_cons (a := (a, v))]
      simp only [List.mem_cons, forall_eq_or_imp]
      constructor
      · rintro ⟨⟨hv, hab⟩, hp, hx, hm⟩
        exact ⟨⟨⟨hab, fun c hc => lt_trans hab (List.rel_of_pairwise_cons hp hc)⟩, hp⟩, hv, hx, hm⟩
      · rintro ⟨⟨⟨hab, -⟩, hp⟩, hv, hx, hm⟩
        exact ⟨⟨hv, hab⟩, hp, hx, hm⟩

theorem cellWf_filter {w : Nat} (p : Nat × BitVec w → Bool) {m : Cells w} (h : cellWf m = true) : cellWf (m.filter p) = true := by
  rw [cellWf_iff] at h ⊢
  exact ⟨h.1.filter _, fun e he => h.2 e (List.mem_of_mem_filter he)⟩

theorem mem_cellInsert {w : Nat} {k : Nat} {v : BitVec w} {m : Cells w} {e : Nat × BitVec w} :
    e ∈ cellInsert k v m ↔ e = (k, v) ∨ e ∈ m := by
  induction m with
  | nil => simp [cellInsert]
  | cons a m ih =>
    obtain ⟨a, x⟩ := a
    simp only [cellInsert]
    split
    · simp
    · simp only [List.mem_cons, ih]; tauto

theorem cellWf_insert {w : Nat} {k : Nat} {v : BitVec w} {m : Cells w} (hv : v ≠ 0) (hk : ∀ e ∈ m, e.1 ≠ k) (h : cellWf m = true) :
    cellWf (cellInsert k v m) = true := by
  rw [cellWf_iff] at h ⊢
  refine ⟨?_, fun e he => (mem_cellInsert.mp he).elim (fun q => by rw [q]; exact hv) (h.2 e)⟩
  obtain ⟨hp, -⟩ := h
  induction m with
  | nil => simp [cellInsert]
  | cons a m ih =>
    obtain ⟨a, x⟩ := a
    have ha : a ≠ k := hk _ (List.mem_cons_self ..)
    rw [List.pairwise_cons] at hp
    simp only [cellInsert]
    split
    · next hlt =>
      rw [List.pairwise_cons, List.pairwise_cons]
      refine ⟨fun e he => ?_, hp⟩
      rcases List.mem_cons.mp he with rfl | he
      · exact hlt
      · exact lt_trans hlt (hp.1 e he)
    · rw [List.pairwise_cons]
      refine ⟨fun e he => ?_, ih (fun e he => hk e (List.mem_cons_of_mem _ he)) hp.2⟩
      rcases mem_cellInsert.mp he with rfl | he
      · change a < k; omega
      · exact hp.1 e he

/-- A write keeps the canonical form. -/
theorem cellWf_cellSet {w : Nat} (k : Nat) (v : BitVec w) {m : Cells w} (h : cellWf m = true) : cellWf (cellSet m k v) = true := by
  unfold cellSet
  split
  · exact cellWf_filter _ h
  · next hv => exact cellWf_insert hv (fun e he => by simpa using (List.mem_filter.mp he).2) (cellWf_filter _ h)

theorem cellWf_cellSets {w : Nat} (es : List (Nat × BitVec w)) {m : Cells w} (h : cellWf m = true) : cellWf (cellSets m es) = true := by
  induction es generalizing m with
  | nil => exact h
  | cons e es ih => exact ih (cellWf_cellSet _ _ h)

theorem cellWf_cellClear {w : Nat} (lo n : Nat) {m : Cells w} (h : cellWf m = true) : cellWf (cellClear m lo n) = true := cellWf_filter _ h

/-- Equal contents are equal data: two cell tables in canonical form that read the same everywhere are the same list. -/
theorem cells_ext {w : Nat} {m n : Cells w} (hm : cellWf m = true) (hn : cellWf n = true) (h : ∀ k, cellGet m k = cellGet n k) : m = n := by
  have get_mem : ∀ {m : Cells w}, cellWf m = true → ∀ {e : Nat × BitVec w}, e ∈ m → cellGet m e.1 = e.2 := by
    intro m hm e he
    rw [cellWf_iff] at hm
    obtain ⟨hp, -⟩ := hm
    induction m with
    | nil => cases he
    | cons a m ih =>
      obtain ⟨a, x⟩ := a
      rw [List.pairwise_cons] at hp
      rcases List.mem_cons.mp he with rfl | hm
      · simp [cellGet]
      · have : a ≠ e.1 := ne_of_lt (hp.1 e hm)
        simp only [cellGet, if_neg this]
        exact ih hm hp.2
  have mem_get : ∀ {m : Cells w} {k : Nat}, cellGet m k ≠ 0 → (k, cellGet m k) ∈ m := by
    intro m k hk
    induction m with
    | nil => exact absurd rfl hk
    | cons a m ih =>
      obtain ⟨a, x⟩ := a
      by_cases ha : a = k
      · subst ha; simp [cellGet]
      · simp only [cellGet, if_neg ha] at hk ⊢
        exact List.mem_cons_of_mem _ (ih hk)
  have sub : ∀ {m n : Cells w}, cellWf m = true → (∀ k, cellGet m k = cellGet n k) → ∀ e ∈ m, e ∈ n := by
    intro m n hm h e he
    have hv := get_mem hm he
    have h0 := ((cellWf_iff m).mp hm).2 e he
    have hmem := mem_get (m := n) (k := e.1) (by rw [← h, hv]; exact h0)
    rwa [← h, hv] at hmem
  have nodup : ∀ {m : Cells w}, cellWf m = true → m.Nodup := fun hm =>
    ((cellWf_iff _).mp hm).1.imp fun hab e => absurd (e ▸ hab) (lt_irrefl _)
  refine List.Perm.eq_of_pairwise (le := fun a b : Nat × BitVec w => a.1 < b.1) (fun a b _ _ ha hb => absurd (lt_trans ha hb) (lt_irrefl _))
    ((cellWf_iff m).mp hm).1 ((cellWf_iff n).mp hn).1 ?_
  exact (List.perm_ext_iff_of_nodup (nodup hm) (nodup hn)).mpr fun e => ⟨sub hm h e, sub hn (fun k => (h k).symm) e⟩

/-! ## Records -/

@[simp] theorem tabGet?_nil {α : Type} (k : Nat) : tabGet? ([] : Tab α) k = none := rfl

theorem tabGet?_insert {α : Type} (k : Nat) (v : α) (t : Tab α) (h : ∀ e ∈ t, e.1 ≠ k) (j : Nat) :
    tabGet? (tabInsert k v t) j = if j = k then some v else tabGet? t j := by
  induction t with
  | nil => simp only [tabInsert, tabGet?, eq_comm]
  | cons e t ih =>
    obtain ⟨a, x⟩ := e
    have ha : a ≠ k := h _ (List.mem_cons_self ..)
    have ih := ih fun e he => h e (List.mem_cons_of_mem _ he)
    simp only [tabInsert]
    split
    · simp only [tabGet?, eq_comm]
    · simp only [tabGet?, ih]
      by_cases hj : a = j
      · subst hj; simp [ha]
      · simp [hj]

@[simp] theorem tabGet?_tabErase {α : Type} (t : Tab α) (k j : Nat) : tabGet? (tabErase t k) j = if j = k then none else tabGet? t j := by
  unfold tabErase
  induction t with
  | nil => simp
  | cons e t ih =>
    obtain ⟨a, x⟩ := e
    by_cases hk : a = k
    · rw [List.filter_cons_of_neg (by simpa using hk), ih]
      by_cases hj : j = k
      · simp [hj]
      · simp [tabGet?, hj, hk, Ne.symm hj]
    · rw [List.filter_cons_of_pos (by simpa using hk)]
      simp only [tabGet?, ih]
      by_cases hj : a = j
      · subst hj; simp [hk]
      · simp [hj]

/-- A read after a record is written. -/
@[simp] theorem tabGet?_tabSet {α : Type} (t : Tab α) (k : Nat) (v : α) (j : Nat) :
    tabGet? (tabSet t k v) j = if j = k then some v else tabGet? t j := by
  unfold tabSet
  rw [tabGet?_insert _ _ _ (fun e he => by simpa [tabErase] using (List.mem_filter.mp he).2), tabGet?_tabErase]
  by_cases hj : j = k <;> simp [hj]

@[simp] theorem tabGet?_tabMod {α : Type} (t : Tab α) (k : Nat) (f : α → α) (j : Nat) :
    tabGet? (tabMod t k f) j = if j = k then (tabGet? t k).map f else tabGet? t j := by
  unfold tabMod
  induction t with
  | nil => simp
  | cons e t ih =>
    obtain ⟨a, x⟩ := e
    by_cases ha : a = k
    · subst ha
      simp only [List.map_cons, if_true, tabGet?, ih]
      by_cases hj : a = j
      · subst hj; simp
      · simp [hj, Ne.symm hj]
    · simp only [List.map_cons, if_neg ha, tabGet?, ih]
      by_cases hj : a = j
      · subst hj; simp [ha]
      · simp [hj]

@[simp] theorem tabGetD_tabSet {α : Type} (t : Tab α) (k : Nat) (v d : α) (j : Nat) :
    tabGetD (tabSet t k v) j d = if j = k then v else tabGetD t j d := by
  unfold tabGetD
  rw [tabGet?_tabSet]
  split <;> rfl

theorem mem_tabInsert {α : Type} {k : Nat} {v : α} {t : Tab α} {e : Nat × α} : e ∈ tabInsert k v t ↔ e = (k, v) ∨ e ∈ t := by
  induction t with
  | nil => simp [tabInsert]
  | cons a t ih =>
    obtain ⟨a, x⟩ := a
    simp only [tabInsert]
    split
    · simp
    · simp only [List.mem_cons, ih]; tauto

theorem mem_tabSet {α : Type} {k : Nat} {v : α} {t : Tab α} {e : Nat × α} : e ∈ tabSet t k v ↔ e = (k, v) ∨ (e ∈ t ∧ e.1 ≠ k) := by
  unfold tabSet tabErase
  rw [mem_tabInsert, List.mem_filter]
  simp

/-- A record that a read finds is listed under its key. -/
theorem mem_of_tabGet? {α : Type} {t : Tab α} {k : Nat} {v : α} (h : tabGet? t k = some v) : (k, v) ∈ t := by
  induction t with
  | nil => cases h
  | cons a t ih =>
    obtain ⟨a, x⟩ := a
    simp only [tabGet?] at h
    split at h
    · next ha => cases h; subst ha; exact List.mem_cons_self ..
    · exact List.mem_cons_of_mem _ (ih h)

/-! ## Bytes -/

@[simp] theorem leBytes_length (v n : Nat) : (leBytes v n).length = n := by
  induction n generalizing v with
  | zero => rfl
  | succ n ih => simp [leBytes, ih]

/-- A write of bytes changes the bytes of its range and no other. -/
theorem cellGet_writeBytes (bs : List Byte) (m : Mem) (a j : Nat) :
    cellGet (writeBytes m a bs) j = if a ≤ j ∧ j < a + bs.length then bs.getD (j - a) 0 else cellGet m j := by
  induction bs generalizing m a with
  | nil => simp [writeBytes]
  | cons b bs ih =>
    simp only [writeBytes, ih, List.length_cons, cellGet_cellSet]
    by_cases hj : j = a
    · subst hj; simp
    · by_cases h : a + 1 ≤ j ∧ j < a + 1 + bs.length
      · have h2 : a ≤ j ∧ j < a + (bs.length + 1) := by omega
        obtain ⟨d, rfl⟩ : ∃ d, j = a + 1 + d := ⟨j - (a + 1), by omega⟩
        rw [if_pos h, if_pos h2, show a + 1 + d - (a + 1) = d by omega, show a + 1 + d - a = d + 1 by omega, List.getD_cons_succ]
      · have h2 : ¬(a ≤ j ∧ j < a + (bs.length + 1)) := by omega
        rw [if_neg h, if_neg h2, if_neg hj]

/-- Bytes outside a write read as before. -/
theorem cellGet_writeNat_of_outside (m : Mem) (a n v j : Nat) (h : j < a ∨ a + n ≤ j) : cellGet (writeNat m a n v) j = cellGet m j := by
  unfold writeNat
  rw [cellGet_writeBytes, leBytes_length, if_neg (by omega)]

theorem readBytes_congr {m m' : Mem} {a n : Nat} (h : ∀ j, a ≤ j → j < a + n → cellGet m j = cellGet m' j) : readBytes m a n = readBytes m' a n := by
  induction n generalizing a with
  | zero => rfl
  | succ n ih =>
    simp only [readBytes]
    rw [h a (Nat.le_refl _) (by omega), ih fun j h1 h2 => h j (by omega) (by omega)]

@[simp] theorem readBytes_length (m : Mem) (a n : Nat) : (readBytes m a n).length = n := by
  induction n generalizing a with
  | zero => rfl
  | succ n ih => simp [readBytes, ih]

theorem readBytes_getD (m : Mem) (a n j : Nat) (h : j < n) : (readBytes m a n).getD j 0 = cellGet m (a + j) := by
  induction n generalizing a j with
  | zero => omega
  | succ n ih =>
    cases j with
    | zero => rfl
    | succ j => rw [readBytes, List.getD_cons_succ, ih _ _ (by omega), Nat.add_right_comm, Nat.add_assoc]

/-- A read of the bytes just written. -/
theorem readBytes_writeBytes (bs : List Byte) (m : Mem) (a : Nat) : readBytes (writeBytes m a bs) a bs.length = bs := by
  induction bs generalizing m a with
  | nil => rfl
  | cons b bs ih =>
    simp only [writeBytes, List.length_cons, readBytes, ih]
    rw [cellGet_writeBytes, if_neg (by omega), cellGet_cellSet, if_pos rfl]

theorem leValue_leBytes (v n : Nat) : leValue (leBytes v n) = v % 256 ^ n := by
  induction n generalizing v with
  | zero => simp [leBytes, leValue, Nat.mod_one]
  | succ n ih => rw [leBytes, leValue, ih, BitVec.toNat_ofNat, Nat.pow_succ' (n := n), Nat.mod_mul (a := 256) (b := 256 ^ n)]

/-- A read after a write to the same place gives the value written, within its width. -/
theorem readNat_writeNat (m : Mem) (a n v : Nat) : readNat (writeNat m a n v) a n = v % 256 ^ n := by
  unfold readNat writeNat
  have h := readBytes_writeBytes (leBytes v n) m a
  rw [leBytes_length] at h
  rw [h, leValue_leBytes]

/-- A read away from a write gives what it gave before. -/
theorem readNat_writeNat_of_disjoint (m : Mem) (a n v b k : Nat) (h : b + k ≤ a ∨ a + n ≤ b) : readNat (writeNat m a n v) b k = readNat m b k := by
  unfold readNat
  rw [readBytes_congr fun j h1 h2 => cellGet_writeNat_of_outside m a n v j (by omega)]

theorem wf_writeBytes (bs : List Byte) {m : Mem} (a : Nat) (h : Memory.wf m = true) : Memory.wf (writeBytes m a bs) = true := by
  induction bs generalizing m a with
  | nil => exact h
  | cons b bs ih => exact ih _ (cellWf_cellSet _ _ h)

theorem wf_writeNat {m : Mem} (a n v : Nat) (h : Memory.wf m = true) : Memory.wf (writeNat m a n v) = true := wf_writeBytes _ _ h

end Sys2Proof.Machine
end

