-- ==== Sys2Proof/Laws/State.lean ====
section
/-! SUPPORT. What each update of State leaves in each of its fields, and what reads give after it. -/

namespace Sys2Proof.Machine

/-! ## setGroup -/

@[simp] theorem State.setGroup_clk (s : State) (g : Group) : (s.setGroup g).clk = s.clk := rfl
@[simp] theorem State.setGroup_time (s : State) (g : Group) : (s.setGroup g).time = s.time := rfl
@[simp] theorem State.setGroup_edge (s : State) (g : Group) : (s.setGroup g).edge = s.edge := rfl
@[simp] theorem State.setGroup_fullLive (s : State) (g : Group) : (s.setGroup g).fullLive = s.fullLive := rfl
@[simp] theorem State.setGroup_clocks (s : State) (g : Group) : (s.setGroup g).clocks = s.clocks := rfl
@[simp] theorem State.setGroup_fresh (s : State) (g : Group) : (s.setGroup g).fresh = s.fresh := rfl
@[simp] theorem State.setGroup_nextId (s : State) (g : Group) : (s.setGroup g).nextId = s.nextId := rfl
@[simp] theorem State.setGroup_cur (s : State) (g : Group) : (s.setGroup g).cur = s.cur := rfl
@[simp] theorem State.setGroup_agenda (s : State) (g : Group) : (s.setGroup g).agenda = s.agenda := rfl
@[simp] theorem State.setGroup_turn (s : State) (g : Group) : (s.setGroup g).turn = s.turn := rfl
@[simp] theorem State.setGroup_picks (s : State) (g : Group) : (s.setGroup g).picks = s.picks := rfl
@[simp] theorem State.setGroup_reelLast (s : State) (g : Group) : (s.setGroup g).reelLast = s.reelLast := rfl
@[simp] theorem State.setGroup_grade (s : State) (g : Group) : (s.setGroup g).grade = s.grade := rfl
@[simp] theorem State.setGroup_coreMask (s : State) (g : Group) : (s.setGroup g).coreMask = s.coreMask := rfl
@[simp] theorem State.setGroup_stage (s : State) (g : Group) : (s.setGroup g).stage = s.stage := rfl
@[simp] theorem State.setGroup_fail (s : State) (g : Group) : (s.setGroup g).fail = s.fail := rfl
@[simp] theorem State.setGroup_tjmin (s : State) (g : Group) : (s.setGroup g).tjmin = s.tjmin := rfl
@[simp] theorem State.setGroup_stopped (s : State) (g : Group) : (s.setGroup g).stopped = s.stopped := rfl
@[simp] theorem State.setGroup_groups (s : State) (g : Group) : (s.setGroup g).groups = tabSet s.groups g.uid g := rfl
@[simp] theorem State.setGroup_teams (s : State) (g : Group) : (s.setGroup g).teams = s.teams := rfl
@[simp] theorem State.setGroup_launches (s : State) (g : Group) : (s.setGroup g).launches = s.launches := rfl
@[simp] theorem State.setGroup_contexts (s : State) (g : Group) : (s.setGroup g).contexts = s.contexts := rfl
@[simp] theorem State.setGroup_parts (s : State) (g : Group) : (s.setGroup g).parts = s.parts := rfl
@[simp] theorem State.setGroup_ops (s : State) (g : Group) : (s.setGroup g).ops = s.ops := rfl
@[simp] theorem State.setGroup_threads (s : State) (g : Group) : (s.setGroup g).threads = s.threads := rfl
@[simp] theorem State.setGroup_reels (s : State) (g : Group) : (s.setGroup g).reels = s.reels := rfl
@[simp] theorem State.setGroup_remotes (s : State) (g : Group) : (s.setGroup g).remotes = s.remotes := rfl
@[simp] theorem State.setGroup_inbound (s : State) (g : Group) : (s.setGroup g).inbound = s.inbound := rfl
@[simp] theorem State.setGroup_colls (s : State) (g : Group) : (s.setGroup g).colls = s.colls := rfl
@[simp] theorem State.setGroup_collSeq (s : State) (g : Group) : (s.setGroup g).collSeq = s.collSeq := rfl
@[simp] theorem State.setGroup_held (s : State) (g : Group) : (s.setGroup g).held = s.held := rfl
@[simp] theorem State.setGroup_ready (s : State) (g : Group) : (s.setGroup g).ready = s.ready := rfl
@[simp] theorem State.setGroup_reservedFor (s : State) (g : Group) : (s.setGroup g).reservedFor = s.reservedFor := rfl
@[simp] theorem State.setGroup_vigil (s : State) (g : Group) : (s.setGroup g).vigil = s.vigil := rfl
@[simp] theorem State.setGroup_saved (s : State) (g : Group) : (s.setGroup g).saved = s.saved := rfl
@[simp] theorem State.setGroup_nextAge (s : State) (g : Group) : (s.setGroup g).nextAge = s.nextAge := rfl
@[simp] theorem State.setGroup_spilled (s : State) (g : Group) : (s.setGroup g).spilled = s.spilled := rfl
@[simp] theorem State.setGroup_watch (s : State) (g : Group) : (s.setGroup g).watch = s.watch := rfl
@[simp] theorem State.setGroup_dram (s : State) (g : Group) : (s.setGroup g).dram = s.dram := rfl
@[simp] theorem State.setGroup_scratch (s : State) (g : Group) : (s.setGroup g).scratch = s.scratch := rfl
@[simp] theorem State.setGroup_pool (s : State) (g : Group) : (s.setGroup g).pool = s.pool := rfl
@[simp] theorem State.setGroup_poisonLines (s : State) (g : Group) : (s.setGroup g).poisonLines = s.poisonLines := rfl
@[simp] theorem State.setGroup_poisonWords (s : State) (g : Group) : (s.setGroup g).poisonWords = s.poisonWords := rfl
@[simp] theorem State.setGroup_corrected (s : State) (g : Group) : (s.setGroup g).corrected = s.corrected := rfl
@[simp] theorem State.setGroup_capList (s : State) (g : Group) : (s.setGroup g).capList = s.capList := rfl
@[simp] theorem State.setGroup_leases (s : State) (g : Group) : (s.setGroup g).leases = s.leases := rfl
@[simp] theorem State.setGroup_homes (s : State) (g : Group) : (s.setGroup g).homes = s.homes := rfl
@[simp] theorem State.setGroup_pins (s : State) (g : Group) : (s.setGroup g).pins = s.pins := rfl
@[simp] theorem State.setGroup_copies (s : State) (g : Group) : (s.setGroup g).copies = s.copies := rfl
@[simp] theorem State.setGroup_partials (s : State) (g : Group) : (s.setGroup g).partials = s.partials := rfl
@[simp] theorem State.setGroup_tlb (s : State) (g : Group) : (s.setGroup g).tlb = s.tlb := rfl
@[simp] theorem State.setGroup_icache (s : State) (g : Group) : (s.setGroup g).icache = s.icache := rfl
@[simp] theorem State.setGroup_splits (s : State) (g : Group) : (s.setGroup g).splits = s.splits := rfl
@[simp] theorem State.setGroup_splitWanted (s : State) (g : Group) : (s.setGroup g).splitWanted = s.splitWanted := rfl
@[simp] theorem State.setGroup_lastTick (s : State) (g : Group) : (s.setGroup g).lastTick = s.lastTick := rfl
@[simp] theorem State.setGroup_meters (s : State) (g : Group) : (s.setGroup g).meters = s.meters := rfl
@[simp] theorem State.setGroup_banks (s : State) (g : Group) : (s.setGroup g).banks = s.banks := rfl
@[simp] theorem State.setGroup_maint (s : State) (g : Group) : (s.setGroup g).maint = s.maint := rfl
@[simp] theorem State.setGroup_breaks (s : State) (g : Group) : (s.setGroup g).breaks = s.breaks := rfl
@[simp] theorem State.setGroup_lantern (s : State) (g : Group) : (s.setGroup g).lantern = s.lantern := rfl
@[simp] theorem State.setGroup_hostWins (s : State) (g : Group) : (s.setGroup g).hostWins = s.hostWins := rfl
@[simp] theorem State.setGroup_hostHorizon (s : State) (g : Group) : (s.setGroup g).hostHorizon = s.hostHorizon := rfl
@[simp] theorem State.setGroup_doorbells (s : State) (g : Group) : (s.setGroup g).doorbells = s.doorbells := rfl
@[simp] theorem State.setGroup_hostWait (s : State) (g : Group) : (s.setGroup g).hostWait = s.hostWait := rfl
@[simp] theorem State.setGroup_fwRequest (s : State) (g : Group) : (s.setGroup g).fwRequest = s.fwRequest := rfl
@[simp] theorem State.setGroup_fwReply (s : State) (g : Group) : (s.setGroup g).fwReply = s.fwReply := rfl
@[simp] theorem State.setGroup_fwEvent (s : State) (g : Group) : (s.setGroup g).fwEvent = s.fwEvent := rfl
@[simp] theorem State.setGroup_fwEvents (s : State) (g : Group) : (s.setGroup g).fwEvents = s.fwEvents := rfl
@[simp] theorem State.setGroup_fwReplies (s : State) (g : Group) : (s.setGroup g).fwReplies = s.fwReplies := rfl
@[simp] theorem State.setGroup_migrates (s : State) (g : Group) : (s.setGroup g).migrates = s.migrates := rfl
@[simp] theorem State.setGroup_posted (s : State) (g : Group) : (s.setGroup g).posted = s.posted := rfl
@[simp] theorem State.setGroup_nextTag (s : State) (g : Group) : (s.setGroup g).nextTag = s.nextTag := rfl
@[simp] theorem State.setGroup_dropped (s : State) (g : Group) : (s.setGroup g).dropped = s.dropped := rfl
@[simp] theorem State.setGroup_hostDropped (s : State) (g : Group) : (s.setGroup g).hostDropped = s.hostDropped := rfl
@[simp] theorem State.setGroup_hostOut (s : State) (g : Group) : (s.setGroup g).hostOut = s.hostOut := rfl
@[simp] theorem State.setGroup_tetherOut (s : State) (g : Group) : (s.setGroup g).tetherOut = s.tetherOut := rfl
@[simp] theorem State.setGroup_routes (s : State) (g : Group) : (s.setGroup g).routes = s.routes := rfl
@[simp] theorem State.setGroup_devid (s : State) (g : Group) : (s.setGroup g).devid = s.devid := rfl
@[simp] theorem State.setGroup_routeLocked (s : State) (g : Group) : (s.setGroup g).routeLocked = s.routeLocked := rfl
@[simp] theorem State.setGroup_deadLinks (s : State) (g : Group) : (s.setGroup g).deadLinks = s.deadLinks := rfl
@[simp] theorem State.setGroup_flash (s : State) (g : Group) : (s.setGroup g).flash = s.flash := rfl
@[simp] theorem State.setGroup_image (s : State) (g : Group) : (s.setGroup g).image = s.image := rfl
@[simp] theorem State.setGroup_offered (s : State) (g : Group) : (s.setGroup g).offered = s.offered := rfl
@[simp] theorem State.setGroup_group? (s : State) (g : Group) (j : Nat) :
    (s.setGroup g).group? j = if j = g.uid then some g else s.group? j := tabGet?_tabSet ..
@[simp] theorem State.setGroup_team? (s : State) (g : Group) (j : Nat) : (s.setGroup g).team? j = s.team? j := rfl
@[simp] theorem State.setGroup_launch? (s : State) (g : Group) (j : Nat) : (s.setGroup g).launch? j = s.launch? j := rfl
@[simp] theorem State.setGroup_context? (s : State) (g : Group) (j : Nat) : (s.setGroup g).context? j = s.context? j := rfl
@[simp] theorem State.setGroup_op? (s : State) (g : Group) (j : Nat) : (s.setGroup g).op? j = s.op? j := rfl

/-! ## setTeam -/

@[simp] theorem State.setTeam_clk (s : State) (t : Team) : (s.setTeam t).clk = s.clk := rfl
@[simp] theorem State.setTeam_time (s : State) (t : Team) : (s.setTeam t).time = s.time := rfl
@[simp] theorem State.setTeam_edge (s : State) (t : Team) : (s.setTeam t).edge = s.edge := rfl
@[simp] theorem State.setTeam_fullLive (s : State) (t : Team) : (s.setTeam t).fullLive = s.fullLive := rfl
@[simp] theorem State.setTeam_clocks (s : State) (t : Team) : (s.setTeam t).clocks = s.clocks := rfl
@[simp] theorem State.setTeam_fresh (s : State) (t : Team) : (s.setTeam t).fresh = s.fresh := rfl
@[simp] theorem State.setTeam_nextId (s : State) (t : Team) : (s.setTeam t).nextId = s.nextId := rfl
@[simp] theorem State.setTeam_cur (s : State) (t : Team) : (s.setTeam t).cur = s.cur := rfl
@[simp] theorem State.setTeam_agenda (s : State) (t : Team) : (s.setTeam t).agenda = s.agenda := rfl
@[simp] theorem State.setTeam_turn (s : State) (t : Team) : (s.setTeam t).turn = s.turn := rfl
@[simp] theorem State.setTeam_picks (s : State) (t : Team) : (s.setTeam t).picks = s.picks := rfl
@[simp] theorem State.setTeam_reelLast (s : State) (t : Team) : (s.setTeam t).reelLast = s.reelLast := rfl
@[simp] theorem State.setTeam_grade (s : State) (t : Team) : (s.setTeam t).grade = s.grade := rfl
@[simp] theorem State.setTeam_coreMask (s : State) (t : Team) : (s.setTeam t).coreMask = s.coreMask := rfl
@[simp] theorem State.setTeam_stage (s : State) (t : Team) : (s.setTeam t).stage = s.stage := rfl
@[simp] theorem State.setTeam_fail (s : State) (t : Team) : (s.setTeam t).fail = s.fail := rfl
@[simp] theorem State.setTeam_tjmin (s : State) (t : Team) : (s.setTeam t).tjmin = s.tjmin := rfl
@[simp] theorem State.setTeam_stopped (s : State) (t : Team) : (s.setTeam t).stopped = s.stopped := rfl
@[simp] theorem State.setTeam_groups (s : State) (t : Team) : (s.setTeam t).groups = s.groups := rfl
@[simp] theorem State.setTeam_teams (s : State) (t : Team) : (s.setTeam t).teams = tabSet s.teams t.uid t := rfl
@[simp] theorem State.setTeam_launches (s : State) (t : Team) : (s.setTeam t).launches = s.launches := rfl
@[simp] theorem State.setTeam_contexts (s : State) (t : Team) : (s.setTeam t).contexts = s.contexts := rfl
@[simp] theorem State.setTeam_parts (s : State) (t : Team) : (s.setTeam t).parts = s.parts := rfl
@[simp] theorem State.setTeam_ops (s : State) (t : Team) : (s.setTeam t).ops = s.ops := rfl
@[simp] theorem State.setTeam_threads (s : State) (t : Team) : (s.setTeam t).threads = s.threads := rfl
@[simp] theorem State.setTeam_reels (s : State) (t : Team) : (s.setTeam t).reels = s.reels := rfl
@[simp] theorem State.setTeam_remotes (s : State) (t : Team) : (s.setTeam t).remotes = s.remotes := rfl
@[simp] theorem State.setTeam_inbound (s : State) (t : Team) : (s.setTeam t).inbound = s.inbound := rfl
@[simp] theorem State.setTeam_colls (s : State) (t : Team) : (s.setTeam t).colls = s.colls := rfl
@[simp] theorem State.setTeam_collSeq (s : State) (t : Team) : (s.setTeam t).collSeq = s.collSeq := rfl
@[simp] theorem State.setTeam_held (s : State) (t : Team) : (s.setTeam t).held = s.held := rfl
@[simp] theorem State.setTeam_ready (s : State) (t : Team) : (s.setTeam t).ready = s.ready := rfl
@[simp] theorem State.setTeam_reservedFor (s : State) (t : Team) : (s.setTeam t).reservedFor = s.reservedFor := rfl
@[simp] theorem State.setTeam_vigil (s : State) (t : Team) : (s.setTeam t).vigil = s.vigil := rfl
@[simp] theorem State.setTeam_saved (s : State) (t : Team) : (s.setTeam t).saved = s.saved := rfl
@[simp] theorem State.setTeam_nextAge (s : State) (t : Team) : (s.setTeam t).nextAge = s.nextAge := rfl
@[simp] theorem State.setTeam_spilled (s : State) (t : Team) : (s.setTeam t).spilled = s.spilled := rfl
@[simp] theorem State.setTeam_watch (s : State) (t : Team) : (s.setTeam t).watch = s.watch := rfl
@[simp] theorem State.setTeam_dram (s : State) (t : Team) : (s.setTeam t).dram = s.dram := rfl
@[simp] theorem State.setTeam_scratch (s : State) (t : Team) : (s.setTeam t).scratch = s.scratch := rfl
@[simp] theorem State.setTeam_pool (s : State) (t : Team) : (s.setTeam t).pool = s.pool := rfl
@[simp] theorem State.setTeam_poisonLines (s : State) (t : Team) : (s.setTeam t).poisonLines = s.poisonLines := rfl
@[simp] theorem State.setTeam_poisonWords (s : State) (t : Team) : (s.setTeam t).poisonWords = s.poisonWords := rfl
@[simp] theorem State.setTeam_corrected (s : State) (t : Team) : (s.setTeam t).corrected = s.corrected := rfl
@[simp] theorem State.setTeam_capList (s : State) (t : Team) : (s.setTeam t).capList = s.capList := rfl
@[simp] theorem State.setTeam_leases (s : State) (t : Team) : (s.setTeam t).leases = s.leases := rfl
@[simp] theorem State.setTeam_homes (s : State) (t : Team) : (s.setTeam t).homes = s.homes := rfl
@[simp] theorem State.setTeam_pins (s : State) (t : Team) : (s.setTeam t).pins = s.pins := rfl
@[simp] theorem State.setTeam_copies (s : State) (t : Team) : (s.setTeam t).copies = s.copies := rfl
@[simp] theorem State.setTeam_partials (s : State) (t : Team) : (s.setTeam t).partials = s.partials := rfl
@[simp] theorem State.setTeam_tlb (s : State) (t : Team) : (s.setTeam t).tlb = s.tlb := rfl
@[simp] theorem State.setTeam_icache (s : State) (t : Team) : (s.setTeam t).icache = s.icache := rfl
@[simp] theorem State.setTeam_splits (s : State) (t : Team) : (s.setTeam t).splits = s.splits := rfl
@[simp] theorem State.setTeam_splitWanted (s : State) (t : Team) : (s.setTeam t).splitWanted = s.splitWanted := rfl
@[simp] theorem State.setTeam_lastTick (s : State) (t : Team) : (s.setTeam t).lastTick = s.lastTick := rfl
@[simp] theorem State.setTeam_meters (s : State) (t : Team) : (s.setTeam t).meters = s.meters := rfl
@[simp] theorem State.setTeam_banks (s : State) (t : Team) : (s.setTeam t).banks = s.banks := rfl
@[simp] theorem State.setTeam_maint (s : State) (t : Team) : (s.setTeam t).maint = s.maint := rfl
@[simp] theorem State.setTeam_breaks (s : State) (t : Team) : (s.setTeam t).breaks = s.breaks := rfl
@[simp] theorem State.setTeam_lantern (s : State) (t : Team) : (s.setTeam t).lantern = s.lantern := rfl
@[simp] theorem State.setTeam_hostWins (s : State) (t : Team) : (s.setTeam t).hostWins = s.hostWins := rfl
@[simp] theorem State.setTeam_hostHorizon (s : State) (t : Team) : (s.setTeam t).hostHorizon = s.hostHorizon := rfl
@[simp] theorem State.setTeam_doorbells (s : State) (t : Team) : (s.setTeam t).doorbells = s.doorbells := rfl
@[simp] theorem State.setTeam_hostWait (s : State) (t : Team) : (s.setTeam t).hostWait = s.hostWait := rfl
@[simp] theorem State.setTeam_fwRequest (s : State) (t : Team) : (s.setTeam t).fwRequest = s.fwRequest := rfl
@[simp] theorem State.setTeam_fwReply (s : State) (t : Team) : (s.setTeam t).fwReply = s.fwReply := rfl
@[simp] theorem State.setTeam_fwEvent (s : State) (t : Team) : (s.setTeam t).fwEvent = s.fwEvent := rfl
@[simp] theorem State.setTeam_fwEvents (s : State) (t : Team) : (s.setTeam t).fwEvents = s.fwEvents := rfl
@[simp] theorem State.setTeam_fwReplies (s : State) (t : Team) : (s.setTeam t).fwReplies = s.fwReplies := rfl
@[simp] theorem State.setTeam_migrates (s : State) (t : Team) : (s.setTeam t).migrates = s.migrates := rfl
@[simp] theorem State.setTeam_posted (s : State) (t : Team) : (s.setTeam t).posted = s.posted := rfl
@[simp] theorem State.setTeam_nextTag (s : State) (t : Team) : (s.setTeam t).nextTag = s.nextTag := rfl
@[simp] theorem State.setTeam_dropped (s : State) (t : Team) : (s.setTeam t).dropped = s.dropped := rfl
@[simp] theorem State.setTeam_hostDropped (s : State) (t : Team) : (s.setTeam t).hostDropped = s.hostDropped := rfl
@[simp] theorem State.setTeam_hostOut (s : State) (t : Team) : (s.setTeam t).hostOut = s.hostOut := rfl
@[simp] theorem State.setTeam_tetherOut (s : State) (t : Team) : (s.setTeam t).tetherOut = s.tetherOut := rfl
@[simp] theorem State.setTeam_routes (s : State) (t : Team) : (s.setTeam t).routes = s.routes := rfl
@[simp] theorem State.setTeam_devid (s : State) (t : Team) : (s.setTeam t).devid = s.devid := rfl
@[simp] theorem State.setTeam_routeLocked (s : State) (t : Team) : (s.setTeam t).routeLocked = s.routeLocked := rfl
@[simp] theorem State.setTeam_deadLinks (s : State) (t : Team) : (s.setTeam t).deadLinks = s.deadLinks := rfl
@[simp] theorem State.setTeam_flash (s : State) (t : Team) : (s.setTeam t).flash = s.flash := rfl
@[simp] theorem State.setTeam_image (s : State) (t : Team) : (s.setTeam t).image = s.image := rfl
@[simp] theorem State.setTeam_offered (s : State) (t : Team) : (s.setTeam t).offered = s.offered := rfl
@[simp] theorem State.setTeam_group? (s : State) (t : Team) (j : Nat) : (s.setTeam t).group? j = s.group? j := rfl
@[simp] theorem State.setTeam_team? (s : State) (t : Team) (j : Nat) :
    (s.setTeam t).team? j = if j = t.uid then some t else s.team? j := tabGet?_tabSet ..
@[simp] theorem State.setTeam_launch? (s : State) (t : Team) (j : Nat) : (s.setTeam t).launch? j = s.launch? j := rfl
@[simp] theorem State.setTeam_context? (s : State) (t : Team) (j : Nat) : (s.setTeam t).context? j = s.context? j := rfl
@[simp] theorem State.setTeam_op? (s : State) (t : Team) (j : Nat) : (s.setTeam t).op? j = s.op? j := rfl

/-! ## setLaunch -/

@[simp] theorem State.setLaunch_clk (s : State) (l : Launch) : (s.setLaunch l).clk = s.clk := rfl
@[simp] theorem State.setLaunch_time (s : State) (l : Launch) : (s.setLaunch l).time = s.time := rfl
@[simp] theorem State.setLaunch_edge (s : State) (l : Launch) : (s.setLaunch l).edge = s.edge := rfl
@[simp] theorem State.setLaunch_fullLive (s : State) (l : Launch) : (s.setLaunch l).fullLive = s.fullLive := rfl
@[simp] theorem State.setLaunch_clocks (s : State) (l : Launch) : (s.setLaunch l).clocks = s.clocks := rfl
@[simp] theorem State.setLaunch_fresh (s : State) (l : Launch) : (s.setLaunch l).fresh = s.fresh := rfl
@[simp] theorem State.setLaunch_nextId (s : State) (l : Launch) : (s.setLaunch l).nextId = s.nextId := rfl
@[simp] theorem State.setLaunch_cur (s : State) (l : Launch) : (s.setLaunch l).cur = s.cur := rfl
@[simp] theorem State.setLaunch_agenda (s : State) (l : Launch) : (s.setLaunch l).agenda = s.agenda := rfl
@[simp] theorem State.setLaunch_turn (s : State) (l : Launch) : (s.setLaunch l).turn = s.turn := rfl
@[simp] theorem State.setLaunch_picks (s : State) (l : Launch) : (s.setLaunch l).picks = s.picks := rfl
@[simp] theorem State.setLaunch_reelLast (s : State) (l : Launch) : (s.setLaunch l).reelLast = s.reelLast := rfl
@[simp] theorem State.setLaunch_grade (s : State) (l : Launch) : (s.setLaunch l).grade = s.grade := rfl
@[simp] theorem State.setLaunch_coreMask (s : State) (l : Launch) : (s.setLaunch l).coreMask = s.coreMask := rfl
@[simp] theorem State.setLaunch_stage (s : State) (l : Launch) : (s.setLaunch l).stage = s.stage := rfl
@[simp] theorem State.setLaunch_fail (s : State) (l : Launch) : (s.setLaunch l).fail = s.fail := rfl
@[simp] theorem State.setLaunch_tjmin (s : State) (l : Launch) : (s.setLaunch l).tjmin = s.tjmin := rfl
@[simp] theorem State.setLaunch_stopped (s : State) (l : Launch) : (s.setLaunch l).stopped = s.stopped := rfl
@[simp] theorem State.setLaunch_groups (s : State) (l : Launch) : (s.setLaunch l).groups = s.groups := rfl
@[simp] theorem State.setLaunch_teams (s : State) (l : Launch) : (s.setLaunch l).teams = s.teams := rfl
@[simp] theorem State.setLaunch_launches (s : State) (l : Launch) : (s.setLaunch l).launches = tabSet s.launches l.uid l := rfl
@[simp] theorem State.setLaunch_contexts (s : State) (l : Launch) : (s.setLaunch l).contexts = s.contexts := rfl
@[simp] theorem State.setLaunch_parts (s : State) (l : Launch) : (s.setLaunch l).parts = s.parts := rfl
@[simp] theorem State.setLaunch_ops (s : State) (l : Launch) : (s.setLaunch l).ops = s.ops := rfl
@[simp] theorem State.setLaunch_threads (s : State) (l : Launch) : (s.setLaunch l).threads = s.threads := rfl
@[simp] theorem State.setLaunch_reels (s : State) (l : Launch) : (s.setLaunch l).reels = s.reels := rfl
@[simp] theorem State.setLaunch_remotes (s : State) (l : Launch) : (s.setLaunch l).remotes = s.remotes := rfl
@[simp] theorem State.setLaunch_inbound (s : State) (l : Launch) : (s.setLaunch l).inbound = s.inbound := rfl
@[simp] theorem State.setLaunch_colls (s : State) (l : Launch) : (s.setLaunch l).colls = s.colls := rfl
@[simp] theorem State.setLaunch_collSeq (s : State) (l : Launch) : (s.setLaunch l).collSeq = s.collSeq := rfl
@[simp] theorem State.setLaunch_held (s : State) (l : Launch) : (s.setLaunch l).held = s.held := rfl
@[simp] theorem State.setLaunch_ready (s : State) (l : Launch) : (s.setLaunch l).ready = s.ready := rfl
@[simp] theorem State.setLaunch_reservedFor (s : State) (l : Launch) : (s.setLaunch l).reservedFor = s.reservedFor := rfl
@[simp] theorem State.setLaunch_vigil (s : State) (l : Launch) : (s.setLaunch l).vigil = s.vigil := rfl
@[simp] theorem State.setLaunch_saved (s : State) (l : Launch) : (s.setLaunch l).saved = s.saved := rfl
@[simp] theorem State.setLaunch_nextAge (s : State) (l : Launch) : (s.setLaunch l).nextAge = s.nextAge := rfl
@[simp] theorem State.setLaunch_spilled (s : State) (l : Launch) : (s.setLaunch l).spilled = s.spilled := rfl
@[simp] theorem State.setLaunch_watch (s : State) (l : Launch) : (s.setLaunch l).watch = s.watch := rfl
@[simp] theorem State.setLaunch_dram (s : State) (l : Launch) : (s.setLaunch l).dram = s.dram := rfl
@[simp] theorem State.setLaunch_scratch (s : State) (l : Launch) : (s.setLaunch l).scratch = s.scratch := rfl
@[simp] theorem State.setLaunch_pool (s : State) (l : Launch) : (s.setLaunch l).pool = s.pool := rfl
@[simp] theorem State.setLaunch_poisonLines (s : State) (l : Launch) : (s.setLaunch l).poisonLines = s.poisonLines := rfl
@[simp] theorem State.setLaunch_poisonWords (s : State) (l : Launch) : (s.setLaunch l).poisonWords = s.poisonWords := rfl
@[simp] theorem State.setLaunch_corrected (s : State) (l : Launch) : (s.setLaunch l).corrected = s.corrected := rfl
@[simp] theorem State.setLaunch_capList (s : State) (l : Launch) : (s.setLaunch l).capList = s.capList := rfl
@[simp] theorem State.setLaunch_leases (s : State) (l : Launch) : (s.setLaunch l).leases = s.leases := rfl
@[simp] theorem State.setLaunch_homes (s : State) (l : Launch) : (s.setLaunch l).homes = s.homes := rfl
@[simp] theorem State.setLaunch_pins (s : State) (l : Launch) : (s.setLaunch l).pins = s.pins := rfl
@[simp] theorem State.setLaunch_copies (s : State) (l : Launch) : (s.setLaunch l).copies = s.copies := rfl
@[simp] theorem State.setLaunch_partials (s : State) (l : Launch) : (s.setLaunch l).partials = s.partials := rfl
@[simp] theorem State.setLaunch_tlb (s : State) (l : Launch) : (s.setLaunch l).tlb = s.tlb := rfl
@[simp] theorem State.setLaunch_icache (s : State) (l : Launch) : (s.setLaunch l).icache = s.icache := rfl
@[simp] theorem State.setLaunch_splits (s : State) (l : Launch) : (s.setLaunch l).splits = s.splits := rfl
@[simp] theorem State.setLaunch_splitWanted (s : State) (l : Launch) : (s.setLaunch l).splitWanted = s.splitWanted := rfl
@[simp] theorem State.setLaunch_lastTick (s : State) (l : Launch) : (s.setLaunch l).lastTick = s.lastTick := rfl
@[simp] theorem State.setLaunch_meters (s : State) (l : Launch) : (s.setLaunch l).meters = s.meters := rfl
@[simp] theorem State.setLaunch_banks (s : State) (l : Launch) : (s.setLaunch l).banks = s.banks := rfl
@[simp] theorem State.setLaunch_maint (s : State) (l : Launch) : (s.setLaunch l).maint = s.maint := rfl
@[simp] theorem State.setLaunch_breaks (s : State) (l : Launch) : (s.setLaunch l).breaks = s.breaks := rfl
@[simp] theorem State.setLaunch_lantern (s : State) (l : Launch) : (s.setLaunch l).lantern = s.lantern := rfl
@[simp] theorem State.setLaunch_hostWins (s : State) (l : Launch) : (s.setLaunch l).hostWins = s.hostWins := rfl
@[simp] theorem State.setLaunch_hostHorizon (s : State) (l : Launch) : (s.setLaunch l).hostHorizon = s.hostHorizon := rfl
@[simp] theorem State.setLaunch_doorbells (s : State) (l : Launch) : (s.setLaunch l).doorbells = s.doorbells := rfl
@[simp] theorem State.setLaunch_hostWait (s : State) (l : Launch) : (s.setLaunch l).hostWait = s.hostWait := rfl
@[simp] theorem State.setLaunch_fwRequest (s : State) (l : Launch) : (s.setLaunch l).fwRequest = s.fwRequest := rfl
@[simp] theorem State.setLaunch_fwReply (s : State) (l : Launch) : (s.setLaunch l).fwReply = s.fwReply := rfl
@[simp] theorem State.setLaunch_fwEvent (s : State) (l : Launch) : (s.setLaunch l).fwEvent = s.fwEvent := rfl
@[simp] theorem State.setLaunch_fwEvents (s : State) (l : Launch) : (s.setLaunch l).fwEvents = s.fwEvents := rfl
@[simp] theorem State.setLaunch_fwReplies (s : State) (l : Launch) : (s.setLaunch l).fwReplies = s.fwReplies := rfl
@[simp] theorem State.setLaunch_migrates (s : State) (l : Launch) : (s.setLaunch l).migrates = s.migrates := rfl
@[simp] theorem State.setLaunch_posted (s : State) (l : Launch) : (s.setLaunch l).posted = s.posted := rfl
@[simp] theorem State.setLaunch_nextTag (s : State) (l : Launch) : (s.setLaunch l).nextTag = s.nextTag := rfl
@[simp] theorem State.setLaunch_dropped (s : State) (l : Launch) : (s.setLaunch l).dropped = s.dropped := rfl
@[simp] theorem State.setLaunch_hostDropped (s : State) (l : Launch) : (s.setLaunch l).hostDropped = s.hostDropped := rfl
@[simp] theorem State.setLaunch_hostOut (s : State) (l : Launch) : (s.setLaunch l).hostOut = s.hostOut := rfl
@[simp] theorem State.setLaunch_tetherOut (s : State) (l : Launch) : (s.setLaunch l).tetherOut = s.tetherOut := rfl
@[simp] theorem State.setLaunch_routes (s : State) (l : Launch) : (s.setLaunch l).routes = s.routes := rfl
@[simp] theorem State.setLaunch_devid (s : State) (l : Launch) : (s.setLaunch l).devid = s.devid := rfl
@[simp] theorem State.setLaunch_routeLocked (s : State) (l : Launch) : (s.setLaunch l).routeLocked = s.routeLocked := rfl
@[simp] theorem State.setLaunch_deadLinks (s : State) (l : Launch) : (s.setLaunch l).deadLinks = s.deadLinks := rfl
@[simp] theorem State.setLaunch_flash (s : State) (l : Launch) : (s.setLaunch l).flash = s.flash := rfl
@[simp] theorem State.setLaunch_image (s : State) (l : Launch) : (s.setLaunch l).image = s.image := rfl
@[simp] theorem State.setLaunch_offered (s : State) (l : Launch) : (s.setLaunch l).offered = s.offered := rfl
@[simp] theorem State.setLaunch_group? (s : State) (l : Launch) (j : Nat) : (s.setLaunch l).group? j = s.group? j := rfl
@[simp] theorem State.setLaunch_team? (s : State) (l : Launch) (j : Nat) : (s.setLaunch l).team? j = s.team? j := rfl
@[simp] theorem State.setLaunch_launch? (s : State) (l : Launch) (j : Nat) :
    (s.setLaunch l).launch? j = if j = l.uid then some l else s.launch? j := tabGet?_tabSet ..
@[simp] theorem State.setLaunch_context? (s : State) (l : Launch) (j : Nat) : (s.setLaunch l).context? j = s.context? j := rfl
@[simp] theorem State.setLaunch_op? (s : State) (l : Launch) (j : Nat) : (s.setLaunch l).op? j = s.op? j := rfl

/-! ## setContext -/

@[simp] theorem State.setContext_clk (s : State) (c : Context) : (s.setContext c).clk = s.clk := rfl
@[simp] theorem State.setContext_time (s : State) (c : Context) : (s.setContext c).time = s.time := rfl
@[simp] theorem State.setContext_edge (s : State) (c : Context) : (s.setContext c).edge = s.edge := rfl
@[simp] theorem State.setContext_fullLive (s : State) (c : Context) : (s.setContext c).fullLive = s.fullLive := rfl
@[simp] theorem State.setContext_clocks (s : State) (c : Context) : (s.setContext c).clocks = s.clocks := rfl
@[simp] theorem State.setContext_fresh (s : State) (c : Context) : (s.setContext c).fresh = s.fresh := rfl
@[simp] theorem State.setContext_nextId (s : State) (c : Context) : (s.setContext c).nextId = s.nextId := rfl
@[simp] theorem State.setContext_cur (s : State) (c : Context) : (s.setContext c).cur = s.cur := rfl
@[simp] theorem State.setContext_agenda (s : State) (c : Context) : (s.setContext c).agenda = s.agenda := rfl
@[simp] theorem State.setContext_turn (s : State) (c : Context) : (s.setContext c).turn = s.turn := rfl
@[simp] theorem State.setContext_picks (s : State) (c : Context) : (s.setContext c).picks = s.picks := rfl
@[simp] theorem State.setContext_reelLast (s : State) (c : Context) : (s.setContext c).reelLast = s.reelLast := rfl
@[simp] theorem State.setContext_grade (s : State) (c : Context) : (s.setContext c).grade = s.grade := rfl
@[simp] theorem State.setContext_coreMask (s : State) (c : Context) : (s.setContext c).coreMask = s.coreMask := rfl
@[simp] theorem State.setContext_stage (s : State) (c : Context) : (s.setContext c).stage = s.stage := rfl
@[simp] theorem State.setContext_fail (s : State) (c : Context) : (s.setContext c).fail = s.fail := rfl
@[simp] theorem State.setContext_tjmin (s : State) (c : Context) : (s.setContext c).tjmin = s.tjmin := rfl
@[simp] theorem State.setContext_stopped (s : State) (c : Context) : (s.setContext c).stopped = s.stopped := rfl
@[simp] theorem State.setContext_groups (s : State) (c : Context) : (s.setContext c).groups = s.groups := rfl
@[simp] theorem State.setContext_teams (s : State) (c : Context) : (s.setContext c).teams = s.teams := rfl
@[simp] theorem State.setContext_launches (s : State) (c : Context) : (s.setContext c).launches = s.launches := rfl
@[simp] theorem State.setContext_contexts (s : State) (c : Context) : (s.setContext c).contexts = tabSet s.contexts c.asid c := rfl
@[simp] theorem State.setContext_parts (s : State) (c : Context) : (s.setContext c).parts = s.parts := rfl
@[simp] theorem State.setContext_ops (s : State) (c : Context) : (s.setContext c).ops = s.ops := rfl
@[simp] theorem State.setContext_threads (s : State) (c : Context) : (s.setContext c).threads = s.threads := rfl
@[simp] theorem State.setContext_reels (s : State) (c : Context) : (s.setContext c).reels = s.reels := rfl
@[simp] theorem State.setContext_remotes (s : State) (c : Context) : (s.setContext c).remotes = s.remotes := rfl
@[simp] theorem State.setContext_inbound (s : State) (c : Context) : (s.setContext c).inbound = s.inbound := rfl
@[simp] theorem State.setContext_colls (s : State) (c : Context) : (s.setContext c).colls = s.colls := rfl
@[simp] theorem State.setContext_collSeq (s : State) (c : Context) : (s.setContext c).collSeq = s.collSeq := rfl
@[simp] theorem State.setContext_held (s : State) (c : Context) : (s.setContext c).held = s.held := rfl
@[simp] theorem State.setContext_ready (s : State) (c : Context) : (s.setContext c).ready = s.ready := rfl
@[simp] theorem State.setContext_reservedFor (s : State) (c : Context) : (s.setContext c).reservedFor = s.reservedFor := rfl
@[simp] theorem State.setContext_vigil (s : State) (c : Context) : (s.setContext c).vigil = s.vigil := rfl
@[simp] theorem State.setContext_saved (s : State) (c : Context) : (s.setContext c).saved = s.saved := rfl
@[simp] theorem State.setContext_nextAge (s : State) (c : Context) : (s.setContext c).nextAge = s.nextAge := rfl
@[simp] theorem State.setContext_spilled (s : State) (c : Context) : (s.setContext c).spilled = s.spilled := rfl
@[simp] theorem State.setContext_watch (s : State) (c : Context) : (s.setContext c).watch = s.watch := rfl
@[simp] theorem State.setContext_dram (s : State) (c : Context) : (s.setContext c).dram = s.dram := rfl
@[simp] theorem State.setContext_scratch (s : State) (c : Context) : (s.setContext c).scratch = s.scratch := rfl
@[simp] theorem State.setContext_pool (s : State) (c : Context) : (s.setContext c).pool = s.pool := rfl
@[simp] theorem State.setContext_poisonLines (s : State) (c : Context) : (s.setContext c).poisonLines = s.poisonLines := rfl
@[simp] theorem State.setContext_poisonWords (s : State) (c : Context) : (s.setContext c).poisonWords = s.poisonWords := rfl
@[simp] theorem State.setContext_corrected (s : State) (c : Context) : (s.setContext c).corrected = s.corrected := rfl
@[simp] theorem State.setContext_capList (s : State) (c : Context) : (s.setContext c).capList = s.capList := rfl
@[simp] theorem State.setContext_leases (s : State) (c : Context) : (s.setContext c).leases = s.leases := rfl
@[simp] theorem State.setContext_homes (s : State) (c : Context) : (s.setContext c).homes = s.homes := rfl
@[simp] theorem State.setContext_pins (s : State) (c : Context) : (s.setContext c).pins = s.pins := rfl
@[simp] theorem State.setContext_copies (s : State) (c : Context) : (s.setContext c).copies = s.copies := rfl
@[simp] theorem State.setContext_partials (s : State) (c : Context) : (s.setContext c).partials = s.partials := rfl
@[simp] theorem State.setContext_tlb (s : State) (c : Context) : (s.setContext c).tlb = s.tlb := rfl
@[simp] theorem State.setContext_icache (s : State) (c : Context) : (s.setContext c).icache = s.icache := rfl
@[simp] theorem State.setContext_splits (s : State) (c : Context) : (s.setContext c).splits = s.splits := rfl
@[simp] theorem State.setContext_splitWanted (s : State) (c : Context) : (s.setContext c).splitWanted = s.splitWanted := rfl
@[simp] theorem State.setContext_lastTick (s : State) (c : Context) : (s.setContext c).lastTick = s.lastTick := rfl
@[simp] theorem State.setContext_meters (s : State) (c : Context) : (s.setContext c).meters = s.meters := rfl
@[simp] theorem State.setContext_banks (s : State) (c : Context) : (s.setContext c).banks = s.banks := rfl
@[simp] theorem State.setContext_maint (s : State) (c : Context) : (s.setContext c).maint = s.maint := rfl
@[simp] theorem State.setContext_breaks (s : State) (c : Context) : (s.setContext c).breaks = s.breaks := rfl
@[simp] theorem State.setContext_lantern (s : State) (c : Context) : (s.setContext c).lantern = s.lantern := rfl
@[simp] theorem State.setContext_hostWins (s : State) (c : Context) : (s.setContext c).hostWins = s.hostWins := rfl
@[simp] theorem State.setContext_hostHorizon (s : State) (c : Context) : (s.setContext c).hostHorizon = s.hostHorizon := rfl
@[simp] theorem State.setContext_doorbells (s : State) (c : Context) : (s.setContext c).doorbells = s.doorbells := rfl
@[simp] theorem State.setContext_hostWait (s : State) (c : Context) : (s.setContext c).hostWait = s.hostWait := rfl
@[simp] theorem State.setContext_fwRequest (s : State) (c : Context) : (s.setContext c).fwRequest = s.fwRequest := rfl
@[simp] theorem State.setContext_fwReply (s : State) (c : Context) : (s.setContext c).fwReply = s.fwReply := rfl
@[simp] theorem State.setContext_fwEvent (s : State) (c : Context) : (s.setContext c).fwEvent = s.fwEvent := rfl
@[simp] theorem State.setContext_fwEvents (s : State) (c : Context) : (s.setContext c).fwEvents = s.fwEvents := rfl
@[simp] theorem State.setContext_fwReplies (s : State) (c : Context) : (s.setContext c).fwReplies = s.fwReplies := rfl
@[simp] theorem State.setContext_migrates (s : State) (c : Context) : (s.setContext c).migrates = s.migrates := rfl
@[simp] theorem State.setContext_posted (s : State) (c : Context) : (s.setContext c).posted = s.posted := rfl
@[simp] theorem State.setContext_nextTag (s : State) (c : Context) : (s.setContext c).nextTag = s.nextTag := rfl
@[simp] theorem State.setContext_dropped (s : State) (c : Context) : (s.setContext c).dropped = s.dropped := rfl
@[simp] theorem State.setContext_hostDropped (s : State) (c : Context) : (s.setContext c).hostDropped = s.hostDropped := rfl
@[simp] theorem State.setContext_hostOut (s : State) (c : Context) : (s.setContext c).hostOut = s.hostOut := rfl
@[simp] theorem State.setContext_tetherOut (s : State) (c : Context) : (s.setContext c).tetherOut = s.tetherOut := rfl
@[simp] theorem State.setContext_routes (s : State) (c : Context) : (s.setContext c).routes = s.routes := rfl
@[simp] theorem State.setContext_devid (s : State) (c : Context) : (s.setContext c).devid = s.devid := rfl
@[simp] theorem State.setContext_routeLocked (s : State) (c : Context) : (s.setContext c).routeLocked = s.routeLocked := rfl
@[simp] theorem State.setContext_deadLinks (s : State) (c : Context) : (s.setContext c).deadLinks = s.deadLinks := rfl
@[simp] theorem State.setContext_flash (s : State) (c : Context) : (s.setContext c).flash = s.flash := rfl
@[simp] theorem State.setContext_image (s : State) (c : Context) : (s.setContext c).image = s.image := rfl
@[simp] theorem State.setContext_offered (s : State) (c : Context) : (s.setContext c).offered = s.offered := rfl
@[simp] theorem State.setContext_group? (s : State) (c : Context) (j : Nat) : (s.setContext c).group? j = s.group? j := rfl
@[simp] theorem State.setContext_team? (s : State) (c : Context) (j : Nat) : (s.setContext c).team? j = s.team? j := rfl
@[simp] theorem State.setContext_launch? (s : State) (c : Context) (j : Nat) : (s.setContext c).launch? j = s.launch? j := rfl
@[simp] theorem State.setContext_context? (s : State) (c : Context) (j : Nat) :
    (s.setContext c).context? j = if j = c.asid then some c else s.context? j := tabGet?_tabSet ..
@[simp] theorem State.setContext_op? (s : State) (c : Context) (j : Nat) : (s.setContext c).op? j = s.op? j := rfl

/-! ## modGroup -/

@[simp] theorem State.modGroup_clk (s : State) (k : Nat) (f : Group → Group) : (s.modGroup k f).clk = s.clk := rfl
@[simp] theorem State.modGroup_time (s : State) (k : Nat) (f : Group → Group) : (s.modGroup k f).time = s.time := rfl
@[simp] theorem State.modGroup_edge (s : State) (k : Nat) (f : Group → Group) : (s.modGroup k f).edge = s.edge := rfl
@[simp] theorem State.modGroup_fullLive (s : State) (k : Nat) (f : Group → Group) : (s.modGroup k f).fullLive = s.fullLive := rfl
@[simp] theorem State.modGroup_clocks (s : State) (k : Nat) (f : Group → Group) : (s.modGroup k f).clocks = s.clocks := rfl
@[simp] theorem State.modGroup_fresh (s : State) (k : Nat) (f : Group → Group) : (s.modGroup k f).fresh = s.fresh := rfl
@[simp] theorem State.modGroup_nextId (s : State) (k : Nat) (f : Group → Group) : (s.modGroup k f).nextId = s.nextId := rfl
@[simp] theorem State.modGroup_cur (s : State) (k : Nat) (f : Group → Group) : (s.modGroup k f).cur = s.cur := rfl
@[simp] theorem State.modGroup_agenda (s : State) (k : Nat) (f : Group → Group) : (s.modGroup k f).agenda = s.agenda := rfl
@[simp] theorem State.modGroup_turn (s : State) (k : Nat) (f : Group → Group) : (s.modGroup k f).turn = s.turn := rfl
@[simp] theorem State.modGroup_picks (s : State) (k : Nat) (f : Group → Group) : (s.modGroup k f).picks = s.picks := rfl
@[simp] theorem State.modGroup_reelLast (s : State) (k : Nat) (f : Group → Group) : (s.modGroup k f).reelLast = s.reelLast := rfl
@[simp] theorem State.modGroup_grade (s : State) (k : Nat) (f : Group → Group) : (s.modGroup k f).grade = s.grade := rfl
@[simp] theorem State.modGroup_coreMask (s : State) (k : Nat) (f : Group → Group) : (s.modGroup k f).coreMask = s.coreMask := rfl
@[simp] theorem State.modGroup_stage (s : State) (k : Nat) (f : Group → Group) : (s.modGroup k f).stage = s.stage := rfl
@[simp] theorem State.modGroup_fail (s : State) (k : Nat) (f : Group → Group) : (s.modGroup k f).fail = s.fail := rfl
@[simp] theorem State.modGroup_tjmin (s : State) (k : Nat) (f : Group → Group) : (s.modGroup k f).tjmin = s.tjmin := rfl
@[simp] theorem State.modGroup_stopped (s : State) (k : Nat) (f : Group → Group) : (s.modGroup k f).stopped = s.stopped := rfl
@[simp] theorem State.modGroup_groups (s : State) (k : Nat) (f : Group → Group) : (s.modGroup k f).groups = tabMod s.groups k f := rfl
@[simp] theorem State.modGroup_teams (s : State) (k : Nat) (f : Group → Group) : (s.modGroup k f).teams = s.teams := rfl
@[simp] theorem State.modGroup_launches (s : State) (k : Nat) (f : Group → Group) : (s.modGroup k f).launches = s.launches := rfl
@[simp] theorem State.modGroup_contexts (s : State) (k : Nat) (f : Group → Group) : (s.modGroup k f).contexts = s.contexts := rfl
@[simp] theorem State.modGroup_parts (s : State) (k : Nat) (f : Group → Group) : (s.modGroup k f).parts = s.parts := rfl
@[simp] theorem State.modGroup_ops (s : State) (k : Nat) (f : Group → Group) : (s.modGroup k f).ops = s.ops := rfl
@[simp] theorem State.modGroup_threads (s : State) (k : Nat) (f : Group → Group) : (s.modGroup k f).threads = s.threads := rfl
@[simp] theorem State.modGroup_reels (s : State) (k : Nat) (f : Group → Group) : (s.modGroup k f).reels = s.reels := rfl
@[simp] theorem State.modGroup_remotes (s : State) (k : Nat) (f : Group → Group) : (s.modGroup k f).remotes = s.remotes := rfl
@[simp] theorem State.modGroup_inbound (s : State) (k : Nat) (f : Group → Group) : (s.modGroup k f).inbound = s.inbound := rfl
@[simp] theorem State.modGroup_colls (s : State) (k : Nat) (f : Group → Group) : (s.modGroup k f).colls = s.colls := rfl
@[simp] theorem State.modGroup_collSeq (s : State) (k : Nat) (f : Group → Group) : (s.modGroup k f).collSeq = s.collSeq := rfl
@[simp] theorem State.modGroup_held (s : State) (k : Nat) (f : Group → Group) : (s.modGroup k f).held = s.held := rfl
@[simp] theorem State.modGroup_ready (s : State) (k : Nat) (f : Group → Group) : (s.modGroup k f).ready = s.ready := rfl
@[simp] theorem State.modGroup_reservedFor (s : State) (k : Nat) (f : Group → Group) : (s.modGroup k f).reservedFor = s.reservedFor := rfl
@[simp] theorem State.modGroup_vigil (s : State) (k : Nat) (f : Group → Group) : (s.modGroup k f).vigil = s.vigil := rfl
@[simp] theorem State.modGroup_saved (s : State) (k : Nat) (f : Group → Group) : (s.modGroup k f).saved = s.saved := rfl
@[simp] theorem State.modGroup_nextAge (s : State) (k : Nat) (f : Group → Group) : (s.modGroup k f).nextAge = s.nextAge := rfl
@[simp] theorem State.modGroup_spilled (s : State) (k : Nat) (f : Group → Group) : (s.modGroup k f).spilled = s.spilled := rfl
@[simp] theorem State.modGroup_watch (s : State) (k : Nat) (f : Group → Group) : (s.modGroup k f).watch = s.watch := rfl
@[simp] theorem State.modGroup_dram (s : State) (k : Nat) (f : Group → Group) : (s.modGroup k f).dram = s.dram := rfl
@[simp] theorem State.modGroup_scratch (s : State) (k : Nat) (f : Group → Group) : (s.modGroup k f).scratch = s.scratch := rfl
@[simp] theorem State.modGroup_pool (s : State) (k : Nat) (f : Group → Group) : (s.modGroup k f).pool = s.pool := rfl
@[simp] theorem State.modGroup_poisonLines (s : State) (k : Nat) (f : Group → Group) : (s.modGroup k f).poisonLines = s.poisonLines := rfl
@[simp] theorem State.modGroup_poisonWords (s : State) (k : Nat) (f : Group → Group) : (s.modGroup k f).poisonWords = s.poisonWords := rfl
@[simp] theorem State.modGroup_corrected (s : State) (k : Nat) (f : Group → Group) : (s.modGroup k f).corrected = s.corrected := rfl
@[simp] theorem State.modGroup_capList (s : State) (k : Nat) (f : Group → Group) : (s.modGroup k f).capList = s.capList := rfl
@[simp] theorem State.modGroup_leases (s : State) (k : Nat) (f : Group → Group) : (s.modGroup k f).leases = s.leases := rfl
@[simp] theorem State.modGroup_homes (s : State) (k : Nat) (f : Group → Group) : (s.modGroup k f).homes = s.homes := rfl
@[simp] theorem State.modGroup_pins (s : State) (k : Nat) (f : Group → Group) : (s.modGroup k f).pins = s.pins := rfl
@[simp] theorem State.modGroup_copies (s : State) (k : Nat) (f : Group → Group) : (s.modGroup k f).copies = s.copies := rfl
@[simp] theorem State.modGroup_partials (s : State) (k : Nat) (f : Group → Group) : (s.modGroup k f).partials = s.partials := rfl
@[simp] theorem State.modGroup_tlb (s : State) (k : Nat) (f : Group → Group) : (s.modGroup k f).tlb = s.tlb := rfl
@[simp] theorem State.modGroup_icache (s : State) (k : Nat) (f : Group → Group) : (s.modGroup k f).icache = s.icache := rfl
@[simp] theorem State.modGroup_splits (s : State) (k : Nat) (f : Group → Group) : (s.modGroup k f).splits = s.splits := rfl
@[simp] theorem State.modGroup_splitWanted (s : State) (k : Nat) (f : Group → Group) : (s.modGroup k f).splitWanted = s.splitWanted := rfl
@[simp] theorem State.modGroup_lastTick (s : State) (k : Nat) (f : Group → Group) : (s.modGroup k f).lastTick = s.lastTick := rfl
@[simp] theorem State.modGroup_meters (s : State) (k : Nat) (f : Group → Group) : (s.modGroup k f).meters = s.meters := rfl
@[simp] theorem State.modGroup_banks (s : State) (k : Nat) (f : Group → Group) : (s.modGroup k f).banks = s.banks := rfl
@[simp] theorem State.modGroup_maint (s : State) (k : Nat) (f : Group → Group) : (s.modGroup k f).maint = s.maint := rfl
@[simp] theorem State.modGroup_breaks (s : State) (k : Nat) (f : Group → Group) : (s.modGroup k f).breaks = s.breaks := rfl
@[simp] theorem State.modGroup_lantern (s : State) (k : Nat) (f : Group → Group) : (s.modGroup k f).lantern = s.lantern := rfl
@[simp] theorem State.modGroup_hostWins (s : State) (k : Nat) (f : Group → Group) : (s.modGroup k f).hostWins = s.hostWins := rfl
@[simp] theorem State.modGroup_hostHorizon (s : State) (k : Nat) (f : Group → Group) : (s.modGroup k f).hostHorizon = s.hostHorizon := rfl
@[simp] theorem State.modGroup_doorbells (s : State) (k : Nat) (f : Group → Group) : (s.modGroup k f).doorbells = s.doorbells := rfl
@[simp] theorem State.modGroup_hostWait (s : State) (k : Nat) (f : Group → Group) : (s.modGroup k f).hostWait = s.hostWait := rfl
@[simp] theorem State.modGroup_fwRequest (s : State) (k : Nat) (f : Group → Group) : (s.modGroup k f).fwRequest = s.fwRequest := rfl
@[simp] theorem State.modGroup_fwReply (s : State) (k : Nat) (f : Group → Group) : (s.modGroup k f).fwReply = s.fwReply := rfl
@[simp] theorem State.modGroup_fwEvent (s : State) (k : Nat) (f : Group → Group) : (s.modGroup k f).fwEvent = s.fwEvent := rfl
@[simp] theorem State.modGroup_fwEvents (s : State) (k : Nat) (f : Group → Group) : (s.modGroup k f).fwEvents = s.fwEvents := rfl
@[simp] theorem State.modGroup_fwReplies (s : State) (k : Nat) (f : Group → Group) : (s.modGroup k f).fwReplies = s.fwReplies := rfl
@[simp] theorem State.modGroup_migrates (s : State) (k : Nat) (f : Group → Group) : (s.modGroup k f).migrates = s.migrates := rfl
@[simp] theorem State.modGroup_posted (s : State) (k : Nat) (f : Group → Group) : (s.modGroup k f).posted = s.posted := rfl
@[simp] theorem State.modGroup_nextTag (s : State) (k : Nat) (f : Group → Group) : (s.modGroup k f).nextTag = s.nextTag := rfl
@[simp] theorem State.modGroup_dropped (s : State) (k : Nat) (f : Group → Group) : (s.modGroup k f).dropped = s.dropped := rfl
@[simp] theorem State.modGroup_hostDropped (s : State) (k : Nat) (f : Group → Group) : (s.modGroup k f).hostDropped = s.hostDropped := rfl
@[simp] theorem State.modGroup_hostOut (s : State) (k : Nat) (f : Group → Group) : (s.modGroup k f).hostOut = s.hostOut := rfl
@[simp] theorem State.modGroup_tetherOut (s : State) (k : Nat) (f : Group → Group) : (s.modGroup k f).tetherOut = s.tetherOut := rfl
@[simp] theorem State.modGroup_routes (s : State) (k : Nat) (f : Group → Group) : (s.modGroup k f).routes = s.routes := rfl
@[simp] theorem State.modGroup_devid (s : State) (k : Nat) (f : Group → Group) : (s.modGroup k f).devid = s.devid := rfl
@[simp] theorem State.modGroup_routeLocked (s : State) (k : Nat) (f : Group → Group) : (s.modGroup k f).routeLocked = s.routeLocked := rfl
@[simp] theorem State.modGroup_deadLinks (s : State) (k : Nat) (f : Group → Group) : (s.modGroup k f).deadLinks = s.deadLinks := rfl
@[simp] theorem State.modGroup_flash (s : State) (k : Nat) (f : Group → Group) : (s.modGroup k f).flash = s.flash := rfl
@[simp] theorem State.modGroup_image (s : State) (k : Nat) (f : Group → Group) : (s.modGroup k f).image = s.image := rfl
@[simp] theorem State.modGroup_offered (s : State) (k : Nat) (f : Group → Group) : (s.modGroup k f).offered = s.offered := rfl
@[simp] theorem State.modGroup_group? (s : State) (k : Nat) (f : Group → Group) (j : Nat) :
    (s.modGroup k f).group? j = if j = k then (s.group? k).map f else s.group? j := tabGet?_tabMod ..
@[simp] theorem State.modGroup_team? (s : State) (k : Nat) (f : Group → Group) (j : Nat) : (s.modGroup k f).team? j = s.team? j := rfl
@[simp] theorem State.modGroup_launch? (s : State) (k : Nat) (f : Group → Group) (j : Nat) : (s.modGroup k f).launch? j = s.launch? j := rfl
@[simp] theorem State.modGroup_context? (s : State) (k : Nat) (f : Group → Group) (j : Nat) : (s.modGroup k f).context? j = s.context? j := rfl
@[simp] theorem State.modGroup_op? (s : State) (k : Nat) (f : Group → Group) (j : Nat) : (s.modGroup k f).op? j = s.op? j := rfl

/-! ## modTeam -/

@[simp] theorem State.modTeam_clk (s : State) (k : Nat) (f : Team → Team) : (s.modTeam k f).clk = s.clk := rfl
@[simp] theorem State.modTeam_time (s : State) (k : Nat) (f : Team → Team) : (s.modTeam k f).time = s.time := rfl
@[simp] theorem State.modTeam_edge (s : State) (k : Nat) (f : Team → Team) : (s.modTeam k f).edge = s.edge := rfl
@[simp] theorem State.modTeam_fullLive (s : State) (k : Nat) (f : Team → Team) : (s.modTeam k f).fullLive = s.fullLive := rfl
@[simp] theorem State.modTeam_clocks (s : State) (k : Nat) (f : Team → Team) : (s.modTeam k f).clocks = s.clocks := rfl
@[simp] theorem State.modTeam_fresh (s : State) (k : Nat) (f : Team → Team) : (s.modTeam k f).fresh = s.fresh := rfl
@[simp] theorem State.modTeam_nextId (s : State) (k : Nat) (f : Team → Team) : (s.modTeam k f).nextId = s.nextId := rfl
@[simp] theorem State.modTeam_cur (s : State) (k : Nat) (f : Team → Team) : (s.modTeam k f).cur = s.cur := rfl
@[simp] theorem State.modTeam_agenda (s : State) (k : Nat) (f : Team → Team) : (s.modTeam k f).agenda = s.agenda := rfl
@[simp] theorem State.modTeam_turn (s : State) (k : Nat) (f : Team → Team) : (s.modTeam k f).turn = s.turn := rfl
@[simp] theorem State.modTeam_picks (s : State) (k : Nat) (f : Team → Team) : (s.modTeam k f).picks = s.picks := rfl
@[simp] theorem State.modTeam_reelLast (s : State) (k : Nat) (f : Team → Team) : (s.modTeam k f).reelLast = s.reelLast := rfl
@[simp] theorem State.modTeam_grade (s : State) (k : Nat) (f : Team → Team) : (s.modTeam k f).grade = s.grade := rfl
@[simp] theorem State.modTeam_coreMask (s : State) (k : Nat) (f : Team → Team) : (s.modTeam k f).coreMask = s.coreMask := rfl
@[simp] theorem State.modTeam_stage (s : State) (k : Nat) (f : Team → Team) : (s.modTeam k f).stage = s.stage := rfl
@[simp] theorem State.modTeam_fail (s : State) (k : Nat) (f : Team → Team) : (s.modTeam k f).fail = s.fail := rfl
@[simp] theorem State.modTeam_tjmin (s : State) (k : Nat) (f : Team → Team) : (s.modTeam k f).tjmin = s.tjmin := rfl
@[simp] theorem State.modTeam_stopped (s : State) (k : Nat) (f : Team → Team) : (s.modTeam k f).stopped = s.stopped := rfl
@[simp] theorem State.modTeam_groups (s : State) (k : Nat) (f : Team → Team) : (s.modTeam k f).groups = s.groups := rfl
@[simp] theorem State.modTeam_teams (s : State) (k : Nat) (f : Team → Team) : (s.modTeam k f).teams = tabMod s.teams k f := rfl
@[simp] theorem State.modTeam_launches (s : State) (k : Nat) (f : Team → Team) : (s.modTeam k f).launches = s.launches := rfl
@[simp] theorem State.modTeam_contexts (s : State) (k : Nat) (f : Team → Team) : (s.modTeam k f).contexts = s.contexts := rfl
@[simp] theorem State.modTeam_parts (s : State) (k : Nat) (f : Team → Team) : (s.modTeam k f).parts = s.parts := rfl
@[simp] theorem State.modTeam_ops (s : State) (k : Nat) (f : Team → Team) : (s.modTeam k f).ops = s.ops := rfl
@[simp] theorem State.modTeam_threads (s : State) (k : Nat) (f : Team → Team) : (s.modTeam k f).threads = s.threads := rfl
@[simp] theorem State.modTeam_reels (s : State) (k : Nat) (f : Team → Team) : (s.modTeam k f).reels = s.reels := rfl
@[simp] theorem State.modTeam_remotes (s : State) (k : Nat) (f : Team → Team) : (s.modTeam k f).remotes = s.remotes := rfl
@[simp] theorem State.modTeam_inbound (s : State) (k : Nat) (f : Team → Team) : (s.modTeam k f).inbound = s.inbound := rfl
@[simp] theorem State.modTeam_colls (s : State) (k : Nat) (f : Team → Team) : (s.modTeam k f).colls = s.colls := rfl
@[simp] theorem State.modTeam_collSeq (s : State) (k : Nat) (f : Team → Team) : (s.modTeam k f).collSeq = s.collSeq := rfl
@[simp] theorem State.modTeam_held (s : State) (k : Nat) (f : Team → Team) : (s.modTeam k f).held = s.held := rfl
@[simp] theorem State.modTeam_ready (s : State) (k : Nat) (f : Team → Team) : (s.modTeam k f).ready = s.ready := rfl
@[simp] theorem State.modTeam_reservedFor (s : State) (k : Nat) (f : Team → Team) : (s.modTeam k f).reservedFor = s.reservedFor := rfl
@[simp] theorem State.modTeam_vigil (s : State) (k : Nat) (f : Team → Team) : (s.modTeam k f).vigil = s.vigil := rfl
@[simp] theorem State.modTeam_saved (s : State) (k : Nat) (f : Team → Team) : (s.modTeam k f).saved = s.saved := rfl
@[simp] theorem State.modTeam_nextAge (s : State) (k : Nat) (f : Team → Team) : (s.modTeam k f).nextAge = s.nextAge := rfl
@[simp] theorem State.modTeam_spilled (s : State) (k : Nat) (f : Team → Team) : (s.modTeam k f).spilled = s.spilled := rfl
@[simp] theorem State.modTeam_watch (s : State) (k : Nat) (f : Team → Team) : (s.modTeam k f).watch = s.watch := rfl
@[simp] theorem State.modTeam_dram (s : State) (k : Nat) (f : Team → Team) : (s.modTeam k f).dram = s.dram := rfl
@[simp] theorem State.modTeam_scratch (s : State) (k : Nat) (f : Team → Team) : (s.modTeam k f).scratch = s.scratch := rfl
@[simp] theorem State.modTeam_pool (s : State) (k : Nat) (f : Team → Team) : (s.modTeam k f).pool = s.pool := rfl
@[simp] theorem State.modTeam_poisonLines (s : State) (k : Nat) (f : Team → Team) : (s.modTeam k f).poisonLines = s.poisonLines := rfl
@[simp] theorem State.modTeam_poisonWords (s : State) (k : Nat) (f : Team → Team) : (s.modTeam k f).poisonWords = s.poisonWords := rfl
@[simp] theorem State.modTeam_corrected (s : State) (k : Nat) (f : Team → Team) : (s.modTeam k f).corrected = s.corrected := rfl
@[simp] theorem State.modTeam_capList (s : State) (k : Nat) (f : Team → Team) : (s.modTeam k f).capList = s.capList := rfl
@[simp] theorem State.modTeam_leases (s : State) (k : Nat) (f : Team → Team) : (s.modTeam k f).leases = s.leases := rfl
@[simp] theorem State.modTeam_homes (s : State) (k : Nat) (f : Team → Team) : (s.modTeam k f).homes = s.homes := rfl
@[simp] theorem State.modTeam_pins (s : State) (k : Nat) (f : Team → Team) : (s.modTeam k f).pins = s.pins := rfl
@[simp] theorem State.modTeam_copies (s : State) (k : Nat) (f : Team → Team) : (s.modTeam k f).copies = s.copies := rfl
@[simp] theorem State.modTeam_partials (s : State) (k : Nat) (f : Team → Team) : (s.modTeam k f).partials = s.partials := rfl
@[simp] theorem State.modTeam_tlb (s : State) (k : Nat) (f : Team → Team) : (s.modTeam k f).tlb = s.tlb := rfl
@[simp] theorem State.modTeam_icache (s : State) (k : Nat) (f : Team → Team) : (s.modTeam k f).icache = s.icache := rfl
@[simp] theorem State.modTeam_splits (s : State) (k : Nat) (f : Team → Team) : (s.modTeam k f).splits = s.splits := rfl
@[simp] theorem State.modTeam_splitWanted (s : State) (k : Nat) (f : Team → Team) : (s.modTeam k f).splitWanted = s.splitWanted := rfl
@[simp] theorem State.modTeam_lastTick (s : State) (k : Nat) (f : Team → Team) : (s.modTeam k f).lastTick = s.lastTick := rfl
@[simp] theorem State.modTeam_meters (s : State) (k : Nat) (f : Team → Team) : (s.modTeam k f).meters = s.meters := rfl
@[simp] theorem State.modTeam_banks (s : State) (k : Nat) (f : Team → Team) : (s.modTeam k f).banks = s.banks := rfl
@[simp] theorem State.modTeam_maint (s : State) (k : Nat) (f : Team → Team) : (s.modTeam k f).maint = s.maint := rfl
@[simp] theorem State.modTeam_breaks (s : State) (k : Nat) (f : Team → Team) : (s.modTeam k f).breaks = s.breaks := rfl
@[simp] theorem State.modTeam_lantern (s : State) (k : Nat) (f : Team → Team) : (s.modTeam k f).lantern = s.lantern := rfl
@[simp] theorem State.modTeam_hostWins (s : State) (k : Nat) (f : Team → Team) : (s.modTeam k f).hostWins = s.hostWins := rfl
@[simp] theorem State.modTeam_hostHorizon (s : State) (k : Nat) (f : Team → Team) : (s.modTeam k f).hostHorizon = s.hostHorizon := rfl
@[simp] theorem State.modTeam_doorbells (s : State) (k : Nat) (f : Team → Team) : (s.modTeam k f).doorbells = s.doorbells := rfl
@[simp] theorem State.modTeam_hostWait (s : State) (k : Nat) (f : Team → Team) : (s.modTeam k f).hostWait = s.hostWait := rfl
@[simp] theorem State.modTeam_fwRequest (s : State) (k : Nat) (f : Team → Team) : (s.modTeam k f).fwRequest = s.fwRequest := rfl
@[simp] theorem State.modTeam_fwReply (s : State) (k : Nat) (f : Team → Team) : (s.modTeam k f).fwReply = s.fwReply := rfl
@[simp] theorem State.modTeam_fwEvent (s : State) (k : Nat) (f : Team → Team) : (s.modTeam k f).fwEvent = s.fwEvent := rfl
@[simp] theorem State.modTeam_fwEvents (s : State) (k : Nat) (f : Team → Team) : (s.modTeam k f).fwEvents = s.fwEvents := rfl
@[simp] theorem State.modTeam_fwReplies (s : State) (k : Nat) (f : Team → Team) : (s.modTeam k f).fwReplies = s.fwReplies := rfl
@[simp] theorem State.modTeam_migrates (s : State) (k : Nat) (f : Team → Team) : (s.modTeam k f).migrates = s.migrates := rfl
@[simp] theorem State.modTeam_posted (s : State) (k : Nat) (f : Team → Team) : (s.modTeam k f).posted = s.posted := rfl
@[simp] theorem State.modTeam_nextTag (s : State) (k : Nat) (f : Team → Team) : (s.modTeam k f).nextTag = s.nextTag := rfl
@[simp] theorem State.modTeam_dropped (s : State) (k : Nat) (f : Team → Team) : (s.modTeam k f).dropped = s.dropped := rfl
@[simp] theorem State.modTeam_hostDropped (s : State) (k : Nat) (f : Team → Team) : (s.modTeam k f).hostDropped = s.hostDropped := rfl
@[simp] theorem State.modTeam_hostOut (s : State) (k : Nat) (f : Team → Team) : (s.modTeam k f).hostOut = s.hostOut := rfl
@[simp] theorem State.modTeam_tetherOut (s : State) (k : Nat) (f : Team → Team) : (s.modTeam k f).tetherOut = s.tetherOut := rfl
@[simp] theorem State.modTeam_routes (s : State) (k : Nat) (f : Team → Team) : (s.modTeam k f).routes = s.routes := rfl
@[simp] theorem State.modTeam_devid (s : State) (k : Nat) (f : Team → Team) : (s.modTeam k f).devid = s.devid := rfl
@[simp] theorem State.modTeam_routeLocked (s : State) (k : Nat) (f : Team → Team) : (s.modTeam k f).routeLocked = s.routeLocked := rfl
@[simp] theorem State.modTeam_deadLinks (s : State) (k : Nat) (f : Team → Team) : (s.modTeam k f).deadLinks = s.deadLinks := rfl
@[simp] theorem State.modTeam_flash (s : State) (k : Nat) (f : Team → Team) : (s.modTeam k f).flash = s.flash := rfl
@[simp] theorem State.modTeam_image (s : State) (k : Nat) (f : Team → Team) : (s.modTeam k f).image = s.image := rfl
@[simp] theorem State.modTeam_offered (s : State) (k : Nat) (f : Team → Team) : (s.modTeam k f).offered = s.offered := rfl
@[simp] theorem State.modTeam_group? (s : State) (k : Nat) (f : Team → Team) (j : Nat) : (s.modTeam k f).group? j = s.group? j := rfl
@[simp] theorem State.modTeam_team? (s : State) (k : Nat) (f : Team → Team) (j : Nat) :
    (s.modTeam k f).team? j = if j = k then (s.team? k).map f else s.team? j := tabGet?_tabMod ..
@[simp] theorem State.modTeam_launch? (s : State) (k : Nat) (f : Team → Team) (j : Nat) : (s.modTeam k f).launch? j = s.launch? j := rfl
@[simp] theorem State.modTeam_context? (s : State) (k : Nat) (f : Team → Team) (j : Nat) : (s.modTeam k f).context? j = s.context? j := rfl
@[simp] theorem State.modTeam_op? (s : State) (k : Nat) (f : Team → Team) (j : Nat) : (s.modTeam k f).op? j = s.op? j := rfl

/-! ## modLaunch -/

@[simp] theorem State.modLaunch_clk (s : State) (k : Nat) (f : Launch → Launch) : (s.modLaunch k f).clk = s.clk := rfl
@[simp] theorem State.modLaunch_time (s : State) (k : Nat) (f : Launch → Launch) : (s.modLaunch k f).time = s.time := rfl
@[simp] theorem State.modLaunch_edge (s : State) (k : Nat) (f : Launch → Launch) : (s.modLaunch k f).edge = s.edge := rfl
@[simp] theorem State.modLaunch_fullLive (s : State) (k : Nat) (f : Launch → Launch) : (s.modLaunch k f).fullLive = s.fullLive := rfl
@[simp] theorem State.modLaunch_clocks (s : State) (k : Nat) (f : Launch → Launch) : (s.modLaunch k f).clocks = s.clocks := rfl
@[simp] theorem State.modLaunch_fresh (s : State) (k : Nat) (f : Launch → Launch) : (s.modLaunch k f).fresh = s.fresh := rfl
@[simp] theorem State.modLaunch_nextId (s : State) (k : Nat) (f : Launch → Launch) : (s.modLaunch k f).nextId = s.nextId := rfl
@[simp] theorem State.modLaunch_cur (s : State) (k : Nat) (f : Launch → Launch) : (s.modLaunch k f).cur = s.cur := rfl
@[simp] theorem State.modLaunch_agenda (s : State) (k : Nat) (f : Launch → Launch) : (s.modLaunch k f).agenda = s.agenda := rfl
@[simp] theorem State.modLaunch_turn (s : State) (k : Nat) (f : Launch → Launch) : (s.modLaunch k f).turn = s.turn := rfl
@[simp] theorem State.modLaunch_picks (s : State) (k : Nat) (f : Launch → Launch) : (s.modLaunch k f).picks = s.picks := rfl
@[simp] theorem State.modLaunch_reelLast (s : State) (k : Nat) (f : Launch → Launch) : (s.modLaunch k f).reelLast = s.reelLast := rfl
@[simp] theorem State.modLaunch_grade (s : State) (k : Nat) (f : Launch → Launch) : (s.modLaunch k f).grade = s.grade := rfl
@[simp] theorem State.modLaunch_coreMask (s : State) (k : Nat) (f : Launch → Launch) : (s.modLaunch k f).coreMask = s.coreMask := rfl
@[simp] theorem State.modLaunch_stage (s : State) (k : Nat) (f : Launch → Launch) : (s.modLaunch k f).stage = s.stage := rfl
@[simp] theorem State.modLaunch_fail (s : State) (k : Nat) (f : Launch → Launch) : (s.modLaunch k f).fail = s.fail := rfl
@[simp] theorem State.modLaunch_tjmin (s : State) (k : Nat) (f : Launch → Launch) : (s.modLaunch k f).tjmin = s.tjmin := rfl
@[simp] theorem State.modLaunch_stopped (s : State) (k : Nat) (f : Launch → Launch) : (s.modLaunch k f).stopped = s.stopped := rfl
@[simp] theorem State.modLaunch_groups (s : State) (k : Nat) (f : Launch → Launch) : (s.modLaunch k f).groups = s.groups := rfl
@[simp] theorem State.modLaunch_teams (s : State) (k : Nat) (f : Launch → Launch) : (s.modLaunch k f).teams = s.teams := rfl
@[simp] theorem State.modLaunch_launches (s : State) (k : Nat) (f : Launch → Launch) : (s.modLaunch k f).launches = tabMod s.launches k f := rfl
@[simp] theorem State.modLaunch_contexts (s : State) (k : Nat) (f : Launch → Launch) : (s.modLaunch k f).contexts = s.contexts := rfl
@[simp] theorem State.modLaunch_parts (s : State) (k : Nat) (f : Launch → Launch) : (s.modLaunch k f).parts = s.parts := rfl
@[simp] theorem State.modLaunch_ops (s : State) (k : Nat) (f : Launch → Launch) : (s.modLaunch k f).ops = s.ops := rfl
@[simp] theorem State.modLaunch_threads (s : State) (k : Nat) (f : Launch → Launch) : (s.modLaunch k f).threads = s.threads := rfl
@[simp] theorem State.modLaunch_reels (s : State) (k : Nat) (f : Launch → Launch) : (s.modLaunch k f).reels = s.reels := rfl
@[simp] theorem State.modLaunch_remotes (s : State) (k : Nat) (f : Launch → Launch) : (s.modLaunch k f).remotes = s.remotes := rfl
@[simp] theorem State.modLaunch_inbound (s : State) (k : Nat) (f : Launch → Launch) : (s.modLaunch k f).inbound = s.inbound := rfl
@[simp] theorem State.modLaunch_colls (s : State) (k : Nat) (f : Launch → Launch) : (s.modLaunch k f).colls = s.colls := rfl
@[simp] theorem State.modLaunch_collSeq (s : State) (k : Nat) (f : Launch → Launch) : (s.modLaunch k f).collSeq = s.collSeq := rfl
@[simp] theorem State.modLaunch_held (s : State) (k : Nat) (f : Launch → Launch) : (s.modLaunch k f).held = s.held := rfl
@[simp] theorem State.modLaunch_ready (s : State) (k : Nat) (f : Launch → Launch) : (s.modLaunch k f).ready = s.ready := rfl
@[simp] theorem State.modLaunch_reservedFor (s : State) (k : Nat) (f : Launch → Launch) : (s.modLaunch k f).reservedFor = s.reservedFor := rfl
@[simp] theorem State.modLaunch_vigil (s : State) (k : Nat) (f : Launch → Launch) : (s.modLaunch k f).vigil = s.vigil := rfl
@[simp] theorem State.modLaunch_saved (s : State) (k : Nat) (f : Launch → Launch) : (s.modLaunch k f).saved = s.saved := rfl
@[simp] theorem State.modLaunch_nextAge (s : State) (k : Nat) (f : Launch → Launch) : (s.modLaunch k f).nextAge = s.nextAge := rfl
@[simp] theorem State.modLaunch_spilled (s : State) (k : Nat) (f : Launch → Launch) : (s.modLaunch k f).spilled = s.spilled := rfl
@[simp] theorem State.modLaunch_watch (s : State) (k : Nat) (f : Launch → Launch) : (s.modLaunch k f).watch = s.watch := rfl
@[simp] theorem State.modLaunch_dram (s : State) (k : Nat) (f : Launch → Launch) : (s.modLaunch k f).dram = s.dram := rfl
@[simp] theorem State.modLaunch_scratch (s : State) (k : Nat) (f : Launch → Launch) : (s.modLaunch k f).scratch = s.scratch := rfl
@[simp] theorem State.modLaunch_pool (s : State) (k : Nat) (f : Launch → Launch) : (s.modLaunch k f).pool = s.pool := rfl
@[simp] theorem State.modLaunch_poisonLines (s : State) (k : Nat) (f : Launch → Launch) : (s.modLaunch k f).poisonLines = s.poisonLines := rfl
@[simp] theorem State.modLaunch_poisonWords (s : State) (k : Nat) (f : Launch → Launch) : (s.modLaunch k f).poisonWords = s.poisonWords := rfl
@[simp] theorem State.modLaunch_corrected (s : State) (k : Nat) (f : Launch → Launch) : (s.modLaunch k f).corrected = s.corrected := rfl
@[simp] theorem State.modLaunch_capList (s : State) (k : Nat) (f : Launch → Launch) : (s.modLaunch k f).capList = s.capList := rfl
@[simp] theorem State.modLaunch_leases (s : State) (k : Nat) (f : Launch → Launch) : (s.modLaunch k f).leases = s.leases := rfl
@[simp] theorem State.modLaunch_homes (s : State) (k : Nat) (f : Launch → Launch) : (s.modLaunch k f).homes = s.homes := rfl
@[simp] theorem State.modLaunch_pins (s : State) (k : Nat) (f : Launch → Launch) : (s.modLaunch k f).pins = s.pins := rfl
@[simp] theorem State.modLaunch_copies (s : State) (k : Nat) (f : Launch → Launch) : (s.modLaunch k f).copies = s.copies := rfl
@[simp] theorem State.modLaunch_partials (s : State) (k : Nat) (f : Launch → Launch) : (s.modLaunch k f).partials = s.partials := rfl
@[simp] theorem State.modLaunch_tlb (s : State) (k : Nat) (f : Launch → Launch) : (s.modLaunch k f).tlb = s.tlb := rfl
@[simp] theorem State.modLaunch_icache (s : State) (k : Nat) (f : Launch → Launch) : (s.modLaunch k f).icache = s.icache := rfl
@[simp] theorem State.modLaunch_splits (s : State) (k : Nat) (f : Launch → Launch) : (s.modLaunch k f).splits = s.splits := rfl
@[simp] theorem State.modLaunch_splitWanted (s : State) (k : Nat) (f : Launch → Launch) : (s.modLaunch k f).splitWanted = s.splitWanted := rfl
@[simp] theorem State.modLaunch_lastTick (s : State) (k : Nat) (f : Launch → Launch) : (s.modLaunch k f).lastTick = s.lastTick := rfl
@[simp] theorem State.modLaunch_meters (s : State) (k : Nat) (f : Launch → Launch) : (s.modLaunch k f).meters = s.meters := rfl
@[simp] theorem State.modLaunch_banks (s : State) (k : Nat) (f : Launch → Launch) : (s.modLaunch k f).banks = s.banks := rfl
@[simp] theorem State.modLaunch_maint (s : State) (k : Nat) (f : Launch → Launch) : (s.modLaunch k f).maint = s.maint := rfl
@[simp] theorem State.modLaunch_breaks (s : State) (k : Nat) (f : Launch → Launch) : (s.modLaunch k f).breaks = s.breaks := rfl
@[simp] theorem State.modLaunch_lantern (s : State) (k : Nat) (f : Launch → Launch) : (s.modLaunch k f).lantern = s.lantern := rfl
@[simp] theorem State.modLaunch_hostWins (s : State) (k : Nat) (f : Launch → Launch) : (s.modLaunch k f).hostWins = s.hostWins := rfl
@[simp] theorem State.modLaunch_hostHorizon (s : State) (k : Nat) (f : Launch → Launch) : (s.modLaunch k f).hostHorizon = s.hostHorizon := rfl
@[simp] theorem State.modLaunch_doorbells (s : State) (k : Nat) (f : Launch → Launch) : (s.modLaunch k f).doorbells = s.doorbells := rfl
@[simp] theorem State.modLaunch_hostWait (s : State) (k : Nat) (f : Launch → Launch) : (s.modLaunch k f).hostWait = s.hostWait := rfl
@[simp] theorem State.modLaunch_fwRequest (s : State) (k : Nat) (f : Launch → Launch) : (s.modLaunch k f).fwRequest = s.fwRequest := rfl
@[simp] theorem State.modLaunch_fwReply (s : State) (k : Nat) (f : Launch → Launch) : (s.modLaunch k f).fwReply = s.fwReply := rfl
@[simp] theorem State.modLaunch_fwEvent (s : State) (k : Nat) (f : Launch → Launch) : (s.modLaunch k f).fwEvent = s.fwEvent := rfl
@[simp] theorem State.modLaunch_fwEvents (s : State) (k : Nat) (f : Launch → Launch) : (s.modLaunch k f).fwEvents = s.fwEvents := rfl
@[simp] theorem State.modLaunch_fwReplies (s : State) (k : Nat) (f : Launch → Launch) : (s.modLaunch k f).fwReplies = s.fwReplies := rfl
@[simp] theorem State.modLaunch_migrates (s : State) (k : Nat) (f : Launch → Launch) : (s.modLaunch k f).migrates = s.migrates := rfl
@[simp] theorem State.modLaunch_posted (s : State) (k : Nat) (f : Launch → Launch) : (s.modLaunch k f).posted = s.posted := rfl
@[simp] theorem State.modLaunch_nextTag (s : State) (k : Nat) (f : Launch → Launch) : (s.modLaunch k f).nextTag = s.nextTag := rfl
@[simp] theorem State.modLaunch_dropped (s : State) (k : Nat) (f : Launch → Launch) : (s.modLaunch k f).dropped = s.dropped := rfl
@[simp] theorem State.modLaunch_hostDropped (s : State) (k : Nat) (f : Launch → Launch) : (s.modLaunch k f).hostDropped = s.hostDropped := rfl
@[simp] theorem State.modLaunch_hostOut (s : State) (k : Nat) (f : Launch → Launch) : (s.modLaunch k f).hostOut = s.hostOut := rfl
@[simp] theorem State.modLaunch_tetherOut (s : State) (k : Nat) (f : Launch → Launch) : (s.modLaunch k f).tetherOut = s.tetherOut := rfl
@[simp] theorem State.modLaunch_routes (s : State) (k : Nat) (f : Launch → Launch) : (s.modLaunch k f).routes = s.routes := rfl
@[simp] theorem State.modLaunch_devid (s : State) (k : Nat) (f : Launch → Launch) : (s.modLaunch k f).devid = s.devid := rfl
@[simp] theorem State.modLaunch_routeLocked (s : State) (k : Nat) (f : Launch → Launch) : (s.modLaunch k f).routeLocked = s.routeLocked := rfl
@[simp] theorem State.modLaunch_deadLinks (s : State) (k : Nat) (f : Launch → Launch) : (s.modLaunch k f).deadLinks = s.deadLinks := rfl
@[simp] theorem State.modLaunch_flash (s : State) (k : Nat) (f : Launch → Launch) : (s.modLaunch k f).flash = s.flash := rfl
@[simp] theorem State.modLaunch_image (s : State) (k : Nat) (f : Launch → Launch) : (s.modLaunch k f).image = s.image := rfl
@[simp] theorem State.modLaunch_offered (s : State) (k : Nat) (f : Launch → Launch) : (s.modLaunch k f).offered = s.offered := rfl
@[simp] theorem State.modLaunch_group? (s : State) (k : Nat) (f : Launch → Launch) (j : Nat) : (s.modLaunch k f).group? j = s.group? j := rfl
@[simp] theorem State.modLaunch_team? (s : State) (k : Nat) (f : Launch → Launch) (j : Nat) : (s.modLaunch k f).team? j = s.team? j := rfl
@[simp] theorem State.modLaunch_launch? (s : State) (k : Nat) (f : Launch → Launch) (j : Nat) :
    (s.modLaunch k f).launch? j = if j = k then (s.launch? k).map f else s.launch? j := tabGet?_tabMod ..
@[simp] theorem State.modLaunch_context? (s : State) (k : Nat) (f : Launch → Launch) (j : Nat) : (s.modLaunch k f).context? j = s.context? j := rfl
@[simp] theorem State.modLaunch_op? (s : State) (k : Nat) (f : Launch → Launch) (j : Nat) : (s.modLaunch k f).op? j = s.op? j := rfl

/-! ## modContext -/

@[simp] theorem State.modContext_clk (s : State) (k : Nat) (f : Context → Context) : (s.modContext k f).clk = s.clk := rfl
@[simp] theorem State.modContext_time (s : State) (k : Nat) (f : Context → Context) : (s.modContext k f).time = s.time := rfl
@[simp] theorem State.modContext_edge (s : State) (k : Nat) (f : Context → Context) : (s.modContext k f).edge = s.edge := rfl
@[simp] theorem State.modContext_fullLive (s : State) (k : Nat) (f : Context → Context) : (s.modContext k f).fullLive = s.fullLive := rfl
@[simp] theorem State.modContext_clocks (s : State) (k : Nat) (f : Context → Context) : (s.modContext k f).clocks = s.clocks := rfl
@[simp] theorem State.modContext_fresh (s : State) (k : Nat) (f : Context → Context) : (s.modContext k f).fresh = s.fresh := rfl
@[simp] theorem State.modContext_nextId (s : State) (k : Nat) (f : Context → Context) : (s.modContext k f).nextId = s.nextId := rfl
@[simp] theorem State.modContext_cur (s : State) (k : Nat) (f : Context → Context) : (s.modContext k f).cur = s.cur := rfl
@[simp] theorem State.modContext_agenda (s : State) (k : Nat) (f : Context → Context) : (s.modContext k f).agenda = s.agenda := rfl
@[simp] theorem State.modContext_turn (s : State) (k : Nat) (f : Context → Context) : (s.modContext k f).turn = s.turn := rfl
@[simp] theorem State.modContext_picks (s : State) (k : Nat) (f : Context → Context) : (s.modContext k f).picks = s.picks := rfl
@[simp] theorem State.modContext_reelLast (s : State) (k : Nat) (f : Context → Context) : (s.modContext k f).reelLast = s.reelLast := rfl
@[simp] theorem State.modContext_grade (s : State) (k : Nat) (f : Context → Context) : (s.modContext k f).grade = s.grade := rfl
@[simp] theorem State.modContext_coreMask (s : State) (k : Nat) (f : Context → Context) : (s.modContext k f).coreMask = s.coreMask := rfl
@[simp] theorem State.modContext_stage (s : State) (k : Nat) (f : Context → Context) : (s.modContext k f).stage = s.stage := rfl
@[simp] theorem State.modContext_fail (s : State) (k : Nat) (f : Context → Context) : (s.modContext k f).fail = s.fail := rfl
@[simp] theorem State.modContext_tjmin (s : State) (k : Nat) (f : Context → Context) : (s.modContext k f).tjmin = s.tjmin := rfl
@[simp] theorem State.modContext_stopped (s : State) (k : Nat) (f : Context → Context) : (s.modContext k f).stopped = s.stopped := rfl
@[simp] theorem State.modContext_groups (s : State) (k : Nat) (f : Context → Context) : (s.modContext k f).groups = s.groups := rfl
@[simp] theorem State.modContext_teams (s : State) (k : Nat) (f : Context → Context) : (s.modContext k f).teams = s.teams := rfl
@[simp] theorem State.modContext_launches (s : State) (k : Nat) (f : Context → Context) : (s.modContext k f).launches = s.launches := rfl
@[simp] theorem State.modContext_contexts (s : State) (k : Nat) (f : Context → Context) : (s.modContext k f).contexts = tabMod s.contexts k f := rfl
@[simp] theorem State.modContext_parts (s : State) (k : Nat) (f : Context → Context) : (s.modContext k f).parts = s.parts := rfl
@[simp] theorem State.modContext_ops (s : State) (k : Nat) (f : Context → Context) : (s.modContext k f).ops = s.ops := rfl
@[simp] theorem State.modContext_threads (s : State) (k : Nat) (f : Context → Context) : (s.modContext k f).threads = s.threads := rfl
@[simp] theorem State.modContext_reels (s : State) (k : Nat) (f : Context → Context) : (s.modContext k f).reels = s.reels := rfl
@[simp] theorem State.modContext_remotes (s : State) (k : Nat) (f : Context → Context) : (s.modContext k f).remotes = s.remotes := rfl
@[simp] theorem State.modContext_inbound (s : State) (k : Nat) (f : Context → Context) : (s.modContext k f).inbound = s.inbound := rfl
@[simp] theorem State.modContext_colls (s : State) (k : Nat) (f : Context → Context) : (s.modContext k f).colls = s.colls := rfl
@[simp] theorem State.modContext_collSeq (s : State) (k : Nat) (f : Context → Context) : (s.modContext k f).collSeq = s.collSeq := rfl
@[simp] theorem State.modContext_held (s : State) (k : Nat) (f : Context → Context) : (s.modContext k f).held = s.held := rfl
@[simp] theorem State.modContext_ready (s : State) (k : Nat) (f : Context → Context) : (s.modContext k f).ready = s.ready := rfl
@[simp] theorem State.modContext_reservedFor (s : State) (k : Nat) (f : Context → Context) : (s.modContext k f).reservedFor = s.reservedFor := rfl
@[simp] theorem State.modContext_vigil (s : State) (k : Nat) (f : Context → Context) : (s.modContext k f).vigil = s.vigil := rfl
@[simp] theorem State.modContext_saved (s : State) (k : Nat) (f : Context → Context) : (s.modContext k f).saved = s.saved := rfl
@[simp] theorem State.modContext_nextAge (s : State) (k : Nat) (f : Context → Context) : (s.modContext k f).nextAge = s.nextAge := rfl
@[simp] theorem State.modContext_spilled (s : State) (k : Nat) (f : Context → Context) : (s.modContext k f).spilled = s.spilled := rfl
@[simp] theorem State.modContext_watch (s : State) (k : Nat) (f : Context → Context) : (s.modContext k f).watch = s.watch := rfl
@[simp] theorem State.modContext_dram (s : State) (k : Nat) (f : Context → Context) : (s.modContext k f).dram = s.dram := rfl
@[simp] theorem State.modContext_scratch (s : State) (k : Nat) (f : Context → Context) : (s.modContext k f).scratch = s.scratch := rfl
@[simp] theorem State.modContext_pool (s : State) (k : Nat) (f : Context → Context) : (s.modContext k f).pool = s.pool := rfl
@[simp] theorem State.modContext_poisonLines (s : State) (k : Nat) (f : Context → Context) : (s.modContext k f).poisonLines = s.poisonLines := rfl
@[simp] theorem State.modContext_poisonWords (s : State) (k : Nat) (f : Context → Context) : (s.modContext k f).poisonWords = s.poisonWords := rfl
@[simp] theorem State.modContext_corrected (s : State) (k : Nat) (f : Context → Context) : (s.modContext k f).corrected = s.corrected := rfl
@[simp] theorem State.modContext_capList (s : State) (k : Nat) (f : Context → Context) : (s.modContext k f).capList = s.capList := rfl
@[simp] theorem State.modContext_leases (s : State) (k : Nat) (f : Context → Context) : (s.modContext k f).leases = s.leases := rfl
@[simp] theorem State.modContext_homes (s : State) (k : Nat) (f : Context → Context) : (s.modContext k f).homes = s.homes := rfl
@[simp] theorem State.modContext_pins (s : State) (k : Nat) (f : Context → Context) : (s.modContext k f).pins = s.pins := rfl
@[simp] theorem State.modContext_copies (s : State) (k : Nat) (f : Context → Context) : (s.modContext k f).copies = s.copies := rfl
@[simp] theorem State.modContext_partials (s : State) (k : Nat) (f : Context → Context) : (s.modContext k f).partials = s.partials := rfl
@[simp] theorem State.modContext_tlb (s : State) (k : Nat) (f : Context → Context) : (s.modContext k f).tlb = s.tlb := rfl
@[simp] theorem State.modContext_icache (s : State) (k : Nat) (f : Context → Context) : (s.modContext k f).icache = s.icache := rfl
@[simp] theorem State.modContext_splits (s : State) (k : Nat) (f : Context → Context) : (s.modContext k f).splits = s.splits := rfl
@[simp] theorem State.modContext_splitWanted (s : State) (k : Nat) (f : Context → Context) : (s.modContext k f).splitWanted = s.splitWanted := rfl
@[simp] theorem State.modContext_lastTick (s : State) (k : Nat) (f : Context → Context) : (s.modContext k f).lastTick = s.lastTick := rfl
@[simp] theorem State.modContext_meters (s : State) (k : Nat) (f : Context → Context) : (s.modContext k f).meters = s.meters := rfl
@[simp] theorem State.modContext_banks (s : State) (k : Nat) (f : Context → Context) : (s.modContext k f).banks = s.banks := rfl
@[simp] theorem State.modContext_maint (s : State) (k : Nat) (f : Context → Context) : (s.modContext k f).maint = s.maint := rfl
@[simp] theorem State.modContext_breaks (s : State) (k : Nat) (f : Context → Context) : (s.modContext k f).breaks = s.breaks := rfl
@[simp] theorem State.modContext_lantern (s : State) (k : Nat) (f : Context → Context) : (s.modContext k f).lantern = s.lantern := rfl
@[simp] theorem State.modContext_hostWins (s : State) (k : Nat) (f : Context → Context) : (s.modContext k f).hostWins = s.hostWins := rfl
@[simp] theorem State.modContext_hostHorizon (s : State) (k : Nat) (f : Context → Context) : (s.modContext k f).hostHorizon = s.hostHorizon := rfl
@[simp] theorem State.modContext_doorbells (s : State) (k : Nat) (f : Context → Context) : (s.modContext k f).doorbells = s.doorbells := rfl
@[simp] theorem State.modContext_hostWait (s : State) (k : Nat) (f : Context → Context) : (s.modContext k f).hostWait = s.hostWait := rfl
@[simp] theorem State.modContext_fwRequest (s : State) (k : Nat) (f : Context → Context) : (s.modContext k f).fwRequest = s.fwRequest := rfl
@[simp] theorem State.modContext_fwReply (s : State) (k : Nat) (f : Context → Context) : (s.modContext k f).fwReply = s.fwReply := rfl
@[simp] theorem State.modContext_fwEvent (s : State) (k : Nat) (f : Context → Context) : (s.modContext k f).fwEvent = s.fwEvent := rfl
@[simp] theorem State.modContext_fwEvents (s : State) (k : Nat) (f : Context → Context) : (s.modContext k f).fwEvents = s.fwEvents := rfl
@[simp] theorem State.modContext_fwReplies (s : State) (k : Nat) (f : Context → Context) : (s.modContext k f).fwReplies = s.fwReplies := rfl
@[simp] theorem State.modContext_migrates (s : State) (k : Nat) (f : Context → Context) : (s.modContext k f).migrates = s.migrates := rfl
@[simp] theorem State.modContext_posted (s : State) (k : Nat) (f : Context → Context) : (s.modContext k f).posted = s.posted := rfl
@[simp] theorem State.modContext_nextTag (s : State) (k : Nat) (f : Context → Context) : (s.modContext k f).nextTag = s.nextTag := rfl
@[simp] theorem State.modContext_dropped (s : State) (k : Nat) (f : Context → Context) : (s.modContext k f).dropped = s.dropped := rfl
@[simp] theorem State.modContext_hostDropped (s : State) (k : Nat) (f : Context → Context) : (s.modContext k f).hostDropped = s.hostDropped := rfl
@[simp] theorem State.modContext_hostOut (s : State) (k : Nat) (f : Context → Context) : (s.modContext k f).hostOut = s.hostOut := rfl
@[simp] theorem State.modContext_tetherOut (s : State) (k : Nat) (f : Context → Context) : (s.modContext k f).tetherOut = s.tetherOut := rfl
@[simp] theorem State.modContext_routes (s : State) (k : Nat) (f : Context → Context) : (s.modContext k f).routes = s.routes := rfl
@[simp] theorem State.modContext_devid (s : State) (k : Nat) (f : Context → Context) : (s.modContext k f).devid = s.devid := rfl
@[simp] theorem State.modContext_routeLocked (s : State) (k : Nat) (f : Context → Context) : (s.modContext k f).routeLocked = s.routeLocked := rfl
@[simp] theorem State.modContext_deadLinks (s : State) (k : Nat) (f : Context → Context) : (s.modContext k f).deadLinks = s.deadLinks := rfl
@[simp] theorem State.modContext_flash (s : State) (k : Nat) (f : Context → Context) : (s.modContext k f).flash = s.flash := rfl
@[simp] theorem State.modContext_image (s : State) (k : Nat) (f : Context → Context) : (s.modContext k f).image = s.image := rfl
@[simp] theorem State.modContext_offered (s : State) (k : Nat) (f : Context → Context) : (s.modContext k f).offered = s.offered := rfl
@[simp] theorem State.modContext_group? (s : State) (k : Nat) (f : Context → Context) (j : Nat) : (s.modContext k f).group? j = s.group? j := rfl
@[simp] theorem State.modContext_team? (s : State) (k : Nat) (f : Context → Context) (j : Nat) : (s.modContext k f).team? j = s.team? j := rfl
@[simp] theorem State.modContext_launch? (s : State) (k : Nat) (f : Context → Context) (j : Nat) : (s.modContext k f).launch? j = s.launch? j := rfl
@[simp] theorem State.modContext_context? (s : State) (k : Nat) (f : Context → Context) (j : Nat) :
    (s.modContext k f).context? j = if j = k then (s.context? k).map f else s.context? j := tabGet?_tabMod ..
@[simp] theorem State.modContext_op? (s : State) (k : Nat) (f : Context → Context) (j : Nat) : (s.modContext k f).op? j = s.op? j := rfl

/-! ## setPart -/

@[simp] theorem State.setPart_clk (s : State) (core part : Nat) (p : Part) : (s.setPart core part p).clk = s.clk := rfl
@[simp] theorem State.setPart_time (s : State) (core part : Nat) (p : Part) : (s.setPart core part p).time = s.time := rfl
@[simp] theorem State.setPart_edge (s : State) (core part : Nat) (p : Part) : (s.setPart core part p).edge = s.edge := rfl
@[simp] theorem State.setPart_fullLive (s : State) (core part : Nat) (p : Part) : (s.setPart core part p).fullLive = s.fullLive := rfl
@[simp] theorem State.setPart_clocks (s : State) (core part : Nat) (p : Part) : (s.setPart core part p).clocks = s.clocks := rfl
@[simp] theorem State.setPart_fresh (s : State) (core part : Nat) (p : Part) : (s.setPart core part p).fresh = s.fresh := rfl
@[simp] theorem State.setPart_nextId (s : State) (core part : Nat) (p : Part) : (s.setPart core part p).nextId = s.nextId := rfl
@[simp] theorem State.setPart_cur (s : State) (core part : Nat) (p : Part) : (s.setPart core part p).cur = s.cur := rfl
@[simp] theorem State.setPart_agenda (s : State) (core part : Nat) (p : Part) : (s.setPart core part p).agenda = s.agenda := rfl
@[simp] theorem State.setPart_turn (s : State) (core part : Nat) (p : Part) : (s.setPart core part p).turn = s.turn := rfl
@[simp] theorem State.setPart_picks (s : State) (core part : Nat) (p : Part) : (s.setPart core part p).picks = s.picks := rfl
@[simp] theorem State.setPart_reelLast (s : State) (core part : Nat) (p : Part) : (s.setPart core part p).reelLast = s.reelLast := rfl
@[simp] theorem State.setPart_grade (s : State) (core part : Nat) (p : Part) : (s.setPart core part p).grade = s.grade := rfl
@[simp] theorem State.setPart_coreMask (s : State) (core part : Nat) (p : Part) : (s.setPart core part p).coreMask = s.coreMask := rfl
@[simp] theorem State.setPart_stage (s : State) (core part : Nat) (p : Part) : (s.setPart core part p).stage = s.stage := rfl
@[simp] theorem State.setPart_fail (s : State) (core part : Nat) (p : Part) : (s.setPart core part p).fail = s.fail := rfl
@[simp] theorem State.setPart_tjmin (s : State) (core part : Nat) (p : Part) : (s.setPart core part p).tjmin = s.tjmin := rfl
@[simp] theorem State.setPart_stopped (s : State) (core part : Nat) (p : Part) : (s.setPart core part p).stopped = s.stopped := rfl
@[simp] theorem State.setPart_groups (s : State) (core part : Nat) (p : Part) : (s.setPart core part p).groups = s.groups := rfl
@[simp] theorem State.setPart_teams (s : State) (core part : Nat) (p : Part) : (s.setPart core part p).teams = s.teams := rfl
@[simp] theorem State.setPart_launches (s : State) (core part : Nat) (p : Part) : (s.setPart core part p).launches = s.launches := rfl
@[simp] theorem State.setPart_contexts (s : State) (core part : Nat) (p : Part) : (s.setPart core part p).contexts = s.contexts := rfl
@[simp] theorem State.setPart_parts (s : State) (core part : Nat) (p : Part) : (s.setPart core part p).parts = tabSet s.parts (partKey core part) p := rfl
@[simp] theorem State.setPart_ops (s : State) (core part : Nat) (p : Part) : (s.setPart core part p).ops = s.ops := rfl
@[simp] theorem State.setPart_threads (s : State) (core part : Nat) (p : Part) : (s.setPart core part p).threads = s.threads := rfl
@[simp] theorem State.setPart_reels (s : State) (core part : Nat) (p : Part) : (s.setPart core part p).reels = s.reels := rfl
@[simp] theorem State.setPart_remotes (s : State) (core part : Nat) (p : Part) : (s.setPart core part p).remotes = s.remotes := rfl
@[simp] theorem State.setPart_inbound (s : State) (core part : Nat) (p : Part) : (s.setPart core part p).inbound = s.inbound := rfl
@[simp] theorem State.setPart_colls (s : State) (core part : Nat) (p : Part) : (s.setPart core part p).colls = s.colls := rfl
@[simp] theorem State.setPart_collSeq (s : State) (core part : Nat) (p : Part) : (s.setPart core part p).collSeq = s.collSeq := rfl
@[simp] theorem State.setPart_held (s : State) (core part : Nat) (p : Part) : (s.setPart core part p).held = s.held := rfl
@[simp] theorem State.setPart_ready (s : State) (core part : Nat) (p : Part) : (s.setPart core part p).ready = s.ready := rfl
@[simp] theorem State.setPart_reservedFor (s : State) (core part : Nat) (p : Part) : (s.setPart core part p).reservedFor = s.reservedFor := rfl
@[simp] theorem State.setPart_vigil (s : State) (core part : Nat) (p : Part) : (s.setPart core part p).vigil = s.vigil := rfl
@[simp] theorem State.setPart_saved (s : State) (core part : Nat) (p : Part) : (s.setPart core part p).saved = s.saved := rfl
@[simp] theorem State.setPart_nextAge (s : State) (core part : Nat) (p : Part) : (s.setPart core part p).nextAge = s.nextAge := rfl
@[simp] theorem State.setPart_spilled (s : State) (core part : Nat) (p : Part) : (s.setPart core part p).spilled = s.spilled := rfl
@[simp] theorem State.setPart_watch (s : State) (core part : Nat) (p : Part) : (s.setPart core part p).watch = s.watch := rfl
@[simp] theorem State.setPart_dram (s : State) (core part : Nat) (p : Part) : (s.setPart core part p).dram = s.dram := rfl
@[simp] theorem State.setPart_scratch (s : State) (core part : Nat) (p : Part) : (s.setPart core part p).scratch = s.scratch := rfl
@[simp] theorem State.setPart_pool (s : State) (core part : Nat) (p : Part) : (s.setPart core part p).pool = s.pool := rfl
@[simp] theorem State.setPart_poisonLines (s : State) (core part : Nat) (p : Part) : (s.setPart core part p).poisonLines = s.poisonLines := rfl
@[simp] theorem State.setPart_poisonWords (s : State) (core part : Nat) (p : Part) : (s.setPart core part p).poisonWords = s.poisonWords := rfl
@[simp] theorem State.setPart_corrected (s : State) (core part : Nat) (p : Part) : (s.setPart core part p).corrected = s.corrected := rfl
@[simp] theorem State.setPart_capList (s : State) (core part : Nat) (p : Part) : (s.setPart core part p).capList = s.capList := rfl
@[simp] theorem State.setPart_leases (s : State) (core part : Nat) (p : Part) : (s.setPart core part p).leases = s.leases := rfl
@[simp] theorem State.setPart_homes (s : State) (core part : Nat) (p : Part) : (s.setPart core part p).homes = s.homes := rfl
@[simp] theorem State.setPart_pins (s : State) (core part : Nat) (p : Part) : (s.setPart core part p).pins = s.pins := rfl
@[simp] theorem State.setPart_copies (s : State) (core part : Nat) (p : Part) : (s.setPart core part p).copies = s.copies := rfl
@[simp] theorem State.setPart_partials (s : State) (core part : Nat) (p : Part) : (s.setPart core part p).partials = s.partials := rfl
@[simp] theorem State.setPart_tlb (s : State) (core part : Nat) (p : Part) : (s.setPart core part p).tlb = s.tlb := rfl
@[simp] theorem State.setPart_icache (s : State) (core part : Nat) (p : Part) : (s.setPart core part p).icache = s.icache := rfl
@[simp] theorem State.setPart_splits (s : State) (core part : Nat) (p : Part) : (s.setPart core part p).splits = s.splits := rfl
@[simp] theorem State.setPart_splitWanted (s : State) (core part : Nat) (p : Part) : (s.setPart core part p).splitWanted = s.splitWanted := rfl
@[simp] theorem State.setPart_lastTick (s : State) (core part : Nat) (p : Part) : (s.setPart core part p).lastTick = s.lastTick := rfl
@[simp] theorem State.setPart_meters (s : State) (core part : Nat) (p : Part) : (s.setPart core part p).meters = s.meters := rfl
@[simp] theorem State.setPart_banks (s : State) (core part : Nat) (p : Part) : (s.setPart core part p).banks = s.banks := rfl
@[simp] theorem State.setPart_maint (s : State) (core part : Nat) (p : Part) : (s.setPart core part p).maint = s.maint := rfl
@[simp] theorem State.setPart_breaks (s : State) (core part : Nat) (p : Part) : (s.setPart core part p).breaks = s.breaks := rfl
@[simp] theorem State.setPart_lantern (s : State) (core part : Nat) (p : Part) : (s.setPart core part p).lantern = s.lantern := rfl
@[simp] theorem State.setPart_hostWins (s : State) (core part : Nat) (p : Part) : (s.setPart core part p).hostWins = s.hostWins := rfl
@[simp] theorem State.setPart_hostHorizon (s : State) (core part : Nat) (p : Part) : (s.setPart core part p).hostHorizon = s.hostHorizon := rfl
@[simp] theorem State.setPart_doorbells (s : State) (core part : Nat) (p : Part) : (s.setPart core part p).doorbells = s.doorbells := rfl
@[simp] theorem State.setPart_hostWait (s : State) (core part : Nat) (p : Part) : (s.setPart core part p).hostWait = s.hostWait := rfl
@[simp] theorem State.setPart_fwRequest (s : State) (core part : Nat) (p : Part) : (s.setPart core part p).fwRequest = s.fwRequest := rfl
@[simp] theorem State.setPart_fwReply (s : State) (core part : Nat) (p : Part) : (s.setPart core part p).fwReply = s.fwReply := rfl
@[simp] theorem State.setPart_fwEvent (s : State) (core part : Nat) (p : Part) : (s.setPart core part p).fwEvent = s.fwEvent := rfl
@[simp] theorem State.setPart_fwEvents (s : State) (core part : Nat) (p : Part) : (s.setPart core part p).fwEvents = s.fwEvents := rfl
@[simp] theorem State.setPart_fwReplies (s : State) (core part : Nat) (p : Part) : (s.setPart core part p).fwReplies = s.fwReplies := rfl
@[simp] theorem State.setPart_migrates (s : State) (core part : Nat) (p : Part) : (s.setPart core part p).migrates = s.migrates := rfl
@[simp] theorem State.setPart_posted (s : State) (core part : Nat) (p : Part) : (s.setPart core part p).posted = s.posted := rfl
@[simp] theorem State.setPart_nextTag (s : State) (core part : Nat) (p : Part) : (s.setPart core part p).nextTag = s.nextTag := rfl
@[simp] theorem State.setPart_dropped (s : State) (core part : Nat) (p : Part) : (s.setPart core part p).dropped = s.dropped := rfl
@[simp] theorem State.setPart_hostDropped (s : State) (core part : Nat) (p : Part) : (s.setPart core part p).hostDropped = s.hostDropped := rfl
@[simp] theorem State.setPart_hostOut (s : State) (core part : Nat) (p : Part) : (s.setPart core part p).hostOut = s.hostOut := rfl
@[simp] theorem State.setPart_tetherOut (s : State) (core part : Nat) (p : Part) : (s.setPart core part p).tetherOut = s.tetherOut := rfl
@[simp] theorem State.setPart_routes (s : State) (core part : Nat) (p : Part) : (s.setPart core part p).routes = s.routes := rfl
@[simp] theorem State.setPart_devid (s : State) (core part : Nat) (p : Part) : (s.setPart core part p).devid = s.devid := rfl
@[simp] theorem State.setPart_routeLocked (s : State) (core part : Nat) (p : Part) : (s.setPart core part p).routeLocked = s.routeLocked := rfl
@[simp] theorem State.setPart_deadLinks (s : State) (core part : Nat) (p : Part) : (s.setPart core part p).deadLinks = s.deadLinks := rfl
@[simp] theorem State.setPart_flash (s : State) (core part : Nat) (p : Part) : (s.setPart core part p).flash = s.flash := rfl
@[simp] theorem State.setPart_image (s : State) (core part : Nat) (p : Part) : (s.setPart core part p).image = s.image := rfl
@[simp] theorem State.setPart_offered (s : State) (core part : Nat) (p : Part) : (s.setPart core part p).offered = s.offered := rfl
@[simp] theorem State.setPart_group? (s : State) (core part : Nat) (p : Part) (j : Nat) : (s.setPart core part p).group? j = s.group? j := rfl
@[simp] theorem State.setPart_team? (s : State) (core part : Nat) (p : Part) (j : Nat) : (s.setPart core part p).team? j = s.team? j := rfl
@[simp] theorem State.setPart_launch? (s : State) (core part : Nat) (p : Part) (j : Nat) : (s.setPart core part p).launch? j = s.launch? j := rfl
@[simp] theorem State.setPart_context? (s : State) (core part : Nat) (p : Part) (j : Nat) : (s.setPart core part p).context? j = s.context? j := rfl
@[simp] theorem State.setPart_op? (s : State) (core part : Nat) (p : Part) (j : Nat) : (s.setPart core part p).op? j = s.op? j := rfl

/-! ## setOp -/

@[simp] theorem State.setOp_clk (s : State) (o : Op) : (s.setOp o).clk = s.clk := rfl
@[simp] theorem State.setOp_time (s : State) (o : Op) : (s.setOp o).time = s.time := rfl
@[simp] theorem State.setOp_edge (s : State) (o : Op) : (s.setOp o).edge = s.edge := rfl
@[simp] theorem State.setOp_fullLive (s : State) (o : Op) : (s.setOp o).fullLive = s.fullLive := rfl
@[simp] theorem State.setOp_clocks (s : State) (o : Op) : (s.setOp o).clocks = s.clocks := rfl
@[simp] theorem State.setOp_fresh (s : State) (o : Op) : (s.setOp o).fresh = s.fresh := rfl
@[simp] theorem State.setOp_nextId (s : State) (o : Op) : (s.setOp o).nextId = s.nextId := rfl
@[simp] theorem State.setOp_cur (s : State) (o : Op) : (s.setOp o).cur = s.cur := rfl
@[simp] theorem State.setOp_agenda (s : State) (o : Op) : (s.setOp o).agenda = s.agenda := rfl
@[simp] theorem State.setOp_turn (s : State) (o : Op) : (s.setOp o).turn = s.turn := rfl
@[simp] theorem State.setOp_picks (s : State) (o : Op) : (s.setOp o).picks = s.picks := rfl
@[simp] theorem State.setOp_reelLast (s : State) (o : Op) : (s.setOp o).reelLast = s.reelLast := rfl
@[simp] theorem State.setOp_grade (s : State) (o : Op) : (s.setOp o).grade = s.grade := rfl
@[simp] theorem State.setOp_coreMask (s : State) (o : Op) : (s.setOp o).coreMask = s.coreMask := rfl
@[simp] theorem State.setOp_stage (s : State) (o : Op) : (s.setOp o).stage = s.stage := rfl
@[simp] theorem State.setOp_fail (s : State) (o : Op) : (s.setOp o).fail = s.fail := rfl
@[simp] theorem State.setOp_tjmin (s : State) (o : Op) : (s.setOp o).tjmin = s.tjmin := rfl
@[simp] theorem State.setOp_stopped (s : State) (o : Op) : (s.setOp o).stopped = s.stopped := rfl
@[simp] theorem State.setOp_groups (s : State) (o : Op) : (s.setOp o).groups = s.groups := rfl
@[simp] theorem State.setOp_teams (s : State) (o : Op) : (s.setOp o).teams = s.teams := rfl
@[simp] theorem State.setOp_launches (s : State) (o : Op) : (s.setOp o).launches = s.launches := rfl
@[simp] theorem State.setOp_contexts (s : State) (o : Op) : (s.setOp o).contexts = s.contexts := rfl
@[simp] theorem State.setOp_parts (s : State) (o : Op) : (s.setOp o).parts = s.parts := rfl
@[simp] theorem State.setOp_ops (s : State) (o : Op) : (s.setOp o).ops = s.ops.map fun x => if x.uid == o.uid then o else x := rfl
@[simp] theorem State.setOp_threads (s : State) (o : Op) : (s.setOp o).threads = s.threads := rfl
@[simp] theorem State.setOp_reels (s : State) (o : Op) : (s.setOp o).reels = s.reels := rfl
@[simp] theorem State.setOp_remotes (s : State) (o : Op) : (s.setOp o).remotes = s.remotes := rfl
@[simp] theorem State.setOp_inbound (s : State) (o : Op) : (s.setOp o).inbound = s.inbound := rfl
@[simp] theorem State.setOp_colls (s : State) (o : Op) : (s.setOp o).colls = s.colls := rfl
@[simp] theorem State.setOp_collSeq (s : State) (o : Op) : (s.setOp o).collSeq = s.collSeq := rfl
@[simp] theorem State.setOp_held (s : State) (o : Op) : (s.setOp o).held = s.held := rfl
@[simp] theorem State.setOp_ready (s : State) (o : Op) : (s.setOp o).ready = s.ready := rfl
@[simp] theorem State.setOp_reservedFor (s : State) (o : Op) : (s.setOp o).reservedFor = s.reservedFor := rfl
@[simp] theorem State.setOp_vigil (s : State) (o : Op) : (s.setOp o).vigil = s.vigil := rfl
@[simp] theorem State.setOp_saved (s : State) (o : Op) : (s.setOp o).saved = s.saved := rfl
@[simp] theorem State.setOp_nextAge (s : State) (o : Op) : (s.setOp o).nextAge = s.nextAge := rfl
@[simp] theorem State.setOp_spilled (s : State) (o : Op) : (s.setOp o).spilled = s.spilled := rfl
@[simp] theorem State.setOp_watch (s : State) (o : Op) : (s.setOp o).watch = s.watch := rfl
@[simp] theorem State.setOp_dram (s : State) (o : Op) : (s.setOp o).dram = s.dram := rfl
@[simp] theorem State.setOp_scratch (s : State) (o : Op) : (s.setOp o).scratch = s.scratch := rfl
@[simp] theorem State.setOp_pool (s : State) (o : Op) : (s.setOp o).pool = s.pool := rfl
@[simp] theorem State.setOp_poisonLines (s : State) (o : Op) : (s.setOp o).poisonLines = s.poisonLines := rfl
@[simp] theorem State.setOp_poisonWords (s : State) (o : Op) : (s.setOp o).poisonWords = s.poisonWords := rfl
@[simp] theorem State.setOp_corrected (s : State) (o : Op) : (s.setOp o).corrected = s.corrected := rfl
@[simp] theorem State.setOp_capList (s : State) (o : Op) : (s.setOp o).capList = s.capList := rfl
@[simp] theorem State.setOp_leases (s : State) (o : Op) : (s.setOp o).leases = s.leases := rfl
@[simp] theorem State.setOp_homes (s : State) (o : Op) : (s.setOp o).homes = s.homes := rfl
@[simp] theorem State.setOp_pins (s : State) (o : Op) : (s.setOp o).pins = s.pins := rfl
@[simp] theorem State.setOp_copies (s : State) (o : Op) : (s.setOp o).copies = s.copies := rfl
@[simp] theorem State.setOp_partials (s : State) (o : Op) : (s.setOp o).partials = s.partials := rfl
@[simp] theorem State.setOp_tlb (s : State) (o : Op) : (s.setOp o).tlb = s.tlb := rfl
@[simp] theorem State.setOp_icache (s : State) (o : Op) : (s.setOp o).icache = s.icache := rfl
@[simp] theorem State.setOp_splits (s : State) (o : Op) : (s.setOp o).splits = s.splits := rfl
@[simp] theorem State.setOp_splitWanted (s : State) (o : Op) : (s.setOp o).splitWanted = s.splitWanted := rfl
@[simp] theorem State.setOp_lastTick (s : State) (o : Op) : (s.setOp o).lastTick = s.lastTick := rfl
@[simp] theorem State.setOp_meters (s : State) (o : Op) : (s.setOp o).meters = s.meters := rfl
@[simp] theorem State.setOp_banks (s : State) (o : Op) : (s.setOp o).banks = s.banks := rfl
@[simp] theorem State.setOp_maint (s : State) (o : Op) : (s.setOp o).maint = s.maint := rfl
@[simp] theorem State.setOp_breaks (s : State) (o : Op) : (s.setOp o).breaks = s.breaks := rfl
@[simp] theorem State.setOp_lantern (s : State) (o : Op) : (s.setOp o).lantern = s.lantern := rfl
@[simp] theorem State.setOp_hostWins (s : State) (o : Op) : (s.setOp o).hostWins = s.hostWins := rfl
@[simp] theorem State.setOp_hostHorizon (s : State) (o : Op) : (s.setOp o).hostHorizon = s.hostHorizon := rfl
@[simp] theorem State.setOp_doorbells (s : State) (o : Op) : (s.setOp o).doorbells = s.doorbells := rfl
@[simp] theorem State.setOp_hostWait (s : State) (o : Op) : (s.setOp o).hostWait = s.hostWait := rfl
@[simp] theorem State.setOp_fwRequest (s : State) (o : Op) : (s.setOp o).fwRequest = s.fwRequest := rfl
@[simp] theorem State.setOp_fwReply (s : State) (o : Op) : (s.setOp o).fwReply = s.fwReply := rfl
@[simp] theorem State.setOp_fwEvent (s : State) (o : Op) : (s.setOp o).fwEvent = s.fwEvent := rfl
@[simp] theorem State.setOp_fwEvents (s : State) (o : Op) : (s.setOp o).fwEvents = s.fwEvents := rfl
@[simp] theorem State.setOp_fwReplies (s : State) (o : Op) : (s.setOp o).fwReplies = s.fwReplies := rfl
@[simp] theorem State.setOp_migrates (s : State) (o : Op) : (s.setOp o).migrates = s.migrates := rfl
@[simp] theorem State.setOp_posted (s : State) (o : Op) : (s.setOp o).posted = s.posted := rfl
@[simp] theorem State.setOp_nextTag (s : State) (o : Op) : (s.setOp o).nextTag = s.nextTag := rfl
@[simp] theorem State.setOp_dropped (s : State) (o : Op) : (s.setOp o).dropped = s.dropped := rfl
@[simp] theorem State.setOp_hostDropped (s : State) (o : Op) : (s.setOp o).hostDropped = s.hostDropped := rfl
@[simp] theorem State.setOp_hostOut (s : State) (o : Op) : (s.setOp o).hostOut = s.hostOut := rfl
@[simp] theorem State.setOp_tetherOut (s : State) (o : Op) : (s.setOp o).tetherOut = s.tetherOut := rfl
@[simp] theorem State.setOp_routes (s : State) (o : Op) : (s.setOp o).routes = s.routes := rfl
@[simp] theorem State.setOp_devid (s : State) (o : Op) : (s.setOp o).devid = s.devid := rfl
@[simp] theorem State.setOp_routeLocked (s : State) (o : Op) : (s.setOp o).routeLocked = s.routeLocked := rfl
@[simp] theorem State.setOp_deadLinks (s : State) (o : Op) : (s.setOp o).deadLinks = s.deadLinks := rfl
@[simp] theorem State.setOp_flash (s : State) (o : Op) : (s.setOp o).flash = s.flash := rfl
@[simp] theorem State.setOp_image (s : State) (o : Op) : (s.setOp o).image = s.image := rfl
@[simp] theorem State.setOp_offered (s : State) (o : Op) : (s.setOp o).offered = s.offered := rfl
@[simp] theorem State.setOp_group? (s : State) (o : Op) (j : Nat) : (s.setOp o).group? j = s.group? j := rfl
@[simp] theorem State.setOp_team? (s : State) (o : Op) (j : Nat) : (s.setOp o).team? j = s.team? j := rfl
@[simp] theorem State.setOp_launch? (s : State) (o : Op) (j : Nat) : (s.setOp o).launch? j = s.launch? j := rfl
@[simp] theorem State.setOp_context? (s : State) (o : Op) (j : Nat) : (s.setOp o).context? j = s.context? j := rfl

/-! ## dropOp -/

@[simp] theorem State.dropOp_clk (s : State) (k : Nat) : (s.dropOp k).clk = s.clk := rfl
@[simp] theorem State.dropOp_time (s : State) (k : Nat) : (s.dropOp k).time = s.time := rfl
@[simp] theorem State.dropOp_edge (s : State) (k : Nat) : (s.dropOp k).edge = s.edge := rfl
@[simp] theorem State.dropOp_fullLive (s : State) (k : Nat) : (s.dropOp k).fullLive = s.fullLive := rfl
@[simp] theorem State.dropOp_clocks (s : State) (k : Nat) : (s.dropOp k).clocks = s.clocks := rfl
@[simp] theorem State.dropOp_fresh (s : State) (k : Nat) : (s.dropOp k).fresh = s.fresh := rfl
@[simp] theorem State.dropOp_nextId (s : State) (k : Nat) : (s.dropOp k).nextId = s.nextId := rfl
@[simp] theorem State.dropOp_cur (s : State) (k : Nat) : (s.dropOp k).cur = s.cur := rfl
@[simp] theorem State.dropOp_agenda (s : State) (k : Nat) : (s.dropOp k).agenda = s.agenda := rfl
@[simp] theorem State.dropOp_turn (s : State) (k : Nat) : (s.dropOp k).turn = s.turn := rfl
@[simp] theorem State.dropOp_picks (s : State) (k : Nat) : (s.dropOp k).picks = s.picks := rfl
@[simp] theorem State.dropOp_reelLast (s : State) (k : Nat) : (s.dropOp k).reelLast = s.reelLast := rfl
@[simp] theorem State.dropOp_grade (s : State) (k : Nat) : (s.dropOp k).grade = s.grade := rfl
@[simp] theorem State.dropOp_coreMask (s : State) (k : Nat) : (s.dropOp k).coreMask = s.coreMask := rfl
@[simp] theorem State.dropOp_stage (s : State) (k : Nat) : (s.dropOp k).stage = s.stage := rfl
@[simp] theorem State.dropOp_fail (s : State) (k : Nat) : (s.dropOp k).fail = s.fail := rfl
@[simp] theorem State.dropOp_tjmin (s : State) (k : Nat) : (s.dropOp k).tjmin = s.tjmin := rfl
@[simp] theorem State.dropOp_stopped (s : State) (k : Nat) : (s.dropOp k).stopped = s.stopped := rfl
@[simp] theorem State.dropOp_groups (s : State) (k : Nat) : (s.dropOp k).groups = s.groups := rfl
@[simp] theorem State.dropOp_teams (s : State) (k : Nat) : (s.dropOp k).teams = s.teams := rfl
@[simp] theorem State.dropOp_launches (s : State) (k : Nat) : (s.dropOp k).launches = s.launches := rfl
@[simp] theorem State.dropOp_contexts (s : State) (k : Nat) : (s.dropOp k).contexts = s.contexts := rfl
@[simp] theorem State.dropOp_parts (s : State) (k : Nat) : (s.dropOp k).parts = s.parts := rfl
@[simp] theorem State.dropOp_ops (s : State) (k : Nat) : (s.dropOp k).ops = s.ops.filter fun x => x.uid != k := rfl
@[simp] theorem State.dropOp_threads (s : State) (k : Nat) : (s.dropOp k).threads = s.threads := rfl
@[simp] theorem State.dropOp_reels (s : State) (k : Nat) : (s.dropOp k).reels = s.reels := rfl
@[simp] theorem State.dropOp_remotes (s : State) (k : Nat) : (s.dropOp k).remotes = s.remotes := rfl
@[simp] theorem State.dropOp_inbound (s : State) (k : Nat) : (s.dropOp k).inbound = s.inbound := rfl
@[simp] theorem State.dropOp_colls (s : State) (k : Nat) : (s.dropOp k).colls = s.colls := rfl
@[simp] theorem State.dropOp_collSeq (s : State) (k : Nat) : (s.dropOp k).collSeq = s.collSeq := rfl
@[simp] theorem State.dropOp_held (s : State) (k : Nat) : (s.dropOp k).held = s.held := rfl
@[simp] theorem State.dropOp_ready (s : State) (k : Nat) : (s.dropOp k).ready = s.ready := rfl
@[simp] theorem State.dropOp_reservedFor (s : State) (k : Nat) : (s.dropOp k).reservedFor = s.reservedFor := rfl
@[simp] theorem State.dropOp_vigil (s : State) (k : Nat) : (s.dropOp k).vigil = s.vigil := rfl
@[simp] theorem State.dropOp_saved (s : State) (k : Nat) : (s.dropOp k).saved = s.saved := rfl
@[simp] theorem State.dropOp_nextAge (s : State) (k : Nat) : (s.dropOp k).nextAge = s.nextAge := rfl
@[simp] theorem State.dropOp_spilled (s : State) (k : Nat) : (s.dropOp k).spilled = s.spilled := rfl
@[simp] theorem State.dropOp_watch (s : State) (k : Nat) : (s.dropOp k).watch = s.watch := rfl
@[simp] theorem State.dropOp_dram (s : State) (k : Nat) : (s.dropOp k).dram = s.dram := rfl
@[simp] theorem State.dropOp_scratch (s : State) (k : Nat) : (s.dropOp k).scratch = s.scratch := rfl
@[simp] theorem State.dropOp_pool (s : State) (k : Nat) : (s.dropOp k).pool = s.pool := rfl
@[simp] theorem State.dropOp_poisonLines (s : State) (k : Nat) : (s.dropOp k).poisonLines = s.poisonLines := rfl
@[simp] theorem State.dropOp_poisonWords (s : State) (k : Nat) : (s.dropOp k).poisonWords = s.poisonWords := rfl
@[simp] theorem State.dropOp_corrected (s : State) (k : Nat) : (s.dropOp k).corrected = s.corrected := rfl
@[simp] theorem State.dropOp_capList (s : State) (k : Nat) : (s.dropOp k).capList = s.capList := rfl
@[simp] theorem State.dropOp_leases (s : State) (k : Nat) : (s.dropOp k).leases = s.leases := rfl
@[simp] theorem State.dropOp_homes (s : State) (k : Nat) : (s.dropOp k).homes = s.homes := rfl
@[simp] theorem State.dropOp_pins (s : State) (k : Nat) : (s.dropOp k).pins = s.pins := rfl
@[simp] theorem State.dropOp_copies (s : State) (k : Nat) : (s.dropOp k).copies = s.copies := rfl
@[simp] theorem State.dropOp_partials (s : State) (k : Nat) : (s.dropOp k).partials = s.partials := rfl
@[simp] theorem State.dropOp_tlb (s : State) (k : Nat) : (s.dropOp k).tlb = s.tlb := rfl
@[simp] theorem State.dropOp_icache (s : State) (k : Nat) : (s.dropOp k).icache = s.icache := rfl
@[simp] theorem State.dropOp_splits (s : State) (k : Nat) : (s.dropOp k).splits = s.splits := rfl
@[simp] theorem State.dropOp_splitWanted (s : State) (k : Nat) : (s.dropOp k).splitWanted = s.splitWanted := rfl
@[simp] theorem State.dropOp_lastTick (s : State) (k : Nat) : (s.dropOp k).lastTick = s.lastTick := rfl
@[simp] theorem State.dropOp_meters (s : State) (k : Nat) : (s.dropOp k).meters = s.meters := rfl
@[simp] theorem State.dropOp_banks (s : State) (k : Nat) : (s.dropOp k).banks = s.banks := rfl
@[simp] theorem State.dropOp_maint (s : State) (k : Nat) : (s.dropOp k).maint = s.maint := rfl
@[simp] theorem State.dropOp_breaks (s : State) (k : Nat) : (s.dropOp k).breaks = s.breaks := rfl
@[simp] theorem State.dropOp_lantern (s : State) (k : Nat) : (s.dropOp k).lantern = s.lantern := rfl
@[simp] theorem State.dropOp_hostWins (s : State) (k : Nat) : (s.dropOp k).hostWins = s.hostWins := rfl
@[simp] theorem State.dropOp_hostHorizon (s : State) (k : Nat) : (s.dropOp k).hostHorizon = s.hostHorizon := rfl
@[simp] theorem State.dropOp_doorbells (s : State) (k : Nat) : (s.dropOp k).doorbells = s.doorbells := rfl
@[simp] theorem State.dropOp_hostWait (s : State) (k : Nat) : (s.dropOp k).hostWait = s.hostWait := rfl
@[simp] theorem State.dropOp_fwRequest (s : State) (k : Nat) : (s.dropOp k).fwRequest = s.fwRequest := rfl
@[simp] theorem State.dropOp_fwReply (s : State) (k : Nat) : (s.dropOp k).fwReply = s.fwReply := rfl
@[simp] theorem State.dropOp_fwEvent (s : State) (k : Nat) : (s.dropOp k).fwEvent = s.fwEvent := rfl
@[simp] theorem State.dropOp_fwEvents (s : State) (k : Nat) : (s.dropOp k).fwEvents = s.fwEvents := rfl
@[simp] theorem State.dropOp_fwReplies (s : State) (k : Nat) : (s.dropOp k).fwReplies = s.fwReplies := rfl
@[simp] theorem State.dropOp_migrates (s : State) (k : Nat) : (s.dropOp k).migrates = s.migrates := rfl
@[simp] theorem State.dropOp_posted (s : State) (k : Nat) : (s.dropOp k).posted = s.posted := rfl
@[simp] theorem State.dropOp_nextTag (s : State) (k : Nat) : (s.dropOp k).nextTag = s.nextTag := rfl
@[simp] theorem State.dropOp_dropped (s : State) (k : Nat) : (s.dropOp k).dropped = s.dropped := rfl
@[simp] theorem State.dropOp_hostDropped (s : State) (k : Nat) : (s.dropOp k).hostDropped = s.hostDropped := rfl
@[simp] theorem State.dropOp_hostOut (s : State) (k : Nat) : (s.dropOp k).hostOut = s.hostOut := rfl
@[simp] theorem State.dropOp_tetherOut (s : State) (k : Nat) : (s.dropOp k).tetherOut = s.tetherOut := rfl
@[simp] theorem State.dropOp_routes (s : State) (k : Nat) : (s.dropOp k).routes = s.routes := rfl
@[simp] theorem State.dropOp_devid (s : State) (k : Nat) : (s.dropOp k).devid = s.devid := rfl
@[simp] theorem State.dropOp_routeLocked (s : State) (k : Nat) : (s.dropOp k).routeLocked = s.routeLocked := rfl
@[simp] theorem State.dropOp_deadLinks (s : State) (k : Nat) : (s.dropOp k).deadLinks = s.deadLinks := rfl
@[simp] theorem State.dropOp_flash (s : State) (k : Nat) : (s.dropOp k).flash = s.flash := rfl
@[simp] theorem State.dropOp_image (s : State) (k : Nat) : (s.dropOp k).image = s.image := rfl
@[simp] theorem State.dropOp_offered (s : State) (k : Nat) : (s.dropOp k).offered = s.offered := rfl
@[simp] theorem State.dropOp_group? (s : State) (k : Nat) (j : Nat) : (s.dropOp k).group? j = s.group? j := rfl
@[simp] theorem State.dropOp_team? (s : State) (k : Nat) (j : Nat) : (s.dropOp k).team? j = s.team? j := rfl
@[simp] theorem State.dropOp_launch? (s : State) (k : Nat) (j : Nat) : (s.dropOp k).launch? j = s.launch? j := rfl
@[simp] theorem State.dropOp_context? (s : State) (k : Nat) (j : Nat) : (s.dropOp k).context? j = s.context? j := rfl

/-! ## A group's bank -/

@[simp] theorem Group.setBk_bk (g : Group) (b : Bank) : (g.setBk b).bk = b := by
  unfold Group.setBk Group.bk
  cases g.hand <;> rfl

@[simp] theorem Group.bk_of_none {g : Group} (h : g.hand = none) : g.bk = g.bank := by rw [Group.bk, h]
@[simp] theorem Group.setBk_bank_of_none {g : Group} (b : Bank) (h : g.hand = none) : (g.setBk b).bank = b := by rw [Group.setBk, h]

@[simp] theorem Group.setBk_hand_isSome (g : Group) (b : Bank) : (g.setBk b).hand.isSome = g.hand.isSome := by
  unfold Group.setBk
  cases g.hand <;> simp

@[simp] theorem Group.setBk_uid (g : Group) (b : Bank) : (g.setBk b).uid = g.uid := by unfold Group.setBk; split <;> rfl
@[simp] theorem Group.setBk_team (g : Group) (b : Bank) : (g.setBk b).team = g.team := by unfold Group.setBk; split <;> rfl
@[simp] theorem Group.setBk_idx (g : Group) (b : Bank) : (g.setBk b).idx = g.idx := by unfold Group.setBk; split <;> rfl
@[simp] theorem Group.setBk_core (g : Group) (b : Bank) : (g.setBk b).core = g.core := by unfold Group.setBk; split <;> rfl
@[simp] theorem Group.setBk_part (g : Group) (b : Bank) : (g.setBk b).part = g.part := by unfold Group.setBk; split <;> rfl
@[simp] theorem Group.setBk_prio (g : Group) (b : Bank) : (g.setBk b).prio = g.prio := by unfold Group.setBk; split <;> rfl
@[simp] theorem Group.setBk_dslots (g : Group) (b : Bank) : (g.setBk b).dslots = g.dslots := by unfold Group.setBk; split <;> rfl
@[simp] theorem Group.setBk_width (g : Group) (b : Bank) : (g.setBk b).width = g.width := by unfold Group.setBk; split <;> rfl
@[simp] theorem Group.setBk_place (g : Group) (b : Bank) : (g.setBk b).place = g.place := by unfold Group.setBk; split <;> rfl
@[simp] theorem Group.setBk_dfile (g : Group) (b : Bank) : (g.setBk b).dfile = g.dfile := by unfold Group.setBk; split <;> rfl
@[simp] theorem Group.setBk_smerge (g : Group) (b : Bank) : (g.setBk b).smerge = g.smerge := by unfold Group.setBk; split <;> rfl
@[simp] theorem Group.setBk_epoch (g : Group) (b : Bank) : (g.setBk b).epoch = g.epoch := by unfold Group.setBk; split <;> rfl
@[simp] theorem Group.setBk_handSerial (g : Group) (b : Bank) : (g.setBk b).handSerial = g.handSerial := by unfold Group.setBk; split <;> rfl
@[simp] theorem Group.setBk_mapstat (g : Group) (b : Bank) : (g.setBk b).mapstat = g.mapstat := by unfold Group.setBk; split <;> rfl
@[simp] theorem Group.setBk_cb (g : Group) (b : Bank) : (g.setBk b).cb = g.cb := by unfold Group.setBk; split <;> rfl
@[simp] theorem Group.setBk_gathered (g : Group) (b : Bank) : (g.setBk b).gathered = g.gathered := by unfold Group.setBk; split <;> rfl
@[simp] theorem Group.setBk_horizon (g : Group) (b : Bank) : (g.setBk b).horizon = g.horizon := by unfold Group.setBk; split <;> rfl
@[simp] theorem Group.setBk_acquire (g : Group) (b : Bank) : (g.setBk b).acquire = g.acquire := by unfold Group.setBk; split <;> rfl
@[simp] theorem Group.setBk_nflags (g : Group) (b : Bank) : (g.setBk b).nflags = g.nflags := by unfold Group.setBk; split <;> rfl
@[simp] theorem Group.setBk_depth (g : Group) (b : Bank) : (g.setBk b).depth = g.depth := by unfold Group.setBk; split <;> rfl
@[simp] theorem Group.setBk_pushed (g : Group) (b : Bank) : (g.setBk b).pushed = g.pushed := by unfold Group.setBk; split <;> rfl
@[simp] theorem Group.setBk_strand (g : Group) (b : Bank) : (g.setBk b).strand = g.strand := by unfold Group.setBk; split <;> rfl
@[simp] theorem Group.setBk_deliveries (g : Group) (b : Bank) : (g.setBk b).deliveries = g.deliveries := by unfold Group.setBk; split <;> rfl
@[simp] theorem Group.setBk_frq (g : Group) (b : Bank) : (g.setBk b).frq = g.frq := by unfold Group.setBk; split <;> rfl
@[simp] theorem Group.setBk_request (g : Group) (b : Bank) : (g.setBk b).request = g.request := by unfold Group.setBk; split <;> rfl
@[simp] theorem Group.setBk_hold (g : Group) (b : Bank) : (g.setBk b).hold = g.hold := by unfold Group.setBk; split <;> rfl
@[simp] theorem Group.setBk_debug (g : Group) (b : Bank) : (g.setBk b).debug = g.debug := by unfold Group.setBk; split <;> rfl
@[simp] theorem Group.setBk_trapped (g : Group) (b : Bank) : (g.setBk b).trapped = g.trapped := by unfold Group.setBk; split <;> rfl
@[simp] theorem Group.setBk_late (g : Group) (b : Bank) : (g.setBk b).late = g.late := by unfold Group.setBk; split <;> rfl
@[simp] theorem Group.setBk_laneBase (g : Group) (b : Bank) : (g.setBk b).laneBase = g.laneBase := by unfold Group.setBk; split <;> rfl
@[simp] theorem Group.setBk_cols (g : Group) (b : Bank) : (g.setBk b).cols = g.cols := by unfold Group.setBk; split <;> rfl
@[simp] theorem Group.setBk_byEndg (g : Group) (b : Bank) : (g.setBk b).byEndg = g.byEndg := by unfold Group.setBk; split <;> rfl
@[simp] theorem Group.setBk_barrier (g : Group) (b : Bank) : (g.setBk b).barrier = g.barrier := by unfold Group.setBk; split <;> rfl
@[simp] theorem Group.setBk_alive (g : Group) (b : Bank) : (g.setBk b).alive = g.alive := by unfold Group.setBk; split <;> rfl
@[simp] theorem Group.setBk_unwinding (g : Group) (b : Bank) : (g.setBk b).unwinding = g.unwinding := by unfold Group.setBk; split <;> rfl
@[simp] theorem Group.setBk_leaving (g : Group) (b : Bank) : (g.setBk b).leaving = g.leaving := by unfold Group.setBk; split <;> rfl
@[simp] theorem Group.setBk_restored (g : Group) (b : Bank) : (g.setBk b).restored = g.restored := by unfold Group.setBk; split <;> rfl
@[simp] theorem Group.setBk_savedAt (g : Group) (b : Bank) : (g.setBk b).savedAt = g.savedAt := by unfold Group.setBk; split <;> rfl
@[simp] theorem Group.setBk_saveOff (g : Group) (b : Bank) : (g.setBk b).saveOff = g.saveOff := by unfold Group.setBk; split <;> rfl
@[simp] theorem Group.setBk_kept (g : Group) (b : Bank) : (g.setBk b).kept = g.kept := by unfold Group.setBk; split <;> rfl
@[simp] theorem Group.setBk_keptBad (g : Group) (b : Bank) : (g.setBk b).keptBad = g.keptBad := by unfold Group.setBk; split <;> rfl
@[simp] theorem Group.setBk_saveBad (g : Group) (b : Bank) : (g.setBk b).saveBad = g.saveBad := by unfold Group.setBk; split <;> rfl

end Sys2Proof.Machine
end

