-- ==== Sys2Proof/Laws/Issue.lean ====
section
/-! SUPPORT. What an issue can do, said once: when it waits, traps or takes effect, what its shared effects leave as it is, and that the
invariant survives the updates of which they are made. -/

namespace Sys2Proof.Machine

/-! ## Issue -/

/-- An instruction that issues has its own effect, or the trap that this effect raises. -/
theorem issue_eq {i : Instr} {s : State} {x : Issue} {t : State} (h : Issues s i x t) (k : Issue → State → Except Trap State) :
    issue i s k = match k x t with | .ok u => .next u | .error e => .next (s.trapOf i x e) := by
  rw [h.taken]
  cases hk : k x ((s.noted i).took x) <;>
    simp only [issue, State.trapOf, h.begins, h.ready, h.within, h.legal, h.queued, hk, Bool.not_true, Bool.false_eq_true, if_false]

/-- An instruction that may not issue changes nothing. -/
theorem issue_waits {i : Instr} {s : State} {x : Issue} {t : State} (h : s.begin i = some (x, t)) (hw : s.mayIssue x = false)
    (k : Issue → State → Except Trap State) : issue i s k = .next s := by
  simp only [issue, h, hw, Bool.not_false, if_true]

/-- A check at issue that fails is the trap alone. -/
theorem issue_traps {i : Instr} {s : State} {x : Issue} {t : State} {e : Trap} (h : s.begin i = some (x, t)) (hr : s.mayIssue x = true)
    (ho : s.overrunDue x = false) (hc : t.issueCheck x = some e) (k : Issue → State → Except Trap State) :
    issue i s k = .next (t.trapAt x e) := by
  simp only [issue, h, hr, ho, hc, Bool.not_true, Bool.false_eq_true, if_false]

/-- STRAND_OVERRUN comes instead of the instruction. -/
theorem issue_overruns {i : Instr} {s : State} {x : Issue} {t : State} (h : s.begin i = some (x, t)) (hr : s.mayIssue x = true)
    (ho : s.overrunDue x = true) (k k' : Issue → State → Except Trap State) : issue i s k = issue i s k' := by
  simp only [issue, h, hr, ho, Bool.not_true, Bool.false_eq_true, if_false, if_true]

/-- Every way in which an issue goes on: it waits, it overruns its strand, a check or its queue traps, its effect traps, or the effect. -/
theorem issue_cases {i : Instr} {s u : State} {k : Issue → State → Except Trap State} (h : issue i s k = .next u) :
    ∃ x t, s.begin i = some (x, t) ∧
      ((s.mayIssue x = false ∧ u = s) ∨
        (s.mayIssue x = true ∧ s.overrunDue x = true ∧
          u = (t.modGroup x.g.uid fun g => { g with strand := { g.strand with overrun := true } }).trapNow x (x.trap tcOverrun)) ∨
        (s.mayIssue x = true ∧ s.overrunDue x = false ∧
          ((∃ e, (t.issueCheck x = some e ∨ (t.issueCheck x = none ∧ t.queueTrap x = some e) ∨
              (t.issueCheck x = none ∧ t.queueTrap x = none ∧ k x (t.took x) = .error e)) ∧ u = t.trapAt x e) ∨
            (t.issueCheck x = none ∧ t.queueTrap x = none ∧ k x (t.took x) = .ok u)))) := by
  unfold issue at h
  split at h
  · cases h
  · next x t hb =>
    refine ⟨x, t, hb, ?_⟩
    split at h
    · next hm => cases h; exact .inl ⟨by simpa using hm, rfl⟩
    · next hm =>
      have hm : s.mayIssue x = true := by simpa using hm
      split at h
      · next ho => cases h; exact .inr (.inl ⟨hm, ho, rfl⟩)
      · next ho =>
        have ho : s.overrunDue x = false := by simpa using ho
        refine .inr (.inr ⟨hm, ho, ?_⟩)
        split at h
        · next e hc => cases h; exact .inl ⟨e, .inl hc, rfl⟩
        · next hc =>
          split at h
          · next e hq => cases h; exact .inl ⟨e, .inr (.inl ⟨hc, hq⟩), rfl⟩
          · next hq =>
            split at h
            · next v hk => cases h; exact .inr ⟨hc, hq, hk⟩
            · next e hk => cases h; exact .inl ⟨e, .inr (.inr ⟨hc, hq, hk⟩), rfl⟩

/-- An issue ends in a next state wherever the state names an issuing split. -/
theorem issue_goesOn {i : Instr} {s : State} (k : Issue → State → Except Trap State) (h : (s.begin i).isSome = true) :
    ∃ u, issue i s k = .next u := by
  unfold issue
  split
  · next hn => simp [hn] at h
  · split
    · exact ⟨_, rfl⟩
    · split
      · exact ⟨_, rfl⟩
      · split
        · exact ⟨_, rfl⟩
        · split
          · exact ⟨_, rfl⟩
          · split <;> exact ⟨_, rfl⟩

/-! ## What the shared effects change -/

/-- Noting an issue changes the issuing group and its partition alone. -/
theorem State.noteIssue_eq (s : State) (g : Group) (sp : Split) (p : Port) (occ : Nat) :
    ∃ gs ps, s.noteIssue g sp p occ = { s with groups := gs, parts := ps } := ⟨_, _, rfl⟩

/-- A meter that counts changes the meters alone. -/
theorem State.meter_eq (s : State) (place team : Nat) (kind : Metered) (n : Nat) :
    ∃ ms, s.meter place team kind n = { s with meters := ms } := by
  unfold State.meter
  split
  · exact ⟨s.meters, rfl⟩
  · dsimp only
    split
    · exact ⟨_, rfl⟩
    · exact ⟨_, rfl⟩

/-- Taking an instruction changes groups, its partition and the meters alone. -/
theorem State.took_eq (s : State) (x : Issue) : ∃ gs ps ms, s.took x = { s with groups := gs, parts := ps, meters := ms } := by
  have hp : ∃ ps, s.unmark x = { s with parts := ps } := by
    unfold State.unmark
    split
    · exact ⟨_, rfl⟩
    · exact ⟨s.parts, rfl⟩
  obtain ⟨ps, hp⟩ := hp
  obtain ⟨ms, hm⟩ := State.meter_eq { s with parts := ps } x.g.core x.g.team .laneOp x.laneOps
  unfold State.took
  rw [hp, hm]
  exact ⟨_, ps, ms, rfl⟩

/-- What beginning an issue answers: the instruction with the issuer that State names, and the device with the issue noted. -/
theorem State.begin_spec {s : State} {i : Instr} {x : Issue} {t : State} (h : s.begin i = some (x, t)) :
    ∃ uid split g sp occ port, s.cur = .group uid split x.pc x.len ∧ i.ctl = some x.c ∧ x.i = i ∧
      s.group? uid = some g ∧ g.bk.split? split = some sp ∧ t.group? uid = some x.g ∧ x.g.bk.split? split = some x.sp ∧
      t = { s.noteIssue g sp port occ with fresh := s.fresh + 1 } := by
  unfold State.begin at h
  split at h
  · next uid split pc len c hc hi =>
    split at h
    · cases h
    · next g hg =>
      split at h
      · cases h
      · next sp hsp =>
        dsimp only at h
        split at h
        · cases h
        · next g' hg' =>
          split at h
          · cases h
          · next sp' hs => cases h; exact ⟨uid, split, g, sp, _, _, hc, hi, rfl, hg, hsp, hg', hs, rfl⟩
  · cases h

/-- The state after an issue is noted: groups and partitions apart, it is the state before with one more open value used. -/
theorem State.begin_eq {s : State} {i : Instr} {x : Issue} {t : State} (h : s.begin i = some (x, t)) :
    ∃ gs ps, t = { s with groups := gs, parts := ps, fresh := s.fresh + 1 } := by
  obtain ⟨_, _, _, _, _, _, -, -, -, -, -, -, -, rfl⟩ := State.begin_spec h
  exact ⟨_, _, rfl⟩

/-- Beginning an issue answers the noted device. -/
theorem State.begin_noted {s : State} {i : Instr} {x : Issue} {t : State} (h : s.begin i = some (x, t)) : t = s.noted i := by
  simp only [State.noted, h]

/-- The device that an instruction's effect acts on: groups, partitions and meters apart, the device with one more open value used. -/
theorem Issues.taken_eq {s : State} {i : Instr} {x : Issue} {t : State} (h : Issues s i x t) :
    ∃ gs ps ms, t = { s with groups := gs, parts := ps, meters := ms, fresh := s.fresh + 1 } := by
  obtain ⟨gs, ps, hn⟩ := State.begin_eq h.begins
  obtain ⟨gs', ps', ms, ht⟩ := State.took_eq (s.noted i) x
  exact ⟨gs', ps', ms, by rw [h.taken, ht, hn]⟩

/-- A queue operand at issue changes its team alone. -/
theorem State.queueIssue_eq (s : State) (x : Issue) (uid : Nat) : ∃ ts, s.queueIssue x uid = { s with teams := ts } := by
  unfold State.queueIssue
  split
  · exact ⟨s.teams, rfl⟩
  · split
    · exact ⟨s.teams, rfl⟩
    · exact ⟨_, rfl⟩

/-- An effect at issue changes groups and teams alone. -/
theorem State.commit_eq (s : State) (x : Issue) (uid : Nat) : ∃ gs ts, s.commit x uid = { s with groups := gs, teams := ts } := by
  obtain ⟨ts, h⟩ := s.queueIssue_eq x uid
  exact ⟨_, ts, by rw [State.commit, h]; rfl⟩

/-- An instruction that completes at issue changes groups and teams alone. -/
theorem State.finish_eq (s : State) (x : Issue) : ∃ gs ts, s.finish x = { s with groups := gs, teams := ts } := s.commit_eq x 0

/-- An instruction that stays outstanding adds one operation under a new identifier, and changes groups and teams beside it. -/
theorem State.start_eq (s : State) (x : Issue) (f : Op → Op) :
    ∃ gs ts, s.start x f =
      { s with groups := gs, teams := ts, nextId := s.nextId + 1, ops := s.ops ++ [f (x.op s.nextId)] } := by
  obtain ⟨gs, ts, h⟩ := State.commit_eq { s with nextId := s.nextId + 1 } x s.nextId
  exact ⟨_, ts, by simp only [State.start]; rw [h]; rfl⟩

/-- One that may still trap leaves teams alone too. -/
theorem State.startHeld_eq (s : State) (x : Issue) (f : Op → Op) :
    ∃ gs, s.startHeld x f = { s with groups := gs, nextId := s.nextId + 1, ops := s.ops ++ [f (x.op s.nextId)] } := ⟨_, rfl⟩

/-- New clk of completion change that of operations alone. -/
theorem State.setDues_eq (s : State) (p : Nat → Bool) :
    ∃ f : Op → Option Nat, s.setDues p = { s with ops := s.ops.map fun (o : Op) => { o with due := f o } } := by
  refine ⟨fun o => if p o.uid then s.bankDue o.uid <|> o.due else o.due, ?_⟩
  have (o : Op) : (if p o.uid then { o with due := s.bankDue o.uid <|> o.due } else o) =
      { o with due := if p o.uid then s.bankDue o.uid <|> o.due else o.due } := by split <;> rfl
  simp only [State.setDues, this]

/-- Requests that come to banks change the banks alone. -/
theorem State.putReqs_eq (g : State → BankAsk → BankReq) (as : List BankAsk) (s : State) :
    ∃ bs, as.foldl (fun u a => u.putReq a.bank (g u a)) s = { s with banks := bs } := by
  induction as generalizing s with
  | nil => exact ⟨s.banks, rfl⟩
  | cons a as ih => exact ih (s.putReq a.bank (g s a))

/-- An access that asks the banks changes their requests, and of the operations only the clk at which each is due. -/
theorem State.askBanks_eq (s : State) (uid : Nat) (as : List BankAsk) :
    ∃ bs, ∃ f : Op → Option Nat,
      s.askBanks uid as = { s with banks := bs, ops := s.ops.map fun (o : Op) => { o with due := f o } } := by
  unfold State.askBanks
  dsimp only
  obtain ⟨bs, hb⟩ := State.putReqs_eq _ as s
  rw [hb]
  obtain ⟨f, hf⟩ := State.setDues_eq { s with banks := bs } _
  exact ⟨bs, f, hf⟩

/-- A result completes at issue or is added as one operation, which asks the bank of a ring word where it has a queue operand. -/
theorem State.result_eq (s : State) (x : Issue) (lat : Nat) (f : Nat → Res) (carry : Option (Nat × (Nat → Bool))) :
    s.result x lat f carry = s.finish x ∨
      ∃ h, s.result x lat f carry = s.start x h ∨ s.result x lat f carry = (s.start x h).askBanks s.nextId (s.ringAsks x) := by
  unfold State.result
  dsimp only
  split
  · exact .inl rfl
  · split
    · exact .inr ⟨_, .inr rfl⟩
    · exact .inr ⟨_, .inl rfl⟩

/-! ## Landing -/

/-- A result that lands changes the operation's group and the team's register writes, and marks later operations. -/
theorem State.landResult_eq (s : State) (o : Op) :
    ∃ gs ts os fr, s.landResult o = { s with groups := gs, teams := ts, ops := os, fresh := fr } := by
  have either (c : Prop) [Decidable c] (a b : State)
      (ha : ∃ gs ts os fr, a = { s with groups := gs, teams := ts, ops := os, fresh := fr })
      (hb : ∃ gs ts os fr, b = { s with groups := gs, teams := ts, ops := os, fresh := fr }) :
      ∃ gs ts os fr, (if c then a else b) = { s with groups := gs, teams := ts, ops := os, fresh := fr } := by
    split <;> assumption
  unfold State.landResult
  split
  · exact either _ _ _ ⟨_, _, _, _, rfl⟩ ⟨_, s.teams, _, _, rfl⟩
  · exact ⟨s.groups, s.teams, s.ops, s.fresh, rfl⟩

/-! ## Bytes -/

theorem SameBytes.refl (s : State) : SameBytes s s := fun _ => ⟨rfl, rfl, rfl⟩

theorem SameBytes.trans {s t u : State} (h : SameBytes s t) (k : SameBytes t u) : SameBytes s u := fun a =>
  ⟨(k a).1.trans (h a).1, (k a).2.1.trans (h a).2.1, (k a).2.2.trans (h a).2.2⟩

/-- Memories that are the same read the same. -/
theorem SameBytes.of_eq {s u : State} (hd : u.dram = s.dram) (hs : u.scratch = s.scratch) (hp : u.pool = s.pool) : SameBytes s u :=
  fun a => by rw [hd, hs, hp]; exact ⟨rfl, rfl, rfl⟩

theorem State.begin_sameBytes {s : State} {i : Instr} {x : Issue} {t : State} (h : s.begin i = some (x, t)) : SameBytes s t := by
  obtain ⟨gs, ps, rfl⟩ := State.begin_eq h
  exact .refl s

theorem Issues.sameBytes {s : State} {i : Instr} {x : Issue} {t : State} (h : Issues s i x t) : SameBytes s t := by
  obtain ⟨_, _, _, rfl⟩ := h.taken_eq
  exact .refl s

theorem State.finish_sameBytes (s : State) (x : Issue) : SameBytes s (s.finish x) := by
  obtain ⟨gs, ts, h⟩ := s.finish_eq x
  rw [h]; exact .refl s

theorem State.start_sameBytes (s : State) (x : Issue) (f : Op → Op) : SameBytes s (s.start x f) := by
  obtain ⟨gs, ts, h⟩ := s.start_eq x f
  rw [h]; exact .refl s

theorem State.askBanks_sameBytes (s : State) (uid : Nat) (as : List BankAsk) : SameBytes s (s.askBanks uid as) := by
  obtain ⟨bs, f, h⟩ := s.askBanks_eq uid as
  rw [h]; exact .refl s

theorem State.result_sameBytes (s : State) (x : Issue) (lat : Nat) (f : Nat → Res) (carry : Option (Nat × (Nat → Bool))) :
    SameBytes s (s.result x lat f carry) := by
  rcases s.result_eq x lat f carry with h | ⟨g, h | h⟩ <;> rw [h]
  · exact s.finish_sameBytes x
  · exact s.start_sameBytes x g
  · exact (s.start_sameBytes x g).trans (State.askBanks_sameBytes _ _ _)

theorem State.landResult_sameBytes (s : State) (o : Op) : SameBytes s (s.landResult o) := by
  obtain ⟨gs, ts, os, fr, h⟩ := s.landResult_eq o
  rw [h]; exact .refl s

/-! ## The tables' identifiers -/

theorem keyed_iff {α : Type} {id : α → Nat} {t : Tab α} : keyed id t = true ↔ ∀ e ∈ t, id e.2 = e.1 := by
  simp [keyed, List.all_eq_true]

theorem keyed_tabSet {α : Type} {id : α → Nat} {t : Tab α} {k : Nat} {v : α} (h : keyed id t = true) (hv : id v = k) :
    keyed id (tabSet t k v) = true := by
  rw [keyed_iff] at h ⊢
  intro e he
  rcases mem_tabSet.mp he with rfl | ⟨he, -⟩
  · exact hv
  · exact h e he

theorem keyed_tabErase {α : Type} {id : α → Nat} {t : Tab α} {k : Nat} (h : keyed id t = true) : keyed id (tabErase t k) = true := by
  rw [keyed_iff] at h ⊢
  intro e he
  exact h e (List.mem_filter.mp he).1

theorem keyed_tabMod {α : Type} {id : α → Nat} {t : Tab α} {k : Nat} {f : α → α} (h : keyed id t = true) (hf : ∀ v, id (f v) = id v) :
    keyed id (tabMod t k f) = true := by
  rw [keyed_iff] at h ⊢
  intro e he
  obtain ⟨a, ha, rfl⟩ := List.mem_map.mp he
  have := h a ha
  by_cases hk : a.1 = k <;> simp_all

/-- A record that a table holds under a key has that identifier. -/
theorem keyed_get {α : Type} {id : α → Nat} {t : Tab α} {k : Nat} {v : α} (h : keyed id t = true) (hg : tabGet? t k = some v) : id v = k :=
  keyed_iff.mp h _ (mem_of_tabGet? hg)

/-! ## The invariant -/

/-- The parts of the invariant. -/
theorem State.inv_iff (s : State) : s.inv = true ↔
    s.partOk = true ∧ (Memory.wf s.dram = true ∧ Memory.wf s.scratch = true ∧ Memory.wf s.pool = true) ∧ keyed (·.uid) s.groups = true ∧
      keyed (·.uid) s.teams = true ∧ keyed (·.uid) s.launches = true ∧ keyed (·.asid) s.contexts = true := by
  simp only [State.inv, State.memWf, Bool.and_eq_true, and_assoc]

theorem State.inv_setGroup {s : State} (h : s.inv = true) (g : Group) : (s.setGroup g).inv = true := by
  rw [State.inv_iff] at h ⊢
  exact ⟨h.1, h.2.1, keyed_tabSet h.2.2.1 rfl, h.2.2.2⟩

theorem State.inv_setTeam {s : State} (h : s.inv = true) (t : Team) : (s.setTeam t).inv = true := by
  rw [State.inv_iff] at h ⊢
  exact ⟨h.1, h.2.1, h.2.2.1, keyed_tabSet h.2.2.2.1 rfl, h.2.2.2.2⟩

theorem State.inv_setLaunch {s : State} (h : s.inv = true) (l : Launch) : (s.setLaunch l).inv = true := by
  rw [State.inv_iff] at h ⊢
  exact ⟨h.1, h.2.1, h.2.2.1, h.2.2.2.1, keyed_tabSet h.2.2.2.2.1 rfl, h.2.2.2.2.2⟩

theorem State.inv_setContext {s : State} (h : s.inv = true) (c : Context) : (s.setContext c).inv = true := by
  rw [State.inv_iff] at h ⊢
  exact ⟨h.1, h.2.1, h.2.2.1, h.2.2.2.1, h.2.2.2.2.1, keyed_tabSet h.2.2.2.2.2 rfl⟩

theorem State.inv_modGroup {s : State} (h : s.inv = true) (k : Nat) {f : Group → Group} (hf : ∀ g, (f g).uid = g.uid) :
    (s.modGroup k f).inv = true := by
  rw [State.inv_iff] at h ⊢
  exact ⟨h.1, h.2.1, keyed_tabMod h.2.2.1 hf, h.2.2.2⟩

theorem State.inv_modTeam {s : State} (h : s.inv = true) (k : Nat) {f : Team → Team} (hf : ∀ t, (f t).uid = t.uid) :
    (s.modTeam k f).inv = true := by
  rw [State.inv_iff] at h ⊢
  exact ⟨h.1, h.2.1, h.2.2.1, keyed_tabMod h.2.2.2.1 hf, h.2.2.2.2⟩

/-- The reset state, and every start state of a part whose mask fits its grade, meets the invariant (R1, R6). -/
theorem State.inv_resetAs {grade : BitVec 8} {mask : BitVec 256} (h : (State.resetAs grade mask).partOk = true) :
    (State.resetAs grade mask).inv = true := by
  rw [State.inv_iff]
  exact ⟨h, ⟨rfl, rfl, rfl⟩, rfl, rfl, rfl, rfl⟩

end Sys2Proof.Machine
end

