-- ==== Sys2Proof/Laws/Memory.lean ====
section
/-! SUPPORT. What the operations over the three memories can do, said once: which bytes a write changes, what a recall and an access at the
home leave as it is, and that each keeps the canonical form. -/

namespace Sys2Proof.Machine

/-- Marking a watched line changes the watch list alone. -/
theorem State.mark_eq (s : State) (line : Nat) (cells : List Nat) : ∃ w, s.mark line cells = { s with watch := w } := by
  unfold State.mark
  split
  · exact ⟨_, rfl⟩
  · exact ⟨s.watch, rfl⟩

/-- Off the capability list a write stands as it is. -/
theorem State.keepCaps_off (s : State) (pa n : Nat) (m : Mem) (h : s.offCaps pa n = true) : s.keepCaps pa n m = m := by
  unfold State.offCaps at h
  unfold State.keepCaps
  split
  · next b hb =>
    simp only [hb, Bool.or_eq_true, decide_eq_true_eq] at h
    exact if_neg (by omega)
  · rfl

/-- Keeping the capability list leaves every byte either as the write left it or as it was. -/
theorem State.keepCaps_outside (s : State) (pa n : Nat) (m : Mem) (a : Nat) (h : cellGet m a = cellGet s.dram a) :
    cellGet (s.keepCaps pa n m) a = cellGet s.dram a := by
  unfold State.keepCaps
  split
  · split
    · next b _ _ =>
      rw [cellGet_writeBytes, readBytes_length]
      split
      · rw [readBytes_getD _ _ _ _ (by omega), Nat.add_sub_cancel' (by omega)]
      · exact h
    · exact h
  · exact h

theorem State.wf_keepCaps (s : State) (pa n : Nat) (m : Mem) (h : Memory.wf m = true) : Memory.wf (s.keepCaps pa n m) = true := by
  unfold State.keepCaps
  split
  · split
    · exact wf_writeBytes _ _ h
    · exact h
  · exact h

/-- A write changes the memory of its space, and the watch list or the poison marks beside it. -/
theorem State.writeLoc_eq (s : State) (l : Loc) (n v : Nat) :
    ∃ w p, s.writeLoc l n v =
      { s with
        dram := match l with | .glob pa => s.keepCaps pa n (writeNat s.dram pa n v) | _ => s.dram
        scratch := match l with | .scratch k => writeNat s.scratch k n v | _ => s.scratch
        pool := match l with | .pool k => writeNat s.pool k n v | _ => s.pool
        watch := w, poisonWords := p } := by
  cases l with
  | glob pa =>
    obtain ⟨w, h⟩ := State.mark_eq { s with dram := s.keepCaps pa n (writeNat s.dram pa n v) } (pa / 128) []
    exact ⟨w, s.poisonWords, by rw [State.writeLoc, h]⟩
  | scratch k => exact ⟨s.watch, _, rfl⟩
  | pool k => exact ⟨s.watch, _, rfl⟩

/-- A write to DRAM changes DRAM and the watch list alone. -/
theorem State.writeLoc_glob (s : State) (pa n v : Nat) : ∃ m w, s.writeLoc (.glob pa) n v = { s with dram := m, watch := w } := by
  obtain ⟨w, h⟩ := State.mark_eq { s with dram := s.keepCaps pa n (writeNat s.dram pa n v) } (pa / 128) []
  exact ⟨_, w, h⟩

/-- A read of what has just been written gives its low bytes, off the capability list. -/
theorem State.readLoc_writeLoc (s : State) (l : Loc) (n v : Nat) (hc : ∀ pa, l = .glob pa → s.offCaps pa n = true) :
    (s.writeLoc l n v).readLoc l n = v % 256 ^ n := by
  obtain ⟨w, p, h⟩ := s.writeLoc_eq l n v
  rw [h]
  cases l with
  | glob pa => simp only [State.readLoc, s.keepCaps_off _ _ _ (hc pa rfl)]; exact readNat_writeNat ..
  | scratch k => exact readNat_writeNat ..
  | pool k => exact readNat_writeNat ..

/-- A write changes no byte of its own space outside the bytes written. -/
theorem State.writeLoc_outside (s : State) (l : Loc) (n v a : Nat) :
    (∀ pa, l = .glob pa → (a < pa ∨ pa + n ≤ a) → cellGet (s.writeLoc l n v).dram a = cellGet s.dram a) ∧
      (∀ k, l = .scratch k → (a < k ∨ k + n ≤ a) → cellGet (s.writeLoc l n v).scratch a = cellGet s.scratch a) ∧
      ∀ k, l = .pool k → (a < k ∨ k + n ≤ a) → cellGet (s.writeLoc l n v).pool a = cellGet s.pool a := by
  obtain ⟨w, p, h⟩ := s.writeLoc_eq l n v
  rw [h]
  refine ⟨?_, ?_, ?_⟩ <;> rintro b rfl hb
  · exact (s.keepCaps_outside _ _ _ _ (cellGet_writeNat_of_outside _ _ _ _ _ hb)).trans rfl
  · exact cellGet_writeNat_of_outside _ _ _ _ _ hb
  · exact cellGet_writeNat_of_outside _ _ _ _ _ hb

/-- A write leaves the other two memories as they are. -/
theorem State.writeLoc_others (s : State) (l : Loc) (n v : Nat) :
    ((∀ pa, l ≠ .glob pa) → (s.writeLoc l n v).dram = s.dram) ∧ ((∀ k, l ≠ .scratch k) → (s.writeLoc l n v).scratch = s.scratch) ∧
      ((∀ k, l ≠ .pool k) → (s.writeLoc l n v).pool = s.pool) := by
  obtain ⟨w, p, h⟩ := s.writeLoc_eq l n v
  rw [h]
  cases l <;> simp

/-- A write keeps the invariant. -/
theorem State.inv_writeLoc {s : State} (h : s.inv = true) (l : Loc) (n v : Nat) : (s.writeLoc l n v).inv = true := by
  obtain ⟨w, p, he⟩ := s.writeLoc_eq l n v
  rw [State.inv_iff] at h
  rw [he, State.inv_iff]
  cases l
  · exact ⟨h.1, ⟨s.wf_keepCaps _ _ _ (wf_writeNat _ _ _ h.2.1.1), h.2.1.2⟩, h.2.2⟩
  · exact ⟨h.1, ⟨h.2.1.1, wf_writeNat _ _ _ h.2.1.2.1, h.2.1.2.2⟩, h.2.2⟩
  · exact ⟨h.1, ⟨h.2.1.1, h.2.1.2.1, wf_writeNat _ _ _ h.2.1.2.2⟩, h.2.2⟩

/-! ## The home slice -/

/-- Applying a partial result changes DRAM and the watch list alone. -/
theorem applyPartial_eq (s : State) (p : Partial) : ∃ m w, applyPartial s p = { s with dram := m, watch := w } := by
  exact State.writeLoc_glob ..

theorem applyPartials_eq (ps : List Partial) (s : State) : ∃ m w, ps.foldl applyPartial s = { s with dram := m, watch := w } := by
  induction ps generalizing s with
  | nil => exact ⟨s.dram, s.watch, rfl⟩
  | cons p ps ih =>
    obtain ⟨m, w, h⟩ := applyPartial_eq s p
    obtain ⟨m', w', h'⟩ := ih (applyPartial s p)
    exact ⟨m', w', by rw [List.foldl_cons, h', h]⟩

/-- A recall changes DRAM, the watch list and the partial results alone, and leaves none of the line. -/
theorem State.recall_eq (s : State) (line : Nat) :
    ∃ m w, s.recall line =
      { s with dram := m, watch := w, partials := s.partials.filter fun p => p.addr / 128 != line } := by
  obtain ⟨m, w, h⟩ := applyPartials_eq
    ((List.range 256).flatMap fun c => (s.partials.filter fun p => p.addr / 128 == line).filter fun p => p.core == c)
    { s with partials := s.partials.filter fun p => p.addr / 128 != line }
  exact ⟨m, w, h⟩

/-- A line of which no core holds partial results needs no recall. -/
theorem State.recall_of_none (s : State) (line : Nat) (h : ∀ p ∈ s.partials, p.addr / 128 ≠ line) : s.recall line = s := by
  have hf : (s.partials.filter fun p => p.addr / 128 == line) = [] := List.filter_eq_nil_iff.mpr fun p hp => by simpa using h p hp
  have hk : (s.partials.filter fun p => p.addr / 128 != line) = s.partials :=
    List.filter_eq_self.mpr fun p hp => by simpa using h p hp
  have hn : ((List.range 256).flatMap fun _ => ([] : List Partial)) = [] := by simp
  simp only [State.recall, hf, hk, List.filter_nil, hn, List.foldl_nil]

/-- A recall keeps the invariant. -/
theorem State.inv_recall {s : State} (h : s.inv = true) (line : Nat) : (s.recall line).inv = true := by
  have fold (ps : List Partial) : ∀ s : State, s.inv = true → (ps.foldl applyPartial s).inv = true := by
    induction ps with
    | nil => exact fun _ h => h
    | cons p ps ih => exact fun s h => ih _ (State.inv_writeLoc h ..)
  exact fold _ _ h

/-- The recalls that a walk makes keep the invariant. -/
theorem State.inv_recallWalk {s : State} (h : s.inv = true) (asid va : Nat) : (s.recallWalk asid va).inv = true := by
  have fold (ls : List Nat) : ∀ s : State, s.inv = true → (ls.foldl State.recall s).inv = true := by
    induction ls with
    | nil => exact fun _ h => h
    | cons l ls ih => exact fun s h => ih _ (State.inv_recall h l)
  unfold State.recallWalk
  split
  · exact h
  · exact h
  · exact fold _ _ h

/-- A fold of operations that each change DRAM, the watch list and the partial results alone changes these alone. -/
theorem foldl_home {α : Type} (f : State → α → State)
    (hf : ∀ s x, ∃ m w ps, f s x = { s with dram := m, watch := w, partials := ps }) (xs : List α) (s : State) :
    ∃ m w ps, xs.foldl f s = { s with dram := m, watch := w, partials := ps } := by
  induction xs generalizing s with
  | nil => exact ⟨s.dram, s.watch, s.partials, rfl⟩
  | cons x xs ih =>
    obtain ⟨m, w, ps, h⟩ := hf s x
    obtain ⟨m', w', ps', h'⟩ := ih (f s x)
    exact ⟨m', w', ps', by rw [List.foldl_cons, h', h]⟩

/-- The recalls that a walk makes change DRAM, the watch list and the partial results alone. -/
theorem State.recallWalk_eq (s : State) (asid va : Nat) :
    ∃ m w ps, s.recallWalk asid va = { s with dram := m, watch := w, partials := ps } := by
  unfold State.recallWalk
  split
  · exact ⟨s.dram, s.watch, s.partials, rfl⟩
  · exact ⟨s.dram, s.watch, s.partials, rfl⟩
  · exact foldl_home _ (fun s l => let ⟨m, w, h⟩ := s.recall_eq l; ⟨m, w, _, h⟩) _ _

/-- The recalls before a read by the Almanac or firmware change DRAM, the watch list and the partial results alone. -/
theorem State.touch_eq (s : State) (asid va n : Nat) :
    ∃ m w ps, s.touch asid va n = { s with dram := m, watch := w, partials := ps } := by
  unfold State.touch
  split
  · exact ⟨s.dram, s.watch, s.partials, rfl⟩
  · refine foldl_home _ (fun s i => ?_) _ _
    obtain ⟨m, w, ps, h⟩ := s.recallWalk_eq asid (va / 128 * 128 + 128 * i)
    dsimp only
    split
    · next pa _ _ _ _ _ =>
      obtain ⟨m', w', h'⟩ := (s.recallWalk asid (va / 128 * 128 + 128 * i)).recall_eq (pa / 128)
      exact ⟨m', w', _, by rw [h', h]⟩
    · exact ⟨m, w, ps, h⟩

/-- With no partial results in any core a read by the Almanac or firmware recalls nothing. -/
theorem State.touch_of_none (s : State) (asid va n : Nat) (h : s.partials = []) : s.touch asid va n = s := by
  simp only [State.touch, h]

/-- A context none of whose tables lies in lines with partial results needs no recall for a walk. -/
theorem State.recallWalk_of_none (s : State) (asid va : Nat) (h : s.partials = []) : s.recallWalk asid va = s := by
  simp only [State.recallWalk, h]

/-- A store at the home: after the recall of its line, the write. -/
theorem State.homeWrite_snd (s : State) (pa n v : Nat) : (s.homeWrite pa n v).2 = (s.recall (pa / 128)).writeLoc (.glob pa) n v := rfl

theorem State.inv_homeWrite {s : State} (h : s.inv = true) (pa n v : Nat) : (s.homeWrite pa n v).2.inv = true :=
  State.inv_writeLoc (State.inv_recall h _) ..

theorem State.inv_homeAtom {s : State} (h : s.inv = true) (pa : Nat) (ty : Ty) (op : AtomOp) (b cmp : DWord) :
    (s.homeAtom pa ty op b cmp).2.2.inv = true := State.inv_writeLoc (State.inv_recall h _) ..

/-- The Almanac's and firmware's writes keep the invariant. -/
theorem State.inv_vwrite {s u : State} (h : s.inv = true) {asid va n v : Nat} (hw : s.vwrite asid va n v = .ok u) : u.inv = true := by
  unfold State.vwrite at hw
  dsimp only at hw
  split at hw
  · cases hw; exact State.inv_homeWrite (State.inv_recallWalk h ..) ..
  · cases hw

theorem State.inv_vwrites {asid : Nat} (ws : List Word) {s u : State} {va : Nat} (h : s.inv = true)
    (hw : s.vwrites asid va ws = .ok u) : u.inv = true := by
  induction ws generalizing s va with
  | nil => cases hw; exact h
  | cons w ws ih =>
    unfold State.vwrites at hw
    split at hw
    · cases hw
    · next t ht => exact ih (State.inv_vwrite h ht) hw

end Sys2Proof.Machine
end

