-- ==== Sys2Proof/Laws/Exception.lean ====
section
/-! SUPPORT. What taking an exception can do, said once: whether a delivery is made, how a handler is entered, and what leaving a slot
leaves as it is. -/

namespace Sys2Proof.Machine

/-- A delivery is made where the group holds its slot, runs no handler, waits for no unwind and has one pending; a notice is entered here
only where the group has one split, which it then names (R330, R337, R344); else nothing changes. -/
theorem State.deliver_cases (s : State) (uid : Nat) :
    s.deliver uid = s ∨
      ∃ g d ds, s.group? uid = some g ∧ g.unwinding = none ∧ g.hand = none ∧ g.slot?.isSome = true ∧ g.deliveries = d :: ds ∧
        ((d.notice = false ∧ s.deliver uid = s.enterHandler g d) ∨
          ∃ sp, d.notice = true ∧ g.bank.splits = [sp] ∧
            s.deliver uid = s.enterHandler { g with deliveries := { d with split := sp.id } :: ds } { d with split := sp.id }) := by
  unfold State.deliver
  split
  · exact .inl rfl
  · next g hg =>
    split
    · exact .inl rfl
    · next hu =>
      have hu : g.unwinding = none := by simpa using hu
      split
      · next hh hs hd =>
        split
        · next hn => exact .inr ⟨g, _, _, hg, hu, hh, by simp [hs], hd, .inl ⟨by simpa using hn, rfl⟩⟩
        · next hn =>
          split
          · next sp hsp => exact .inr ⟨g, _, _, hg, hu, hh, by simp [hs], hd, .inr ⟨sp, by simpa using hn, hsp, rfl⟩⟩
          · exact .inl rfl
      · exact .inl rfl

/-- Reading the trap table recalls its lines first: DRAM, the watch list and the partial results alone change. -/
theorem State.touchTable_eq (s : State) (g : Group) (code : BitVec 8) :
    ∃ m w ps, s.touchTable g code = { s with dram := m, watch := w, partials := ps } := by
  unfold State.touchTable
  split
  · exact ⟨s.dram, s.watch, s.partials, rfl⟩
  · exact ⟨s.dram, s.watch, s.partials, rfl⟩
  · next c _ _ =>
    split
    · exact ⟨s.dram, s.watch, s.partials, rfl⟩
    · obtain ⟨m, w, ps, h⟩ := s.touch_eq c.asid (c.trapTab.toNat + 8 * code.toNat) 8
      obtain ⟨m', w', ps', h'⟩ := (s.touch c.asid (c.trapTab.toNat + 8 * code.toNat) 8).touch_eq c.asid c.trapTab.toNat 8
      exact ⟨m', w', ps', by rw [h', h]⟩

/-- With no partial results in any core the trap table is read as it stands. -/
theorem State.touchTable_of_none (s : State) (g : Group) (code : BitVec 8) (h : s.partials = []) : s.touchTable g code = s := by
  unfold State.touchTable
  simp only [h]

/-- The three ways of an entry (R334), once the slice of the trap table's entry has no partial results: the handler of the trap table, the
end of the group, or the end with the table's fault logged. -/
theorem State.enterHandler_cases (s : State) (g : Group) (d : Delivery) :
    (∃ pc, (s.touchTable g d.code).trapEntry g d.code = .handler pc ∧
        s.enterHandler g d = (s.touchTable g d.code).setGroup { g with
          hand := some { bank := handlerBank g d ((s.touchTable g d.code).clkOf g.core) pc, serves := d, serial := g.handSerial
                         exit := none, mapreq := none }
          handSerial := g.handSerial + 1, leaving := false, saveBad := false
          debug := match g.debug with | .step _ => .step none | x => x }) ∨
      ((s.touchTable g d.code).trapEntry g d.code = .none ∧ s.enterHandler g d = (s.touchTable g d.code).endGroup g true) ∨
      ∃ c e, (s.touchTable g d.code).trapEntry g d.code = .fault c e ∧ s.enterHandler g d = (s.touchTable g d.code).tableFault g d c e := by
  unfold State.enterHandler
  dsimp only
  cases h : (s.touchTable g d.code).trapEntry g d.code with
  | handler pc => exact .inl ⟨pc, rfl, by cases g.debug <;> rfl⟩
  | none => exact .inr (.inl ⟨rfl, rfl⟩)
  | fault c e => exact .inr (.inr ⟨c, e, rfl, rfl⟩)

/-- A trap in a handler is a nested fault (R335). -/
theorem State.raiseTrap_handler (s : State) (g : Group) (split len : Nat) (pc : DWord) (t : Trap) (h : g.hand.isSome = true) :
    s.raiseTrap g split pc len t =
      s.nestedFault { g with trapped := if g.debug = .stepping then some t.head.code else g.trapped } t split pc := by
  simp only [State.raiseTrap, h, if_true]

/-- A trap in user code posts its records and one delivery, and makes the first pending one (R329 to R331). -/
theorem State.raiseTrap_user (s : State) (g : Group) (split len : Nat) (pc : DWord) (t : Trap) (h : g.hand = none) :
    ∃ (d : Delivery) (trapped : Option (BitVec 8)) (recs : List FRec),
      d.id = s.nextId ∧ d.clk = s.clkOf g.core ∧ d.notice = false ∧ d.code = t.head.code ∧ d.split = split ∧ d.pc = pc ∧ d.resume = t.resume ∧
      recs.length = t.recs.length ∧
      s.raiseTrap g split pc len t =
        (({ s with nextId := s.nextId + 1 }).setGroup { g with
            trapped := trapped, frq := recs.foldl postRec g.frq, deliveries := insertPrecise d g.deliveries }).deliver g.uid := by
  have hn : g.hand.isSome = false := by simp [h]
  unfold State.raiseTrap
  simp only [hn, Bool.false_eq_true, if_false]
  exact ⟨_, _, _, rfl, rfl, rfl, rfl, rfl, rfl, rfl, by simp [State.trapRecs], rfl⟩

/-- A group that leaves its slot: groups, teams, partitions, operations, the agenda and one open value apart, nothing changes. -/
theorem State.leaveSlot_eq (s : State) (g : Group) (place : Place) :
    ∃ gs ts ps os ag, s.leaveSlot g place =
      { s with groups := gs, teams := ts, parts := ps, ops := os, agenda := ag, fresh := s.fresh + 1 } := by
  unfold State.leaveSlot
  dsimp only
  split
  · exact ⟨_, _, s.parts, _, _, rfl⟩
  · exact ⟨_, _, _, _, _, rfl⟩

theorem State.leaveSlot_sameBytes (s : State) (g : Group) (place : Place) : SameBytes s (s.leaveSlot g place) := by
  obtain ⟨_, _, _, _, _, h⟩ := s.leaveSlot_eq g place
  rw [h]; exact .refl s

/-- The fault log's writes change contexts and firmware's events alone. -/
theorem State.logFault_eq (s : State) (asid : Nat) (r : FRec) : ∃ cs ev, s.logFault asid r = { s with contexts := cs, fwEvents := ev } := by
  unfold State.logFault
  split
  · exact ⟨s.contexts, s.fwEvents, rfl⟩
  · dsimp only
    split
    · exact ⟨_, _, rfl⟩
    · exact ⟨_, s.fwEvents, rfl⟩

theorem State.inv_logFault {s : State} (h : s.inv = true) (asid : Nat) (r : FRec) : (s.logFault asid r).inv = true := by
  unfold State.logFault
  split
  · exact h
  · next c hc =>
    dsimp only
    have h' := State.inv_setContext h
      { c with log := (if decide (256 ≤ c.log.length) then c.log.drop 1 else c.log) ++ [r], lost := c.lost || decide (256 ≤ c.log.length) }
    split
    · exact h'
    · exact h'

theorem State.logFault_sameBytes (s : State) (asid : Nat) (r : FRec) : SameBytes s (s.logFault asid r) := by
  obtain ⟨_, _, h⟩ := s.logFault_eq asid r
  rw [h]; exact .refl s

end Sys2Proof.Machine
end

