-- ==== Sys2Proof/Laws/PerInstr.lean ====
section
/-! SUPPORT. What holds of every instruction as syntax, constructor by constructor. -/

namespace Sys2Proof.Laws.Form

/-- The number of words of an encoding by the kind of row (R36, R51): one for a compact row, three for a full form, none for an event. -/
def words (i : Instr) : Nat := if i.compactWord.isSome then 1 else if i.coreFields.isSome then 3 else 0

/-- An instruction has as many words as its kind, its full form is a full form, and it carries the control fields that its full form
does. -/
def Statement (i : Instr) : Prop := (encode i).length = words i ∧ i.core.core = i.core ∧ i.core.ctl = i.ctl

theorem nop (c : Ctl) : Statement (.nop c) := ⟨rfl, rfl, rfl⟩
theorem waitf (c : Ctl) : Statement (.waitf c) := ⟨rfl, rfl, rfl⟩
theorem sleep (c : Ctl) (a : Opnd) : Statement (.sleep c a) := ⟨rfl, rfl, rfl⟩
theorem yield (c : Ctl) : Statement (.yield c) := ⟨rfl, rfl, rfl⟩
theorem mov (c : Ctl) (ty : Ty) (d : Opnd) (a : Opnd) : Statement (.mov c ty d a) := ⟨rfl, rfl, rfl⟩
theorem movw (c : Ctl) (d : Opnd) (a : Opnd) : Statement (.movw c d a) := ⟨rfl, rfl, rfl⟩
theorem movi (c : Ctl) (m : MoviTy) (d : Opnd) (imm : BitVec 32) : Statement (.movi c m d imm) := ⟨rfl, rfl, rfl⟩
theorem sel (c : Ctl) (ty : Ty) (d : Opnd) (a : Opnd) (b : Opnd) (x : Opnd) : Statement (.sel c ty d a b x) := ⟨rfl, rfl, rfl⟩
theorem nrel (c : Ctl) (d : Opnd) : Statement (.nrel c d) := ⟨rfl, rfl, rfl⟩
theorem strand (c : Ctl) (entry : BitVec 16) : Statement (.strand c entry) := ⟨rfl, rfl, rfl⟩
theorem park (c : Ctl) : Statement (.park c) := ⟨rfl, rfl, rfl⟩
theorem bra (c : Ctl) (target : BitVec 24) : Statement (.bra c target) := ⟨rfl, rfl, rfl⟩
theorem brc (c : Ctl) (hint : Hint) (target : BitVec 24) (join : BitVec 20) : Statement (.brc c hint target join) := ⟨rfl, rfl, rfl⟩
theorem brx (c : Ctl) (hint : Hint) (a : Opnd) (b : Opnd) : Statement (.brx c hint a b) := ⟨rfl, rfl, rfl⟩
theorem call (c : Ctl) (target : BitVec 24) : Statement (.call c target) := ⟨rfl, rfl, rfl⟩
theorem callx (c : Ctl) (a : Opnd) : Statement (.callx c a) := ⟨rfl, rfl, rfl⟩
theorem ret (c : Ctl) : Statement (.ret c) := ⟨rfl, rfl, rfl⟩
theorem join (c : Ctl) : Statement (.join c) := ⟨rfl, rfl, rfl⟩
theorem exit (c : Ctl) : Statement (.exit c) := ⟨rfl, rfl, rfl⟩
theorem iadd (c : Ctl) (ty : Ty) (sat : Bool) (d : Opnd) (a : Opnd) (b : Opnd) : Statement (.iadd c ty sat d a b) := ⟨rfl, rfl, rfl⟩
theorem isub (c : Ctl) (ty : Ty) (sat : Bool) (d : Opnd) (a : Opnd) (b : Opnd) : Statement (.isub c ty sat d a b) := ⟨rfl, rfl, rfl⟩
theorem iadd64 (c : Ctl) (ty : Ty) (sat : Bool) (d : Opnd) (a : Opnd) (b : Opnd) : Statement (.iadd64 c ty sat d a b) := ⟨rfl, rfl, rfl⟩
theorem iaddImm (c : Ctl) (ty : Ty) (sat : Bool) (d : Opnd) (a : Opnd) (imm : BitVec 32) : Statement (.iaddImm c ty sat d a imm) := ⟨rfl, rfl, rfl⟩
theorem isubImm (c : Ctl) (ty : Ty) (sat : Bool) (d : Opnd) (a : Opnd) (imm : BitVec 32) : Statement (.isubImm c ty sat d a imm) := ⟨rfl, rfl, rfl⟩
theorem iaddc (c : Ctl) (d : Opnd) (a : Opnd) (b : Opnd) (x : Opnd) : Statement (.iaddc c d a b x) := ⟨rfl, rfl, rfl⟩
theorem imul (c : Ctl) (ty : Ty) (d : Opnd) (a : Opnd) (b : Opnd) : Statement (.imul c ty d a b) := ⟨rfl, rfl, rfl⟩
theorem imulh (c : Ctl) (ty : Ty) (d : Opnd) (a : Opnd) (b : Opnd) : Statement (.imulh c ty d a b) := ⟨rfl, rfl, rfl⟩
theorem imulImm (c : Ctl) (ty : Ty) (d : Opnd) (a : Opnd) (imm : BitVec 32) : Statement (.imulImm c ty d a imm) := ⟨rfl, rfl, rfl⟩
theorem imad (c : Ctl) (ty : Ty) (d : Opnd) (a : Opnd) (b : Opnd) (x : Opnd) : Statement (.imad c ty d a b x) := ⟨rfl, rfl, rfl⟩
theorem imadw (c : Ctl) (ty : Ty) (d : Opnd) (a : Opnd) (b : Opnd) (x : Opnd) : Statement (.imadw c ty d a b x) := ⟨rfl, rfl, rfl⟩
theorem idiv (c : Ctl) (ty : Ty) (d : Opnd) (a : Opnd) (b : Opnd) : Statement (.idiv c ty d a b) := ⟨rfl, rfl, rfl⟩
theorem irem (c : Ctl) (ty : Ty) (d : Opnd) (a : Opnd) (b : Opnd) : Statement (.irem c ty d a b) := ⟨rfl, rfl, rfl⟩
theorem imin (c : Ctl) (ty : Ty) (d : Opnd) (a : Opnd) (b : Opnd) : Statement (.imin c ty d a b) := ⟨rfl, rfl, rfl⟩
theorem imax (c : Ctl) (ty : Ty) (d : Opnd) (a : Opnd) (b : Opnd) : Statement (.imax c ty d a b) := ⟨rfl, rfl, rfl⟩
theorem iabs (c : Ctl) (sat : Bool) (d : Opnd) (a : Opnd) : Statement (.iabs c sat d a) := ⟨rfl, rfl, rfl⟩
theorem ineg (c : Ctl) (sat : Bool) (d : Opnd) (a : Opnd) : Statement (.ineg c sat d a) := ⟨rfl, rfl, rfl⟩
theorem lea (c : Ctl) (ty : Ty) (sb : Bool) (d : Opnd) (a : Opnd) (b : Opnd) (x : Opnd) : Statement (.lea c ty sb d a b x) := ⟨rfl, rfl, rfl⟩
theorem and (c : Ctl) (ty : Ty) (d : Opnd) (a : Opnd) (b : Opnd) : Statement (.and c ty d a b) := ⟨rfl, rfl, rfl⟩
theorem or (c : Ctl) (ty : Ty) (d : Opnd) (a : Opnd) (b : Opnd) : Statement (.or c ty d a b) := ⟨rfl, rfl, rfl⟩
theorem xor (c : Ctl) (ty : Ty) (d : Opnd) (a : Opnd) (b : Opnd) : Statement (.xor c ty d a b) := ⟨rfl, rfl, rfl⟩
theorem andn (c : Ctl) (ty : Ty) (d : Opnd) (a : Opnd) (b : Opnd) : Statement (.andn c ty d a b) := ⟨rfl, rfl, rfl⟩
theorem not (c : Ctl) (ty : Ty) (d : Opnd) (a : Opnd) : Statement (.not c ty d a) := ⟨rfl, rfl, rfl⟩
theorem andImm (c : Ctl) (d : Opnd) (a : Opnd) (imm : BitVec 32) : Statement (.andImm c d a imm) := ⟨rfl, rfl, rfl⟩
theorem orImm (c : Ctl) (d : Opnd) (a : Opnd) (imm : BitVec 32) : Statement (.orImm c d a imm) := ⟨rfl, rfl, rfl⟩
theorem xorImm (c : Ctl) (d : Opnd) (a : Opnd) (imm : BitVec 32) : Statement (.xorImm c d a imm) := ⟨rfl, rfl, rfl⟩
theorem andnImm (c : Ctl) (d : Opnd) (a : Opnd) (imm : BitVec 32) : Statement (.andnImm c d a imm) := ⟨rfl, rfl, rfl⟩
theorem shl (c : Ctl) (ty : Ty) (d : Opnd) (a : Opnd) (b : Opnd) : Statement (.shl c ty d a b) := ⟨rfl, rfl, rfl⟩
theorem shr (c : Ctl) (ty : Ty) (d : Opnd) (a : Opnd) (b : Opnd) : Statement (.shr c ty d a b) := ⟨rfl, rfl, rfl⟩
theorem sar (c : Ctl) (ty : Ty) (d : Opnd) (a : Opnd) (b : Opnd) : Statement (.sar c ty d a b) := ⟨rfl, rfl, rfl⟩
theorem rot (c : Ctl) (ty : Ty) (d : Opnd) (a : Opnd) (b : Opnd) : Statement (.rot c ty d a b) := ⟨rfl, rfl, rfl⟩
theorem shf (c : Ctl) (left : Bool) (d : Opnd) (a : Opnd) (b : Opnd) (x : Opnd) : Statement (.shf c left d a b x) := ⟨rfl, rfl, rfl⟩
theorem bfe (c : Ctl) (ty : Ty) (d : Opnd) (a : Opnd) (b : Opnd) : Statement (.bfe c ty d a b) := ⟨rfl, rfl, rfl⟩
theorem bfi (c : Ctl) (d : Opnd) (a : Opnd) (b : Opnd) (x : Opnd) : Statement (.bfi c d a b x) := ⟨rfl, rfl, rfl⟩
theorem popc (c : Ctl) (ty : Ty) (d : Opnd) (a : Opnd) : Statement (.popc c ty d a) := ⟨rfl, rfl, rfl⟩
theorem clz (c : Ctl) (ty : Ty) (d : Opnd) (a : Opnd) : Statement (.clz c ty d a) := ⟨rfl, rfl, rfl⟩
theorem brev (c : Ctl) (ty : Ty) (d : Opnd) (a : Opnd) : Statement (.brev c ty d a) := ⟨rfl, rfl, rfl⟩
theorem prmb (c : Ctl) (d : Opnd) (a : Opnd) (b : Opnd) (x : Opnd) : Statement (.prmb c d a b x) := ⟨rfl, rfl, rfl⟩
theorem iset (c : Ctl) (cmp : Cmp) (ty : Ty) (d : Opnd) (a : Opnd) (b : Opnd) : Statement (.iset c cmp ty d a b) := ⟨rfl, rfl, rfl⟩
theorem fadd (c : Ctl) (rnd : Rnd) (ftz : Bool) (d : Opnd) (a : Opnd) (b : Opnd) : Statement (.fadd c rnd ftz d a b) := ⟨rfl, rfl, rfl⟩
theorem fsub (c : Ctl) (rnd : Rnd) (ftz : Bool) (d : Opnd) (a : Opnd) (b : Opnd) : Statement (.fsub c rnd ftz d a b) := ⟨rfl, rfl, rfl⟩
theorem fmul (c : Ctl) (rnd : Rnd) (ftz : Bool) (d : Opnd) (a : Opnd) (b : Opnd) : Statement (.fmul c rnd ftz d a b) := ⟨rfl, rfl, rfl⟩
theorem fmin (c : Ctl) (ftz : Bool) (d : Opnd) (a : Opnd) (b : Opnd) : Statement (.fmin c ftz d a b) := ⟨rfl, rfl, rfl⟩
theorem fmax (c : Ctl) (ftz : Bool) (d : Opnd) (a : Opnd) (b : Opnd) : Statement (.fmax c ftz d a b) := ⟨rfl, rfl, rfl⟩
theorem faddImm (c : Ctl) (rnd : Rnd) (ftz : Bool) (d : Opnd) (a : Opnd) (imm : BitVec 32) : Statement (.faddImm c rnd ftz d a imm) := ⟨rfl, rfl, rfl⟩
theorem fsubImm (c : Ctl) (rnd : Rnd) (ftz : Bool) (d : Opnd) (a : Opnd) (imm : BitVec 32) : Statement (.fsubImm c rnd ftz d a imm) := ⟨rfl, rfl, rfl⟩
theorem fmulImm (c : Ctl) (rnd : Rnd) (ftz : Bool) (d : Opnd) (a : Opnd) (imm : BitVec 32) : Statement (.fmulImm c rnd ftz d a imm) := ⟨rfl, rfl, rfl⟩
theorem fminImm (c : Ctl) (ftz : Bool) (d : Opnd) (a : Opnd) (imm : BitVec 32) : Statement (.fminImm c ftz d a imm) := ⟨rfl, rfl, rfl⟩
theorem fmaxImm (c : Ctl) (ftz : Bool) (d : Opnd) (a : Opnd) (imm : BitVec 32) : Statement (.fmaxImm c ftz d a imm) := ⟨rfl, rfl, rfl⟩
theorem ffma (c : Ctl) (rnd : Rnd) (ftz : Bool) (d : Opnd) (a : Opnd) (b : Opnd) (x : Opnd) : Statement (.ffma c rnd ftz d a b x) := ⟨rfl, rfl, rfl⟩
theorem fsetCompare (c : Ctl) (cmp : Cmp) (ftz : Bool) (d : Opnd) (a : Opnd) (b : Opnd) : Statement (.fsetCompare c cmp ftz d a b) := ⟨rfl, rfl, rfl⟩
theorem frcp (c : Ctl) (ftz : Bool) (d : Opnd) (a : Opnd) : Statement (.frcp c ftz d a) := ⟨rfl, rfl, rfl⟩
theorem frsq (c : Ctl) (ftz : Bool) (d : Opnd) (a : Opnd) : Statement (.frsq c ftz d a) := ⟨rfl, rfl, rfl⟩
theorem fsqrt (c : Ctl) (ftz : Bool) (d : Opnd) (a : Opnd) : Statement (.fsqrt c ftz d a) := ⟨rfl, rfl, rfl⟩
theorem fex2 (c : Ctl) (ftz : Bool) (d : Opnd) (a : Opnd) : Statement (.fex2 c ftz d a) := ⟨rfl, rfl, rfl⟩
theorem flg2 (c : Ctl) (ftz : Bool) (d : Opnd) (a : Opnd) : Statement (.flg2 c ftz d a) := ⟨rfl, rfl, rfl⟩
theorem fsin (c : Ctl) (ftz : Bool) (d : Opnd) (a : Opnd) : Statement (.fsin c ftz d a) := ⟨rfl, rfl, rfl⟩
theorem fcos (c : Ctl) (ftz : Bool) (d : Opnd) (a : Opnd) : Statement (.fcos c ftz d a) := ⟨rfl, rfl, rfl⟩
theorem hfma2 (c : Ctl) (ty : Ty) (sw : Bool) (bc : Bool) (nc : Bool) (rnd : Rnd) (ftz : Bool) (d : Opnd) (a : Opnd) (b : Opnd) (x : Opnd) : Statement (.hfma2 c ty sw bc nc rnd ftz d a b x) := ⟨rfl, rfl, rfl⟩
theorem f2i (c : Ctl) (ty : Ty) (sty : Ty) (rnd : Rnd) (ftz : Bool) (d : Opnd) (a : Opnd) : Statement (.f2i c ty sty rnd ftz d a) := ⟨rfl, rfl, rfl⟩
theorem i2f (c : Ctl) (ty : Ty) (sty : Ty) (rnd : Rnd) (ftz : Bool) (d : Opnd) (a : Opnd) : Statement (.i2f c ty sty rnd ftz d a) := ⟨rfl, rfl, rfl⟩
theorem cvt (c : Ctl) (ty : Ty) (sty : Ty) (rnd : Rnd) (ftz : Bool) (d : Opnd) (a : Opnd) : Statement (.cvt c ty sty rnd ftz d a) := ⟨rfl, rfl, rfl⟩
theorem frnd (c : Ctl) (rnd : Rnd) (ftz : Bool) (d : Opnd) (a : Opnd) : Statement (.frnd c rnd ftz d a) := ⟨rfl, rfl, rfl⟩
theorem pack (c : Ctl) (ty : Ty) (elt : BitVec 4) (rnd : Rnd) (ftz : Bool) (d : Opnd) (a : Opnd) (b : Opnd) (x : Opnd) : Statement (.pack c ty elt rnd ftz d a b x) := ⟨rfl, rfl, rfl⟩
theorem unpk (c : Ctl) (ty : Ty) (elt : BitVec 4) (ftz : Bool) (d : Opnd) (a : Opnd) : Statement (.unpk c ty elt ftz d a) := ⟨rfl, rfl, rfl⟩
theorem dot4 (c : Ctl) (d : Opnd) (a : Opnd) (b : Opnd) (x : Opnd) : Statement (.dot4 c d a b x) := ⟨rfl, rfl, rfl⟩
theorem dot8 (c : Ctl) (d : Opnd) (a : Opnd) (b : Opnd) (x : Opnd) : Statement (.dot8 c d a b x) := ⟨rfl, rfl, rfl⟩
theorem fdot4 (c : Ctl) (ty : Ty) (d : Opnd) (a : Opnd) (b : Opnd) (x : Opnd) : Statement (.fdot4 c ty d a b x) := ⟨rfl, rfl, rfl⟩
theorem shfl (c : Ctl) (sm : ShflMode) (ty : Ty) (d : Opnd) (a : Opnd) (b : Opnd) (x : Opnd) : Statement (.shfl c sm ty d a b x) := ⟨rfl, rfl, rfl⟩
theorem vote (c : Ctl) (vm : VoteMode) (d : Opnd) (a : Opnd) : Statement (.vote c vm d a) := ⟨rfl, rfl, rfl⟩
theorem matchI (c : Ctl) (ty : Ty) (d : Opnd) (a : Opnd) : Statement (.matchI c ty d a) := ⟨rfl, rfl, rfl⟩
theorem pset (c : Ctl) (pc : PsetComb) (cmp : Cmp) (ty : Ty) (d : Opnd) (a : Opnd) (b : Opnd) (x : Opnd) : Statement (.pset c pc cmp ty d a b x) := ⟨rfl, rfl, rfl⟩
theorem pmovGet (c : Ctl) (d : Opnd) : Statement (.pmovGet c d) := ⟨rfl, rfl, rfl⟩
theorem pmovSet (c : Ctl) (a : Opnd) : Statement (.pmovSet c a) := ⟨rfl, rfl, rfl⟩
theorem mma (c : Ctl) (cn : BitVec 2) (a : Opnd) (b : Opnd) (x : Opnd) : Statement (.mma c cn a b x) := ⟨rfl, rfl, rfl⟩
theorem mmas (c : Ctl) (cn : BitVec 2) (d : Opnd) (a : Opnd) (b : Opnd) (x : Opnd) : Statement (.mmas c cn d a b x) := ⟨rfl, rfl, rfl⟩
theorem mmab (c : Ctl) (cn : BitVec 2) (d : Opnd) (a : Opnd) (b : Opnd) (x : Opnd) : Statement (.mmab c cn d a b x) := ⟨rfl, rfl, rfl⟩
theorem cmprs (c : Ctl) (ty : Ty) (a : Opnd) (b : Opnd) (x : Opnd) : Statement (.cmprs c ty a b x) := ⟨rfl, rfl, rfl⟩
theorem cclr (c : Ctl) (cn : BitVec 2) : Statement (.cclr c cn) := ⟨rfl, rfl, rfl⟩
theorem cld (c : Ctl) (cn : BitVec 2) (a : Opnd) (x : Opnd) : Statement (.cld c cn a x) := ⟨rfl, rfl, rfl⟩
theorem cscl (c : Ctl) (cn : BitVec 2) (a : Opnd) : Statement (.cscl c cn a) := ⟨rfl, rfl, rfl⟩
theorem cst (c : Ctl) (cn : BitVec 2) (a : Opnd) (b : Opnd) (x : Opnd) : Statement (.cst c cn a b x) := ⟨rfl, rfl, rfl⟩
theorem qinit (c : Ctl) (qn : BitVec 4) (a : Opnd) (b : Opnd) : Statement (.qinit c qn a b) := ⟨rfl, rfl, rfl⟩
theorem qpush (c : Ctl) (qn : BitVec 4) (a : Opnd) : Statement (.qpush c qn a) := ⟨rfl, rfl, rfl⟩
theorem qpop (c : Ctl) (qn : BitVec 4) (d : Opnd) : Statement (.qpop c qn d) := ⟨rfl, rfl, rfl⟩
theorem qstat (c : Ctl) (qn : BitVec 4) (d : Opnd) : Statement (.qstat c qn d) := ⟨rfl, rfl, rfl⟩
theorem copy (c : Ctl) (sp : Space) (dsp : Space) (kind : CopyKind) (qn : BitVec 4) (d : Opnd) (a : Opnd) (b : Opnd) (x : Opnd) : Statement (.copy c sp dsp kind qn d a b x) := ⟨rfl, rfl, rfl⟩
theorem reel (c : Ctl) (qn : BitVec 4) (slice : BitVec 12) (d : Opnd) : Statement (.reel c qn slice d) := ⟨rfl, rfl, rfl⟩
theorem reelw (c : Ctl) (stop : Bool) (a : Opnd) : Statement (.reelw c stop a) := ⟨rfl, rfl, rfl⟩
theorem aloop (c : Ctl) (d : Opnd) (a : Opnd) : Statement (.aloop c d a) := ⟨rfl, rfl, rfl⟩
theorem aqput (c : Ctl) (qn : BitVec 4) (sp : Space) (a : Opnd) (b : Opnd) : Statement (.aqput c qn sp a b) := ⟨rfl, rfl, rfl⟩
theorem aend (c : Ctl) : Statement (.aend c) := ⟨rfl, rfl, rfl⟩
theorem ld (c : Ctl) (sp : Space) (ty : Ty) (acq : Bool) (d : Opnd) (a : Opnd) (x : Opnd) : Statement (.ld c sp ty acq d a x) := ⟨rfl, rfl, rfl⟩
theorem st (c : Ctl) (sp : Space) (ty : Ty) (rel : Bool) (nr : Bool) (a : Opnd) (b : Opnd) (x : Opnd) : Statement (.st c sp ty rel nr a b x) := ⟨rfl, rfl, rfl⟩
theorem ldx (c : Ctl) (sp : Space) (ty : Ty) (cb : BitVec 2) (d : Opnd) (a : Opnd) (x : Opnd) : Statement (.ldx c sp ty cb d a x) := ⟨rfl, rfl, rfl⟩
theorem stx (c : Ctl) (sp : Space) (ty : Ty) (cb : BitVec 2) (nr : Bool) (a : Opnd) (b : Opnd) (x : Opnd) : Statement (.stx c sp ty cb nr a b x) := ⟨rfl, rfl, rfl⟩
theorem atom (c : Ctl) (sp : Space) (ty : Ty) (aop : AtomOp) (scope : Scope) (d : Opnd) (a : Opnd) (b : Opnd) (x : Opnd) : Statement (.atom c sp ty aop scope d a b x) := ⟨rfl, rfl, rfl⟩
theorem atomr (c : Ctl) (sp : Space) (ty : Ty) (aop : AtomOp) (scope : Scope) (a : Opnd) (b : Opnd) (x : Opnd) : Statement (.atomr c sp ty aop scope a b x) := ⟨rfl, rfl, rfl⟩
theorem fence (c : Ctl) (scope : Scope) (half : FenceHalf) : Statement (.fence c scope half) := ⟨rfl, rfl, rfl⟩
theorem pin (c : Ctl) (a : Opnd) (b : Opnd) : Statement (.pin c a b) := ⟨rfl, rfl, rfl⟩
theorem unpin (c : Ctl) (a : Opnd) (b : Opnd) : Statement (.unpin c a b) := ⟨rfl, rfl, rfl⟩
theorem icinv (c : Ctl) (a : Opnd) (b : Opnd) : Statement (.icinv c a b) := ⟨rfl, rfl, rfl⟩
theorem pref (c : Ctl) (a : Opnd) (x : Opnd) : Statement (.pref c a x) := ⟨rfl, rfl, rfl⟩
theorem launch (c : Ctl) (a : Opnd) : Statement (.launch c a) := ⟨rfl, rfl, rfl⟩
theorem spawn (c : Ctl) (d : Opnd) (a : Opnd) (b : Opnd) : Statement (.spawn c d a b) := ⟨rfl, rfl, rfl⟩
theorem depdec (c : Ctl) (a : Opnd) : Statement (.depdec c a) := ⟨rfl, rfl, rfl⟩
theorem phend (c : Ctl) (carry : BitVec 16) : Statement (.phend c carry) := ⟨rfl, rfl, rfl⟩
theorem tbar (c : Ctl) : Statement (.tbar c) := ⟨rfl, rfl, rfl⟩
theorem tdone (c : Ctl) : Statement (.tdone c) := ⟨rfl, rfl, rfl⟩
theorem fwait (c : Ctl) (ty : Ty) (d : Opnd) (a : Opnd) (x : Opnd) : Statement (.fwait c ty d a x) := ⟨rfl, rfl, rfl⟩
theorem fsetFuture (c : Ctl) (ty : Ty) (status : BitVec 8) (a : Opnd) (b : Opnd) (x : Opnd) : Statement (.fsetFuture c ty status a b x) := ⟨rfl, rfl, rfl⟩
theorem ftest (c : Ctl) (d : Opnd) (a : Opnd) (x : Opnd) : Statement (.ftest c d a x) := ⟨rfl, rfl, rfl⟩
theorem lock (c : Ctl) (a : Opnd) (x : Opnd) : Statement (.lock c a x) := ⟨rfl, rfl, rfl⟩
theorem unlock (c : Ctl) (a : Opnd) (x : Opnd) : Statement (.unlock c a x) := ⟨rfl, rfl, rfl⟩
theorem chpush (c : Ctl) (ty : Ty) (a : Opnd) (b : Opnd) (x : Opnd) : Statement (.chpush c ty a b x) := ⟨rfl, rfl, rfl⟩
theorem chpop (c : Ctl) (ty : Ty) (d : Opnd) (a : Opnd) (x : Opnd) : Statement (.chpop c ty d a x) := ⟨rfl, rfl, rfl⟩
theorem waitc (c : Ctl) (a : Opnd) (b : Opnd) (x : Opnd) : Statement (.waitc c a b x) := ⟨rfl, rfl, rfl⟩
theorem trap (c : Ctl) (code : BitVec 8) : Statement (.trap c code) := ⟨rfl, rfl, rfl⟩
theorem tret (c : Ctl) (skip : Bool) : Statement (.tret c skip) := ⟨rfl, rfl, rfl⟩
theorem replay (c : Ctl) : Statement (.replay c) := ⟨rfl, rfl, rfl⟩
theorem unwind (c : Ctl) : Statement (.unwind c) := ⟨rfl, rfl, rfl⟩
theorem endg (c : Ctl) : Statement (.endg c) := ⟨rfl, rfl, rfl⟩
theorem frqpop (c : Ctl) (d : Opnd) : Statement (.frqpop c d) := ⟨rfl, rfl, rfl⟩
theorem mapreq (c : Ctl) (a : Opnd) (b : Opnd) : Statement (.mapreq c a b) := ⟨rfl, rfl, rfl⟩
theorem srd (c : Ctl) (num : BitVec 12) (d : Opnd) : Statement (.srd c num d) := ⟨rfl, rfl, rfl⟩
theorem swr (c : Ctl) (num : BitVec 12) (a : Opnd) : Statement (.swr c num a) := ⟨rfl, rfl, rfl⟩
theorem uread (c : Ctl) (wide : Bool) (u : Opnd) (d : Opnd) : Statement (.uread c wide u d) := ⟨rfl, rfl, rfl⟩
theorem uwrite (c : Ctl) (wide : Bool) (u : Opnd) (a : Opnd) : Statement (.uwrite c wide u a) := ⟨rfl, rfl, rfl⟩
theorem bkpt (c : Ctl) (tag : BitVec 8) : Statement (.bkpt c tag) := ⟨rfl, rfl, rfl⟩
theorem put (c : Ctl) (d : Opnd) (a : Opnd) (b : Opnd) (x : Opnd) : Statement (.put c d a b x) := ⟨rfl, rfl, rfl⟩
theorem get (c : Ctl) (d : Opnd) (a : Opnd) (b : Opnd) (x : Opnd) : Statement (.get c d a b x) := ⟨rfl, rfl, rfl⟩
theorem ratom (c : Ctl) (ty : Ty) (aop : AtomOp) (d : Opnd) (a : Opnd) (b : Opnd) (x : Opnd) : Statement (.ratom c ty aop d a b x) := ⟨rfl, rfl, rfl⟩
theorem coll (c : Ctl) (cop : CollOp) (cfmt : CollFmt) (cred : CollRed) (a : Opnd) (b : Opnd) : Statement (.coll c cop cfmt cred a b) := ⟨rfl, rfl, rfl⟩
theorem wstat (c : Ctl) (arrived : Bool) (d : Opnd) (a : Opnd) : Statement (.wstat c arrived d a) := ⟨rfl, rfl, rfl⟩
theorem activation (core : Nat) (part : Nat) : Statement (.activation core part) := ⟨rfl, rfl, rfl⟩
theorem fixedResultLands (op : Nat) : Statement (.fixedResultLands op) := ⟨rfl, rfl, rfl⟩
theorem icacheFill (core : Nat) (asid : Nat) (line : Nat) : Statement (.icacheFill core asid line) := ⟨rfl, rfl, rfl⟩
theorem sleepWake (grp : Nat) : Statement (.sleepWake grp) := ⟨rfl, rfl, rfl⟩
theorem accessPerform (op : Nat) (unit : Nat) : Statement (.accessPerform op unit) := ⟨rfl, rfl, rfl⟩
theorem accessComplete (op : Nat) : Statement (.accessComplete op) := ⟨rfl, rfl, rfl⟩
theorem leaseExpiry (core : Nat) (line : Nat) : Statement (.leaseExpiry core line) := ⟨rfl, rfl, rfl⟩
theorem queueLand (op : Nat) : Statement (.queueLand op) := ⟨rfl, rfl, rfl⟩
theorem queueRetire (grp : Nat) (qn : Nat) : Statement (.queueRetire grp qn) := ⟨rfl, rfl, rfl⟩
theorem copyTransferDone (op : Nat) : Statement (.copyTransferDone op) := ⟨rfl, rfl, rfl⟩
theorem reelExecute (core : Nat) (ctx : Nat) : Statement (.reelExecute core ctx) := ⟨rfl, rfl, rfl⟩
theorem preemptionSave (grp : Nat) : Statement (.preemptionSave grp) := ⟨rfl, rfl, rfl⟩
theorem noticeDelivery (grp : Nat) : Statement (.noticeDelivery grp) := ⟨rfl, rfl, rfl⟩
theorem lateMemUncorrectable (grp : Nat) : Statement (.lateMemUncorrectable grp) := ⟨rfl, rfl, rfl⟩
theorem softError (site : ErrorSite) (correctable : Bool) : Statement (.softError site correctable) := ⟨rfl, rfl, rfl⟩
theorem migration (block : Nat) (column : Nat) : Statement (.migration block column) := ⟨rfl, rfl, rfl⟩
theorem vigilRetry (line : Nat) : Statement (.vigilRetry line) := ⟨rfl, rfl, rfl⟩
theorem firstAttemptAnswer (op : Nat) : Statement (.firstAttemptAnswer op) := ⟨rfl, rfl, rfl⟩
theorem channelOverflowDelay (asid : Nat) (cell : Nat) : Statement (.channelOverflowDelay asid cell) := ⟨rfl, rfl, rfl⟩
theorem chunkPoolRetry (asid : Nat) : Statement (.chunkPoolRetry asid) := ⟨rfl, rfl, rfl⟩
theorem tbarCompletion (team : Nat) : Statement (.tbarCompletion team) := ⟨rfl, rfl, rfl⟩
theorem phaseEnd (team : Nat) : Statement (.phaseEnd team) := ⟨rfl, rfl, rfl⟩
theorem submissionTake (asid : Nat) : Statement (.submissionTake asid) := ⟨rfl, rfl, rfl⟩
theorem taskPull (core : Nat) (desc : Nat) : Statement (.taskPull core desc) := ⟨rfl, rfl, rfl⟩
theorem aging (stack : Nat) (desc : Nat) : Statement (.aging stack desc) := ⟨rfl, rfl, rfl⟩
theorem accountTick : Statement (.accountTick) := ⟨rfl, rfl, rfl⟩
theorem contextSwitchDeadline (asid : Nat) : Statement (.contextSwitchDeadline asid) := ⟨rfl, rfl, rfl⟩
theorem currentLimit (stretch : RailStretch) : Statement (.currentLimit stretch) := ⟨rfl, rfl, rfl⟩
theorem thermalTrip : Statement (.thermalTrip) := ⟨rfl, rfl, rfl⟩
theorem droop (stretch : CoreStretch) : Statement (.droop stretch) := ⟨rfl, rfl, rfl⟩
theorem powerGood (tjmin : BitVec 8) : Statement (.powerGood tjmin) := ⟨rfl, rfl, rfl⟩
theorem hostImageOffer (image : List Byte) : Statement (.hostImageOffer image) := ⟨rfl, rfl, rfl⟩
theorem channelRetrain (column : Nat) : Statement (.channelRetrain column) := ⟨rfl, rfl, rfl⟩
theorem busRepair (column : Nat) : Statement (.busRepair column) := ⟨rfl, rfl, rfl⟩
theorem splitChange (cluster : Nat) : Statement (.splitChange cluster) := ⟨rfl, rfl, rfl⟩
theorem mapreqAnswer (req : Nat) : Statement (.mapreqAnswer req) := ⟨rfl, rfl, rfl⟩
theorem firmwareEventDeliver : Statement (.firmwareEventDeliver) := ⟨rfl, rfl, rfl⟩
theorem hostWrite (hwin : BitVec 6) (offset : BitVec 48) (words : List Word) : Statement (.hostWrite hwin offset words) := ⟨rfl, rfl, rfl⟩
theorem hostRead (hwin : BitVec 6) (offset : BitVec 48) (len : BitVec 10) (tag : BitVec 8) : Statement (.hostRead hwin offset len tag) := ⟨rfl, rfl, rfl⟩
theorem registerWrite (reg : HostReg) (value : Word) : Statement (.registerWrite reg value) := ⟨rfl, rfl, rfl⟩
theorem sqtail (asid : Nat) (tail : BitVec 32) : Statement (.sqtail asid tail) := ⟨rfl, rfl, rfl⟩
theorem sqstatOver (asid : Nat) (value : Word) : Statement (.sqstatOver asid value) := ⟨rfl, rfl, rfl⟩
theorem ctxCreate : Statement (.ctxCreate) := ⟨rfl, rfl, rfl⟩
theorem ctxTeardown : Statement (.ctxTeardown) := ⟨rfl, rfl, rfl⟩
theorem ctxSwitch : Statement (.ctxSwitch) := ⟨rfl, rfl, rfl⟩
theorem ctxResume : Statement (.ctxResume) := ⟨rfl, rfl, rfl⟩
theorem energySet : Statement (.energySet) := ⟨rfl, rfl, rfl⟩
theorem capRaise : Statement (.capRaise) := ⟨rfl, rfl, rfl⟩
theorem shootdown : Statement (.shootdown) := ⟨rfl, rfl, rfl⟩
theorem hash : Statement (.hash) := ⟨rfl, rfl, rfl⟩
theorem attest : Statement (.attest) := ⟨rfl, rfl, rfl⟩
theorem faultLog : Statement (.faultLog) := ⟨rfl, rfl, rfl⟩
theorem routeSet : Statement (.routeSet) := ⟨rfl, rfl, rfl⟩
theorem routeLock : Statement (.routeLock) := ⟨rfl, rfl, rfl⟩
theorem migrateAnswer : Statement (.migrateAnswer) := ⟨rfl, rfl, rfl⟩
theorem splitSet : Statement (.splitSet) := ⟨rfl, rfl, rfl⟩
theorem haltCmd (stack : Nat) : Statement (.haltCmd stack) := ⟨rfl, rfl, rfl⟩
theorem readCmd (stack : Nat) : Statement (.readCmd stack) := ⟨rfl, rfl, rfl⟩
theorem writeCmd (stack : Nat) : Statement (.writeCmd stack) := ⟨rfl, rfl, rfl⟩
theorem stepCmd (stack : Nat) : Statement (.stepCmd stack) := ⟨rfl, rfl, rfl⟩
theorem breakCmd (stack : Nat) : Statement (.breakCmd stack) := ⟨rfl, rfl, rfl⟩
theorem resumeCmd (stack : Nat) : Statement (.resumeCmd stack) := ⟨rfl, rfl, rfl⟩
theorem splitsCmd (stack : Nat) : Statement (.splitsCmd stack) := ⟨rfl, rfl, rfl⟩
theorem lanternEvent (stack : Nat) : Statement (.lanternEvent stack) := ⟨rfl, rfl, rfl⟩
theorem part (f : Frame) : Statement (.part f) := ⟨rfl, rfl, rfl⟩
theorem result (f : Frame) : Statement (.result f) := ⟨rfl, rfl, rfl⟩
theorem block (f : Frame) : Statement (.block f) := ⟨rfl, rfl, rfl⟩
theorem abort (f : Frame) : Statement (.abort f) := ⟨rfl, rfl, rfl⟩
theorem faddr (f : Frame) : Statement (.faddr f) := ⟨rfl, rfl, rfl⟩
theorem transactionWrite (x : Xact) : Statement (.transactionWrite x) := ⟨rfl, rfl, rfl⟩
theorem transactionRead (x : Xact) : Statement (.transactionRead x) := ⟨rfl, rfl, rfl⟩
theorem transactionReadCompletion (x : Xact) : Statement (.transactionReadCompletion x) := ⟨rfl, rfl, rfl⟩
theorem transactionAtomic (x : Xact) (ty : Ty) (aop : AtomOp) : Statement (.transactionAtomic x ty aop) := ⟨rfl, rfl, rfl⟩
theorem linkFailure (port : Nat) : Statement (.linkFailure port) := ⟨rfl, rfl, rfl⟩
theorem matrixCompletion (op : Nat) : Statement (.matrixCompletion op) := ⟨rfl, rfl, rfl⟩
theorem launchAcceptance (op : Nat) : Statement (.launchAcceptance op) := ⟨rfl, rfl, rfl⟩
theorem faddFrame (f : Frame) : Statement (.faddFrame f) := ⟨rfl, rfl, rfl⟩
theorem reservedFrameDrop (f : Frame) : Statement (.reservedFrameDrop f) := ⟨rfl, rfl, rfl⟩
theorem transactionAtomicCompletion (x : Xact) : Statement (.transactionAtomicCompletion x) := ⟨rfl, rfl, rfl⟩
theorem addressBreakpoint (grp : Nat) : Statement (.addressBreakpoint grp) := ⟨rfl, rfl, rfl⟩
theorem trackingLoop (mhz : CoreRate) : Statement (.trackingLoop mhz) := ⟨rfl, rfl, rfl⟩
theorem nopCompact (c : CCtl) : Statement (.nopCompact c) := ⟨rfl, rfl, rfl⟩
theorem movZ32Compact (c : CCtl) (d : COpnd) (a : COpnd) : Statement (.movZ32Compact c d a) := ⟨rfl, rfl, rfl⟩
theorem movZ64Compact (c : CCtl) (d : COpnd) (a : COpnd) : Statement (.movZ64Compact c d a) := ⟨rfl, rfl, rfl⟩
theorem movwCompact (c : CCtl) (d : COpnd) (a : COpnd) : Statement (.movwCompact c d a) := ⟨rfl, rfl, rfl⟩
theorem nrelCompact (c : CCtl) (d : COpnd) : Statement (.nrelCompact c d) := ⟨rfl, rfl, rfl⟩
theorem strandCompact (c : CCtl) : Statement (.strandCompact c) := ⟨rfl, rfl, rfl⟩
theorem parkCompact (c : CCtl) : Statement (.parkCompact c) := ⟨rfl, rfl, rfl⟩
theorem exitCompact (c : CCtl) : Statement (.exitCompact c) := ⟨rfl, rfl, rfl⟩
theorem retCompact (c : CCtl) : Statement (.retCompact c) := ⟨rfl, rfl, rfl⟩
theorem joinCompact (c : CCtl) : Statement (.joinCompact c) := ⟨rfl, rfl, rfl⟩
theorem yieldCompact (c : CCtl) : Statement (.yieldCompact c) := ⟨rfl, rfl, rfl⟩
theorem tbarCompact (c : CCtl) : Statement (.tbarCompact c) := ⟨rfl, rfl, rfl⟩
theorem tdoneCompact (c : CCtl) : Statement (.tdoneCompact c) := ⟨rfl, rfl, rfl⟩
theorem iaddS32Compact (c : CCtl) (d : COpnd) (a : COpnd) (b : COpnd) : Statement (.iaddS32Compact c d a b) := ⟨rfl, rfl, rfl⟩
theorem iaddZ32Compact (c : CCtl) (d : COpnd) (a : COpnd) (b : COpnd) : Statement (.iaddZ32Compact c d a b) := ⟨rfl, rfl, rfl⟩
theorem isubS32Compact (c : CCtl) (d : COpnd) (a : COpnd) (b : COpnd) : Statement (.isubS32Compact c d a b) := ⟨rfl, rfl, rfl⟩
theorem isubZ32Compact (c : CCtl) (d : COpnd) (a : COpnd) (b : COpnd) : Statement (.isubZ32Compact c d a b) := ⟨rfl, rfl, rfl⟩
theorem iadd64Z64Compact (c : CCtl) (d : COpnd) (a : COpnd) (b : COpnd) : Statement (.iadd64Z64Compact c d a b) := ⟨rfl, rfl, rfl⟩
theorem iaddS32SatCompact (c : CCtl) (d : COpnd) (a : COpnd) (b : COpnd) : Statement (.iaddS32SatCompact c d a b) := ⟨rfl, rfl, rfl⟩
theorem isubS32SatCompact (c : CCtl) (d : COpnd) (a : COpnd) (b : COpnd) : Statement (.isubS32SatCompact c d a b) := ⟨rfl, rfl, rfl⟩
theorem iaddZ32SatCompact (c : CCtl) (d : COpnd) (a : COpnd) (b : COpnd) : Statement (.iaddZ32SatCompact c d a b) := ⟨rfl, rfl, rfl⟩
theorem imulS32Compact (c : CCtl) (d : COpnd) (a : COpnd) (b : COpnd) : Statement (.imulS32Compact c d a b) := ⟨rfl, rfl, rfl⟩
theorem imulZ32Compact (c : CCtl) (d : COpnd) (a : COpnd) (b : COpnd) : Statement (.imulZ32Compact c d a b) := ⟨rfl, rfl, rfl⟩
theorem imulhS32Compact (c : CCtl) (d : COpnd) (a : COpnd) (b : COpnd) : Statement (.imulhS32Compact c d a b) := ⟨rfl, rfl, rfl⟩
theorem imulhZ32Compact (c : CCtl) (d : COpnd) (a : COpnd) (b : COpnd) : Statement (.imulhZ32Compact c d a b) := ⟨rfl, rfl, rfl⟩
theorem idivS32Compact (c : CCtl) (d : COpnd) (a : COpnd) (b : COpnd) : Statement (.idivS32Compact c d a b) := ⟨rfl, rfl, rfl⟩
theorem idivZ32Compact (c : CCtl) (d : COpnd) (a : COpnd) (b : COpnd) : Statement (.idivZ32Compact c d a b) := ⟨rfl, rfl, rfl⟩
theorem iremS32Compact (c : CCtl) (d : COpnd) (a : COpnd) (b : COpnd) : Statement (.iremS32Compact c d a b) := ⟨rfl, rfl, rfl⟩
theorem iremZ32Compact (c : CCtl) (d : COpnd) (a : COpnd) (b : COpnd) : Statement (.iremZ32Compact c d a b) := ⟨rfl, rfl, rfl⟩
theorem iminS32Compact (c : CCtl) (d : COpnd) (a : COpnd) (b : COpnd) : Statement (.iminS32Compact c d a b) := ⟨rfl, rfl, rfl⟩
theorem iminZ32Compact (c : CCtl) (d : COpnd) (a : COpnd) (b : COpnd) : Statement (.iminZ32Compact c d a b) := ⟨rfl, rfl, rfl⟩
theorem imaxS32Compact (c : CCtl) (d : COpnd) (a : COpnd) (b : COpnd) : Statement (.imaxS32Compact c d a b) := ⟨rfl, rfl, rfl⟩
theorem imaxZ32Compact (c : CCtl) (d : COpnd) (a : COpnd) (b : COpnd) : Statement (.imaxZ32Compact c d a b) := ⟨rfl, rfl, rfl⟩
theorem iabsS32Compact (c : CCtl) (d : COpnd) (a : COpnd) : Statement (.iabsS32Compact c d a) := ⟨rfl, rfl, rfl⟩
theorem inegS32Compact (c : CCtl) (d : COpnd) (a : COpnd) : Statement (.inegS32Compact c d a) := ⟨rfl, rfl, rfl⟩
theorem popcZ32Compact (c : CCtl) (d : COpnd) (a : COpnd) : Statement (.popcZ32Compact c d a) := ⟨rfl, rfl, rfl⟩
theorem clzZ32Compact (c : CCtl) (d : COpnd) (a : COpnd) : Statement (.clzZ32Compact c d a) := ⟨rfl, rfl, rfl⟩
theorem andZ32Compact (c : CCtl) (d : COpnd) (a : COpnd) (b : COpnd) : Statement (.andZ32Compact c d a b) := ⟨rfl, rfl, rfl⟩
theorem orZ32Compact (c : CCtl) (d : COpnd) (a : COpnd) (b : COpnd) : Statement (.orZ32Compact c d a b) := ⟨rfl, rfl, rfl⟩
theorem xorZ32Compact (c : CCtl) (d : COpnd) (a : COpnd) (b : COpnd) : Statement (.xorZ32Compact c d a b) := ⟨rfl, rfl, rfl⟩
theorem andnZ32Compact (c : CCtl) (d : COpnd) (a : COpnd) (b : COpnd) : Statement (.andnZ32Compact c d a b) := ⟨rfl, rfl, rfl⟩
theorem notZ32Compact (c : CCtl) (d : COpnd) (a : COpnd) : Statement (.notZ32Compact c d a) := ⟨rfl, rfl, rfl⟩
theorem brevZ32Compact (c : CCtl) (d : COpnd) (a : COpnd) : Statement (.brevZ32Compact c d a) := ⟨rfl, rfl, rfl⟩
theorem andZ64Compact (c : CCtl) (d : COpnd) (a : COpnd) (b : COpnd) : Statement (.andZ64Compact c d a b) := ⟨rfl, rfl, rfl⟩
theorem orZ64Compact (c : CCtl) (d : COpnd) (a : COpnd) (b : COpnd) : Statement (.orZ64Compact c d a b) := ⟨rfl, rfl, rfl⟩
theorem shlZ32Compact (c : CCtl) (d : COpnd) (a : COpnd) (b : COpnd) : Statement (.shlZ32Compact c d a b) := ⟨rfl, rfl, rfl⟩
theorem shrZ32Compact (c : CCtl) (d : COpnd) (a : COpnd) (b : COpnd) : Statement (.shrZ32Compact c d a b) := ⟨rfl, rfl, rfl⟩
theorem sarS32Compact (c : CCtl) (d : COpnd) (a : COpnd) (b : COpnd) : Statement (.sarS32Compact c d a b) := ⟨rfl, rfl, rfl⟩
theorem rotZ32Compact (c : CCtl) (d : COpnd) (a : COpnd) (b : COpnd) : Statement (.rotZ32Compact c d a b) := ⟨rfl, rfl, rfl⟩
theorem shlZ64Compact (c : CCtl) (d : COpnd) (a : COpnd) (b : COpnd) : Statement (.shlZ64Compact c d a b) := ⟨rfl, rfl, rfl⟩
theorem shrZ64Compact (c : CCtl) (d : COpnd) (a : COpnd) (b : COpnd) : Statement (.shrZ64Compact c d a b) := ⟨rfl, rfl, rfl⟩
theorem sarS64Compact (c : CCtl) (d : COpnd) (a : COpnd) (b : COpnd) : Statement (.sarS64Compact c d a b) := ⟨rfl, rfl, rfl⟩
theorem xorZ64Compact (c : CCtl) (d : COpnd) (a : COpnd) (b : COpnd) : Statement (.xorZ64Compact c d a b) := ⟨rfl, rfl, rfl⟩
theorem isetEqS32Compact (c : CCtl) (d : COpnd) (a : COpnd) (b : COpnd) : Statement (.isetEqS32Compact c d a b) := ⟨rfl, rfl, rfl⟩
theorem isetNeS32Compact (c : CCtl) (d : COpnd) (a : COpnd) (b : COpnd) : Statement (.isetNeS32Compact c d a b) := ⟨rfl, rfl, rfl⟩
theorem isetLtS32Compact (c : CCtl) (d : COpnd) (a : COpnd) (b : COpnd) : Statement (.isetLtS32Compact c d a b) := ⟨rfl, rfl, rfl⟩
theorem isetLeS32Compact (c : CCtl) (d : COpnd) (a : COpnd) (b : COpnd) : Statement (.isetLeS32Compact c d a b) := ⟨rfl, rfl, rfl⟩
theorem isetGtS32Compact (c : CCtl) (d : COpnd) (a : COpnd) (b : COpnd) : Statement (.isetGtS32Compact c d a b) := ⟨rfl, rfl, rfl⟩
theorem isetGeS32Compact (c : CCtl) (d : COpnd) (a : COpnd) (b : COpnd) : Statement (.isetGeS32Compact c d a b) := ⟨rfl, rfl, rfl⟩
theorem isetLtZ32Compact (c : CCtl) (d : COpnd) (a : COpnd) (b : COpnd) : Statement (.isetLtZ32Compact c d a b) := ⟨rfl, rfl, rfl⟩
theorem isetGeZ32Compact (c : CCtl) (d : COpnd) (a : COpnd) (b : COpnd) : Statement (.isetGeZ32Compact c d a b) := ⟨rfl, rfl, rfl⟩
theorem faddF32Compact (c : CCtl) (d : COpnd) (a : COpnd) (b : COpnd) : Statement (.faddF32Compact c d a b) := ⟨rfl, rfl, rfl⟩
theorem fsubF32Compact (c : CCtl) (d : COpnd) (a : COpnd) (b : COpnd) : Statement (.fsubF32Compact c d a b) := ⟨rfl, rfl, rfl⟩
theorem fmulF32Compact (c : CCtl) (d : COpnd) (a : COpnd) (b : COpnd) : Statement (.fmulF32Compact c d a b) := ⟨rfl, rfl, rfl⟩
theorem fminF32Compact (c : CCtl) (d : COpnd) (a : COpnd) (b : COpnd) : Statement (.fminF32Compact c d a b) := ⟨rfl, rfl, rfl⟩
theorem fmaxF32Compact (c : CCtl) (d : COpnd) (a : COpnd) (b : COpnd) : Statement (.fmaxF32Compact c d a b) := ⟨rfl, rfl, rfl⟩
theorem faddF32FtzCompact (c : CCtl) (d : COpnd) (a : COpnd) (b : COpnd) : Statement (.faddF32FtzCompact c d a b) := ⟨rfl, rfl, rfl⟩
theorem fsubF32FtzCompact (c : CCtl) (d : COpnd) (a : COpnd) (b : COpnd) : Statement (.fsubF32FtzCompact c d a b) := ⟨rfl, rfl, rfl⟩
theorem fmulF32FtzCompact (c : CCtl) (d : COpnd) (a : COpnd) (b : COpnd) : Statement (.fmulF32FtzCompact c d a b) := ⟨rfl, rfl, rfl⟩
theorem fsetEqF32Compact (c : CCtl) (d : COpnd) (a : COpnd) (b : COpnd) : Statement (.fsetEqF32Compact c d a b) := ⟨rfl, rfl, rfl⟩
theorem fsetNeF32Compact (c : CCtl) (d : COpnd) (a : COpnd) (b : COpnd) : Statement (.fsetNeF32Compact c d a b) := ⟨rfl, rfl, rfl⟩
theorem fsetLtF32Compact (c : CCtl) (d : COpnd) (a : COpnd) (b : COpnd) : Statement (.fsetLtF32Compact c d a b) := ⟨rfl, rfl, rfl⟩
theorem fsetLeF32Compact (c : CCtl) (d : COpnd) (a : COpnd) (b : COpnd) : Statement (.fsetLeF32Compact c d a b) := ⟨rfl, rfl, rfl⟩
theorem fsetGtF32Compact (c : CCtl) (d : COpnd) (a : COpnd) (b : COpnd) : Statement (.fsetGtF32Compact c d a b) := ⟨rfl, rfl, rfl⟩
theorem fsetGeF32Compact (c : CCtl) (d : COpnd) (a : COpnd) (b : COpnd) : Statement (.fsetGeF32Compact c d a b) := ⟨rfl, rfl, rfl⟩
theorem fsetUnF32Compact (c : CCtl) (d : COpnd) (a : COpnd) (b : COpnd) : Statement (.fsetUnF32Compact c d a b) := ⟨rfl, rfl, rfl⟩
theorem frndF32Compact (c : CCtl) (d : COpnd) (a : COpnd) : Statement (.frndF32Compact c d a) := ⟨rfl, rfl, rfl⟩
theorem frcpF32Compact (c : CCtl) (d : COpnd) (a : COpnd) : Statement (.frcpF32Compact c d a) := ⟨rfl, rfl, rfl⟩
theorem frsqF32Compact (c : CCtl) (d : COpnd) (a : COpnd) : Statement (.frsqF32Compact c d a) := ⟨rfl, rfl, rfl⟩
theorem fsqrtF32Compact (c : CCtl) (d : COpnd) (a : COpnd) : Statement (.fsqrtF32Compact c d a) := ⟨rfl, rfl, rfl⟩
theorem fex2F32Compact (c : CCtl) (d : COpnd) (a : COpnd) : Statement (.fex2F32Compact c d a) := ⟨rfl, rfl, rfl⟩
theorem flg2F32Compact (c : CCtl) (d : COpnd) (a : COpnd) : Statement (.flg2F32Compact c d a) := ⟨rfl, rfl, rfl⟩
theorem fsinF32Compact (c : CCtl) (d : COpnd) (a : COpnd) : Statement (.fsinF32Compact c d a) := ⟨rfl, rfl, rfl⟩
theorem fcosF32Compact (c : CCtl) (d : COpnd) (a : COpnd) : Statement (.fcosF32Compact c d a) := ⟨rfl, rfl, rfl⟩
theorem frndF32RzCompact (c : CCtl) (d : COpnd) (a : COpnd) : Statement (.frndF32RzCompact c d a) := ⟨rfl, rfl, rfl⟩
theorem f2iS32F32RzCompact (c : CCtl) (d : COpnd) (a : COpnd) : Statement (.f2iS32F32RzCompact c d a) := ⟨rfl, rfl, rfl⟩
theorem f2iZ32F32RzCompact (c : CCtl) (d : COpnd) (a : COpnd) : Statement (.f2iZ32F32RzCompact c d a) := ⟨rfl, rfl, rfl⟩
theorem i2fF32S32Compact (c : CCtl) (d : COpnd) (a : COpnd) : Statement (.i2fF32S32Compact c d a) := ⟨rfl, rfl, rfl⟩
theorem i2fF32Z32Compact (c : CCtl) (d : COpnd) (a : COpnd) : Statement (.i2fF32Z32Compact c d a) := ⟨rfl, rfl, rfl⟩
theorem cvtF16F32Compact (c : CCtl) (d : COpnd) (a : COpnd) : Statement (.cvtF16F32Compact c d a) := ⟨rfl, rfl, rfl⟩
theorem cvtF32F16Compact (c : CCtl) (d : COpnd) (a : COpnd) : Statement (.cvtF32F16Compact c d a) := ⟨rfl, rfl, rfl⟩
theorem cvtBf16F32Compact (c : CCtl) (d : COpnd) (a : COpnd) : Statement (.cvtBf16F32Compact c d a) := ⟨rfl, rfl, rfl⟩
theorem cvtF32Bf16Compact (c : CCtl) (d : COpnd) (a : COpnd) : Statement (.cvtF32Bf16Compact c d a) := ⟨rfl, rfl, rfl⟩
theorem packE4m3Compact (c : CCtl) (d : COpnd) (a : COpnd) (b : COpnd) : Statement (.packE4m3Compact c d a b) := ⟨rfl, rfl, rfl⟩
theorem packE5m2Compact (c : CCtl) (d : COpnd) (a : COpnd) (b : COpnd) : Statement (.packE5m2Compact c d a b) := ⟨rfl, rfl, rfl⟩
theorem packE2m1Compact (c : CCtl) (d : COpnd) (a : COpnd) (b : COpnd) : Statement (.packE2m1Compact c d a b) := ⟨rfl, rfl, rfl⟩
theorem packBf16Compact (c : CCtl) (d : COpnd) (a : COpnd) (b : COpnd) : Statement (.packBf16Compact c d a b) := ⟨rfl, rfl, rfl⟩
theorem unpkE4m3Compact (c : CCtl) (d : COpnd) (a : COpnd) : Statement (.unpkE4m3Compact c d a) := ⟨rfl, rfl, rfl⟩
theorem unpkE5m2Compact (c : CCtl) (d : COpnd) (a : COpnd) : Statement (.unpkE5m2Compact c d a) := ⟨rfl, rfl, rfl⟩
theorem unpkE2m1Compact (c : CCtl) (d : COpnd) (a : COpnd) : Statement (.unpkE2m1Compact c d a) := ⟨rfl, rfl, rfl⟩
theorem unpkBf16Compact (c : CCtl) (d : COpnd) (a : COpnd) : Statement (.unpkBf16Compact c d a) := ⟨rfl, rfl, rfl⟩
theorem dot4S8Compact (c : CCtl) (d : COpnd) (a : COpnd) (b : COpnd) : Statement (.dot4S8Compact c d a b) := ⟨rfl, rfl, rfl⟩
theorem dot8S4Compact (c : CCtl) (d : COpnd) (a : COpnd) (b : COpnd) : Statement (.dot8S4Compact c d a b) := ⟨rfl, rfl, rfl⟩
theorem fdot4E4m3Compact (c : CCtl) (d : COpnd) (a : COpnd) (b : COpnd) : Statement (.fdot4E4m3Compact c d a b) := ⟨rfl, rfl, rfl⟩
theorem fdot4E5m2Compact (c : CCtl) (d : COpnd) (a : COpnd) (b : COpnd) : Statement (.fdot4E5m2Compact c d a b) := ⟨rfl, rfl, rfl⟩
theorem shflIdxCompact (c : CCtl) (d : COpnd) (a : COpnd) (b : COpnd) : Statement (.shflIdxCompact c d a b) := ⟨rfl, rfl, rfl⟩
theorem shflUpCompact (c : CCtl) (d : COpnd) (a : COpnd) (b : COpnd) : Statement (.shflUpCompact c d a b) := ⟨rfl, rfl, rfl⟩
theorem shflDownCompact (c : CCtl) (d : COpnd) (a : COpnd) (b : COpnd) : Statement (.shflDownCompact c d a b) := ⟨rfl, rfl, rfl⟩
theorem shflXorCompact (c : CCtl) (d : COpnd) (a : COpnd) (b : COpnd) : Statement (.shflXorCompact c d a b) := ⟨rfl, rfl, rfl⟩
theorem matchZ32Compact (c : CCtl) (d : COpnd) (a : COpnd) : Statement (.matchZ32Compact c d a) := ⟨rfl, rfl, rfl⟩
theorem matchZ64Compact (c : CCtl) (d : COpnd) (a : COpnd) : Statement (.matchZ64Compact c d a) := ⟨rfl, rfl, rfl⟩
theorem bfeZ32Compact (c : CCtl) (d : COpnd) (a : COpnd) (b : COpnd) : Statement (.bfeZ32Compact c d a b) := ⟨rfl, rfl, rfl⟩
theorem bfeS32Compact (c : CCtl) (d : COpnd) (a : COpnd) (b : COpnd) : Statement (.bfeS32Compact c d a b) := ⟨rfl, rfl, rfl⟩
theorem popcZ64Compact (c : CCtl) (d : COpnd) (a : COpnd) : Statement (.popcZ64Compact c d a) := ⟨rfl, rfl, rfl⟩
theorem clzZ64Compact (c : CCtl) (d : COpnd) (a : COpnd) : Statement (.clzZ64Compact c d a) := ⟨rfl, rfl, rfl⟩
theorem ldPoolZ32Compact (c : CCtl) (d : COpnd) (a : COpnd) : Statement (.ldPoolZ32Compact c d a) := ⟨rfl, rfl, rfl⟩
theorem stPoolZ32Compact (c : CCtl) (a : COpnd) (b : COpnd) : Statement (.stPoolZ32Compact c a b) := ⟨rfl, rfl, rfl⟩
theorem ldCoreZ32Compact (c : CCtl) (d : COpnd) (a : COpnd) : Statement (.ldCoreZ32Compact c d a) := ⟨rfl, rfl, rfl⟩
theorem stCoreZ32Compact (c : CCtl) (a : COpnd) (b : COpnd) : Statement (.stCoreZ32Compact c a b) := ⟨rfl, rfl, rfl⟩
theorem ldLaneZ32Compact (c : CCtl) (d : COpnd) (a : COpnd) : Statement (.ldLaneZ32Compact c d a) := ⟨rfl, rfl, rfl⟩
theorem stLaneZ32Compact (c : CCtl) (a : COpnd) (b : COpnd) : Statement (.stLaneZ32Compact c a b) := ⟨rfl, rfl, rfl⟩
theorem ldGlobZ32Compact (c : CCtl) (d : COpnd) (a : COpnd) : Statement (.ldGlobZ32Compact c d a) := ⟨rfl, rfl, rfl⟩
theorem stGlobZ32Compact (c : CCtl) (a : COpnd) (b : COpnd) : Statement (.stGlobZ32Compact c a b) := ⟨rfl, rfl, rfl⟩
theorem ldCoreZ64Compact (c : CCtl) (d : COpnd) (a : COpnd) : Statement (.ldCoreZ64Compact c d a) := ⟨rfl, rfl, rfl⟩
theorem stCoreZ64Compact (c : CCtl) (a : COpnd) (b : COpnd) : Statement (.stCoreZ64Compact c a b) := ⟨rfl, rfl, rfl⟩

end Sys2Proof.Laws.Form
end

