-- ==== Sys2Proof/Tests/Slice0.lean ====
section
/-! SUPPORT. Tests: words written out bit by bit from the spec's encodings, ill-formed terms that the checks refuse, small steps whose results
are worked out from the spec, and for every statement with hypotheses a state and operands that meet them. -/

namespace Sys2Proof.Tests

set_option Elab.async false
open Sys2Proof Sys2Proof.Machine Sys2Proof.Claims

/-! ## A small device: one context, launch, team and group, its first GiB mapped one to one for reading and writing -/

/-- Its page tables at 0x100000; the live table of its kernel at 0x12000, whose one entry names D0 to D63 and every S register; its trap
table at 0x20000, with one handler for every code; window 1 at 0x30040 and collective group 1, of two devices, at 0x38010. -/
def demoMem : Mem :=
  [(0x12000, 8, 2 ^ 64 - 1), (0x12020, 8, 2 ^ 64 - 1), (0x20000, 8, 0x10800), (0x30040, 8, 0x60000), (0x30048, 8, 0x100001000), (0x38010, 8, 2),
    (0x38018, 8, 0x39000), (0x48000, 8, 7), (0x70000, 8, 1), (0x100000, 8, 0x20000001), (0x200000, 8, 0x207)].foldl
    (fun m (e : Nat × Nat × Nat) => writeNat m e.1 e.2.1 e.2.2) []

def demoContext : Context :=
  { newContext 0 1 with ptroot := 1, sqLog := 4, saveSize := 1000000, trapTab := 0x20000, winTab := 0x30000, cgTab := 0x38000, taskPool := 0x48000, taskPN := 1, bal := 1000 }

/-- The constants of its kernel: the data at 0x60000, a cell at 0x70000, window and collective group 1, an address without a page, a
misaligned address, an instruction's address, and one beyond the address space. -/
def demoConsts : Cells 32 :=
  [(0, 0x60000), (2, 0x70000), (4, 0x00010001), (6, 0x40000000), (8, 0x60002), (10, 0x10200), (12, 0x8000), (13, 0x1000000), (14, 0x1000), (16, 16), (17, 128),
    (18, 0x40000), (20, 0x4000), (23, 0x422), (24, 255), (25, 256)]

def demoLaunch (width : Nat) : Launch :=
  { uid := 2, asid := 1, recAddr := 0
    image := { addr := 0x10000, width := width, codeOff := 0x100, codeSize := 0x1000, liveOff := 0x2000, liveCnt := 1, carryOff := 0x3000
               carryCnt := 1, sliceOff := 0x4000, sliceCnt := 1, estimate := 0 }
    spawned := false, teams := 1, groups := 1, prio := 0, policy := false, bridle := false, roles := [⟨1, 64, 0⟩], tscr := 65536, lanez := 64
    pool := 4096, kbank := demoConsts, ecap := 0, pmap := [0], future := 0, prBase := 0x50000, prgBlk := 64, desc := 0x40000, parent := none, stack := 0
    begun := [0], ended := [], endgs := [], clean := 0, complete := false, regions := [(0, 0)], used := 0, capped := false }

/-- Its queue 1: four slots at 0x100, two of them filled. -/
def demoQueue : Queue :=
  { init := true, size := 4, head := 1, tail := 3, free := 2, filled := 2, base := 0x100, reserved := [(30, 2, true)], held := [] }

def demoTeam : Team :=
  { uid := 3, launch := 2, index := 0, asid := 1, task := 0x40000, phase := 0, core := 0, bridle := false, placed := 1, base := 0, base2 := 0
    tregs := [], twrites := [], queues := [(1, demoQueue)], before := [], exited := [], parking := none, released := false }

/-- Its S registers: a COPY's shape in S20 to S23. -/
def demoScalars : Cells 32 := [(20, 2), (21, 8), (22, 16), (23, 16)]

def demoSplit (width : Nat) : Split :=
  { id := 0, lanes := Lanes.below width, pc := 0x10140, join := none, sfile := demoScalars, written := 0, own := false, held := false, last := 0, base := 0
    notBefore := 0, waited := 0 }

/-- A group in its slot, in a strand that began at its entry point. -/
def demoGroup (width : Nat) : Group :=
  let g := newGroup (demoLaunch width) 3 4 0 0 0x20000 0
  { g with place := .active 0 0, bank := { g.bank with splits := [demoSplit width], preds := [(1, 0xF), (2, 1)] }, strand := { g.strand with pc := 0x10100 } }

/-- Control fields that ask for nothing. -/
def plain : Ctl := ⟨0, 0, 15, false, false, false, 7⟩

/-- The line at 0x10140: an IADD, a STRAND, words of no instruction, and a NOP. -/
def demoLine : ILine :=
  { core := 0, asid := 1, line := 0x405
    words := [0xC0003C21, 0x7000060A, 0xC14003E8] ++ encode (.strand plain 0) ++ [0xFFFFFFFF, 0xFFFFFFFF, 0xFFFFFFFF, 0x000F0000] ++ List.replicate 6 0
    priv := false, fail := none }

/-- A device at clk 10 whose group is `g`. -/
def demoWith (g : Group) : State :=
  { State.reset with
    clk := 10, time := 3300, stage := 7, nextId := 100, cur := .group 4 0 0x10140 12, turn := 1, dram := demoMem, contexts := [(1, demoContext)]
    launches := [(2, demoLaunch g.width)], teams := [(3, demoTeam)], groups := [(4, g)]
    icache := [demoLine], devid := some 1 }

def demo : State := demoWith (demoGroup 16)

/-- The delivery that a handler of the small device serves. -/
def demoDelivery : Delivery :=
  { id := 7, clk := 0, notice := false, code := 0x12, sw := false, split := 0, pc := 0x10140, len := 12, addr := 0x1234, more := false, resume := .re
    gather := none, debug := false }

/-- The group in a handler. -/
def handGroup : Group :=
  let g := demoGroup 16
  { g with
    hand := some { bank := { handlerBank g demoDelivery 0 0x10140 with splits := [{ demoSplit 16 with id := 0 }] }, serves := demoDelivery, serial := 0, exit := none
                   mapreq := none }
    handSerial := 1, deliveries := [demoDelivery] }

def demoHand : State := demoWith handGroup

/-- The guard `(p2)`, which holds in lane 0 only. -/
def one : Ctl := ⟨0, 0, 15, false, false, false, 2⟩
/-- The guard `(!p7)`, which holds in no lane. -/
def never : Ctl := ⟨0, 0, 15, false, false, true, 7⟩
def dd (n : BitVec 8) : Opnd := ⟨.d, n⟩
def ss (n : BitVec 8) : Opnd := ⟨.s, n⟩
def kk (n : BitVec 8) : Opnd := ⟨.k, n⟩
def ii (n : BitVec 8) : Opnd := ⟨.i, n⟩
def tt (n : BitVec 8) : Opnd := ⟨.t, n⟩

/-- An instruction issues at a state, and what it is at its issue passes a test. -/
def issuesAnd (s : State) (i : Instr) (p : Issue → State → Bool) : Bool :=
  match s.begin i with
  | none => false
  | some (x, t) =>
    s.cur == .group x.g.uid x.sp.id x.pc x.len && s.mayIssue x && !s.overrunDue x && (t.issueCheck x).isNone && (t.queueTrap x).isNone &&
      p x (t.took x)

theorem issuesAnd_met {s : State} {i : Instr} {p : Issue → State → Bool} (h : issuesAnd s i p = true) : ∃ x t, Issues s i x t ∧ p x t = true := by
  unfold issuesAnd at h
  split at h
  · cases h
  · next x t hb =>
    simp only [Bool.and_eq_true, beq_iff_eq, Bool.not_eq_true', Option.isNone_iff_eq_none] at h
    have hn : s.noted i = t := by simp [State.noted, hb]
    exact ⟨x, t.took x, ⟨h.1.1.1.1.1, by rw [hb, hn], h.1.1.1.1.2, h.1.1.1.2, by rw [hn]; exact h.1.1.2, by rw [hn]; exact h.1.2, by rw [hn]⟩, h.2⟩

def issues (s : State) (i : Instr) : Bool := issuesAnd s i fun _ _ => true

theorem issues_met {s : State} {i : Instr} (h : issues s i = true) : ∃ x t, Issues s i x t :=
  let ⟨x, t, hi, _⟩ := issuesAnd_met h
  ⟨x, t, hi⟩

/-! ## Well-formedness: one term for each check, which the check refuses -/

def nn (n : BitVec 8) : Opnd := ⟨.n, n⟩
def ww (n : BitVec 8) : Opnd := ⟨.w, n⟩
def qq (n : BitVec 8) : Opnd := ⟨.q, n⟩

theorem test_wf_accepts : ([.iadd plain .s32 false (dd 1) (dd 2) (dd 3), .brc plain .none 4 8, .pset plain .and .lt .s32 (tt 49) (dd 1) (dd 2) (tt 50),
    .copy { plain with set := 3 } .core .glob .flag 0 .null (ss 16) (ss 24) (ss 20), .qpush plain 2 (dd 30), .nopCompact ⟨0, 15, false⟩] : List Instr).all
    (·.wf) = true := by decide

/-- SET 12 to 14, COPY .flag and MAPREQ without a flag (R49, R225). -/
theorem test_wf_control : ([.nop { plain with set := 12 }, .nop { plain with set := 14 }, .nopCompact ⟨0, 13, false⟩,
    .copy plain .core .glob .flag 0 .null (ss 16) (ss 24) (ss 20), .mapreq plain (dd 6) (ii 0)] : List Instr).all (fun i => !i.controlOk) = true := by
  decide

/-- A type that the row does not take, one term for each row of the check (R54 to R59). -/
theorem test_wf_types : ([.mov plain .s32 (dd 1) (dd 2), .sel plain .f32 (dd 1) (dd 2) (dd 3) (tt 48), .iadd plain .z64 false (dd 1) (dd 2) (dd 3),
    .isub plain .f32 false (dd 1) (dd 2) (dd 3), .iaddImm plain .z16 false (dd 1) (dd 2) 5, .isubImm plain .s64 false (dd 1) (dd 2) 5,
    .iadd64 plain .s32 false (dd 2) (dd 4) (dd 6), .imul plain .s64 (dd 1) (dd 2) (dd 3), .imulh plain .f32 (dd 1) (dd 2) (dd 3),
    .imulImm plain .z8 (dd 1) (dd 2) 3, .imad plain .z64 (dd 1) (dd 2) (dd 3) (dd 4), .imadw plain .s64 (dd 2) (dd 4) (dd 5) (dd 6),
    .idiv plain .z64 (dd 1) (dd 2) (dd 3), .irem plain .s8 (dd 1) (dd 2) (dd 3), .imin plain .f32 (dd 1) (dd 2) (dd 3),
    .imax plain .z64 (dd 1) (dd 2) (dd 3), .lea plain .s32 false (dd 1) (dd 2) (dd 3) (ii 2), .lea plain .z32 true (dd 1) (dd 2) (dd 3) (ii 2),
    .and plain .s32 (dd 1) (dd 2) (dd 3), .or plain .s64 (dd 1) (dd 2) (dd 3), .xor plain .f32 (dd 1) (dd 2) (dd 3), .andn plain .z8 (dd 1) (dd 2) (dd 3),
    .not plain .s32 (dd 1) (dd 2), .shl plain .s32 (dd 1) (dd 2) (dd 3), .shr plain .s32 (dd 1) (dd 2) (dd 3), .sar plain .z32 (dd 1) (dd 2) (dd 3),
    .rot plain .s64 (dd 1) (dd 2) (dd 3), .bfe plain .z64 (dd 1) (dd 2) (dd 3), .popc plain .s32 (dd 1) (dd 2), .clz plain .f32 (dd 1) (dd 2),
    .brev plain .s64 (dd 1) (dd 2)] : List Instr).all (fun i => !i.modOk) = true := by decide

theorem test_wf_types2 : ([.iset plain .un .s32 (dd 1) (dd 2) (dd 3), .iset plain .eq .f32 (dd 1) (dd 2) (dd 3),
    .hfma2 plain .f32 false false false .rn false (dd 1) (dd 2) (dd 3) (dd 4), .f2i plain .z4 .f32 .rn false (dd 1) (dd 2),
    .f2i plain .s32 .e4m3 .rn false (dd 1) (dd 2), .i2f plain .e4m3 .s32 .rn false (dd 1) (dd 2), .cvt plain .f16 .f16 .rn false (dd 1) (dd 2),
    .pack plain .f16 2 .rn false (dd 1) (dd 2) (dd 3) (dd 4), .pack plain .f32 0 .rn false (dd 1) (dd 2) (dd 3) (dd 4),
    .unpk plain .e2m1 8 false (dd 1) (dd 2), .fdot4 plain .f16 (dd 1) (dd 2) (dd 3) (dd 4), .shfl plain .idx .s32 (dd 1) (dd 2) (dd 3) (ii 0),
    .matchI plain .s32 (dd 1) (dd 2), .pset plain .plain .ord .s32 (tt 49) (dd 1) (dd 2) .null, .pset plain .plain .eq .f16 (tt 49) (dd 1) (dd 2) .null,
    .cmprs plain .f32 (ss 1) (ss 2) (ss 3), .copy plain .lane .core .count 0 (ss 1) (ss 2) (ss 4) (ss 20),
    .copy plain .core .glob .count 1 (ss 1) (ss 2) (ss 4) (ss 20), .aqput plain 1 .lane (ss 4) (ss 6), .ld plain .core .f32 false (dd 1) (dd 2) (ii 0),
    .st plain .core .z32 false true (dd 1) (dd 2) (ii 0), .ldx plain .glob .s64 0 (dd 1) (dd 2) (ii 0), .stx plain .pool .z32 0 true (dd 1) (dd 2) (ii 0),
    .atom plain .lane .s32 .add .group (dd 1) (dd 2) (dd 4) (ii 0), .atom plain .glob .f32 .min .device (dd 1) (dd 2) (dd 4) (ii 0),
    .atomr plain .glob .s32 .exch .device (dd 2) (dd 4) (ii 0), .ratom plain .z8 .add (dd 1) (dd 2) (dd 4) (ss 2), .fwait plain .s32 (dd 1) (kk 4) (ii 0),
    .fsetFuture plain .f32 0 (kk 2) (ss 9) (ii 0), .chpush plain .s64 (kk 2) (dd 2) (ii 0), .chpop plain .s32 (dd 2) (kk 2) (ii 0),
    .coll plain .broadcast .f32 .max (dd 2) (ss 4)] : List Instr).all (fun i => !i.modOk) = true := by decide

/-- A destination at K, two Q fields, BRC's join 0, source C of a plain PSET, and D of COPY .flag (R44, R45, R47, R48). -/
theorem test_wf_operands : ([.iabs plain false (kk 1) (dd 2), .mov plain .z32 (qq 1) (qq 2), .brc plain .none 4 0,
    .pset plain .plain .lt .s32 (tt 49) (dd 1) (dd 2) (tt 50), .copy { plain with set := 3 } .core .glob .flag 0 (ss 1) (ss 16) (ss 24) (ss 20)] : List Instr).all
    (fun i => !i.operandsOk) = true := by decide

/-! ## Decoding: words written out from the spec's encodings -/

def flag (n : BitVec 4) : Ctl := { plain with set := n }

/-- The worked examples of R52: full, 8-byte and compact; SHR of 22, ST of R252. -/
theorem test_decode_alu :
    decodeWords [0xC0003C42, 0x70050286, 0x00106304] = .ok (.ffma plain .rn false (nn 0x43) (ww 0) (dd 12) (ss 4)) ∧
    decodeWords [0x83C00440, 0x7A4008A9] = .ok (.fmul { plain with wait := 1 } .rn false (ww 0) (nn 1) (dd 9)) ∧
    decodeWords [0x103F4C13] = .ok (.iaddS32Compact ⟨3, 15, false⟩ ⟨.d, 3⟩ ⟨.w, 0⟩ ⟨.d, 3⟩) ∧
    decodeWords [0xC0007C2A, 0x70001000, 0x8130FE00] = .ok (.shr { plain with wait := 1 } .z32 (ww 0) (dd 4) (ii 31)) ∧
    decodeWords [0x83C00C40, 0x7A401225] = .ok (.fmul { plain with wait := 3 } .rn false (ww 0) (dd 4) (dd 5)) := by decide +kernel

theorem test_decode_control :
    decodeWords [0xC4003D07, 0x10000000, 0x00FFFFE9] = .ok (.bra ⟨1, 0, 15, false, true, false, 1⟩ 0xFFFFE9) ∧
    decodeWords [0xC4003C08, 0x90002000, 0x0F000009] = .ok (.brc ⟨1, 0, 15, false, false, true, 1⟩ .unlikely 9 15) ∧
    decodeWords [0x83C00405, 0x70383060] = .ok (.strand { plain with wait := 1 } 1) ∧
    decodeWords [0x050F0000] = .ok (.strandCompact ⟨0, 15, false⟩) := by decide +kernel

theorem test_decode_matrix :
    decodeWords [0xC0004480, 0x70000C00, 0x4050A30A] = .ok (.mma { plain with wait := 1, set := 1 } 0 (nn 1) (dd 20) (ss 10)) ∧
    decodeWords [0xC0008881, 0x7000061A, 0xC318730F] = .ok (.mmas { plain with wait := 2, set := 2 } 0 (ss 13) (ss 12) (ss 14) (ss 15)) ∧
    decodeWords [0xD0000483, 0x70068C00, 0xC318630D] = .ok (.cmprs { plain with stall := 4, set := 1 } .e4m3 (ss 12) (ss 12) (ss 13)) ∧
    decodeWords [0xC0004482, 0x70000604, 0xC1182B06] = .ok (.mmab { plain with wait := 1, set := 1 } 0 (ss 2) (ss 4) (ss 5) (ss 6)) := by decide +kernel

theorem test_decode_queues_engines :
    decodeWords [0xC0003CA1, 0x70002C00, 0x87B00600] = .ok (.qpush plain 2 (dd 30)) ∧
    decodeWords [0xC00004A2, 0x70002249, 0x80300600] = .ok (.qpop (flag 1) 2 (nn 0x24)) ∧
    decodeWords [0xC0040CA4, 0x70022C00, 0xC418C314] =
      .ok (.copy { plain with wait := 16, set := 3 } .core .glob .flag 0 .null (ss 16) (ss 24) (ss 20)) ∧
    decodeWords [0x83C000A8, 0x70381A36] = .ok (.aqput plain 1 .glob (ss 4) (ss 6)) := by decide +kernel

theorem test_decode_memory :
    decodeWords [0xC00008C2, 0x70108244, 0x81B00608] = .ok (.ldx (flag 2) .glob .s32 1 (nn 0x22) (dd 6) (ii 8)) ∧
    decodeWords [0xC0003CC4, 0x73008412, 0x80B00E04] = .ok (.atom plain .glob .s32 .add .device (dd 9) (dd 2) (ii 1) (ii 4)) ∧
    decodeWords [0x7D300250] = .ok (.stGlobZ32Compact ⟨3, 0, false⟩ ⟨.d, 2⟩ ⟨.d, 0⟩) ∧
    decodeWords [0x78205200] = .ok (.ldCoreZ32Compact ⟨2, 0, false⟩ ⟨.d, 4⟩ ⟨.d, 0⟩) := by decide +kernel

theorem test_decode_tasks :
    decodeWords [0xC0003CCF, 0x70000421, 0x41300600] = .ok (.fwait plain .z32 (dd 16) (kk 4) .null) ∧
    decodeWords [0x83C000D4, 0x70181661] = .ok (.waitc plain (dd 12) (ii 1) .null) ∧
    decodeWords [0x83C000D0, 0x70182939] = .ok (.fsetFuture plain .z32 0 (kk 2) (ss 9) .null) ∧
    decodeWords [0x83C000CB, 0x70182C60] = .ok (.depdec plain (kk 8)) := by decide +kernel

theorem test_decode_handlers :
    decodeWords [0x83C000E2, 0x70183060] = .ok (.replay plain) ∧ decodeWords [0x83C000E3, 0x70183060] = .ok (.unwind plain) ∧
    decodeWords [0x83C000E3, 0x70383060] = .ok (.endg plain) ∧ decodeWords [0x800000E4, 0x70083060] = .ok (.frqpop (flag 0) (dd 0)) ∧
    decodeWords [0x808000E5, 0x70181360] = .ok (.mapreq (flag 2) (dd 6) (ii 0)) ∧
    decodeWords [0xC00004E6, 0x70670429, 0x80300600] = .ok (.srd (flag 1) 0x067 (dd 20)) ∧
    decodeWords [0xC00000E7, 0x70102413, 0x80300600] = .ok (.uread (flag 0) false (nn 2) (dd 9)) := by decide +kernel

theorem test_decode_tether :
    decodeWords [0xC0007CEA, 0x70000408, 0x80103302] = .ok (.put { plain with wait := 1 } (dd 4) (dd 0) (dd 6) (ss 2)) ∧
    decodeWords [0xC00004EC, 0x70008412, 0x81300B02] = .ok (.ratom (flag 1) .s32 .add (dd 9) (dd 4) (ii 1) (ss 2)) ∧
    decodeWords [0x80C000ED, 0x70181134] = .ok (.coll (flag 3) .allreduce .f32 .sum (dd 2) (ss 4)) ∧
    decodeWords [0x804000EE, 0x702A9AE0] = .ok (.wstat (flag 1) true (dd 10) (ss 5)) := by decide +kernel

/-- Words of no instruction: an opcode of no row, SET 12, and a full word whose second word is missing (R42, R49, R53). -/
theorem test_decode_refuses : ([[0xC0003CFF, 0x70000000, 0], [0xC0003000, 0x7018306, 0], [0xC0003C21]] : List (List Word)).all
    (fun ws => match decodeWords ws with | .ok _ => false | .error _ => true) = true := by decide +kernel

/-! ## Every instruction of the tables issues at the small device -/

def integerList : List Instr :=
  [.iadd plain .s32 false (dd 1) (dd 2) (dd 3), .isub plain .z32 true (dd 1) (dd 2) (dd 3), .iadd64 plain .s64 false (dd 2) (dd 4) (dd 6),
   .iaddImm plain .s32 false (dd 1) (dd 2) 5, .isubImm plain .s32 false (dd 1) (dd 2) 5, .imul plain .s32 (dd 1) (dd 2) (dd 3),
   .imulh plain .z32 (dd 1) (dd 2) (dd 3), .imulImm plain .s32 (dd 1) (dd 2) 5, .imad plain .s32 (dd 1) (dd 2) (dd 3) (dd 4),
   .imadw plain .s32 (dd 2) (dd 4) (dd 5) (dd 6), .idiv plain .s32 (dd 1) (dd 2) (dd 3), .irem plain .z32 (dd 1) (dd 2) (dd 3),
   .imin plain .s32 (dd 1) (dd 2) (dd 3), .imax plain .s32 (dd 1) (dd 2) (dd 3), .iabs plain false (dd 1) (dd 2), .ineg plain false (dd 1) (dd 2)]

def logicList : List Instr :=
  [.mov plain .z32 (dd 1) (dd 2), .movw plain (dd 2) (dd 4), .movi plain .z32 (dd 1) 5, .sel plain .z32 (dd 1) (dd 2) (dd 3) (tt 48),
   .lea plain .z64 false (dd 2) (dd 4) (dd 6) (ii 2), .and plain .z32 (dd 1) (dd 2) (dd 3), .or plain .z32 (dd 1) (dd 2) (dd 3),
   .xor plain .z64 (dd 2) (dd 4) (dd 6), .andn plain .z32 (dd 1) (dd 2) (dd 3), .not plain .z32 (dd 1) (dd 2), .andImm plain (dd 1) (dd 2) 7,
   .orImm plain (dd 1) (dd 2) 7, .xorImm plain (dd 1) (dd 2) 7, .andnImm plain (dd 1) (dd 2) 7, .shl plain .z32 (dd 1) (dd 2) (dd 3),
   .shr plain .z32 (dd 1) (dd 2) (dd 3), .sar plain .s32 (dd 1) (dd 2) (dd 3), .rot plain .z32 (dd 1) (dd 2) (dd 3),
   .shf plain true (dd 1) (dd 2) (dd 3) (dd 4), .bfe plain .s32 (dd 1) (dd 2) (dd 3), .bfi plain (dd 1) (dd 2) (dd 3) (dd 4),
   .popc plain .z32 (dd 1) (dd 2), .clz plain .z64 (dd 1) (dd 2), .brev plain .z32 (dd 1) (dd 2), .prmb plain (dd 1) (dd 2) (dd 3) (dd 4),
   .iset plain .lt .s32 (dd 1) (dd 2) (dd 3)]

def floatList : List Instr :=
  [.fadd plain .rn false (dd 1) (dd 2) (dd 3), .fsub plain .rz false (dd 1) (dd 2) (dd 3), .fmul plain .ru true (dd 1) (dd 2) (dd 3),
   .fmin plain false (dd 1) (dd 2) (dd 3), .fmax plain false (dd 1) (dd 2) (dd 3), .faddImm plain .rn false (dd 1) (dd 2) 0x3F800000,
   .fsubImm plain .rn false (dd 1) (dd 2) 0x3F800000, .fmulImm plain .rn false (dd 1) (dd 2) 0x3F800000,
   .fminImm plain false (dd 1) (dd 2) 0x3F800000, .fmaxImm plain false (dd 1) (dd 2) 0x3F800000,
   .ffma plain .rd false (dd 1) (dd 2) (dd 3) (dd 4), .fsetCompare plain .un false (dd 1) (dd 2) (dd 3), .frcp plain false (dd 1) (dd 2),
   .frsq plain false (dd 1) (dd 2), .fsqrt plain false (dd 1) (dd 2), .fex2 plain false (dd 1) (dd 2), .flg2 plain false (dd 1) (dd 2),
   .fsin plain false (dd 1) (dd 2), .fcos plain false (dd 1) (dd 2),
   .hfma2 plain .f16 false false false .rn false (dd 1) (dd 2) (dd 3) (dd 4), .f2i plain .s32 .f32 .rn false (dd 1) (dd 2),
   .i2f plain .f32 .s32 .rn false (dd 1) (dd 2), .cvt plain .f16 .f32 .rn false (dd 1) (dd 2), .frnd plain .rn false (dd 1) (dd 2),
   .pack plain .f16 1 .rn false (dd 1) (dd 2) (dd 3) (dd 4), .unpk plain .f16 1 false (dd 1) (dd 2), .dot4 plain (dd 1) (dd 2) (dd 3) (dd 4),
   .dot8 plain (dd 1) (dd 2) (dd 3) (dd 4), .fdot4 plain .e4m3 (dd 1) (dd 2) (dd 3) (dd 4)]

def registerList : List Instr :=
  integerList ++ (logicList ++ floatList) ++
    [.iaddc plain (dd 1) (dd 2) (dd 3) (tt 48), .shfl plain .idx .z32 (dd 1) (dd 2) (dd 3) (ii 0), .vote plain .count (dd 1) (tt 48), .matchI plain .z32 (dd 1) (dd 2),
     .pset plain .plain .lt .s32 (tt 48) (dd 1) (dd 2) .null, .pmovGet plain (dd 1), .pmovSet plain (dd 1), .nop plain, .waitf plain, .yield plain]

theorem test_integer_issues : ∀ i ∈ integerList, (integerTable i.core).isSome = true ∧ ∃ x t, Issues demo i.core x t := by
  intro i hi
  have h := List.all_eq_true.mp (show integerList.all (fun i => (integerTable i.core).isSome && issues demo i.core) = true by decide +kernel) i hi
  rw [Bool.and_eq_true] at h
  exact ⟨h.1, issues_met h.2⟩

theorem test_logic_issues : ∀ i ∈ logicList, (logicTable i.core).isSome = true ∧ ∃ x t, Issues demo i.core x t := by
  intro i hi
  have h := List.all_eq_true.mp (show logicList.all (fun i => (logicTable i.core).isSome && issues demo i.core) = true by decide +kernel) i hi
  rw [Bool.and_eq_true] at h
  exact ⟨h.1, issues_met h.2⟩

theorem test_float_issues : ∀ i ∈ floatList, (floatTable i.core).isSome = true ∧ ∃ x t, Issues demo i.core x t := by
  intro i hi
  have h := List.all_eq_true.mp (show floatList.all (fun i => (floatTable i.core).isSome && issues demo i.core) = true by decide +kernel) i hi
  rw [Bool.and_eq_true] at h
  exact ⟨h.1, issues_met h.2⟩

/-- The register instructions issue and go on to a next state. -/
theorem test_register_instructions_go_on : ∀ i ∈ registerList, registerOnly i.core = true ∧ (∃ x t, Issues demo i.core x t) ∧
    (match exec i demo with | .next _ => true | _ => false) = true := by
  intro i hi
  have h := List.all_eq_true.mp
    (show registerList.all (fun i => registerOnly i.core && (issues demo i.core && match exec i demo with | .next _ => true | _ => false)) = true by
      decide +kernel) i hi
  rw [Bool.and_eq_true, Bool.and_eq_true] at h
  exact ⟨h.1, issues_met h.2.1, h.2.2⟩

/-! ## Steps, encoding, issue -/

/-- Two instructions of the small device are chosen: at 0x10140 an IADD, and at 0x10158 words of no instruction. -/
def chosen (pc : DWord) : State :=
  { demoWith { demoGroup 16 with bank := { (demoGroup 16).bank with splits := [{ demoSplit 16 with pc := pc }] } } with picks := [(4, 0), (4, 1)] }

theorem test_step_keeps_invariant_met : ∃ s t, s.inv = true ∧ Machine.step s = .next t := by
  have h : goesOn (Machine.step (State.reset.withFetchWord 96 0xC14003E87000060AC0003C21)) = true := by decide +kernel
  refine ⟨State.reset.withFetchWord 96 0xC14003E87000060AC0003C21, ?_⟩
  cases ho : Machine.step (State.reset.withFetchWord 96 0xC14003E87000060AC0003C21) with
  | next t => exact ⟨t, by decide +kernel, rfl⟩
  | fault f => rw [ho] at h; cases h
  | refused r => rw [ho] at h; cases h

/-- The two parts of R1: all 256 cores, and all but the first core of each cluster. -/
theorem test_parts_met : (State.resetAs 0 (BitVec.allOnes 256)).partOk = true ∧
    (State.resetAs 1 (BitVec.ofNat 256 ((2 ^ 256 - 1) / 255 * 254))).partOk = true ∧ (State.resetAs 1 (BitVec.allOnes 256)).partOk = false := by
  decide +kernel

theorem test_decode_encode_met : ∃ i : Instr, i.ctl.isSome ∧ i.wf = true := ⟨.iaddImm plain .s32 false (ss 5) (ss 5) 1000, by decide⟩

theorem test_step_runs_decoded_met : ∀ pc : DWord, pc = 0x10140 ∨ pc = 0x10158 →
    ∃ g sp l, (chosen pc).stopped = false ∧ (chosen pc).agenda = [] ∧ (chosen pc).turn ≠ 0 ∧ (chosen pc).picks = (4, 0) :: [(4, 1)] ∧
      (chosen pc).group? 4 = some g ∧ g.bk.split? 0 = some sp ∧ (chosen pc).line? g sp.pc = some l ∧ l.fail = none ∧
      (l.priv = false ∨ g.hand.isSome = true) ∧
      (pc = 0x10140 → ∃ i, lineAt l.words 0 (sp.pc.toNat % 64 / 4) = some (12, .ok i)) ∧
      (pc = 0x10158 → ∃ n f, lineAt l.words 0 (sp.pc.toNat % 64 / 4) = some (n, .error f)) := by
  intro pc h
  refine ⟨_, { demoSplit 16 with pc := pc }, demoLine, rfl, rfl, Nat.one_ne_zero, rfl, rfl, ?_, ?_, rfl, .inl rfl, ?_, ?_⟩
  · rcases h with rfl | rfl <;> decide +kernel
  · rcases h with rfl | rfl <;> decide +kernel
  · rintro rfl
    exact ⟨.iaddImm plain .s32 false (ss 5) (ss 5) 1000, by decide +kernel⟩
  · rintro rfl
    cases hl : lineAt demoLine.words 0 ((0x10158 : DWord).toNat % 64 / 4) with
    | none => exact absurd hl (by decide +kernel)
    | some r =>
      obtain ⟨n, e⟩ := r
      cases e with
      | ok i =>
        have : (match lineAt demoLine.words 0 ((0x10158 : DWord).toNat % 64 / 4) with | some (_, .ok _) => false | _ => true) = true := by
          decide +kernel
        rw [hl] at this
        cases this
      | error f => exact ⟨n, f, rfl⟩

/-- What an instruction is at its issue, whether or not it passes. -/
def beginsAnd (s : State) (i : Instr) (p : Issue → State → Bool) : Bool :=
  match s.begin i with
  | none => false
  | some (x, t) => p x t

theorem beginsAnd_met {s : State} {i : Instr} {p : Issue → State → Bool} (h : beginsAnd s i p = true) :
    ∃ x t, s.begin i = some (x, t) ∧ p x t = true := by
  unfold beginsAnd at h
  split at h
  · cases h
  · next x t hb => exact ⟨x, t, hb, h⟩

/-- WAITF of a completion flag with an instruction outstanding waits. -/
theorem test_waiting_met :
    ∃ (s : State) (x : Issue) (t : State), s.begin (.waitf { plain with wait := 1 }) = some (x, t) ∧ (!s.mayIssue x) = true :=
  ⟨demoWith { demoGroup 16 with bank := { (demoGroup 16).bank with flags := [(0, 1)] } }, beginsAnd_met (by decide +kernel)⟩

/-- An operand beyond the group's D registers fails its check. -/
theorem test_failed_check_met : ∃ x t, demo.begin (.iabs plain false (dd 200) (dd 1)) = some (x, t) ∧
    (demo.mayIssue x && (!demo.overrunDue x && (t.issueCheck x).isSome)) = true :=
  beginsAnd_met (by decide +kernel)

theorem test_privileged_met : ∀ i ∈ [Instr.tret plain false, .replay plain, .unwind plain, .endg plain, .frqpop plain (dd 0),
    .mapreq { plain with set := 1 } (dd 0) (dd 2), .uread plain false (dd 0) (dd 1), .uwrite plain false (dd 0) (dd 1)],
    ∃ x t, demo.begin i = some (x, t) ∧ (demo.mayIssue x && (!demo.overrunDue x && x.g.hand.isNone)) = true := by
  intro i hi
  exact beginsAnd_met (List.all_eq_true.mp
    (show [Instr.tret plain false, .replay plain, .unwind plain, .endg plain, .frqpop plain (dd 0),
      .mapreq { plain with set := 1 } (dd 0) (dd 2), .uread plain false (dd 0) (dd 1), .uwrite plain false (dd 0) (dd 1)].all
      (fun i => beginsAnd demo i fun x _ => demo.mayIssue x && (!demo.overrunDue x && x.g.hand.isNone)) = true by decide +kernel) i hi)

/-- The premises of `ReadinessTraps`, with an empty W entry, and with a released near slot. -/
theorem test_readiness_met :
    (∃ x t, demo.begin (.iabs plain false (dd 1) ⟨.w, 2⟩) = some (x, t) ∧
      (!placeIllegal x.i false && portOf (opcodeOf x.i) != .mat && !isTerminator x.i && x.g.hand.isNone && !x.sysBad && !x.operandBad && !t.atEntry x &&
        !x.g.strand.entry.replay && x.i.reads.any fun sl => sl.op.lvl == .w && x.splitList.any fun l =>
          ((tabGetD x.g.bank.win l [])[sl.op.idx.toNat]?).all fun e => !e.done) = true) ∧
    (∃ x t, demo.begin (.iabs plain false (dd 1) ⟨.n, 2⟩) = some (x, t) ∧
      (!placeIllegal x.i false && portOf (opcodeOf x.i) != .mat && !isTerminator x.i && x.g.hand.isNone && !x.sysBad && !x.operandBad && !t.atEntry x &&
        !x.g.strand.entry.replay && (x.i.reads.all fun sl => sl.op.lvl != .w) && x.nearReads.any fun k => cellGet x.g.bank.nst k == 0) = true) ∧
    (∃ x t, (demoWith (demoGroup 32)).begin (.cscl plain 2 ⟨.n, 4⟩) = some (x, t) ∧
      (!placeIllegal x.i false && portOf (opcodeOf x.i) == .mat && !x.never && x.g.width != 16 && !isTerminator x.i && x.g.hand.isNone && !x.sysBad &&
        !x.operandBad && !t.atEntry x && !x.g.strand.entry.replay && !x.wide && (x.i.reads.all fun sl => sl.op.lvl != .w) &&
        x.nearReads.any fun k => cellGet x.g.bank.nst k == 0) = true) :=
  ⟨beginsAnd_met (by decide +kernel), beginsAnd_met (by decide +kernel), beginsAnd_met (by decide +kernel)⟩

theorem test_trap_enters_handler_met :
    (demoGroup 16).hand = none ∧ (demoGroup 16).unwinding = none ∧ (demoGroup 16).debug ≠ .stepping ∧ (demoGroup 16).place = .active 0 0 ∧ (demoGroup 16).deliveries = [] ∧
      (demoGroup 16).frq.length < 8 ∧ (demo.touchTable (demoGroup 16) 0x12).trapEntry (demoGroup 16) 0x12 = .handler 0x10800 := by
  have h : (match (demo.touchTable (demoGroup 16) 0x12).trapEntry (demoGroup 16) 0x12 with | .handler e => e == 0x10800 | _ => false) = true := by decide +kernel
  refine ⟨rfl, rfl, by decide, rfl, rfl, by decide, ?_⟩
  cases ht : (demo.touchTable (demoGroup 16) 0x12).trapEntry (demoGroup 16) 0x12 with
  | handler e => rw [ht] at h; rw [eq_of_beq h]
  | none => rw [ht] at h; cases h
  | fault c a => rw [ht] at h; cases h

theorem test_nested_fault_met : handGroup.hand.isSome = true := rfl

/-! ## Results, values -/

/-- An operation of the small device, with the value 5 in lane 0 and 9 in lane 1. -/
def demoOp (job : Job) (dest : Option Dest) : Op :=
  { uid := 50, grp := 4, hand := false, epoch := 0, split := 0, lanes := 3, splitLanes := 0xFFFF, set := 15, pc := 0x10140, len := 12
    instr := .nop plain, due := some 10, var := false, dest := dest, vals := [(0, 5), (1, 9)], flags := 4, carry := none, raced := []
    job := job }

def demoDest (o : Opnd) : Dest := { op := o, wide := false, shift := true, predicate := false }

def demoOps (os : List Op) : State := { demo with ops := os }

theorem test_lane_results_met : ∀ i ∈ [Instr.iaddc plain (dd 1) (dd 2) (dd 3) (tt 48), .shfl plain .idx .z32 (dd 1) (dd 2) (dd 3) (ii 0),
    .shfl plain .xor .z32 (dd 1) (dd 2) (ii 1) (ii 16), .vote plain .mask (dd 2) (tt 49), .matchI plain .z32 (dd 1) (dd 2),
    .pset plain .and .lt .s32 (tt 50) (dd 1) (dd 2) (tt 49), .pmovGet plain (dd 1), .pmovSet plain (dd 1)],
    ∃ x t, Issues demo i.core x t ∧ (x.i.qField.isNone && (match i with
      | .shfl .. => [1, 2, 4, 8, 16, 32, 64].contains (segment x t) && decide (segment x t ≤ x.g.width)
      | _ => true)) = true := by
  intro i hi
  exact issuesAnd_met (List.all_eq_true.mp
    (show [Instr.iaddc plain (dd 1) (dd 2) (dd 3) (tt 48), .shfl plain .idx .z32 (dd 1) (dd 2) (dd 3) (ii 0),
      .shfl plain .xor .z32 (dd 1) (dd 2) (ii 1) (ii 16), .vote plain .mask (dd 2) (tt 49), .matchI plain .z32 (dd 1) (dd 2),
      .pset plain .and .lt .s32 (tt 50) (dd 1) (dd 2) (tt 49), .pmovGet plain (dd 1), .pmovSet plain (dd 1)].all
      (fun i => issuesAnd demo i.core fun x t => x.i.qField.isNone && (match i with
        | .shfl .. => [1, 2, 4, 8, 16, 32, 64].contains (segment x t) && decide (segment x t ≤ x.g.width)
        | _ => true)) = true by decide +kernel) i hi)

/-- Segments that are no power of two, and wider than the group, the first with no active lane. -/
theorem test_illegal_segment_met : ∀ i ∈ [Instr.shfl never .idx .z32 (dd 1) (dd 2) (dd 3) (ii 3), .shfl plain .up .z32 (dd 1) (dd 2) (dd 3) (ii 32)],
    ∃ x t, Issues demo i x t ∧ (!([1, 2, 4, 8, 16, 32, 64].contains (segment x t) && decide (segment x t ≤ x.g.width))) = true := by
  intro i hi
  exact issuesAnd_met (List.all_eq_true.mp
    (show [Instr.shfl never .idx .z32 (dd 1) (dd 2) (dd 3) (ii 3), .shfl plain .up .z32 (dd 1) (dd 2) (dd 3) (ii 32)].all
      (fun i => issuesAnd demo i fun x t => !([1, 2, 4, 8, 16, 32, 64].contains (segment x t) && decide (segment x t ≤ x.g.width))) = true by
        decide +kernel) i hi)

/-- Lanes 0 to 7, of which 1 and 2 hold a predicate: VOTE's values as R181 gives them. SHFL by four places within segments of 8, at lanes 9 and 14. -/
theorem test_lane_values : (∀ l, (0x06 : Lanes).has l = true → (0xFF : Lanes).has l = true) ∧ voteValue .every 0xFF 6 = 0 ∧ voteValue .some 0xFF 6 = 1 ∧
    voteValue .same 0xFF 6 = 0 ∧ voteValue .mask 0xFF 6 = 6 ∧ voteValue .count 0xFF 6 = 2 ∧ voteValue .first 0xFF 6 = 1 ∧ voteValue .first 0xFF 0 = 0xFFFFFFFF ∧
    shflLane .up 8 9 4 = 9 ∧ shflLane .up 8 14 4 = 10 ∧ shflLane .down 8 9 4 = 13 ∧ shflLane .down 8 14 4 = 14 ∧ shflLane .xor 8 9 4 = 13 ∧
    shflLane .idx 8 14 4 = 12 := by
  refine ⟨fun l h => ?_, by decide +kernel⟩
  have hs : (0x06 : Lanes) &&& 0xFF = 0x06 := by decide
  rw [← hs] at h
  simp only [Lanes.has, BitVec.getLsbD_and, Bool.and_eq_true] at h ⊢
  exact h.2

/-- R167's example, with A = 0x0F00 and position 8, length 4, and CLZ of zero. -/
theorem test_bit_field_example : (laneBfe .z32 0xF00 0x408).1 = 0xF ∧ w32 (laneBfe .s32 0xF00 0x408).1 = 0xFFFFFFFF ∧ (laneClz .z32 0).1 = 32 := by
  decide +kernel

/-- PMOV.set from an empty queue pop, with no lane active. -/
theorem test_pmov_set_queue_met : ∃ x t, Issues demo (.pmovSet never ⟨.q, 1⟩) x t ∧ (x.lanes == 0 && x.i.qField.isSome) = true :=
  issuesAnd_met (by decide +kernel)

theorem test_window_and_near_met : ∃ x t, Issues demo (.iadd plain .s32 false ⟨.n, 0x12⟩ (dd 2) (dd 3)) x t ∧
    (x.i.qField.isNone && x.dest.isSome && x.i.producesResult) = true :=
  issuesAnd_met (by decide +kernel)

theorem test_result_lands_in_d_met :
    let o := demoOp .plain (some (demoDest (dd 5)))
    (demoOps [o]).op? o.uid = some o ∧ (demoOps [o]).opDue o = true ∧ o.raced = [] ∧ o.carry = none ∧
      (demoOps [o]).group? o.grp = some (demoGroup 16) ∧ (demoGroup 16).uid = o.grp := by decide +kernel

theorem test_uniform_result_met :
    (∀ d ∈ [demoDest (ss 5), demoDest (tt 3)],
      let o := demoOp .plain (some d)
      (demoOps [o]).op? o.uid = some o ∧ (demoOps [o]).opDue o = true ∧ d.wide = false ∧ o.raced = [] ∧ o.carry = none ∧ o.hand = false ∧ (demoOps [o]).group? o.grp = some (demoGroup 16) ∧
        o.lanes.list 64 = [0, 1] ∧ (demoSplit 16).lanes.has 0 = true) ∧
    (demoGroup 16).hand = none ∧ (demoGroup 16).bank.splits = [demoSplit 16] ∧ demo.team? (demoGroup 16).team = some demoTeam ∧
      (∀ w ∈ demoTeam.twrites, w.time < demo.time ∨ w.time = demo.time ∧ w.key ≤ (demoGroup 16).landKey (demoTeam.half (demoGroup 16).core)) := by
  decide +kernel

theorem test_s_landing : (match exec (.fixedResultLands 50) (demoOps [demoOp .plain (some (demoDest (ss 5)))]) with
    | .next u => ((u.group? 4).map fun g => g.bank.splits.map fun sp => cellGet sp.sfile 5) == some [5]
    | _ => false) = true := by decide +kernel

theorem test_add_values : ext .s32 0x7FFFFFFF + ext .s32 1 = tyMax .s32 + 1 ∧ ext .s32 0x80000000 - ext .s32 1 = tyMin .s32 - 1 ∧
    laneAdd .s32 true 0x7FFFFFFF 1 = (0x7FFFFFFF, flagIV) ∧ laneAdd .s32 false 0x7FFFFFFF 1 = (0x80000000, flagIV) ∧
    laneSub .z32 true 1 2 = (0, 0) ∧ laneSub .s32 true 5 7 = (0xFFFFFFFE, 0) := by decide +kernel

theorem test_division_values : ext .s32 0xFFFFFFFB = -5 ∧ ext .s32 2 ≠ 0 ∧ ext .z32 0 = 0 ∧ ext .s32 0x80000000 = -2 ^ 31 ∧ ext .s32 0xFFFFFFFF = -1 ∧
    laneDiv .s32 0xFFFFFFFB 2 = (0xFFFFFFFE, 0) ∧ laneRem .s32 0xFFFFFFFB 2 = (0xFFFFFFFF, 0) ∧ laneDiv .s32 0x80000000 0xFFFFFFFF = (0x80000000, flagIV) ∧
    laneDiv .z32 7 0 = (0xFFFFFFFF, flagDZ) ∧ laneRem .s32 7 0 = (7, flagDZ) := by decide +kernel

theorem test_multiply_values : laneMul .s32 0x10000 0x8000 = (0x80000000, flagIV) ∧ laneMulh .z32 0xFFFFFFFF 0xFFFFFFFF = (0xFFFFFFFE, 0) ∧
    laneMadw .s32 0xFFFFFFFF 2 5 = (3, 0) := by decide +kernel

theorem test_shift_values : laneShl .z32 1 32 = (0, 0) ∧ laneSar .s32 0x80000000 40 = (0xFFFFFFFF, 0) ∧ laneRot .z32 0x80000001 1 = (3, 0) ∧
    laneShf false 0x11112222 8 0x33334444 = (0x44111122, 0) ∧ laneShf true 1 32 2 = (1, 0) := by decide +kernel

/-- A field of 8 bits at 24, the last place where it fits. -/
theorem test_bit_fields : (0x0818 : DWord).extractLsb' 0 8 = 24 ∧ (0x0818 : DWord).extractLsb' 8 8 = 8 ∧
    laneBfi 0xAB 0x0818 0x00112233 = (0xAB112233, 0) ∧ laneBfe .z32 0xAB112233 0x0818 = (0xAB, 0) ∧ laneBfe .s32 0xAB112233 0x0818 = (0xFFFFFFAB, 0) ∧
    laneClz .z64 1 = (63, 0) ∧ lanePopc .z32 0xF0F0 = (8, 0) := by decide +kernel

theorem test_carry_chain : laneAddc 0xFFFFFFFF 0 true = (0, true) := by decide +kernel

theorem test_float_values : (f32Of false 0x7FC00000).isNan = true ∧ laneFset .un false 0x7FC00000 0x3F800000 = (1, 0) ∧
    laneFadd .rn false 0x3F800000 0x40000000 = (0x40400000, 0) ∧ laneFmul .rn false 0x40000000 0x40400000 = (0x40C00000, 0) := by decide +kernel

/-- The examples of PRMB (R169) and HFMA2 (R175). -/
theorem test_prmb_examples : lanePrmb 0x44332211 0x88776655 0x00140405 = (0x11005566, 0) ∧ lanePrmb 0x44332211 0x88776655 0x1C0C0C17 = (0xAA0000FF, 0) := by
  decide +kernel

theorem test_hfma2_examples : laneHfma2 .f16 false false false .rn false 0x40003C00 0x44004200 0 = (0x48004200, 0) ∧
    laneHfma2 .f16 true false false .rn false 0x40003C00 0x44004200 0 = (0x46004400, 0) ∧
    laneHfma2 .f16 false true false .rn false 0x40003C00 0x44004200 0 = (0x44004200, 0) ∧
    laneHfma2 .f16 false false true .rn false 0x40003C00 0x44004200 0x3C003C00 = (0x47004000, 0) := by decide +kernel

/-! ## Control -/

/-- The guard `(p1)`, which holds in lanes 0 to 3. -/
def some4 : Ctl := ⟨0, 0, 15, false, false, false, 1⟩

/-- The small device with its lanes one call deep, their saved address 0x10200. -/
def demoDeep : State :=
  { demoWith { demoGroup 16 with depth := (List.range 16).map fun l => (l, 1), pushed := (List.range 16).map fun l => (l * 256, 0x10200) } with
    scratch := (List.range 16).foldl (fun m l => writeNat m (laneSliceKey (demoGroup 16) 64 l 56) 8 0x10200) [] }

/-- With a request for the group's slot. -/
def demoAsked : State := demoWith { demoGroup 16 with request := some .energy }

theorem test_simple_control_met : ∀ i ∈ [Instr.nop plain, .waitf plain, .yield plain, .nrel never ⟨.n, 5⟩, .joinCompact ⟨0, 15, false⟩],
    ∃ x t, Issues demo i.core x t ∧ x.sp.join.isNone = true := by
  intro i hi
  exact issuesAnd_met (List.all_eq_true.mp
    (show [Instr.nop plain, .waitf plain, .yield plain, .nrel never ⟨.n, 5⟩, .joinCompact ⟨0, 15, false⟩].all
      (fun i => issuesAnd demo i.core fun x _ => x.sp.join.isNone) = true by decide +kernel) i hi)

theorem test_sleep_met :
    (∃ x t, Issues demo (.sleep plain (ii 0)) x t ∧ (x.list.all fun l => decide ((w32 (t.src x 0 l)).toInt ≤ 0)) = true) ∧
    (∃ x t, Issues demo (.sleep plain (ii 100)) x t ∧ (x.g.request.isNone && x.list.any fun l => decide (0 < (w32 (t.src x 0 l)).toInt)) = true) ∧
    (∃ x t, Issues demoAsked (.sleep plain (ii 100)) x t ∧ x.g.request.isSome = true) :=
  ⟨issuesAnd_met (by decide +kernel), issuesAnd_met (by decide +kernel), issuesAnd_met (by decide +kernel)⟩

/-- A record of two splits that join at `addr`. -/
def joinRec (addr : DWord) (arrived : Lanes) (parent : Option Nat) : JoinRec :=
  { id := 5, addr := addr, expected := 0xFFFF, arrived := arrived, parent := parent, base := [(3, 4)], baseMask := 8 }

/-- One that encloses it, with another split to come. -/
def outerRec (addr : DWord) : JoinRec := { id := 6, addr := addr, expected := 0xFFFFF, arrived := 0, parent := none, base := [], baseMask := 0 }

/-- Split 0 stands at a JOIN at 0x10140, and split 1 has arrived there. -/
def joinGroup (recs : List JoinRec) : Group :=
  let g := demoGroup 16
  { g with bank := { g.bank with
      splits := [{ demoSplit 16 with lanes := 0xFF, join := some 5 }, { demoSplit 16 with id := 1, lanes := 0xFF00, join := some 5, held := true, pc := 0x1014C }]
      recs := recs } }

/-- The premises of `Joins`: a record elsewhere, one of which split 1 has not been counted yet, the last to come with no parent, with a parent elsewhere, and with one
at the same address. -/
def joinMeets (recs : List JoinRec) (p : Issue → JoinRec → Bool) : Bool :=
  issuesAnd (demoWith (joinGroup recs)) (Instr.core (.joinCompact ⟨0, 15, false⟩)) fun x _ =>
    x.g.hand.isNone && x.g.bank.recs == recs && x.pc == 0x10140 && recs.any fun r => x.sp.join == some r.id && p x r &&
      recs.all fun q => q.id == r.id || q.expected != q.arrived

theorem test_joins_met :
    joinMeets [joinRec 0x10200 0xFF00 none] (fun x r => r.addr != x.pc) = true ∧
    joinMeets [joinRec 0x10140 0 none] (fun x r => r.addr == x.pc && (r.arrived ||| x.sp.lanes) != r.expected) = true ∧
    joinMeets [joinRec 0x10140 0xFF00 none] (fun x r => r.addr == x.pc && (r.arrived ||| x.sp.lanes) == r.expected && r.parent.isNone) = true ∧
    joinMeets [outerRec 0x10200, joinRec 0x10140 0xFF00 (some 6)] (fun x r => r.addr == x.pc && (r.arrived ||| x.sp.lanes) == r.expected && r.parent == some 6) = true ∧
    joinMeets [outerRec 0x10140, joinRec 0x10140 0xFF00 (some 6)] (fun x r => r.addr == x.pc && (r.arrived ||| x.sp.lanes) == r.expected && r.parent == some 6) = true := by
  decide +kernel

/-- The last of two splits merges them, after the JOIN. -/
theorem test_join_merges : (match exec (.joinCompact ⟨0, 15, false⟩) (demoWith (joinGroup [joinRec 0x10140 0xFF00 none])) with
    | .next u => ((u.group? 4).map fun g => (g.bank.recs.isEmpty, g.bank.splits.map fun sp => (sp.lanes, sp.pc))) == some (true, [(0xFFFF, 0x1014C)])
    | _ => false) = true := by decide +kernel

theorem test_bra_met :
    (∃ x t, Issues demo (.bra plain 0xFFFFFF) x t ∧ (x.lanes == x.sp.lanes &&
      (let target : DWord := x.pc + ((0xFFFFFF : BitVec 24).signExtend 64 <<< 2)
       target == 0x1013C && target.extractLsb' 56 8 == 0 && target.extractLsb' 0 2 == 0)) = true) ∧
    (∃ x t, Issues demo (.bra never 4) x t ∧ (x.lanes == 0 && x.lanes != x.sp.lanes) = true) ∧
    (∃ x t, Issues demo (.bra some4 4) x t ∧ (x.lanes == 0xF && x.lanes != x.sp.lanes) = true) :=
  ⟨issuesAnd_met (by decide +kernel), issuesAnd_met (by decide +kernel), issuesAnd_met (by decide +kernel)⟩

theorem test_brc_met : ∀ c ∈ [(plain, 0xFFFF), (never, 0), (some4, (0xF : Lanes))],
    ∃ x t, Issues demo (.brc c.1 .none 4 8) x t ∧ (x.lanes == c.2 && decide (x.g.bk.splits.length < 8) &&
      (let target : DWord := x.pc + ((4 : BitVec 24).signExtend 64 <<< 2)
       target.extractLsb' 56 8 == 0 && target.extractLsb' 0 2 == 0)) = true := by
  intro c hc
  exact issuesAnd_met (List.all_eq_true.mp
    (show [(plain, 0xFFFF), (never, 0), (some4, (0xF : Lanes))].all (fun c => issuesAnd demo (.brc c.1 .none 4 8) fun x _ =>
      x.lanes == c.2 && decide (x.g.bk.splits.length < 8) &&
        (let target : DWord := x.pc + ((4 : BitVec 24).signExtend 64 <<< 2)
         target.extractLsb' 56 8 == 0 && target.extractLsb' 0 2 == 0)) = true by decide +kernel) c hc)

/-- The small device with D6 a different address in every third lane. -/
def demoFan : State := demoWith { demoGroup 16 with dfile := (List.range 16).map fun l => (6 * 64 + l, BitVec.ofNat 32 (0x10200 + 4 * (l % 3))) }

/-- Where the lanes go: those whose guard holds to the address of their operand. -/
def goTo (x : Issue) (t : State) (l : Nat) : DWord := if x.lanes.has l then t.src x 0 l else x.pc + BitVec.ofNat 64 x.len

def goodTargets (x : Issue) (t : State) (n : Nat) : Bool :=
  (x.list.all fun l => (goTo x t l).extractLsb' 56 8 == 0 && (goTo x t l).extractLsb' 0 2 == 0) &&
    (fanOut x.splitList (goTo x t)).length == n && decide (x.g.bk.splits.length - 1 + n ≤ 8)

theorem test_indirect_met :
    (∃ x t, Issues demo (.brx plain .none (kk 10) (kk 10)) x t ∧ (goodTargets x t 1 && (x.list.all fun l => t.src x 1 l == t.srcLow x 1) &&
      t.srcLow x 1 != 0) = true) ∧
    (∃ x t, Issues demo (.brx some4 .none (kk 10) (kk 10)) x t ∧ (goodTargets x t 2 && t.srcLow x 1 != 0) = true) ∧
    (∃ x t, Issues demoFan (.brx plain .none (dd 6) (kk 10)) x t ∧ (goodTargets x t 3 && (x.list.all fun l => t.src x 1 l == t.srcLow x 1) &&
      t.srcLow x 1 != 0 && x.splitList.any fun l => goTo x t l != goTo x t 0) = true) ∧
    (∃ x t, Issues demo (.brx plain .none (kk 10) (ii 0)) x t ∧ (goodTargets x t 1 && t.srcLow x 1 == 0 &&
      x.splitList.all fun l => goTo x t l == goTo x t 0) = true) ∧
    (∃ x t, Issues demoFan (.callx some4 (dd 6)) x t ∧ (goodTargets x t 4 && x.pc + BitVec.ofNat 64 x.len != 0 &&
      x.list.all fun l => decide (8 * (x.g.callDepth l + 1) ≤ t.sliceSize x.g) && decide (x.g.callDepth l < 65535)) = true) ∧
    (∃ x t, Issues demo (.callx plain (kk 10)) x t ∧ (goodTargets x t 1 && x.pc + BitVec.ofNat 64 x.len != 0 &&
      x.list.all fun l => decide (8 * (x.g.callDepth l + 1) ≤ t.sliceSize x.g) && decide (x.g.callDepth l < 65535)) = true) :=
  ⟨issuesAnd_met (by decide +kernel), issuesAnd_met (by decide +kernel), issuesAnd_met (by decide +kernel), issuesAnd_met (by decide +kernel),
    issuesAnd_met (by decide +kernel), issuesAnd_met (by decide +kernel)⟩

theorem test_call_return_met :
    (∃ x t, Issues demo (.call plain 0x30) x t ∧ (x.lanes == x.sp.lanes && x.lanes != 0 &&
      (let target : DWord := x.pc + ((0x30 : BitVec 24).signExtend 64 <<< 2)
       target == 0x10200 && target.extractLsb' 56 8 == 0 && target.extractLsb' 0 2 == 0) &&
      x.list.all fun l => decide (8 * (x.g.callDepth l + 1) ≤ t.sliceSize x.g) && decide (x.g.callDepth l < 65535)) = true) ∧
    (∃ x t, Issues demoDeep (Instr.core (.retCompact ⟨0, 15, false⟩)) x t ∧ x.lanes = x.sp.lanes ∧ x.lanes ≠ 0 ∧ x.g.strand.entry.replay = false ∧
      t.popTrap x = none ∧ ∀ l ∈ x.list, x.g.callDepth l ≠ 0 ∧ t.popValue x l = 0x10200) := by
  refine ⟨issuesAnd_met (by decide +kernel), ?_⟩
  obtain ⟨x, t, hi, h⟩ := issuesAnd_met (show issuesAnd demoDeep (Instr.core (.retCompact ⟨0, 15, false⟩)) (fun x t =>
    x.lanes == x.sp.lanes && x.lanes != 0 && !x.g.strand.entry.replay && (t.sliceSize x.g == 64 && t.poisonWords == []) &&
      x.list.all fun l => x.g.callDepth l == 1 && cellGet x.g.pushed (l * 256) == 0x10200 &&
        BitVec.ofNat 64 (t.readLoc (.scratch (laneSliceKey x.g 64 l 56)) 8) == 0x10200) = true by decide +kernel)
  simp only [Bool.and_eq_true, beq_iff_eq, bne_iff_ne, Bool.not_eq_true', List.all_eq_true] at h
  have hn : t.popTrap x = none := by
    have hp (k : Nat) : t.poisoned (.scratch k) 8 = false := by simp [State.poisoned, h.1.2.2]
    simp [State.popTrap, hp]
  refine ⟨x, t, hi, h.1.1.1.1, h.1.1.1.2, h.1.1.2, hn, fun l hl => ?_⟩
  obtain ⟨⟨hd, hp⟩, hs⟩ := h.2 l hl
  refine ⟨by rw [hd]; decide, ?_⟩
  simp [State.popValue, State.popKey, State.popOffset, h.1.2.1, hd, hp, hs]

theorem test_strand_met :
    (∃ x t, Issues demo (.strand plain 0) x t ∧ (x.g.request.isNone && (match t.strandEntry x 0 with | .ok _ => true | .error _ => false)) = true) ∧
    (∃ x t, Issues demoAsked (.strand plain 0) x t ∧ (x.g.request.isSome && (match t.strandEntry x 0 with | .ok _ => true | .error _ => false)) = true) ∧
    (∃ x t, Issues demo (.park plain) x t ∧ true = true) ∧ (∃ x t, Issues demo (.exit some4) x t ∧ (x.lanes == 0xF) = true) ∧
    (∃ x t, Issues demo (.exit plain) x t ∧ (x.g.alive &&& ~~~x.lanes == 0) = true) :=
  ⟨issuesAnd_met (by decide +kernel), issuesAnd_met (by decide +kernel), issuesAnd_met (by decide +kernel), issuesAnd_met (by decide +kernel),
    issuesAnd_met (by decide +kernel)⟩

/-- STRAND 1 is beyond the table of one entry. A table whose entry has a reserved bit set, and one that names D64 beyond the allotment. -/
def demoTable (words : Nat) : State := { demo with dram := writeNat demo.dram 0x12000 80 words }

def tableIs (x : Issue) (t : State) (index : Nat) (p : Launch → Option Live → Bool) : Bool :=
  match t.launchOf x.g, t.teamOf x.g with
  | some l, some m =>
    (match t.vreads m.asid (l.image.addr + l.image.liveOff + 80 * index) 10 with
     | .ok bs => p l (liveOf (BitVec.ofNat 640 (leValue bs)) m.bridle)
     | .error _ => false)
  | _, _ => false

theorem test_strand_checks_met :
    (∃ x t, Issues demo (.strand plain 1) x t ∧
      (match t.launchOf x.g, t.teamOf x.g with | some l, some _ => decide (l.image.liveCnt ≤ 1) | _, _ => false) = true) ∧
    (∃ x t, Issues (demoTable (2 ^ 340)) (.strand plain 0) x t ∧ tableIs x t 0 (fun l e => decide (0 < l.image.liveCnt) && e.isNone) = true) ∧
    (∃ x t, Issues (demoTable (2 ^ 64)) (.strand plain 0) x t ∧
      tableIs x t 0 (fun l e => decide (0 < l.image.liveCnt) && e.any fun e => decide (x.g.dslots ≤ 64) && e.dmask.getLsbD 64) = true) :=
  ⟨issuesAnd_met (by decide +kernel), issuesAnd_met (by decide +kernel), issuesAnd_met (by decide +kernel)⟩

/-- Two arrived splits that wrote S3: each merge mode's choice. -/
theorem test_scalar_merge :
    let a : Split := { demoSplit 16 with lanes := 0xF0, sfile := [(3, 1)], written := 8 }
    let b : Split := { demoSplit 16 with lanes := 0x0F, sfile := [(3, 6)], written := 8 }
    mergeReg 0 [(3, 4)] [a, b] 3 = 6 ∧ mergeReg 1 [(3, 4)] [a, b] 3 = 1 ∧ mergeReg 2 [(3, 4)] [a, b] 3 = 4 ∧ mergeReg 3 [(3, 4)] [a, b] 3 = 7 ∧
      mergeReg 0 [(3, 4)] [a] 3 = 1 ∧ mergeReg 0 [(3, 4)] [a, b] 2 = 0 := by decide +kernel

/-! ## Memory -/

/-- A memory instruction issues with every lane's check passed. -/
def checksPass (s : State) (i : Instr) (sp : Space) (n : Nat) (w : AccNeed) (off : Option Nat) : Bool :=
  issuesAnd s i fun x t => x.lanes != 0 && (checks t x sp n w off).2.1.isEmpty

def checksFail (s : State) (i : Instr) (sp : Space) (n : Nat) (w : AccNeed) (off : Option Nat) : Bool :=
  issuesAnd s i fun x t => x.lanes != 0 && !(checks t x sp n w off).2.1.isEmpty

theorem checks_pass_met {s : State} {i : Instr} {sp : Space} {n : Nat} {w : AccNeed} {off : Option Nat}
    (h : checksPass s i sp n w off = true) : ∃ x t, Issues s i x t ∧ x.lanes ≠ 0 ∧ (checks t x sp n w off).2.1 = [] := by
  obtain ⟨x, t, hi, h⟩ := issuesAnd_met h
  rw [Bool.and_eq_true, bne_iff_ne, List.isEmpty_iff] at h
  exact ⟨x, t, hi, h⟩

theorem checks_fail_met {s : State} {i : Instr} {sp : Space} {n : Nat} {w : AccNeed} {off : Option Nat}
    (h : checksFail s i sp n w off = true) : ∃ x t, Issues s i x t ∧ x.lanes ≠ 0 ∧ (checks t x sp n w off).2.1 ≠ [] := by
  obtain ⟨x, t, hi, h⟩ := issuesAnd_met h
  rw [Bool.and_eq_true, bne_iff_ne, Bool.not_eq_true', List.isEmpty_eq_false_iff] at h
  exact ⟨x, t, hi, h⟩

/-- The instructions whose own checks `takesEffect` names, each with them passed; queue 1 is initialised. -/
theorem test_takes_effect_met :
    (∀ i ∈ [Instr.iaddc plain (qq 1) (dd 2) (dd 3) (tt 48), .vote plain .count (dd 1) (tt 48), .matchI plain .z32 (dd 1) (dd 2),
        .pset plain .plain .lt .s32 (tt 48) (dd 1) (dd 2) .null, .pmovGet plain (dd 1), .pmovSet plain (qq 1), .srd plain 1 (dd 1), .qstat plain 1 (dd 1), .nop plain,
        .waitf plain, .yield plain, .iadd plain .s32 false (qq 1) (dd 2) (dd 3), .mov plain .z32 (dd 1) (qq 1), .fmul plain .ru true (dd 1) (dd 2) (dd 3)],
      ∃ x t, takesEffect x t i.core ∧ Issues demo i.core x t) ∧
    (∃ x t, takesEffect x t (.shfl plain .idx .z32 (dd 1) (dd 2) (dd 3) (ii 4)) ∧ Issues demo (.shfl plain .idx .z32 (dd 1) (dd 2) (dd 3) (ii 4)) x t) ∧
    (∃ x t, takesEffect x t (.ld one .glob .s32 false (dd 1) (kk 0) (ii 4)) ∧ Issues demo (.ld one .glob .s32 false (dd 1) (kk 0) (ii 4)) x t) ∧
    (∃ x t, takesEffect x t (.st one .glob .s32 true false (kk 0) (dd 1) (ii 4)) ∧ Issues demo (.st one .glob .s32 true false (kk 0) (dd 1) (ii 4)) x t) ∧
    (∃ x t, takesEffect x t (.atom one .glob .s64 .cas .device (dd 2) (kk 0) (dd 4) (dd 6)) ∧
      Issues demo (.atom one .glob .s64 .cas .device (dd 2) (kk 0) (dd 4) (dd 6)) x t) ∧
    (∃ x t, takesEffect x t (.atomr one .glob .s32 .add .device (kk 0) (dd 4) (ii 0)) ∧ Issues demo (.atomr one .glob .s32 .add .device (kk 0) (dd 4) (ii 0)) x t) ∧
    (∃ x t, takesEffect x t (.qpush plain 1 (dd 1)) ∧ Issues demo (.qpush plain 1 (dd 1)) x t) ∧
    (∃ x t, takesEffect x t (.qpop plain 1 (dd 1)) ∧ Issues demo (.qpop plain 1 (dd 1)) x t) ∧
    (∃ x t, takesEffect x t (.reel plain 1 0 (dd 1)) ∧ Issues demo (.reel plain 1 0 (dd 1)) x t) := by
  refine ⟨fun i hi => ?_, ?_, ?_, ?_, ?_, ?_, ?_, ?_, ?_⟩
  · have h := List.all_eq_true.mp (show [Instr.iaddc plain (qq 1) (dd 2) (dd 3) (tt 48), .vote plain .count (dd 1) (tt 48), .matchI plain .z32 (dd 1) (dd 2),
        .pset plain .plain .lt .s32 (tt 48) (dd 1) (dd 2) .null, .pmovGet plain (dd 1), .pmovSet plain (qq 1), .srd plain 1 (dd 1), .qstat plain 1 (dd 1), .nop plain,
        .waitf plain, .yield plain, .iadd plain .s32 false (qq 1) (dd 2) (dd 3), .mov plain .z32 (dd 1) (qq 1), .fmul plain .ru true (dd 1) (dd 2) (dd 3)].all
        (fun i => issues demo i.core) = true by decide +kernel) i hi
    obtain ⟨x, t, hi'⟩ := issues_met h
    refine ⟨x, t, ?_, hi'⟩
    simp only [List.mem_cons, List.not_mem_nil, or_false] at hi
    rcases hi with rfl | rfl | rfl | rfl | rfl | rfl | rfl | rfl | rfl | rfl | rfl | rfl | rfl | rfl
    all_goals first | exact trivial | exact .inl rfl | exact .inr (.inl rfl) | exact .inr (.inr rfl)
  · obtain ⟨x, t, hi, h⟩ := issuesAnd_met (show issuesAnd demo (.shfl plain .idx .z32 (dd 1) (dd 2) (dd 3) (ii 4)) (fun x t =>
      segment x t == 4 && x.g.width == 16) = true by decide +kernel)
    rw [Bool.and_eq_true, beq_iff_eq, beq_iff_eq] at h
    exact ⟨x, t, by simp [takesEffect, legalSegment, h.1, h.2], hi⟩
  · obtain ⟨x, t, hi, _, h⟩ := checks_pass_met (show checksPass demo (.ld one .glob .s32 false (dd 1) (kk 0) (ii 4)) .glob 4 needLoad (some 1) = true by
      decide +kernel)
    exact ⟨x, t, ⟨rfl, fun _ => h⟩, hi⟩
  · obtain ⟨x, t, hi, _, h⟩ := checks_pass_met (show checksPass demo (.st one .glob .s32 true false (kk 0) (dd 1) (ii 4)) .glob 4 needStore (some 2) = true by
      decide +kernel)
    exact ⟨x, t, fun _ => h, hi⟩
  · obtain ⟨x, t, hi, _, h⟩ := checks_pass_met (show checksPass demo (.atom one .glob .s64 .cas .device (dd 2) (kk 0) (dd 4) (dd 6)) .glob 8 needAtom none =
      true by decide +kernel)
    exact ⟨x, t, fun _ => h, hi⟩
  · obtain ⟨x, t, hi, _, h⟩ := checks_pass_met (show checksPass demo (.atomr one .glob .s32 .add .device (kk 0) (dd 4) (ii 0)) .glob 4 needAtom (some 2) =
      true by decide +kernel)
    exact ⟨x, t, fun _ => h, hi⟩
  · obtain ⟨x, t, hi, h⟩ := issuesAnd_met (show issuesAnd demo (.qpush plain 1 (dd 1)) (fun x t => t.teamOf x.g == some demoTeam && demoTeam.initFor x 1) =
      true by decide +kernel)
    rw [Bool.and_eq_true, beq_iff_eq] at h
    exact ⟨x, t, ⟨demoTeam, h.1, fun _ => h.2⟩, hi⟩
  · obtain ⟨x, t, hi, h⟩ := issuesAnd_met (show issuesAnd demo (.qpop plain 1 (dd 1)) (fun x t => t.teamOf x.g == some demoTeam && (demoTeam.initFor x 1 &&
      !t.poisoned (.scratch (demoTeam.ringKey (demoTeam.queue 1) (demoTeam.queue 1).head)) 4)) = true by decide +kernel)
    rw [Bool.and_eq_true, beq_iff_eq, Bool.and_eq_true, Bool.not_eq_true'] at h
    exact ⟨x, t, ⟨demoTeam, h.1, fun _ => h.2⟩, hi⟩
  · obtain ⟨x, t, hi, h⟩ := issuesAnd_met (show issuesAnd demo (.reel plain 1 0 (dd 1)) (fun x t => (t.reelBad x 1 0).isNone) = true by decide +kernel)
    exact ⟨x, t, Option.isNone_iff_eq_none.mp h, hi⟩

theorem test_load_met :
    (∃ x t, Issues demo (.ld never .glob .s32 false (dd 1) (kk 0) (ii 0)) x t ∧ (x.lanes == 0) = true) ∧
    (∃ x t, Issues demo (.ld one .glob .s32 true (dd 1) (kk 0) (ii 4)) x t ∧ x.lanes ≠ 0 ∧ (checks t x .glob 4 needLoad (some 1)).2.1 = []) ∧
    (∃ x t, Issues demo (.ld plain .core .z8 false (dd 1) (kk 16) (ii 1)) x t ∧ x.lanes ≠ 0 ∧ (checks t x .core 1 needLoad (some 1)).2.1 = []) ∧
    (∃ x t, Issues demo (.ld plain .lane .z16 false (dd 1) (kk 16) (ii 2)) x t ∧ x.lanes ≠ 0 ∧ (checks t x .lane 2 needLoad (some 1)).2.1 = []) ∧
    (∃ x t, Issues demo (.ld plain .pool .z64 false (dd 2) (kk 16) (ii 8)) x t ∧ x.lanes ≠ 0 ∧ (checks t x .pool 8 needLoad (some 1)).2.1 = []) ∧
    (∃ x t, Issues demo (.ld plain .glob .s32 false (dd 1) (kk 6) (ii 0)) x t ∧ x.lanes ≠ 0 ∧ (checks t x .glob 4 needLoad (some 1)).2.1 ≠ []) :=
  ⟨issuesAnd_met (by decide +kernel), checks_pass_met (by decide +kernel), checks_pass_met (by decide +kernel), checks_pass_met (by decide +kernel),
    checks_pass_met (by decide +kernel), checks_fail_met (by decide +kernel)⟩

theorem test_store_met :
    (∃ x t, Issues demo (.st never .glob .s32 false false (kk 0) (dd 1) (ii 0)) x t ∧ (x.lanes == 0) = true) ∧
    (∃ x t, Issues demo (.st one .glob .s32 true false (kk 0) (dd 1) (ii 4)) x t ∧ x.lanes ≠ 0 ∧ (checks t x .glob 4 needStore (some 2)).2.1 = []) ∧
    (∃ x t, Issues demo (.st plain .core .s32 false false (ii 1) (dd 1) (ii 0)) x t ∧ x.lanes ≠ 0 ∧ (checks t x .core 4 needStore (some 2)).2.1 ≠ []) :=
  ⟨issuesAnd_met (by decide +kernel), checks_pass_met (by decide +kernel), checks_fail_met (by decide +kernel)⟩

theorem test_atomic_met :
    (∃ x t, Issues demo (.atom never .glob .s32 .add .device (dd 1) (kk 0) (dd 2) (ii 0)) x t ∧ (x.lanes == 0) = true) ∧
    (∃ x t, Issues demo (.atom one .glob .s64 .cas .device (dd 2) (kk 0) (dd 4) (dd 6)) x t ∧ x.lanes ≠ 0 ∧
      (checks t x .glob 8 needAtom none).2.1 = []) ∧
    (∃ x t, Issues demo (.atom plain .core .s32 .max .group (dd 1) (kk 16) (dd 4) (ii 4)) x t ∧ x.lanes ≠ 0 ∧
      (checks t x .core 4 needAtom (some 2)).2.1 = []) ∧
    (∃ x t, Issues demo (.atom plain .glob .s32 .add .group (dd 1) (kk 8) (dd 4) (ii 0)) x t ∧ x.lanes ≠ 0 ∧
      (checks t x .glob 4 needAtom (some 2)).2.1 ≠ []) ∧
    (∃ x t, Issues demo (.atomr one .glob .s32 .add .device (kk 0) (dd 4) (ii 0)) x t ∧ x.lanes ≠ 0 ∧
      (checks t x .glob 4 needAtom (some 2)).2.1 = []) ∧
    (∃ x t, Issues demo (.atomr never .glob .s32 .add .device (kk 0) (dd 4) (ii 0)) x t ∧ (x.lanes == 0) = true) ∧
    (∃ x t, Issues demo (.atomr plain .glob .s32 .add .device (kk 6) (dd 4) (ii 0)) x t ∧ x.lanes ≠ 0 ∧
      (checks t x .glob 4 needAtom (some 2)).2.1 ≠ []) :=
  ⟨issuesAnd_met (by decide +kernel), checks_pass_met (by decide +kernel), checks_pass_met (by decide +kernel), checks_fail_met (by decide +kernel),
    checks_pass_met (by decide +kernel), issuesAnd_met (by decide +kernel), checks_fail_met (by decide +kernel)⟩

/-- What the lanes of a gather or scatter come to once its bitmap is cleared. -/
def gatherIs (s : State) (i : Instr) (sp : Space) (cb : Nat) (w : AccNeed) (off : Nat) (p : List (Nat × Nat × Target) → List LaneFault → Bool) : Bool :=
  issuesAnd s i fun x t => x.lanes != 0 && p (checks (cleared t x cb) x sp 4 w (some off)).1 (checks (cleared t x cb) x sp 4 w (some off)).2.1

/-- The small device with D6 of lane 1 two past D6 of the other lanes: in team memory its word is misaligned. -/
def demoSkew : State := demoWith { demoGroup 16 with dfile := [(6 * 64 + 1, 2)] }

/-- An LDX and an STX without a lane, with every check passed, with every check failed, and with the check of one lane failed. -/
theorem test_gather_met :
    (∀ i ∈ [Instr.ldx never .glob .s32 1 (dd 1) (kk 0) (ii 8), .stx never .glob .s32 0 false (kk 0) (dd 1) (ii 8)],
      ∃ x t, Issues demo i x t ∧ (x.lanes == 0) = true) ∧
    gatherIs demo (.ldx one .glob .s32 1 (dd 1) (kk 0) (ii 8)) .glob 1 needLoad 1 (fun _ f => f.isEmpty) = true ∧
    gatherIs demo (.stx one .glob .s32 0 false (kk 0) (dd 1) (ii 8)) .glob 0 needStore 2 (fun _ f => f.isEmpty) = true ∧
    gatherIs demo (.ldx plain .glob .s32 1 (dd 1) (kk 6) (ii 8)) .glob 1 needLoad 1 (fun r f => r.isEmpty && !f.isEmpty) = true ∧
    gatherIs demo (.stx plain .glob .s32 0 false (kk 6) (dd 1) (ii 8)) .glob 0 needStore 2 (fun r f => r.isEmpty && !f.isEmpty) = true ∧
    gatherIs demoSkew (.ldx plain .core .s32 1 (dd 1) (dd 6) (ii 8)) .core 1 needLoad 1 (fun r f => !r.isEmpty && !f.isEmpty) = true ∧
    gatherIs demoSkew (.stx plain .core .s32 0 false (dd 6) (dd 1) (ii 8)) .core 0 needStore 2 (fun r f => !r.isEmpty && !f.isEmpty) = true := by
  refine ⟨fun i hi => ?_, by decide +kernel, by decide +kernel, by decide +kernel, by decide +kernel, by decide +kernel, by decide +kernel⟩
  exact issuesAnd_met (List.all_eq_true.mp (show [Instr.ldx never .glob .s32 1 (dd 1) (kk 0) (ii 8), .stx never .glob .s32 0 false (kk 0) (dd 1) (ii 8)].all
    (fun i => issuesAnd demo i fun x _ => x.lanes == 0) = true by decide +kernel) i hi)

def rangeMeets (x : Issue) (t : State) (len : Nat) : Bool :=
  let va := (t.srcLow x 0).toNat
  x.lanes != 0 && va == 0x60000 && (w32 (t.srcLow x 1)).toNat == len && len % 128 == 0 &&
    (len == 0 || (t.rangeFault x.g x.inHandler (va / 2 ^ 16) ((va + len - 1) / 2 ^ 16 - va / 2 ^ 16 + 1)).1.isNone)

theorem test_range_met : ∀ i ∈ [Instr.pin plain (kk 0) (kk 17), .unpin plain (kk 0) (kk 17), .icinv plain (kk 0) (kk 17)],
    (∃ x t, Issues demo i x t ∧ rangeMeets x t 128 = true) := by
  intro i hi
  exact issuesAnd_met (List.all_eq_true.mp (show [Instr.pin plain (kk 0) (kk 17), .unpin plain (kk 0) (kk 17), .icinv plain (kk 0) (kk 17)].all
    (fun i => issuesAnd demo i fun x t => rangeMeets x t 128) = true by decide +kernel) i hi)

theorem test_fence_met :
    (∃ x t, Issues demo (.fence plain .device .acq) x t) ∧ (∃ x t, Issues demo (.fence plain .team .full) x t) ∧
    (∃ x t, Issues demo (.pref plain (kk 0) (ii 0)) x t) ∧ (∃ x t, Issues demo (.pin plain (kk 0) (ii 0)) x t ∧ rangeMeets x t 0 = true) ∧
    (∃ x t, Issues demo (.icinv never (kk 0) (ii 0)) x t ∧ (x.lanes == 0) = true) :=
  ⟨issues_met (by decide +kernel), issues_met (by decide +kernel), issues_met (by decide +kernel), issuesAnd_met (by decide +kernel),
    issuesAnd_met (by decide +kernel)⟩

/-! ## Accesses performed and completed -/

def demoUnit (loc : Loc) : AccUnit :=
  { lane := 0, off := 0, size := 4, va := 0x60000, loc := loc, lcls := 0, data := 0x11223344, cmp := 0, performed := false, ret := 0, poisoned := false }

def demoAccess (kind : AccKind) (loc : Loc) : Access :=
  { kind := kind, units := [demoUnit loc], coalesced := false, acq := false, cb := none, release := none, pref := false }

/-- The small device with one access of lane 0 outstanding. -/
def accessOp (kind : AccKind) (loc : Loc) : Op :=
  { demoOp (.access (demoAccess kind loc)) (if kind = .store .s32 then none else some (demoDest (dd 5))) with lanes := 1, vals := [] }

def accessState (kind : AccKind) (loc : Loc) : State := demoOps [accessOp kind loc]

def atTurn (kind : AccKind) (loc : Loc) : Bool :=
  let s := accessState kind loc
  ((s.thread? 50).isNone && (s.remote? 50).isNone && (s.coll? 50).isNone) && s.op? 50 == some (accessOp kind loc) &&
    s.group? 4 == some (demoGroup 16) && s.mayPerform (accessOp kind loc) (demoGroup 16) (demoAccess kind loc) 0 (demoUnit loc)

theorem atTurn_met {kind : AccKind} {loc : Loc} (h : atTurn kind loc = true) :
    AtTurn (accessState kind loc) 50 0 (accessOp kind loc) (demoAccess kind loc) (demoUnit loc) (demoGroup 16) := by
  simp only [atTurn, Bool.and_eq_true, beq_iff_eq, Option.isNone_iff_eq_none] at h
  refine ⟨?_, h.1.1.2, rfl, rfl, rfl, rfl, rfl, h.1.2, rfl, h.2, rfl⟩
  unfold State.engineStep
  rw [h.1.1.1.1.1, h.1.1.1.1.2, h.1.1.1.2]

theorem test_performs_met : ∀ kind ∈ [AccKind.store .s32, .load .s32, .atom .s32 .add true, .atom .s32 .add false], ∀ loc ∈ [Loc.glob 0x60000, .scratch 16, .pool 16],
    AtTurn (accessState kind loc) 50 0 (accessOp kind loc) (demoAccess kind loc) (demoUnit loc) (demoGroup 16) ∧ (accessState kind loc).partials = [] ∧
      (accessState kind loc).copies = [] ∧ (accessState kind loc).poisonLines = [] ∧ (accessState kind loc).poisoned loc 4 = false ∧
      cellGet (accessOp kind loc).vals 0 = 0 ∧ (accessState kind loc).offCaps 0x60000 4 = true ∧ (demoGroup 16).core < 256 := by
  intro kind hk loc hl
  have h := List.all_eq_true.mp (List.all_eq_true.mp
    (show [AccKind.store .s32, .load .s32, .atom .s32 .add true, .atom .s32 .add false].all (fun kind => [Loc.glob 0x60000, .scratch 16, .pool 16].all fun loc =>
      atTurn kind loc && !(accessState kind loc).poisoned loc 4) = true by decide +kernel) kind hk) loc hl
  rw [Bool.and_eq_true, Bool.not_eq_true'] at h
  exact ⟨atTurn_met h.1, rfl, rfl, rfl, h.2, rfl, rfl, by decide⟩

/-- A PREF of a line of lease class 1 at its turn. -/
def prefAccess : Access :=
  { demoAccess (.load .z8) (.glob 0x60000) with pref := true, units := [{ demoUnit (.glob 0x60000) with size := 1, lcls := 1 }] }

def prefState : State := demoOps [{ demoOp (.access prefAccess) none with due := none }]

theorem test_pref_performs_met :
    AtTurn prefState 50 0 { demoOp (.access prefAccess) none with due := none } prefAccess { demoUnit (.glob 0x60000) with size := 1, lcls := 1 } (demoGroup 16) ∧
      prefAccess.kind = .load .z8 ∧ prefAccess.pref = true ∧ prefState.poisonLines = [] :=
  ⟨⟨rfl, by decide +kernel, rfl, rfl, rfl, rfl, rfl, by decide +kernel, rfl, by decide +kernel, rfl⟩, rfl, rfl, rfl⟩

/-- Its copy is in the cache of core 0 for 2000 ns. -/
theorem test_pref_performs : (match exec (.accessPerform 50 0) prefState with
    | .next u => u.copies.map (fun c => (c.core, c.line, c.grant, c.expiry)) == [(0, 0xC00, 100, 2100)]
    | _ => false) = true := by decide +kernel

/-- A copy that a load of the group may not hit, since the group's store to the word has been performed; another word of it may be. -/
theorem test_stale_copy_met : let s := { accessState (.load .s32) (.glob 0x60000) with
      copies := [{ core := 0, line := 0xC00, bytes := [], grant := 0, expiry := 200, used := 0, stale := [(4, 0), (4, 1), (4, 2), (4, 3)] }] }
    s.hitCopy? (demoGroup 16) 0x60000 4 0 = none ∧ (s.hitCopy? (demoGroup 16) 0x60004 4 0).isSome = true := by decide +kernel

/-- A store at its turn to the capability list, which stands at its address. -/
theorem test_store_at_list_met : let s := { accessState (.store .s32) (.glob 0x60000) with capList := some 0x60000 }
    AtTurn s 50 0 (accessOp (.store .s32) (.glob 0x60000)) (demoAccess (.store .s32) (.glob 0x60000)) (demoUnit (.glob 0x60000)) (demoGroup 16) ∧
      s.capList = some 0x60000 ∧ s.partials = [] :=
  ⟨⟨rfl, by decide +kernel, rfl, rfl, rfl, rfl, rfl, by decide +kernel, rfl, by decide +kernel, rfl⟩, rfl, rfl⟩

theorem test_store_performs : (match exec (.accessPerform 50 0) (accessState (.store .s32) (.scratch 16)) with
    | .next u => u.scratch == [(16, 0x44), (17, 0x33), (18, 0x22), (19, 0x11)] && u.dram == demoMem
    | _ => false) = true := by decide +kernel

/-- The load of lane 0, performed. -/
def doneAccess : Access := { demoAccess (.load .s32) (.scratch 16) with units := [{ demoUnit (.scratch 16) with performed := true }] }

theorem test_load_lands_met :
    let o : Op := { demoOp (.access doneAccess) (some (demoDest (dd 5))) with lanes := 1, vals := [(0, 5)] }
    (demoOps [o]).op? o.uid = some o ∧ doneAccess.acq = false ∧ doneAccess.cb = none ∧ doneAccess.release = none ∧
      (∀ v ∈ doneAccess.units, v.performed = true ∧ v.poisoned = false) ∧ (demoOps [o]).opDue o = true ∧ o.raced = [] ∧
      (demoOps [o]).group? o.grp = some (demoGroup 16) ∧ (demoGroup 16).uid = o.grp := by decide +kernel

theorem test_atomic_values : atomNew .add .s32 0xFFFFFFFF 2 0 = 1 ∧ atomNew .min .s32 0xFFFFFFFF 2 0 = 0xFFFFFFFF ∧
    atomNew .min .z32 0xFFFFFFFF 2 0 = 2 ∧ atomNew .cas .s32 7 2 7 = 2 ∧ atomNew .cas .s32 7 2 8 = 7 := by decide +kernel

/-! ## The matrix unit -/

/-- The small device with a group of width 32; lane 0's D3 differs from the other lanes'. -/
def demoWide : State := demoWith { demoGroup 32 with dfile := [(192, 5)] }

def matrixList : List Instr :=
  [.mma plain 0 (kk 16) (kk 16) (kk 22), .mmas plain 1 (kk 16) (kk 16) (kk 16) (kk 20), .mmab plain 2 (kk 16) (kk 16) (kk 16) (kk 23),
   .cmprs plain .bf16 (kk 16) (kk 16) (kk 16), .cclr plain 0, .cld plain 1 (kk 16) (kk 16), .cscl plain 2 (dd 4),
   .cst plain 3 (kk 16) (kk 22) (kk 16)]

def formatOf (x : Issue) (t : State) : Word := match formatField x.i with | some k => w32 (t.src x k 0) | none => 0

/-- Every lane active, one format word in all of them, a legal one, and every operand in scratchpad resolved. -/
def matrixMeets (x : Issue) (t : State) : Bool :=
  !x.never && x.lanes == Lanes.below x.g.width &&
    (match formatField x.i with | some k => x.list.all fun l => w32 (t.src x k l) == formatOf x t | none => true) &&
    (match t.teamOf x.g, tiles t x (formatOf x t) with
     | some m, some ops => ops.all fun o => (match t.tileOp x m o with | .ok _ => true | .error _ => false)
     | _, _ => false)

theorem test_matrix_met : ∀ i ∈ matrixList, ∃ x t, Issues demoWide i x t ∧ matrixMeets x t = true := by
  intro i hi
  exact issuesAnd_met (List.all_eq_true.mp (show matrixList.all (fun i => issuesAnd demoWide i matrixMeets) = true by decide +kernel) i hi)

/-- Guarded with (!p7) they may issue whatever their operands and wherever they stand. -/
theorem test_matrix_never_met : ∀ i ∈ [Instr.mma never 0 (kk 16) ⟨.w, 2⟩ (kk 22), .mmas never 1 (kk 16) ⟨.n, 3⟩ (kk 16) (kk 20), .mmab never 2 (kk 16) (kk 16) (kk 16) (dd 3),
      .cmprs never .bf16 (kk 16) (kk 16) (kk 16), .cclr never 0, .cld never 1 (kk 16) (kk 16), .cscl never 2 (dd 200), .cst never 3 (kk 16) (kk 22) (kk 16)],
    isMatrix i ∧ ∃ x t, demoHand.begin i = some (x, t) ∧ (demoHand.mayIssue x && !demoHand.overrunDue x && (t.queueTrap x).isNone && x.never) = true := by
  intro i hi
  have h := beginsAnd_met (List.all_eq_true.mp (show [Instr.mma never 0 (kk 16) ⟨.w, 2⟩ (kk 22), .mmas never 1 (kk 16) ⟨.n, 3⟩ (kk 16) (kk 20),
      .mmab never 2 (kk 16) (kk 16) (kk 16) (dd 3), .cmprs never .bf16 (kk 16) (kk 16) (kk 16), .cclr never 0, .cld never 1 (kk 16) (kk 16), .cscl never 2 (dd 200),
      .cst never 3 (kk 16) (kk 22) (kk 16)].all (fun i => beginsAnd demoHand i fun x t => demoHand.mayIssue x && !demoHand.overrunDue x && (t.queueTrap x).isNone && x.never) =
        true by decide +kernel) i hi)
  refine ⟨?_, h⟩
  simp only [List.mem_cons, List.not_mem_nil, or_false] at hi
  rcases hi with rfl | rfl | rfl | rfl | rfl | rfl | rfl | rfl <;> trivial

theorem test_matrix_traps_met :
    (∃ x t, Issues demoWide (.cclr never 0) x t ∧ x.never = true) ∧
    (∃ x t, Issues demoWide (.cclr some4 0) x t ∧ (!x.never && x.lanes != Lanes.below x.g.width) = true) ∧
    (∃ x t, Issues demoWide (.mma plain 0 (kk 16) (kk 16) (dd 3)) x t ∧ (!x.never && x.lanes == Lanes.below x.g.width &&
      x.list.any fun l => w32 (t.src x 2 l) != formatOf x t) = true) ∧
    (∃ x t, Issues demoWide (.mma plain 0 (kk 16) (kk 16) (kk 20)) x t ∧ (!x.never && x.lanes == Lanes.below x.g.width &&
      (x.list.all fun l => w32 (t.src x 2 l) == formatOf x t) && (tiles t x (formatOf x t)).isNone) = true) :=
  ⟨issuesAnd_met (by decide +kernel), issuesAnd_met (by decide +kernel), issuesAnd_met (by decide +kernel), issuesAnd_met (by decide +kernel)⟩

/-- A matrix instruction outstanding past its read point. -/
def matrixOp (i : Instr) (ready : Bool) : Op :=
  { demoOp (.matrix { fmt := 0, reads := [], spans := [], read := true, writes := [], ready := ready, late := none }) none with instr := i, due := none }

theorem test_matrix_completes_met : ∀ ready ∈ [false, true], ∀ i ∈ matrixList,
    let s := { demoWide with ops := [matrixOp i ready] }
    s.op? 50 = some (matrixOp i ready) ∧ (s.group? 4).isSome = true ∧ (ready = false → ∀ p ∈ s.matrixOpen 4, 50 ≤ p.uid) := by
  intro ready hr i hi
  exact (show ∀ ready ∈ [false, true], ∀ i ∈ matrixList,
    (let s := { demoWide with ops := [matrixOp i ready] }
     s.op? 50 = some (matrixOp i ready) ∧ (s.group? 4).isSome = true ∧ (ready = false → ∀ p ∈ s.matrixOpen 4, 50 ≤ p.uid)) by decide +kernel) ready hr i hi

theorem test_matrix_waits_met : ∃ p ∈ ({ demoWide with ops := [{ matrixOp (.cclr plain 0) false with uid := 49 }, matrixOp (.cclr plain 0) false] } : State).matrixOpen 4,
    p.uid < 50 := by decide +kernel

/-- A CMPRS of two words of which the first has been read; it holds its group. -/
def compressJob : MatJob :=
  { fmt := 0, reads := [⟨64, 64, 7, true, false⟩, ⟨68, 68, 0, false, false⟩], spans := [(0, 8)], read := false, writes := [⟨128, 128, 0, false, false⟩]
    ready := false, late := none }

def compressState : State :=
  { demoWith { demoGroup 32 with hold := .op 50 } with ops := [{ demoOp (.matrix compressJob) none with instr := .cmprs plain .bf16 (kk 16) (kk 16) (kk 16), due := none }] }

theorem test_compress_read_met : compressState.engineStep 50 1 = none ∧ (compressState.op? 50).isSome = true ∧
    (compressState.group? 4).map (·.hold) = some (.op 50) ∧ compressJob.reads[1]? = some ⟨68, 68, 0, false, false⟩ ∧
    (∀ i v, compressJob.reads[i]? = some v → v.bad = false ∧ (i ≠ 1 → v.done = true)) ∧ compressState.poisoned (.scratch 68) 4 = false := by
  refine ⟨rfl, by decide +kernel, by decide +kernel, rfl, fun i v h => ?_, by decide +kernel⟩
  match i with
  | 0 => cases h; exact ⟨rfl, fun _ => rfl⟩
  | 1 => cases h; exact ⟨rfl, fun h => absurd rfl h⟩
  | n + 2 => simp [compressJob] at h

/-- R81's element codes: a bf16 1.0 by a bf16 -2.0 and a dropped position, with the scales 127 and 128, make -4; the runs' f32 accumulator takes them. -/
theorem test_block_values : let sh : MmaShape := { fa := .bf16, fb := .bf16, k := 16, lk := 16, acc := 0, scale := 0, block := 16 }
    (blockValue sh (fun i => if i = 0 then some 0x3F80 else none) (fun _ => 0xC000) 127 128 0 4).1 = .fin true 0x4000 (-12) ∧
      (blockValue sh (fun _ => some 0x3F80) (fun _ => 0xC000) 255 0 0 1).1 = .nan false ∧
      (mmaElement sh (fun i => if i = 0 then some 0x3F80 else none) (fun _ => 0xC000) (fun _ => 127) (fun _ => 127) 0x3F800000).1 = 0xBF800000 := by
  decide +kernel

/-- 7 + (-1) * 3 + 127 * 2 over s8, and 2 * 100 over f16 runs. -/
theorem test_mma_values :
    (mmaElement { fa := .s8, fb := .z8, k := 2, lk := 2, acc := 2, scale := 0, block := 16 } (fun i => if i = 0 then some 0xFF else some 127)
      (fun i => if i = 0 then 3 else 2) (fun _ => 127) (fun _ => 127) 7).1 = 258 := by decide +kernel

/-- CMPRS of a group of four s8: 1, -9, 9, 0 keeps -9 and 9, at positions 1 and 2. -/
theorem test_compress_values : let r := compress .s8 1 [0x0009F701]
    elementAt r.1 8 32 0 0 = 0xF7 ∧ elementAt r.1 8 32 0 1 = 9 ∧ metaNibble r.2 32 0 0 = 1 + 4 * 2 := by decide +kernel

theorem test_cclr : (match exec (.matrixCompletion 50)
      { demoWith { demoGroup 32 with cols := [(5, 7), (2000, 9)] } with ops := [matrixOp (.cclr plain 0) false] } with
    | .next u => ((u.group? 4).map fun g => (cellGet g.cols 5, cellGet g.cols 2000)) == some (0, 9)
    | _ => false) = true := by decide +kernel

/-! ## Queues, engines, handlers, system registers -/

theorem test_queue_met :
    (∀ i ∈ [Instr.qinit never 2 (kk 16) (ii 4), .qpush never 1 (dd 1), .qpop never 1 (dd 1)],
      ∃ x t, Issues demo i x t ∧ (x.lanes == 0 && i.qField.isNone && (t.teamOf x.g == some demoTeam) && demoTeam.uid == x.g.team) = true) ∧
    (∀ n ∈ [0, 1, 127], ∃ x t, Issues demo (.qinit plain 2 (kk 16) (ii n)) x t ∧
      (x.lanes != 0 && (w32 (t.srcLow x 1)).toNat == n.toNat &&
        (match t.coreLoc demoTeam x.g.core (w32 (t.srcLow x 0)).toNat 4 (4 * n.toNat) true with | .ok _ => true | .error _ => false)) = true) ∧
    (∀ k ∈ [(24, 255), (25, 256)], ∃ x t, Issues demo (.qinit plain 2 (kk 16) (kk (BitVec.ofNat 8 k.1))) x t ∧
      (x.lanes != 0 && (w32 (t.srcLow x 1)).toNat == k.2 &&
        (match t.coreLoc demoTeam x.g.core (w32 (t.srcLow x 0)).toNat 4 (4 * k.2) true with | .ok _ => true | .error _ => false)) = true) ∧
    (∃ x t, Issues demo (.qpush plain 1 (dd 1)) x t ∧ (x.lanes != 0 && demoTeam.initFor x 1 && (demoTeam.queue 1).init) = true) ∧
    (∃ x t, Issues demo (.qpush plain 2 (dd 1)) x t ∧ (x.lanes != 0 && !demoTeam.initFor x 2) = true) ∧
    (∃ x t, Issues demo (.qpop plain 1 (dd 1)) x t ∧
      (x.lanes != 0 && demoTeam.initFor x 1 && (demoTeam.queue 1).init && !t.poisoned (.scratch (demoTeam.ringKey (demoTeam.queue 1) 1)) 4) = true) ∧
    (∃ x t, Issues demo (.qpop plain 2 (dd 1)) x t ∧ (x.lanes != 0 && !demoTeam.initFor x 2) = true) ∧
    (∃ x t, Issues demo (.qstat plain 1 (dd 1)) x t) ∧ (∃ x t, Issues demo (.qstat plain 2 (dd 1)) x t) := by
  refine ⟨fun i hi => ?_, fun n hn => ?_, fun k hk => ?_, issuesAnd_met (by decide +kernel), issuesAnd_met (by decide +kernel),
    issuesAnd_met (by decide +kernel), issuesAnd_met (by decide +kernel), issues_met (by decide +kernel), issues_met (by decide +kernel)⟩
  · exact issuesAnd_met (List.all_eq_true.mp (show [Instr.qinit never 2 (kk 16) (ii 4), .qpush never 1 (dd 1), .qpop never 1 (dd 1)].all
      (fun i => issuesAnd demo i fun x t => x.lanes == 0 && i.qField.isNone && (t.teamOf x.g == some demoTeam) && demoTeam.uid == x.g.team) = true by
        decide +kernel) i hi)
  · exact issuesAnd_met (List.all_eq_true.mp (show [0, 1, 127].all (fun n => issuesAnd demo (.qinit plain 2 (kk 16) (ii n)) fun x t =>
      x.lanes != 0 && (w32 (t.srcLow x 1)).toNat == n.toNat &&
        (match t.coreLoc demoTeam x.g.core (w32 (t.srcLow x 0)).toNat 4 (4 * n.toNat) true with | .ok _ => true | .error _ => false)) = true by
          decide +kernel) n hn)
  · exact issuesAnd_met (List.all_eq_true.mp (show [(24, 255), (25, 256)].all (fun k => issuesAnd demo (.qinit plain 2 (kk 16) (kk (BitVec.ofNat 8 k.1))) fun x t =>
      x.lanes != 0 && (w32 (t.srcLow x 1)).toNat == k.2 &&
        (match t.coreLoc demoTeam x.g.core (w32 (t.srcLow x 0)).toNat 4 (4 * k.2) true with | .ok _ => true | .error _ => false)) = true by
          decide +kernel) k hk)

/-- A COPY whose checks pass. -/
def copyMeets (sp dsp : Space) (kind : CopyKind) (qn first : Nat) (x : Issue) (t : State) : Bool :=
  let shape (j : Nat) : Nat := (t.regWord x .s (20 + j) (16 + j) 0).toNat
  x.lanes != 0 && shape 0 == 2 && shape 1 == 8 && shape 2 == 16 && shape 3 == 16 && (t.srcLow x first).toNat % 4 == 0 &&
    (t.srcLow x (first + 1)).toNat % 4 == 0 &&
    (match t.rowKeys demoTeam x.g.core sp (t.srcLow x first).toNat 16 8 false 2, t.rowKeys demoTeam x.g.core dsp (t.srcLow x (first + 1)).toNat 16 8 false 2,
      t.copySignal x demoTeam kind qn t.nextId (t.nextId + 1) (w32 (t.srcLow x 0)) with
     | .ok _, .ok _, .ok _ => true
     | _, _, _ => false)

theorem test_copy_met :
    (∃ x t, Issues demo (.copy { plain with set := 1 } .glob .core .flag 0 .null (kk 0) (kk 16) (ss 20)) x t ∧ copyMeets .glob .core .flag 0 0 x t = true) ∧
    (∃ x t, Issues demo (.copy plain .core .glob .count 0 (kk 16) (kk 16) (kk 0) (ss 20)) x t ∧ copyMeets .core .glob .count 0 1 x t = true) ∧
    (∃ x t, Issues demo (.copy plain .pool .core .push 1 (dd 1) (kk 16) (kk 16) (ss 20)) x t ∧ copyMeets .pool .core .push 1 1 x t = true) ∧
    (∃ x t, Issues demo (.copy never .core .glob .count 0 (kk 16) (kk 16) (kk 0) (ss 20)) x t ∧ (x.lanes == 0) = true) :=
  ⟨issuesAnd_met (by decide +kernel), issuesAnd_met (by decide +kernel), issuesAnd_met (by decide +kernel), issuesAnd_met (by decide +kernel)⟩

/-- A Reel context of core 0 that executes at 0x14000. -/
def demoReel : ReelCtx :=
  { busy := true, serial := 9, grp := 4, team := 3, queue := 1, pc := 0x14000, here := 0x14000, start := 0x14000, stop := 0x14040, since := 0
    sfile := [(1, 7), (2, 3)], loops := [], ended := false }

/-- Context 2 of core 0 is busy; its slice begins with an IADD. -/
def demoSlice (r : ReelCtx) : State :=
  { demo with reels := [(2, r)], cur := .reel 0 2
              icache := [demoLine, { core := 0, asid := 1, line := 0x500, words := [0xC0003C21, 0x70000602, 0xC0400001] ++ List.replicate 13 0
                                     priv := false, fail := none }] }

theorem test_reel_met :
    (∃ x t, Issues demo (.reel plain 1 0 (dd 1)) x t ∧ (x.lanes != 0 && (t.reelBad x 1 0).isNone) = true) ∧
    (∃ x t, Issues (demoWith (demoGroup 16)) (.reelw never false (dd 1)) x t ∧ (x.lanes == 0) = true) ∧
    (∃ x t, Issues demo (.reelw plain true (ii 4)) x t ∧ (x.lanes != 0 && (w32 (t.srcLow x 0)).extractLsb' 2 14 != 0) = true) ∧
    (∃ x t, Issues demo (.reelw plain true (ii 2)) x t ∧ (x.lanes != 0 && (w32 (t.srcLow x 0)).extractLsb' 2 14 == 0 &&
      (t.reel? x.g.core 2).isNone) = true) ∧
    (∃ x t, Issues { demo with reels := [(2, { demoReel with serial := 0 })] } (.reelw plain true (ii 2)) x t ∧
      (x.lanes != 0 && (w32 (t.srcLow x 0)).extractLsb' 2 14 == 0 &&
        (t.reel? x.g.core 2).any fun r => r.serial == (w32 (t.srcLow x 0)).toNat / 65536) = true) :=
  ⟨issuesAnd_met (by decide +kernel), issuesAnd_met (by decide +kernel), issuesAnd_met (by decide +kernel), issuesAnd_met (by decide +kernel),
    issuesAnd_met (by decide +kernel)⟩

/-- The same slice with an AEND at 0x14000. -/
def demoLoop (r : ReelCtx) : State :=
  { demoSlice r with
    icache := [{ core := 0, asid := 1, line := 0x500, words := encode (.aend plain) ++ List.replicate 13 0, priv := false, fail := none }] }

theorem test_slice_executes_met : (∃ r n i, (demoSlice demoReel).reelReady 0 2 = some (r, n, .ok i)) ∧ (demoSlice demoReel).reelTurn 0 = some 2 := by
  have h : (match (demoSlice demoReel).reelReady 0 2 with | some (_, _, .ok _) => true | _ => false) = true := by decide +kernel
  refine ⟨?_, by decide +kernel⟩
  split at h
  · next r n i he => exact ⟨r, n, i, he⟩
  · cases h

theorem test_slice_results_met : ∀ i ∈ [Instr.iadd plain .s32 false (ss 1) (ss 1) (ss 2), .shl plain .z32 (ss 1) (ss 1) (ii 2), .lea plain .z64 false (ss 4) (ss 4) (ss 6) (ii 2)],
    (demoSlice demoReel).cur = .reel 0 2 ∧ (demoSlice demoReel).reel? 0 2 = some demoReel ∧ sliceInstr i = true ∧ i.slots.all sliceOperand = true ∧
      ((integerTable i).isSome || (logicTable i).isSome) = true ∧ i.dest.isSome = true := by decide +kernel

theorem test_slice_loops_met :
    (∃ next, (demoLoop demoReel).afterLoop 0 1 demoReel.stop demoReel.pc 0 ((demoReel.stop - demoReel.pc).toNat / 4 + 1) = some next) ∧
      (demoLoop demoReel).team? demoReel.team = some demoTeam ∧ demoTeam.asid = 1 ∧ demoReel.loops.length < 4 ∧
      (demoSlice { demoReel with loops := [(0x14000, 2, 1)] }).reel? 0 2 = some { demoReel with loops := [(0x14000, 2, 1)] } := by
  refine ⟨?_, by decide +kernel⟩
  have h : ((demoLoop demoReel).afterLoop 0 1 demoReel.stop demoReel.pc 0 ((demoReel.stop - demoReel.pc).toNat / 4 + 1)).isSome = true := by
    decide +kernel
  exact Option.isSome_iff_exists.mp h

/-- The instructions of a slice's engine, issued by a group. -/
theorem test_group_slice_met : ∀ i ∈ [Instr.aloop plain (dd 1) (dd 2), .aend never, .aqput plain 1 .core (dd 1) (dd 2)],
    ∃ x t, demo.begin i = some (x, t) ∧ (demo.mayIssue x && !demo.overrunDue x) = true := by
  intro i hi
  exact beginsAnd_met (List.all_eq_true.mp (show [Instr.aloop plain (dd 1) (dd 2), .aend never, .aqput plain 1 .core (dd 1) (dd 2)].all
    (fun i => beginsAnd demo i fun x _ => demo.mayIssue x && !demo.overrunDue x) = true by decide +kernel) i hi)

/-- AQPUT of two rows of one word from team memory at S4. -/
theorem test_aqput_met :
    let r : ReelCtx := { demoReel with sfile := [(4, 0x200), (5, 1)] }
    let s := demoSlice r
    s.team? r.team = some demoTeam ∧ demoTeam.uid = r.team ∧ (1 : BitVec 4).toNat = r.queue ∧ (demoTeam.queue 1).init = true ∧
      s.poisoned (.scratch (demoTeam.ringKey (demoTeam.queue 1) 3)) 4 = false ∧
      (match State.tileKeys { s with nextId := s.nextId + 1, teams := tabSet s.teams 3 (demoTeam.setQueue 1 ((demoTeam.queue 1).reserve s.nextId)) }
          demoTeam 0 .core (reelValue r.sfile ⟨.adr32, ss 4⟩).toNat (s.ringWord demoTeam (demoTeam.queue 1) 3) (w32 (reelValue r.sfile ⟨.src32, ss 5⟩)) with
       | .ok _ => true
       | .error _ => false) = true := by decide +kernel

/-! ### Traps, handlers and system registers -/

theorem test_trap_met :
    (∃ x t, Issues demo (.trap never 0x85) x t ∧ (x.lanes == 0) = true) ∧
    (∃ x t, Issues demo (.trap plain 0x85) x t ∧ x.lanes ≠ 0 ∧ x.g.unwinding = none ∧ x.g.place = .active 0 0 ∧ x.g.debug ≠ .stepping ∧ x.g.deliveries = [] ∧
      x.g.frq.length < 8 ∧ ∃ e, (t.touchTable x.g 0x85).trapEntry x.g 0x85 = .handler e) := by
  refine ⟨issuesAnd_met (by decide +kernel), ?_⟩
  obtain ⟨x, t, hi, h⟩ := issuesAnd_met (show issuesAnd demo (.trap plain 0x85) (fun x t => x.lanes != 0 && x.g.unwinding == none && x.g.place == .active 0 0 &&
    x.g.debug != .stepping && x.g.deliveries == [] && decide (x.g.frq.length < 8) &&
      (match (t.touchTable x.g 0x85).trapEntry x.g 0x85 with | .handler _ => true | _ => false)) = true by decide +kernel)
  simp only [Bool.and_eq_true, beq_iff_eq, bne_iff_ne, decide_eq_true_eq] at h
  refine ⟨x, t, hi, h.1.1.1.1.1.1, h.1.1.1.1.1.2, h.1.1.1.1.2, h.1.1.1.2, h.1.1.2, h.1.2, ?_⟩
  have h := h.2
  split at h
  · next e he => exact ⟨e, he⟩
  · cases h

theorem test_handler_returns_met : ∀ i ∈ [Instr.tret plain false, .tret plain true, .replay plain, .unwind plain, .endg plain],
    ∃ x t, Issues demoHand i x t ∧ (!x.never && (t.opsOf x.g true).isEmpty && x.g.hand.any fun h => (x.g.deliveries.all fun d => d.id == h.serves.id) &&
      h.serves.gather.isNone && !h.serves.notice && !h.serves.debug && (x.g.bank.split? h.serves.split).isSome && h.mapreq.isNone) = true := by
  intro i hi
  exact issuesAnd_met (List.all_eq_true.mp (show [Instr.tret plain false, .tret plain true, .replay plain, .unwind plain, .endg plain].all
    (fun i => issuesAnd demoHand i fun x t => !x.never && (t.opsOf x.g true).isEmpty && x.g.hand.any fun h =>
      (x.g.deliveries.all fun d => d.id == h.serves.id) && h.serves.gather.isNone && !h.serves.notice && !h.serves.debug &&
        (x.g.bank.split? h.serves.split).isSome && h.mapreq.isNone) = true by decide +kernel) i hi)

/-- The handler with an instruction of its own outstanding; one that serves a notice; and an UNWIND of a replayable strand. -/
theorem test_handler_waits_met :
    (∃ x t, Issues { demoHand with ops := [{ demoOp .plain (some (demoDest (dd 5))) with hand := true }] } (.tret plain false) x t ∧
      (!(t.opsOf x.g true).isEmpty) = true) ∧
    (∃ x t, Issues (demoWith { handGroup with hand := handGroup.hand.map fun h => { h with serves := { demoDelivery with notice := true } } })
      (.tret plain false) x t ∧ (x.g.hand.any fun h => h.serves.notice) = true) ∧
    (∃ x t, Issues (demoWith { handGroup with strand := { handGroup.strand with entry := { handGroup.strand.entry with replay := true } } })
      (.unwind plain) x t ∧ (x.g.strand.entry.replay && (t.opsOf x.g true).isEmpty && x.g.hand.any fun h => h.mapreq.isNone) = true) :=
  ⟨issuesAnd_met (by decide +kernel), issuesAnd_met (by decide +kernel), issuesAnd_met (by decide +kernel)⟩

/-- The handler of a precise trap of an LDX or STX over lanes 0 to 2 in team memory. Lane 1's word is misaligned; `marks` are the lanes that the bitmap marks. -/
def gatherDelivery (i : Instr) : Delivery := { demoDelivery with gather := some { instr := i, lanes := 7, cb := 1 } }

def demoGather (i : Instr) (marks : BitVec 64) : State :=
  demoWith { handGroup with
    deliveries := [gatherDelivery i], hand := handGroup.hand.map (fun h => { h with serves := gatherDelivery i }), cb := [(1, marks)], dfile := [(6 * 64 + 1, 2)] }

/-- The lanes of a gather or scatter that fail when it is sent again on `left`. -/
def failsAgain (load : Bool) (left : List Nat) (y : Issue) (v : State) : List LaneFault :=
  (v.targets y.g false .core 4 (if load then needLoad else needStore) (v.laneAddrs y .core (some (if load then 1 else 2)) left)).2.1

/-- The premises of `Replays`, with the lanes left that the bitmap does not mark. -/
def replayMeets (i : Instr) (load : Bool) (marks : BitVec 64) (left : List Nat) (bad : Bool) : Bool :=
  issuesAnd (demoGather i marks) (.replay plain) fun x t => !x.never && (t.opsOf x.g true).isEmpty && match x.g.hand, t.group? x.g.uid, i.ctl with
    | some h, some g, some c =>
      h.serves.gather == some { instr := i, lanes := 7, cb := 1 } && h.serves.resume == .re && (x.g.deliveries.all fun d => d.id == h.serves.id) &&
        gatherOf i == some (.core, .s32, 1, load) && !t.gatherBusy x.g { instr := i, lanes := 7, cb := 1 } && cellGet g.cb 1 == marks &&
        ((closeHandler g).bank.split? h.serves.split).any fun sp =>
          let y : Issue := { i := i, c := c, g := closeHandler g, sp := sp, pc := h.serves.pc, len := h.serves.len, lanes := 7, bits := Config.choose t.fresh }
          (failsAgain load left y { t.setGroup y.g with fresh := t.fresh + 1 }).isEmpty != bad
    | _, _, _ => false

theorem test_replays_left : (((7 : Lanes).list 64).filter fun l => !Lanes.has (2 : Lanes) l) = [0, 2] ∧
    (((7 : Lanes).list 64).filter fun l => !Lanes.has (1 : Lanes) l) = [1, 2] := by decide +kernel

theorem test_replays_met : replayMeets (.ldx plain .core .s32 1 (dd 1) (dd 6) (ii 8)) true 2 [0, 2] false = true ∧
    replayMeets (.stx plain .core .s32 1 false (dd 6) (dd 1) (ii 8)) false 2 [0, 2] false = true ∧
    replayMeets (.ldx plain .core .s32 1 (dd 1) (dd 6) (ii 8)) true 1 [1, 2] true = true ∧
    replayMeets (.stx plain .core .s32 1 false (dd 6) (dd 1) (ii 8)) false 1 [1, 2] true = true :=
  ⟨by decide +kernel, by decide +kernel, by decide +kernel, by decide +kernel⟩

/-- The LDX is sent again on lanes 0 and 2 and goes on after it. -/
theorem test_replays : (match exec (.replay plain) (demoGather (.ldx plain .core .s32 1 (dd 1) (dd 6) (ii 8)) 2) with
    | .next u => ((u.group? 4).map fun g => (g.hand.isNone, cellGet g.cb 1, g.bank.splits.map (·.pc))) == some (true, 2, [0x1014C]) &&
      (match u.ops with | [o] => (match o.job with | .access a => a.units.map (·.lane) == [0, 2] | _ => false) | _ => false)
    | _ => false) = true := by decide +kernel

theorem test_frqpop_mapreq_met :
    (∃ x t, Issues demoHand (.frqpop plain (dd 0)) x t ∧ (x.lanes != 0) = true) ∧ (∃ x t, Issues demoHand (.frqpop never (dd 0)) x t ∧ (x.lanes == 0) = true) ∧
    (∃ x t, Issues demoHand (.mapreq { never with set := 2 } (kk 0) (ii 0)) x t ∧ (x.lanes == 0) = true) ∧
    (∀ k ∈ [(0, (0 : Nat), 0x60000), (0, 1, 0x60000), (0, 2, 0x60000), (12, 1, 0x100000000008000)],
      ∃ x t, Issues demoHand (.mapreq { plain with set := 2 } (kk (BitVec.ofNat 8 k.1)) (ii (BitVec.ofNat 8 k.2.1))) x t ∧
        (x.lanes != 0 && (w32 (t.srcLow x 1)).toNat == k.2.1 && (t.srcLow x 0).toNat == k.2.2) = true) := by
  refine ⟨issuesAnd_met (by decide +kernel), issuesAnd_met (by decide +kernel), issuesAnd_met (by decide +kernel), fun k hk => ?_⟩
  exact issuesAnd_met (List.all_eq_true.mp (show [(0, (0 : Nat), 0x60000), (0, 1, 0x60000), (0, 2, 0x60000), (12, 1, 0x100000000008000)].all
    (fun k => issuesAnd demoHand (.mapreq { plain with set := 2 } (kk (BitVec.ofNat 8 k.1)) (ii (BitVec.ofNat 8 k.2.1))) fun x t =>
      x.lanes != 0 && (w32 (t.srcLow x 1)).toNat == k.2.1 && (t.srcLow x 0).toNat == k.2.2) = true by decide +kernel) k hk)

theorem test_system_met :
    (∃ x t, Issues demoHand (.uread plain false ⟨.w, 1⟩ (dd 1)) x t) ∧ (∃ x t, Issues demoHand (.uwrite plain false ⟨.n, 2⟩ (dd 1)) x t) ∧
    (∀ n ∈ [0x001, 0x010, 0x055, 0x060, 0x061, 0x063, 0x064, 0x065, 0x067],
      ∃ x t, Issues demoHand (.srd plain n (dd 1)) x t ∧ (sysAssigned n.toNat && x.g.hand.isSome && (t.contextOf x.g).isSome) = true) ∧
    (∃ x t, Issues demo (.srd plain 0x001 (dd 1)) x t ∧ (x.g.hand.isNone) = true) ∧
    (∀ n ∈ [0x001, 0x010, 0x055, 0x060], ∃ x t, Issues demoHand (.swr plain n (dd 1)) x t ∧
      (x.lanes != 0 && x.g.hand.isSome && (t.contextOf x.g).isSome) = true) ∧
    (∃ x t, Issues demoHand (.swr never 0x010 (dd 1)) x t ∧ (x.lanes == 0) = true) ∧
    (∃ x t, Issues demo (.bkpt plain 5) x t ∧ ((t.contextOf x.g).any fun k => !k.debug) = true) ∧
    (∃ x t, Issues { demo with contexts := [(1, { demoContext with debug := true })] } (.bkpt plain 5) x t ∧
      (!x.never && (t.contextOf x.g).any fun k => k.debug) = true) := by
  refine ⟨issues_met (by decide +kernel), issues_met (by decide +kernel), fun n hn => ?_, issuesAnd_met (by decide +kernel), fun n hn => ?_,
    issuesAnd_met (by decide +kernel), issuesAnd_met (by decide +kernel), issuesAnd_met (by decide +kernel)⟩
  · exact issuesAnd_met (List.all_eq_true.mp (show [0x001, 0x010, 0x055, 0x060, 0x061, 0x063, 0x064, 0x065, 0x067].all
      (fun n => issuesAnd demoHand (.srd plain n (dd 1)) fun x t => sysAssigned n.toNat && x.g.hand.isSome && (t.contextOf x.g).isSome) = true by
        decide +kernel) n hn)
  · exact issuesAnd_met (List.all_eq_true.mp (show [0x001, 0x010, 0x055, 0x060].all
      (fun n => issuesAnd demoHand (.swr plain n (dd 1)) fun x t => x.lanes != 0 && x.g.hand.isSome && (t.contextOf x.g).isSome) = true by
        decide +kernel) n hn)

/-- Numbers that SRD and SWR may not name: one that user code may not, with a D register beyond the allotment, and one that is not assigned. -/
theorem test_system_number_met : ∀ e ∈ [(demo, Instr.srd plain 0x010 (dd 200)), (demo, .swr plain 0x010 (dd 1)), (demoHand, .srd plain 0xFFF (dd 1)),
    (demoHand, .swr plain 0xFFF (dd 1))], ∃ x t, e.1.begin e.2 = some (x, t) ∧ (e.1.mayIssue x && !e.1.overrunDue x &&
      (match e.2 with | .srd _ n _ | .swr _ n _ => !(sysAssigned n.toNat && (x.g.hand.isSome || n == 1)) | _ => false)) = true := by
  intro e he
  exact beginsAnd_met (List.all_eq_true.mp (show [(demo, Instr.srd plain 0x010 (dd 200)), (demo, .swr plain 0x010 (dd 1)), (demoHand, .srd plain 0xFFF (dd 1)),
    (demoHand, .swr plain 0xFFF (dd 1))].all (fun e => beginsAnd e.1 e.2 fun x _ => e.1.mayIssue x && !e.1.overrunDue x &&
      (match e.2 with | .srd _ n _ | .swr _ n _ => !(sysAssigned n.toNat && (x.g.hand.isSome || n == 1)) | _ => false)) = true by decide +kernel) e he)

/-- TRET.skip of the small device's trap at 0x10140 goes on at 0x1014C. -/
theorem test_tret_skip : (match exec (.tret plain true) demoHand with
    | .next u => ((u.group? 4).map fun g => (g.hand.isNone, g.bank.splits.map (·.pc))) == some (true, [0x1014C])
    | _ => false) = true := by decide +kernel

/-! ## Cells, tasks, the Tether -/

def objectOk (x : Issue) (t : State) (va align : Nat) (need : Need) (access : BitVec 3) : Bool :=
  x.lanes != 0 && (match (t.objectAt x va align need access).1 with | .ok _ => true | .error _ => false)

def objectBad (x : Issue) (t : State) (va align : Nat) (need : Need) (access : BitVec 3) : Bool :=
  x.lanes != 0 && (match (t.objectAt x va align need access).1 with | .ok _ => false | .error _ => true)

/-- What `objectOk` and `objectBad` say as the premises say it. -/
theorem objectOk_met {x : Issue} {t : State} {va align : Nat} {need : Need} {access : BitVec 3} (h : objectOk x t va align need access = true) :
    x.lanes ≠ 0 ∧ ∃ pa t', t.objectAt x va align need access = (.ok pa, t') := by
  rw [objectOk, Bool.and_eq_true, bne_iff_ne] at h
  refine ⟨h.1, ?_⟩
  have h := h.2
  split at h
  · next pa hp => exact ⟨pa, (t.objectAt x va align need access).2, by rw [← hp]⟩
  · cases h

theorem objectBad_met {x : Issue} {t : State} {va align : Nat} {need : Need} {access : BitVec 3} (h : objectBad x t va align need access = true) :
    x.lanes ≠ 0 ∧ ∃ e t', t.objectAt x va align need access = (.error e, t') := by
  rw [objectBad, Bool.and_eq_true, bne_iff_ne] at h
  refine ⟨h.1, ?_⟩
  have h := h.2
  split at h
  · cases h
  · next e he => exact ⟨e, (t.objectAt x va align need access).2, by rw [← he]⟩

/-- The waiting instructions over the operand `a` for their object. -/
def waits (c : Ctl) (a : Opnd) : List Instr :=
  [.fwait c .z32 (dd 5) a (ii 0), .lock c a (ii 0), .chpush c .z64 a (dd 6) (ii 0), .chpop c .z64 (dd 8) a (ii 0), .waitc c a (ii 1) (ii 0)]

def waitMeets (ok : Bool) (i : Instr) (x : Issue) (t : State) : Bool :=
  match waitShape i with
  | none => false
  | some (op, d, wide, off) =>
    let va := t.objectAddr x off
    let align : Nat := match op with | .waitc => 4 | .chpush | .chpop => 32 | _ => 16
    let need : Need := match op with | .fwait | .waitc => .read | _ => .both
    (match d with | some e => (t.waitDest x e wide).isNone | none => true) && (if ok then objectOk x t va align need 4 else objectBad x t va align need 4)

theorem test_waits_met :
    (∀ i ∈ waits never (kk 2), ∃ x t, Issues demo i x t ∧ (x.lanes == 0 && (waitShape i).all fun w =>
      match w.2.1 with | some e => (t.waitDest x e w.2.2.1).isNone | none => true) = true) ∧
    (∀ i ∈ waits plain (kk 2), ∃ x t, Issues demo i x t ∧ waitMeets true i x t = true) ∧
    (∀ i ∈ waits plain (kk 6), ∃ x t, Issues demo i x t ∧ waitMeets false i x t = true) := by
  refine ⟨fun i hi => ?_, fun i hi => ?_, fun i hi => ?_⟩
  · exact issuesAnd_met (List.all_eq_true.mp (show (waits never (kk 2)).all (fun i => issuesAnd demo i fun x t =>
      x.lanes == 0 && (waitShape i).all fun w => match w.2.1 with | some e => (t.waitDest x e w.2.2.1).isNone | none => true) = true by
        decide +kernel) i hi)
  · exact issuesAnd_met (List.all_eq_true.mp (show (waits plain (kk 2)).all (fun i => issuesAnd demo i (waitMeets true i)) = true by decide +kernel) i hi)
  · exact issuesAnd_met (List.all_eq_true.mp (show (waits plain (kk 6)).all (fun i => issuesAnd demo i (waitMeets false i)) = true by decide +kernel) i hi)

/-- The instructions that ask the home of an object at `a`, with its field, alignment and access. -/
def asking (c : Ctl) (a : Opnd) : List (Instr × (Issue → State → Nat) × Nat × Need × BitVec 3) :=
  [(.fsetFuture c .z32 0 a (dd 6) (ii 0), (fun x t => t.objectAddr x 2), 16, .both, 4), (.ftest c (dd 5) a (ii 0), (fun x t => t.objectAddr x 1), 16, .read, 4),
   (.unlock c a (ii 0), (fun x t => t.objectAddr x 1), 16, .both, 4), (.depdec c a, (fun x t => (t.srcLow x 0).toNat), 64, .both, 4),
   (.spawn c (dd 6) a (ii 10), (fun x t => (t.srcLow x 0).toNat), 256, .read, 2), (.launch c a, (fun x t => (t.srcLow x 0).toNat), 256, .read, 2)]

theorem test_asking_met :
    (∀ e ∈ asking never (kk 2), ∃ x t, Issues demo e.1 x t ∧ (x.lanes == 0) = true) ∧
    (∀ e ∈ asking plain (kk 2), ∃ x t, Issues demo e.1 x t ∧ objectOk x t (e.2.1 x t) e.2.2.1 e.2.2.2.1 e.2.2.2.2 = true) ∧
    (∀ e ∈ asking plain (kk 6), ∃ x t, Issues demo e.1 x t ∧ objectBad x t (e.2.1 x t) e.2.2.1 e.2.2.2.1 e.2.2.2.2 = true) := by
  refine ⟨fun i hi => ?_, fun i hi => ?_, fun i hi => ?_⟩
  · exact issuesAnd_met (List.all_eq_true.mp (show (asking never (kk 2)).all (fun e => issuesAnd demo e.1 fun x _ => x.lanes == 0) = true by
      decide +kernel) i hi)
  · exact issuesAnd_met (List.all_eq_true.mp (show (asking plain (kk 2)).all (fun e => issuesAnd demo e.1 fun x t =>
      objectOk x t (e.2.1 x t) e.2.2.1 e.2.2.2.1 e.2.2.2.2) = true by decide +kernel) i hi)
  · exact issuesAnd_met (List.all_eq_true.mp (show (asking plain (kk 6)).all (fun e => issuesAnd demo e.1 fun x t =>
      objectBad x t (e.2.1 x t) e.2.2.1 e.2.2.2.1 e.2.2.2.2) = true by decide +kernel) i hi)

theorem test_tasks_met :
    (∃ x t, Issues demo (.spawn plain (dd 6) (kk 2) (ii 11)) x t ∧ (objectOk x t (t.srcLow x 0).toNat 256 .read 2 &&
      decide (10 < (w32 (t.srcLow x 1)).toNat)) = true) ∧
    (∃ x t, Issues demo (Instr.core (.tdoneCompact ⟨0, 15, false⟩)) x t ∧ (x.lanes != 0 && (t.teamOf x.g).any fun m =>
      match t.xlateWalk m.asid m.task .both true with | .ok .. => true | _ => false) = true) ∧
    (∃ x t, Issues demo (.tdone never) x t ∧ (x.lanes == 0) = true) ∧ (∃ x t, Issues demo (Instr.core (.tbarCompact ⟨0, 15, false⟩)) x t) ∧
    (∃ x t, Issues demo (.phend plain 1) x t ∧ (t.phendTrap x 1).isSome = true) ∧
    (∃ x t, Issues demo (.phend plain 0) x t ∧ (t.phendTrap x 0).isNone = true) :=
  ⟨issuesAnd_met (by decide +kernel), issuesAnd_met (by decide +kernel), issuesAnd_met (by decide +kernel), issues_met (by decide +kernel),
    issuesAnd_met (by decide +kernel), issuesAnd_met (by decide +kernel)⟩

theorem test_tether_idle_met : ∀ i ∈ [Instr.put never (kk 14) (kk 0) (kk 16) (kk 4), .get never (kk 14) (kk 0) (kk 16) (kk 4),
    .ratom never .s32 .add (dd 5) (kk 14) (dd 6) (kk 4), .wstat never true (dd 6) (ii 1), .coll never .allreduce .f32 .sum (kk 0) (kk 4)],
    ∃ x t, Issues demo i x t ∧ (x.lanes == 0) = true := by
  intro i hi
  exact issuesAnd_met (List.all_eq_true.mp (show [Instr.put never (kk 14) (kk 0) (kk 16) (kk 4), .get never (kk 14) (kk 0) (kk 16) (kk 4),
    .ratom never .s32 .add (dd 5) (kk 14) (dd 6) (kk 4), .wstat never true (dd 6) (ii 1), .coll never .allreduce .f32 .sum (kk 0) (kk 4)].all
    (fun i => issuesAnd demo i fun x _ => x.lanes == 0) = true by decide +kernel) i hi)

theorem test_transfer_met : ∀ i ∈ [Instr.put plain (kk 14) (kk 0) (kk 16) (kk 4), .get plain (kk 14) (kk 0) (kk 16) (kk 4)],
    ∃ x t, Issues demo i x t ∧ (x.lanes != 0 && (t.targetCheck x (w32 (t.srcLow x 3)) (t.srcLow x 0).toNat).isNone &&
      (w32 (t.srcLow x 2)).toNat == 16 && (t.srcLow x 1).toNat == 0x60000 && (t.srcLow x 0).toNat == 0x1000) = true := by
  intro i hi
  exact issuesAnd_met (List.all_eq_true.mp (show [Instr.put plain (kk 14) (kk 0) (kk 16) (kk 4), .get plain (kk 14) (kk 0) (kk 16) (kk 4)].all
    (fun i => issuesAnd demo i fun x t => x.lanes != 0 && (t.targetCheck x (w32 (t.srcLow x 3)) (t.srcLow x 0).toNat).isNone &&
      (w32 (t.srcLow x 2)).toNat == 16 && (t.srcLow x 1).toNat == 0x60000 && (t.srcLow x 0).toNat == 0x1000) = true by decide +kernel) i hi)

theorem test_remote_atomic_met :
    (∃ x t, Issues demo (.ratom plain .s32 .add (dd 5) (kk 14) (dd 6) (kk 4)) x t ∧
      (x.lanes != 0 && (t.targetCheck x (w32 (t.srcLow x 2)) (t.srcLow x 0).toNat).isNone && (t.srcLow x 0).toNat % 4 == 0) = true) ∧
    (∃ x t, Issues demo (.ratom plain .s64 .cas (dd 6) (kk 14) (dd 6) (kk 4)) x t ∧
      (x.lanes != 0 && (t.targetCheck x (w32 (t.srcLow x 3)) (t.srcLow x 1).toNat).isNone && (t.srcLow x 1).toNat % 8 == 0) = true) ∧
    (∀ arrived ∈ [true, false], ∃ x t, Issues demo (.wstat plain arrived (dd 6) (ii 1)) x t ∧ (x.lanes != 0 && (w32 (t.srcLow x 0)).toNat == 1 &&
      (t.window? (t.asidOf x.g) 1).any fun v =>
        match t.xlateWalk (t.asidOf x.g) (v.entry + if arrived then 24 else 16) .read true with | .ok .. => true | _ => false) = true) ∧
    (∃ x t, Issues demo (.coll plain .allgather .s64 .sum (kk 0) (kk 4)) x t ∧ (x.lanes != 0 && w32 (t.srcLow x 1) == 0x00010001 &&
      t.devid.isSome && t.colls.isEmpty && (t.srcLow x 0).toNat == 0x60000 &&
      (match t.window? (t.asidOf x.g) 1, t.collGroup? (t.asidOf x.g) 1 with
       | some w, some k => decide (k.rank < k.count) && w.size % 8 == 0 && w.size / 8 % k.count == 0
       | _, _ => false)) = true) := by
  refine ⟨issuesAnd_met (by decide +kernel), issuesAnd_met (by decide +kernel), fun a ha => ?_, issuesAnd_met (by decide +kernel)⟩
  exact issuesAnd_met (List.all_eq_true.mp (show [true, false].all (fun arrived => issuesAnd demo (.wstat plain arrived (dd 6) (ii 1)) fun x t =>
    x.lanes != 0 && (w32 (t.srcLow x 0)).toNat == 1 && (t.window? (t.asidOf x.g) 1).any fun v =>
      match t.xlateWalk (t.asidOf x.g) (v.entry + if arrived then 24 else 16) .read true with | .ok .. => true | _ => false) = true by
        decide +kernel) a ha)

/-! ## Events of slots and results -/

def atPlace (p : Place) : State := demoWith { demoGroup 16 with place := p }

theorem test_activation_met : (atPlace (.ready 0)).freeSlots 0 0 = [0, 1, 2, 3] ∧
    bestReady (atPlace (.ready 0)) ((atPlace (.ready 0)).readyGroups 0 0) = some { demoGroup 16 with place := .ready 0 } ∧
    (demoGroup 16).deliveries = [] := by decide +kernel

/-- A user's result for N2 in flight, in which UREAD of N2 waits. -/
def nearOp : Op := { demoOp .plain (some (demoDest ⟨.n, 2⟩)) with uid := 49 }

theorem test_user_access_met :
    (∀ v ∈ [(⟨.w, 0⟩ : Opnd), ⟨.n, 2⟩], ∀ j ∈ [Job.uwrite v false, .uread v false],
      (demoOps [demoOp j none]).op? 50 = some (demoOp j none) ∧ (demoOps [demoOp j none]).opDue (demoOp j none) = true ∧ (demoOp j none).raced = [] ∧
        (demoOps [demoOp j none]).group? 4 = some (demoGroup 16) ∧ (demoOps [demoOp j none]).userWriting (demoGroup 16) v false = false) ∧
    (demoOps [nearOp, demoOp (.uread ⟨.n, 2⟩ false) none]).userWriting (demoGroup 16) ⟨.n, 2⟩ false = true := by decide +kernel

theorem test_icache_fill_met : ({ demo with icache := [] } : State).wantedLines.contains (0, 1, 0x405) = true ∧ (demo.context? 1).isSome = true := by
  decide +kernel

theorem test_sleep_wake_met :
    (∀ wake ∈ [100, 101], (demoWith { demoGroup 16 with hold := .sleep 50 wake }).group? 4 = some { demoGroup 16 with hold := .sleep 50 wake }) ∧
    now demo = 100 ∧ (demoGroup 16).request = none ∧
    (demoWith { demoGroup 16 with hold := .sleep 50 900, request := some .energy }).group? 4 =
      some { demoGroup 16 with hold := .sleep 50 900, request := some .energy } := by decide +kernel

theorem test_queue_land_met :
    (∀ uid ∈ [30, 31], let o := demoOp (.push 3 1 uid 0x77) none
      (demoOps [o]).op? 50 = some o ∧ (demoOps [o]).opDue o = true ∧ (demoOps [o]).group? 4 = some (demoGroup 16) ∧ (demoOps [o]).team? 3 = some demoTeam ∧
        ∀ p ∈ (demoOps [o]).ops, p.grp = o.grp → p.uid < o.uid → p.ownScratchStore demoTeam = false) ∧
    (demoTeam.queue 1).position? 30 = some 2 ∧ (demoTeam.queue 1).position? 31 = none ∧
    { accessOp (.store .s32) (.scratch 16) with uid := 49 }.ownScratchStore demoTeam = true := by decide +kernel

/-- The group stands at a QPOP of queue 1, of which it holds position 1. -/
def demoRetire : State :=
  { demo with
    icache := [{ demoLine with words := encode (.qpop plain 1 (dd 1)) ++ List.replicate 13 0 }]
    teams := [(3, { demoTeam with queues := [(1, { demoQueue with held := [(0, 0)], free := 1 })] })] }

theorem test_queue_retire_met : demoRetire.group? 4 = some (demoGroup 16) ∧ demoRetire.retireDue (demoGroup 16) = some 1 ∧
    (demoRetire.team? 3).isSome = true := by decide +kernel

def demoThread (words : List TWord) (done : Nat) (signal : Signal) : Thread :=
  { uid := 51, grp := 4, team := 3, asid := 1, core := 0, pc := 0x10140, priv := false, reel := none, src := .core, dst := .core, words := words
    done := done, signal := signal, failed := false }

theorem test_copy_done_met : ∀ th ∈ [demoThread [⟨16, 32, none⟩] 0 (.count 64), demoThread [] 101 (.count 64), demoThread [] 100 (.count 64),
    demoThread [] 100 (.flag 50)], ({ demo with threads := [th] } : State).thread? 51 = some th := by decide +kernel

theorem test_copy_count : (match exec (.copyTransferDone 51) { demo with threads := [demoThread [] 100 (.count 64)] } with
    | .next u => readNat u.scratch 64 4 == 1 && u.threads == []
    | _ => false) = true := by decide +kernel

/-- A group that stands at its STRAND, a request pending. -/
def askedGroup : Group :=
  { demoGroup 16 with
    bank := { (demoGroup 16).bank with splits := [{ demoSplit 16 with pc := 0x1014C }] }, request := some .energy, leaving := true }

theorem test_save_met : (demoWith askedGroup).group? 4 = some askedGroup ∧ ((demoWith askedGroup).savePoint askedGroup).isSome = true ∧
    (demoWith askedGroup).saveDue askedGroup = true ∧ (demoWith askedGroup).saveRoom askedGroup = true ∧
    ({ demoWith askedGroup with contexts := [(1, { demoContext with saveSize := 0 })] } : State).saveRoom askedGroup = false ∧
    (let bad (s : State) : Bool := (s.saveAreaBad (s.asidOf askedGroup) (s.saveUsed (s.asidOf askedGroup)) (s.saveBytes askedGroup) .write).isSome
     bad (demoWith askedGroup) = false ∧ bad { demoWith askedGroup with contexts := [(1, { demoContext with saveb := 0x8000000000 })] } = true) := by
  decide +kernel

def noticeGroup : Group := { demoGroup 16 with deliveries := [{ demoDelivery with notice := true }] }

theorem test_notice_met : (demoWith noticeGroup).group? 4 = some noticeGroup ∧ noticeGroup.hand = none ∧ noticeGroup.place = .active 0 0 ∧
    noticeGroup.debug ≠ .halted ∧ noticeGroup.hold = .free ∧ noticeGroup.unwinding = none ∧
    (match ((demoWith noticeGroup).touchTable noticeGroup 0x12).trapEntry noticeGroup 0x12 with | .handler _ => true | _ => false) = true := by decide +kernel

def lateGroup : Group := { demoGroup 16 with late := [{ split := 0, pc := 0x10140, recs := [⟨0x15, 2, 0x60000, 1⟩], cb := none, gather := none }] }

theorem test_late_met : (demoWith lateGroup).group? 4 = some lateGroup ∧ lateGroup.hand = none ∧ lateGroup.place = .active 0 0 ∧
    lateGroup.hold = .free ∧ lateGroup.unwinding = none ∧ lateGroup.late.length = 1 := by decide +kernel

def demoBreak : State := { demo with contexts := [(1, { demoContext with debug := true })], breaks := [(0, 0x10140)] }

theorem test_breakpoint_met : demoBreak.group? 4 = some (demoGroup 16) ∧ demoBreak.groupOpen (demoGroup 16) = true ∧
    (demoBreak.splitOrder (demoGroup 16)).find? (demoBreak.breakAt (demoGroup 16)) = some (demoSplit 16) := by decide +kernel

/-! ## Events of memory, waits and tasks -/

theorem test_completions_met :
    (∀ j ∈ [Job.fence .device .full, .fence .team .rel, .range .pin 0x60000 128, .range .icinv 0x60000 128, .answer, .wstat 0x60000 0x60000,
      .reelWait 0 2 9, .almanac 0x70000 0x70000 false 0, .launch 0x40000 1],
      (demoOps [demoOp j none]).op? 50 = some (demoOp j none) ∧ (demoOps [demoOp j none]).group? 4 = some (demoGroup 16) ∧ (demoGroup 16).uid = 4 ∧
        (demoOps [demoOp j none]).opDue (demoOp j none) = true ∧ (demoOps [demoOp j none]).mayAttempt (demoOp j none) 0x60000 8 = true) ∧
    (demoOps []).releaseMet (demoGroup 16) 50 .device = true ∧ demo.releaseMet { demoGroup 16 with horizon := 101 } 50 .device = false ∧
    (demoSlice demoReel).reelOver 0 2 9 = false ∧ (demoSlice demoReel).reelOver 0 2 8 = true ∧ (demoOps []).thread? 50 = none := by decide +kernel

theorem test_home_free_met : (demo.maintAt (demo.homeColumn 0x60000)).isNone = true ∧ demo.poisoned (.glob 0x60000) 8 = false ∧ demo.partials = [] ∧
    ({ demo with poisonLines := [0x60000 / 128] } : State).poisoned (.glob 0x60000) 8 = true := by decide +kernel

/-- LOCK's first attempt at the free cell of 0x70000 is met. -/
def lockOp : Op := { demoOp (.attempt .lock 0x70000 0x70000 false 0 0) none with instr := .lock plain (kk 2) (ii 0), due := none }

theorem test_first_attempt_met :
    (demoOps [lockOp]).team? 3 = some demoTeam ∧ (lockOp.wait? demoTeam).isSome = true ∧ (demoOps [lockOp]).mayAttempt lockOp 0x70000 16 = true ∧
      (match lockOp.wait? demoTeam with
       | some w =>
         (match (demoOps [lockOp]).tryWait w with
          | .met m _ _ => m.group? 4 == some (demoGroup 16) && m.clkOf 0 == demo.clkOf 0 && now m == 100
          | _ => false)
       | none => false) = true := by decide +kernel

/-- The repair of column 3, which holds one request. -/
def demoMaint (ev : Instr) : Maint := { column := 3, repair := true, since := 0, arrived := [ev] }

theorem test_held_attempt_met : ∀ uid ∈ [50, 49],
    let s : State := { demoOps [lockOp] with homes := [(0x70, 3)], maint := [demoMaint (.firstAttemptAnswer uid)] }
    s.team? 3 = some demoTeam ∧ s.mayAttempt lockOp 0x70000 16 = true ∧
      (lockOp.wait? demoTeam).any (fun w => s.maintFor (s.waitPlaces w) == some (demoMaint (.firstAttemptAnswer uid))) = true ∧
      (demoMaint (.firstAttemptAnswer uid)).arrived.contains (.firstAttemptAnswer 50) = (uid == 50) := by decide +kernel

def demoLease (expiry : Nat) : Copy := { core := 0, line := 0xC00, bytes := [], grant := 0, expiry := expiry, used := 0 }

theorem test_lease_met : ∀ e ∈ [100, 101], (({ demo with copies := [demoLease e] } : State).copies.find? fun c => c.core == 0 && c.line == 0xC00) =
    some (demoLease e) := by decide +kernel

/-- The last line of DRAM, the last word of the last core and that of the last column's pool. -/
theorem test_soft_error_met : dramSize / 128 - 1 < dramSize / 128 ∧ 255 < 256 ∧ 2 ^ 17 - 1 < 2 ^ 17 ∧ 2 ^ 21 - 1 < 2 ^ 21 := by decide

theorem test_migration_met :
    let s : State := { demo with homes := [(0x60, 3)], tlb := [{ core := 0, asid := 1, vpage := 6, leaf := 0x287, base := 0x60000, bits := 16 }] }
    s.migratable 0x60 = true ∧ s.migratable 0x6F = true ∧ s.homeColumn (0x60 * 4096) ≠ 255 ∧ (255 : Nat) < 256 ∧ s.maintAt 255 = none ∧
      s.maintAt (s.homeColumn (0x60 * 4096)) = none ∧ (({ s with maint := [demoMaint .hash] } : State).maintAt 3).isSome = true := by decide +kernel

theorem test_watch_met : (∃ w ∈ ({ demo with watch := [(0xE00, 5, [])] } : State).watch, w.1 = 0xE00) ∧ (∀ w ∈ demo.watch, w.1 ≠ 0xE00) ∧
    demo.partials = [] ∧ (∀ v ∈ demo.vigil, v.pa / 128 ≠ 0xE00) := by decide +kernel

def demoVigil (since retry : Nat) : Vigil :=
  { stack := 0, overflow := none, asid := 1, addr := 0x70000, pa := 0x70000, task := 0x40000, group := 0, grp := 4, op := .chpush, wide := false
    value := 0, dest := .null, lanes := 1, set := 15, pc := 0x10140, age := 0, owner := 0, adopted := 0, since := since, retry := retry }

/-- With no maintenance under way none holds anything. -/
theorem test_none_holds : demo.maint = [] ∧ ∀ (s : State) (places : List Nat), s.maint = [] → s.maintFor places = none := by
  refine ⟨rfl, fun s places h => ?_⟩
  simp [State.maintFor, h]

/-- The context's channel delay is 20 us. -/
theorem test_channel_delay_met : demo.context? 1 = some demoContext ∧ (demoVigil 0 0).chunkDue 20000 (demoContext.chdly.toNat * 1000) = true ∧
    19999 < (demoVigil 0 0).since + demoContext.chdly.toNat * 1000 ∧ (∀ v ∈ demo.vigil, v.asid = 1 → v.addr = 0x70000 →
      now demo < v.since + demoContext.chdly.toNat * 1000) ∧
    (let s : State := { demo with time := 660000, vigil := [demoVigil 0 0] }
     s.vigil.find? (fun v => v.asid == 1 && v.addr == 0x70000 && v.chunkDue (now s) (demoContext.chdly.toNat * 1000)) = some (demoVigil 0 0)) := by
  decide +kernel

theorem test_chunk_retry_met : (∀ o ∈ demo.ops, o.chunkRetry = 0) ∧
    (({ demo with vigil := [demoVigil 0 100] } : State).vigil.find? fun v => v.asid == 1 && v.retry != 0 && decide (v.retry ≤ now demo)) =
      some (demoVigil 0 100) ∧
    (∀ v ∈ ({ demo with vigil := [demoVigil 0 101] } : State).vigil, v.asid = 1 → v.retry = 0 ∨ now demo < v.retry) := by decide +kernel

def atBarrier (phend : Bool) : State := demoWith { demoGroup 16 with place := .waiting, barrier := some (phend, 0) }

theorem test_barriers_met : (atBarrier false).barrierOver 3 = true ∧ demo.barrierOver 3 = false ∧ (atBarrier true).phaseOver 3 = true ∧
    demo.phaseOver 3 = false ∧ (atBarrier true).team? 3 = some demoTeam ∧
    (atBarrier false).group? 4 = some { demoGroup 16 with place := .waiting, barrier := some (false, 0) } := by decide +kernel

theorem test_phase_end_met : (∀ e ∈ (atBarrier true).groups, e.2.team = 3 → ∀ o ∈ (atBarrier true).ops, o.grp ≠ e.1) ∧
    ∀ h ∈ (atBarrier true).threads, h.team ≠ 3 := by decide +kernel

def demoCtx (c : Context) : State := { demo with contexts := [(1, c)] }

theorem test_submission_met : demoContext.asid = 1 ∧ demo.context? 1 = some demoContext ∧ demoContext.sqHead = demoContext.sqTail ∧
    (demoCtx { demoContext with sqTail := 1 }).context? 1 = some { demoContext with sqTail := 1 } ∧ demoContext.sqStop = false := by decide +kernel

/-- TAIL writes of 16, all of the ring of 16, of 17, which is beyond it, and of a TAIL that goes back. -/
theorem test_doorbells_met :
    (∀ tail ∈ [(16 : Word), 17, 0], ∃ due rest,
      ({ demoCtx { demoContext with sqTail := 4 } with doorbells := [(1, 0, tail, some 100)] } : State).doorbells = (1, 0, tail, some due) :: rest ∧
        due ≤ now demo) ∧
    (∃ due rest, ({ demo with doorbells := [(1, 8, 1, some 100)] } : State).doorbells = (1, 8, 1, some due) :: rest ∧ due ≤ now demo) ∧
    (∃ off v rest, ({ demo with doorbells := [(1, 8, 1, none)] } : State).doorbells = (1, off, v, none) :: rest) ∧
    ((16 : Word) - 0).toNat ≤ 2 ^ demoContext.sqLog ∧ ¬((17 : Word) - 0).toNat ≤ 2 ^ demoContext.sqLog ∧ ¬((4 : Word) - 0).toNat ≤ ((0 : Word) - 0).toNat :=
  ⟨by intro t h; exact ⟨100, [], rfl, by decide +kernel⟩, ⟨100, [], rfl, by decide +kernel⟩, ⟨8, 1, [], rfl⟩, by decide, by decide, by decide⟩

theorem test_deadline_met :
    let s := { demoHand with contexts := [(1, { demoContext with op := .switching 100 7 [] })] }
    s.context? 1 = some { demoContext with op := .switching 100 7 [] } ∧ now s = 100 ∧
      ∃ e ∈ s.groups, s.asidOf e.2 = 1 ∧ (s.teamOf e.2).isSome = true ∧ e.2.place ≠ .ended ∧ e.2.hand.isSome = true := by decide +kernel

/-- A task of team 0 that is ready, and nothing resident. -/
def readyTask (level since : Nat) : ReadyEntry := { stack := 0, level := level, asid := 1, task := 0x40000, since := since }

def demoReady (e : ReadyEntry) : State :=
  { demo with teams := [], groups := [], cur := .none, ready := [e], dram := writeNat demoMem 0x40000 8 stReady }

theorem test_task_pull_met : (demoReady (readyTask 5 0)).nextTask 0 = some (taskKey 1 0x40000, some 0) ∧ 0 / 32 = 0 ∧
    taskKey 1 0x40000 / 2 ^ 56 = 1 ∧ taskKey 1 0x40000 % 2 ^ 56 = 0x40000 ∧ ((demoReady (readyTask 5 0)).startable 0 1 0x40000).isSome = true := by
  decide +kernel

theorem test_aging_met : ∀ e ∈ [readyTask 9 0, readyTask 10 0, readyTask 5 2000000],
    (({ demoReady e with time := 33 * 1000000 } : State).ready.find? fun e => e.stack == 0 && taskKey e.asid e.task == taskKey 1 0x40000) = some e ∧
      now { demoReady e with time := 33 * 1000000 } = 1000000 := by decide +kernel

/-! ## Events of the device and the host -/

/-- A frame of a kind from device 2 to this one. -/
def demoFrameTo (kind : BitVec 8) : Frame :=
  { kind := kind, ver := 0, src := 2, dst := 1, window := 1, cgroup := 9, seq := 50, srank := 0, count := 2, fmt := 0, red := 0, op := 0, level := 0
    elem := 0, nelem := 1, extra := 16, payload := [0x3F800000] }

theorem test_tick_met : demo.stopped = false ∧ now demo < demo.lastTick + 100000 ∧
    ({ demo with time := 3300000 } : State).lastTick + 100000 ≤ now { demo with time := 3300000 } ∧ (∀ m ∈ demo.meters, m.asid ≠ demoContext.asid) := by
  decide +kernel

/-- One column's retraining, one column's repair, and none under way. -/
theorem test_maintenance_met : demo.maint = [] ∧ demo.stage = 7 ∧ ({ demo with maint := [demoMaint .hash] } : State).maint = [demoMaint .hash] ∧
    (demoMaint .hash).repair = true ∧ (demoMaint .hash).column = 3 ∧ { demoMaint .hash with repair := false }.repair = false ∧ (255 : Nat) < 256 := by decide

/-- A store to 0x60000, whose home is column 3, and a message from the Tether to window 1, which stands there: where column 3 is maintained they wait. -/
theorem test_home_events_met : let s : State := { accessState (.store .s32) (.glob 0x60000) with homes := [(0x30, 1), (0x60, 3), (0x100, 1), (0x200, 1)], maint := [demoMaint .hash] }
    let f := demoFrameTo 5
    s.maintFor (s.requestPlaces 50 0) = some (demoMaint .hash) ∧
      s.maintFor (s.windowPlaces f.window.toNat f.extra.toNat 4) = some (demoMaint .hash) ∧ goesOn (faddNow f s) = true ∧
      (demoMaint .hash).arrived.contains (.accessPerform 50 0) = false ∧ (demoMaint .hash).arrived.contains .hash = true := by decide +kernel

/-- The store waits, held by the action. -/
theorem test_store_held : (match exec (.accessPerform 50 0)
      { accessState (.store .s32) (.glob 0x60000) with homes := [(0x60, 3)], maint := [demoMaint .hash] } with
    | .next u => u.dram == demoMem && u.maint.map (·.arrived) == [[.hash, .accessPerform 50 0]]
    | _ => false) = true := by decide +kernel

theorem test_clock_bounds : (1 : Nat) ≤ 1 ∧ 3300 ≤ 3300 ∧ 3300 < 3301 ∧ (255 : Nat) < 256 ∧ 256 ≤ 256 := by decide

/-- The retraining of column 3's channels ends with the request that it has held performed next. -/
theorem test_retrain_ends : (match exec (.channelRetrain 2) { demo with maint := [{ demoMaint (.accessPerform 50 0) with repair := false }] } with
    | .next u => u.maint == [] && u.agenda == [.accessPerform 50 0]
    | _ => false) = true := by decide +kernel

/-- The account's balance after a tick: 1000 and a tenth of a rate of 50, under a ceiling of 2. -/
theorem test_tick_balance : (match exec .accountTick
      { demoCtx { demoContext with bal := 1996, rate := 50, ceil := 2, next := none } with time := 3300000, launches := [] } with
    | .next u => ((u.context? 1).map fun c => c.bal) == some 2000
    | _ => false) = true := by decide +kernel

theorem test_boot_stages_met : ∀ n ∈ [(0 : BitVec 4), 1, 2, 3, 4, 5, 6, 7],
    ({ State.reset with stage := n } : State).stopped = false ∧ ({ State.reset with stage := n } : State).stage = n := by decide

theorem test_boot_waits_cold : (0xFF : BitVec 8).toInt < 0 ∧ ¬(0 : BitVec 8).toInt < 0 ∧ ({ demo with stopped := true } : State).stopped = true := by
  decide

/-- Whether an image verifies is a free value: one of the two clauses holds of each image. -/
theorem test_image_cases (image : List Byte) : Config.imageVerifies image = true ∨ Config.imageVerifies image = false := by
  cases Config.imageVerifies image <;> simp

/-- Host window 1: 16 pages of DRAM at 0x60000, read and written. -/
def demoHost : State := { demo with hostWins := [(4, 0x60000), (6, 16), (7, 0x18000)] }

theorem test_host_write_met : demoHost.stopped = false ∧ demoHost.stage = 7 ∧ demoHost.windowAddrs 1 0xFFFC 1 true = some [0x6FFFC] ∧
    demoHost.windowAddrs 1 0x10000 1 true = none ∧ demoHost.windowAddrs 2 0 1 false = none ∧ demoHost.partials = [] ∧
    (2 : BitVec 48).toNat % 4 ≠ 0 ∧ 64 < (List.replicate 65 (0 : Word)).length ∧ State.reset.stage ≠ 7 ∧ State.reset.stage ≠ 4 ∧
    (132 : BitVec 48).toNat < 136 ∧ (0x4001000 : BitVec 48).toNat = 0x4000000 + 0x1000 * 1 ∧ (demoHost.context? 1).isSome = true ∧
    64 < (65 : BitVec 10).toNat ∧ demoHost.hostMaint 1 0xFFFC 1 [0x6FFFC] = none ∧ (demoHost.hostWin 1 3).testBit 14 = false ∧
    (let s : State := { demoHost with homes := [(0x6F, 3)], maint := [demoMaint .hash] }
     s.windowAddrs 1 0xFFFC 1 true = some [0x6FFFC] ∧ s.hostMaint 1 0xFFFC 1 [0x6FFFC] = some (demoMaint .hash)) ∧ demoHost.hostHeld = false ∧
    ({ demoHost with maint := [demoMaint (.hostWrite 1 0xFFFC [1])] } : State).hostHeld = true := by decide +kernel

theorem test_host_write : (match exec (.hostWrite 1 0xFFFC [0x11223344]) demoHost with
    | .next u => readNat u.dram 0x6FFFC 4 == 0x11223344
    | _ => false) = true := by decide +kernel

theorem test_register_write_met : ∀ win ∈ [1, 63], ∀ w ∈ [0, 3], demoHost.stopped = false ∧ demoHost.stage = 7 ∧ 1 ≤ win ∧ win < 64 ∧ w < 4 := by decide

/-! ## The mailboxes -/

/-- Firmware request `code` for context 1, SEQ 5, with two arguments. -/
def demoRequest (code a0 a1 : Nat) : State :=
  { demo with fwRequest := [(0, BitVec.ofNat 32 (0x80000500 + code)), (1, 1), (2, BitVec.ofNat 32 a0), (4, BitVec.ofNat 32 a1)] }

/-- The small device with a level 1 leaf at 0x200008, not valid, of a page that is reserved or moved: bits 15 and 14 are 0 1 or 1 0. -/
def demoUnmapped (res : Nat) : State := { demo with dram := writeNat demoMem 0x200008 8 (0x206 + res * 2 ^ 14 + 0x40000000) }

def fwEventsOf : List (Instr × Nat) :=
  [(.ctxCreate, 1), (.ctxTeardown, 2), (.ctxSwitch, 3), (.ctxResume, 4), (.energySet, 5), (.capRaise, 6), (.shootdown, 7), (.hash, 8), (.attest, 9),
   (.faultLog, 10), (.routeSet, 11), (.routeLock, 12), (.migrateAnswer, 13), (.splitSet, 14)]

theorem test_firmware_met : ∀ e ∈ fwEventsOf, firmwareCommand e.1 = some e.2 ∧ reqCmd (demoRequest e.2 31 8).fwRequest = e.2 ∧
    (demoRequest e.2 31 8).fwReady = true ∧ ({ demoRequest e.2 31 8 with stage := 6 } : State).fwReady = false ∧
    reqClean (demoRequest e.2 31 8).fwRequest = true ∧ reqClean (cellSet (demoRequest e.2 31 8).fwRequest 1 0x4000) = false ∧
    reqAsid (demoRequest e.2 31 8).fwRequest = 1 ∧ reqArg (demoRequest e.2 31 8).fwRequest 0 = 31 ∧ reqArg (demoRequest e.2 31 8).fwRequest 1 = 8 ∧
    ({ demoRequest e.2 31 8 with contexts := [] } : State).context? 1 = none := by decide +kernel

theorem test_firmware_context_met : (demoRequest 5 31 8).context? 1 = some demoContext ∧ demoContext.asid = 1 ∧ demoContext.op = .none ∧
    ({ demoRequest 11 0 0 with routeLocked := true } : State).routeLocked = true := by decide +kernel

/-- A request waits while column 3, which a FAULT_LOG's buffer reaches, is maintained. -/
theorem test_firmware_held_met : let s : State := { demoRequest 10 0x60000 1 with homes := [(0x60, 3)], maint := [demoMaint .hash] }
    s.fwReady = true ∧ s.maintFor s.fwPlaces = some (demoMaint .hash) ∧ (demoRequest 10 0x60000 1).maintFor (demoRequest 10 0x60000 1).fwPlaces = none := by
  decide +kernel

/-- A context descriptor at 0x80000, of a ring of 2 ^ `log` records and a pool of `n` tasks. -/
def demoDesc (log n : Nat) : State :=
  let s := demoRequest 1 0x80000 0
  { s with dram := [(0x80000, 8, 1), (0x80010, 8, log), (0x80020, 8, 0x900000), (0x80028, 8, n)].foldl (fun m (e : Nat × Nat × Nat) => writeNat m e.1 e.2.1 e.2.2) s.dram }

theorem test_create_met : ∀ e ∈ [(4, 0, true), (4, 3, true), (17, 0, false)], let s := demoDesc e.1 e.2.1
    let d : BitVec 2048 := BitVec.ofNat 2048 (leValue (readBytes s.dram (reqArg s.fwRequest 0) 256))
    reqCmd s.fwRequest = 1 ∧ reqArg s.fwRequest 0 % 256 = 0 ∧ reqArg s.fwRequest 0 + 256 ≤ dramSize ∧ s.cleanRange (reqArg s.fwRequest 0) 256 = true ∧
      s.contexts.length < 16384 ∧ s.partials = [] ∧ ctxDescOk d = e.2.2 ∧ fldN d 320 16 = e.2.1 := by decide +kernel

/-- A route table at 0x80000, whose entry 3 is `e`, for device `own`. -/
def demoRoutes (own e : Nat) : State :=
  let s := demoRequest 11 0x80000 own
  { s with dram := writeNat (writeNat s.dram 0x80004 4 5) 0x8000C 4 e }

theorem test_routes_met : ∀ e ∈ [(2, 7), (3, 7), (2, 2 ^ 24)], let s := demoRoutes e.1 e.2
    let entry (k : Nat) : Nat := readNat s.dram (reqArg s.fwRequest 0 + 4 * k) 4
    s.routeLocked = false ∧ reqArg s.fwRequest 1 < 1024 ∧ reqArg s.fwRequest 0 + 4096 ≤ dramSize ∧ s.cleanRange (reqArg s.fwRequest 0) 4096 = true ∧
      s.partials = [] ∧ (entry (reqArg s.fwRequest 1) = 0 ↔ e.1 = 2) ∧ (entry 3 < 2 ^ 24 ↔ e.2 = 7) := by decide +kernel

theorem test_route_cells : ((demoRoutes 2 7).dram.filter fun e => decide (0x80000 ≤ e.1) && decide (e.1 < 0x81000)) = [(0x80004, 5), (0x8000C, 7)] := by
  decide +kernel

/-- Every entry of the first table is a legal one: in the table's bytes only two cells hold a number, 5 and 7, each in an entry's low byte. -/
theorem test_route_entries_met (k : Nat) (h : k < 1024) : readNat (demoRoutes 2 7).dram (0x80000 + 4 * k) 4 < 2 ^ 24 := by
  have top : cellGet (demoRoutes 2 7).dram (0x80000 + 4 * k + 1 + 1 + 1) = 0 := by
    have f := cellGet_filter (fun a => decide (0x80000 ≤ a) && decide (a < 0x81000)) (demoRoutes 2 7).dram (0x80000 + 4 * k + 1 + 1 + 1)
    rw [test_route_cells, if_pos (by simp; omega)] at f
    rw [← f]
    simp only [cellGet]
    rw [if_neg (by omega), if_neg (by omega)]
  simp only [readNat, readBytes, leValue, top]
  simp
  omega

theorem test_buffers_met : (∀ c, demo.capList = some c → 0x80000 + 512 ≤ c ∨ c + 136 ≤ 0x80000) ∧ reqArg (demoRequest 9 0x80000 0).fwRequest 0 + 512 ≤ dramSize := by
  refine ⟨fun c h => ?_, by decide +kernel⟩
  cases h

/-- A context that a switch is taking out, one that is switched out, and one that is not. -/
theorem test_switching_met : ∀ op ∈ [CtxOp.switching 5 6 [7], .switched, .none], ∀ code ∈ [2, 3, 4, 5, 6, 7, 10, 13],
    let s : State := { demoRequest code 0 0 with contexts := [(1, { demoContext with op := op, order := [(0, 3, 0x40000)] })] }
    s.context? (reqAsid s.fwRequest) = some { demoContext with op := op, order := [(0, 3, 0x40000)] } ∧ reqCmd s.fwRequest = code ∧ s.saved = [] ∧ s.fwReady = true := by
  decide +kernel

/-- A CAP_RAISE of a launch that has used 6000: to 6, 5 and no cap, and of no launch. -/
def demoCap (desc cap : Nat) : State := { demoRequest 6 desc cap with launches := [(2, { demoLaunch 16 with used := 6000, ecap := 1, capped := true })] }

theorem test_cap_met : ∀ e ∈ [(6, true), (5, false), (0, true)], let s := demoCap 0x40000 e.1
    let live (a : Nat) := (s.launches.map (·.2)).filter fun l => l.asid == 1 && !l.complete && !l.spawned && l.desc == a
    (live 0x40000).getLast? = some { demoLaunch 16 with used := 6000, ecap := 1, capped := true } ∧ live 0x40040 = [] ∧ reqArg s.fwRequest 0 = 0x40000 ∧
      reqArg s.fwRequest 1 = e.1 ∧ (reqArg s.fwRequest 1 < 2 ^ 32 ∧ (e.1 = 0 ∨ 6000 ≤ e.1 * 1000) ↔ e.2 = true) := by decide +kernel

theorem test_cap_raise : (match exec .capRaise (demoCap 0x40000 6) with
    | .next u => (u.launch? 2).map (fun l => (l.ecap, l.capped)) == some (6, true)
    | _ => false) = true := by decide +kernel

/-- The page at 0x60000 is shot down, and the one after it is not. -/
theorem test_shootdown : (match exec .shootdown { demoRequest 7 0x60000 0x10000 with
      tlb := [⟨0, 1, 6, 0x287, 0x60000, 16⟩, ⟨0, 1, 7, 0x287, 0x70000, 16⟩] } with
    | .next u => u.tlb.map (·.vpage) == [7] && u.icache.length == 1
    | _ => false) = true := by decide +kernel

/-- Two of three records go to the buffer; the third stays, and LOST is told and cleared. -/
theorem test_fault_log : let e (n : Nat) : FRec := almanacRecord 0x12 n 0
    (match exec .faultLog { demoRequest 10 0x80000 2 with contexts := [(1, { demoContext with log := [e 5, e 6, e 7], lost := true })] } with
     | .next u => readNat u.dram 0x80020 4 == ((e 6).words.getD 0 0).toNat && (u.context? 1).map (fun c => (c.log, c.lost)) == some ([e 7], false) &&
       u.fwReplies == [fwMessage 10 5 0 1 0 2 1]
     | _ => false) = true := by decide +kernel

/-- A MAPREQ of the handler's group that waits for the host, with tag 9, for a page of 1 GiB; the host's answer names a frame. -/
def demoMigrate (frame : Nat) : State :=
  { demoRequest 13 9 frame with
    dram := (demoUnmapped 2).dram, groups := [(4, handGroup)], ops := [{ demoOp (.mapreq 0x40000000 true true) none with hand := true, due := none }]
    migrates := [{ tag := some 9, op := 50, asid := 1, va := 0x40000000, size := 30 }] }

theorem test_migrate_met : ∀ frame ∈ [0, 0x80000000], let s := demoMigrate frame
    s.migrates.find? (fun m => m.asid == 1 && m.tag == some (reqArg s.fwRequest 0)) = some { tag := some 9, op := 50, asid := 1, va := 0x40000000, size := 30 } ∧
      reqArg s.fwRequest 1 = frame ∧ frame % 2 ^ 30 = 0 ∧ frame + 2 ^ 30 ≤ dramSize ∧ (s.op? 50).isSome = true ∧ s.group? 4 = some handGroup ∧
      ((s.recallWalk 1 0x40000000).leafOf 1 0x40000000).any (fun e => e.1 == 0x200008 && !e.2.2.getLsbD 0 && levelBits e.2.1 == 30 &&
        leafOk e.2.1 (validLeaf e.2.2 0x80000000)) = true := by decide +kernel

theorem test_migrate_answer : (match exec .migrateAnswer (demoMigrate 0x80000000) with
    | .next u => (u.group? 4).map (·.mapstat) == some 0 && readNat u.dram 0x200008 8 == 0x80000207 && u.migrates == []
    | _ => false) = true := by decide +kernel

theorem test_split_change_met : (({ demo with splitWanted := [(3, 4, 5)] } : State).splitWanted.find? fun w => w.1 == 3) = some (3, 4, 5) ∧
    demo.clusterUsed 3 = false ∧ demo.clusterUsed 0 = true := by decide +kernel

theorem test_mapreq_met : ∀ va ∈ [0x60000, 0x40000000], let o := { demoOp (.mapreq va false false) none with hand := true, due := none }
    let s := { demoHand with ops := [o] }
    s.op? 50 = some o ∧ s.group? 4 = some handGroup ∧ s.mapBehind 50 (s.asidOf handGroup) va = false := by decide +kernel

theorem test_mapreq_leaf_met : (demoHand.recallWalk 1 0x8000000000).leafOf 1 0x8000000000 = none ∧
    ((demoHand.recallWalk 1 0x60000).leafOf 1 0x60000).any (fun e => e.2.2.getLsbD 0) = true := by decide +kernel

/-- A MAPREQ posted by a group that has ended. -/
theorem test_posted_met : let m : MapReq := { op := 50, asid := 1, va := 0x40000000, migrate := false }
    let s := { demoUnmapped 1 with posted := [m] }
    s.op? m.op = none ∧ s.posted.find? (fun x => x.op == m.op) = some m ∧ s.mapBehind m.op m.asid m.va = false ∧
      ((s.recallWalk m.asid m.va).leafOf m.asid m.va).any (fun e => !e.2.2.getLsbD 0 && fieldN e.2.2 14 2 == 1 &&
        leafOk e.2.1 (validLeaf e.2.2 (fieldN e.2.2 16 32 * 2 ^ 16))) = true := by decide +kernel

theorem test_firmware_event_met : ({ demo with fwEvents := [[1, 2]] } : State).fwEvents = (1 :: [2]) :: [] ∧ demo.stage = 7 ∧ demo.stopped = false ∧
    slotOwned demo.fwEvent = false ∧ slotOwned [(0, 0x80000000)] = true := by decide

/-- Lantern request `code` for group 0 of the task at 0x40000, in a context with debugging. -/
def demoLantern (code : Nat) (g : Group) (waiting : Option LanternWait) : State :=
  { demoWith g with
    contexts := [(1, { demoContext with debug := true })]
    lantern := [(0, { request := [(0, BitVec.ofNat 32 (0x80000500 + code)), (1, 1), (2, 0x40000)], reply := [], events := [], pending := []
                      replies := [], waiting := waiting })] }

def haltedGroup : Group := { demoGroup 16 with debug := .halted }

theorem test_lantern_met :
    (∀ e ∈ [(Instr.haltCmd 0, 1), (.readCmd 0, 2), (.writeCmd 0, 3), (.stepCmd 0, 4), (.breakCmd 0, 5), (.resumeCmd 0, 6), (.splitsCmd 0, 7)],
      lanternCommand e.1 = some (0, e.2) ∧ slotOwned ((demoLantern e.2 (demoGroup 16) none).lanternAt 0).request = true ∧
        reqCmd ((demoLantern e.2 (demoGroup 16) none).lanternAt 0).request = e.2 ∧ ((demoLantern e.2 (demoGroup 16) none).lanternAt 0).replies = [] ∧
        (demoLantern e.2 (demoGroup 16) none).lanternTarget? 0 ((demoLantern e.2 (demoGroup 16) none).lanternAt 0).request = some (demoGroup 16) ∧
        (demoLantern e.2 haltedGroup none).lanternTarget? 0 ((demoLantern e.2 haltedGroup none).lanternAt 0).request = some haltedGroup ∧
        ({ demoLantern e.2 haltedGroup none with groups := [] } : State).lanternTarget? 0 ((demoLantern e.2 haltedGroup none).lanternAt 0).request = none) ∧
    (demoGroup 16).slot?.isSome = true ∧ (demoGroup 16).debug ≠ .halted ∧
    ((demoLantern 1 (demoGroup 16) (some ⟨[], 4, .halt⟩)).lanternAt 0).waiting.isSome = true := by decide +kernel

/-- A READ of S20 of a halted group, of split 0. -/
theorem test_lantern_read_met : let s := demoLantern 2 haltedGroup none
    let r := cellSet (s.lanternAt 0).request 4 ((ss 20).bits.setWidth 32)
    let q := { s with lantern := [(0, { (s.lanternAt 0) with request := r })] }
    q.lanternTarget? 0 r = some haltedGroup ∧ (q.lanternReads r haltedGroup).isSome = true ∧ haltedGroup.hand = none ∧ haltedGroup.debug = .halted := by decide +kernel

theorem test_lantern_event_met : ∀ reply ∈ [[], [(0, (0x80000000 : Word))]],
    let s : State := { demo with lantern := [(0, { request := [], reply := reply, events := [[1, 2]], pending := [[3]], replies := [], waiting := none })] }
    (s.lanternAt 0).events = (1 :: [2]) :: [] ∧ s.stage = 7 ∧ s.stopped = false ∧ (s.lanternAt 0).waiting = none ∧ (s.lanternAt 0).replies = [] ∧
      slotOwned (s.lanternAt 0).reply = (reply != []) := by decide +kernel

/-! ## What arrives on the Tether -/

def demoFrame (kind : BitVec 8) (dst : BitVec 10) : Frame :=
  { kind := kind, ver := 0, src := 2, dst := dst, window := 1, cgroup := 9, seq := 50, srank := 0, count := 2, fmt := 0, red := 0, op := 0, level := 0
    elem := 0, nelem := 1, extra := 16, payload := [0x3F800000] }

theorem test_frames_met :
    (∀ k ∈ [(1 : BitVec 8), 2, 3, 4, 5, 6, 0, 7, 255], (demo.takeFrame (demoFrame k 1)).isSome = true ∧ demo.takeFrame (demoFrame k 3) = none ∧
      (demoFrame k 1).ver = 0) ∧
    (demo.takeFrame (demoFrame 1 1)).all (fun t => (t.collAsid 9).isNone) = true ∧
    (demo.farAtom 1 16 .f32 .add 0x3F800000 0).isSome = true ∧ (demo.farAtom 2 16 .f32 .add 0x3F800000 0) = none := by decide +kernel

def demoXact (win : BitVec 12) (ok : Bool) : Xact := { src := 2, tag := 50, window := win, off := 16, len := 4, total := 4, words := [7], ok := ok }

def demoRemote (kind : RemoteKind) : Remote :=
  { op := 50, grp := 4, team := 3, asid := 1, core := 0, pc := 0x10140, priv := false, kind := kind, dev := 2, win := 1, roff := 16, local_ := 0x60000, len := 4
    todo := [], asked := [0], started := true, counted := false, due := 0, failed := false, isOver := false }

theorem test_transactions_met :
    demo.devid = some 1 ∧ (demo.takeMsg 2 (.write 1 (demoXact 1 true))).isSome = true ∧ (demo.takeMsg 2 (.read 1 (demoXact 1 true))).isSome = true ∧
      (demo.takeMsg 2 (.atomic 1 (demoXact 1 true) .s32 .add)).isSome = true ∧ demo.windowHere 2 = none ∧ (demo.windowHere 1).isSome = true ∧
      (demo.inbound? (demoXact 2 true) true).failed = false ∧
      (∀ kind ∈ [RemoteKind.get, .ratom .s32 .add 1 0], ({ demo with remotes := [demoRemote kind] } : State).remote? 50 = some (demoRemote kind)) ∧
      (∀ i < max 1 (demoXact 1 true).words.length, 16 - 16 + 4 * i ∈ (demoRemote .get).asked) ∧
      ({ demo with remotes := [demoRemote (.ratom .f32 .add 0 0)] } : State).remotes.find? (fun r => r.op % 2 ^ 32 == (50 : BitVec 32).toNat && r.started &&
        r.dev == 2 && (r.kind matches .ratom ..)) = some (demoRemote (.ratom .f32 .add 0 0)) := by decide +kernel

theorem test_old_value_met : let o := { demoOp .remote (some (demoDest (dd 5))) with due := none }
    (demoOps [o]).op? 50 = some o ∧ (demoFrame 6 1).payload ≠ [] ∧ (demoXact 1 true).ok = true ∧ (demoXact 1 false).ok = false := by decide +kernel

theorem test_link_met : 24 ≤ 24 ∧ 23 < 24 ∧ (match exec (.linkFailure 23) demo with | .next u => (cellGet u.deadLinks 0).getLsbD 23 | _ => false) = true := by
  decide +kernel

end Sys2Proof.Tests
end

section
/-! SUPPORT. The invariant of what an operation answers: of an outcome, of a result that may be a trap or a code, and of a fold; and the
primitive updates of State that keep it. -/

namespace Sys2Proof.Machine

/-! ## What an operation answers -/

/-- The invariant of an outcome: its next state, if it has one, meets the invariant. -/
def outInv (o : Out) : Bool := match o with | .next t => t.inv | .fault _ => true | .refused _ => true

/-- The invariant of a result that may fail. -/
def resInv {ε : Type} (r : Except ε State) : Bool := match r with | .ok t => t.inv | .error _ => true

/-- The invariant of an attempt at a wait (R306). -/
def triedInv (r : Tried) : Bool := match r with | .met t _ _ => t.inv | .unmet t _ => t.inv | .bad _ _ => true

@[simp] theorem outInv_next (t : State) : outInv (.next t) = t.inv := rfl
@[simp] theorem outInv_fault (e : Fault) : outInv (.fault e) = true := rfl
@[simp] theorem outInv_refused (e : Refusal) : outInv (.refused e) = true := rfl
@[simp] theorem resInv_ok {ε : Type} (t : State) : resInv (.ok t : Except ε State) = t.inv := rfl
@[simp] theorem resInv_error {ε : Type} (e : ε) : resInv (.error e : Except ε State) = true := rfl
@[simp] theorem triedInv_met (t : State) (v : DWord) (n : Nat) : triedInv (.met t v n) = t.inv := rfl
@[simp] theorem triedInv_unmet (t : State) (n : Nat) : triedInv (.unmet t n) = t.inv := rfl
@[simp] theorem triedInv_bad (c : BitVec 8) (a : Nat) : triedInv (.bad c a) = true := rfl

theorem State.inv_of_next {o : Out} {t : State} (h : outInv o = true) (e : o = .next t) : t.inv = true := by
  rwa [e, outInv_next] at h

theorem State.inv_of_ok {ε : Type} {r : Except ε State} {t : State} (h : resInv r = true) (e : r = .ok t) : t.inv = true := by
  rwa [e, resInv_ok] at h

theorem State.inv_of_met {r : Tried} {t : State} {v : DWord} {n : Nat} (h : triedInv r = true) (e : r = .met t v n) : t.inv = true := by
  rwa [e, triedInv_met] at h

theorem State.inv_of_unmet {r : Tried} {t : State} {n : Nat} (h : triedInv r = true) (e : r = .unmet t n) : t.inv = true := by
  rwa [e, triedInv_unmet] at h

theorem State.inv_of_some {α : Type} {f : α → State} {o : Option α} {a : α} (h : (o.all fun a => (f a).inv) = true) (e : o = some a) :
    (f a).inv = true := by
  rwa [e, Option.all_some] at h

theorem State.inv_of_snd {α : Type} {p : α × State} {a : α} {t : State} (h : p.2.inv = true) (e : p = (a, t)) : t.inv = true := by
  rwa [e] at h

theorem State.inv_ite {c : Prop} [Decidable c] {s t : State} (hs : s.inv = true) (ht : t.inv = true) : (if c then s else t).inv = true := by
  split
  · exact hs
  · exact ht

theorem State.inv_getD {o : Option State} {t : State} (ho : (o.all fun a => State.inv a) = true) (ht : t.inv = true) :
    (o.getD t).inv = true := by
  cases o with
  | none => exact ht
  | some a => exact ho

theorem State.optInv_bind {α : Type} {o : Option α} {f : α → Option State} (hf : ∀ a, ((f a).all fun a => State.inv a) = true) :
    ((o.bind f).all fun a => State.inv a) = true := by
  cases o with
  | none => rfl
  | some a => exact hf a

/-- A fold of operations that each keep the invariant keeps it. -/
theorem State.inv_foldl {α : Type} {f : State → α → State} {xs : List α} {s : State}
    (hf : ∀ s a, s.inv = true → (f s a).inv = true) (h : s.inv = true) : (xs.foldl f s).inv = true := by
  induction xs generalizing s with
  | nil => exact h
  | cons x xs ih => exact ih (hf _ _ h)

/-- The same of a fold whose accumulator holds a state beside other things. -/
theorem State.inv_foldl_by {α β : Type} (p : β → State) {f : β → α → β} {xs : List α} {b : β}
    (hf : ∀ b a, (p b).inv = true → (p (f b a)).inv = true) (h : (p b).inv = true) : (p (xs.foldl f b)).inv = true := by
  induction xs generalizing b with
  | nil => exact h
  | cons x xs ih => exact ih (hf _ _ h)

/-! ## Primitive updates -/

/-- A device that differs in none of the fields that the invariant reads, its part, its memories and the four tables, meets it too. -/
theorem State.inv_update {s : State}
    {clk time edge fullLive clocks fresh nextId cur agenda turn picks reelLast stage fail tjmin stopped parts ops threads reels remotes
    inbound colls collSeq held ready reservedFor vigil saved nextAge spilled watch poisonLines poisonWords corrected capList leases homes
    pins copies partials tlb icache splits splitWanted lastTick meters banks maint breaks lantern hostWins hostHorizon doorbells hostWait
    fwRequest fwReply fwEvent fwEvents fwReplies migrates posted nextTag dropped hostDropped hostOut tetherOut routes devid routeLocked
    deadLinks flash image offered}
    (h : s.inv = true) :
    State.inv
      { clk, time, edge, fullLive, clocks, fresh, nextId, cur, agenda, turn, picks, reelLast, grade := s.grade, coreMask := s.coreMask,
        stage, fail, tjmin, stopped, groups := s.groups, teams := s.teams, launches := s.launches, contexts := s.contexts, parts, ops,
        threads, reels, remotes, inbound, colls, collSeq, held, ready, reservedFor, vigil, saved, nextAge, spilled, watch,
        dram := s.dram, scratch := s.scratch, pool := s.pool, poisonLines, poisonWords, corrected, capList, leases, homes, pins, copies,
        partials, tlb, icache, splits, splitWanted, lastTick, meters, banks, maint, breaks, lantern, hostWins, hostHorizon, doorbells,
        hostWait, fwRequest, fwReply, fwEvent, fwEvents, fwReplies, migrates, posted, nextTag, dropped, hostDropped, hostOut, tetherOut,
        routes, devid, routeLocked, deadLinks, flash, image, offered } = true := h

/-! The parts of the invariant, each by itself. -/

theorem State.wf_dram {s : State} (h : s.inv = true) : Memory.wf s.dram = true := ((State.inv_iff s).mp h).2.1.1

theorem State.wf_scratch {s : State} (h : s.inv = true) : Memory.wf s.scratch = true := ((State.inv_iff s).mp h).2.1.2.1

theorem State.wf_pool {s : State} (h : s.inv = true) : Memory.wf s.pool = true := ((State.inv_iff s).mp h).2.1.2.2

theorem State.keyed_groups {s : State} (h : s.inv = true) : keyed (·.uid) s.groups = true := ((State.inv_iff s).mp h).2.2.1

theorem State.keyed_teams {s : State} (h : s.inv = true) : keyed (·.uid) s.teams = true := ((State.inv_iff s).mp h).2.2.2.1

theorem State.keyed_launches {s : State} (h : s.inv = true) : keyed (·.uid) s.launches = true := ((State.inv_iff s).mp h).2.2.2.2.1

theorem State.keyed_contexts {s : State} (h : s.inv = true) : keyed (·.asid) s.contexts = true := ((State.inv_iff s).mp h).2.2.2.2.2

/-- A device of the same part meets the invariant when its memories are in canonical form and its tables are keyed. -/
theorem State.inv_rebuild {s : State}
    {clk time edge fullLive clocks fresh nextId cur agenda turn picks reelLast stage fail tjmin stopped groups teams launches contexts parts
    ops threads reels remotes inbound colls collSeq held ready reservedFor vigil saved nextAge spilled watch dram scratch pool poisonLines
    poisonWords corrected capList leases homes pins copies partials tlb icache splits splitWanted lastTick meters banks maint breaks lantern
    hostWins hostHorizon doorbells hostWait fwRequest fwReply fwEvent fwEvents fwReplies migrates posted nextTag dropped hostDropped hostOut
    tetherOut routes devid routeLocked deadLinks flash image offered}
    (h : s.inv = true) (hd : Memory.wf dram = true) (hs : Memory.wf scratch = true) (hp : Memory.wf pool = true)
    (hg : keyed (·.uid) groups = true) (ht : keyed (·.uid) teams = true) (hl : keyed (·.uid) launches = true)
    (hc : keyed (·.asid) contexts = true) :
    State.inv
      { clk, time, edge, fullLive, clocks, fresh, nextId, cur, agenda, turn, picks, reelLast, grade := s.grade, coreMask := s.coreMask,
        stage, fail, tjmin, stopped, groups, teams, launches, contexts, parts, ops, threads, reels, remotes, inbound, colls, collSeq,
        held, ready, reservedFor, vigil, saved, nextAge, spilled, watch, dram, scratch, pool, poisonLines, poisonWords, corrected,
        capList, leases, homes, pins, copies, partials, tlb, icache, splits, splitWanted, lastTick, meters, banks, maint, breaks,
        lantern, hostWins, hostHorizon, doorbells, hostWait, fwRequest, fwReply, fwEvent, fwEvents, fwReplies, migrates, posted,
        nextTag, dropped, hostDropped, hostOut, tetherOut, routes, devid, routeLocked, deadLinks, flash, image, offered } = true :=
  (State.inv_iff _).mpr ⟨((State.inv_iff s).mp h).1, ⟨hd, hs, hp⟩, hg, ht, hl, hc⟩

theorem keyed_filter {α : Type} {id : α → Nat} {t : Tab α} {p : Nat × α → Bool} (h : keyed id t = true) : keyed id (t.filter p) = true :=
  keyed_iff.mpr fun e he => keyed_iff.mp h e (List.mem_of_mem_filter he)

/-- Records that are changed in place stay under their identifiers. -/
theorem keyed_map {α : Type} {id : α → Nat} {t : Tab α} {f : Nat × α → Nat × α} (h : keyed id t = true)
    (hf : ∀ e, id e.2 = e.1 → id (f e).2 = (f e).1) : keyed id (t.map f) = true := by
  rw [keyed_iff] at h ⊢
  intro e he
  obtain ⟨a, ha, rfl⟩ := List.mem_map.mp he
  exact hf a (h a ha)

theorem keyed_filterMap {α : Type} {id : α → Nat} {t : Tab α} {f : Nat × α → Option (Nat × α)} (h : keyed id t = true)
    (hf : ∀ a e, f a = some e → id a.2 = a.1 → id e.2 = e.1) : keyed id (t.filterMap f) = true := by
  rw [keyed_iff] at h ⊢
  intro e he
  obtain ⟨a, ha, hae⟩ := List.mem_filterMap.mp he
  exact hf a e hae (h a ha)

theorem State.inv_modLaunch {s : State} {k : Nat} {f : Launch → Launch} (h : s.inv = true) (hf : ∀ l, (f l).uid = l.uid) :
    (s.modLaunch k f).inv = true := by
  rw [State.inv_iff] at h ⊢
  obtain ⟨hp, hm, hg, ht, hl, hc⟩ := h
  exact ⟨hp, hm, hg, ht, keyed_tabMod hl hf, hc⟩

theorem State.inv_modContext {s : State} {k : Nat} {f : Context → Context} (h : s.inv = true) (hf : ∀ c, (f c).asid = c.asid) :
    (s.modContext k f).inv = true := by
  rw [State.inv_iff] at h ⊢
  obtain ⟨hp, hm, hg, ht, hl, hc⟩ := h
  exact ⟨hp, hm, hg, ht, hl, keyed_tabMod hc hf⟩
/-! The rules of Laws for the primitive updates, with what is written found by unification, so that they chain. -/

theorem State.inv_setGroup' {s : State} {g : Group} (h : s.inv = true) : (s.setGroup g).inv = true := State.inv_setGroup h g

theorem State.inv_setTeam' {s : State} {t : Team} (h : s.inv = true) : (s.setTeam t).inv = true := State.inv_setTeam h t

theorem State.inv_setLaunch' {s : State} {l : Launch} (h : s.inv = true) : (s.setLaunch l).inv = true := State.inv_setLaunch h l

theorem State.inv_setContext' {s : State} {c : Context} (h : s.inv = true) : (s.setContext c).inv = true := State.inv_setContext h c

theorem State.inv_modGroup' {s : State} {k : Nat} {f : Group → Group} (h : s.inv = true) (hf : ∀ g, (f g).uid = g.uid) :
    (s.modGroup k f).inv = true := State.inv_modGroup h k hf

theorem State.inv_modTeam' {s : State} {k : Nat} {f : Team → Team} (h : s.inv = true) (hf : ∀ t, (f t).uid = t.uid) :
    (s.modTeam k f).inv = true := State.inv_modTeam h k hf

theorem State.inv_writeLoc' {s : State} {l : Loc} {n v : Nat} (h : s.inv = true) : (s.writeLoc l n v).inv = true :=
  State.inv_writeLoc h l n v

theorem State.inv_recall' {s : State} {line : Nat} (h : s.inv = true) : (s.recall line).inv = true := State.inv_recall h line

theorem State.inv_recallWalk' {s : State} {asid va : Nat} (h : s.inv = true) : (s.recallWalk asid va).inv = true :=
  State.inv_recallWalk h asid va

theorem State.inv_homeWrite' {s : State} {pa n v : Nat} (h : s.inv = true) : (s.homeWrite pa n v).2.inv = true :=
  State.inv_homeWrite h pa n v

theorem State.inv_homeAtom' {s : State} {pa : Nat} {ty : Ty} {op : AtomOp} {b cmp : DWord} (h : s.inv = true) :
    (s.homeAtom pa ty op b cmp).2.2.inv = true := State.inv_homeAtom h pa ty op b cmp

theorem State.inv_logFault' {s : State} {asid : Nat} {r : FRec} (h : s.inv = true) : (s.logFault asid r).inv = true :=
  State.inv_logFault h asid r

end Sys2Proof.Machine
end

section
/-! SUPPORT. A group, team, launch or context keeps its identifier whatever is done to the rest of it. -/

namespace Sys2Proof.Machine

theorem Group.modBank_uid (g : Group) (hand : Bool) (f : Bank → Bank) : (g.modBank hand f).uid = g.uid := by
  unfold Group.modBank
  split <;> rfl

theorem Group.setUp_uid (g : Group) (hand : Bool) (f : Nat) : (g.setUp hand f).uid = g.uid := by
  unfold Group.setUp
  split
  · exact Group.modBank_uid ..
  · rfl

theorem Group.setDown_uid (g : Group) (hand : Bool) (f : Nat) : (g.setDown hand f).uid = g.uid := by
  unfold Group.setDown
  split
  · exact Group.modBank_uid ..
  · rfl

theorem Group.orNflags_uid (g : Group) (hand : Bool) (fl : FFlags) : (g.orNflags hand fl).uid = g.uid := by
  unfold Group.orNflags
  split <;> rfl

theorem Group.goTo_uid (g : Group) (split : Nat) (pc : DWord) : (g.goTo split pc).uid = g.uid := by
  unfold Group.goTo
  split
  · exact Group.setBk_uid ..
  · rfl

theorem Group.divide_uid (g : Group) (sp : Split) (pieces : List Piece) (join : DWord) (keep clk : Nat) (next : DWord) :
    (g.divide sp pieces join keep clk next).uid = g.uid := Group.setBk_uid ..

theorem Group.returnScalars_uid (g : Group) (sfile : Cells 32) (written : BitVec 64) : (g.returnScalars sfile written).uid = g.uid := by
  unfold Group.returnScalars
  split <;> rfl

theorem Group.mergeOne_uid {g g' : Group} {clk : Nat} (h : g.mergeOne clk = some g') : g'.uid = g.uid := by
  unfold Group.mergeOne at h
  dsimp only at h
  split at h
  · cases h
  · split at h
    · cases h
      exact Group.setBk_uid ..
    · cases h
      split
      · exact (Group.returnScalars_uid ..).trans (Group.setBk_uid ..)
      · exact Group.setBk_uid ..

theorem Group.mergeSome_uid (g : Group) (clk n : Nat) : (g.mergeSome clk n).uid = g.uid := by
  induction n generalizing g with
  | zero => rfl
  | succ n ih =>
    unfold Group.mergeSome
    split
    · rfl
    · next g' hg' => exact (ih g').trans (Group.mergeOne_uid hg')

theorem Group.mergeAll_uid (g : Group) (clk : Nat) : (g.mergeAll clk).uid = g.uid := Group.mergeSome_uid ..

theorem Group.arrive_uid (g : Group) (sp : Split) (here next : DWord) (clk : Nat) : (g.arrive sp here next clk).uid = g.uid := by
  unfold Group.arrive
  dsimp only
  split
  · rfl
  · exact (Group.mergeAll_uid ..).trans (Group.setBk_uid ..)

theorem Group.endLanes_uid (g : Group) (lanes : Lanes) (clk : Nat) : (g.endLanes lanes clk).uid = g.uid :=
  (Group.mergeAll_uid ..).trans (Group.setBk_uid ..)

end Sys2Proof.Machine
end

section
/-! SUPPORT. The shared operations over the memories, the home slice and the tables keep the invariant. -/

namespace Sys2Proof.Machine

theorem State.inv_setPart {s : State} {core part : Nat} {p : Part} (h : s.inv = true) : (s.setPart core part p).inv = true := h

theorem State.inv_setOp {s : State} {o : Op} (h : s.inv = true) : (s.setOp o).inv = true := h

theorem State.inv_dropOp {s : State} {uid : Nat} (h : s.inv = true) : (s.dropOp uid).inv = true := h

theorem State.inv_mark {s : State} {line : Nat} {cells : List Nat} (h : s.inv = true) : (s.mark line cells).inv = true := by
  unfold State.mark
  dsimp only
  split <;> exact h

theorem State.inv_applyPartial {s : State} {p : Partial} (h : s.inv = true) : (applyPartial s p).inv = true := by
  unfold applyPartial
  dsimp only
  exact State.inv_writeLoc' h

theorem State.inv_meter {s : State} {place team : Nat} {kind : Metered} {n : Nat} (h : s.inv = true) : (s.meter place team kind n).inv = true := by
  unfold State.meter
  dsimp only
  split <;> exact h

theorem State.inv_holdEvent {s : State} {m : Maint} {ev : Instr} (h : s.inv = true) : (s.holdEvent m ev).inv = true := h

theorem State.outInv_holdOr {s : State} {pas : State → List Nat} {ev : Instr} {out : Out} (h : s.inv = true) (ho : outInv out = true) :
    outInv (s.holdOr pas ev out) = true := by
  unfold State.holdOr
  split
  · exact ho
  · split
    · split
      · rfl
      · exact State.inv_holdEvent h
    · exact ho

theorem State.inv_meterSlice {s : State} {team : Nat} {l : Loc} (h : s.inv = true) : (s.meterSlice team l).inv = true := by
  unfold State.meterSlice
  dsimp only [State.choice]
  split
  · exact State.inv_meter (State.inv_meter (State.inv_update h))
  · exact State.inv_meter h
  · exact h

theorem State.inv_xlate {s : State} {core asid va : Nat} {need : Need} {priv : Bool} (h : s.inv = true) :
    (s.xlate core asid va need priv).2.inv = true := by
  unfold State.xlate
  dsimp only [State.choice]
  split
  · split
    · exact State.inv_recallWalk' h
    · exact State.inv_update (State.inv_recallWalk' h)
  · split
    · exact h
    · exact State.inv_update (by
        split
        · exact State.inv_recallWalk' h
        · exact State.inv_update (State.inv_recallWalk' h))

theorem State.inv_touch {s : State} {asid va n : Nat} (h : s.inv = true) : (s.touch asid va n).inv = true := by
  unfold State.touch
  dsimp only
  split
  · exact h
  · exact State.inv_foldl (fun _ _ h1 => by
      split
      · exact State.inv_recall' (State.inv_recallWalk' h1)
      · exact State.inv_recallWalk' h1) h

theorem State.inv_homeRead {s : State} {pa n : Nat} (h : s.inv = true) : (s.homeRead pa n).2.inv = true := by
  unfold State.homeRead
  exact State.inv_recall' h

theorem State.resInv_vwrite {s : State} {asid va n v : Nat} (h : s.inv = true) : resInv (s.vwrite asid va n v) = true := by
  unfold State.vwrite
  dsimp only
  split
  · exact State.inv_homeWrite' (State.inv_recallWalk' h)
  · rfl

theorem State.resInv_vwrites {ws : List Word} {s : State} {asid va : Nat} (h : s.inv = true) : resInv (s.vwrites asid va ws) = true := by
  induction ws generalizing s va with
  | nil => exact h
  | cons w ws ih =>
    unfold State.vwrites
    split
    · rfl
    · next u hu => exact ih (State.inv_of_ok (State.resInv_vwrite h) hu)

theorem State.resInv_putDesc {s : State} {asid a : Nat} {d : Desc} (h : s.inv = true) : resInv (s.putDesc asid a d) = true := by
  unfold State.putDesc
  exact State.resInv_vwrites h

theorem State.inv_modDesc {s : State} {asid a : Nat} {f : Desc → Desc} (h : s.inv = true) : (s.modDesc asid a f).inv = true := by
  unfold State.modDesc
  dsimp only
  split
  · exact State.inv_touch h
  · split
    · exact State.inv_of_ok (State.resInv_putDesc (State.inv_touch h)) ‹_›
    · exact State.inv_touch h

theorem State.inv_enqueue {s : State} {asid task : Nat} {d : Desc} (h : s.inv = true) : (s.enqueue asid task d).inv = true := h

theorem State.inv_unqueue {s : State} {asid task : Nat} (h : s.inv = true) : (s.unqueue asid task).inv = true := h

theorem State.inv_makeReady {s : State} {asid task : Nat} (h : s.inv = true) : (s.makeReady asid task).inv = true := by
  unfold State.makeReady
  dsimp only
  split
  · exact h
  · split
    · exact State.inv_enqueue (State.inv_modDesc h)
    · split
      · exact State.inv_update (State.inv_modDesc h)
      · exact State.inv_enqueue (State.inv_modDesc h)

theorem State.inv_cell {s : State} {pa : Nat} (h : s.inv = true) : (s.cell pa).2.inv = true := by
  unfold State.cell
  dsimp only
  exact State.inv_homeRead (State.inv_homeRead h)

theorem State.inv_cellWritten {s : State} {pa : Nat} {c : CellWords} (h : s.inv = true) : (s.cellWritten pa c).inv = true := by
  unfold State.cellWritten
  exact State.inv_mark h

theorem State.inv_fillCell {s : State} {asid va pa : Nat} {c : CellWords} {status : Nat} {value : DWord} (h : s.inv = true) :
    (s.fillCell asid va pa c status value).2.inv = true := by
  unfold State.fillCell
  dsimp only
  split
  · exact State.inv_update (State.inv_cellWritten (State.inv_homeWrite' (State.inv_homeWrite' h)))
  · exact State.inv_cellWritten (State.inv_homeWrite' (State.inv_homeWrite' h))

theorem State.inv_fillFuture {s : State} {asid future status value task : Nat} (h : s.inv = true) :
    (s.fillFuture asid future status value task).inv = true := by
  unfold State.fillFuture
  dsimp only
  split
  · exact h
  · split
    · exact State.inv_logFault' h
    · split
      · exact State.inv_logFault' (State.inv_recallWalk' h)
      · split
        · exact State.inv_logFault' (State.inv_cell (State.inv_recallWalk' h))
        · split
          · exact State.inv_logFault' (State.inv_cell (State.inv_recallWalk' h))
          · exact State.inv_fillCell (State.inv_cell (State.inv_recallWalk' h))

/-- A countdown that is performed keeps the invariant. -/
theorem State.inv_depDec {s t : State} {asid task : Nat} (h : s.inv = true) (hd : s.depDec asid task = .done t) : t.inv = true := by
  unfold State.depDec at hd
  split at hd
  · cases hd
  · split at hd
    · cases hd
    · split at hd
      · cases hd
      · split at hd
        · cases hd
        · next u hu =>
          have hu := State.inv_of_ok (State.resInv_putDesc h) hu
          cases hd
          exact State.inv_ite (State.inv_makeReady hu) hu

theorem State.inv_decSuccessors {s : State} {asid list n : Nat} (h : s.inv = true) : (s.decSuccessors asid list n).1.inv = true := by
  induction n generalizing s list with
  | zero => exact h
  | succ n ih =>
    unfold State.decSuccessors
    dsimp only
    split
    · exact ih (State.inv_touch h)
    · next t _ =>
      have ht : ((s.touch asid list 8).touch asid t 64).inv = true := State.inv_touch (State.inv_touch h)
      split
      · next hd =>
        split at hd
        · exact ih (State.inv_depDec ht hd)
        · cases hd
      · exact ih ht
      · exact ih ht

theorem State.inv_taskDone {s : State} {asid task : Nat} (h : s.inv = true) : (s.taskDone asid task).1.inv = true := by
  unfold State.taskDone
  split
  · exact h
  · split
    · exact h
    · exact State.inv_decSuccessors (State.inv_modDesc h)

theorem State.inv_wakeTask {s : State} {asid w : Nat} (h : s.inv = true) : (s.wakeTask asid w).inv = true := by
  unfold State.wakeTask
  split
  · exact State.inv_makeReady (State.inv_modDesc h)
  · exact h

theorem State.inv_releaseHelper {s : State} {asid task : Nat} (h : s.inv = true) : (s.releaseHelper asid task).inv = true := by
  unfold State.releaseHelper
  dsimp only
  split
  · exact h
  · split
    · exact State.inv_modDesc h
    · exact State.inv_wakeTask (State.inv_update (State.inv_modDesc h))

theorem State.inv_countEnd {s : State} {t : Team} (h : s.inv = true) : (s.countEnd t).inv = true := by
  unfold State.countEnd
  dsimp only
  split
  · exact h
  · split
    · exact State.inv_fillFuture (State.inv_setLaunch' h)
    · exact State.inv_setLaunch' h

theorem State.inv_stopSlices {s : State} {team : Nat} (h : s.inv = true) : (s.stopSlices team).inv = true := h

theorem State.inv_endTeam {s : State} {t : Team} (h : s.inv = true) : (s.endTeam t).inv = true := by
  unfold State.endTeam
  dsimp only
  exact State.inv_stopSlices (State.inv_modDesc (State.inv_countEnd (State.inv_releaseHelper (State.inv_unqueue (State.inv_foldl
    (fun _ _ => State.inv_logFault') (State.inv_taskDone h))))))

end Sys2Proof.Machine
end

section
/-! SUPPORT. Traps, the entry of a handler, NFLAGS, queues, banks, the issue of an instruction and the landing of its result keep the invariant. -/

namespace Sys2Proof.Machine

theorem State.inv_leaveSlot {s : State} {g : Group} {place : Place} (h : s.inv = true) : (s.leaveSlot g place).inv = true := by
  unfold State.leaveSlot
  dsimp only [State.choice]
  split
  · exact State.inv_modTeam' (State.inv_setGroup' (State.inv_update h)) (fun _ => rfl)
  · exact State.inv_setPart (State.inv_modTeam' (State.inv_setGroup' (State.inv_update h)) (fun _ => rfl))

theorem State.inv_endGroup {s : State} {g : Group} {byEndg : Bool} (h : s.inv = true) : (s.endGroup g byEndg).inv = true := by
  unfold State.endGroup
  dsimp only
  split
  · exact State.inv_update (State.inv_leaveSlot h)
  · split
    · exact State.inv_update (State.inv_leaveSlot h)
    · split
      · exact State.inv_endTeam (State.inv_modLaunch (State.inv_setTeam' (State.inv_update (State.inv_leaveSlot h))) (fun _ => by
          split <;> rfl))
      · exact State.inv_modLaunch (State.inv_setTeam' (State.inv_update (State.inv_leaveSlot h))) (fun _ => by
          split <;> rfl)

theorem State.inv_nestedFault {s : State} {g : Group} {t : Trap} {split : Nat} {pc : DWord} (h : s.inv = true) :
    (s.nestedFault g t split pc).inv = true := by
  unfold State.nestedFault
  dsimp only
  exact State.inv_endGroup (State.inv_foldl (fun _ _ => State.inv_logFault') h)

theorem State.inv_tableFault {s : State} {g : Group} {d : Delivery} {code : BitVec 8} {entry : DWord} (h : s.inv = true) :
    (s.tableFault g d code entry).inv = true := by
  unfold State.tableFault
  dsimp only
  exact State.inv_endGroup (State.inv_logFault' (by
    split
    · exact State.inv_logFault' h
    · exact h))

theorem State.inv_touchTable {s : State} {g : Group} {code : BitVec 8} (h : s.inv = true) : (s.touchTable g code).inv = true := by
  unfold State.touchTable
  split
  · exact h
  · exact h
  · split
    · exact h
    · exact State.inv_touch (State.inv_touch h)

theorem State.inv_enterHandler {s : State} {g : Group} {d : Delivery} (h : s.inv = true) : (s.enterHandler g d).inv = true := by
  unfold State.enterHandler
  dsimp only
  split
  · exact State.inv_endGroup (State.inv_touchTable h)
  · exact State.inv_tableFault (State.inv_touchTable h)
  · exact State.inv_setGroup' (State.inv_touchTable h)

theorem State.inv_deliver {s : State} {uid : Nat} (h : s.inv = true) : (s.deliver uid).inv = true := by
  unfold State.deliver
  split
  · exact h
  · split
    · exact h
    · split
      · split
        · exact State.inv_enterHandler h
        · split
          · exact State.inv_enterHandler h
          · exact h
      · exact h

theorem State.inv_raiseTrap {s : State} {g : Group} {split : Nat} {pc : DWord} {len : Nat} {t : Trap} (h : s.inv = true) :
    (s.raiseTrap g split pc len t).inv = true := by
  unfold State.raiseTrap
  dsimp only
  split
  · exact State.inv_nestedFault h
  · exact State.inv_deliver (State.inv_setGroup' (State.inv_update h))

theorem State.inv_postNotice {s : State} {uid : Nat} {r : TrapRec} {pc : DWord} (h : s.inv = true) : (s.postNotice uid r pc).inv = true := by
  unfold State.postNotice
  dsimp only
  split
  · exact h
  · split
    · exact h
    · exact State.inv_setGroup' (State.inv_update h)

theorem State.inv_tretNow {s : State} {g : Group} {skip : Bool} (h : s.inv = true) : (s.tretNow g skip).inv = true := by
  unfold State.tretNow
  dsimp only
  split
  · exact h
  · exact State.inv_deliver (State.inv_setGroup' h)

theorem State.inv_finishOp {s : State} {o : Op} (h : s.inv = true) : (s.finishOp o).inv = true := by
  unfold State.finishOp
  exact State.inv_modGroup' (State.inv_dropOp h) (fun _ => by
    split
    · rfl
    · exact (Group.orNflags_uid ..).trans (Group.setDown_uid ..))

theorem State.inv_landPush {s : State} {team q uid : Nat} {handle : Word} (h : s.inv = true) : (s.landPush team q uid handle).inv = true := by
  unfold State.landPush
  dsimp only
  split
  · exact h
  · split
    · exact h
    · exact State.inv_setTeam' (State.inv_writeLoc' h)

theorem State.inv_setDues {s : State} {p : Nat → Bool} (h : s.inv = true) : (s.setDues p).inv = true := h

theorem State.inv_putReq {s : State} {bank : Nat} {r : BankReq} (h : s.inv = true) : (s.putReq bank r).inv = true := h

theorem State.inv_askBanks {s : State} {uid : Nat} {as : List BankAsk} (h : s.inv = true) : (s.askBanks uid as).inv = true := by
  unfold State.askBanks
  dsimp only
  exact State.inv_setDues (State.inv_foldl (fun _ _ => State.inv_putReq) h)

theorem State.inv_takeBank {s : State} {key : Nat} (h : s.inv = true) : (s.takeBank key).inv = true := by
  unfold State.takeBank
  dsimp only [State.choice]
  exact State.inv_setDues (by
    split
    · exact h
    · exact State.inv_putReq (State.inv_update h))

theorem State.inv_takeBankAt {s : State} {l : Loc} (h : s.inv = true) : (s.takeBankAt l).inv = true := by
  unfold State.takeBankAt
  split
  · exact State.inv_takeBank h
  · exact h

theorem State.inv_noteIssue {s : State} {g : Group} {sp : Split} {port : Port} {occ : Nat} (h : s.inv = true) :
    (s.noteIssue g sp port occ).inv = true := by
  unfold State.noteIssue
  dsimp only
  exact State.inv_setGroup' (State.inv_setPart h)

theorem State.inv_unmark {s : State} {x : Issue} (h : s.inv = true) : (s.unmark x).inv = true := by
  unfold State.unmark
  dsimp only
  split
  · exact State.inv_setPart h
  · exact h

theorem State.inv_took {s : State} {x : Issue} (h : s.inv = true) : (s.took x).inv = true := by
  unfold State.took
  dsimp only
  exact State.inv_modGroup' (State.inv_meter (State.inv_unmark h)) (fun _ => rfl)

theorem State.inv_begin {s t : State} {i : Instr} {x : Issue} (h : s.inv = true) (hb : s.begin i = some (x, t)) : t.inv = true := by
  obtain ⟨_, _, _, _, _, _, -, -, -, -, -, -, -, rfl⟩ := State.begin_spec hb
  exact State.inv_update (State.inv_noteIssue h)

theorem State.inv_queueIssue {s : State} {x : Issue} {uid : Nat} (h : s.inv = true) : (s.queueIssue x uid).inv = true := by
  unfold State.queueIssue
  split
  · exact h
  · split
    · exact h
    · exact State.inv_modTeam' h (fun _ => by
        split <;> rfl)

theorem State.inv_commit {s : State} {x : Issue} {uid : Nat} (h : s.inv = true) : (s.commit x uid).inv = true := by
  unfold State.commit
  dsimp only
  exact State.inv_modGroup' (State.inv_queueIssue h) (fun _ => (Group.goTo_uid ..).trans (Group.setBk_uid ..))

theorem State.inv_start {s : State} {x : Issue} {f : Op → Op} (h : s.inv = true) : (s.start x f).inv = true := by
  unfold State.start
  dsimp only
  exact State.inv_update (State.inv_modGroup' (State.inv_commit (State.inv_update h)) (fun _ => Group.setUp_uid ..))

theorem State.inv_startHeld {s : State} {x : Issue} {f : Op → Op} (h : s.inv = true) : (s.startHeld x f).inv = true := by
  unfold State.startHeld
  dsimp only
  exact State.inv_update (State.inv_modGroup' (State.inv_update h) (fun _ => Group.setUp_uid ..))

theorem State.inv_holdOn {s : State} {grp uid : Nat} (h : s.inv = true) : (s.holdOn grp uid).inv = true := by
  unfold State.holdOn
  exact State.inv_modGroup' h (fun _ => rfl)

theorem State.inv_unhold {s : State} {o : Op} (h : s.inv = true) : (s.unhold o).inv = true := by
  unfold State.unhold
  exact State.inv_modGroup' h (fun _ => by
    split <;> rfl)

theorem State.inv_finish {s : State} {x : Issue} (h : s.inv = true) : (s.finish x).inv = true := by
  unfold State.finish
  exact State.inv_commit h

theorem State.inv_landResult {s : State} {o : Op} (h : s.inv = true) : (s.landResult o).inv = true := by
  unfold State.landResult
  dsimp only
  split
  · split
    · exact State.inv_modTeam' (State.inv_setGroup' (State.inv_update h)) (fun _ => rfl)
    · exact State.inv_setGroup' (State.inv_update h)
  · exact h

theorem State.inv_landPreds {s : State} {o : Op} (h : s.inv = true) : (s.landPreds o).inv = true := by
  unfold State.landPreds
  dsimp only
  split
  · exact h
  · split
    · split
      · exact h
      · exact State.inv_setGroup' (State.inv_update h)
    · split
      · exact h
      · exact State.inv_setGroup' (State.inv_update h)

theorem State.inv_landAndFinish {s : State} {o : Op} (h : s.inv = true) : (s.landAndFinish o).inv = true := by
  unfold State.landAndFinish
  exact State.inv_finishOp (State.inv_landPreds (State.inv_landResult h))

theorem State.inv_trapAt {s : State} {x : Issue} {t : Trap} (h : s.inv = true) : (s.trapAt x t).inv = true := by
  unfold State.trapAt
  split
  · exact State.inv_raiseTrap h
  · exact State.inv_postNotice (State.inv_raiseTrap h)

theorem State.inv_trapNow {s : State} {x : Issue} {t : Trap} (h : s.inv = true) : (s.trapNow x t).inv = true := by
  unfold State.trapNow
  split
  · exact State.inv_raiseTrap h
  · exact h

/-- An issue keeps the invariant where the instruction's own effect does. -/
theorem outInv_issue {s : State} {i : Instr} {k : Issue → State → Except Trap State} (h : s.inv = true)
    (hk : ∀ x t, t.inv = true → resInv (k x t) = true) : outInv (issue i s k) = true := by
  unfold issue
  split
  · rfl
  · next x t hb =>
    have ht := State.inv_begin h hb
    split
    · exact h
    · split
      · exact State.inv_trapNow (State.inv_modGroup' ht (fun _ => rfl))
      · split
        · exact State.inv_trapAt ht
        · split
          · exact State.inv_trapAt ht
          · split
            · next u hu => exact State.inv_of_ok (hk x _ (State.inv_took ht)) hu
            · exact State.inv_trapAt ht

theorem State.inv_result {s : State} {x : Issue} {lat : Nat} {f : Nat → Res} {carry : Option (Nat × (Nat → Bool))} (h : s.inv = true) :
    (s.result x lat f carry).inv = true := by
  unfold State.result
  dsimp only
  split
  · exact State.inv_finish h
  · split
    · exact State.inv_askBanks (State.inv_start h)
    · exact State.inv_start h

theorem outInv_reelCompute {s : State} {core ctx : Nat} {i : Instr} {f : (Nat → DWord) → Res} (h : s.inv = true) :
    outInv (reelCompute core ctx i f s) = true := by
  unfold reelCompute
  dsimp only
  split
  · exact h
  · rfl

theorem outInv_resultOf {s : State} {i : Instr} {lat : Nat} {f : (Nat → DWord) → Res} (h : s.inv = true) :
    outInv (resultOf i lat f s) = true := by
  unfold resultOf
  split
  · exact outInv_reelCompute h
  · exact outInv_issue h (fun _ _ => State.inv_result)

theorem outInv_result1 {s : State} {i : Instr} {lat : Nat} {f : DWord → Res} (h : s.inv = true) : outInv (result1 i lat f s) = true := by
  unfold result1
  exact outInv_resultOf h

theorem outInv_result2 {s : State} {i : Instr} {lat : Nat} {f : DWord → DWord → Res} (h : s.inv = true) : outInv (result2 i lat f s) = true := by
  unfold result2
  exact outInv_resultOf h

theorem outInv_result3 {s : State} {i : Instr} {lat : Nat} {f : DWord → DWord → DWord → Res} (h : s.inv = true) :
    outInv (result3 i lat f s) = true := by
  unfold result3
  exact outInv_resultOf h

theorem State.inv_later {s : State} {x : Issue} {n : Nat} {f : Nat → DWord} (h : s.inv = true) : (s.later x n f).inv = true := by
  unfold State.later
  exact State.inv_start h

theorem State.inv_laterNone {s : State} {x : Issue} {n : Nat} (h : s.inv = true) : (s.laterNone x n).inv = true := by
  unfold State.laterNone
  exact State.inv_start h

theorem State.inv_pushAll {s : State} {uid : Nat} {ret : DWord} {lanes : List Nat} (h : s.inv = true) : (s.pushAll uid ret lanes).inv = true := by
  unfold State.pushAll
  dsimp only
  exact State.inv_foldl (fun _ _ h1 => by
    split
    · exact h1
    · exact State.inv_setGroup' (State.inv_writeLoc' h1)) h

theorem State.inv_branchTo {s : State} {x : Issue} {pc : DWord} (h : s.inv = true) : (s.branchTo x pc).inv = true := by
  unfold State.branchTo
  exact State.inv_modGroup' h (fun _ => by
    split
    · rfl
    · exact Group.setBk_uid ..)

theorem State.inv_fan {s : State} {x : Issue} {dest : Nat → DWord} {join : DWord} {keep : Nat} (h : s.inv = true) :
    (s.fan x dest join keep).inv = true := by
  unfold State.fan
  dsimp only
  split
  · exact State.inv_branchTo (State.inv_finish h)
  · exact State.inv_modGroup' (State.inv_finish h) (fun _ => by
      split
      · exact Group.divide_uid ..
      · rfl)

theorem State.inv_touchEntry {s : State} {x : Issue} {index : Nat} (h : s.inv = true) : (s.touchEntry x index).inv = true := by
  unfold State.touchEntry
  split
  · exact State.inv_touch h
  · exact h

theorem State.inv_leaveAtTerminator {s : State} {uid : Nat} {place : Place} (h : s.inv = true) : (s.leaveAtTerminator uid place).inv = true := by
  unfold State.leaveAtTerminator
  split
  · exact h
  · exact State.inv_leaveSlot h

theorem State.inv_globTarget {s : State} {g : Group} {hand : Bool} {lane va n : Nat} {w : AccNeed} (h : s.inv = true) :
    (s.globTarget g hand lane va n w).2.inv = true := by
  unfold State.globTarget
  dsimp only
  split
  · exact h
  · split
    · exact h
    · split
      · dsimp only
        exact State.inv_xlate h
      · dsimp only
        exact State.inv_xlate h

theorem State.inv_target {s : State} {g : Group} {hand : Bool} {sp : Space} {lane a n : Nat} {w : AccNeed} (h : s.inv = true) :
    (s.target g hand sp lane a n w).2.inv = true := by
  unfold State.target
  dsimp only
  split
  · exact State.inv_globTarget h
  · split <;> exact h

theorem State.inv_targets {s : State} {g : Group} {hand : Bool} {sp : Space} {n : Nat} {w : AccNeed} {las : List (Nat × Nat)}
    (h : s.inv = true) : (s.targets g hand sp n w las).2.2.inv = true := by
  induction las generalizing s with
  | nil => exact h
  | cons la las ih =>
    have ht := ih (State.inv_target (g := g) (hand := hand) (sp := sp) (lane := la.1) (a := la.2) (n := n) (w := w) h)
    unfold State.targets
    dsimp only
    split <;> exact ht

end Sys2Proof.Machine
end

section
/-! SUPPORT. What an access, an engine thread or a matrix instruction does, and the instructions that begin one, keep the invariant. -/

namespace Sys2Proof.Machine

theorem State.inv_dropCopy {s : State} {core line : Nat} (h : s.inv = true) : (s.dropCopy core line).inv = true := h

theorem State.inv_dropCopies {s : State} {core : Nat} {us : List AccUnit} (h : s.inv = true) : (s.dropCopies core us).inv = true := by
  unfold State.dropCopies
  exact State.inv_foldl (fun _ _ h1 => by
    split
    · exact State.inv_dropCopy h1
    · exact h1) h

theorem State.inv_staleCopy {s : State} {g : Group} {pa n : Nat} (h : s.inv = true) : (s.staleCopy g pa n).inv = true := h

theorem State.inv_grantCopy {s : State} {core line lcls : Nat} (h : s.inv = true) : (s.grantCopy core line lcls).inv = true := by
  unfold State.grantCopy
  dsimp only
  split
  · exact h
  · exact State.inv_update (by
      split
      · exact State.inv_dropCopy h
      · split
        · exact State.inv_dropCopy (State.inv_dropCopy h)
        · exact State.inv_dropCopy h)

theorem State.inv_loadGlob {s : State} {g : Group} {pa n lcls : Nat} {miss : Bool} (h : s.inv = true) :
    (s.loadGlob g pa n lcls miss).s.inv = true := by
  unfold State.loadGlob
  dsimp only
  split
  · exact h
  · split
    · exact h
    · exact State.inv_grantCopy (State.inv_recall' h)

theorem State.inv_updateOnly {s : State} {core pa : Nat} {ty : Ty} {op : AtomOp} {b : DWord} (h : s.inv = true) :
    (s.updateOnly core pa ty op b).s.inv = true := by
  unfold State.updateOnly
  dsimp only
  exact State.inv_update (State.inv_dropCopy (State.inv_ite (State.inv_recall' h) h))

theorem State.inv_performAt {s : State} {g : Group} {a : Access} {u : AccUnit} (h : s.inv = true) : (s.performAt g a u).s.inv = true := by
  unfold State.performAt
  split
  · exact State.inv_loadGlob h
  · exact State.inv_staleCopy (State.inv_homeWrite' h)
  · split
    · exact h
    · split
      · exact State.inv_homeAtom' h
      · exact State.inv_updateOnly h
  · split <;> exact h
  · exact State.inv_writeLoc' h
  · split
    · exact h
    · exact State.inv_writeLoc' h

theorem State.inv_markLane {s : State} {o : Op} {again : Bool} {cb l : Nat} (h : s.inv = true) : (s.markLane o again cb l).inv = true := by
  unfold State.markLane
  extract_lets s₁ s₂
  have h₁ : s₁.inv = true := State.inv_modGroup' h fun _ => rfl
  have h₂ : s₂.inv = true := State.inv_modGroup' h₁ fun _ => by
    split
    · split
      · exact Group.modBank_uid ..
      · rfl
    · rfl
  split
  · exact h₂
  · exact State.inv_ite (State.inv_landResult h₂) h₂

theorem State.inv_meterUnit {s : State} {g : Group} {a : Access} {u : AccUnit} {hit : Bool} (h : s.inv = true) :
    (s.meterUnit g a u hit).inv = true := by
  unfold State.meterUnit
  dsimp only
  split
  · split
    · split
      · exact State.inv_meter h
      · exact State.inv_takeBank (State.inv_meter h)
    · split
      · exact State.inv_meter h
      · exact State.inv_takeBank (State.inv_meter h)
  · exact State.inv_meterSlice h
  · split
    · exact State.inv_meter h
    · split
      · exact State.inv_meterSlice (State.inv_meterSlice (State.inv_meter h))
      · exact State.inv_meterSlice (State.inv_meter h)

theorem State.inv_performUnit {s : State} {uid i : Nat} (h : s.inv = true) : (s.performUnit uid i).inv = true := by
  unfold State.performUnit
  dsimp only
  split
  · exact h
  · split
    · split
      · exact h
      · split
        · split
          · exact State.inv_markLane (State.inv_modGroup' (State.inv_setOp (State.inv_meterUnit (State.inv_performAt h))) (fun _ => rfl))
          · exact State.inv_modGroup' (State.inv_setOp (State.inv_meterUnit (State.inv_performAt h))) (fun _ => rfl)
        · exact State.inv_modGroup' (State.inv_setOp (State.inv_meterUnit (State.inv_performAt h))) (fun _ => rfl)
    · exact h

theorem State.inv_clearPoison {s : State} {a : Access} (h : s.inv = true) : (s.clearPoison a).inv = true := by
  unfold State.clearPoison
  split
  · split <;> exact h
  · exact h

theorem State.inv_oneLine {s : State} {uid : Nat} {a : Access} (h : s.inv = true) : (s.oneLine uid a).inv = true := by
  unfold State.oneLine
  split
  · split
    · split
      · exact State.inv_dropCopies h
      · exact h
    · split
      · exact State.inv_dropCopies h
      · exact h
  · exact h

theorem State.inv_performAll {s : State} {uid : Nat} {a : Access} (h : s.inv = true) : (s.performAll uid a).inv = true := by
  unfold State.performAll
  exact State.inv_clearPoison (State.inv_foldl (fun _ _ => State.inv_performUnit) (State.inv_oneLine h))

theorem State.inv_landWindow {s : State} {o : Op} (h : s.inv = true) : (s.landWindow o).inv = true := by
  unfold State.landWindow
  exact State.inv_modGroup' h (fun _ => by
    split
    · split
      · exact Group.modBank_uid ..
      · rfl
    · rfl)

theorem State.inv_spoil {s : State} {o : Op} {bad : Lanes} (h : s.inv = true) : (s.spoil o bad).2.inv = true :=
  State.inv_foldl_by Prod.snd (fun _ _ h => h) h

theorem State.inv_commitOp {s : State} {o : Op} (h : s.inv = true) : (s.commitOp o).inv = true := by
  unfold State.commitOp
  split
  · split
    · exact State.inv_commit h
    · exact h
  · exact h

theorem State.inv_completeAccess {s : State} {o : Op} {a : Access} (h : s.inv = true) : (s.completeAccess o a).inv = true := by
  unfold State.completeAccess
  extract_lets bad s₁ r s₂ s₃ s₄ t
  have h₁ : s₁.inv = true := State.inv_ite (State.inv_commitOp h) h
  have h₂ : s₂.inv = true :=
    State.inv_ite (State.inv_landWindow (State.inv_spoil h₁)) (State.inv_landResult (State.inv_spoil h₁))
  have h₃ : s₃.inv = true := State.inv_finishOp h₂
  have h₄ : s₄.inv = true := State.inv_ite (State.inv_modGroup' (State.inv_unhold h₃) (fun _ => rfl)) h₃
  split
  · exact h₄
  · split
    · exact h₄
    · split
      · exact h₄
      · split
        · exact State.inv_raiseTrap h₄
        · exact State.inv_setGroup' h₄

theorem State.inv_completeHeld {s : State} {o : Op} (h : s.inv = true) : (s.completeHeld o).inv = true := by
  unfold State.completeHeld
  exact State.inv_unhold (State.inv_finishOp (State.inv_landResult h))

theorem State.inv_gatherSend {s : State} {x : Issue} {sp : Space} {ty : Ty} {cb : Nat} {load again : Bool} {lanes : List Nat} {old : Cells 64}
    {resume : Resume} (h : s.inv = true) :
    (s.gatherSend x sp ty cb load again lanes old resume).inv = true := by
  unfold State.gatherSend
  dsimp only
  split
  · split
    · exact State.inv_modGroup' (State.inv_askBanks (State.inv_start (State.inv_targets h))) (fun _ => Group.setBk_uid ..)
    · exact State.inv_trapNow (by
        split
        · exact State.inv_targets h
        · exact State.inv_askBanks (State.inv_startHeld (State.inv_targets h)))
  · split
    · exact State.inv_modGroup' (State.inv_askBanks (State.inv_start (State.inv_dropCopies (State.inv_targets h)))) (fun _ => Group.setBk_uid ..)
    · exact State.inv_trapNow (by
        split
        · exact State.inv_dropCopies (State.inv_targets h)
        · exact State.inv_askBanks (State.inv_startHeld (State.inv_dropCopies (State.inv_targets h))))

theorem State.inv_resend {s : State} {g : Group} {d : Delivery} {t : Gather} (h : s.inv = true) : (s.resend g d t).inv = true := by
  unfold State.resend
  dsimp only
  split
  · split
    · exact State.inv_modGroup' (State.inv_gatherSend (State.inv_update h)) (fun _ => rfl)
    · exact State.inv_gatherSend (State.inv_update h)
  · exact h

theorem State.inv_setThread {s : State} {t : Thread} (h : s.inv = true) : (s.setThread t).inv = true := h

theorem State.inv_engineLoc {s : State} {core asid : Nat} {priv : Bool} {sp : Space} {need : Need} {a : Nat} (h : s.inv = true) :
    (s.engineLoc core asid priv sp need a).2.inv = true := by
  unfold State.engineLoc
  dsimp only
  split
  · split
    · exact h
    · split
      · dsimp only
        exact State.inv_xlate h
      · dsimp only
        exact State.inv_xlate h
  · exact h
  · exact h

theorem State.inv_engineRead {s : State} {l : Loc} (h : s.inv = true) : (s.engineRead l).2.inv = true := by
  unfold State.engineRead
  dsimp only
  split
  · dsimp only
    exact State.inv_homeRead h
  · exact h

theorem State.inv_engineWrite {s : State} {l : Loc} {v : Word} (h : s.inv = true) : (s.engineWrite l v).2.inv = true := by
  unfold State.engineWrite
  split
  · exact State.inv_homeWrite' h
  · exact State.inv_writeLoc' h

theorem State.inv_failThread {s : State} {t : Thread} {f : EngineFault} (h : s.inv = true) : (s.failThread t f).inv = true := by
  unfold State.failThread
  dsimp only
  exact State.inv_postNotice (by
    split
    · exact State.inv_update (State.inv_setThread h)
    · exact State.inv_setThread h)

theorem State.inv_meterWord {s : State} {t : Thread} {l : Loc} (h : s.inv = true) : (s.meterWord t l).inv = true := by
  unfold State.meterWord
  exact State.inv_takeBankAt (State.inv_meterSlice (State.inv_meter h))

theorem State.inv_moveWord {s : State} {t : Thread} {i : Nat} {w : TWord} (h : s.inv = true) : (s.moveWord t i w).inv = true := by
  unfold State.moveWord
  dsimp only
  split
  · split
    · exact State.inv_failThread (State.inv_engineLoc h)
    · split
      · exact State.inv_failThread (State.inv_meterWord (State.inv_engineLoc h))
      · exact State.inv_setThread (State.inv_engineRead (State.inv_meterWord (State.inv_engineLoc h)))
  · split
    · exact State.inv_failThread (State.inv_engineLoc h)
    · exact State.inv_setThread (State.inv_engineWrite (State.inv_meterWord (State.inv_engineLoc h)))

theorem State.inv_endThread {s : State} {t : Thread} (h : s.inv = true) : (s.endThread t).inv = true := by
  unfold State.endThread
  dsimp only
  split
  · exact State.inv_landPush (State.inv_update h)
  · split
    · exact State.inv_postNotice (State.inv_update h)
    · exact State.inv_writeLoc' (State.inv_update h)
  · split
    · exact State.inv_finishOp (State.inv_update h)
    · exact h

theorem State.inv_setReel {s : State} {core ctx : Nat} {r : ReelCtx} (h : s.inv = true) : (s.setReel core ctx r).inv = true := h

theorem State.inv_tidyReels {s : State} (h : s.inv = true) : s.tidyReels.inv = true := h

theorem State.inv_sliceFault {s : State} {core ctx : Nat} {code : BitVec 8} {access : BitVec 3} {addr : DWord} (h : s.inv = true) :
    (s.sliceFault core ctx code access addr).inv = true := by
  unfold State.sliceFault
  split
  · exact h
  · exact State.inv_postNotice (State.inv_setReel h)

theorem outInv_matIssue {s : State} {i : Instr} {k : Issue → State → Except Trap State} (h : s.inv = true)
    (hk : ∀ x t, t.inv = true → resInv (k x t) = true) : outInv (matIssue i s k) = true := by
  unfold matIssue
  exact outInv_issue h (fun x t ht => by
    split
    · exact State.inv_finish ht
    · split
      · rfl
      · exact hk x t ht)

theorem State.inv_readTiles {s : State} {x : Issue} {fmt : Word} {reads : List MatWord} {spans : List
    (Nat × Nat)} {writes : List MatWord} {late : Option Trap} (h : s.inv = true) :
    (s.readTiles x fmt reads spans writes late).inv = true := by
  unfold State.readTiles
  dsimp only
  exact State.inv_holdOn (State.inv_startHeld (State.inv_meter h))

theorem State.inv_matrixStart {s : State} {x : Issue} {fmt : Word} {writes : List MatWord} {vals : Cells 64} (h : s.inv = true) :
    (s.matrixStart x fmt writes vals).inv = true := by
  unfold State.matrixStart
  dsimp only
  exact State.inv_start (State.inv_meter h)

theorem outInv_mmaOp {s : State} {i : Instr} {kind : MmaKind} (h : s.inv = true) : outInv (mmaOp i kind s) = true := by
  unfold mmaOp
  dsimp only
  exact outInv_matIssue h (fun _ _ h1 => by
    split
    · rfl
    · exact State.inv_finish h1
    · split
      · rfl
      · split
        · rfl
        · split
          · split
            · exact State.inv_readTiles h1
            · rfl
          · exact State.inv_readTiles h1)

theorem outInv_execMma {s : State} {c : Ctl} {cn : BitVec 2} {a b x : Opnd} (h : s.inv = true) : outInv (execMma c cn a b x s) = true := by
  unfold execMma
  exact outInv_mmaOp h

theorem outInv_execMmas {s : State} {c : Ctl} {cn : BitVec 2} {d a b x : Opnd} (h : s.inv = true) : outInv (execMmas c cn d a b x s) = true := by
  unfold execMmas
  exact outInv_mmaOp h

theorem outInv_execMmab {s : State} {c : Ctl} {cn : BitVec 2} {d a b x : Opnd} (h : s.inv = true) : outInv (execMmab c cn d a b x s) = true := by
  unfold execMmab
  exact outInv_mmaOp h

theorem outInv_execCmprs {s : State} {c : Ctl} {ty : Ty} {a b x : Opnd} (h : s.inv = true) : outInv (execCmprs c ty a b x s) = true := by
  unfold execCmprs
  dsimp only
  exact outInv_matIssue h (fun _ _ h1 => by
    split
    · exact State.inv_finish h1
    · split
      · rfl
      · rfl
      · exact State.inv_readTiles h1)

theorem outInv_execCclr {s : State} {c : Ctl} {cn : BitVec 2} (h : s.inv = true) : outInv (execCclr c cn s) = true := by
  unfold execCclr
  exact outInv_matIssue h (fun _ _ => State.inv_matrixStart)

theorem outInv_execCld {s : State} {c : Ctl} {cn : BitVec 2} {a x : Opnd} (h : s.inv = true) : outInv (execCld c cn a x s) = true := by
  unfold execCld
  exact outInv_matIssue h (fun _ _ h1 => by
    split
    · exact State.inv_finish h1
    · split
      · rfl
      · exact State.inv_readTiles h1)

theorem outInv_execCscl {s : State} {c : Ctl} {cn : BitVec 2} {a : Opnd} (h : s.inv = true) : outInv (execCscl c cn a s) = true := by
  unfold execCscl
  exact outInv_matIssue h (fun _ _ => State.inv_matrixStart)

theorem outInv_execCst {s : State} {c : Ctl} {cn : BitVec 2} {a b x : Opnd} (h : s.inv = true) : outInv (execCst c cn a b x s) = true := by
  unfold execCst
  dsimp only
  exact outInv_matIssue h (fun _ _ h1 => by
    split
    · rfl
    · exact State.inv_finish h1
    · split
      · rfl
      · split
        · rfl
        · exact State.inv_matrixStart h1)

theorem State.inv_readPoint {s : State} {o : Op} {m : MatJob} (h : s.inv = true) : (s.readPoint o m).inv = true := by
  unfold State.readPoint
  dsimp only
  split
  · exact State.inv_dropOp h
  · split
    · split
      · exact State.inv_raiseTrap (State.inv_unhold (State.inv_finishOp h))
      · exact State.inv_unhold (State.inv_finishOp h)
    · exact State.inv_unhold (by
        split
        · exact State.inv_commit (State.inv_setOp h)
        · exact State.inv_setOp h)

theorem State.inv_meterMat {s : State} {o : Op} {key : Nat} (h : s.inv = true) : (s.meterMat o key).inv = true := by
  unfold State.meterMat
  exact State.inv_takeBank (by
    split
    · exact State.inv_meter h
    · exact h)

theorem State.optInv_matrixUnit {s : State} {o : Op} {m : MatJob} {unit : Nat} (h : s.inv = true) :
    ((s.matrixUnit o m unit).all fun a => State.inv a) = true := by
  unfold State.matrixUnit
  dsimp only [State.free]
  split
  · split
    · rfl
    · split
      · rfl
      · split
        · dsimp only
          split
          · exact State.inv_readPoint (State.inv_setOp (State.inv_meterMat (State.inv_update h)))
          · exact State.inv_setOp (State.inv_meterMat (State.inv_update h))
        · dsimp only
          split
          · exact State.inv_readPoint (State.inv_setOp (State.inv_meterMat h))
          · exact State.inv_setOp (State.inv_meterMat h)
  · split
    · rfl
    · split
      · rfl
      · split
        · rfl
        · exact State.inv_setOp (State.inv_writeLoc' (State.inv_meterMat h))

theorem outInv_execMatrixCompletion {s : State} {op : Nat} (h : s.inv = true) : outInv (execMatrixCompletion op s) = true := by
  unfold execMatrixCompletion
  dsimp only
  split
  · rfl
  · split
    · split
      · rfl
      · split
        · split
          · exact State.inv_finishOp h
          · rfl
        · split
          · rfl
          · split
            · split
              · rfl
              · exact State.inv_setOp h
            · exact State.inv_finishOp (State.inv_modGroup' h (fun _ => rfl))
    · rfl

end Sys2Proof.Machine
end

section
/-! SUPPORT. Memory instructions and their completion, the picker, the activation of a group and its save and restoration keep the invariant. -/

namespace Sys2Proof.Machine

theorem State.inv_touchLaunch {s : State} {asid a : Nat} {spawn : Bool} (h : s.inv = true) : (s.touchLaunch asid a spawn).inv = true := by
  unfold State.touchLaunch
  dsimp only
  split
  · exact State.inv_touch (State.inv_touch (State.inv_touch (State.inv_touch h)))
  · exact State.inv_touch h

theorem State.resInv_writeDescs {tes : List (Nat × Nat)} {s : State} {l : Launch} {r : Rec} (h : s.inv = true) :
    resInv (s.writeDescs l r tes) = true := by
  induction tes generalizing s with
  | nil => exact h
  | cons te tes ih =>
    unfold State.writeDescs
    dsimp only
    split
    · rfl
    · next u hu =>
      have hu := State.inv_of_ok (State.resInv_putDesc h) hu
      exact ih (State.inv_ite (State.inv_enqueue hu) hu)

theorem State.inv_refuse {s : State} {asid code future : Nat} (h : s.inv = true) : (s.refuse asid code future).inv = true := by
  unfold State.refuse
  exact State.inv_fillFuture h

theorem State.inv_takeLaunch {s : State} {asid a : Nat} (h : s.inv = true) : (s.takeLaunch asid a).2.inv = true := by
  unfold State.takeLaunch
  dsimp only
  split
  · exact State.inv_refuse (State.inv_touchLaunch h)
  · split
    · next t ht => exact State.inv_of_ok (State.resInv_writeDescs (State.inv_setLaunch' (State.inv_update (State.inv_touchLaunch h)))) ht
    · exact State.inv_refuse (State.inv_touchLaunch h)

theorem State.resInv_vwriteAll {ws : List (Nat × Word)} {s : State} {asid : Nat} (h : s.inv = true) :
    resInv (s.vwriteAll asid ws) = true := by
  induction ws generalizing s with
  | nil => exact h
  | cons w ws ih =>
    unfold State.vwriteAll
    split
    · rfl
    · next u hu => exact ih (State.inv_of_ok (State.resInv_vwrite h) hu)

theorem State.resInv_writeBlock {s : State} {g : Group} {asid a index : Nat} {parked inSave : Bool} {dmask : BitVec 256} {smask : BitVec 64}
    (h : s.inv = true) :
    resInv (s.writeBlock g asid a index parked inSave dmask smask) = true := by
  unfold State.writeBlock
  dsimp only
  exact State.resInv_vwriteAll h

theorem State.resInv_setValid {s : State} {asid prec idx : Nat} {v : Bool} (h : s.inv = true) : resInv (s.setValid asid prec idx v) = true := by
  unfold State.setValid
  dsimp only
  split
  · rfl
  · exact State.resInv_vwriteAll (State.inv_touch h)

theorem outInv_loadOp {s : State} {i : Instr} {sp : Space} {ty : Ty} {acq : Bool} (h : s.inv = true) : outInv (loadOp i sp ty acq s) = true := by
  unfold loadOp
  dsimp only
  exact outInv_issue h (fun _ _ h1 => by
    split
    · exact State.inv_finish h1
    · split
      · rfl
      · split
        · exact State.inv_holdOn (State.inv_askBanks (State.inv_startHeld (State.inv_targets h1)))
        · exact State.inv_askBanks (State.inv_start (State.inv_targets h1)))

theorem outInv_storeOp {s : State} {i : Instr} {sp : Space} {ty : Ty} {rel : Bool} (h : s.inv = true) : outInv (storeOp i sp ty rel s) = true := by
  unfold storeOp
  dsimp only
  exact outInv_issue h (fun _ _ h1 => by
    split
    · exact State.inv_finish h1
    · split
      · rfl
      · split
        · exact State.inv_holdOn (State.inv_askBanks (State.inv_start (State.inv_targets h1)))
        · exact State.inv_askBanks (State.inv_start (State.inv_dropCopies (State.inv_targets h1))))

theorem outInv_gatherOp {s : State} {i : Instr} {sp : Space} {ty : Ty} {cb : Nat} {load : Bool} (h : s.inv = true) :
    outInv (gatherOp i sp ty cb load s) = true := by
  unfold gatherOp
  dsimp only
  exact outInv_issue h (fun _ _ h1 => by
    split
    · exact State.inv_finish (State.inv_modGroup' h1 (fun _ => rfl))
    · exact State.inv_gatherSend (State.inv_modGroup' h1 (fun _ => rfl)))

theorem outInv_atomicOp {s : State} {i : Instr} {sp : Space} {ty : Ty} {op : AtomOp} {scope : Scope} {returns : Bool} (h : s.inv = true) :
    outInv (atomicOp i sp ty op scope returns s) = true := by
  unfold atomicOp
  dsimp only
  exact outInv_issue h (fun _ _ h1 => by
    split
    · exact State.inv_finish h1
    · split
      · split
        · rfl
        · exact State.inv_askBanks (State.inv_start (by
            split
            · exact State.inv_targets h1
            · exact State.inv_dropCopies (State.inv_targets h1)))
      · split
        · rfl
        · exact State.inv_askBanks (State.inv_start (by
            split
            · exact State.inv_targets h1
            · exact State.inv_dropCopies (State.inv_targets h1))))

theorem outInv_execLd {s : State} {c : Ctl} {sp : Space} {ty : Ty} {acq : Bool} {d a x : Opnd} (h : s.inv = true) :
    outInv (execLd c sp ty acq d a x s) = true := by
  unfold execLd
  exact outInv_loadOp h

theorem outInv_execSt {s : State} {c : Ctl} {sp : Space} {ty : Ty} {rel nr : Bool} {a b x : Opnd} (h : s.inv = true) :
    outInv (execSt c sp ty rel nr a b x s) = true := by
  unfold execSt
  exact outInv_storeOp h

theorem outInv_execLdx {s : State} {c : Ctl} {sp : Space} {ty : Ty} {cb : BitVec 2} {d a x : Opnd} (h : s.inv = true) :
    outInv (execLdx c sp ty cb d a x s) = true := by
  unfold execLdx
  exact outInv_gatherOp h

theorem outInv_execStx {s : State} {c : Ctl} {sp : Space} {ty : Ty} {cb : BitVec 2} {nr : Bool} {a b x : Opnd} (h : s.inv = true) :
    outInv (execStx c sp ty cb nr a b x s) = true := by
  unfold execStx
  exact outInv_gatherOp h

theorem outInv_execAtom {s : State} {c : Ctl} {sp : Space} {ty : Ty} {aop : AtomOp} {scope : Scope} {d a b x : Opnd} (h : s.inv = true) :
    outInv (execAtom c sp ty aop scope d a b x s) = true := by
  unfold execAtom
  exact outInv_atomicOp h

theorem outInv_execAtomr {s : State} {c : Ctl} {sp : Space} {ty : Ty} {aop : AtomOp} {scope : Scope} {a b x : Opnd} (h : s.inv = true) :
    outInv (execAtomr c sp ty aop scope a b x s) = true := by
  unfold execAtomr
  exact outInv_atomicOp h

theorem outInv_execFence {s : State} {c : Ctl} {scope : Scope} {half : FenceHalf} (h : s.inv = true) : outInv
    (execFence c scope half s) = true := by
  unfold execFence
  dsimp only
  exact outInv_issue h (fun _ _ h1 => by
    split
    · exact State.inv_modGroup' (State.inv_finish h1) (fun _ => rfl)
    · exact State.inv_holdOn (State.inv_start h1))

theorem State.inv_rangeFault {s : State} {g : Group} {hand : Bool} {page n : Nat} (h : s.inv = true) :
    (s.rangeFault g hand page n).2.inv = true := by
  induction n generalizing s page with
  | zero => exact h
  | succ n ih =>
    have hx : (s.xlate g.core (s.asidOf g) (page * 2 ^ 16) .both hand).2.inv = true := State.inv_xlate h
    unfold State.rangeFault
    dsimp only
    split
    · exact hx
    · split
      · exact hx
      · exact ih hx

theorem outInv_rangeOp {s : State} {i : Instr} {op : RangeOp} (h : s.inv = true) : outInv (rangeOp i op s) = true := by
  unfold rangeOp
  dsimp only
  exact outInv_issue h (fun _ _ h1 => by
    split
    · exact State.inv_finish h1
    · split
      · rfl
      · split
        · rfl
        · split
          · exact State.inv_finish h1
          · split
            · rfl
            · exact State.inv_start (by
                split
                · exact h1
                · exact State.inv_rangeFault h1))

theorem outInv_execPin {s : State} {c : Ctl} {a b : Opnd} (h : s.inv = true) : outInv (execPin c a b s) = true := by
  unfold execPin
  exact outInv_rangeOp h

theorem outInv_execUnpin {s : State} {c : Ctl} {a b : Opnd} (h : s.inv = true) : outInv (execUnpin c a b s) = true := by
  unfold execUnpin
  exact outInv_rangeOp h

theorem outInv_execIcinv {s : State} {c : Ctl} {a b : Opnd} (h : s.inv = true) : outInv (execIcinv c a b s) = true := by
  unfold execIcinv
  exact outInv_rangeOp h

theorem outInv_execPref {s : State} {c : Ctl} {a x : Opnd} (h : s.inv = true) : outInv (execPref c a x s) = true := by
  unfold execPref
  dsimp only
  exact outInv_issue h (fun _ _ h1 => by
    split
    · exact State.inv_finish (State.inv_targets h1)
    · exact State.inv_start (State.inv_targets h1))

theorem State.inv_pinLines {s : State} {asid : Nat} {pin : Bool} {va n : Nat} (h : s.inv = true) : (s.pinLines asid pin va n).1.inv = true := by
  induction n generalizing s va with
  | zero => exact h
  | succ n ih =>
    have hw : (s.recallWalk asid va).inv = true := State.inv_recallWalk' h
    unfold State.pinLines
    dsimp only
    split
    · exact ih hw
    · split
      · exact ih (State.inv_update hw)
      · split
        · exact ih hw
        · split
          · exact ih (State.inv_update hw)
          · exact ih hw

theorem State.inv_rangeDone {s : State} {o : Op} {op : RangeOp} {va len : Nat} (h : s.inv = true) : (s.rangeDone o op va len).inv = true := by
  unfold State.rangeDone
  dsimp only
  split
  · exact h
  · split
    · exact h
    · split
      · exact State.inv_postNotice (State.inv_pinLines h)
      · exact State.inv_pinLines h
    · exact State.inv_pinLines h
    · exact h

theorem outInv_execLeaseExpiry {s : State} {core line : Nat} (h : s.inv = true) : outInv (execLeaseExpiry core line s) = true := by
  unfold execLeaseExpiry
  split
  · split
    · exact State.inv_dropCopy h
    · rfl
  · rfl

theorem outInv_execSoftError {s : State} {site : ErrorSite} {correctable : Bool} (h : s.inv = true) :
    outInv (execSoftError site correctable s) = true := by
  unfold execSoftError
  dsimp only
  split
  · split
    · rfl
    · split <;> exact h
  · split
    · rfl
    · split <;> exact h
  · split
    · rfl
    · split <;> exact h

theorem State.inv_dropPin {s : State} {p : Pin} (h : s.inv = true) : (s.dropPin p).inv = true := by
  unfold State.dropPin
  dsimp only
  exact State.inv_logFault' (State.inv_update h)

theorem State.inv_trimPins {s : State} {col n : Nat} (h : s.inv = true) : (s.trimPins col n).inv = true := by
  induction n generalizing s with
  | zero => exact h
  | succ n ih =>
    unfold State.trimPins
    dsimp only [State.choice]
    split
    · exact h
    · exact ih (State.inv_foldl (fun _ _ hs => State.inv_dropPin hs) (State.inv_update h))

theorem outInv_execMigration {s : State} {block column : Nat} (h : s.inv = true) : outInv (execMigration block column s) = true := by
  unfold execMigration
  dsimp only
  split
  · rfl
  · exact State.inv_update (State.inv_foldl (fun _ _ => State.inv_dropPin) (State.inv_foldl (fun _ _ => State.inv_recall') h))

theorem State.inv_servePart {s : State} {core part : Nat} (h : s.inv = true) : (s.servePart core part).inv = true := by
  unfold State.servePart
  dsimp only
  exact State.inv_update (State.inv_foldl (fun _ _ h1 => by
    split
    · exact h1
    · exact State.inv_setGroup' h1) (State.inv_setPart h))

theorem State.inv_fetchTrap {s : State} {uid split len : Nat} {code : BitVec 8} {access : BitVec 3} (h : s.inv = true) :
    (s.fetchTrap uid split len code access).inv = true := by
  unfold State.fetchTrap
  dsimp only
  split
  · exact h
  · split
    · exact h
    · split
      · exact State.inv_update (State.inv_noteIssue h)
      · exact State.inv_raiseTrap (State.inv_update (State.inv_noteIssue h))

theorem State.inv_activate {s : State} {g : Group} {slot : Nat} (h : s.inv = true) : (s.activate g slot).inv = true := by
  unfold State.activate
  dsimp only
  exact State.inv_deliver (State.inv_setGroup' h)

theorem outInv_execActivation {s : State} {core part : Nat} (h : s.inv = true) : outInv (execActivation core part s) = true := by
  unfold execActivation
  split
  · exact State.inv_activate h
  · rfl

theorem State.inv_uwrite {s : State} {o : Op} {u : Opnd} {wide : Bool} (h : s.inv = true) : (s.uwrite o u wide).inv = true := by
  unfold State.uwrite
  dsimp only
  exact State.inv_modGroup' h (fun _ => rfl)

theorem outInv_execFixedResultLands {s : State} {op : Nat} (h : s.inv = true) : outInv (execFixedResultLands op s) = true := by
  unfold execFixedResultLands
  split
  · rfl
  · split
    · rfl
    · split
      · exact State.inv_landAndFinish h
      · exact State.inv_landAndFinish h
      · exact State.inv_landAndFinish h
      · exact State.inv_finishOp (State.inv_uwrite h)
      · split
        · rfl
        · split
          · rfl
          · exact State.inv_landAndFinish h
      · rfl

theorem outInv_execQueueLand {s : State} {op : Nat} (h : s.inv = true) : outInv (execQueueLand op s) = true := by
  unfold execQueueLand
  dsimp only
  split
  · rfl
  · split
    · split
      · split
        · rfl
        · exact State.inv_landAndFinish (State.inv_landPush h)
      · split
        · rfl
        · exact State.inv_landAndFinish (State.inv_landPush h)
    · rfl

theorem outInv_execQueueRetire {s : State} {grp qn : Nat} (h : s.inv = true) : outInv (execQueueRetire grp qn s) = true := by
  unfold execQueueRetire
  split
  · rfl
  · split
    · exact State.inv_modTeam' h (fun _ => rfl)
    · rfl

theorem State.inv_fillLine {s : State} {core asid line : Nat} (h : s.inv = true) : (s.fillLine core asid line).2.inv = true := by
  unfold State.fillLine
  dsimp only
  split
  · dsimp only
    exact State.inv_xlate h
  · split
    · dsimp only
      exact State.inv_xlate h
    · exact State.inv_recall' (State.inv_xlate h)

theorem State.inv_roomInIcache {s : State} {core size n : Nat} (h : s.inv = true) : (s.roomInIcache core size n).inv = true := by
  induction n generalizing s with
  | zero => exact h
  | succ n ih =>
    unfold State.roomInIcache
    dsimp only [State.choice]
    split
    · exact h
    · split
      · exact h
      · exact ih (State.inv_update h)

theorem outInv_execIcacheFill {s : State} {core asid line : Nat} (h : s.inv = true) : outInv (execIcacheFill core asid line s) = true := by
  unfold execIcacheFill
  dsimp only
  split
  · exact State.outInv_holdOr h (State.inv_update (State.inv_roomInIcache (State.inv_update (State.inv_fillLine h))))
  · rfl

theorem outInv_execSleepWake {s : State} {grp : Nat} (h : s.inv = true) : outInv (execSleepWake grp s) = true := by
  unfold execSleepWake
  split
  · rfl
  · split
    · split
      · rfl
      · split
        · exact State.inv_finishOp (State.inv_setGroup' h)
        · exact State.inv_setGroup' h
    · rfl

theorem outInv_execNoticeDelivery {s : State} {grp : Nat} (h : s.inv = true) : outInv (execNoticeDelivery grp s) = true := by
  unfold execNoticeDelivery
  dsimp only
  split
  · rfl
  · split
    · split
      · split
        · rfl
        · exact State.inv_enterHandler h
      · split
        · rfl
        · exact State.inv_enterHandler h
    · rfl

theorem outInv_execLateMemUncorrectable {s : State} {grp : Nat} (h : s.inv = true) : outInv (execLateMemUncorrectable grp s) = true := by
  unfold execLateMemUncorrectable
  dsimp only
  split
  · rfl
  · split
    · rfl
    · exact State.inv_raiseTrap (State.inv_setGroup' h)
    · rfl

theorem State.inv_setLantern {s : State} {stack : Nat} {l : Lantern} (h : s.inv = true) : (s.setLantern stack l).inv = true := h

theorem State.inv_lanternPost {s : State} {g : Group} {pc arg : DWord} (h : s.inv = true) : (s.lanternPost g pc arg).inv = true := by
  unfold State.lanternPost
  dsimp only
  exact State.inv_setLantern h

theorem outInv_execAddressBreakpoint {s : State} {grp : Nat} (h : s.inv = true) : outInv (execAddressBreakpoint grp s) = true := by
  unfold execAddressBreakpoint
  dsimp only
  split
  · rfl
  · split
    · rfl
    · split
      · rfl
      · exact State.inv_lanternPost (State.inv_setGroup' h)

theorem State.inv_requestGroup {s : State} {uid : Nat} {r : Request} (h : s.inv = true) : (s.requestGroup uid r).inv = true := by
  unfold State.requestGroup
  exact State.inv_modGroup' h (fun _ => by
    split <;> rfl)

theorem State.inv_requestTeam {s : State} {team : Nat} {r : Request} (h : s.inv = true) : (s.requestTeam team r).inv = true := by
  unfold State.requestTeam
  dsimp only
  exact State.inv_foldl (fun _ _ => State.inv_requestGroup) (State.inv_modTeam' h (fun _ => rfl))

theorem State.inv_parkBlock {s : State} {g : Group} {index : Nat} {e : Live} (h : s.inv = true) : (s.parkBlock g index e).2.inv = true := by
  unfold State.parkBlock
  dsimp only
  split
  · split
    · exact h
    · split
      · exact State.inv_logFault' h
      · split
        · exact State.inv_logFault' (State.inv_of_ok (State.resInv_writeBlock h) ‹_›)
        · exact State.inv_of_ok (State.resInv_setValid (State.inv_of_ok (State.resInv_writeBlock h) ‹_›)) ‹_›
  · exact h

theorem State.inv_saveGroup {s : State} {g : Group} {p : SavePoint} (h : s.inv = true) : (s.saveGroup g p).inv = true := by
  unfold State.saveGroup
  dsimp only
  split
  · exact State.inv_modGroup' (by
      split
      · exact State.inv_parkBlock (by
          split
          · exact State.inv_leaveSlot h
          · exact State.inv_setGroup' h)
      · dsimp only
        split
        · exact State.inv_leaveSlot h
        · exact State.inv_setGroup' h) (fun _ => rfl)
  · split
    · exact State.inv_leaveSlot h
    · exact State.inv_setGroup' h

theorem State.inv_saveFails {s : State} {g : Group} {e : BitVec 8 × Nat} (h : s.inv = true) : (s.saveFails g e).inv = true := by
  unfold State.saveFails
  exact State.inv_postNotice (State.inv_setGroup' h)

theorem outInv_execPreemptionSave {s : State} {grp : Nat} (h : s.inv = true) : outInv (execPreemptionSave grp s) = true := by
  unfold execPreemptionSave
  split
  · rfl
  · split
    · split
      · split
        · exact State.inv_saveFails h
        · exact State.inv_saveGroup h
      · rfl
    · rfl

theorem State.inv_takeOut {s : State} {t : Team} (h : s.inv = true) : (s.takeOut t).inv = true := by
  unfold State.takeOut
  extract_lets gs z tscr bits kept reg t' record stopped u
  have hu : u.inv = true :=
    State.inv_rebuild h (State.wf_dram h) (State.wf_scratch h) (State.wf_pool h) (keyed_filter (State.keyed_groups h))
      (keyed_tabErase (State.keyed_teams h)) (State.keyed_launches h) (State.keyed_contexts h)
  split
  · exact State.inv_modDesc hu
  · exact State.inv_modDesc (State.inv_releaseHelper hu)

end Sys2Proof.Machine
end

section
/-! SUPPORT. Launches, teams and tasks, the cell instructions and the waits on a cell keep the invariant: an attempt at a wait, whether it is met or
not, and what the device does at the end of a phase or of a team. -/

namespace Sys2Proof.Machine

theorem State.inv_objectAt {s : State} {x : Issue} {va align : Nat} {need : Need} {access : BitVec 3} (h : s.inv = true) :
    (s.objectAt x va align need access).2.inv = true := by
  unfold State.objectAt
  dsimp only
  split
  · exact h
  · split
    · exact h
    · split
      · dsimp only
        exact State.inv_xlate h
      · dsimp only
        exact State.inv_xlate h

theorem State.inv_ask {s : State} {x : Issue} {va pa : Nat} {wide : Bool} {value : DWord} (h : s.inv = true) :
    (s.ask x va pa wide value).inv = true := by
  unfold State.ask
  dsimp only
  exact State.inv_holdOn (State.inv_startHeld h)

theorem State.inv_joinHorizon {s : State} {grp t : Nat} (h : s.inv = true) : (s.joinHorizon grp t).inv = true := by
  unfold State.joinHorizon
  exact State.inv_modGroup' h (fun _ => rfl)

theorem State.inv_answer {s : State} {o : Op} {v : DWord} (h : s.inv = true) : (s.answer o v).inv = true := by
  unfold State.answer
  exact State.inv_unhold (State.inv_finishOp (State.inv_landResult (State.inv_commitOp h)))

theorem State.inv_failOp {s : State} {o : Op} {t : Trap} (h : s.inv = true) : (s.failOp o t).inv = true := by
  unfold State.failOp
  dsimp only
  split
  · split
    · exact State.inv_unhold (State.inv_finishOp h)
    · exact State.inv_raiseTrap (State.inv_unhold (State.inv_finishOp h))
  · exact State.inv_unhold (State.inv_finishOp h)

theorem outInv_execLaunch {s : State} {c : Ctl} {a : Opnd} (h : s.inv = true) : outInv (execLaunch c a s) = true := by
  unfold execLaunch
  dsimp only
  exact outInv_issue h (fun _ _ h1 => by
    split
    · exact State.inv_finish h1
    · split
      · rfl
      · exact State.inv_start (State.inv_of_snd (State.inv_objectAt h1) ‹_›))

theorem outInv_execSpawn {s : State} {c : Ctl} {d a b : Opnd} (h : s.inv = true) : outInv (execSpawn c d a b s) = true := by
  unfold execSpawn
  dsimp only
  exact outInv_issue h (fun _ _ h1 => by
    split
    · exact State.inv_finish h1
    · split
      · rfl
      · split
        · rfl
        · exact State.inv_ask (State.inv_of_snd (State.inv_objectAt h1) ‹_›))

theorem outInv_execDepdec {s : State} {c : Ctl} {a : Opnd} (h : s.inv = true) : outInv (execDepdec c a s) = true := by
  unfold execDepdec
  dsimp only
  exact outInv_issue h (fun _ _ h1 => by
    split
    · exact State.inv_finish h1
    · split
      · rfl
      · exact State.inv_ask (State.inv_of_snd (State.inv_objectAt h1) ‹_›))

theorem outInv_tdoneOp {s : State} {i : Instr} (h : s.inv = true) : outInv (tdoneOp i s) = true := by
  unfold tdoneOp
  dsimp only
  exact outInv_issue h (fun _ _ h1 => by
    split
    · exact State.inv_finish h1
    · split
      · rfl
      · exact State.inv_ask (State.inv_recallWalk' h1))

theorem outInv_execTdone {s : State} {c : Ctl} (h : s.inv = true) : outInv (execTdone c s) = true := by
  unfold execTdone
  exact outInv_tdoneOp h

theorem State.inv_depdecNow {s : State} {o : Op} {asid va : Nat} (h : s.inv = true) : (s.depdecNow o asid va).inv = true := by
  unfold State.depdecNow
  dsimp only
  split
  · exact State.inv_joinHorizon (State.inv_answer (State.inv_depDec (State.inv_touch h) ‹_›))
  · exact State.inv_failOp (State.inv_touch h)
  · exact State.inv_failOp (State.inv_touch h)
  · exact State.inv_failOp (State.inv_touch h)

theorem State.inv_tdoneEnd {s : State} {o : Op} (h : s.inv = true) : (s.tdoneEnd o).inv = true := by
  unfold State.tdoneEnd
  dsimp only
  split
  · exact State.inv_answer h
  · split
    · exact State.inv_answer h
    · split
      · exact State.inv_answer h
      · exact State.inv_raiseTrap (State.inv_answer h)

theorem State.inv_tdoneNow {s : State} {o : Op} {asid task pa k : Nat} (h : s.inv = true) : (s.tdoneNow o asid task pa k).inv = true := by
  unfold State.tdoneNow
  extract_lets s₁
  have h₁ : s₁.inv = true := State.inv_touch h
  split
  · exact State.inv_failOp h₁
  · split
    · split
      · exact State.inv_failOp h₁
      · split
        · exact State.inv_answer h₁
        · split
          · exact State.inv_failOp h₁
          · refine State.inv_ite (State.inv_answer ?_) (State.inv_setOp ?_)
            all_goals exact State.inv_joinHorizon (State.inv_modDesc h₁)
    · extract_lets next s₂
      have hnext {t : State} {o : Op} (ht : t.inv = true) : (next t o).inv = true :=
        State.inv_ite (State.inv_tdoneEnd ht) (State.inv_setOp ht)
      have h₂ : s₂.inv = true := State.inv_touch h₁
      split
      · exact hnext (State.inv_logFault' h₂)
      · extract_lets s₃
        have h₃ : s₃.inv = true := State.inv_touch h₂
        split
        · exact hnext (State.inv_joinHorizon (State.inv_depDec h₃ ‹_›))
        · exact hnext h₃
        · exact hnext (State.inv_logFault' h₃)
        · exact hnext (State.inv_logFault' h₃)

theorem State.inv_spawnNow {s : State} {o : Op} {g : Group} {asid va prio : Nat} (h : s.inv = true) : (s.spawnNow o g asid va prio).inv = true := by
  unfold State.spawnNow
  dsimp only [State.choice]
  split
  · exact State.inv_failOp (State.inv_touchLaunch h)
  · exact State.inv_failOp (State.inv_touchLaunch h)
  · split
    · exact State.inv_failOp (State.inv_touchLaunch h)
    · split
      · exact State.inv_touchLaunch h
      · split
        · exact State.inv_failOp (State.inv_update (State.inv_touchLaunch h))
        · split
          · exact State.inv_failOp (State.inv_update (State.inv_touchLaunch h))
          · split
            · exact State.inv_failOp (State.inv_setLaunch' (State.inv_update (State.inv_touchLaunch h)))
            · exact State.inv_answer (by
                split
                · exact State.inv_enqueue (State.inv_of_ok (State.resInv_putDesc (State.inv_setLaunch' (State.inv_update
                    (State.inv_touchLaunch h)))) ‹_›)
                · exact State.inv_of_ok (State.resInv_putDesc (State.inv_setLaunch' (State.inv_update (State.inv_touchLaunch h)))) ‹_›)

theorem State.inv_arriveAt {s : State} {x : Issue} {b : Bool × Nat} (h : s.inv = true) : (s.arriveAt x b).inv = true := by
  unfold State.arriveAt
  exact State.inv_leaveAtTerminator (State.inv_modGroup' (State.inv_start h) (fun _ => rfl))

theorem outInv_execTbar {s : State} {c : Ctl} (h : s.inv = true) : outInv (execTbar c s) = true := by
  unfold execTbar
  exact outInv_issue h (fun _ _ => State.inv_arriveAt)

theorem outInv_execPhend {s : State} {c : Ctl} {carry : BitVec 16} (h : s.inv = true) : outInv (execPhend c carry s) = true := by
  unfold execPhend
  dsimp only
  exact outInv_issue h (fun _ _ h1 => by
    split
    · rfl
    · exact State.inv_arriveAt (by
        split
        · exact State.inv_touch h1
        · exact h1))

theorem outInv_execTbarCompletion {s : State} {team : Nat} (h : s.inv = true) : outInv (execTbarCompletion team s) = true := by
  unfold execTbarCompletion
  split
  · rfl
  · exact State.inv_rebuild h (State.wf_dram h) (State.wf_scratch h) (State.wf_pool h)
      (keyed_map (State.keyed_groups h) fun e he => by
        dsimp only
        split <;> exact he)
      (State.keyed_teams h) (State.keyed_launches h) (State.keyed_contexts h)

theorem State.inv_phaseBlocks {s : State} {l : Launch} {t : Team} {prec : Nat} {gs : List Group} (h : s.inv = true) :
    (s.phaseBlocks l t prec gs).1.inv = true := by
  induction gs generalizing s with
  | nil => exact h
  | cons g gs ih =>
    unfold State.phaseBlocks
    extract_lets index s₁ r
    have h₁ : s₁.inv = true := State.inv_touch h
    have hr : resInv r = true := by
      unfold r
      split
      · rfl
      · exact State.resInv_writeBlock h₁
    clear_value r
    cases r with
    | error e => exact ih (State.inv_logFault' h₁)
    | ok u => exact ih hr

theorem State.inv_dropTeam {s : State} {team : Nat} (h : s.inv = true) : (s.dropTeam team).inv = true := by
  unfold State.dropTeam
  extract_lets left t
  have hg : keyed (·.uid) t.groups = true := keyed_filter (State.keyed_groups h)
  have ht : t.inv = true :=
    State.inv_rebuild h (State.wf_dram h) (State.wf_scratch h) (State.wf_pool h) hg (State.keyed_teams h) (State.keyed_launches h)
      (State.keyed_contexts h)
  split
  · exact State.inv_modTeam' ht (fun _ => rfl)
  · exact State.inv_rebuild ht (State.wf_dram ht) (State.wf_scratch ht) (State.wf_pool ht) (State.keyed_groups ht)
      (keyed_tabErase (State.keyed_teams ht)) (State.keyed_launches ht) (State.keyed_contexts ht)

theorem outInv_execPhaseEnd {s : State} {team : Nat} (h : s.inv = true) : outInv (execPhaseEnd team s) = true := by
  unfold execPhaseEnd
  split
  · rfl
  · split
    · rfl
    · refine State.outInv_holdOr h ?_
      split
      · extract_lets r u₁ u₂ u₃ u₄
        have h₁ : u₁.inv = true := by
          unfold u₁
          split
          · exact State.inv_of_ok (State.resInv_vwriteAll (State.inv_phaseBlocks h)) ‹_›
          · exact State.inv_logFault' (State.inv_phaseBlocks h)
        have h₂ : u₂.inv = true := State.inv_stopSlices h₁
        have h₄ : u₄.inv = true := State.inv_modDesc (State.inv_releaseHelper (State.inv_unqueue (State.inv_dropTeam h₂)))
        split
        · exact State.inv_dropTeam (State.inv_endTeam h₂)
        · exact State.inv_ite (State.inv_makeReady h₄) h₄
      · exact State.inv_dropTeam (State.inv_endTeam h)

theorem outInv_execLaunchAcceptance {s : State} {op : Nat} (h : s.inv = true) : outInv (execLaunchAcceptance op s) = true := by
  unfold execLaunchAcceptance
  dsimp only
  split
  · rfl
  · split
    · exact State.outInv_holdOr h (by
        split
        · split
          · split
            · exact State.inv_postNotice (State.inv_finishOp (State.inv_takeLaunch h))
            · exact State.inv_logFault' (State.inv_finishOp (State.inv_takeLaunch h))
          · split
            · exact State.inv_postNotice (State.inv_finishOp (State.inv_takeLaunch h))
            · exact State.inv_logFault' (State.inv_finishOp (State.inv_takeLaunch h))
        · exact State.inv_finishOp (State.inv_takeLaunch h))
    · rfl

theorem outInv_execSubmissionTake {s : State} {asid : Nat} (h : s.inv = true) : outInv (execSubmissionTake asid s) = true := by
  unfold execSubmissionTake
  dsimp only
  split
  · rfl
  · split
    · rfl
    · exact State.outInv_holdOr h (by
        split
        · exact State.inv_logFault' (State.inv_modContext (State.inv_takeLaunch h) (fun _ => rfl))
        · exact State.inv_modContext (State.inv_takeLaunch h) (fun _ => rfl))

theorem State.optInv_takeDoorbell {s : State} {asid off : Nat} {v : Word} (h : s.inv = true) :
    ((s.takeDoorbell asid off v).all fun a => State.inv a) = true := by
  unfold State.takeDoorbell
  split
  · split
    · exact h
    · rfl
  · rfl

theorem outInv_execSqtail {s : State} {asid : Nat} {tail : BitVec 32} (h : s.inv = true) : outInv (execSqtail asid tail s) = true := by
  unfold execSqtail
  dsimp only
  split
  · split <;> exact State.inv_setContext' (State.inv_of_some (State.optInv_takeDoorbell h) ‹_›)
  · rfl

theorem outInv_execSqstatOver {s : State} {asid : Nat} {value : Word} (h : s.inv = true) : outInv (execSqstatOver asid value s) = true := by
  unfold execSqstatOver
  split
  · exact State.inv_setContext' (State.inv_of_some (State.optInv_takeDoorbell h) ‹_›)
  · rfl

theorem State.inv_clearScratch {s : State} {k n : Nat} (h : s.inv = true) : (s.clearScratch k n).inv = true :=
  State.inv_rebuild h (State.wf_dram h) (cellWf_cellClear _ _ (State.wf_scratch h)) (State.wf_pool h) (State.keyed_groups h)
    (State.keyed_teams h) (State.keyed_launches h) (State.keyed_contexts h)

theorem wf_clearColumns {n : Nat} (cols : List Nat) {m : Mem} (h : Memory.wf m = true) :
    Memory.wf (cols.foldl (fun m a => cellClear m a n) m) = true := by
  induction cols generalizing m with
  | nil => exact h
  | cons a cols ih => exact ih (cellWf_cellClear _ _ h)

theorem State.inv_giveRegion {s : State} {l : Launch} {cluster base : Nat} (h : s.inv = true) : (s.giveRegion l cluster base).inv = true := by
  unfold State.giveRegion
  split
  · exact h
  · exact State.inv_modLaunch
      (State.inv_rebuild h (State.wf_dram h) (State.wf_scratch h) (wf_clearColumns _ (State.wf_pool h)) (State.keyed_groups h)
        (State.keyed_teams h) (State.keyed_launches h) (State.keyed_contexts h))
      (fun _ => rfl)

theorem State.inv_addGroup {s : State} {g : Group} {r : Except (BitVec 8 × Nat) Group} (h : s.inv = true) : (s.addGroup g r).inv = true := by
  unfold State.addGroup
  split
  · exact State.inv_setGroup' h
  · exact State.inv_postNotice (State.inv_setGroup' h)

theorem State.inv_putBack {s : State} {v : Saved} {t : Team} {gs : List Group} {z : Nat} (h : s.inv = true) : (s.putBack v t gs z).inv = true :=
  State.inv_rebuild h (State.wf_dram h) (cellWf_cellSets _ (cellWf_cellSets _ (State.wf_scratch h))) (State.wf_pool h) (State.keyed_groups h)
    (State.keyed_teams h) (State.keyed_launches h) (State.keyed_contexts h)

theorem State.inv_startTask {s : State} {core asid task : Nat} {l : Launch} {d : Desc} {p : Placement} (h : s.inv = true) :
    (s.startTask core asid task l d p).inv = true := by
  unfold State.startTask
  extract_lets s₁ s₂ s₃ s₄ z s₅
  have h₄ : s₄.inv = true := State.inv_modDesc (State.inv_modLaunch (State.inv_giveRegion (State.inv_unqueue h)) fun _ => rfl)
  have h₅ : s₅.inv = true :=
    State.inv_foldl (fun _ _ ht => State.inv_foldl (fun _ _ => State.inv_clearScratch) (State.inv_clearScratch ht)) h₄
  split
  · exact State.inv_foldl (fun _ _ => State.inv_addGroup) (State.inv_putBack (State.inv_setTeam' (State.inv_update h₅)))
  · exact State.inv_foldl (fun _ _ => State.inv_addGroup) (State.inv_setTeam' (State.inv_update h₅))

theorem outInv_execTaskPull {s : State} {core desc : Nat} (h : s.inv = true) : outInv (execTaskPull core desc s) = true := by
  unfold execTaskPull
  dsimp only
  split
  · rfl
  · split
    · split
      · rfl
      · split
        · split
          · exact State.outInv_holdOr h (State.inv_startTask h)
          · rfl
        · rfl
    · split
      · rfl
      · split
        · split
          · exact State.outInv_holdOr h (State.inv_startTask h)
          · rfl
        · rfl

theorem outInv_execAging {s : State} {stack desc : Nat} (h : s.inv = true) : outInv (execAging stack desc s) = true := by
  unfold execAging
  split
  · rfl
  · split
    · rfl
    · exact h

theorem State.inv_touchChain {n : Nat} {s : State} {asid chunk : Nat} (h : s.inv = true) : (s.touchChain asid n chunk).inv = true := by
  induction n generalizing s chunk with
  | zero => exact h
  | succ n ih =>
    unfold State.touchChain
    dsimp only
    split
    · exact h
    · split
      · exact ih (State.inv_touch h)
      · exact State.inv_touch h

theorem State.optInv_takeChunk {s : State} {asid : Nat} (h : s.inv = true) : ((s.takeChunk asid).all fun a => a.2.inv) = true := by
  unfold State.takeChunk
  dsimp only [State.choice]
  split
  · rfl
  · split
    · rfl
    · exact State.inv_setContext' (State.inv_update h)

theorem State.inv_giveChunk {s : State} {asid chunk : Nat} (h : s.inv = true) : (s.giveChunk asid chunk).inv = true := by
  unfold State.giveChunk
  dsimp only
  exact State.inv_modContext h (fun _ => by
    split <;> rfl)

theorem State.resInv_vput {s : State} {asid va n v : Nat} (h : s.inv = true) : resInv (s.vput asid va n v) = true := by
  unfold State.vput
  split
  · exact State.inv_of_ok (State.resInv_vwrite h) ‹_›
  · rfl

theorem State.triedInv_tryPush {s : State} {w : Wait} {c : CellWords} (h : s.inv = true) : triedInv (s.tryPush w c) = true := by
  unfold State.tryPush
  extract_lets ch s₁ v
  have h₁ : s₁.inv = true := State.inv_touchChain h
  clear_value s₁
  split
  · rfl
  · split
    · split
      · split
        · rfl
        · next hv => exact State.inv_cellWritten (State.inv_homeWrite' (State.inv_of_ok (State.resInv_vput h₁) hv))
      · exact h₁
    · split
      · rfl
      · split
        · rfl
        · split
          · exact h₁
          · split
            · rfl
            · next hv =>
              split
              · rfl
              · next hn => exact State.inv_cellWritten (State.inv_of_ok (State.resInv_vput (State.inv_of_ok (State.resInv_vput h₁) hv)) hn)

theorem State.inv_roomMade {s : State} {asid va : Nat} (h : s.inv = true) : (s.roomMade asid va).inv = true := h

theorem State.triedInv_tryPop {s : State} {w : Wait} {c : CellWords} (h : s.inv = true) : triedInv (s.tryPop w c) = true := by
  unfold State.tryPop
  dsimp only
  split
  · rfl
  · split
    · split
      · rfl
      · refine State.inv_cellWritten ?_
        split
        · exact State.inv_roomMade (State.inv_homeWrite' (State.inv_touch h))
        · exact State.inv_homeWrite' (State.inv_touch h)
    · split
      · exact h
      · split
        · rfl
        · split
          · exact State.inv_touch h
          · split
            · rfl
            · rfl
            · split
              · rfl
              · next hv =>
                have hv := State.inv_of_ok (State.resInv_vput (State.inv_touch (State.inv_touch h))) hv
                refine State.inv_cellWritten ?_
                split <;> split
                · exact State.inv_roomMade (State.inv_giveChunk (State.inv_homeWrite' hv))
                · exact State.inv_roomMade hv
                · exact State.inv_giveChunk (State.inv_homeWrite' hv)
                · exact hv

theorem State.triedInv_tryWait {s : State} {w : Wait} (h : s.inv = true) : triedInv (s.tryWait w) = true := by
  unfold State.tryWait
  dsimp only
  split
  · rfl
  · split
    · split <;> exact State.inv_recall' h
    · split
      · rfl
      · split
        · split <;> exact State.inv_cell (State.inv_recall' h)
        · split
          · exact State.inv_cellWritten (State.inv_homeWrite' (State.inv_cell (State.inv_recall' h)))
          · exact State.inv_cell (State.inv_recall' h)
        · exact State.triedInv_tryPush (State.inv_cell (State.inv_recall' h))
        · exact State.triedInv_tryPop (State.inv_cell (State.inv_recall' h))

theorem State.inv_meterWait {s : State} {team : Nat} {w : Wait} (h : s.inv = true) : (s.meterWait team w).inv = true := by
  unfold State.meterWait
  exact State.inv_foldl (fun _ _ h1 => by
    split
    · exact State.inv_meterSlice h1
    · exact h1) (State.inv_meterSlice h)

theorem State.inv_onGroup {s : State} {uid : Nat} {f : State → State} (h : s.inv = true) (hf : ∀ t, t.inv = true → (f t).inv = true) :
    (s.onGroup uid f).inv = true := by
  unfold State.onGroup
  split
  · exact hf s h
  · split
    · exact h
    · split
      · exact h
      · extract_lets t g'
        have ht : t.inv = true := hf _ (State.inv_setGroup' (State.inv_setTeam' h))
        exact State.inv_rebuild ht (State.wf_dram ht) (State.wf_scratch ht) (State.wf_pool ht) (keyed_tabErase (State.keyed_groups ht))
          (keyed_tabErase (State.keyed_teams ht)) (State.keyed_launches ht) (State.keyed_contexts ht)

theorem State.inv_noticeWait {s : State} {grp : Nat} {pc : DWord} {e : BitVec 8 × Nat} (h : s.inv = true) : (s.noticeWait grp pc e).inv = true := by
  unfold State.noticeWait
  exact State.inv_onGroup h (fun _ h1 => State.inv_postNotice h1)

theorem State.inv_touchOwners {n : Nat} {s : State} {asid me a : Nat} (h : s.inv = true) : (s.touchOwners asid me n a).inv = true := by
  induction n generalizing s a with
  | zero => exact h
  | succ n ih =>
    unfold State.touchOwners
    dsimp only
    split
    · exact h
    · split
      · exact ih (State.inv_touch h)
      · exact State.inv_touch h

theorem State.inv_adopt {s : State} {t : Team} {x : Nat} (h : s.inv = true) : (s.adopt t x).inv = true := by
  unfold State.adopt
  dsimp only
  split
  · exact State.inv_requestTeam (State.inv_modDesc (by
      split
      · exact State.inv_update (State.inv_modDesc h)
      · exact State.inv_modDesc h))
  · exact h

theorem State.resInv_putUsed {s : State} {asid chunk : Nat} (h : s.inv = true) : resInv (s.putUsed asid chunk) = true := by
  unfold State.putUsed
  exact State.resInv_vput h

theorem State.resInv_putEntry {s : State} {v : Vigil} {chunk : Nat} (h : s.inv = true) : resInv (s.putEntry v chunk) = true := by
  unfold State.putEntry
  dsimp only
  split
  · rfl
  · exact State.resInv_putUsed (State.inv_of_ok (State.resInv_vwrites (State.inv_update h)) ‹_›)

theorem State.resInv_freshChunk {s : State} {asid chunk n : Nat} (h : s.inv = true) : resInv (s.freshChunk asid chunk n) = true := by
  unfold State.freshChunk
  exact State.resInv_vwriteAll h

theorem State.inv_of_putEntry {s t : State} {v : Vigil} {chunk : Nat} (h : s.inv = true) (hp : (s.putEntry v chunk).map some = .ok (some t)) :
    t.inv = true := by
  cases he : s.putEntry v chunk with
  | error e => simp [he, Except.map] at hp
  | ok u =>
    simp only [he, Except.map, Except.ok.injEq, Option.some.injEq] at hp
    exact hp ▸ State.inv_of_ok (State.resInv_putEntry h) he

/-- An entry that has gone to the overflow area leaves the invariant. -/
theorem State.inv_spillEntry {s t : State} {v : Vigil} (h : s.inv = true) (hs : s.spillEntry v = .ok (some t)) : t.inv = true := by
  unfold State.spillEntry at hs
  split at hs
  · cases hs
  · split at hs
    · cases hs
    · exact State.inv_of_putEntry (State.inv_touchChain h) hs
    · dsimp only at hs
      split at hs
      · cases hs
      · next ht =>
        have ht := State.inv_of_some (f := Prod.snd) (State.optInv_takeChunk (State.inv_touchChain h)) ht
        split at hs
        · cases hs
        · next hf =>
          have hf := State.inv_of_ok (State.resInv_freshChunk ht) hf
          split at hs
          · cases hs
          · next hv => exact State.inv_of_putEntry (State.inv_of_ok (State.resInv_vput hf) hv) hs

theorem State.inv_setSpill {s : State} {v : Vigil} (h : s.inv = true) : (s.setSpill v).inv = true := by
  unfold State.setSpill
  split
  · exact h
  · exact State.inv_homeWrite' h

/-- Adding an entry answers a device with the entry, where there is room, and the device without it. -/
theorem State.inv_addEntry {s : State} {v : Vigil} (h : s.inv = true) :
    ((s.addEntry v).1.all State.inv) = true ∧ (s.addEntry v).2.2.inv = true := by
  unfold State.addEntry
  dsimp only
  split
  · exact ⟨h, h⟩
  · split
    · next ht => exact ⟨State.inv_setSpill (State.inv_spillEntry (State.inv_update h) ht), h⟩
    · exact ⟨rfl, h⟩
    · exact ⟨rfl, h⟩

theorem State.inv_addEntry_fst {s t u : State} {v : Vigil} {e : Option (BitVec 8 × Nat)} (h : s.inv = true)
    (ha : s.addEntry v = (some t, e, u)) : t.inv = true := by
  have hv := (State.inv_addEntry (v := v) h).1
  rwa [ha] at hv

theorem State.inv_addEntry_snd {s u : State} {v : Vigil} {o : Option State} {e : Option (BitVec 8 × Nat)} (h : s.inv = true)
    (ha : s.addEntry v = (o, e, u)) : u.inv = true := by
  have hv := (State.inv_addEntry (v := v) h).2
  rwa [ha] at hv

theorem State.inv_tidyChunk {s : State} {v : Vigil} {chunk : Nat} (h : s.inv = true) : (s.tidyChunk v chunk).inv = true := by
  unfold State.tidyChunk
  dsimp only
  split
  · exact h
  · split
    · exact State.inv_noticeWait h
    · split
      · exact State.inv_of_ok (State.resInv_putUsed h) ‹_›
      · split
        · split
          · exact State.inv_giveChunk (State.inv_of_ok (State.resInv_vput (State.inv_touchChain (State.inv_of_ok
              (State.resInv_putUsed h) ‹_›))) ‹_›)
          · exact State.inv_noticeWait (State.inv_touchChain (State.inv_of_ok (State.resInv_putUsed h) ‹_›))
        · exact State.inv_touchChain (State.inv_of_ok (State.resInv_putUsed h) ‹_›)
        · exact State.inv_noticeWait (State.inv_touchChain (State.inv_of_ok (State.resInv_putUsed h) ‹_›))

theorem State.inv_removeEntry {s : State} {v : Vigil} (h : s.inv = true) : (s.removeEntry v).inv = true := by
  unfold State.removeEntry
  dsimp only
  split
  · exact h
  · exact State.inv_tidyChunk (by
      split
      · exact State.inv_of_ok (State.resInv_vwrites (State.inv_update h)) ‹_›
      · exact State.inv_noticeWait (State.inv_update h))

theorem State.inv_clearOverflow {s : State} {asid : Nat} (h : s.inv = true) : (s.clearOverflow asid).inv = true := by
  unfold State.clearOverflow
  exact State.inv_foldl (fun _ _ => State.inv_removeEntry) h

theorem State.inv_chunkLow {s : State} {asid : Nat} (h : s.inv = true) : (s.chunkLow asid).inv = true := h

theorem outInv_waitOp {s : State} {i : Instr} {op : WaitOp} {wide : Bool} {dest : Option Opnd} {off : Nat} {value : Option Nat} (h : s.inv = true) :
    outInv (waitOp i op wide dest off value s) = true := by
  unfold waitOp
  dsimp only
  exact outInv_issue h (fun _ _ h1 => by
    split
    · rfl
    · split
      · exact State.inv_leaveAtTerminator (State.inv_finish h1)
      · split
        · rfl
        · exact State.inv_holdOn (State.inv_startHeld (State.inv_modTeam' (State.inv_of_snd (State.inv_objectAt h1) ‹_›) (fun _ => rfl))))

theorem outInv_execFwait {s : State} {c : Ctl} {ty : Ty} {d a x : Opnd} (h : s.inv = true) : outInv (execFwait c ty d a x s) = true := by
  unfold execFwait
  exact outInv_waitOp h

theorem outInv_execLock {s : State} {c : Ctl} {a x : Opnd} (h : s.inv = true) : outInv (execLock c a x s) = true := by
  unfold execLock
  exact outInv_waitOp h

theorem outInv_execChpush {s : State} {c : Ctl} {ty : Ty} {a b x : Opnd} (h : s.inv = true) : outInv (execChpush c ty a b x s) = true := by
  unfold execChpush
  exact outInv_waitOp h

theorem outInv_execChpop {s : State} {c : Ctl} {ty : Ty} {d a x : Opnd} (h : s.inv = true) : outInv (execChpop c ty d a x s) = true := by
  unfold execChpop
  exact outInv_waitOp h

theorem outInv_execWaitc {s : State} {c : Ctl} {a b x : Opnd} (h : s.inv = true) : outInv (execWaitc c a b x s) = true := by
  unfold execWaitc
  exact outInv_waitOp h

theorem outInv_cellOp {s : State} {i : Instr} {need : Need} {off : Nat} {wide : Bool} {value : Option Nat} (h : s.inv = true) :
    outInv (cellOp i need off wide value s) = true := by
  unfold cellOp
  dsimp only
  exact outInv_issue h (fun _ _ h1 => by
    split
    · exact State.inv_finish h1
    · split
      · rfl
      · exact State.inv_ask (State.inv_of_snd (State.inv_objectAt h1) ‹_›))

theorem outInv_execFsetFuture {s : State} {c : Ctl} {ty : Ty} {status : BitVec 8} {a b x : Opnd} (h : s.inv = true) :
    outInv (execFsetFuture c ty status a b x s) = true := by
  unfold execFsetFuture
  exact outInv_cellOp h

theorem outInv_execFtest {s : State} {c : Ctl} {d a x : Opnd} (h : s.inv = true) : outInv (execFtest c d a x s) = true := by
  unfold execFtest
  exact outInv_cellOp h

theorem outInv_execUnlock {s : State} {c : Ctl} {a x : Opnd} (h : s.inv = true) : outInv (execUnlock c a x s) = true := by
  unfold execUnlock
  exact outInv_cellOp h

theorem State.inv_cellNow {s : State} {o : Op} {asid task va pa : Nat} {wide : Bool} {value : DWord} (h : s.inv = true) :
    (s.cellNow o asid task va pa wide value).inv = true := by
  unfold State.cellNow
  dsimp only
  have hr : (s.recall (pa / 128)).inv = true := State.inv_recall' h
  have hc : ((s.recall (pa / 128)).cell pa).2.inv = true := State.inv_cell hr
  split
  · exact State.inv_failOp hr
  · split
    · split
      · exact State.inv_failOp hc
      · exact State.inv_joinHorizon (State.inv_answer (State.inv_fillCell hc))
    · split
      · exact State.inv_failOp hc
      · exact State.inv_joinHorizon (State.inv_answer (State.inv_cellWritten (State.inv_homeWrite' hc)))
    · split
      · exact State.inv_failOp hc
      · split
        · exact State.inv_answer hc
        · split
          · exact State.inv_failOp hc
          · split
            · exact State.inv_failOp hc
            · split
              · exact State.inv_failOp hc
              · split
                · exact State.inv_failOp (State.inv_touchChain hc)
                · exact State.inv_answer (State.inv_touchChain hc)

theorem State.inv_meet {s : State} {o : Op} {op : WaitOp} {v : DWord} {time : Nat} (h : s.inv = true) : (s.meet o op v time).inv = true := by
  unfold State.meet
  dsimp only
  exact State.inv_leaveAtTerminator (State.inv_modGroup' (State.inv_answer h) (fun _ => rfl))

theorem State.inv_parkWait {s : State} {o : Op} {t : Team} {owner : Nat} {adopt : Bool} (h : s.inv = true) :
    (s.parkWait o t owner adopt).inv = true := by
  unfold State.parkWait
  dsimp only
  split
  · exact State.inv_adopt (State.inv_leaveAtTerminator (State.inv_unhold (State.inv_dropOp (State.inv_commitOp h))))
  · split
    · exact State.inv_leaveAtTerminator (State.inv_unhold (State.inv_dropOp (State.inv_commitOp h)))
    · exact State.inv_modDesc (State.inv_leaveAtTerminator (State.inv_unhold (State.inv_dropOp (State.inv_commitOp h))))

theorem State.inv_firstAttempt {s : State} {o : Op} {g : Group} {t : Team} {w : Wait} {again : Bool} (h : s.inv = true) :
    (s.firstAttempt o g t w again).inv = true := by
  have hr : triedInv ((s.meterWait t.uid w).tryWait w) = true := State.triedInv_tryWait (State.inv_meterWait h)
  unfold State.firstAttempt
  split
  · exact State.inv_failOp h
  · next hu => exact State.inv_meet (State.inv_of_met hr hu)
  · next u owner hu =>
    have hu : (u.touchOwners t.asid t.task 64 owner).inv = true := State.inv_touchOwners (State.inv_of_unmet hr hu)
    dsimp only
    split
    · exact State.inv_failOp hu
    · split
      · next hv => exact State.inv_parkWait (State.inv_addEntry_fst hu hv)
      · next hv => exact State.inv_noticeWait (State.inv_unhold (State.inv_finishOp (State.inv_addEntry_snd hu hv)))
      · next hv =>
        have hv := State.inv_addEntry_snd hu hv
        exact State.inv_setOp (State.inv_ite hv (State.inv_chunkLow hv))

theorem outInv_execFirstAttemptAnswer {s : State} {op : Nat} (h : s.inv = true) : outInv (execFirstAttemptAnswer op s) = true := by
  unfold execFirstAttemptAnswer
  split
  · rfl
  · split
    · rfl
    · split
      · rfl
      · split
        · exact State.outInv_holdOr h (by
            split
            · exact State.inv_firstAttempt h
            · rfl)
        · rfl

theorem State.inv_placeResult {s : State} {v : Vigil} {value : DWord} (h : s.inv = true) : (s.placeResult v value).inv = true := by
  unfold State.placeResult
  dsimp only
  split
  · exact h
  · split
    · split
      · exact State.inv_setGroup' h
      · split
        · exact State.inv_of_ok (State.resInv_vwriteAll (State.inv_setGroup' h)) ‹_›
        · exact State.inv_logFault' (State.inv_setGroup' h)
    · exact State.inv_setGroup' h

theorem State.inv_endForGroup {s : State} {v : Vigil} {out : Except (BitVec 8 × Nat) (DWord × Nat)} (h : s.inv = true) :
    (s.endForGroup v out).inv = true := by
  unfold State.endForGroup
  dsimp only
  split
  · dsimp only
    exact State.inv_modGroup' (State.inv_placeResult h) (fun _ => rfl)
  · dsimp only
    exact State.inv_postNotice (State.inv_modGroup' h (fun _ => rfl))

theorem State.inv_endWait {s : State} {v : Vigil} {out : Except (BitVec 8 × Nat) (DWord × Nat)} (h : s.inv = true) :
    (s.endWait v out).inv = true := by
  unfold State.endWait
  dsimp only
  split
  · split
    · exact State.inv_modDesc (State.inv_onGroup (State.inv_removeEntry h) (fun _ h1 => State.inv_endForGroup h1))
    · exact State.inv_onGroup (State.inv_removeEntry h) (fun _ h1 => State.inv_endForGroup h1)
  · exact State.inv_wakeTask (State.inv_modDesc (by
      split
      · exact State.inv_modDesc (State.inv_onGroup (State.inv_removeEntry h) (fun _ h1 => State.inv_endForGroup h1))
      · exact State.inv_onGroup (State.inv_removeEntry h) (fun _ h1 => State.inv_endForGroup h1)))

theorem State.inv_keepEntry {s : State} {v : Vigil} {owner : Nat} (h : s.inv = true) : (s.keepEntry v owner).inv = true := by
  unfold State.keepEntry
  dsimp only
  split
  · exact State.inv_modDesc (State.inv_update h)
  · exact h

theorem State.inv_retryEntry {s : State} {v : Vigil} (h : s.inv = true) : (s.retryEntry v).inv = true := by
  unfold State.retryEntry
  split
  · exact State.inv_endWait (State.inv_of_met (State.triedInv_tryWait (State.inv_meterWait h)) ‹_›)
  · exact State.inv_endWait h
  · exact State.inv_keepEntry (State.inv_of_unmet (State.triedInv_tryWait (State.inv_meterWait h)) ‹_›)

theorem outInv_vigilNow {s : State} {line : Nat} (h : s.inv = true) : outInv (vigilNow line s) = true := by
  unfold vigilNow
  dsimp only
  split
  · rfl
  · split
    · exact State.inv_recall' h
    · split
      · exact State.inv_update (State.inv_recall' h)
      · exact State.inv_retryEntry (State.inv_update (State.inv_recall' h))

theorem outInv_execVigilRetry {s : State} {line : Nat} (h : s.inv = true) : outInv (execVigilRetry line s) = true := by
  unfold execVigilRetry
  exact State.outInv_holdOr h (outInv_vigilNow h)

theorem State.inv_linkChunk {s : State} {v : Vigil} {first : Bool} (h : s.inv = true) : (s.linkChunk v first).inv = true := by
  unfold State.linkChunk
  extract_lets s₁ c ch settled s₂
  have h₁ : s₁.inv = true := State.inv_recall' h
  have h₂ : s₂.inv = true := State.inv_touchChain h₁
  have hs (t : State) (ht : t.inv = true) : (settled t).inv = true := State.inv_update ht
  split
  · exact State.inv_cellWritten (hs _ h₁)
  · split
    · exact hs _ h₁
    · split
      · exact State.inv_update (State.inv_ite (State.inv_chunkLow h₂) h₂)
      · next t ht =>
        have ht : t.inv = true := State.inv_of_some (f := Prod.snd) (State.optInv_takeChunk h₂) ht
        extract_lets done
        have hd : resInv done = true := by
          unfold done
          split
          · rfl
          · next u hu =>
            have hu := State.inv_of_ok (State.resInv_freshChunk ht) hu
            split
            · exact State.inv_homeWrite' hu
            · split
              · rfl
              · exact State.resInv_vput hu
        clear_value done
        cases done with
        | ok u => exact State.inv_cellWritten (hs _ hd)
        | error e => exact State.inv_noticeWait (hs _ h₂)

theorem outInv_execChannelOverflowDelay {s : State} {asid cell : Nat} (h : s.inv = true) : outInv
    (execChannelOverflowDelay asid cell s) = true := by
  unfold execChannelOverflowDelay
  split
  · rfl
  · split
    · rfl
    · exact State.outInv_holdOr h (State.inv_linkChunk h)

theorem outInv_execChunkPoolRetry {s : State} {asid : Nat} (h : s.inv = true) : outInv (execChunkPoolRetry asid s) = true := by
  unfold execChunkPoolRetry
  split
  · split
    · rfl
    · split
      · rfl
      · split
        · exact State.outInv_holdOr h (State.inv_firstAttempt h)
        · rfl
  · split
    · exact State.outInv_holdOr h (State.inv_linkChunk h)
    · rfl

end Sys2Proof.Machine
end

section
/-! SUPPORT. Remote accesses, what other devices send, and collectives keep the invariant. -/

namespace Sys2Proof.Machine

theorem State.inv_touchIn {s : State} {asid : Nat} {a : Context → Nat} (h : s.inv = true) : (s.touchIn asid a).inv = true := by
  unfold State.touchIn
  split
  · exact State.inv_touch h
  · exact h

theorem State.resInv_bump {s : State} {team asid va n : Nat} {fail priv : Bool} (h : s.inv = true) :
    resInv (s.bump team asid va n fail priv) = true := by
  unfold State.bump
  dsimp only
  split
  · rfl
  · split
    · rfl
    · exact State.inv_homeWrite' (State.inv_meterSlice (State.inv_recall' (State.inv_recallWalk' h)))

theorem State.inv_bumpWindow {s : State} {asid : Nat} {w : Window} {arrived fail : Bool} (h : s.inv = true) :
    (s.bumpWindow asid w arrived fail).inv = true := by
  unfold State.bumpWindow
  split
  · exact State.inv_of_ok (State.resInv_bump h) ‹_›
  · exact State.inv_logFault' h

theorem State.inv_remoteNotice {s : State} {grp : Nat} {pc : DWord} {addr : Nat} (h : s.inv = true) : (s.remoteNotice grp pc addr).inv = true := by
  unfold State.remoteNotice
  exact State.inv_postNotice h

theorem State.optInv_farRead {s : State} {team asid va n : Nat} {priv : Bool} (h : s.inv = true) :
    ((s.farRead team asid va n priv).all fun r => r.2.inv) = true := by
  unfold State.farRead
  dsimp only
  split
  · rfl
  · split
    · rfl
    · exact State.inv_homeRead (State.inv_meterSlice (State.inv_recall' (State.inv_recallWalk' h)))

theorem State.optInv_farWrite {s : State} {team asid va n v : Nat} {priv : Bool} (h : s.inv = true) :
    ((s.farWrite team asid va n v priv).all fun r => r.2.inv) = true := by
  unfold State.farWrite
  dsimp only
  split
  · rfl
  · exact State.inv_homeWrite' (State.inv_meterSlice (State.inv_recallWalk' h))

theorem State.optInv_farReads {as : List Nat} {s : State} {team asid : Nat} {priv : Bool} (h : s.inv = true) :
    ((s.farReads team asid priv as).all fun r => r.2.inv) = true := by
  induction as generalizing s with
  | nil => exact h
  | cons a as ih =>
    unfold State.farReads
    split
    · rfl
    · next r hr =>
      rw [Option.all_map]
      exact ih (State.inv_of_some (f := Prod.snd) (State.optInv_farRead h) hr)

theorem State.inv_farWrites {es : List (Nat × Word)} {s : State} {team asid : Nat} {priv : Bool} (h : s.inv = true) :
    (s.farWrites team asid priv es).2.2.inv = true := by
  induction es generalizing s with
  | nil => exact h
  | cons e es ih =>
    unfold State.farWrites
    split
    · exact h
    · next r hr => exact ih (State.inv_of_some (f := Prod.snd) (State.optInv_farWrite h) hr)

theorem outInv_transferOp {s : State} {i : Instr} {kind : RemoteKind} (h : s.inv = true) : outInv (transferOp i kind s) = true := by
  unfold transferOp
  dsimp only
  exact outInv_issue h (fun _ _ h1 => by
    split
    · exact State.inv_finish h1
    · split
      · rfl
      · split
        · rfl
        · split
          · rfl
          · split
            · rfl
            · exact State.inv_update (State.inv_start (State.inv_touchIn h1)))

theorem outInv_execPut {s : State} {c : Ctl} {d a b x : Opnd} (h : s.inv = true) : outInv (execPut c d a b x s) = true := by
  unfold execPut
  exact outInv_transferOp h

theorem outInv_execGet {s : State} {c : Ctl} {d a b x : Opnd} (h : s.inv = true) : outInv (execGet c d a b x s) = true := by
  unfold execGet
  exact outInv_transferOp h

theorem outInv_execRatom {s : State} {c : Ctl} {ty : Ty} {aop : AtomOp} {d a b x : Opnd} (h : s.inv = true) :
    outInv (execRatom c ty aop d a b x s) = true := by
  unfold execRatom
  dsimp only
  exact outInv_issue h (fun _ _ h1 => by
    split
    · exact State.inv_finish h1
    · split
      · rfl
      · split
        · split
          · rfl
          · exact State.inv_update (State.inv_start (State.inv_touchIn h1))
        · split
          · rfl
          · exact State.inv_update (State.inv_start (State.inv_touchIn h1)))

theorem outInv_execWstat {s : State} {c : Ctl} {arrived : Bool} {d a : Opnd} (h : s.inv = true) : outInv (execWstat c arrived d a s) = true := by
  unfold execWstat
  dsimp only
  exact outInv_issue h (fun _ _ h1 => by
    split
    · exact State.inv_finish h1
    · split
      · rfl
      · split
        · rfl
        · split
          · rfl
          · exact State.inv_start (State.inv_recallWalk' (State.inv_touchIn h1)))

theorem State.inv_landSoon {s : State} {o : Op} {vals : Cells 64} (h : s.inv = true) : (s.landSoon o vals).inv = true := by
  unfold State.landSoon
  dsimp only
  exact State.inv_setOp (State.inv_update h)

theorem State.inv_wstatNow {s : State} {o : Op} {pa va : Nat} (h : s.inv = true) : (s.wstatNow o pa va).inv = true := by
  unfold State.wstatNow
  extract_lets s₁ r s₂ t v
  have h₁ : s₁.inv = true := State.inv_meterSlice (State.inv_recall' h)
  split
  · have h₂ : s₂.inv = true := State.inv_finishOp (State.inv_landResult (State.inv_spoil h₁))
    split
    · exact h₂
    · exact State.inv_ite h₂ (State.inv_ite (State.inv_raiseTrap h₂) (State.inv_setGroup' h₂))
  · exact State.inv_landSoon (State.inv_homeRead h₁)

theorem State.inv_setRemote {s : State} {r : Remote} (h : s.inv = true) : (s.setRemote r).inv = true := h

theorem State.inv_dropRemote {s : State} {op : Nat} (h : s.inv = true) : (s.dropRemote op).inv = true := h

theorem State.inv_send {s : State} {m : TetherMsg} (h : s.inv = true) : (s.send m).inv = true := h

theorem State.inv_ratomFails {s : State} {op : Nat} (h : s.inv = true) : (s.ratomFails op).inv = true := by
  unfold State.ratomFails
  dsimp only
  split
  · exact h
  · exact State.inv_finishOp (State.inv_landResult (State.inv_spoil h))

theorem State.inv_bumpOwn {s : State} {r : Remote} {arrived fail : Bool} (h : s.inv = true) : (s.bumpOwn r arrived fail).inv = true := by
  unfold State.bumpOwn
  dsimp only
  split
  · exact State.inv_postNotice (State.inv_touchIn h)
  · exact State.inv_touchIn h
  · split
    · exact State.inv_of_ok (State.resInv_bump (State.inv_touchIn h)) ‹_›
    · exact State.inv_postNotice (State.inv_touchIn h)

theorem State.inv_remoteEnds {s : State} {r : Remote} (h : s.inv = true) : (s.remoteEnds r).inv = true := by
  unfold State.remoteEnds
  exact State.inv_remoteNotice (State.inv_dropRemote h)

theorem State.inv_remoteFails {s : State} {r : Remote} (h : s.inv = true) : (s.remoteFails r).inv = true := by
  unfold State.remoteFails
  dsimp only
  exact State.inv_remoteEnds (by
    split
    · exact State.inv_bumpOwn h
    · exact State.inv_ratomFails h
    · exact h)

theorem State.inv_putRead {s : State} {r : Remote} (h : s.inv = true) : (s.putRead r).inv = true := by
  unfold State.putRead
  split
  · exact State.inv_setRemote (State.inv_bumpOwn h)
  · exact State.inv_setRemote h

theorem State.inv_meterLink {s : State} {r : Remote} {n : Nat} (h : s.inv = true) : (s.meterLink r n).inv = true := by
  unfold State.meterLink
  exact State.inv_meter h

theorem State.optInv_remoteStep {s : State} {r : Remote} {own : BitVec 10} {unit : Nat} (h : s.inv = true) :
    ((s.remoteStep r own unit).all fun a => State.inv a) = true := by
  unfold State.remoteStep
  dsimp only [State.choice]
  split
  · rfl
  · split
    · split
      · rfl
      · split
        · exact State.inv_remoteFails h
        · split <;> exact State.inv_send (State.inv_meterLink (State.inv_setRemote h))
    · split
      · split
        · exact State.inv_remoteFails h
        · split
          · exact State.inv_putRead (State.inv_send h)
          · exact State.inv_setRemote (State.inv_send h)
      · split
        · exact State.inv_remoteFails h
        · split
          · split
            · exact State.inv_remoteFails (State.inv_meterLink (State.inv_update h))
            · exact State.inv_putRead (State.inv_send (State.inv_of_some (f := Prod.snd) (State.optInv_farReads (State.inv_meterLink
                (State.inv_update h))) ‹_›))
          · exact State.inv_setRemote (State.inv_send (State.inv_meterLink (State.inv_update h)))
      · rfl

theorem State.optInv_takeMsg {s : State} {src : BitVec 10} {m : TetherMsg} (h : s.inv = true) :
    ((s.takeMsg src m).all fun a => State.inv a) = true := by
  unfold State.takeMsg
  split
  · rfl
  · split
    · exact h
    · split
      · exact h
      · rfl

theorem State.inv_setInbound {s : State} {b : Inbound} (h : s.inv = true) : (s.setInbound b).inv = true := h

theorem State.inv_noteRead {s : State} {b : Inbound} (h : s.inv = true) : (s.noteRead b).inv = true := h

theorem State.inv_dropInbound {s : State} {b : Inbound} (h : s.inv = true) : (s.dropInbound b).inv = true := h

theorem outInv_writeNow {s : State} {x : Xact} (h : s.inv = true) : outInv (writeNow x s) = true := by
  unfold writeNow
  dsimp only
  split
  · rfl
  · split
    · rfl
    · next u hu =>
      have hu := State.inv_of_some (f := id) (State.optInv_takeMsg h) hu
      split
      · exact State.inv_setInbound hu
      · split
        · exact State.inv_send (State.inv_setInbound hu)
        · split
          · exact State.inv_send (State.inv_setInbound hu)
          · split
            · exact State.inv_setInbound (State.inv_farWrites hu)
            · exact State.inv_send (State.inv_setInbound (State.inv_farWrites hu))

theorem outInv_execTransactionWrite {s : State} {x : Xact} (h : s.inv = true) : outInv (execTransactionWrite x s) = true := by
  unfold execTransactionWrite
  exact State.outInv_holdOr h (outInv_writeNow h)

theorem outInv_readNow {s : State} {x : Xact} (h : s.inv = true) : outInv (readNow x s) = true := by
  unfold readNow
  dsimp only
  split
  · rfl
  · split
    · rfl
    · next u hu =>
      have hu := State.inv_of_some (f := id) (State.optInv_takeMsg h) hu
      split
      · exact State.inv_noteRead (State.inv_send hu)
      · split
        · next hq _ =>
          split at hq
          · split at hq
            · cases hq
            · have hq := State.inv_of_some (f := Prod.snd) (State.optInv_farReads hu) hq
              exact State.inv_noteRead (State.inv_ite (State.inv_bumpWindow (State.inv_send hq)) (State.inv_send hq))
          · cases hq
        · refine State.inv_noteRead (State.inv_send ?_)
          split
          · exact State.inv_bumpWindow hu
          · exact hu

theorem outInv_execTransactionRead {s : State} {x : Xact} (h : s.inv = true) : outInv (execTransactionRead x s) = true := by
  unfold execTransactionRead
  exact State.outInv_holdOr h (outInv_readNow h)

theorem outInv_readBackNow {s : State} {x : Xact} (h : s.inv = true) : outInv (readBackNow x s) = true := by
  unfold readBackNow
  split
  · split
    · rfl
    · extract_lets s₁
      have h₁ : s₁.inv = true := by
        unfold s₁
        split
        · exact State.inv_of_some (f := id) (State.optInv_takeMsg h) ‹_›
        · exact h
      split
      · exact State.inv_ite (State.inv_remoteFails h₁) (State.inv_remoteEnds h₁)
      · split
        · split
          · rfl
          · exact State.inv_setRemote (State.inv_farWrites h₁)
        · rfl
  · rfl

theorem outInv_execTransactionReadCompletion {s : State} {x : Xact} (h : s.inv = true) : outInv (execTransactionReadCompletion x s) = true := by
  unfold execTransactionReadCompletion
  exact State.outInv_holdOr h (outInv_readBackNow h)

theorem State.optInv_farAtom {s : State} {window : BitVec 12} {off : Nat} {ty : Ty} {op : AtomOp} {b cmp : DWord} (h : s.inv = true) :
    ((s.farAtom window off ty op b cmp).all fun r => r.2.inv) = true := by
  unfold State.farAtom
  dsimp only
  split
  · rfl
  · split
    · rfl
    · split
      · rfl
      · split
        · rfl
        · exact State.inv_homeAtom' (State.inv_recall' (State.inv_recallWalk' h))

theorem outInv_atomicNow {s : State} {x : Xact} {ty : Ty} {aop : AtomOp} (h : s.inv = true) : outInv (atomicNow x ty aop s) = true := by
  unfold atomicNow
  dsimp only
  split
  · rfl
  · split
    · rfl
    · split
      · exact State.inv_send (State.inv_of_some (f := Prod.snd) (State.optInv_farAtom (State.inv_of_some (State.optInv_takeMsg h) ‹_›)) ‹_›)
      · exact State.inv_send (State.inv_of_some (State.optInv_takeMsg h) ‹_›)

theorem outInv_execTransactionAtomic {s : State} {x : Xact} {ty : Ty} {aop : AtomOp} (h : s.inv = true) :
    outInv (execTransactionAtomic x ty aop s) = true := by
  unfold execTransactionAtomic
  exact State.outInv_holdOr h (outInv_atomicNow h)

theorem State.inv_ratomDone {s : State} {r : Remote} {v : Option DWord} (h : s.inv = true) : (s.ratomDone r v).inv = true := by
  unfold State.ratomDone
  dsimp only
  split
  · exact State.inv_remoteFails h
  · split
    · exact State.inv_dropRemote h
    · exact State.inv_landSoon (State.inv_dropRemote h)

theorem outInv_execTransactionAtomicCompletion {s : State} {x : Xact} (h : s.inv = true) : outInv (execTransactionAtomicCompletion x s) = true := by
  unfold execTransactionAtomicCompletion
  dsimp only
  split
  · split
    · rfl
    · split
      · exact State.inv_ratomDone (by
          split
          · exact State.inv_of_some (State.optInv_takeMsg h) ‹_›
          · exact h)
      · rfl
  · rfl

theorem State.optInv_takeFrame {s : State} {f : Frame} (h : s.inv = true) : ((s.takeFrame f).all fun a => State.inv a) = true := by
  unfold State.takeFrame
  split
  · exact State.optInv_takeMsg h
  · rfl

theorem outInv_faddNow {s : State} {f : Frame} (h : s.inv = true) : outInv (faddNow f s) = true := by
  unfold faddNow
  dsimp only
  split
  · rfl
  · split
    · rfl
    · split
      · exact State.inv_send (State.inv_of_some (f := Prod.snd) (State.optInv_farAtom (State.inv_of_some (State.optInv_takeFrame h) ‹_›)) ‹_›)
      · exact State.inv_send (State.inv_of_some (State.optInv_takeFrame h) ‹_›)

theorem outInv_execFaddFrame {s : State} {f : Frame} (h : s.inv = true) : outInv (execFaddFrame f s) = true := by
  unfold execFaddFrame
  exact State.outInv_holdOr h (outInv_faddNow h)

theorem outInv_execFaddr {s : State} {f : Frame} (h : s.inv = true) : outInv (execFaddr f s) = true := by
  unfold execFaddr
  split
  · rfl
  · split
    · rfl
    · split
      · rfl
      · exact State.inv_ratomDone (State.inv_of_some (State.optInv_takeFrame h) ‹_›)

theorem outInv_execReservedFrameDrop {s : State} {f : Frame} (h : s.inv = true) : outInv (execReservedFrameDrop f s) = true := by
  unfold execReservedFrameDrop
  split
  · rfl
  · split
    · rfl
    · exact State.inv_update (State.inv_of_some (State.optInv_takeFrame h) ‹_›)

theorem State.inv_lostRemote {s : State} {r : Remote} (h : s.inv = true) : (s.lostRemote r).inv = true := by
  unfold State.lostRemote
  dsimp only [State.choice]
  split
  · split
    · exact State.inv_remoteFails h
    · split
      · exact h
      · exact State.inv_remoteEnds (State.inv_update h)
  · split
    · exact State.inv_remoteFails h
    · split
      · exact h
      · split
        · exact State.inv_remoteEnds (State.inv_update h)
        · exact State.inv_remoteEnds (State.inv_bumpOwn (State.inv_update h))
  · exact State.inv_remoteFails h

theorem State.inv_lostInbound {s : State} {b : Inbound} (h : s.inv = true) : (s.lostInbound b).inv = true := by
  unfold State.lostInbound
  dsimp only [State.choice]
  split
  · exact h
  · split
    · split
      · split
        · exact State.inv_dropInbound (State.inv_update h)
        · exact State.inv_bumpWindow (State.inv_dropInbound (State.inv_update h))
      · split
        · exact State.inv_dropInbound h
        · exact State.inv_bumpWindow (State.inv_dropInbound h)
    · exact State.inv_dropInbound (by split <;> exact h)

theorem State.inv_arrivals {s : State} (h : s.inv = true) : s.arrivals.inv = true := by
  unfold State.arrivals
  extract_lets s₁
  have h₁ : s₁.inv = true := State.inv_foldl (fun _ _ ht => State.inv_ite (by
    extract_lets t
    have ht : t.inv = true := State.inv_dropInbound ht
    split
    · exact State.inv_bumpWindow ht
    · exact ht) ht) h
  refine State.inv_foldl (fun _ _ ht => State.inv_ite ?_ ht) h₁
  extract_lets t
  have ht : t.inv = true := State.inv_bumpOwn (State.inv_dropRemote ht)
  exact State.inv_ite (State.inv_remoteNotice ht) ht

theorem State.inv_setColl {s : State} {k : Coll} (h : s.inv = true) : (s.setColl k).inv = true := h

theorem State.inv_abortColl {s : State} {k : Coll} {tell : Bool} (h : s.inv = true) : (s.abortColl k tell).inv = true := by
  unfold State.abortColl
  dsimp only
  split
  · exact State.inv_foldl (fun _ _ h1 => by
      split
      · split
        · exact State.inv_send h1
        · exact h1
      · exact h1) (State.inv_remoteNotice (State.inv_update (State.inv_setColl (by
      split
      · exact State.inv_of_ok (State.resInv_bump h) ‹_›
      · exact State.inv_postNotice h))))
  · exact State.inv_remoteNotice (State.inv_update (State.inv_setColl (by
      split
      · exact State.inv_of_ok (State.resInv_bump h) ‹_›
      · exact State.inv_postNotice h)))

theorem State.inv_sendAll {ms : List CollMsg} {s : State} {k : Coll} {own : BitVec 10} (h : s.inv = true) :
    (s.sendAll k own ms).inv = true := by
  induction ms generalizing s k with
  | nil => exact State.inv_setColl h
  | cons m ms ih =>
    unfold State.sendAll
    split
    · exact ih h
    · split
      · exact State.inv_abortColl h
      · split
        · exact State.inv_abortColl h
        · exact ih (State.inv_send (State.inv_meter h))

theorem State.inv_advance {s : State} {uid : Nat} (h : s.inv = true) : (s.advance uid).inv = true := by
  unfold State.advance
  split
  · split
    · exact h
    · exact State.inv_sendAll h
  · exact h

theorem State.optInv_collRead {es : List Nat} {s : State} {k : Coll} (h : s.inv = true) :
    ((s.collRead k es).all fun r => r.2.inv) = true := by
  induction es generalizing s k with
  | nil => exact h
  | cons e es ih =>
    unfold State.collRead
    split
    · rfl
    · next r hr => exact ih (State.inv_of_some (f := Prod.snd) (State.optInv_farRead h) hr)

theorem State.optInv_collWrite {es : List Nat} {s : State} {k : Coll} (h : s.inv = true) :
    ((s.collWrite k es).all fun r => r.2.inv) = true := by
  induction es generalizing s k with
  | nil => exact h
  | cons e es ih =>
    unfold State.collWrite
    split
    · rfl
    · next r hr => exact ih (State.inv_of_some (f := Prod.snd) (State.optInv_farWrite h) hr)

theorem State.optInv_collStep {s : State} {k : Coll} {unit : Nat} (h : s.inv = true) : ((s.collStep k unit).all fun a => State.inv a) = true := by
  unfold State.collStep
  dsimp only
  split
  · rfl
  · split
    · exact State.inv_abortColl h
    · split
      · split
        · exact State.inv_abortColl h
        · split
          · exact State.inv_advance (State.inv_setColl (State.inv_of_some (f := Prod.snd) (State.optInv_collRead h) ‹_›))
          · exact State.inv_abortColl h
      · split
        · rfl
        · split
          · rfl
          · split
            · exact State.inv_setColl (State.inv_of_some (f := Prod.snd) (State.optInv_collWrite h) ‹_›)
            · exact State.inv_abortColl h

theorem State.inv_collOver {s : State} {k : Coll} (h : s.inv = true) : (s.collOver k).inv = true := by
  unfold State.collOver
  split
  · exact h
  · split
    · split
      · exact h
      · split
        · exact State.inv_setColl (State.inv_of_ok (State.resInv_bump h) ‹_›)
        · exact State.inv_abortColl h
    · split
      · exact State.inv_setColl h
      · exact h

theorem State.inv_collsOver {s : State} (h : s.inv = true) : s.collsOver.inv = true := by
  unfold State.collsOver
  exact State.inv_foldl (fun _ _ => State.inv_collOver) h

theorem State.inv_collFrame {s : State} {k : Coll} {f : Frame} (h : s.inv = true) : (s.collFrame k f).inv = true := by
  unfold State.collFrame
  split
  · exact h
  · split
    · exact State.inv_abortColl h
    · split
      · exact State.inv_abortColl h
      · exact State.inv_advance (State.inv_setColl h)

theorem State.inv_frameIn {s : State} {f : Frame} (h : s.inv = true) : (s.frameIn f).inv = true := by
  unfold State.frameIn
  dsimp only
  split
  · exact h
  · split
    · exact State.inv_collFrame h
    · split <;> exact h

theorem outInv_frameEvent {s : State} {kind : Nat} {f : Frame} (h : s.inv = true) : outInv (frameEvent kind f s) = true := by
  unfold frameEvent
  split
  · rfl
  · split
    · exact State.inv_frameIn (State.inv_of_some (State.optInv_takeFrame h) ‹_›)
    · rfl

theorem outInv_execPart {s : State} {f : Frame} (h : s.inv = true) : outInv (execPart f s) = true := by
  unfold execPart
  exact outInv_frameEvent h

theorem outInv_execResult {s : State} {f : Frame} (h : s.inv = true) : outInv (execResult f s) = true := by
  unfold execResult
  exact outInv_frameEvent h

theorem outInv_execBlock {s : State} {f : Frame} (h : s.inv = true) : outInv (execBlock f s) = true := by
  unfold execBlock
  exact outInv_frameEvent h

theorem outInv_execAbort {s : State} {f : Frame} (h : s.inv = true) : outInv (execAbort f s) = true := by
  unfold execAbort
  exact outInv_frameEvent h

theorem State.inv_releaseHeld {s : State} {k : Coll} (h : s.inv = true) : (s.releaseHeld k).inv = true := by
  unfold State.releaseHeld
  dsimp only
  split
  · exact h
  · exact State.inv_foldl (fun _ _ h1 => by
      split
      · exact State.inv_collFrame h1
      · exact h1) (State.inv_update h)

theorem outInv_execColl {s : State} {c : Ctl} {cop : CollOp} {cfmt : CollFmt} {cred : CollRed} {a b : Opnd} (h : s.inv = true) :
    outInv (execColl c cop cfmt cred a b s) = true := by
  unfold execColl
  dsimp only
  exact outInv_issue h (fun _ _ h1 => by
    split
    · exact State.inv_finish h1
    · split
      · rfl
      · split
        · split
          · rfl
          · split
            · rfl
            · split
              · rfl
              · split
                · rfl
                · exact State.inv_advance (State.inv_releaseHeld (State.inv_update (State.inv_start (State.inv_touchIn (State.inv_touchIn h1)))))
        · rfl)

theorem outInv_execLinkFailure {s : State} {port : Nat} (h : s.inv = true) : outInv (execLinkFailure port s) = true := by
  unfold execLinkFailure
  split
  · rfl
  · extract_lets s₁ s₂ s₃
    have h₂ : s₂.inv = true := State.inv_foldl (fun _ _ ht => State.inv_ite ht (State.inv_lostRemote ht)) (State.inv_update h)
    have h₃ : s₃.inv = true := State.inv_foldl (fun _ _ ht => State.inv_ite ht (State.inv_lostInbound ht)) h₂
    exact State.inv_foldl (fun _ _ ht => State.inv_ite (State.inv_abortColl ht) ht) h₃

end Sys2Proof.Machine
end

section
/-! SUPPORT. Control instructions, and what the host reads and writes of the device, keep the invariant. -/

namespace Sys2Proof.Machine

theorem outInv_execNop {s : State} {c : Ctl} (h : s.inv = true) : outInv (execNop c s) = true := by
  unfold execNop
  split
  · exact h
  · exact outInv_issue h (fun _ _ => State.inv_finish)

theorem outInv_execWaitf {s : State} {c : Ctl} (h : s.inv = true) : outInv (execWaitf c s) = true := by
  unfold execWaitf
  exact outInv_issue h (fun _ _ => State.inv_finish)

theorem outInv_execSleep {s : State} {c : Ctl} {a : Opnd} (h : s.inv = true) : outInv (execSleep c a s) = true := by
  unfold execSleep
  dsimp only
  exact outInv_issue h (fun _ _ h1 => by
    split
    · exact State.inv_finish h1
    · exact State.inv_modGroup' (State.inv_start h1) (fun _ => rfl))

theorem outInv_execYield {s : State} {c : Ctl} (h : s.inv = true) : outInv (execYield c s) = true := by
  unfold execYield
  exact outInv_issue h (fun _ _ => State.inv_finish)

theorem outInv_execNrel {s : State} {c : Ctl} {d : Opnd} (h : s.inv = true) : outInv (execNrel c d s) = true := by
  unfold execNrel
  dsimp only
  exact outInv_issue h (fun _ _ h1 => State.inv_modGroup' (State.inv_finish h1) (fun _ => Group.setBk_uid ..))

theorem outInv_execStrand {s : State} {c : Ctl} {entry : BitVec 16} (h : s.inv = true) : outInv (execStrand c entry s) = true := by
  unfold execStrand
  exact outInv_issue h (fun _ _ h1 => by
    split
    · rfl
    · split
      · exact State.inv_modGroup' h (fun _ => rfl)
      · exact State.inv_modGroup' (State.inv_finish (State.inv_touchEntry h1)) (fun _ => rfl))

theorem outInv_execPark {s : State} {c : Ctl} (h : s.inv = true) : outInv (execPark c s) = true := by
  unfold execPark
  exact outInv_issue h (fun _ _ h1 => State.inv_leaveAtTerminator (State.inv_finish h1))

theorem outInv_execBra {s : State} {c : Ctl} {target : BitVec 24} (h : s.inv = true) : outInv (execBra c target s) = true := by
  unfold execBra
  dsimp only
  exact outInv_issue h (fun _ _ h1 => by
    split
    · rfl
    · exact State.inv_finish h1
    · split
      · rfl
      · exact State.inv_branchTo (State.inv_finish h1))

theorem outInv_execBrc {s : State} {c : Ctl} {hint : Hint} {target : BitVec 24} {join : BitVec 20} (h : s.inv = true) :
    outInv (execBrc c hint target join s) = true := by
  unfold execBrc
  dsimp only
  exact outInv_issue h (fun _ _ h1 => by
    split
    · exact State.inv_finish h1
    · split
      · rfl
      · split
        · rfl
        · split
          · exact State.inv_branchTo (State.inv_finish h1)
          · exact State.inv_modGroup' (State.inv_finish h1) (fun _ => by
              split
              · exact Group.divide_uid ..
              · rfl))

theorem outInv_execBrx {s : State} {c : Ctl} {hint : Hint} {a b : Opnd} (h : s.inv = true) : outInv (execBrx c hint a b s) = true := by
  unfold execBrx
  dsimp only
  exact outInv_issue h (fun _ _ h1 => by
    split
    · rfl
    · split
      · rfl
      · split
        · rfl
        · exact State.inv_fan h1)

theorem outInv_execCall {s : State} {c : Ctl} {target : BitVec 24} (h : s.inv = true) : outInv (execCall c target s) = true := by
  unfold execCall
  dsimp only
  exact outInv_issue h (fun _ _ h1 => by
    split
    · rfl
    · exact State.inv_finish h1
    · split
      · rfl
      · split
        · rfl
        · exact State.inv_branchTo (State.inv_pushAll (State.inv_finish h1)))

theorem outInv_execCallx {s : State} {c : Ctl} {a : Opnd} (h : s.inv = true) : outInv (execCallx c a s) = true := by
  unfold execCallx
  dsimp only
  exact outInv_issue h (fun _ _ h1 => by
    split
    · rfl
    · split
      · rfl
      · split
        · rfl
        · exact State.inv_pushAll (State.inv_fan h1))

theorem outInv_execRet {s : State} {c : Ctl} (h : s.inv = true) : outInv (execRet c s) = true := by
  unfold execRet
  dsimp only
  exact outInv_issue h (fun _ _ h1 => by
    split
    · rfl
    · exact State.inv_finish h1
    · split
      · rfl
      · split
        · rfl
        · split
          · rfl
          · split
            · split
              · rfl
              · split
                · rfl
                · exact State.inv_branchTo (State.inv_modGroup' (State.inv_finish h1) (fun _ => rfl))
            · split
              · rfl
              · split
                · rfl
                · exact State.inv_branchTo (State.inv_modGroup' (State.inv_finish h1) (fun _ => rfl)))

theorem outInv_execJoin {s : State} {c : Ctl} (h : s.inv = true) : outInv (execJoin c s) = true := by
  unfold execJoin
  exact outInv_issue h (fun _ _ h1 => State.inv_modGroup' (State.inv_finish h1) (fun _ => by
    split
    · exact Group.arrive_uid ..
    · rfl))

theorem outInv_execExit {s : State} {c : Ctl} (h : s.inv = true) : outInv (execExit c s) = true := by
  unfold execExit
  dsimp only
  exact outInv_issue h (fun _ _ h1 => by
    split
    · exact State.inv_modGroup' (State.inv_modTeam' (State.inv_finish h1) (fun _ => rfl)) (fun _ => Group.endLanes_uid ..)
    · split
      · exact State.inv_endGroup (State.inv_modGroup' (State.inv_modTeam' (State.inv_finish h1) (fun _ => rfl)) (fun _ => Group.endLanes_uid ..))
      · exact State.inv_modGroup' (State.inv_modTeam' (State.inv_finish h1) (fun _ => rfl)) (fun _ => Group.endLanes_uid ..))

theorem State.optInv_hostPut {s : State} {old : State} {p : HostPlace} {v : Word} (h : s.inv = true) :
    ((s.hostPut old p v).all fun a => State.inv a) = true := by
  unfold State.hostPut
  dsimp only
  split
  · rfl
  · split
    · exact h
    · exact State.inv_setLantern h
  · exact State.inv_setLantern h
  · split <;> exact h
  · exact h
  · exact h
  · exact h
  · split
    · rfl
    · exact h

theorem State.optInv_hostPuts {ws : List Word} {s old : State} {off : Nat} (h : s.inv = true) :
    ((s.hostPuts old off ws).all fun a => State.inv a) = true := by
  induction ws generalizing s off with
  | nil => exact h
  | cons w ws ih =>
    unfold State.hostPuts
    split
    · rfl
    · split
      · rfl
      · exact ih (State.inv_of_some (f := id) (State.optInv_hostPut h) ‹_›)

theorem State.inv_touchWindow {s : State} {win off len : Nat} (h : s.inv = true) : (s.touchWindow win off len).inv = true := by
  unfold State.touchWindow
  dsimp only
  split
  · exact State.inv_foldl (fun _ _ => State.inv_recallWalk') h
  · exact h

theorem State.inv_dropWrite {s : State} (h : s.inv = true) : s.dropWrite.inv = true := h

theorem State.inv_hostStore {s : State} {es : List (Nat × Word)} (h : s.inv = true) : (s.hostStore es).inv = true := by
  unfold State.hostStore
  dsimp only
  exact State.inv_update (State.inv_foldl (fun _ _ h1 => State.inv_update (State.inv_homeWrite' h1)) h)

theorem State.inv_imageWrite {s : State} {off : Nat} {words : List Word} (h : s.inv = true) : (s.imageWrite off words).inv = true := by
  unfold State.imageWrite
  split
  · exact h
  · split
    · split
      · exact h
      · exact State.inv_dropWrite h
    · exact State.inv_dropWrite h

theorem outInv_execHostWrite {s : State} {hwin : BitVec 6} {offset : BitVec 48} {words : List Word} (h : s.inv = true) :
    outInv (execHostWrite hwin offset words s) = true := by
  unfold execHostWrite
  dsimp only
  split
  · rfl
  · split
    · exact State.inv_dropWrite h
    · split
      · split
        · exact State.inv_imageWrite h
        · exact State.inv_dropWrite h
      · split
        · split
          · exact State.inv_getD (State.optInv_hostPuts h) (State.inv_dropWrite h)
          · exact State.inv_dropWrite h
        · split
          · split
            · exact State.inv_holdEvent h
            · exact State.inv_hostStore (State.inv_touchWindow h)
          · exact State.inv_dropWrite h

theorem State.inv_tellHost {s : State} {m : HostMsg} (h : s.inv = true) : (s.tellHost m).inv = true := h

theorem State.inv_hostLoad {as : List Nat} {s : State} (h : s.inv = true) : (s.hostLoad as).2.inv = true := by
  induction as generalizing s with
  | nil => exact h
  | cons a as ih => exact ih (State.inv_homeRead h)

theorem outInv_execHostRead {s : State} {hwin : BitVec 6} {offset : BitVec 48} {len : BitVec 10} {tag : BitVec 8} (h : s.inv = true) :
    outInv (execHostRead hwin offset len tag s) = true := by
  unfold execHostRead
  dsimp only
  split
  · rfl
  · split
    · exact State.inv_tellHost h
    · split
      · split
        · exact h
        · exact State.inv_tellHost h
      · split
        · split
          · exact State.inv_holdEvent h
          · exact State.inv_tellHost (State.inv_hostLoad (State.inv_touchWindow h))
        · exact State.inv_tellHost h

theorem outInv_execRegisterWrite {s : State} {reg : HostReg} {value : Word} (h : s.inv = true) : outInv (execRegisterWrite reg value s) = true := by
  unfold execRegisterWrite
  dsimp only
  split
  · rfl
  · split
    · exact State.inv_dropWrite h
    · exact State.inv_getD (State.optInv_bind (fun _ => State.optInv_hostPut h)) (State.inv_dropWrite h)

end Sys2Proof.Machine
end

section
/-! SUPPORT. The firmware's commands and the handler instructions keep the invariant; the teardown of a context drops rows of each table. -/

namespace Sys2Proof.Machine

theorem State.inv_fwAnswer {s : State} {cmd seq status asid : Nat} {a0 a1 a2 : Nat} (h : s.inv = true) :
    (s.fwAnswer cmd seq status asid a0 a1 a2).inv = true := h

theorem State.inv_reply {s : State} {r : Request32} {status : Nat} {a0 a1 a2 : Nat} (h : s.inv = true) :
    (s.reply r status a0 a1 a2).inv = true := by
  unfold State.reply
  exact State.inv_fwAnswer h

theorem State.inv_fwTake {s : State} (h : s.inv = true) : s.fwTake.inv = true := h

theorem outInv_fwServe {s : State} {cmd : Nat} {ev : Instr} {k : Request32 → State → State} (h : s.inv = true)
    (hk : ∀ r t, t.inv = true → (k r t).inv = true) : outInv (fwServe cmd ev s k) = true := by
  unfold fwServe
  split
  · rfl
  · refine State.outInv_holdOr h ?_
    exact State.inv_ite (State.inv_reply (State.inv_fwTake h)) (hk _ _ (State.inv_fwTake h))

theorem State.inv_withContext {s : State} {r : Request32} {k : Context → State} (h : s.inv = true) (hk : ∀ c, (k c).inv = true) :
    (withContext r s k).inv = true := by
  unfold withContext
  split
  · exact State.inv_reply h
  · split
    · exact State.inv_reply h
    · exact hk _

theorem State.inv_fwRead {s : State} {pa n : Nat} (h : s.inv = true) : (s.fwRead pa n).2.inv = true := by
  unfold State.fwRead
  exact State.inv_foldl (fun _ _ => State.inv_recall') h

theorem State.optInv_writePool {n : Nat} {s : State} {asid base : Nat} (h : s.inv = true) :
    ((s.writePool asid base n).all fun a => State.inv a) = true := by
  induction n generalizing s base with
  | zero => exact h
  | succ n ih =>
    unfold State.writePool
    split
    · exact ih (State.inv_of_ok (State.resInv_putDesc h) ‹_›)
    · rfl

theorem outInv_execCtxCreate {s : State} (h : s.inv = true) : outInv (execCtxCreate s) = true := by
  unfold execCtxCreate
  dsimp only [State.choice]
  exact outInv_fwServe h (fun _ _ h1 => by
    split
    · exact State.inv_reply h1
    · split
      · exact State.inv_reply h1
      · split
        · exact State.inv_reply (State.inv_fwRead h1)
        · split
          · exact State.inv_reply (State.inv_fwRead h1)
          · exact State.inv_fwAnswer (State.inv_of_some (State.optInv_writePool (State.inv_setContext' (State.inv_update
              (State.inv_fwRead h1)))) ‹_›))

theorem State.inv_askOne {s : State} (h : s.inv = true) : s.askOne.inv = true := by
  unfold State.askOne
  dsimp only
  split
  · exact h
  · split <;> exact h

theorem State.inv_askHost {s : State} (h : s.inv = true) : s.askHost.inv = true := by
  unfold State.askHost
  exact State.inv_foldl (fun _ _ => State.inv_askOne) h

theorem State.inv_refuseLaunch {s : State} {asid a : Nat} (h : s.inv = true) : (s.refuseLaunch asid a).inv = true := by
  unfold State.refuseLaunch
  split <;> exact State.inv_refuse h

theorem State.inv_closeLaunch {s : State} {l : Launch} (h : s.inv = true) : (s.closeLaunch l).inv = true := by
  unfold State.closeLaunch
  split
  · exact h
  · exact State.inv_fillFuture h

theorem State.inv_teardown {s : State} {asid : Nat} (h : s.inv = true) : (s.teardown asid).inv = true := by
  unfold State.teardown
  extract_lets teams ours groups mine asked s₁ s₂ s₃ s₄ s₅ spilled kept lost
  have h₁ : s₁.inv = true := State.inv_foldl (fun _ _ => State.inv_refuseLaunch) h
  have h₃ : s₃.inv = true := State.inv_foldl (fun _ _ => State.inv_closeLaunch) (State.inv_clearOverflow h₁)
  have h₄ : s₄.inv = true := State.inv_rebuild h₃ (State.wf_dram h₃) (State.wf_scratch h₃) (State.wf_pool h₃) (State.keyed_groups h₃)
    (keyed_filter (State.keyed_teams h₃)) (State.keyed_launches h₃) (State.keyed_contexts h₃)
  have h₅ : s₅.inv = true := State.inv_foldl (fun _ _ h => by
    split
    · exact State.inv_endGroup h
    · exact h) h₄
  have hgroups := keyed_map (f := fun e => if mine e.1 then (e.1, { e.2 with place := .ended }) else e) (State.keyed_groups h₅) fun e he => by
    split <;> exact he
  exact State.inv_askHost (State.inv_rebuild h₅ (State.wf_dram h₅) (State.wf_scratch h₅) (State.wf_pool h₅) hgroups (State.keyed_teams h₅)
    (keyed_filter (State.keyed_launches h₅)) (keyed_tabErase (State.keyed_contexts h₅)))

theorem State.inv_tearAll {seqs : List Nat} {s : State} {asid : Nat} (h : s.inv = true) : (s.tearAll asid seqs).inv = true := by
  induction seqs generalizing s with
  | nil => exact h
  | cons seq seqs ih =>
    unfold State.tearAll
    split
    · exact ih (State.inv_fwAnswer (State.inv_teardown h))
    · exact ih (State.inv_fwAnswer h)

theorem outInv_execCtxTeardown {s : State} (h : s.inv = true) : outInv (execCtxTeardown s) = true := by
  unfold execCtxTeardown
  exact outInv_fwServe h (fun _ _ h1 => by
    split
    · exact State.inv_reply h1
    · split
      · exact State.inv_setContext' h1
      · exact State.inv_tearAll h1)

theorem outInv_execCtxSwitch {s : State} (h : s.inv = true) : outInv (execCtxSwitch s) = true := by
  unfold execCtxSwitch
  dsimp only
  exact outInv_fwServe h (fun _ _ h1 => State.inv_withContext h1 (fun _ => State.inv_foldl (fun _ _ => State.inv_requestTeam)
    (State.inv_setContext' (State.inv_update h1))))

theorem State.inv_switchOver {s : State} {c : Context} (h : s.inv = true) : (s.switchOver c).inv = true := by
  unfold State.switchOver
  split
  · split
    · exact h
    · exact State.inv_tearAll (State.inv_fwAnswer (State.inv_setContext' h))
  · exact h

theorem outInv_execCtxResume {s : State} (h : s.inv = true) : outInv (execCtxResume s) = true := by
  unfold execCtxResume
  dsimp only
  exact outInv_fwServe h (fun _ _ h1 => State.inv_withContext h1 (fun _ => by
    split
    · exact State.inv_reply h1
    · exact State.inv_reply (State.inv_foldl (fun _ _ => State.inv_makeReady) (State.inv_update (State.inv_setContext' h1)))))

theorem outInv_execContextSwitchDeadline {s : State} {asid : Nat} (h : s.inv = true) : outInv (execContextSwitchDeadline asid s) = true := by
  unfold execContextSwitchDeadline
  dsimp only
  split
  · rfl
  · split
    · split
      · rfl
      · exact State.inv_foldl (fun _ _ h1 => by
          split
          · exact State.inv_endGroup h1
          · exact h1) h
    · rfl

theorem outInv_execEnergySet {s : State} (h : s.inv = true) : outInv (execEnergySet s) = true := by
  unfold execEnergySet
  dsimp only
  exact outInv_fwServe h (fun _ _ h1 => State.inv_withContext h1 (fun _ => by
    split
    · exact State.inv_reply h1
    · exact State.inv_reply (State.inv_setContext' h1)))

theorem State.inv_releaseParked {s : State} {c : Context} (h : s.inv = true) : (s.releaseParked c).inv = true := by
  unfold State.releaseParked
  dsimp only
  split
  · exact h
  · exact State.inv_foldl (fun _ _ => State.inv_makeReady) h

theorem outInv_execCapRaise {s : State} (h : s.inv = true) : outInv (execCapRaise s) = true := by
  unfold execCapRaise
  dsimp only
  exact outInv_fwServe h (fun _ _ h1 => State.inv_withContext h1 (fun _ => by
    split
    · exact State.inv_reply h1
    · split
      · exact State.inv_reply h1
      · exact State.inv_reply (State.inv_releaseParked (State.inv_setLaunch' h1))))

theorem State.inv_shootdown {s : State} {asid base len : Nat} (h : s.inv = true) : (s.shootdown asid base len).inv = true := by
  unfold State.shootdown
  dsimp only
  exact State.inv_foldl (fun _ _ => State.inv_dropPin) (State.inv_update h)

theorem outInv_execShootdown {s : State} (h : s.inv = true) : outInv (execShootdown s) = true := by
  unfold execShootdown
  exact outInv_fwServe h (fun _ _ h1 => State.inv_withContext h1 (fun _ => by
    split
    · exact State.inv_reply h1
    · exact State.inv_reply (State.inv_shootdown h1)))

theorem outInv_execHash {s : State} (h : s.inv = true) : outInv (execHash s) = true := by
  unfold execHash
  exact outInv_fwServe h (fun _ _ => State.inv_reply)

theorem State.inv_fwWrite {bs : List Byte} {s : State} {pa : Nat} (h : s.inv = true) : (s.fwWrite pa bs).inv = true := by
  induction bs generalizing s pa with
  | nil => exact h
  | cons b bs ih => exact ih (State.inv_homeWrite' h)

theorem outInv_execAttest {s : State} (h : s.inv = true) : outInv (execAttest s) = true := by
  unfold execAttest
  dsimp only
  exact outInv_fwServe h (fun _ _ h1 => by
    split
    · exact State.inv_reply h1
    · exact State.inv_reply (State.inv_fwWrite h1))

theorem outInv_execFaultLog {s : State} (h : s.inv = true) : outInv (execFaultLog s) = true := by
  unfold execFaultLog
  dsimp only
  exact outInv_fwServe h (fun _ _ h1 => State.inv_withContext h1 (fun _ => by
    split
    · exact State.inv_reply h1
    · exact State.inv_reply (State.inv_modContext (State.inv_fwWrite h1) (fun _ => rfl))))

theorem outInv_execRouteSet {s : State} (h : s.inv = true) : outInv (execRouteSet s) = true := by
  unfold execRouteSet
  dsimp only
  exact outInv_fwServe h (fun _ _ h1 => by
    split
    · exact State.inv_reply h1
    · split
      · exact State.inv_reply h1
      · split
        · exact State.inv_reply (State.inv_fwRead h1)
        · exact State.inv_reply (State.inv_update (State.inv_fwRead h1)))

theorem outInv_execRouteLock {s : State} (h : s.inv = true) : outInv (execRouteLock s) = true := by
  unfold execRouteLock
  exact outInv_fwServe h (fun _ _ h1 => State.inv_reply (State.inv_update h1))

theorem State.inv_answerMap {s : State} {o : Op} {status : Nat} (h : s.inv = true) : (s.answerMap o status).inv = true := by
  unfold State.answerMap
  exact State.inv_modGroup' (State.inv_finishOp h) (fun _ => rfl)

theorem State.inv_answerReq {s : State} {uid status : Nat} (h : s.inv = true) : (s.answerReq uid status).inv = true := by
  unfold State.answerReq
  split
  · exact State.inv_answerMap h
  · exact h

theorem State.inv_mapPage {s : State} {asid va a level : Nat} {leaf : BitVec 64} (h : s.inv = true) :
    (s.mapPage asid va a level leaf).inv = true := by
  unfold State.mapPage
  dsimp only
  exact State.inv_shootdown (State.inv_homeWrite' h)

theorem State.inv_serveMap {s : State} {uid asid va : Nat} {migrate : Bool} (h : s.inv = true) : (s.serveMap uid asid va migrate).inv = true := by
  unfold State.serveMap
  dsimp only
  split
  · exact State.inv_answerReq (State.inv_recallWalk' h)
  · split
    · exact State.inv_answerReq (State.inv_recallWalk' h)
    · split
      · split
        · exact State.inv_answerReq (State.inv_mapPage (State.inv_recallWalk' h))
        · exact State.inv_answerReq (State.inv_recallWalk' h)
      · split
        · exact State.inv_answerReq (State.inv_recallWalk' h)
        · split
          · exact State.inv_answerReq (State.inv_recallWalk' h)
          · exact State.inv_askHost (State.inv_update (by
              split
              · exact State.inv_setOp (State.inv_recallWalk' h)
              · exact State.inv_recallWalk' h))
      · exact State.inv_answerReq (State.inv_recallWalk' h)

theorem outInv_execMapreqAnswer {s : State} {req : Nat} (h : s.inv = true) : outInv (execMapreqAnswer req s) = true := by
  unfold execMapreqAnswer
  dsimp only
  split
  · rfl
  · split
    · rfl
    · exact State.outInv_holdOr h (State.inv_serveMap (State.inv_update h))
  · split
    · split
      · rfl
      · exact State.outInv_holdOr h (State.inv_serveMap h)
    · rfl

theorem outInv_execMigrateAnswer {s : State} (h : s.inv = true) : outInv (execMigrateAnswer s) = true := by
  unfold execMigrateAnswer
  dsimp only
  exact outInv_fwServe h (fun _ _ h1 => State.inv_withContext h1 (fun _ => by
    split
    · exact State.inv_reply h1
    · split
      · exact State.inv_reply h1
      · exact State.inv_reply (State.inv_askHost (by
          split
          · exact State.inv_answerReq (State.inv_recallWalk' (State.inv_update h1))
          · split
            · exact State.inv_answerReq (State.inv_recallWalk' (State.inv_update h1))
            · split
              · exact State.inv_answerReq (State.inv_recallWalk' (State.inv_update h1))
              · split
                · exact State.inv_answerReq (State.inv_mapPage (State.inv_recallWalk' (State.inv_update h1)))
                · exact State.inv_answerReq (State.inv_recallWalk' (State.inv_update h1))))))

theorem outInv_execSplitSet {s : State} (h : s.inv = true) : outInv (execSplitSet s) = true := by
  unfold execSplitSet
  exact outInv_fwServe h (fun _ _ h1 => by
    split
    · exact State.inv_reply h1
    · exact h1)

theorem outInv_execSplitChange {s : State} {cluster : Nat} (h : s.inv = true) : outInv (execSplitChange cluster s) = true := by
  unfold execSplitChange
  dsimp only
  split
  · rfl
  · split
    · rfl
    · exact State.inv_fwAnswer (State.inv_foldl (fun _ _ => State.inv_trimPins) (State.inv_update h))

theorem outInv_execFirmwareEventDeliver {s : State} (h : s.inv = true) : outInv (execFirmwareEventDeliver s) = true := by
  unfold execFirmwareEventDeliver
  split
  · rfl
  · split
    · rfl
    · exact h

theorem State.inv_fwSettle {s : State} (h : s.inv = true) : s.fwSettle.inv = true := by
  unfold State.fwSettle
  dsimp only
  split
  · split
    · split
      · exact State.inv_reply (State.inv_fwTake h)
      · exact h
    · dsimp only
      split
      · exact State.inv_reply (State.inv_fwTake (State.inv_update h))
      · exact h
  · split
    · exact State.inv_reply (State.inv_fwTake h)
    · exact h

theorem State.inv_replayNow {s : State} {g : Group} {hd : Handler} (h : s.inv = true) : (s.replayNow g hd).inv = true := by
  unfold State.replayNow
  split
  · exact State.inv_tretNow h
  · exact State.inv_deliver (State.inv_resend (State.inv_setGroup' h))

theorem State.inv_exitHandler {s : State} {g : Group} (h : s.inv = true) : (s.exitHandler g).inv = true := by
  unfold State.exitHandler
  dsimp only
  split
  · exact h
  · split
    · exact h
    · split
      · exact h
      · split
        · exact State.inv_tretNow h
        · exact State.inv_replayNow h
        · exact State.inv_setGroup' h

theorem State.inv_unwindGroup {s : State} {g : Group} (h : s.inv = true) : (s.unwindGroup g).inv = true := by
  unfold State.unwindGroup
  dsimp only
  split
  · exact h
  · split
    · split
      · exact h
      · exact State.inv_leaveSlot h
    · split
      · exact State.inv_setGroup' h
      · exact h

theorem outInv_leaveHandler {s : State} {i : Instr} {e : HExit} (h : s.inv = true) : outInv (leaveHandler i e s) = true := by
  unfold leaveHandler
  dsimp only
  exact outInv_issue h (fun _ _ h1 => by
    split
    · exact State.inv_finish h1
    · split
      · exact State.inv_exitHandler (State.inv_modGroup' (State.inv_finish h1) (fun _ => rfl))
      · exact State.inv_modGroup' (State.inv_finish h1) (fun _ => rfl))

theorem outInv_execTrap {s : State} {c : Ctl} {code : BitVec 8} (h : s.inv = true) : outInv (execTrap c code s) = true := by
  unfold execTrap
  dsimp only
  exact outInv_issue h (fun _ _ h1 => by
    split
    · exact State.inv_finish h1
    · exact State.inv_trapNow h1)

theorem outInv_execTret {s : State} {c : Ctl} {skip : Bool} (h : s.inv = true) : outInv (execTret c skip s) = true := by
  unfold execTret
  exact outInv_leaveHandler h

theorem outInv_execReplay {s : State} {c : Ctl} (h : s.inv = true) : outInv (execReplay c s) = true := by
  unfold execReplay
  exact outInv_leaveHandler h

theorem outInv_execUnwind {s : State} {c : Ctl} (h : s.inv = true) : outInv (execUnwind c s) = true := by
  unfold execUnwind
  dsimp only
  exact outInv_issue h (fun _ _ h1 => by
    split
    · exact State.inv_finish h1
    · split
      · rfl
      · split
        · exact State.inv_exitHandler (State.inv_modGroup' (State.inv_finish h1) (fun _ => rfl))
        · exact State.inv_modGroup' (State.inv_finish h1) (fun _ => rfl))

theorem outInv_execEndg {s : State} {c : Ctl} (h : s.inv = true) : outInv (execEndg c s) = true := by
  unfold execEndg
  dsimp only
  exact outInv_issue h (fun _ _ h1 => by
    split
    · exact State.inv_finish h1
    · split
      · exact State.inv_endGroup (State.inv_finish h1)
      · exact State.inv_finish h1)

theorem popRecord_uid (g : Group) : (popRecord g).2.uid = g.uid := by
  unfold popRecord
  split <;> rfl

theorem outInv_execFrqpop {s : State} {c : Ctl} {d : Opnd} (h : s.inv = true) : outInv (execFrqpop c d s) = true :=
  outInv_issue h fun _ _ h1 => by
    split
    · exact State.inv_finish h1
    · exact State.inv_update (State.inv_start (State.inv_modGroup' h1 popRecord_uid))

theorem outInv_execMapreq {s : State} {c : Ctl} {a b : Opnd} (h : s.inv = true) : outInv (execMapreq c a b s) = true := by
  unfold execMapreq
  dsimp only
  exact outInv_issue h (fun _ _ h1 => by
    split
    · exact State.inv_finish h1
    · split
      · rfl
      · split
        · rfl
        · exact State.inv_modGroup' (State.inv_start h1) (fun _ => rfl))

theorem outInv_execSrd {s : State} {c : Ctl} {num : BitVec 12} {d : Opnd} (h : s.inv = true) : outInv (execSrd c num d s) = true := by
  unfold execSrd
  dsimp only
  exact outInv_issue h (fun _ _ => State.inv_later)

theorem State.inv_sysWrite {s : State} {x : Issue} {n : Nat} {v : Word} (h : s.inv = true) : (s.sysWrite x n v).inv = true := by
  unfold State.sysWrite
  split
  · exact State.inv_modGroup' h (fun _ => rfl)
  · exact State.inv_modContext h (fun _ => rfl)
  · exact State.inv_modContext h (fun _ => by
      split <;> rfl)
  · exact h

theorem outInv_execSwr {s : State} {c : Ctl} {num : BitVec 12} {a : Opnd} (h : s.inv = true) : outInv (execSwr c num a s) = true := by
  unfold execSwr
  dsimp only
  exact outInv_issue h (fun _ _ h1 => by
    split
    · exact State.inv_finish h1
    · exact State.inv_sysWrite (State.inv_finish h1))

theorem outInv_execUread {s : State} {c : Ctl} {wide : Bool} {u d : Opnd} (h : s.inv = true) : outInv (execUread c wide u d s) = true := by
  unfold execUread
  exact outInv_issue h (fun _ _ => State.inv_start)

theorem outInv_execUwrite {s : State} {c : Ctl} {wide : Bool} {u a : Opnd} (h : s.inv = true) : outInv (execUwrite c wide u a s) = true := by
  unfold execUwrite
  exact outInv_issue h (fun _ _ => State.inv_start)

theorem outInv_execBkpt {s : State} {c : Ctl} {tag : BitVec 8} (h : s.inv = true) : outInv (execBkpt c tag s) = true := by
  unfold execBkpt
  dsimp only
  exact outInv_issue h (fun _ _ h1 => by
    split
    · exact State.inv_finish h1
    · exact State.inv_lanternPost (State.inv_modGroup' (State.inv_finish h1) (fun _ => rfl)))

end Sys2Proof.Machine
end

section
/-! SUPPORT. Lane instructions, the Lantern's commands, the performance of an access, the account of energy, cold start and the transfers of the Reel
keep the invariant. -/

namespace Sys2Proof.Machine

theorem outInv_shuffle {s : State} {m : ShflMode} {ty : Ty} {i : Instr} (h : s.inv = true) : outInv (shuffle m ty i s) = true := by
  unfold shuffle
  dsimp only
  exact outInv_issue h (fun _ _ h1 => by
    split
    · split
      · rfl
      · exact State.inv_result h1
    · split
      · rfl
      · exact State.inv_result h1)

theorem outInv_execShfl {s : State} {c : Ctl} {sm : ShflMode} {ty : Ty} {d a b x : Opnd} (h : s.inv = true) :
    outInv (execShfl c sm ty d a b x s) = true := by
  unfold execShfl
  exact outInv_shuffle h

theorem outInv_execVote {s : State} {c : Ctl} {vm : VoteMode} {d a : Opnd} (h : s.inv = true) : outInv (execVote c vm d a s) = true := by
  unfold execVote
  exact outInv_issue h (fun _ _ => State.inv_result)

theorem outInv_execMatchI {s : State} {c : Ctl} {ty : Ty} {d a : Opnd} (h : s.inv = true) : outInv (execMatchI c ty d a s) = true := by
  unfold execMatchI
  dsimp only
  exact outInv_issue h (fun _ _ => State.inv_result)

theorem outInv_execPset {s : State} {c : Ctl} {pc : PsetComb} {cmp : Cmp} {ty : Ty} {d a b x : Opnd} (h : s.inv = true) :
    outInv (execPset c pc cmp ty d a b x s) = true := by
  unfold execPset
  dsimp only
  exact outInv_issue h (fun _ _ => State.inv_result)

theorem outInv_execPmovGet {s : State} {c : Ctl} {d : Opnd} (h : s.inv = true) : outInv (execPmovGet c d s) = true := by
  unfold execPmovGet
  exact outInv_issue h (fun _ _ => State.inv_result)

theorem outInv_execPmovSet {s : State} {c : Ctl} {a : Opnd} (h : s.inv = true) : outInv (execPmovSet c a s) = true := by
  unfold execPmovSet
  dsimp only
  exact outInv_issue h (fun _ _ h1 => by
    split
    · exact State.inv_finish h1
    · split
      · exact State.inv_askBanks (State.inv_start h1)
      · exact State.inv_start h1)

theorem State.inv_lanternReply {s : State} {stack : Nat} {r : Request32} {status : Nat} {a0 a1 : DWord} {data : List Word} (h : s.inv = true) :
    (s.lanternReply stack r status a0 a1 data).inv = true := by
  unfold State.lanternReply
  dsimp only
  exact State.inv_setLantern h

theorem outInv_lanternServe {s : State} {stack cmd : Nat} {k : Request32 → State → State} (h : s.inv = true)
    (hk : ∀ r t, t.inv = true → (k r t).inv = true) : outInv (lanternServe stack cmd s k) = true := by
  unfold lanternServe
  dsimp only
  split
  · rfl
  · exact State.inv_ite (State.inv_lanternReply (State.inv_setLantern h)) (hk _ _ (State.inv_setLantern h))

theorem State.inv_withTarget {s : State} {stack : Nat} {r : Request32} {k : Group → State} (h : s.inv = true)
    (hk : ∀ g, (k g).inv = true) : (withTarget stack r s k).inv = true := by
  unfold withTarget
  split
  · exact State.inv_lanternReply h
  · exact hk _

theorem State.inv_withHalted {s : State} {stack : Nat} {r : Request32} {k : Group → State} (h : s.inv = true)
    (hk : ∀ g, (k g).inv = true) : (withHalted stack r s k).inv = true :=
  State.inv_withTarget h fun _ => State.inv_ite (hk _) (State.inv_lanternReply h)

theorem outInv_execHaltCmd {s : State} {stack : Nat} (h : s.inv = true) : outInv (execHaltCmd stack s) = true := by
  unfold execHaltCmd
  dsimp only
  exact outInv_lanternServe h (fun _ _ h1 => State.inv_withTarget h1 (fun _ => by
    split
    · exact State.inv_lanternReply (State.inv_setGroup' h1)
    · exact State.inv_setLantern (State.inv_setGroup' h1)))

theorem outInv_execResumeCmd {s : State} {stack : Nat} (h : s.inv = true) : outInv (execResumeCmd stack s) = true := by
  unfold execResumeCmd
  exact outInv_lanternServe h (fun _ _ h1 => State.inv_withHalted h1 (fun _ => State.inv_lanternReply (State.inv_setGroup' h1)))

theorem outInv_execBreakCmd {s : State} {stack : Nat} (h : s.inv = true) : outInv (execBreakCmd stack s) = true := by
  unfold execBreakCmd
  dsimp only
  exact outInv_lanternServe h (fun _ _ h1 => State.inv_lanternReply (State.inv_update h1))

theorem outInv_execSplitsCmd {s : State} {stack : Nat} (h : s.inv = true) : outInv (execSplitsCmd stack s) = true := by
  unfold execSplitsCmd
  dsimp only
  exact outInv_lanternServe h (fun _ _ h1 => State.inv_withTarget h1 (fun _ => by
    split <;> exact State.inv_lanternReply h1))

theorem outInv_execStepCmd {s : State} {stack : Nat} (h : s.inv = true) : outInv (execStepCmd stack s) = true := by
  unfold execStepCmd
  dsimp only
  exact outInv_lanternServe h (fun _ _ h1 => State.inv_withHalted h1 (fun _ => by
    split
    · exact State.inv_lanternReply h1
    · exact State.inv_setLantern (State.inv_setGroup' h1)))

theorem State.optInv_lanternWrite {s : State} {grp : Nat} {u : Opnd} {high : Bool} {lane : Nat} {v : Word} (h : s.inv = true) :
    ((s.lanternWrite grp u high lane v).all fun a => State.inv a) = true := by
  unfold State.lanternWrite
  dsimp only
  split
  · rfl
  · split
    · split
      · rfl
      · exact State.inv_setGroup' h
    · split
      · split
        · rfl
        · exact State.inv_setGroup' h
      · split
        · rfl
        · exact State.inv_setGroup' h
    · split
      · rfl
      · exact State.inv_setGroup' h
    · split
      · rfl
      · split
        · exact State.inv_setGroup' h
        · exact h
    · split
      · exact State.inv_modTeam' h (fun _ => rfl)
      · split
        · exact State.inv_setGroup' h
        · rfl
    · rfl

theorem State.inv_debugEntry {s : State} {g : Group} (h : s.inv = true) : (s.debugEntry g).inv = true := by
  unfold State.debugEntry
  dsimp only
  split
  · split
    · exact h
    · exact State.inv_setGroup' h
  · split
    · exact h
    · exact State.inv_setGroup' h

theorem State.inv_lanternAccess {s : State} {stack : Nat} {r : Request32} {g : Group} (h : s.inv = true) :
    (s.lanternAccess stack r g).inv = true := by
  unfold State.lanternAccess
  dsimp only
  exact State.inv_setLantern (State.inv_debugEntry h)

theorem outInv_execReadCmd {s : State} {stack : Nat} (h : s.inv = true) : outInv (execReadCmd stack s) = true := by
  unfold execReadCmd
  exact outInv_lanternServe h (fun _ _ h1 => State.inv_withHalted h1 (fun _ => by
    split
    · exact State.inv_lanternAccess h1
    · exact State.inv_lanternReply h1))

theorem State.optInv_lanternWrites {es : List (Nat × Nat)} {s : State} {r : Request32} {grp : Nat} (h : s.inv = true) :
    ((s.lanternWrites r grp es).all fun a => State.inv a) = true := by
  induction es generalizing s with
  | nil => exact h
  | cons e es ih =>
    unfold State.lanternWrites
    split
    · exact ih (State.inv_of_some (f := id) (State.optInv_lanternWrite h) ‹_›)
    · rfl

theorem State.optInv_lanternStores {s : State} {r : Request32} {g : Group} (h : s.inv = true) :
    ((s.lanternStores r g).all fun a => State.inv a) = true := by
  unfold State.lanternStores
  dsimp only
  split
  · rfl
  · exact State.optInv_lanternWrites h

theorem outInv_execWriteCmd {s : State} {stack : Nat} (h : s.inv = true) : outInv (execWriteCmd stack s) = true := by
  unfold execWriteCmd
  exact outInv_lanternServe h (fun _ _ h1 => State.inv_withHalted h1 (fun _ => by
    split
    · exact State.inv_lanternAccess h1
    · exact State.inv_lanternReply h1))

theorem Group.debugExit_uid (g : Group) : g.debugExit.uid = g.uid := by
  unfold Group.debugExit
  split <;> rfl

theorem State.optInv_accessDone {s : State} {grp : Nat} {r : Request32} (h : s.inv = true) :
    ((s.accessDone grp r).all fun r => r.2.2.inv) = true := by
  unfold State.accessDone
  dsimp only
  split
  · exact h
  · split
    · exact h
    · next g _ _ =>
      have hd : (s.debugEntry g).inv = true := State.inv_debugEntry h
      split
      · rfl
      · rw [if_neg Bool.false_ne_true]
        split
        · rfl
        · split
          · split <;> exact State.inv_modGroup' hd Group.debugExit_uid
          · split
            · exact State.inv_modGroup' (State.inv_of_some (f := id) (State.optInv_lanternStores hd) ‹_›) Group.debugExit_uid
            · exact State.inv_modGroup' hd Group.debugExit_uid

theorem outInv_execLanternEvent {s : State} {stack : Nat} (h : s.inv = true) : outInv (execLanternEvent stack s) = true := by
  unfold execLanternEvent
  dsimp only
  split
  · rfl
  · split
    · rfl
    · exact State.inv_setLantern h

theorem State.inv_haltAgain {s : State} {g : Group} (h : s.inv = true) : (s.haltAgain g).inv = true := by
  unfold State.haltAgain
  split
  · split
    · exact h
    · exact State.inv_setGroup' h
  · split
    · exact h
    · exact State.inv_setGroup' h

theorem State.optInv_waitDone {s : State} {w : LanternWait} (h : s.inv = true) : ((s.waitDone w).all fun r => r.2.inv) = true := by
  unfold State.waitDone
  split
  · rw [Option.all_map]
    exact State.optInv_accessDone h
  · rw [Option.all_map]
    exact (Option.all_eq_true ..).2 fun _ _ => h

theorem State.inv_lanternSettle {s : State} {stack : Nat} (h : s.inv = true) : (s.lanternSettle stack).inv = true := by
  unfold State.lanternSettle
  extract_lets l₀ q l t l' u cmd
  have ht : t.inv = true := by
    unfold t q
    split
    · exact h
    · split
      · exact h
      · next hw =>
        have hw := State.inv_of_some (f := Prod.snd) (State.optInv_waitDone h) hw
        exact hw
  clear_value t
  have hu : u.inv = true := State.inv_ite ht (State.inv_setLantern ht)
  exact State.inv_ite (State.inv_lanternReply (State.inv_setLantern hu)) hu

theorem State.inv_objectNow {s : State} {o : Op} {g : Group} {va pa : Nat} {wide : Bool} {value : DWord} (h : s.inv = true) :
    (s.objectNow o g va pa wide value).inv = true := by
  unfold State.objectNow
  dsimp only
  split
  · exact State.inv_spawnNow (State.inv_meterSlice h)
  · exact State.inv_depdecNow (State.inv_meterSlice h)
  · exact State.inv_tdoneNow (State.inv_meterSlice h)
  · exact State.inv_cellNow (State.inv_meterSlice h)

theorem State.optInv_engineStep {s : State} {uid unit : Nat} (h : s.inv = true) :
    ((s.engineStep uid unit).all fun a => State.inv a) = true := by
  unfold State.engineStep
  split
  · rw [Option.all_map]
    exact (Option.all_eq_true ..).2 fun _ _ => State.inv_moveWord h
  · exact State.optInv_bind fun _ => State.optInv_remoteStep h
  · exact State.optInv_collStep h
  · rfl

theorem outInv_performNow {s : State} {op unit : Nat} (h : s.inv = true) : outInv (performNow op unit s) = true := by
  unfold performNow
  split
  · exact State.inv_of_some (State.optInv_engineStep h) ‹_›
  · split
    · rfl
    · split
      · split
        · rfl
        · split
          · split
            · exact State.inv_performAll h
            · rfl
          · split
            · exact State.inv_performUnit h
            · rfl
      · split
        · exact State.inv_objectNow h
        · rfl
      · split
        · exact State.inv_of_some (State.optInv_matrixUnit h) ‹_›
        · rfl
      · rfl

theorem outInv_execAccessPerform {s : State} {op unit : Nat} (h : s.inv = true) : outInv (execAccessPerform op unit s) = true := by
  unfold execAccessPerform
  exact State.outInv_holdOr h (outInv_performNow h)

theorem outInv_execAccessComplete {s : State} {op : Nat} (h : s.inv = true) : outInv (execAccessComplete op s) = true := by
  unfold execAccessComplete
  dsimp only
  split
  · rfl
  · split
    · split
      · split
        · exact State.inv_unhold (State.inv_dropCopies (State.inv_setOp h))
        · rfl
      · split
        · exact State.inv_completeAccess h
        · rfl
    · split
      · rfl
      · exact State.inv_completeHeld (by
          split
          · exact State.inv_modGroup' h (fun _ => rfl)
          · exact h)
    · exact State.inv_finishOp (State.inv_rangeDone h)
    · exact State.outInv_holdOr h (by
        split
        · exact State.inv_wstatNow h
        · rfl)
    · split
      · exact State.inv_completeHeld h
      · rfl
    · split
      · exact State.inv_finishOp h
      · rfl
    · rfl

theorem outInv_execAccountTick {s : State} (h : s.inv = true) : outInv (execAccountTick s) = true := by
  unfold execAccountTick
  split
  · rfl
  · extract_lets at_ n t u
    have ht : t.inv = true :=
      State.inv_rebuild h (State.wf_dram h) (State.wf_scratch h) (State.wf_pool h) (State.keyed_groups h) (State.keyed_teams h)
        (keyed_map (State.keyed_launches h) fun _ he => he) (keyed_map (State.keyed_contexts h) fun _ he => he)
    have hu : u.inv = true := State.inv_foldl (fun _ _ => State.inv_requestTeam) ht
    exact State.inv_foldl (fun _ _ => State.inv_releaseParked) hu

theorem State.inv_setClock {s : State} {core : Nat} {f : Clock → Clock} (h : s.inv = true) : (s.setClock core f).inv = true := h

theorem outInv_execCurrentLimit {s : State} {x : RailStretch} (h : s.inv = true) : outInv (execCurrentLimit x s) = true := by
  unfold execCurrentLimit
  split
  · rfl
  · exact State.inv_foldl (fun _ _ => State.inv_setClock) h

theorem outInv_execThermalTrip {s : State} (h : s.inv = true) : outInv (execThermalTrip s) = true := by
  unfold execThermalTrip
  split
  · rfl
  · exact h

theorem outInv_execDroop {s : State} {x : CoreStretch} (h : s.inv = true) : outInv (execDroop x s) = true := by
  unfold execDroop
  split
  · rfl
  · exact State.inv_setClock h

theorem outInv_execTrackingLoop {s : State} {x : CoreRate} (h : s.inv = true) : outInv (execTrackingLoop x s) = true := by
  unfold execTrackingLoop
  split
  · rfl
  · exact State.inv_setClock h

theorem State.inv_writeCaps {s : State} (h : s.inv = true) : s.writeCaps.inv = true := by
  unfold State.writeCaps
  split
  · exact State.inv_rebuild h (wf_writeBytes _ _ (State.wf_dram h)) (State.wf_scratch h) (State.wf_pool h) (State.keyed_groups h)
      (State.keyed_teams h) (State.keyed_launches h) (State.keyed_contexts h)
  · exact h

theorem State.inv_verifyImage {s : State} {image : List Byte} (h : s.inv = true) : (s.verifyImage image).inv = true := by
  unfold State.verifyImage
  split <;> exact h

theorem outInv_execPowerGood {s : State} {tjmin : BitVec 8} (h : s.inv = true) : outInv (execPowerGood tjmin s) = true := by
  unfold execPowerGood
  dsimp only
  split
  · exact State.inv_rebuild h rfl rfl rfl rfl rfl rfl rfl
  · split
    · exact h
    · split <;> exact h
    · exact h
    · exact State.inv_verifyImage (State.inv_update h)
    · exact h
    · exact State.inv_update (State.inv_writeCaps (State.inv_update h))
    · rfl

theorem outInv_execHostImageOffer {s : State} {image : List Byte} (h : s.inv = true) : outInv (execHostImageOffer image s) = true := by
  unfold execHostImageOffer
  split
  · rfl
  · exact State.inv_verifyImage h

theorem State.inv_beginMaint {s : State} {column : Nat} {repair : Bool} (h : s.inv = true) : (s.beginMaint column repair).inv = true := h

theorem State.inv_endMaint {s : State} {m : Maint} (h : s.inv = true) : (s.endMaint m).inv = true := h

theorem outInv_execChannelRetrain {s : State} {column : Nat} (h : s.inv = true) : outInv (execChannelRetrain column s) = true := by
  unfold execChannelRetrain
  split
  · rfl
  · split
    · exact State.inv_endMaint h
    · split
      · rfl
      · exact State.inv_beginMaint h

theorem outInv_execBusRepair {s : State} {column : Nat} (h : s.inv = true) : outInv (execBusRepair column s) = true := by
  unfold execBusRepair
  split
  · rfl
  · split
    · exact State.inv_endMaint h
    · split
      · rfl
      · exact State.inv_beginMaint h

theorem outInv_execQinit {s : State} {c : Ctl} {qn : BitVec 4} {a b : Opnd} (h : s.inv = true) : outInv (execQinit c qn a b s) = true := by
  unfold execQinit
  dsimp only
  exact outInv_issue h (fun _ _ h1 => by
    split
    · exact State.inv_finish h1
    · split
      · exact State.inv_finish h1
      · split
        · rfl
        · split
          · rfl
          · exact State.inv_laterNone (State.inv_modTeam' h1 (fun _ => rfl)))

theorem outInv_execQpush {s : State} {c : Ctl} {qn : BitVec 4} {a : Opnd} (h : s.inv = true) : outInv (execQpush c qn a s) = true := by
  unfold execQpush
  dsimp only
  exact outInv_issue h (fun _ _ h1 => by
    split
    · exact State.inv_finish h1
    · split
      · exact State.inv_finish h1
      · split
        · rfl
        · exact State.inv_askBanks (State.inv_start (State.inv_modTeam' h1 (fun _ => rfl))))

theorem outInv_execQpop {s : State} {c : Ctl} {qn : BitVec 4} {d : Opnd} (h : s.inv = true) : outInv (execQpop c qn d s) = true := by
  unfold execQpop
  dsimp only
  exact outInv_issue h (fun _ _ h1 => by
    split
    · exact State.inv_finish h1
    · split
      · exact State.inv_finish h1
      · split
        · rfl
        · split
          · rfl
          · exact State.inv_askBanks (State.inv_start (State.inv_modTeam' h1 (fun _ => rfl))))

theorem outInv_execQstat {s : State} {c : Ctl} {qn : BitVec 4} {d : Opnd} (h : s.inv = true) : outInv (execQstat c qn d s) = true := by
  unfold execQstat
  dsimp only
  exact outInv_issue h (fun _ _ => State.inv_later)

theorem outInv_execCopy {s : State} {c : Ctl} {sp dsp : Space} {kind : CopyKind} {qn : BitVec 4} {d a b x : Opnd} (h : s.inv = true) :
    outInv (execCopy c sp dsp kind qn d a b x s) = true := by
  unfold execCopy
  dsimp only
  exact outInv_issue h (fun _ _ h1 => by
    split
    · rfl
    · rfl
    · exact State.inv_finish h1
    · split
      · exact State.inv_finish h1
      · split
        · rfl
        · rfl
        · split
          · rfl
          · exact State.inv_update (by
              split
              · exact State.inv_askBanks (State.inv_start (by
                  split
                  · exact State.inv_modTeam' h1 (fun _ => rfl)
                  · exact h1))
              · exact State.inv_start (by
                  split
                  · exact State.inv_modTeam' h1 (fun _ => rfl)
                  · exact h1)))

theorem outInv_execCopyTransferDone {s : State} {op : Nat} (h : s.inv = true) : outInv (execCopyTransferDone op s) = true := by
  unfold execCopyTransferDone
  split
  · rfl
  · split
    · exact State.inv_endThread h
    · rfl

theorem State.inv_startSlice {s : State} {x : Issue} {l : Launch} {ctx qn slice : Nat} (h : s.inv = true) :
    (s.startSlice x l ctx qn slice).2.inv = true := by
  unfold State.startSlice
  dsimp only
  split
  · exact State.inv_sliceFault (State.inv_setReel (State.inv_touch h))
  · exact State.inv_setReel (State.inv_touch h)

theorem outInv_execReel {s : State} {c : Ctl} {qn : BitVec 4} {slice : BitVec 12} {d : Opnd} (h : s.inv = true) :
    outInv (execReel c qn slice d s) = true := by
  unfold execReel
  dsimp only [State.choice]
  exact outInv_issue h (fun _ _ h1 => by
    split
    · rfl
    · exact State.inv_finish h1
    · split
      · exact State.inv_finish h1
      · split
        · exact State.inv_askBanks (State.inv_start (State.inv_startSlice (State.inv_update h1)))
        · exact State.inv_start (State.inv_startSlice (State.inv_update h1)))

theorem outInv_execReelw {s : State} {c : Ctl} {stop : Bool} {a : Opnd} (h : s.inv = true) : outInv (execReelw c stop a s) = true := by
  unfold execReelw
  dsimp only
  exact outInv_issue h (fun _ _ h1 => by
    split
    · exact State.inv_finish h1
    · split
      · rfl
      · split
        · exact State.inv_finish h1
        · split
          · exact State.inv_finish h1
          · split
            · exact State.inv_askBanks (State.inv_start (by
                split
                · exact State.inv_setReel h1
                · exact h1))
            · exact State.inv_start (by
                split
                · exact State.inv_setReel h1
                · exact h1))

theorem outInv_sliceOnly {s : State} {i : Instr} {k : Nat → Nat → ReelCtx → State → State} (h : s.inv = true)
    (hk : ∀ core ctx r, (k core ctx r s).inv = true) : outInv (sliceOnly i k s) = true := by
  unfold sliceOnly
  split
  · split
    · exact hk _ _ _
    · rfl
  · exact outInv_issue h fun _ _ h1 => State.inv_finish h1

theorem outInv_execAloop {s : State} {c : Ctl} {d a : Opnd} (h : s.inv = true) : outInv (execAloop c d a s) = true := by
  unfold execAloop
  dsimp only
  exact outInv_sliceOnly h (fun _ _ _ => by
    split
    · exact State.inv_sliceFault h
    · split
      · exact State.inv_sliceFault (State.inv_touch h)
      · exact State.inv_setReel (State.inv_touch h))

theorem outInv_execAend {s : State} {c : Ctl} (h : s.inv = true) : outInv (execAend c s) = true := by
  unfold execAend
  dsimp only
  exact outInv_sliceOnly h (fun _ _ _ => by
    split <;> exact State.inv_setReel h)

theorem outInv_execAqput {s : State} {c : Ctl} {qn : BitVec 4} {sp : Space} {a b : Opnd} (h : s.inv = true) :
    outInv (execAqput c qn sp a b s) = true := by
  unfold execAqput
  dsimp only
  exact outInv_sliceOnly h (fun _ _ _ => by
    split
    · exact State.inv_setReel h
    · split
      · exact State.inv_sliceFault h
      · split
        · exact State.inv_landPush (State.inv_sliceFault (State.inv_setTeam' (State.inv_update h)))
        · exact State.inv_update (State.inv_setTeam' (State.inv_update h)))

theorem outInv_execReelExecute {s : State} {core ctx : Nat} (h : s.inv = true) : outInv (execReelExecute core ctx s) = true := by
  unfold execReelExecute
  dsimp only
  split
  · rfl
  · split
    · rfl
    · split
      · exact State.inv_sliceFault (State.inv_update (State.inv_setReel (State.inv_update h)))
      · exact State.inv_update (State.inv_setReel (State.inv_update h))

end Sys2Proof.Machine
end

section
/-! SUPPORT. An arithmetic instruction lands a result and does nothing else, so it keeps the invariant. -/

namespace Sys2Proof.Machine

theorem outInv_execMov {s : State} {c : Ctl} {ty : Ty} {d a : Opnd} (h : s.inv = true) : outInv (execMov c ty d a s) = true := outInv_result1 h

theorem outInv_execMovw {s : State} {c : Ctl} {d a : Opnd} (h : s.inv = true) : outInv (execMovw c d a s) = true := outInv_result1 h

theorem outInv_execMovi {s : State} {c : Ctl} {m : MoviTy} {d : Opnd} {imm : BitVec 32} (h : s.inv = true) :
    outInv (execMovi c m d imm s) = true := outInv_resultOf h

theorem outInv_execSel {s : State} {c : Ctl} {ty : Ty} {d a b x : Opnd} (h : s.inv = true) : outInv (execSel c ty d a b x s) = true :=
    outInv_result3 h

theorem outInv_execIadd {s : State} {c : Ctl} {ty : Ty} {sat : Bool} {d a b : Opnd} (h : s.inv = true) :
    outInv (execIadd c ty sat d a b s) = true := outInv_result2 h

theorem outInv_execIaddImm {s : State} {c : Ctl} {ty : Ty} {sat : Bool} {d a : Opnd} {imm : BitVec 32} (h : s.inv = true) :
    outInv (execIaddImm c ty sat d a imm s) = true := outInv_result1 h

theorem outInv_execIsub {s : State} {c : Ctl} {ty : Ty} {sat : Bool} {d a b : Opnd} (h : s.inv = true) :
    outInv (execIsub c ty sat d a b s) = true := outInv_result2 h

theorem outInv_execIsubImm {s : State} {c : Ctl} {ty : Ty} {sat : Bool} {d a : Opnd} {imm : BitVec 32} (h : s.inv = true) :
    outInv (execIsubImm c ty sat d a imm s) = true := outInv_result1 h

theorem outInv_execIadd64 {s : State} {c : Ctl} {ty : Ty} {sat : Bool} {d a b : Opnd} (h : s.inv = true) :
    outInv (execIadd64 c ty sat d a b s) = true := outInv_result2 h

theorem outInv_execIaddc {s : State} {c : Ctl} {d a b x : Opnd} (h : s.inv = true) : outInv (execIaddc c d a b x s) = true := by
  unfold execIaddc
  dsimp only
  exact outInv_issue h (fun _ _ => State.inv_result)

theorem outInv_execImul {s : State} {c : Ctl} {ty : Ty} {d a b : Opnd} (h : s.inv = true) : outInv (execImul c ty d a b s) = true :=
    outInv_result2 h

theorem outInv_execImulh {s : State} {c : Ctl} {ty : Ty} {d a b : Opnd} (h : s.inv = true) : outInv (execImulh c ty d a b s) = true :=
    outInv_result2 h

theorem outInv_execImulImm {s : State} {c : Ctl} {ty : Ty} {d a : Opnd} {imm : BitVec 32} (h : s.inv = true) :
    outInv (execImulImm c ty d a imm s) = true := outInv_result1 h

theorem outInv_execImad {s : State} {c : Ctl} {ty : Ty} {d a b x : Opnd} (h : s.inv = true) : outInv (execImad c ty d a b x s) = true :=
    outInv_result3 h

theorem outInv_execImadw {s : State} {c : Ctl} {ty : Ty} {d a b x : Opnd} (h : s.inv = true) : outInv (execImadw c ty d a b x s) = true :=
    outInv_result3 h

theorem outInv_execIdiv {s : State} {c : Ctl} {ty : Ty} {d a b : Opnd} (h : s.inv = true) : outInv (execIdiv c ty d a b s) = true :=
    outInv_result2 h

theorem outInv_execIrem {s : State} {c : Ctl} {ty : Ty} {d a b : Opnd} (h : s.inv = true) : outInv (execIrem c ty d a b s) = true :=
    outInv_result2 h

theorem outInv_execImin {s : State} {c : Ctl} {ty : Ty} {d a b : Opnd} (h : s.inv = true) : outInv (execImin c ty d a b s) = true :=
    outInv_result2 h

theorem outInv_execImax {s : State} {c : Ctl} {ty : Ty} {d a b : Opnd} (h : s.inv = true) : outInv (execImax c ty d a b s) = true :=
    outInv_result2 h

theorem outInv_execIabs {s : State} {c : Ctl} {sat : Bool} {d a : Opnd} (h : s.inv = true) : outInv (execIabs c sat d a s) = true :=
    outInv_result1 h

theorem outInv_execIneg {s : State} {c : Ctl} {sat : Bool} {d a : Opnd} (h : s.inv = true) : outInv (execIneg c sat d a s) = true :=
    outInv_result1 h

theorem outInv_execLea {s : State} {c : Ctl} {ty : Ty} {sb : Bool} {d a b x : Opnd} (h : s.inv = true) :
    outInv (execLea c ty sb d a b x s) = true := outInv_result3 h

theorem outInv_execAnd {s : State} {c : Ctl} {ty : Ty} {d a b : Opnd} (h : s.inv = true) : outInv (execAnd c ty d a b s) = true := outInv_result2 h

theorem outInv_execAndImm {s : State} {c : Ctl} {d a : Opnd} {imm : BitVec 32} (h : s.inv = true) : outInv (execAndImm c d a imm s) = true :=
    outInv_result1 h

theorem outInv_execOr {s : State} {c : Ctl} {ty : Ty} {d a b : Opnd} (h : s.inv = true) : outInv (execOr c ty d a b s) = true := outInv_result2 h

theorem outInv_execOrImm {s : State} {c : Ctl} {d a : Opnd} {imm : BitVec 32} (h : s.inv = true) : outInv (execOrImm c d a imm s) = true :=
    outInv_result1 h

theorem outInv_execXor {s : State} {c : Ctl} {ty : Ty} {d a b : Opnd} (h : s.inv = true) : outInv (execXor c ty d a b s) = true := outInv_result2 h

theorem outInv_execXorImm {s : State} {c : Ctl} {d a : Opnd} {imm : BitVec 32} (h : s.inv = true) : outInv (execXorImm c d a imm s) = true :=
    outInv_result1 h

theorem outInv_execAndn {s : State} {c : Ctl} {ty : Ty} {d a b : Opnd} (h : s.inv = true) : outInv (execAndn c ty d a b s) = true :=
    outInv_result2 h

theorem outInv_execAndnImm {s : State} {c : Ctl} {d a : Opnd} {imm : BitVec 32} (h : s.inv = true) : outInv (execAndnImm c d a imm s) = true :=
    outInv_result1 h

theorem outInv_execNot {s : State} {c : Ctl} {ty : Ty} {d a : Opnd} (h : s.inv = true) : outInv (execNot c ty d a s) = true := outInv_result1 h

theorem outInv_execShl {s : State} {c : Ctl} {ty : Ty} {d a b : Opnd} (h : s.inv = true) : outInv (execShl c ty d a b s) = true := outInv_result2 h

theorem outInv_execShr {s : State} {c : Ctl} {ty : Ty} {d a b : Opnd} (h : s.inv = true) : outInv (execShr c ty d a b s) = true := outInv_result2 h

theorem outInv_execSar {s : State} {c : Ctl} {ty : Ty} {d a b : Opnd} (h : s.inv = true) : outInv (execSar c ty d a b s) = true := outInv_result2 h

theorem outInv_execRot {s : State} {c : Ctl} {ty : Ty} {d a b : Opnd} (h : s.inv = true) : outInv (execRot c ty d a b s) = true := outInv_result2 h

theorem outInv_execShf {s : State} {c : Ctl} {left : Bool} {d a b x : Opnd} (h : s.inv = true) : outInv (execShf c left d a b x s) = true :=
    outInv_result3 h

theorem outInv_execBfe {s : State} {c : Ctl} {ty : Ty} {d a b : Opnd} (h : s.inv = true) : outInv (execBfe c ty d a b s) = true := outInv_result2 h

theorem outInv_execBfi {s : State} {c : Ctl} {d a b x : Opnd} (h : s.inv = true) : outInv (execBfi c d a b x s) = true := outInv_result3 h

theorem outInv_execPopc {s : State} {c : Ctl} {ty : Ty} {d a : Opnd} (h : s.inv = true) : outInv (execPopc c ty d a s) = true := outInv_result1 h

theorem outInv_execClz {s : State} {c : Ctl} {ty : Ty} {d a : Opnd} (h : s.inv = true) : outInv (execClz c ty d a s) = true := outInv_result1 h

theorem outInv_execBrev {s : State} {c : Ctl} {ty : Ty} {d a : Opnd} (h : s.inv = true) : outInv (execBrev c ty d a s) = true := outInv_result1 h

theorem outInv_execPrmb {s : State} {c : Ctl} {d a b x : Opnd} (h : s.inv = true) : outInv (execPrmb c d a b x s) = true := outInv_result3 h

theorem outInv_execIset {s : State} {c : Ctl} {cmp : Cmp} {ty : Ty} {d a b : Opnd} (h : s.inv = true) :
    outInv (execIset c cmp ty d a b s) = true := outInv_result2 h

theorem outInv_execFadd {s : State} {c : Ctl} {rnd : Rnd} {ftz : Bool} {d a b : Opnd} (h : s.inv = true) :
    outInv (execFadd c rnd ftz d a b s) = true := outInv_result2 h

theorem outInv_execFaddImm {s : State} {c : Ctl} {rnd : Rnd} {ftz : Bool} {d a : Opnd} {imm : BitVec 32} (h : s.inv = true) :
    outInv (execFaddImm c rnd ftz d a imm s) = true := outInv_result1 h

theorem outInv_execFsub {s : State} {c : Ctl} {rnd : Rnd} {ftz : Bool} {d a b : Opnd} (h : s.inv = true) :
    outInv (execFsub c rnd ftz d a b s) = true := outInv_result2 h

theorem outInv_execFsubImm {s : State} {c : Ctl} {rnd : Rnd} {ftz : Bool} {d a : Opnd} {imm : BitVec 32} (h : s.inv = true) :
    outInv (execFsubImm c rnd ftz d a imm s) = true := outInv_result1 h

theorem outInv_execFmul {s : State} {c : Ctl} {rnd : Rnd} {ftz : Bool} {d a b : Opnd} (h : s.inv = true) :
    outInv (execFmul c rnd ftz d a b s) = true := outInv_result2 h

theorem outInv_execFmulImm {s : State} {c : Ctl} {rnd : Rnd} {ftz : Bool} {d a : Opnd} {imm : BitVec 32} (h : s.inv = true) :
    outInv (execFmulImm c rnd ftz d a imm s) = true := outInv_result1 h

theorem outInv_execFmin {s : State} {c : Ctl} {ftz : Bool} {d a b : Opnd} (h : s.inv = true) : outInv (execFmin c ftz d a b s) = true :=
    outInv_result2 h

theorem outInv_execFminImm {s : State} {c : Ctl} {ftz : Bool} {d a : Opnd} {imm : BitVec 32} (h : s.inv = true) :
    outInv (execFminImm c ftz d a imm s) = true := outInv_result1 h

theorem outInv_execFmax {s : State} {c : Ctl} {ftz : Bool} {d a b : Opnd} (h : s.inv = true) : outInv (execFmax c ftz d a b s) = true :=
    outInv_result2 h

theorem outInv_execFmaxImm {s : State} {c : Ctl} {ftz : Bool} {d a : Opnd} {imm : BitVec 32} (h : s.inv = true) :
    outInv (execFmaxImm c ftz d a imm s) = true := outInv_result1 h

theorem outInv_execFfma {s : State} {c : Ctl} {rnd : Rnd} {ftz : Bool} {d a b x : Opnd} (h : s.inv = true) :
    outInv (execFfma c rnd ftz d a b x s) = true := outInv_result3 h

theorem outInv_execFsetCompare {s : State} {c : Ctl} {cmp : Cmp} {ftz : Bool} {d a b : Opnd} (h : s.inv = true) :
    outInv (execFsetCompare c cmp ftz d a b s) = true := outInv_result2 h

theorem outInv_execFrcp {s : State} {c : Ctl} {ftz : Bool} {d a : Opnd} (h : s.inv = true) : outInv (execFrcp c ftz d a s) = true :=
    outInv_result1 h

theorem outInv_execFrsq {s : State} {c : Ctl} {ftz : Bool} {d a : Opnd} (h : s.inv = true) : outInv (execFrsq c ftz d a s) = true :=
    outInv_result1 h

theorem outInv_execFsqrt {s : State} {c : Ctl} {ftz : Bool} {d a : Opnd} (h : s.inv = true) : outInv (execFsqrt c ftz d a s) = true :=
    outInv_result1 h

theorem outInv_execFex2 {s : State} {c : Ctl} {ftz : Bool} {d a : Opnd} (h : s.inv = true) : outInv (execFex2 c ftz d a s) = true :=
    outInv_result1 h

theorem outInv_execFlg2 {s : State} {c : Ctl} {ftz : Bool} {d a : Opnd} (h : s.inv = true) : outInv (execFlg2 c ftz d a s) = true :=
    outInv_result1 h

theorem outInv_execFsin {s : State} {c : Ctl} {ftz : Bool} {d a : Opnd} (h : s.inv = true) : outInv (execFsin c ftz d a s) = true :=
    outInv_result1 h

theorem outInv_execFcos {s : State} {c : Ctl} {ftz : Bool} {d a : Opnd} (h : s.inv = true) : outInv (execFcos c ftz d a s) = true :=
    outInv_result1 h

theorem outInv_execHfma2 {s : State} {c : Ctl} {ty : Ty} {sw bc nc : Bool} {rnd : Rnd} {ftz : Bool} {d a b x : Opnd} (h : s.inv = true) :
    outInv (execHfma2 c ty sw bc nc rnd ftz d a b x s) = true := outInv_result3 h

theorem outInv_execF2i {s : State} {c : Ctl} {ty sty : Ty} {rnd : Rnd} {ftz : Bool} {d a : Opnd} (h : s.inv = true) :
    outInv (execF2i c ty sty rnd ftz d a s) = true := outInv_result1 h

theorem outInv_execI2f {s : State} {c : Ctl} {ty sty : Ty} {rnd : Rnd} {ftz : Bool} {d a : Opnd} (h : s.inv = true) :
    outInv (execI2f c ty sty rnd ftz d a s) = true := outInv_result1 h

theorem outInv_execCvt {s : State} {c : Ctl} {ty sty : Ty} {rnd : Rnd} {ftz : Bool} {d a : Opnd} (h : s.inv = true) :
    outInv (execCvt c ty sty rnd ftz d a s) = true := outInv_result1 h

theorem outInv_execFrnd {s : State} {c : Ctl} {rnd : Rnd} {ftz : Bool} {d a : Opnd} (h : s.inv = true) :
    outInv (execFrnd c rnd ftz d a s) = true := outInv_result1 h

theorem outInv_execPack {s : State} {c : Ctl} {ty : Ty} {elt : BitVec 4} {rnd : Rnd} {ftz : Bool} {d a b x : Opnd} (h : s.inv = true) :
    outInv (execPack c ty elt rnd ftz d a b x s) = true := outInv_result3 h

theorem outInv_execUnpk {s : State} {c : Ctl} {ty : Ty} {elt : BitVec 4} {ftz : Bool} {d a : Opnd} (h : s.inv = true) :
    outInv (execUnpk c ty elt ftz d a s) = true := outInv_result1 h

theorem outInv_execDot4 {s : State} {c : Ctl} {d a b x : Opnd} (h : s.inv = true) : outInv (execDot4 c d a b x s) = true := outInv_result3 h

theorem outInv_execDot8 {s : State} {c : Ctl} {d a b x : Opnd} (h : s.inv = true) : outInv (execDot8 c d a b x s) = true := outInv_result3 h

theorem outInv_execFdot4 {s : State} {c : Ctl} {ty : Ty} {d a b x : Opnd} (h : s.inv = true) : outInv (execFdot4 c ty d a b x s) = true :=
    outInv_result3 h

end Sys2Proof.Machine
end

section
/-! SUPPORT. What any instruction or event does keeps the invariant. -/

namespace Sys2Proof.Machine

theorem core_core (i : Instr) : i.core.core = i.core := by
  cases i <;> rfl

/-- What an instruction or an event does keeps the invariant. A compact form does what its full form does (R51, R52), so the cases are those of
the full forms and the events. -/
theorem outInv_exec {s : State} {i : Instr} (h : s.inv = true) : outInv (exec i s) = true := by
  have hcore : i.core.core = i.core := core_core i
  rw [exec_core]
  generalize i.core = i at hcore
  cases i with
  | nop => exact outInv_execNop h
  | waitf => exact outInv_execWaitf h
  | sleep => exact outInv_execSleep h
  | yield => exact outInv_execYield h
  | mov => exact outInv_execMov h
  | movw => exact outInv_execMovw h
  | movi => exact outInv_execMovi h
  | sel => exact outInv_execSel h
  | nrel => exact outInv_execNrel h
  | strand => exact outInv_execStrand h
  | park => exact outInv_execPark h
  | bra => exact outInv_execBra h
  | brc => exact outInv_execBrc h
  | brx => exact outInv_execBrx h
  | call => exact outInv_execCall h
  | callx => exact outInv_execCallx h
  | ret => exact outInv_execRet h
  | join => exact outInv_execJoin h
  | exit => exact outInv_execExit h
  | iadd => exact outInv_execIadd h
  | isub => exact outInv_execIsub h
  | iadd64 => exact outInv_execIadd64 h
  | iaddImm => exact outInv_execIaddImm h
  | isubImm => exact outInv_execIsubImm h
  | iaddc => exact outInv_execIaddc h
  | imul => exact outInv_execImul h
  | imulh => exact outInv_execImulh h
  | imulImm => exact outInv_execImulImm h
  | imad => exact outInv_execImad h
  | imadw => exact outInv_execImadw h
  | idiv => exact outInv_execIdiv h
  | irem => exact outInv_execIrem h
  | imin => exact outInv_execImin h
  | imax => exact outInv_execImax h
  | iabs => exact outInv_execIabs h
  | ineg => exact outInv_execIneg h
  | lea => exact outInv_execLea h
  | and => exact outInv_execAnd h
  | or => exact outInv_execOr h
  | xor => exact outInv_execXor h
  | andn => exact outInv_execAndn h
  | not => exact outInv_execNot h
  | andImm => exact outInv_execAndImm h
  | orImm => exact outInv_execOrImm h
  | xorImm => exact outInv_execXorImm h
  | andnImm => exact outInv_execAndnImm h
  | shl => exact outInv_execShl h
  | shr => exact outInv_execShr h
  | sar => exact outInv_execSar h
  | rot => exact outInv_execRot h
  | shf => exact outInv_execShf h
  | bfe => exact outInv_execBfe h
  | bfi => exact outInv_execBfi h
  | popc => exact outInv_execPopc h
  | clz => exact outInv_execClz h
  | brev => exact outInv_execBrev h
  | prmb => exact outInv_execPrmb h
  | iset => exact outInv_execIset h
  | fadd => exact outInv_execFadd h
  | fsub => exact outInv_execFsub h
  | fmul => exact outInv_execFmul h
  | fmin => exact outInv_execFmin h
  | fmax => exact outInv_execFmax h
  | faddImm => exact outInv_execFaddImm h
  | fsubImm => exact outInv_execFsubImm h
  | fmulImm => exact outInv_execFmulImm h
  | fminImm => exact outInv_execFminImm h
  | fmaxImm => exact outInv_execFmaxImm h
  | ffma => exact outInv_execFfma h
  | fsetCompare => exact outInv_execFsetCompare h
  | frcp => exact outInv_execFrcp h
  | frsq => exact outInv_execFrsq h
  | fsqrt => exact outInv_execFsqrt h
  | fex2 => exact outInv_execFex2 h
  | flg2 => exact outInv_execFlg2 h
  | fsin => exact outInv_execFsin h
  | fcos => exact outInv_execFcos h
  | hfma2 => exact outInv_execHfma2 h
  | f2i => exact outInv_execF2i h
  | i2f => exact outInv_execI2f h
  | cvt => exact outInv_execCvt h
  | frnd => exact outInv_execFrnd h
  | pack => exact outInv_execPack h
  | unpk => exact outInv_execUnpk h
  | dot4 => exact outInv_execDot4 h
  | dot8 => exact outInv_execDot8 h
  | fdot4 => exact outInv_execFdot4 h
  | shfl => exact outInv_execShfl h
  | vote => exact outInv_execVote h
  | matchI => exact outInv_execMatchI h
  | pset => exact outInv_execPset h
  | pmovGet => exact outInv_execPmovGet h
  | pmovSet => exact outInv_execPmovSet h
  | mma => exact outInv_execMma h
  | mmas => exact outInv_execMmas h
  | mmab => exact outInv_execMmab h
  | cmprs => exact outInv_execCmprs h
  | cclr => exact outInv_execCclr h
  | cld => exact outInv_execCld h
  | cscl => exact outInv_execCscl h
  | cst => exact outInv_execCst h
  | qinit => exact outInv_execQinit h
  | qpush => exact outInv_execQpush h
  | qpop => exact outInv_execQpop h
  | qstat => exact outInv_execQstat h
  | copy => exact outInv_execCopy h
  | reel => exact outInv_execReel h
  | reelw => exact outInv_execReelw h
  | aloop => exact outInv_execAloop h
  | aqput => exact outInv_execAqput h
  | aend => exact outInv_execAend h
  | ld => exact outInv_execLd h
  | st => exact outInv_execSt h
  | ldx => exact outInv_execLdx h
  | stx => exact outInv_execStx h
  | atom => exact outInv_execAtom h
  | atomr => exact outInv_execAtomr h
  | fence => exact outInv_execFence h
  | pin => exact outInv_execPin h
  | unpin => exact outInv_execUnpin h
  | icinv => exact outInv_execIcinv h
  | pref => exact outInv_execPref h
  | launch => exact outInv_execLaunch h
  | spawn => exact outInv_execSpawn h
  | depdec => exact outInv_execDepdec h
  | phend => exact outInv_execPhend h
  | tbar => exact outInv_execTbar h
  | tdone => exact outInv_execTdone h
  | fwait => exact outInv_execFwait h
  | fsetFuture => exact outInv_execFsetFuture h
  | ftest => exact outInv_execFtest h
  | lock => exact outInv_execLock h
  | unlock => exact outInv_execUnlock h
  | chpush => exact outInv_execChpush h
  | chpop => exact outInv_execChpop h
  | waitc => exact outInv_execWaitc h
  | trap => exact outInv_execTrap h
  | tret => exact outInv_execTret h
  | replay => exact outInv_execReplay h
  | unwind => exact outInv_execUnwind h
  | endg => exact outInv_execEndg h
  | frqpop => exact outInv_execFrqpop h
  | mapreq => exact outInv_execMapreq h
  | srd => exact outInv_execSrd h
  | swr => exact outInv_execSwr h
  | uread => exact outInv_execUread h
  | uwrite => exact outInv_execUwrite h
  | bkpt => exact outInv_execBkpt h
  | put => exact outInv_execPut h
  | get => exact outInv_execGet h
  | ratom => exact outInv_execRatom h
  | coll => exact outInv_execColl h
  | wstat => exact outInv_execWstat h
  | activation => exact outInv_execActivation h
  | fixedResultLands => exact outInv_execFixedResultLands h
  | icacheFill => exact outInv_execIcacheFill h
  | sleepWake => exact outInv_execSleepWake h
  | accessPerform => exact outInv_execAccessPerform h
  | accessComplete => exact outInv_execAccessComplete h
  | leaseExpiry => exact outInv_execLeaseExpiry h
  | queueLand => exact outInv_execQueueLand h
  | queueRetire => exact outInv_execQueueRetire h
  | copyTransferDone => exact outInv_execCopyTransferDone h
  | reelExecute => exact outInv_execReelExecute h
  | preemptionSave => exact outInv_execPreemptionSave h
  | noticeDelivery => exact outInv_execNoticeDelivery h
  | lateMemUncorrectable => exact outInv_execLateMemUncorrectable h
  | softError => exact outInv_execSoftError h
  | migration => exact outInv_execMigration h
  | vigilRetry => exact outInv_execVigilRetry h
  | firstAttemptAnswer => exact outInv_execFirstAttemptAnswer h
  | channelOverflowDelay => exact outInv_execChannelOverflowDelay h
  | chunkPoolRetry => exact outInv_execChunkPoolRetry h
  | tbarCompletion => exact outInv_execTbarCompletion h
  | phaseEnd => exact outInv_execPhaseEnd h
  | submissionTake => exact outInv_execSubmissionTake h
  | taskPull => exact outInv_execTaskPull h
  | aging => exact outInv_execAging h
  | accountTick => exact outInv_execAccountTick h
  | contextSwitchDeadline => exact outInv_execContextSwitchDeadline h
  | currentLimit => exact outInv_execCurrentLimit h
  | thermalTrip => exact outInv_execThermalTrip h
  | droop => exact outInv_execDroop h
  | powerGood => exact outInv_execPowerGood h
  | hostImageOffer => exact outInv_execHostImageOffer h
  | channelRetrain => exact outInv_execChannelRetrain h
  | busRepair => exact outInv_execBusRepair h
  | splitChange => exact outInv_execSplitChange h
  | mapreqAnswer => exact outInv_execMapreqAnswer h
  | firmwareEventDeliver => exact outInv_execFirmwareEventDeliver h
  | hostWrite => exact outInv_execHostWrite h
  | hostRead => exact outInv_execHostRead h
  | registerWrite => exact outInv_execRegisterWrite h
  | sqtail => exact outInv_execSqtail h
  | sqstatOver => exact outInv_execSqstatOver h
  | ctxCreate => exact outInv_execCtxCreate h
  | ctxTeardown => exact outInv_execCtxTeardown h
  | ctxSwitch => exact outInv_execCtxSwitch h
  | ctxResume => exact outInv_execCtxResume h
  | energySet => exact outInv_execEnergySet h
  | capRaise => exact outInv_execCapRaise h
  | shootdown => exact outInv_execShootdown h
  | hash => exact outInv_execHash h
  | attest => exact outInv_execAttest h
  | faultLog => exact outInv_execFaultLog h
  | routeSet => exact outInv_execRouteSet h
  | routeLock => exact outInv_execRouteLock h
  | migrateAnswer => exact outInv_execMigrateAnswer h
  | splitSet => exact outInv_execSplitSet h
  | haltCmd => exact outInv_execHaltCmd h
  | readCmd => exact outInv_execReadCmd h
  | writeCmd => exact outInv_execWriteCmd h
  | stepCmd => exact outInv_execStepCmd h
  | breakCmd => exact outInv_execBreakCmd h
  | resumeCmd => exact outInv_execResumeCmd h
  | splitsCmd => exact outInv_execSplitsCmd h
  | lanternEvent => exact outInv_execLanternEvent h
  | part => exact outInv_execPart h
  | result => exact outInv_execResult h
  | block => exact outInv_execBlock h
  | abort => exact outInv_execAbort h
  | faddr => exact outInv_execFaddr h
  | transactionWrite => exact outInv_execTransactionWrite h
  | transactionRead => exact outInv_execTransactionRead h
  | transactionReadCompletion => exact outInv_execTransactionReadCompletion h
  | transactionAtomic => exact outInv_execTransactionAtomic h
  | linkFailure => exact outInv_execLinkFailure h
  | matrixCompletion => exact outInv_execMatrixCompletion h
  | launchAcceptance => exact outInv_execLaunchAcceptance h
  | faddFrame => exact outInv_execFaddFrame h
  | reservedFrameDrop => exact outInv_execReservedFrameDrop h
  | transactionAtomicCompletion => exact outInv_execTransactionAtomicCompletion h
  | addressBreakpoint => exact outInv_execAddressBreakpoint h
  | trackingLoop => exact outInv_execTrackingLoop h
  | _ => cases hcore

end Sys2Proof.Machine
end

section
/-! SUPPORT. What the device does between two instants, its tidying, its choice of an event, the turn of each partition and the clk's end, keeps the
invariant, and with it every step. -/

namespace Sys2Proof.Machine

theorem State.inv_eachGroup {s : State} {f : State → Group → State} (h : s.inv = true)
    (hf : ∀ s g, s.inv = true → (f s g).inv = true) : (s.eachGroup f).inv = true :=
  State.inv_foldl (fun _ _ h1 => by
    split
    · exact hf _ _ h1
    · exact h1) h

theorem State.inv_eachTeam {s : State} {f : State → Team → State} (h : s.inv = true)
    (hf : ∀ s t, s.inv = true → (f s t).inv = true) : (s.eachTeam f).inv = true :=
  State.inv_foldl (fun _ _ h1 => by
    split
    · exact hf _ _ h1
    · exact h1) h

theorem State.inv_dropEnded {s : State} (h : s.inv = true) : s.dropEnded.inv = true :=
  State.inv_rebuild h (State.wf_dram h) (State.wf_scratch h) (State.wf_pool h) (keyed_filter (State.keyed_groups h)) (State.keyed_teams h)
    (State.keyed_launches h) (State.keyed_contexts h)

theorem State.inv_dropEndedTeams {s : State} (h : s.inv = true) : s.dropEndedTeams.inv = true :=
  State.inv_rebuild h (State.wf_dram h) (State.wf_scratch h) (State.wf_pool h) (State.keyed_groups h)
    (keyed_filterMap (State.keyed_teams h) fun a e hae ha => by
      split at hae
      · cases hae
        exact ha
      · split at hae
        · cases hae
          exact ha
        · cases hae)
    (State.keyed_launches h) (State.keyed_contexts h)

theorem State.inv_dropDeadWaits {s : State} (h : s.inv = true) : s.dropDeadWaits.inv = true := by
  unfold State.dropDeadWaits
  exact State.inv_foldl (fun _ _ => State.inv_removeEntry) h

theorem State.inv_dropOver {s : State} (h : s.inv = true) : s.dropOver.inv = true := h

theorem State.inv_dueDoorbells {s : State} (h : s.inv = true) : s.dueDoorbells.inv = true := by
  unfold State.dueDoorbells
  split <;> exact h

theorem State.inv_ringDoorbell {s : State} (h : s.inv = true) : s.ringDoorbell.inv = true := by
  unfold State.ringDoorbell
  split
  · split
    · exact h
    · split <;> exact h
  · exact h

theorem State.inv_settle {s : State} (h : s.inv = true) : s.settle.inv = true := by
  unfold State.settle
  extract_lets s₁ s₂ s₃ s₄ s₅ s₆ s₇ s₈
  have h₃ : s₃.inv = true :=
    State.inv_eachGroup
      (State.inv_eachGroup (State.inv_eachGroup h fun _ _ => State.inv_exitHandler) fun _ _ => State.inv_unwindGroup)
      fun _ _ => State.inv_haltAgain
  have h₄ : s₄.inv = true := State.inv_foldl (fun _ _ => State.inv_lanternSettle) h₃
  have h₅ : s₅.inv = true := State.inv_dropEndedTeams (State.inv_dropEnded (State.inv_dropDeadWaits h₄))
  have h₆ : s₆.inv = true := State.inv_eachTeam h₅ fun _ _ ht => State.inv_ite (State.inv_takeOut ht) ht
  have h₇ : s₇.inv = true := State.inv_dropOver (State.inv_collsOver (State.inv_arrivals (State.inv_tidyReels h₆)))
  have h₈ : s₈.inv = true := State.inv_foldl (fun _ _ ht => by
    split
    · exact State.inv_switchOver ht
    · exact ht) h₇
  exact State.inv_ringDoorbell (State.inv_dueDoorbells (State.inv_fwSettle h₈))

theorem outInv_eventStep {s : State} (h : s.inv = true) : outInv (eventStep s) = true := by
  unfold eventStep
  extract_lets t c k
  have ht : t.inv = true := State.inv_settle h
  have hk : k.2.inv = true := State.inv_update ht
  clear_value k t
  split
  · exact ht
  · split
    · exact outInv_exec ht
    · split
      · exact State.inv_update hk
      · split
        · exact outInv_exec hk
        · exact State.inv_update hk

theorem outInv_issueAs {s : State} {uid split : Nat} {fetch : Group → Split → Option (Nat × Except (BitVec 8 × BitVec 3) Instr)}
    (h : s.inv = true) : outInv (issueAs s uid split fetch) = true := by
  unfold issueAs
  split
  · exact h
  · split
    · exact h
    · split
      · exact h
      · exact State.inv_fetchTrap h
      · exact outInv_exec h

theorem outInv_partStep {s : State} {k : Nat} (h : s.inv = true) : outInv (partStep s k) = true := by
  unfold partStep
  dsimp only
  split
  · exact outInv_exec (State.inv_update h)
  · exact State.inv_update (State.inv_servePart h)

theorem State.inv_evictLine {s : State} (h : s.inv = true) : s.evictLine.inv = true := by
  unfold State.evictLine
  dsimp only [State.choice]
  split <;> exact h

theorem State.inv_evictPartials {s : State} (h : s.inv = true) : s.evictPartials.inv = true := by
  unfold State.evictPartials
  dsimp only [State.choice]
  split
  · exact h
  · exact State.inv_foldl (fun _ _ => State.inv_applyPartial) (State.inv_update h)

theorem State.inv_advanceTime {s : State} (h : s.inv = true) : s.advanceTime.inv = true := h

theorem State.inv_tick {s : State} (h : s.inv = true) : s.tick.inv = true := by
  unfold State.tick
  dsimp only [State.free]
  exact State.inv_update (State.inv_evictPartials (State.inv_evictLine (State.inv_advanceTime (State.inv_update h))))

theorem outInv_serveStep {s : State} (h : s.inv = true) : outInv (serveStep s) = true := by
  unfold serveStep
  split
  · exact outInv_partStep h
  · split
    · exact outInv_exec (State.inv_update h)
    · split
      · exact outInv_exec (State.inv_update h)
      · exact State.inv_tick h

theorem outInv_agendaStep {s : State} {i : Instr} (h : s.inv = true) : outInv (agendaStep i s) = true := by
  unfold agendaStep
  split
  · exact h
  · exact outInv_exec h

theorem outInv_stoppedStep {s : State} (h : s.inv = true) : outInv (stoppedStep s) = true := by
  unfold stoppedStep
  split
  · exact h
  · exact outInv_exec (State.inv_update h)
  · exact h

theorem outInv_stepWith {s : State} {fetch : State → Group → Split → Option (Nat × Except (BitVec 8 × BitVec 3) Instr)} (h : s.inv = true) :
    outInv (stepWith fetch s) = true := by
  unfold stepWith
  split
  · exact outInv_stoppedStep h
  · split
    · exact outInv_agendaStep (State.inv_update h)
    · split
      · exact outInv_eventStep h
      · split
        · exact outInv_issueAs (State.inv_update h)
        · exact outInv_serveStep h

end Sys2Proof.Machine
end

section
/-! The reset states (R1): what the core mask of a part says, bit by bit. -/

namespace Sys2Proof.Machine

theorem one_disabled_iff (p : Nat → Bool) :
    ((List.range 8).filter fun i => !p i).length = 1 ↔ ∃ k < 8, p k = false ∧ ∀ j < 8, j ≠ k → p j = true := by
  rw [List.length_eq_one_iff]
  constructor
  · rintro ⟨k, hk⟩
    have hmem (j : Nat) : (j < 8 ∧ p j = false) ↔ j = k := by
      simpa using congrArg (j ∈ ·) hk
    obtain ⟨hk8, hpk⟩ := (hmem k).2 rfl
    refine ⟨k, hk8, hpk, fun j hj hjk => ?_⟩
    by_contra hpj
    exact hjk ((hmem j).1 ⟨hj, by simpa using hpj⟩)
  · rintro ⟨k, hk8, hpk, hrest⟩
    refine ⟨k, List.perm_singleton.1 ((List.perm_ext_iff_of_nodup (List.nodup_range.filter _) (List.nodup_singleton k)).2 fun j => ?_)⟩
    by_cases hjk : j = k
    · simp [hjk, hk8, hpk]
    · simpa [hjk] using fun hj => hrest j hj hjk

theorem eq_allOnes_iff {n : Nat} {mask : BitVec n} : mask = BitVec.allOnes n ↔ ∀ k < n, mask.getLsbD k = true := by
  constructor
  · rintro rfl k hk
    simpa using hk
  · exact fun h => BitVec.eq_of_getLsbD_eq fun k hk => by simpa [hk] using h k hk

theorem State.partOk_resetAs_iff {grade : BitVec 8} {mask : BitVec 256} :
    (State.resetAs grade mask).partOk = true ↔
      (grade = 0 ∧ ∀ k < 256, mask.getLsbD k = true) ∨
        (grade = 1 ∧ ∀ c < 32, ∃ k < 8, mask.getLsbD (8 * c + k) = false ∧ ∀ j < 8, j ≠ k → mask.getLsbD (8 * c + j) = true) := by
  simp only [← eq_allOnes_iff, ← one_disabled_iff]
  simp [State.partOk, State.resetAs]

/-- Settles O2: the invariant of a reset state comes down to its grade and core mask, for all its tables and memories are empty. -/
theorem resetMeetsInvariant : Obligations.ResetMeetsInvariant :=
  have hreset : (State.resetAs 0 (BitVec.allOnes 256)).partOk = true := State.partOk_resetAs_iff.2 (.inl ⟨rfl, eq_allOnes_iff.1 rfl⟩)
  ⟨State.inv_resetAs hreset, fun _ _ => ⟨State.partOk_resetAs_iff, State.inv_resetAs⟩⟩

end Sys2Proof.Machine
end

section
/-! A step is an event in hand, an event of the device, an instruction that the picker has chosen, or the next part of the clk. -/

namespace Sys2Proof.Machine

/-- Settles O3: each of these is the work of functions that keep the invariant one by one, so the whole step keeps it. -/
theorem stepKeepsInvariant : Obligations.StepKeepsInvariant := fun _ _ h hstep => State.inv_of_next (outInv_stepWith h) hstep

end Sys2Proof.Machine
end

section
/-! SUPPORT. A store is performed (R252, R259, R261): which bytes its part writes at its location, and what it leaves as it is. -/

namespace Sys2Proof.Machine

open Sys2Proof.Claims

/-! ## The bytes of a write -/

theorem leBytes_getD (v n j : Nat) (h : j < n) : (leBytes v n).getD j 0 = BitVec.ofNat 8 (v / 256 ^ j) := by
  induction n generalizing v j with
  | zero => omega
  | succ n ih =>
    cases j with
    | zero => simp [leBytes]
    | succ j =>
      rw [leBytes, List.getD_cons_succ, ih _ _ (by omega), Nat.div_div_eq_div_mul, Nat.pow_succ']

/-- Byte `j` of a value, low byte first, is eight of its bits (R246). -/
theorem leBytes_getD_toNat {w : Nat} (v : BitVec w) (n j : Nat) (h : j < n) :
    (leBytes v.toNat n).getD j 0 = v.extractLsb' (8 * j) 8 := by
  rw [leBytes_getD _ _ _ h]
  refine BitVec.eq_of_toNat_eq ?_
  rw [BitVec.toNat_ofNat, BitVec.extractLsb'_toNat, Nat.shiftRight_eq_div_pow, Nat.pow_mul]

theorem cellGet_writeNat_of_inside {w : Nat} (m : Mem) (a n j : Nat) (v : BitVec w) (h : j < n) :
    cellGet (writeNat m a n v.toNat) (a + j) = v.extractLsb' (8 * j) 8 := by
  unfold writeNat
  rw [cellGet_writeBytes, leBytes_length, if_pos (by omega), Nat.add_sub_cancel_left, leBytes_getD_toNat v n j h]

/-- The bytes of the capability list stay as they are, whatever is written over them (R27). -/
theorem State.keepCaps_caps {s : State} {c : Nat} (h : s.capList = some c) (pa n : Nat) (v j : Nat) (hj : j < 136) :
    cellGet (s.keepCaps pa n (writeNat s.dram pa n v)) (c + j) = cellGet s.dram (c + j) := by
  unfold State.keepCaps
  simp only [h]
  split
  · rw [cellGet_writeBytes, readBytes_length, if_pos (by omega), Nat.add_sub_cancel_left, readBytes_getD _ _ _ _ hj]
  · exact cellGet_writeNat_of_outside _ _ _ _ _ (by omega)

/-- Off the capability list a byte stands as the write left it. -/
theorem State.keepCaps_off_byte {s : State} {b : Nat} (h : ∀ c, s.capList = some c → b < c ∨ c + 136 ≤ b) (pa n : Nat) (m : Mem) :
    cellGet (s.keepCaps pa n m) b = cellGet m b := by
  unfold State.keepCaps
  split
  · next c hc =>
    split
    · rw [cellGet_writeBytes, readBytes_length, if_neg (by have := h c hc; omega)]
    · rfl
  · rfl

/-- A write to device memory is one of its bytes off the capability list, which stands as it was (R25, R27). -/
theorem State.writeLoc_glob_dram (s : State) (pa n v : Nat) :
    (s.writeLoc (.glob pa) n v).dram = s.keepCaps pa n (writeNat s.dram pa n v) := by
  obtain ⟨w, p, h⟩ := s.writeLoc_eq (.glob pa) n v
  rw [h]

/-! ## What performing a part leaves as it is -/

section
variable {β : Type} (p : State → β) (hp : ∀ s ms bs fr os, p { s with meters := ms, banks := bs, fresh := fr, ops := os } = p s)
include hp

/-- What does not show the meters, the banks, the operations and the open values is kept by metering a slice. -/
theorem State.meterSlice_keeps (s : State) (team : Nat) (l : Loc) : p (s.meterSlice team l) = p s := by
  have hm (s : State) (place n : Nat) (kind : Metered) : p (s.meter place team kind n) = p s := by
    obtain ⟨ms, h⟩ := s.meter_eq place team kind n
    rw [h]
    exact hp s ms s.banks s.fresh s.ops
  cases l with
  | glob pa => exact ((hm _ _ _ _).trans (hm _ _ _ _)).trans (hp s s.meters s.banks _ s.ops)
  | scratch k => rfl
  | pool k => exact hm ..

/-- A request of another unit at a bank keeps it too. -/
theorem State.takeBank_keeps (s : State) (key : Nat) : p (s.takeBank key) = p s := by
  have hd (t : State) (q : Nat → Bool) : p (t.setDues q) = p t := hp t t.meters t.banks t.fresh _
  unfold State.takeBank
  dsimp only
  split
  · exact (hd _ _).trans (hp s s.meters _ _ s.ops)
  · exact (hd _ _).trans (hp s s.meters _ _ s.ops)

/-- So does the metering of a part of an access. -/
theorem State.meterUnit_keeps (s : State) (g : Group) (a : Access) (u : AccUnit) (hit : Bool) : p (s.meterUnit g a u hit) = p s := by
  have hm (place : Nat) (kind : Metered) : p (s.meter place g.team kind 1) = p s := by
    obtain ⟨ms, h⟩ := s.meter_eq place g.team kind 1
    rw [h]
    exact hp s ms s.banks s.fresh s.ops
  unfold State.meterUnit
  dsimp only
  split
  · next k _ =>
    split
    all_goals split
    · exact hm ..
    · exact (State.takeBank_keeps p hp _ _).trans (hm ..)
    · exact hm ..
    · exact (State.takeBank_keeps p hp _ _).trans (hm ..)
  · exact State.meterSlice_keeps p hp ..
  · split
    · exact hm ..
    · have hslice (l : Loc) : p ((s.meter g.core g.team .cache 1).meterSlice g.team l) = p s :=
        (State.meterSlice_keeps p hp _ _ _).trans (hm ..)
      split
      · exact (State.meterSlice_keeps p hp _ _ _).trans (hslice _)
      · exact hslice _

end

/-- A store in a scratchpad or a slice pool writes its data at its location (R252). -/
theorem State.performAt_store (s : State) (g : Group) {a : Access} {u : AccUnit} {ty : Ty} (h : a.kind = .store ty)
    (hl : ∀ pa, u.loc ≠ .glob pa) : (s.performAt g a u).s = s.writeLoc u.loc u.size u.data.toNat := by
  unfold State.performAt
  rw [h]
  cases hu : u.loc with
  | glob pa => exact absurd hu (hl pa)
  | scratch k => rfl
  | pool k => rfl

/-- A store in device memory is one at the home, and the core's copy of the line goes out of date for the group (R244, R262). -/
theorem State.performAt_store_glob (s : State) (g : Group) {a : Access} {u : AccUnit} {ty : Ty} {pa : Nat} (h : a.kind = .store ty)
    (hl : u.loc = .glob pa) : (s.performAt g a u).s = (s.homeWrite pa u.size u.data.toNat).2.staleCopy g pa u.size := by
  unfold State.performAt
  rw [h, hl]

/-- A write at the home changes device memory, the watch list and the partial results alone. -/
theorem State.homeWrite_eq (s : State) (pa n v : Nat) :
    ∃ m w ps, (s.homeWrite pa n v).2 = { s with dram := m, watch := w, partials := ps } := by
  obtain ⟨m, w, h⟩ := s.recall_eq (pa / 128)
  obtain ⟨m', w', h'⟩ := (s.recall (pa / 128)).writeLoc_glob pa n v
  exact ⟨m', w', _, by rw [State.homeWrite_snd, h', h]⟩

/-- Where no core holds a partial result of the line, device memory after it is that of the write. -/
theorem State.homeWrite_dram {s : State} {pa : Nat} (h : ∀ q ∈ s.partials, q.addr / 128 ≠ pa / 128) (n v : Nat) :
    (s.homeWrite pa n v).2.dram = s.keepCaps pa n (writeNat s.dram pa n v) := by
  rw [State.homeWrite_snd, s.recall_of_none _ h, State.writeLoc_glob_dram]

/-- Groups keep their registers, whatever the horizon is. -/
theorem regsOf_modHorizon (s : State) (k n : Nat) (id : Nat) :
    ((s.modGroup k fun g => { g with horizon := max g.horizon n }).group? id).map regsOf = (s.group? id).map regsOf := by
  rw [State.modGroup_group?]
  split
  · next h => subst h; cases s.group? id <;> rfl
  · rfl

/-- A part that is no gather's lane is performed at its place: what it does there, its metering, its operation and the group's horizon. -/
theorem State.performUnit_eq {s : State} {uid k : Nat} {o : Op} {a : Access} {v : AccUnit} {g : Group}
    (ho : s.op? uid = some o) (hj : o.job = .access a) (hu : a.units[k]? = some v) (hcb : a.cb = none) (hg : s.group? o.grp = some g) :
    ∃ p n, s.performUnit uid k =
      ((((s.performAt g a v).s.meterUnit g a v (s.hitsCopy g a v)).setOp p).modGroup o.grp fun g => { g with horizon := max g.horizon n }) := by
  unfold State.performUnit
  simp only [ho, hj, hg, hu, hcb]
  exact ⟨_, _, rfl⟩

/-- What a part does beside its effect at its place: registers, teams and memories stay as that effect leaves them. -/
theorem State.performUnit_frame {s : State} {uid k : Nat} {o : Op} {a : Access} {v : AccUnit} {g : Group}
    (ho : s.op? uid = some o) (hj : o.job = .access a) (hu : a.units[k]? = some v) (hcb : a.cb = none) (hg : s.group? o.grp = some g) :
    (∀ id, ((s.performUnit uid k).group? id).map regsOf = ((s.performAt g a v).s.group? id).map regsOf) ∧
      (s.performUnit uid k).teams = (s.performAt g a v).s.teams ∧ (s.performUnit uid k).dram = (s.performAt g a v).s.dram ∧
      (s.performUnit uid k).scratch = (s.performAt g a v).s.scratch ∧ (s.performUnit uid k).pool = (s.performAt g a v).s.pool := by
  obtain ⟨p, n, h⟩ := State.performUnit_eq ho hj hu hcb hg
  have hmeter := State.meterUnit_keeps (fun t => (t.groups, t.teams, t.dram, t.scratch, t.pool)) (fun _ _ _ _ _ => rfl)
    (s.performAt g a v).s g a v (s.hitsCopy g a v)
  simp only [Prod.mk.injEq] at hmeter
  obtain ⟨hgroups, hteams, hdram, hscratch, hpool⟩ := hmeter
  rw [h]
  refine ⟨fun id => (regsOf_modHorizon _ _ _ id).trans ?_, hteams, hdram, hscratch, hpool⟩
  simp only [State.group?, State.setOp_groups, hgroups]

/-- An event that no maintenance action holds happens (R386). -/
theorem State.holdOr_free {s : State} {pas : State → List Nat} {ev : Instr} {out : Out} (h : s.maintFor (pas s) = none) :
    s.holdOr pas ev out = out := by
  unfold State.holdOr
  split
  · rfl
  · rw [h]
    cases out <;> rfl

/-- A part of an access at its turn is performed. -/
theorem exec_accessPerform_atTurn {s : State} {uid k : Nat} {o : Op} {a : Access} {v : AccUnit} {g : Group} (h : AtTurn s uid k o a v g) :
    exec (.accessPerform uid k) s = .next (s.performUnit uid k) := by
  obtain ⟨hstep, ho, -, hj, hu, hco, -, hg, -, hmay, hm⟩ := h
  have hnow : performNow uid k s = .next (s.performUnit uid k) := by
    simp only [performNow, hstep, ho, hj, hg, hu, hco, hmay, Bool.false_eq_true, if_false, if_true]
  exact (State.holdOr_free (pas := fun s => s.requestPlaces uid k) hm).trans hnow

/-! ## The store -/

/-- Settles O41: performing a part of a store is its write at the location (`performAt_store`) and changes beside it no register, team or
memory (`performUnit_frame`); the capability list is kept out of the write (`keepCaps_caps`). -/
theorem storePerforms : Obligations.StorePerforms := by
  intro s uid k o a v g ty hturn hkind
  refine ⟨_, exec_accessPerform_atTurn hturn, ?_⟩
  obtain ⟨-, ho, -, hj, hu, -, hcb, hg, -⟩ := hturn
  obtain ⟨hregs, hteams, hdram, hscratch, hpool⟩ := State.performUnit_frame ho hj hu hcb hg
  simp only [hregs, hteams, hdram, hscratch, hpool]
  cases hl : v.loc with
  | scratch p =>
    rw [s.performAt_store g hkind (by simp [hl]), hl]
    refine ⟨fun _ => rfl, rfl, ?_, nofun, nofun⟩
    rintro _ ⟨⟩
    exact ⟨fun j hj => cellGet_writeNat_of_inside _ _ _ _ _ hj, fun b hb => cellGet_writeNat_of_outside _ _ _ _ _ hb, fun _ => rfl, fun _ => rfl⟩
  | pool p =>
    rw [s.performAt_store g hkind (by simp [hl]), hl]
    refine ⟨fun _ => rfl, rfl, nofun, ?_, nofun⟩
    rintro _ ⟨⟩
    exact ⟨fun j hj => cellGet_writeNat_of_inside _ _ _ _ _ hj, fun b hb => cellGet_writeNat_of_outside _ _ _ _ _ hb, fun _ => rfl, fun _ => rfl⟩
  | glob p =>
    obtain ⟨m, w, ps, hw⟩ := s.homeWrite_eq p v.size v.data.toNat
    rw [s.performAt_store_glob g hkind hl]
    refine ⟨fun _ => by rw [hw]; rfl, by rw [hw]; rfl, nofun, nofun, ?_⟩
    rintro _ ⟨⟩ hpart
    have hd : ((s.homeWrite p v.size v.data.toNat).2.staleCopy g p v.size).dram = _ := State.homeWrite_dram hpart ..
    rw [hd]
    refine ⟨fun j hj hoff => ?_, fun c hc j hj => State.keepCaps_caps hc _ _ _ _ hj, fun b hb => ?_, fun _ => by rw [hw]; rfl,
      fun _ => by rw [hw]; rfl⟩
    · exact (State.keepCaps_off_byte hoff _ _ _).trans (cellGet_writeNat_of_inside _ _ _ _ _ hj)
    · exact s.keepCaps_outside _ _ _ _ (cellGet_writeNat_of_outside _ _ _ _ _ hb)

end Sys2Proof.Machine
end

section
/-! SUPPORT. The two statements of the device's events that fail, each with the state at which it does. -/

namespace Sys2Proof.Machine

open Sys2Proof.Claims

/-! ## COPY_TRANSFER_DONE at a poisoned counter (R228, R248) -/

/-- A notice changes groups and identifiers alone. -/
theorem State.postNotice_eq (s : State) (uid : Nat) (r : TrapRec) (pc : DWord) :
    ∃ gs n, s.postNotice uid r pc = { s with groups := gs, nextId := n } := by
  unfold State.postNotice
  split
  · exact ⟨s.groups, s.nextId, rfl⟩
  · split
    · exact ⟨s.groups, s.nextId, rfl⟩
    · exact ⟨_, _, rfl⟩

/-- A transfer that counts at a poisoned word leaves the word as it is, and its issuing group a record of it. -/
theorem State.endThread_poisoned {s : State} {t : Thread} {key : Nat} (ht : t.signal = .count key) (hp : s.poisoned (.scratch key) 4 = true) :
    (s.endThread t).scratch = s.scratch := by
  have hp' : State.poisoned { s with threads := s.threads.filter fun x => x.uid != t.uid } (.scratch key) 4 = true := hp
  obtain ⟨gs, n, h⟩ := State.postNotice_eq { s with threads := s.threads.filter fun x => x.uid != t.uid } t.grp
    ⟨tcMem, 5, BitVec.ofNat 64 (State.wordAddr { s with threads := s.threads.filter fun x => x.uid != t.uid } t (.scratch key) key), 0⟩ t.pc
  simp only [State.endThread, ht, hp', if_true, h]

/-- A transfer whose words have all moved and that signals by the counter at the first word of core 0's scratchpad. -/
def countingThread : Thread :=
  { uid := 1, grp := 0, team := 0, asid := 0, core := 0, pc := 0, priv := false, reel := none, src := .core, dst := .core, words := []
    done := 0, signal := .count 0, failed := false }

/-- A device whose counter at that word is poisoned, as an uncorrectable soft error leaves it. -/
def poisonedCounter : State := { State.reset with threads := [countingThread], poisonWords := [0] }

/-- Refutes O56: the statement lets every COPY_TRANSFER_DONE of a transfer that has not failed add one to its counter, but a counter in a
poisoned word stays as it is (R228, R248; `State.endThread`), here at 0. -/
theorem not_slotEvents : ¬ Obligations.SlotEvents := by
  unfold Obligations.SlotEvents
  rintro ⟨-, -, -, -, -, -, hcopy, -⟩
  obtain ⟨u, hu, -, hcount, -⟩ := (hcopy poisonedCounter countingThread (by decide)).2 rfl (by decide)
  have hexec : exec (.copyTransferDone 1) poisonedCounter = .next (poisonedCounter.endThread countingThread) := rfl
  obtain rfl : poisonedCounter.endThread countingThread = u := Host.Outcome.next.inj (hexec.symm.trans hu)
  have hone := hcount 0 rfl rfl
  rw [State.endThread_poisoned (key := 0) rfl (by decide)] at hone
  exact absurd hone (by decide)

/-! ## A READ of Lantern's while an instruction holds the group's issue (R349, log entry 53) -/

/-- Where an instruction still holds the group's issue Lantern does not enter its handler bank yet. -/
theorem State.debugEntry_held (s : State) {g : Group} {uid : Nat} (h : g.hold = .op uid) : s.debugEntry g = s := by
  unfold State.debugEntry
  rw [h]
  simp

/-- A READ that begins then leaves every group as it is. -/
theorem State.lanternAccess_held (s : State) (stack : Nat) (r : Request32) {g : Group} {uid : Nat} (h : g.hold = .op uid) :
    (s.lanternAccess stack r g).groups = s.groups := by
  unfold State.lanternAccess
  rw [s.debugEntry_held h]
  rfl

/-- The launch of one group of one lane with one D slot. -/
def haltedLaunch : Launch :=
  { uid := 2, asid := 1, recAddr := 0
    image := { addr := 0x10000, width := 1, codeOff := 0x100, codeSize := 0x1000, liveOff := 0, liveCnt := 0, carryOff := 0, carryCnt := 0
               sliceOff := 0, sliceCnt := 0, estimate := 0 }
    spawned := false, teams := 1, groups := 1, prio := 0, policy := false, bridle := false, roles := [⟨1, 1, 0⟩], tscr := 0, lanez := 0
    pool := 0, kbank := [], ecap := 0, pmap := [0], future := 0, prBase := 0, prgBlk := 0, desc := 0, parent := none, stack := 0
    begun := [0], ended := [], endgs := [], clean := 0, complete := false, regions := [], used := 0, capped := false }

def haltedTeam : Team :=
  { uid := 3, launch := 2, index := 0, asid := 1, task := 0, phase := 0, core := 0, bridle := false, placed := 1, base := 0, base2 := 0
    tregs := [], twrites := [], queues := [], before := [], exited := [], parking := none, released := false }

/-- The group in its slot, halted while its instruction with identifier 5 holds its issue. -/
def haltedGroup : Group := { newGroup haltedLaunch 3 4 0 0 0 0 with place := .active 0 0, hold := .op 5, debug := .halted }

/-- Lantern's request slot: a READ of D0, lane 0, of group 0 of task 0 in context 1, which the host has handed over. -/
def readRequest : Request32 := [(0, 0x80000002), (1, 1), (4, 0x200)]

def haltedDevice : State :=
  { State.reset with
    stage := 7, contexts := [(1, { newContext 0 1 with debug := true })], launches := [(2, haltedLaunch)], teams := [(3, haltedTeam)]
    groups := [(4, haltedGroup)], lantern := [(0, { Lantern.empty with request := readRequest })] }

/-- Refutes O59: the statement has every READ of a halted group in user code enter the handler bank at once, but where an instruction still
holds the group's issue Lantern enters only when that has completed (log entry 53; `State.debugEntry`), and the group has no handler yet. -/
theorem not_mailboxCommands : ¬ Obligations.MailboxCommands := by
  unfold Obligations.MailboxCommands
  rintro ⟨-, -, -, -, -, hlantern, -⟩
  obtain ⟨-, -, hserve⟩ := hlantern (.readCmd 0) haltedDevice 0 2 rfl (by decide) rfl rfl (by decide) (by decide) rfl
  obtain ⟨-, hgroup⟩ := hserve rfl
  obtain ⟨-, -, -, hread⟩ := hgroup haltedGroup (by decide)
  obtain ⟨u, g', h, hu, hg', hhand, -⟩ := hread rfl rfl rfl (by decide)
  have hexec : exec (.readCmd 0) haltedDevice =
      .next ((haltedDevice.setLantern 0 { Lantern.empty with request := cellSet readRequest 0 (cellGet readRequest 0 &&& 0x7FFFFFFF) }).lanternAccess
        0 readRequest haltedGroup) := rfl
  obtain rfl := Host.Outcome.next.inj (hexec.symm.trans hu)
  rw [State.group?, State.lanternAccess_held _ _ _ (uid := 5) rfl] at hg'
  obtain rfl : haltedGroup = g' := Option.some.inj hg'
  exact absurd hhand nofun

end Sys2Proof.Machine
end

section
/-! SUPPORT. Energy, clocks, boot and maintenance (R378 to R388): what each event does where its condition holds. -/

namespace Sys2Proof.Machine

open Sys2Proof.Claims

/-! ## What the Almanac's writes leave as it is -/

/-- What every step of a fold keeps, the fold keeps. -/
theorem foldl_keeps {α β : Type} (p : State → β) {f : State → α → State} (hf : ∀ s a, p (f s a) = p s) (xs : List α) (s : State) :
    p (xs.foldl f s) = p s := by
  induction xs generalizing s with
  | nil => rfl
  | cons x xs ih => exact (ih _).trans (hf s x)

theorem State.vwrite_eq {s u : State} {asid va n v : Nat} (h : s.vwrite asid va n v = .ok u) :
    ∃ m w ps, u = { s with dram := m, watch := w, partials := ps } := by
  obtain ⟨m, w, ps, hr⟩ := s.recallWalk_eq asid va
  unfold State.vwrite at h
  dsimp only at h
  split at h
  · next pa _ _ _ _ _ =>
    obtain ⟨m', w', ps', hw⟩ := (s.recallWalk asid va).homeWrite_eq pa n v
    cases h
    exact ⟨m', w', ps', by rw [hw, hr]⟩
  · cases h

theorem State.vwrites_eq {asid : Nat} (ws : List Word) {s u : State} {va : Nat} (h : s.vwrites asid va ws = .ok u) :
    ∃ m w ps, u = { s with dram := m, watch := w, partials := ps } := by
  induction ws generalizing s va with
  | nil => exact ⟨_, _, _, (Except.ok.inj h).symm⟩
  | cons w ws ih =>
    unfold State.vwrites at h
    split at h
    · cases h
    · next t ht =>
      obtain ⟨m, w, ps, rfl⟩ := State.vwrite_eq ht
      obtain ⟨m', w', ps', rfl⟩ := ih h
      exact ⟨m', w', ps', rfl⟩

theorem State.modDesc_eq (s : State) (asid a : Nat) (f : Desc → Desc) :
    ∃ m w ps, s.modDesc asid a f = { s with dram := m, watch := w, partials := ps } := by
  obtain ⟨m, w, ps, ht⟩ := s.touch_eq asid a 64
  unfold State.modDesc
  dsimp only
  split
  · exact ⟨m, w, ps, ht⟩
  · split
    · next u hu =>
      obtain ⟨m', w', ps', rfl⟩ := State.vwrites_eq _ hu
      exact ⟨m', w', ps', by rw [ht]⟩
    · exact ⟨m, w, ps, ht⟩

/-- A task that becomes READY changes device memory and the ready queues alone. -/
theorem State.makeReady_eq (s : State) (asid task : Nat) :
    ∃ m w ps rd rf, s.makeReady asid task = { s with dram := m, watch := w, partials := ps, ready := rd, reservedFor := rf } := by
  unfold State.makeReady
  split
  · exact ⟨s.dram, s.watch, s.partials, s.ready, s.reservedFor, rfl⟩
  · obtain ⟨m, w, ps, h⟩ := s.modDesc_eq asid task fun d => d.move stReady
    dsimp only
    rw [h]
    split
    · exact ⟨m, w, ps, _, s.reservedFor, rfl⟩
    · split
      · exact ⟨m, w, ps, s.ready, _, rfl⟩
      · exact ⟨m, w, ps, _, s.reservedFor, rfl⟩

/-- What the release of a context's parked tasks keeps: whatever device memory and the ready queues do not show. -/
theorem State.releaseParked_keeps {β : Type} (p : State → β)
    (hp : ∀ s m w ps rd rf, p { s with dram := m, watch := w, partials := ps, ready := rd, reservedFor := rf } = p s) (s : State)
    (c : Context) : p (s.releaseParked c) = p s := by
  unfold State.releaseParked
  split
  · rfl
  · refine foldl_keeps p (fun s v => ?_) _ _
    obtain ⟨m, w, ps, rd, rf, h⟩ := s.makeReady_eq c.asid v.task
    rw [h, hp]

/-- A team that is asked to leave: groups and teams alone change. -/
theorem State.requestTeam_keeps {β : Type} (p : State → β) (hp : ∀ s gs ts, p { s with groups := gs, teams := ts } = p s) (s : State)
    (team : Nat) (r : Request) : p (s.requestTeam team r) = p s := by
  unfold State.requestTeam
  exact (foldl_keeps p (fun s g => hp s _ s.teams) _ _).trans (hp s s.groups _)

/-! ## ACCOUNT_TICK (R379) -/

/-- Changing every record of a table changes the one at a key. -/
theorem tabGet?_mapValues {α : Type} (t : Tab α) (f : α → α) (k : Nat) :
    tabGet? (t.map fun e => (e.1, f e.2)) k = (tabGet? t k).map f := by
  induction t with
  | nil => rfl
  | cons e t ih =>
    simp only [List.map_cons, tabGet?, ih]
    split <;> rfl

theorem execAccountTick_early {s : State} (h : now s < s.lastTick + 100000) : execAccountTick s = .fault .notEnabled := by
  simp [execAccountTick, Config.accountTick, h]

/-- The teams that a tick asks to leave and the parked tasks that it releases change nothing of the accounts. -/
theorem accounts_of_moves (cs : List Context) (ms : List Team) (t : State) :
    let u := cs.foldl State.releaseParked (ms.foldl (fun (t : State) (m : Team) => t.requestTeam m.uid .energy) t)
    u.lastTick = t.lastTick ∧ u.meters = t.meters ∧ u.contexts = t.contexts := by
  have hkeep {β : Type} (p : State → β)
      (hp : ∀ s gs ts m w ps rd rf,
        p { s with groups := gs, teams := ts, dram := m, watch := w, partials := ps, ready := rd, reservedFor := rf } = p s) :
      p (cs.foldl State.releaseParked (ms.foldl (fun (t : State) (m : Team) => t.requestTeam m.uid .energy) t)) = p t :=
    (foldl_keeps p (State.releaseParked_keeps p fun s => hp s s.groups s.teams) _ _).trans
      (foldl_keeps p (fun t (m : Team) => State.requestTeam_keeps p
        (fun s gs ts => hp s gs ts s.dram s.watch s.partials s.ready s.reservedFor) t m.uid .energy) _ _)
  exact ⟨hkeep State.lastTick fun _ _ _ _ _ _ _ _ => rfl, hkeep State.meters fun _ _ _ _ _ _ _ _ => rfl,
    hkeep State.contexts fun _ _ _ _ _ _ _ _ => rfl⟩

/-- A tick that is due: the accounts are those of `State.tickContext`, whatever teams and parked tasks it moves. -/
theorem execAccountTick_due {s : State} (hs : s.stopped = false) (h : s.lastTick + 100000 ≤ now s) :
    ∃ u, execAccountTick s = .next u ∧ u.lastTick = s.lastTick + 100000 ∧ u.meters = [] ∧
      u.contexts = s.contexts.map fun e => (e.1, s.tickContext ((s.lastTick + 100000) / 100000) e.2) := by
  have hdue : (s.stopped || decide (now s < s.lastTick + Config.accountTick)) = false := by
    rw [hs, Bool.false_or, decide_eq_false_iff_not]
    exact Nat.not_lt.mpr h
  unfold execAccountTick
  simp only [hdue, Bool.false_eq_true, if_false]
  exact ⟨_, rfl, accounts_of_moves _ _ _⟩

/-- A context without meters is charged nothing. -/
theorem State.charges_of_none (s : State) (n : Nat) (p : Meter → Bool) (h : ∀ m ∈ s.meters, p m = false) : s.charges n p = 0 := by
  have hf : s.meters.filter p = [] := List.filter_eq_nil_iff.mpr fun m hm => by simp [h m hm]
  simp [State.charges, hf]

/-! ## Clocks (R383, R384) -/

theorem State.clockOf_setClock (s : State) (core : Nat) (f : Clock → Clock) (k : Nat) :
    (s.setClock core f).clockOf k = if k = core then f (s.clockOf core) else s.clockOf k := tabGetD_tabSet ..

/-- A change of some cores' clocks is one of `State.clocks` alone. -/
theorem foldl_setClock_only (f : Clock → Clock) (cores : List Nat) (s : State) :
    cores.foldl (fun (s : State) core => s.setClock core f) s =
      { s with clocks := (cores.foldl (fun (s : State) core => s.setClock core f) s).clocks } := by
  induction cores generalizing s with
  | nil => rfl
  | cons core cores ih => exact ih (s.setClock core f)

/-- The limiter's stretch reaches the clocks of the cores named and of no other. -/
theorem clockOf_stretch (n : Nat) (cores : List Nat) (s : State) (k : Nat) :
    (cores.foldl (fun (s : State) core => s.setClock core fun c => { c with stretch := n }) s).clockOf k =
      if k ∈ cores then { s.clockOf k with stretch := n } else s.clockOf k := by
  induction cores generalizing s with
  | nil => simp
  | cons core cores ih =>
    rw [List.foldl_cons, ih, State.clockOf_setClock]
    by_cases hk : k = core
    · subst hk
      simp
    · simp [hk]

/-- The cores of the compute dies that the limiter's event names, 32 to a die (R383). -/
theorem clockOf_limited (dies : BitVec 8) (n : Nat) (s : State) (k : Nat) :
    (((List.range 256).filter fun core => dies.getLsbD (core / 32)).foldl (fun (s : State) core =>
      s.setClock core fun c => { c with stretch := n }) s).clockOf k =
      if k < 256 ∧ dies.getLsbD (k / 32) = true then { s.clockOf k with stretch := n } else s.clockOf k := by
  simp only [clockOf_stretch, List.mem_filter, List.mem_range]

/-- One core's clock changes, and nothing else. -/
theorem State.setClock_only (s : State) (core : Nat) (f : Clock → Clock) :
    s.setClock core f = { s with clocks := (s.setClock core f).clocks } ∧ (s.setClock core f).clockOf core = f (s.clockOf core) ∧
      ∀ k, k ≠ core → (s.setClock core f).clockOf k = s.clockOf k :=
  ⟨rfl, by rw [State.clockOf_setClock, if_pos rfl], fun k hk => by rw [State.clockOf_setClock, if_neg hk]⟩

theorem execCurrentLimit_running {s : State} {x : RailStretch} (hs : s.stopped = false) :
    execCurrentLimit x s = .next (((List.range 256).filter fun core => x.dies.getLsbD (core / 32)).foldl (fun (s : State) core =>
      s.setClock core fun c => { c with stretch := x.stretch }) s) := by
  simp only [execCurrentLimit, hs, Bool.false_eq_true, if_false]

theorem execDroop_running {s : State} {x : CoreStretch} (hs : s.stopped = false) (hc : x.core < 256) :
    execDroop x s = .next (s.setClock x.core fun c => { c with edge := c.edge + x.stretch }) := by
  unfold execDroop
  rw [if_neg (by simp [hs, hc])]

theorem execTrackingLoop_running {s : State} {x : CoreRate} (hs : s.stopped = false) (hc : x.core < 256) (h1 : 1 ≤ x.mhz)
    (h2 : x.mhz ≤ 3300) : execTrackingLoop x s = .next (s.setClock x.core fun c => { c with mhz := x.mhz }) := by
  unfold execTrackingLoop
  rw [if_neg (by simp [hs, hc, h2]; omega)]

/-! ## Boot (R385, R388) -/

/-- Stages 0 and 1: the boot ROM goes on once the coldest junction is at 0 degrees or above. -/
theorem execPowerGood_cold {s : State} (hs : s.stopped = false) (h : s.stage = 0 ∨ s.stage = 1) (t : BitVec 8) :
    ∃ u, execPowerGood t s = .next u ∧ u.tjmin = t ∧ u.stage = if t.toInt < 0 then 1 else 2 := by
  have hcold : t.slt 0#8 = decide (t.toInt < 0) := by simp [BitVec.slt]
  by_cases ht : t.toInt < 0
  · rcases h with h | h <;> simp [execPowerGood, hs, h, hcold, ht]
  · rcases h with h | h <;> simp [execPowerGood, hs, h, hcold, ht]

/-- The stages after it, in order: the flash's image is verified in stage 3, and the capability list is written on the way to stage 7. -/
theorem execPowerGood_next {s : State} (hs : s.stopped = false) (t : BitVec 8) :
    (s.stage = 2 → execPowerGood t s = .next { s with tjmin := t, stage := 3 }) ∧
      (s.stage = 3 → execPowerGood t s = .next ({ s with tjmin := t }.verifyImage s.flash)) ∧
      (s.stage = 5 → execPowerGood t s = .next { s with tjmin := t, stage := 6 }) ∧
      (s.stage = 6 → execPowerGood t s = .next { { s with tjmin := t }.writeCaps with stage := 7 }) ∧
      (s.stage = 4 ∨ s.stage = 7 → execPowerGood t s = .fault .notEnabled) := by
  refine ⟨fun h => ?_, fun h => ?_, fun h => ?_, fun h => ?_, fun h => ?_⟩
  · simp [execPowerGood, hs, h]
  · simp [execPowerGood, hs, h]
  · simp [execPowerGood, hs, h]
  · simp [execPowerGood, hs, h]
  · rcases h with h | h <;> simp [execPowerGood, hs, h]

theorem State.verifyImage_spec (s : State) (image : List Byte) :
    (Config.imageVerifies image = true →
      (s.verifyImage image).stage = 5 ∧ (s.verifyImage image).fail = false ∧ (s.verifyImage image).image = image) ∧
      (Config.imageVerifies image = false →
        (s.verifyImage image).stage = 4 ∧ (s.verifyImage image).fail = true ∧ (s.verifyImage image).image = s.image) ∧
      (s.verifyImage image).flash = s.flash := by
  unfold State.verifyImage
  split
  · next h => exact ⟨fun _ => ⟨rfl, rfl, rfl⟩, fun h' => absurd h (by simp [h']), rfl⟩
  · next h => exact ⟨fun h' => absurd h' h, fun _ => ⟨rfl, rfl, rfl⟩, rfl⟩

/-! ## Maintenance (R386, R387) -/

/-- The event of a maintenance action: the repair of a column's bus, or the retraining of its pair of channels. -/
def maintEvent (repair : Bool) (column : Nat) : Instr := if repair then .busRepair column else .channelRetrain column

section
variable {s : State} {column : Nat} (repair : Bool)

/-- With no action under way one begins. -/
theorem exec_maintEvent_begins (hm : s.mayMaintain column = true) (hn : s.maint = []) :
    exec (maintEvent repair column) s = .next { s with maint := [⟨column, repair, now s, []⟩] } := by
  cases repair
  · show execChannelRetrain column s = _
    simp [execChannelRetrain, hm, hn, State.beginMaint]
  · show execBusRepair column s = _
    simp [execBusRepair, hm, hn, State.maintAt, State.beginMaint]

/-- The second occurrence of an action's event ends it, and what it has held comes first. -/
theorem exec_maintEvent_ends {m : Maint} (hm : s.mayMaintain column = true) (hn : s.maint = [m]) (hr : m.repair = repair)
    (hc : m.column = column) : exec (maintEvent repair column) s = .next { s with maint := [], agenda := m.arrived ++ s.agenda } := by
  subst hr hc
  cases h : m.repair
  · show execChannelRetrain m.column s = _
    simp [execChannelRetrain, hm, hn, h, State.endMaint]
  · show execBusRepair m.column s = _
    simp [execBusRepair, hm, hn, h, State.endMaint]

/-- An action of the other kind in the column keeps one from beginning. -/
theorem exec_maintEvent_other {m : Maint} (hm : s.mayMaintain column = true) (hn : s.maint = [m]) (hr : m.repair ≠ repair)
    (hc : m.column = column) : exec (maintEvent repair column) s = .fault .notEnabled := by
  subst hc
  cases repair
  · have h : m.repair = true := by simpa using hr
    show execChannelRetrain m.column s = _
    simp [execChannelRetrain, hm, hn, h]
  · have h : m.repair = false := by simpa using hr
    show execBusRepair m.column s = _
    simp [execBusRepair, hm, hn, h, State.maintAt, Maint.holds]

end

/-- The events that take requests to their homes are those that maintenance holds. -/
theorem homeEvent_holdOr {s : State} {ev : Instr} {places : List Nat} {out : Out} (h : homeEvent s ev = some (places, out)) :
    ∃ pas : State → List Nat, pas s = places ∧ exec ev s = s.holdOr pas ev out := by
  unfold homeEvent at h
  split at h
  all_goals cases h
  · exact ⟨fun s => s.requestPlaces _ _, rfl, rfl⟩
  · exact ⟨fun s => s.retryPlaces _, rfl, rfl⟩
  · exact ⟨fun s => s.windowPlaces _ _ _, rfl, rfl⟩
  · exact ⟨fun s => s.windowPlaces _ _ _, rfl, rfl⟩
  · exact ⟨fun s => s.windowPlaces _ _ _, rfl, rfl⟩
  · exact ⟨fun s => s.windowPlaces _ _ _, rfl, rfl⟩

/-- An event that a maintenance action holds takes its place in the order of arrival, once (R386). -/
theorem State.holdOr_waits {s u : State} {m : Maint} {pas : State → List Nat} {ev : Instr} (he : exec ev s = s.holdOr pas ev (.next u))
    (h : s.maintFor (pas s) = some m) : Waits s m ev := by
  have hne : s.maint ≠ [] := fun hn => by simp [State.maintFor, hn] at h
  have hh : exec ev s = if m.arrived.contains ev then .fault .notEnabled else .next (s.holdEvent m ev) := by
    rw [he]
    unfold State.holdOr
    split
    · next hn => exact absurd hn hne
    · rw [h]
  exact ⟨fun ha => by rw [hh, if_pos ha], fun ha => by rw [hh, ha]; rfl⟩

end Sys2Proof.Machine
end

section
/-! SUPPORT. The host's WRITEs, READs and register writes (R369 to R371), and the statement of the device's events. -/

namespace Sys2Proof.Machine

open Sys2Proof.Claims

/-! ## WRITE -/

/-- A WRITE is dropped where its form is bad, where the device takes none, or where its window does not let it in. -/
theorem execHostWrite_malformed {s : State} {win : BitVec 6} {off : BitVec 48} {ws : List Word} (hs : s.stopped = false)
    (h : hostFormOk off.toNat ws.length = false) : execHostWrite win off ws s = .next s.dropWrite := by
  simp [execHostWrite, hs, h]

theorem execHostWrite_notRunning {s : State} {win : BitVec 6} {off : BitVec 48} {ws : List Word} (hs : s.stopped = false)
    (h7 : s.stage ≠ 7) (h4 : s.stage ≠ 4) : execHostWrite win off ws s = .next s.dropWrite := by
  by_cases hf : hostFormOk off.toNat ws.length = true
  · unfold execHostWrite
    dsimp only
    rw [if_neg (by simp [hs]), if_neg (by simp [hf]), if_pos (by simpa using h7), if_neg fun h => h4 (of_decide_eq_true (Bool.and_eq_true_iff.mp h).1)]
  · exact execHostWrite_malformed hs (by simpa using hf)

theorem execHostWrite_closed {s : State} {win : BitVec 6} {off : BitVec 48} {ws : List Word} (hs : s.stopped = false) (h7 : s.stage = 7)
    (hw : win ≠ 0) (h : s.windowAddrs win.toNat off.toNat ws.length true = none) : execHostWrite win off ws s = .next s.dropWrite := by
  by_cases hf : hostFormOk off.toNat ws.length = true
  · unfold execHostWrite
    dsimp only
    rw [if_neg (by simp [hs]), if_neg (by simp [hf]), if_neg (by simp [h7]), if_neg hw, h]
  · exact execHostWrite_malformed hs (by simpa using hf)

/-- The capability list takes no WRITE (R27). -/
theorem execHostWrite_caps {s : State} {off : BitVec 48} {ws : List Word} (hs : s.stopped = false) (h7 : s.stage = 7)
    (h : off.toNat < 136) : execHostWrite 0 off ws s = .next s.dropWrite := by
  by_cases hf : hostFormOk off.toNat ws.length = true
  · have h4 : off.toNat % 4 = 0 := by simpa [hostFormOk] using (Bool.and_eq_true_iff.mp hf).1
    have hn : s.hostNamed off.toNat true = false := by simp [State.hostNamed, hostPlace, h, h4, State.hostPut]
    simp [execHostWrite, hs, h7, hf, hn]
  · exact execHostWrite_malformed hs (by simpa using hf)

/-- The offset of a context's TAIL register in window 0 (R295, R370). -/
theorem hostPlace_tail {asid : Nat} (h : asid < 16384) : hostPlace (0x4000000 + 0x1000 * asid) = some (.doorbell asid 0) := by
  unfold hostPlace
  have h1 : (0x4000000 + 0x1000 * asid) % 4 = 0 := by omega
  have h2 : (0x4000000 + 0x1000 * asid) % 0x1000 = 0 := by omega
  have h3 : 0x1000 * asid / 0x1000 = asid := by omega
  simp only [h1, h2, Nat.add_sub_cancel_left, h3]
  rw [if_neg (by simp), if_neg (by omega), if_neg (by simp; omega), if_neg (by simp; omega), if_neg (by simp; omega), if_pos (by simp; omega)]
  simp

/-- A TAIL write waits as a doorbell (R371, R386). -/
theorem execHostWrite_tail {s : State} {off : BitVec 48} {w : Word} {asid : Nat} {c : Context} (hs : s.stopped = false) (h7 : s.stage = 7)
    (ha : asid < 16384) (ho : off.toNat = 0x4000000 + 0x1000 * asid) (hc : s.context? asid = some c) :
    execHostWrite 0 off [w] s = .next { s with doorbells :=
      s.doorbells ++ [(asid, 0, w, if s.hostHeld then none else some s.hostHorizon)] } := by
  have hf : hostFormOk (0x4000000 + 0x1000 * asid) 1 = true := by simp [hostFormOk]; omega
  have hput (v : Word) : s.hostPut s (.doorbell asid 0) v =
      some { s with doorbells := s.doorbells ++ [(asid, 0, v, if s.hostHeld then none else some s.hostHorizon)] } := by
    simp [State.hostPut, hc]
  have hn : s.hostNamed (0x4000000 + 0x1000 * asid) true = true := by simp [State.hostNamed, hostPlace_tail ha, hput]
  have hp : s.hostPuts s (0x4000000 + 0x1000 * asid) [w] =
      some { s with doorbells := s.doorbells ++ [(asid, 0, w, if s.hostHeld then none else some s.hostHorizon)] } := by
    simp [State.hostPuts, hostPlace_tail ha, hput]
  simp [execHostWrite, hs, h7, ho, hf, hn, hp]

theorem hostFormOk_false {off len : Nat} (h : off % 4 ≠ 0 ∨ 64 < len) : hostFormOk off len = false := by
  simp only [hostFormOk, Bool.and_eq_false_iff, beq_eq_false_iff_ne, decide_eq_false_iff_not, Nat.not_le]
  exact h

theorem hostFormOk_word {off : Nat} (h : off % 4 = 0) : hostFormOk off 1 = true := by simp [hostFormOk, h]

/-- A word for a window waits for the maintenance action that holds its home (R386). -/
theorem execHostWrite_held {s : State} {win : BitVec 6} {off : BitVec 48} {w : Word} {pa : Nat} {m : Maint} (hs : s.stopped = false)
    (h7 : s.stage = 7) (hw : win ≠ 0) (h4 : off.toNat % 4 = 0) (hp : s.windowAddrs win.toNat off.toNat 1 true = some [pa])
    (hm : s.hostMaint win.toNat off.toNat 1 [pa] = some m) :
    execHostWrite win off [w] s = .next (s.holdEvent m (.hostWrite win off [w])) := by
  unfold execHostWrite
  dsimp only [List.length_singleton]
  rw [if_neg (by simp [hs]), if_neg (by simp [hostFormOk_word h4]), if_neg (by simp [h7]), if_neg hw, hp]
  dsimp only
  rw [hm]

theorem execHostWrite_word {s : State} {win : BitVec 6} {off : BitVec 48} {w : Word} {pa : Nat} (hs : s.stopped = false)
    (h7 : s.stage = 7) (hw : win ≠ 0) (h4 : off.toNat % 4 = 0) (hp : s.windowAddrs win.toNat off.toNat 1 true = some [pa])
    (hm : s.hostMaint win.toNat off.toNat 1 [pa] = none) :
    execHostWrite win off [w] s = .next ((s.touchWindow win.toNat off.toNat 1).hostStore [(pa, w)]) := by
  unfold execHostWrite
  dsimp only [List.length_singleton]
  rw [if_neg (by simp [hs]), if_neg (by simp [hostFormOk_word h4]), if_neg (by simp [h7]), if_neg hw, hp]
  dsimp only
  rw [hm]
  rfl

/-- A window of physical addresses, or one whose tables have no partial results, needs no recall (R245). -/
theorem State.touchWindow_of_none (s : State) (win off len : Nat) (h : (s.hostWin win 3).testBit 14 = true → s.partials = []) :
    s.touchWindow win off len = s := by
  unfold State.touchWindow
  dsimp only
  split
  · next ht =>
    have hr (va : Nat) : s.recallWalk (s.hostWin win 3 % 2 ^ 14) va = s := s.recallWalk_of_none _ _ (h ht)
    induction List.range len with
    | nil => rfl
    | cons k ks ih => rw [List.foldl_cons, hr, ih]
  · rfl

/-- One word of the host's at its home: device memory is that of the write, and the other memories stand. -/
theorem State.hostStore_word (s : State) (pa : Nat) (w : Word) (h : ∀ q ∈ s.partials, q.addr / 128 ≠ pa / 128) :
    (s.hostStore [(pa, w)]).dram = s.keepCaps pa 4 (writeNat s.dram pa 4 w.toNat) ∧ (s.hostStore [(pa, w)]).scratch = s.scratch ∧
      (s.hostStore [(pa, w)]).pool = s.pool := by
  obtain ⟨m, w', ps, hw⟩ := s.homeWrite_eq pa 4 w.toNat
  unfold State.hostStore
  simp only [List.foldl_cons, List.foldl_nil]
  exact ⟨State.homeWrite_dram h .., by rw [hw], by rw [hw]⟩

/-! ## READ -/

theorem execHostRead_bad {s : State} {win : BitVec 6} {off : BitVec 48} {len : BitVec 10} {tag : BitVec 8} (hs : s.stopped = false)
    (h : s.stage ≠ 7 ∨ hostFormOk off.toNat len.toNat = false) : execHostRead win off len tag s = .next (s.tellHost (.error tag)) := by
  have hbad : (s.stage != 7 || !hostFormOk off.toNat len.toNat) = true := by
    rcases h with h | h
    · rw [bne_iff_ne.mpr h, Bool.true_or]
    · rw [h, Bool.not_false, Bool.or_true]
  unfold execHostRead
  dsimp only
  rw [if_neg (by simp [hs]), if_pos hbad]

theorem execHostRead_closed {s : State} {win : BitVec 6} {off : BitVec 48} {len : BitVec 10} {tag : BitVec 8} (hs : s.stopped = false)
    (hw : win ≠ 0) (h : s.windowAddrs win.toNat off.toNat len.toNat false = none) :
    execHostRead win off len tag s = .next (s.tellHost (.error tag)) := by
  by_cases hbad : s.stage ≠ 7 ∨ hostFormOk off.toNat len.toNat = false
  · exact execHostRead_bad hs hbad
  · obtain ⟨h7, hf⟩ := not_or.mp hbad
    unfold execHostRead
    dsimp only
    rw [if_neg (by simp [hs]), if_neg (by simp [not_not.mp h7, hf]), if_neg hw, h]

/-- The capability list reads in the management window: its signature comes first (R25, R370). -/
theorem execHostRead_caps {s : State} {tag : BitVec 8} (hs : s.stopped = false) (h7 : s.stage = 7) :
    execHostRead 0 0 1 tag s = .next (s.tellHost (.readData tag [0x43415031])) := by
  have hget : s.hostGet (.caps 0) = some 0x43415031 := rfl
  have hplace : hostPlace 0 = some (.caps 0) := rfl
  have hn : s.hostNamed 0 false = true := by simp [State.hostNamed, hplace, hget]
  have hg : s.hostGets 0 1 = some [0x43415031] := by simp [State.hostGets, hplace, hget]
  simp [execHostRead, hs, h7, hostFormOk, hn, hg]

/-! ## REGISTER_WRITE -/

/-- A register's write changes the mailboxes, the descriptors and the doorbells alone, so no byte of a memory. -/
theorem State.hostPut_sameBytes {s old u : State} {p : HostPlace} {v : Word} (h : s.hostPut old p v = some u) : SameBytes s u := by
  unfold State.hostPut at h
  split at h
  · cases h
  · dsimp only at h
    split at h <;> cases h <;> exact .refl s
  · cases h; exact .refl s
  · split at h <;> cases h <;> exact .refl s
  · cases h; exact .refl s
  · cases h; exact .refl s
  · cases h; exact .refl s
  · split at h <;> cases h
    exact .refl s

theorem execRegisterWrite_sameBytes {s : State} (reg : HostReg) (v : Word) (hs : s.stopped = false) :
    ∃ u, execRegisterWrite reg v s = .next u ∧ SameBytes s u := by
  unfold execRegisterWrite
  simp only [hs, Bool.false_eq_true, if_false]
  split
  · exact ⟨_, rfl, .refl s⟩
  · refine ⟨_, rfl, ?_⟩
    cases hr : Option.bind _ _ with
    | none => exact .refl s
    | some u =>
      obtain ⟨p, -, hp⟩ := Option.bind_eq_some_iff.mp hr
      exact State.hostPut_sameBytes hp

theorem execRegisterWrite_window {s : State} {win w : Nat} (v : Word) (hs : s.stopped = false) (h7 : s.stage = 7) (h1 : 1 ≤ win)
    (h64 : win < 64) (hw : w < 4) :
    execRegisterWrite (.windowWord win w) v s = .next { s with hostWins := cellSet s.hostWins (win * 4 + w) v } := by
  simp [execRegisterWrite, hs, h7, h1, h64, hw, State.hostPut]

/-! ## The statement -/

/-- Settles O58, event by event: the accounts of a tick (`execAccountTick_due`), the clocks (`clockOf_stretch`, `setClock_only`), the stages of
the boot, maintenance (`exec_maintEvent_begins`, `homeEvent_holdOr`, `holdOr_waits`) and the host link (`hostStore_word`). -/
theorem deviceEvents : Obligations.DeviceEvents := by
  refine ⟨fun s hs => ⟨execAccountTick_early, fun ht => ?_⟩, fun s n core dies hs => ?_, fun s t => ⟨fun hs => ?_, fun hs => ?_⟩,
    fun s ev places out he => ?_, fun s win off ws hs => ?_, fun s win off len tag hs => ?_, fun s reg v hs => ?_⟩
  · obtain ⟨u, hu, htick, hmeters, hcontexts⟩ := execAccountTick_due hs ht
    refine ⟨u, hu, htick, hmeters, fun asid c hc => ⟨s.tickContext ((s.lastTick + 100000) / 100000) c, ?_, rfl, rfl, min_le_right .., ?_, ?_, ?_⟩⟩
    · rw [State.context?, hcontexts, tabGet?_mapValues]
      exact congrArg (Option.map _) hc
    · exact decide_eq_true_iff
    · rw [htick]
      rfl
    · intro hnone
      have hzero := s.charges_of_none ((s.lastTick + 100000) / 100000) (fun m => m.asid == c.asid) fun m hm => by simpa using hnone m hm
      simp only [State.tickContext, hzero, Nat.cast_zero, sub_zero]
  · refine ⟨?_, fun hc => ?_, fun hc => ?_, ?_, fun hc h1 h2 => ?_, fun hc => ?_⟩
    · exact ⟨_, execCurrentLimit_running hs, foldl_setClock_only .., fun k => clockOf_limited ..⟩
    · exact ⟨_, execDroop_running hs hc, s.setClock_only core _⟩
    · exact if_pos (by simp [hc])
    · exact ⟨_, if_neg (by simp [hs]), rfl⟩
    · exact ⟨_, execTrackingLoop_running hs hc h1 h2, s.setClock_only core _⟩
    · exact if_pos (by simpa [hs, or_assoc] using hc)
  · exact ⟨_, if_pos hs, rfl, rfl, rfl, rfl, rfl, rfl, rfl, rfl⟩
  · obtain ⟨hdevice, hverify, hfirmware, hruns, hends⟩ := execPowerGood_next hs t
    refine ⟨fun h => execPowerGood_cold hs h t, fun h => ⟨_, hdevice h, rfl⟩, fun h => ?_, fun h => ⟨_, hfirmware h, rfl⟩,
      fun h => ⟨_, hruns h, rfl⟩, hends, fun h image => ?_, fun h image => ?_, fun h column hc repair => ?_⟩
    · obtain ⟨hgood, hbad, -⟩ := State.verifyImage_spec { s with tjmin := t } s.flash
      exact ⟨_, hverify h, hgood, hbad⟩
    · exact if_pos (by simpa [hs] using h)
    · obtain ⟨hgood, hbad, hflash⟩ := s.verifyImage_spec image
      exact ⟨_, if_neg (by simp [hs, h]), fun hv => ⟨(hgood hv).1, (hgood hv).2.1, (hgood hv).2.2, hflash⟩, hbad⟩
    · have hm : s.mayMaintain column = true := by simp [State.mayMaintain, hs, h, hc]
      exact ⟨fun hn => ⟨_, _, exec_maintEvent_begins repair hm hn, rfl, rfl, rfl, rfl, rfl⟩, fun m => exec_maintEvent_ends repair hm,
        fun m => exec_maintEvent_other repair hm⟩
  · obtain ⟨pas, rfl, hev⟩ := homeEvent_holdOr he
    exact ⟨fun hm => hev.trans (State.holdOr_free hm), fun m u hm hu => State.holdOr_waits (hu ▸ hev) hm⟩
  · refine ⟨?_, ?_, ?_, ?_, ?_, ?_⟩
    · exact fun h => ⟨_, execHostWrite_malformed hs (hostFormOk_false h), rfl⟩
    · exact fun h7 h4 => ⟨_, execHostWrite_notRunning hs h7 h4, rfl⟩
    · exact fun h7 hw h => ⟨_, execHostWrite_closed hs h7 hw h, rfl⟩
    · rintro h7 rfl h
      exact ⟨_, execHostWrite_caps hs h7 h, rfl⟩
    · rintro h7 asid c w ha rfl ho rfl hc
      exact ⟨_, execHostWrite_tail hs h7 ha ho hc, rfl⟩
    · rintro h7 w pa hw rfl h4 hp
      refine ⟨fun m hm => execHostWrite_held hs h7 hw h4 hp hm, fun hm hpart => ⟨_, execHostWrite_word hs h7 hw h4 hp hm, ?_⟩⟩
      have htouch : s.touchWindow win.toNat off.toNat 1 = s := s.touchWindow_of_none _ _ _ fun ht =>
        List.eq_nil_iff_forall_not_mem.mpr fun q hq => by simp [(hpart q hq).2] at ht
      obtain ⟨hdram, hscratch, hpool⟩ := s.hostStore_word pa w fun q hq => (hpart q hq).1
      rw [htouch, hdram]
      exact ⟨fun j hj hoff => (State.keepCaps_off_byte hoff _ _ _).trans (cellGet_writeNat_of_inside _ _ _ _ _ hj),
        fun c hc j hj => State.keepCaps_caps hc _ _ _ _ hj,
        fun b hb => s.keepCaps_outside _ _ _ _ (cellGet_writeNat_of_outside _ _ _ _ _ hb), hscratch, hpool⟩
  · refine ⟨?_, ?_, ?_, ?_⟩
    · exact fun h => ⟨_, execHostRead_bad hs (.inr (hostFormOk_false h)), rfl⟩
    · exact fun h => ⟨_, execHostRead_bad hs (.inl h), rfl⟩
    · exact fun _ hw h => ⟨_, execHostRead_closed hs hw h, rfl⟩
    · rintro h7 rfl rfl rfl
      exact ⟨_, execHostRead_caps hs h7, rfl⟩
  · refine ⟨execRegisterWrite_sameBytes reg v hs, ?_⟩
    rintro win w rfl h1 h64 hw h7
    exact ⟨_, execRegisterWrite_window v hs h7 h1 h64 hw, by rw [cellGet_cellSet, if_pos rfl], fun k hk => by rw [cellGet_cellSet, if_neg hk]⟩

end Sys2Proof.Machine
end

section
/-! SUPPORT. The encoder's words, field by field: what the decoder reads back of a full form's fields and of a compact word (R36, R42 to R59). -/

namespace Sys2Proof

/-! ## The codes of the enumerations -/

@[simp] theorem Level.ofCode_code (v : Level) : Level.ofCode v.code = v := by cases v <;> rfl
@[simp] theorem Ty.ofCode_code (v : Ty) : Ty.ofCode v.code = some v := by cases v <;> rfl
@[simp] theorem Rnd.ofCode_code (v : Rnd) : Rnd.ofCode v.code = v := by cases v <;> rfl
@[simp] theorem Cmp.ofCode_code (v : Cmp) : Cmp.ofCode v.code = v := by cases v <;> rfl
@[simp] theorem MoviTy.ofCode_code (v : MoviTy) : MoviTy.ofCode v.code = some v := by cases v <;> rfl
@[simp] theorem Hint.ofCode_code (v : Hint) : Hint.ofCode v.code = some v := by cases v <;> rfl
@[simp] theorem ShflMode.ofCode_code (v : ShflMode) : ShflMode.ofCode v.code = some v := by cases v <;> rfl
@[simp] theorem VoteMode.ofCode_code (v : VoteMode) : VoteMode.ofCode v.code = Option.some v := by cases v <;> rfl
@[simp] theorem PsetComb.ofCode_code (v : PsetComb) : PsetComb.ofCode v.code = some v := by cases v <;> rfl
@[simp] theorem Space.ofCode_code (v : Space) : Space.ofCode v.code = some v := by cases v <;> rfl
/-- COPY and AQPUT write a space in two bits. -/
@[simp] theorem Space.setWidth_code (v : Space) : (v.code.extractLsb' 0 2).setWidth 3 = v.code := by cases v <;> rfl
@[simp] theorem Scope.ofCode_code (v : Scope) : Scope.ofCode v.code = some v := by cases v <;> rfl
@[simp] theorem FenceHalf.ofCode_code (v : FenceHalf) : FenceHalf.ofCode v.code = some v := by cases v <;> rfl
@[simp] theorem AtomOp.ofCode_code (v : AtomOp) : AtomOp.ofCode v.code = some v := by cases v <;> rfl
@[simp] theorem CopyKind.ofCode_code (v : CopyKind) : CopyKind.ofCode v.code = some v := by cases v <;> rfl
@[simp] theorem CollOp.ofCode_code (v : CollOp) : CollOp.ofCode v.code = v := by cases v <;> rfl
@[simp] theorem CollFmt.ofCode_code (v : CollFmt) : CollFmt.ofCode v.code = some v := by cases v <;> rfl
@[simp] theorem CollRed.ofCode_code (v : CollRed) : CollRed.ofCode v.code = some v := by cases v <;> rfl

/-! ## One field of a concatenation -/

/-- The lowest field of a concatenation. -/
theorem field_low {v w : Nat} {hi : BitVec v} {lo : BitVec w} : (hi ++ lo).extractLsb' 0 w = lo := BitVec.extractLsb'_append_eq_right

theorem field_top {w : Nat} {x : BitVec w} : x.extractLsb' 0 w = x := BitVec.extractLsb'_eq_self

/-- A field that lies above the last one is a field of the rest. -/
theorem field_above {v w s l : Nat} {hi : BitVec v} {lo : BitVec w} {f : BitVec l} (h : decide (w ≤ s) = true)
    (e : hi.extractLsb' (s - w) l = f) : (hi ++ lo).extractLsb' s l = f :=
  (BitVec.extractLsb'_append_eq_of_le (of_decide_eq_true h)).trans e

theorem bit_low {v : Nat} {hi : BitVec v} {b : Bool} : (hi ++ bit b).getLsbD 0 = b := by
  rw [BitVec.getLsbD_append, if_pos (by omega), bit, BitVec.getLsbD_ofBool]; simp

theorem bit_above {v w i : Nat} {hi : BitVec v} {lo : BitVec w} {b : Bool} (h : decide (w ≤ i) = true) (e : hi.getLsbD (i - w) = b) :
    (hi ++ lo).getLsbD i = b := by
  rw [BitVec.getLsbD_append, if_neg (Nat.not_lt.mpr (of_decide_eq_true h)), e]

theorem bit_top {b : Bool} : (bit b).getLsbD 0 = b := by cases b <;> rfl

@[simp] theorem Opnd.ofBits_bits (o : Opnd) : Opnd.ofBits o.bits = o := by
  have hl : o.bits.extractLsb' 8 3 = o.lvl.code := field_above rfl field_top
  have hi : o.bits.extractLsb' 0 8 = o.idx := field_low
  rw [Opnd.ofBits, hl, hi, Level.ofCode_code]

/-! ## The layouts of the modifier field (R54 to R59) -/

@[simp] theorem extractLsb'_setWidth_self {w n : Nat} (v : BitVec w) (h : w ≤ n) : (v.setWidth n).extractLsb' 0 w = v := by
  rw [BitVec.extractLsb'_setWidth_of_le (by omega), BitVec.extractLsb'_eq_self]

/-- The common layout G (R54). -/
@[simp] theorem gMod_fields (sub : BitVec 3) (ty : Ty) (rnd : Rnd) (ftz sat : Bool) (cmp : Cmp) :
    mSub (gMod sub ty rnd ftz sat cmp) = sub ∧ mTy (gMod sub ty rnd ftz sat cmp) = some ty ∧ mRnd (gMod sub ty rnd ftz sat cmp) = rnd ∧
      mFtz (gMod sub ty rnd ftz sat cmp) = ftz ∧ mSat (gMod sub ty rnd ftz sat cmp) = sat ∧ mCmp (gMod sub ty rnd ftz sat cmp) = cmp :=
  ⟨field_low, (congrArg Ty.ofCode (field_above rfl field_low)).trans ty.ofCode_code,
    (congrArg Rnd.ofCode (field_above rfl (field_above rfl field_low))).trans rnd.ofCode_code,
    bit_above rfl (bit_above rfl (bit_above rfl bit_low)), bit_above rfl (bit_above rfl (bit_above rfl (bit_above rfl bit_low))),
    (congrArg Cmp.ofCode (field_above rfl (field_above rfl (field_above rfl (field_above rfl (field_above rfl field_low)))))).trans cmp.ofCode_code⟩

/-- The lowest bits of layout G, where LEA and HFMA2 keep flags of their own. -/
@[simp] theorem gMod_flag (sub : BitVec 3) (ty : Ty) (rnd : Rnd) (ftz sat : Bool) (cmp : Cmp) (i : Nat) (h : i < 3) :
    (gMod sub ty rnd ftz sat cmp).getLsbD i = sub.getLsbD i := by
  rw [gMod, BitVec.getLsbD_append, if_pos h]

@[simp] theorem flagMod (z : BitVec 15) (b : Bool) : BitVec.getLsbD (w := 16) (z ++ bit b) 0 = b := bit_low

/-- Conversions: the source type, `.ftz`, the rounding mode, the type, the function (R177). -/
@[simp] theorem cvtMod_fields (sty : BitVec 5) (ftz : Bool) (rnd : Rnd) (ty : Ty) (sub : BitVec 3) :
    mSub (sty ++ bit ftz ++ rnd.code ++ ty.code ++ sub) = sub ∧ mTy (sty ++ bit ftz ++ rnd.code ++ ty.code ++ sub) = some ty ∧
      mRnd (sty ++ bit ftz ++ rnd.code ++ ty.code ++ sub) = rnd ∧ mFtz (sty ++ bit ftz ++ rnd.code ++ ty.code ++ sub) = ftz ∧
      BitVec.extractLsb' (n := 16) 11 5 (sty ++ bit ftz ++ rnd.code ++ ty.code ++ sub) = sty :=
  ⟨field_low, (congrArg Ty.ofCode (field_above rfl field_low)).trans ty.ofCode_code,
    (congrArg Rnd.ofCode (field_above rfl (field_above rfl field_low))).trans rnd.ofCode_code, bit_above rfl (bit_above rfl (bit_above rfl bit_low)),
    field_above rfl (field_above rfl (field_above rfl (field_above rfl field_top)))⟩

/-- PACK and UNPK: the element index, a zero, `.ftz`, the rounding mode, the type, the function (R178). -/
@[simp] theorem packMod_fields (elt : BitVec 4) (z : BitVec 1) (ftz : Bool) (rnd : BitVec 2) (ty : Ty) (sub : BitVec 3) :
    mSub (elt ++ z ++ bit ftz ++ rnd ++ ty.code ++ sub) = sub ∧ mTy (elt ++ z ++ bit ftz ++ rnd ++ ty.code ++ sub) = some ty ∧
      mRnd (elt ++ z ++ bit ftz ++ rnd ++ ty.code ++ sub) = Rnd.ofCode rnd ∧ mFtz (elt ++ z ++ bit ftz ++ rnd ++ ty.code ++ sub) = ftz ∧
      BitVec.extractLsb' (n := 16) 12 4 (elt ++ z ++ bit ftz ++ rnd ++ ty.code ++ sub) = elt :=
  ⟨field_low, (congrArg Ty.ofCode (field_above rfl field_low)).trans ty.ofCode_code,
    congrArg Rnd.ofCode (field_above rfl (field_above rfl field_low)), bit_above rfl (bit_above rfl (bit_above rfl bit_low)),
    field_above rfl (field_above rfl (field_above rfl (field_above rfl (field_above rfl field_top))))⟩

/-- SHF: its direction (R165). -/
@[simp] theorem shfMod_fields (left : Bool) : mSub ((0#3) ++ bit left ++ (4#12)) = 4 ∧ mTy ((0#3) ++ bit left ++ (4#12)) = some .z32 ∧
    BitVec.getLsbD (w := 16) ((0#3) ++ bit left ++ (4#12)) 12 = left := by
  cases left <;> exact ⟨rfl, rfl, rfl⟩

/-- COPY: the queue, the completion kind, the two spaces (R225). -/
@[simp] theorem copyMod_fields (z : BitVec 6) (qn : BitVec 4) (kind dsp sp : BitVec 2) :
    BitVec.extractLsb' (n := 16) 0 2 (z ++ qn ++ kind ++ dsp ++ sp) = sp ∧ BitVec.extractLsb' (n := 16) 2 2 (z ++ qn ++ kind ++ dsp ++ sp) = dsp ∧
      BitVec.extractLsb' (n := 16) 4 2 (z ++ qn ++ kind ++ dsp ++ sp) = kind ∧
      BitVec.extractLsb' (n := 16) 6 4 (z ++ qn ++ kind ++ dsp ++ sp) = qn :=
  ⟨field_low, field_above rfl field_low, field_above rfl (field_above rfl field_low),
    field_above rfl (field_above rfl (field_above rfl field_low))⟩

/-- REEL's slice and queue, and the number of SRD and SWR above the bits that tell them apart (R231, R347). -/
@[simp] theorem wideMod_fields (num : BitVec 12) (qn : BitVec 4) :
    BitVec.extractLsb' (n := 16) 0 4 (num ++ qn) = qn ∧ BitVec.extractLsb' (n := 16) 4 12 (num ++ qn) = num ∧
      BitVec.getLsbD (w := 16) (num ++ qn) 0 = qn.getLsbD 0 :=
  ⟨field_low, field_above rfl field_top, by rw [BitVec.getLsbD_append]; rfl⟩

/-- AQPUT: the space and the queue (R232). -/
@[simp] theorem aqputMod_fields (z : BitVec 10) (sp : BitVec 2) (qn : BitVec 4) :
    BitVec.extractLsb' (n := 16) 0 4 (z ++ sp ++ qn) = qn ∧ BitVec.extractLsb' (n := 16) 4 2 (z ++ sp ++ qn) = sp :=
  ⟨field_low, field_above rfl field_low⟩

/-- LD: `.acq`, the type and the space (R252). -/
@[simp] theorem ldMod_fields (z : BitVec 7) (acq : Bool) (ty : Ty) (sp : BitVec 3) :
    mSub (z ++ bit acq ++ ty.code ++ sp) = sp ∧ mTy (z ++ bit acq ++ ty.code ++ sp) = some ty ∧
      BitVec.getLsbD (w := 16) (z ++ bit acq ++ ty.code ++ sp) 8 = acq :=
  ⟨field_low, (congrArg Ty.ofCode (field_above rfl field_low)).trans ty.ofCode_code, bit_above rfl (bit_above rfl bit_low)⟩

/-- ST: `.nr`, `.rel`, the type and the space (R252). -/
@[simp] theorem stMod_fields (z : BitVec 6) (nr rel : Bool) (ty : Ty) (sp : BitVec 3) :
    mSub (z ++ bit nr ++ bit rel ++ ty.code ++ sp) = sp ∧ mTy (z ++ bit nr ++ bit rel ++ ty.code ++ sp) = some ty ∧
      BitVec.getLsbD (w := 16) (z ++ bit nr ++ bit rel ++ ty.code ++ sp) 8 = rel ∧
      BitVec.getLsbD (w := 16) (z ++ bit nr ++ bit rel ++ ty.code ++ sp) 9 = nr :=
  ⟨field_low, (congrArg Ty.ofCode (field_above rfl field_low)).trans ty.ofCode_code, bit_above rfl (bit_above rfl bit_low),
    bit_above rfl (bit_above rfl (bit_above rfl bit_low))⟩

/-- LDX: the bitmap, the type and the space (R253). -/
@[simp] theorem ldxMod_fields (z : BitVec 6) (cb : BitVec 2) (ty : Ty) (sp : BitVec 3) :
    mSub (z ++ cb ++ ty.code ++ sp) = sp ∧ mTy (z ++ cb ++ ty.code ++ sp) = some ty ∧
      BitVec.extractLsb' (n := 16) 8 2 (z ++ cb ++ ty.code ++ sp) = cb :=
  ⟨field_low, (congrArg Ty.ofCode (field_above rfl field_low)).trans ty.ofCode_code, field_above rfl (field_above rfl field_low)⟩

/-- STX: `.nr`, the bitmap, the type and the space (R253). -/
@[simp] theorem stxMod_fields (z : BitVec 5) (nr : Bool) (cb : BitVec 2) (ty : Ty) (sp : BitVec 3) :
    mSub (z ++ bit nr ++ cb ++ ty.code ++ sp) = sp ∧ mTy (z ++ bit nr ++ cb ++ ty.code ++ sp) = some ty ∧
      BitVec.extractLsb' (n := 16) 8 2 (z ++ bit nr ++ cb ++ ty.code ++ sp) = cb ∧
      BitVec.getLsbD (w := 16) (z ++ bit nr ++ cb ++ ty.code ++ sp) 10 = nr :=
  ⟨field_low, (congrArg Ty.ofCode (field_above rfl field_low)).trans ty.ofCode_code, field_above rfl (field_above rfl field_low),
    bit_above rfl (bit_above rfl (bit_above rfl bit_low))⟩

/-- ATOM and ATOMR: which of the two, the scope, the operation, the type and the space (R254). -/
@[simp] theorem atomMod_fields (r : BitVec 1) (sc : BitVec 3) (op : BitVec 4) (ty : Ty) (sp : BitVec 3) :
    mSub (r ++ sc ++ op ++ ty.code ++ sp) = sp ∧ mTy (r ++ sc ++ op ++ ty.code ++ sp) = some ty ∧
      BitVec.extractLsb' (n := 16) 8 4 (r ++ sc ++ op ++ ty.code ++ sp) = op ∧
      BitVec.extractLsb' (n := 16) 12 3 (r ++ sc ++ op ++ ty.code ++ sp) = sc ∧
      BitVec.getLsbD (w := 16) (r ++ sc ++ op ++ ty.code ++ sp) 15 = r.getLsbD 0 :=
  ⟨field_low, (congrArg Ty.ofCode (field_above rfl field_low)).trans ty.ofCode_code, field_above rfl (field_above rfl field_low),
    field_above rfl (field_above rfl (field_above rfl field_low)), bit_above rfl (bit_above rfl (bit_above rfl (bit_above rfl rfl)))⟩

/-- FENCE: its half and its scope (R255). -/
@[simp] theorem fenceMod_fields (z : BitVec 11) (half : BitVec 2) (sc : BitVec 3) :
    BitVec.extractLsb' (n := 16) 0 3 (z ++ half ++ sc) = sc ∧ BitVec.extractLsb' (n := 16) 3 2 (z ++ half ++ sc) = half :=
  ⟨field_low, field_above rfl field_low⟩

/-- The waiting instructions: FSET's status, the type, and the bit that tells CHPOP from CHPUSH (R322 to R326). -/
@[simp] theorem waitMod_fields (status : BitVec 8) (ty : Ty) (sub : BitVec 3) :
    mTy (status ++ ty.code ++ sub) = some ty ∧ BitVec.extractLsb' (n := 16) 8 8 (status ++ ty.code ++ sub) = status ∧
      BitVec.getLsbD (w := 16) (status ++ ty.code ++ sub) 0 = sub.getLsbD 0 :=
  ⟨(congrArg Ty.ofCode (field_above rfl field_low)).trans ty.ofCode_code, field_above rfl (field_above rfl field_top),
    by rw [BitVec.getLsbD_append]; rfl⟩

/-- UREAD and UWRITE: the width and the user's operand (R348). -/
@[simp] theorem userMod_fields (z : BitVec 4) (wide : Bool) (u : BitVec 11) :
    BitVec.extractLsb' (n := 16) 0 11 (z ++ bit wide ++ u) = u ∧ BitVec.getLsbD (w := 16) (z ++ bit wide ++ u) 11 = wide :=
  ⟨field_low, bit_above rfl bit_low⟩

/-- RATOM: the operation and the type (R364). -/
@[simp] theorem ratomMod_fields (z op : BitVec 4) (ty : Ty) (sub : BitVec 3) :
    mTy (z ++ op ++ ty.code ++ sub) = some ty ∧ BitVec.extractLsb' (n := 16) 8 4 (z ++ op ++ ty.code ++ sub) = op :=
  ⟨(congrArg Ty.ofCode (field_above rfl field_low)).trans ty.ofCode_code, field_above rfl (field_above rfl field_low)⟩

/-- COLL: the reduction, the element format and the operation (R363). -/
@[simp] theorem collMod_fields (z : BitVec 9) (red : BitVec 2) (fmt : BitVec 3) (op : BitVec 2) :
    BitVec.extractLsb' (n := 16) 0 2 (z ++ red ++ fmt ++ op) = op ∧ BitVec.extractLsb' (n := 16) 2 3 (z ++ red ++ fmt ++ op) = fmt ∧
      BitVec.extractLsb' (n := 16) 5 2 (z ++ red ++ fmt ++ op) = red :=
  ⟨field_low, field_above rfl field_low, field_above rfl (field_above rfl field_low)⟩

/-- LEA's flag (R163). -/
@[simp] theorem leaSub_flag (z : BitVec 2) (sb : Bool) : BitVec.getLsbD (w := 3) (z ++ bit sb) 0 = sb := bit_low

/-- HFMA2's flags (R176). -/
@[simp] theorem hfma2Sub_flags (nc bc sw : Bool) :
    BitVec.getLsbD (w := 3) (bit nc ++ bit bc ++ bit sw) 0 = sw ∧ BitVec.getLsbD (w := 3) (bit nc ++ bit bc ++ bit sw) 1 = bc ∧
      BitVec.getLsbD (w := 3) (bit nc ++ bit bc ++ bit sw) 2 = nc := ⟨bit_low, bit_above rfl bit_low, bit_above rfl (bit_above rfl bit_top)⟩

@[simp] theorem Ty.ofCode_zero : Ty.ofCode 0#5 = some .z32 := rfl

/-! ## Immediates and branch targets (R43, R44) -/

/-- MOVI: the width of its result (R130). -/
@[simp] theorem moviMod_fields (z : BitVec 4) (m : BitVec 2) : BitVec.extractLsb' (n := 6) 0 2 (z ++ m) = m := field_low

/-- IADD and ISUB with an immediate: `.sat`, the type, which of the two (R158). -/
@[simp] theorem addImmMod_fields (z : BitVec 3) (sat ty : Bool) (op : BitVec 1) :
    BitVec.getLsbD (w := 6) (z ++ bit sat ++ bit ty ++ op) 0 = op.getLsbD 0 ∧ BitVec.getLsbD (w := 6) (z ++ bit sat ++ bit ty ++ op) 1 = ty ∧
      BitVec.getLsbD (w := 6) (z ++ bit sat ++ bit ty ++ op) 2 = sat :=
  ⟨by rw [BitVec.getLsbD_append]; rfl, bit_above rfl bit_low, bit_above rfl (bit_above rfl bit_low)⟩

@[simp] theorem mulImmMod_fields (z : BitVec 5) (ty : Bool) : BitVec.getLsbD (w := 6) (z ++ bit ty) 0 = ty := bit_low

/-- Float arithmetic with an immediate: `.ftz`, the rounding mode, the operation (R171). -/
@[simp] theorem floatImmMod_fields (ftz : Bool) (rnd : BitVec 2) (op : BitVec 3) :
    BitVec.extractLsb' (n := 6) 0 3 (bit ftz ++ rnd ++ op) = op ∧ BitVec.extractLsb' (n := 6) 3 2 (bit ftz ++ rnd ++ op) = rnd ∧
      BitVec.getLsbD (w := 6) (bit ftz ++ rnd ++ op) 5 = ftz :=
  ⟨field_low, field_above rfl field_low, bit_above rfl (bit_above rfl bit_top)⟩

/-- The type that one bit tells from the other, where only the two 32-bit integer types are allowed. -/
theorem ite_is32 {ty : Ty} (h : is32 ty = true) : (if ty = .z32 then Ty.z32 else .s32) = ty := by
  cases ty
  case z32 | s32 => rfl
  all_goals cases h

@[simp] theorem imodOf_iF (c : Ctl) (opc : BitVec 8) (im : BitVec 6) (d a : BitVec 11) (imm : BitVec 32) : imodOf (iF c opc im d a imm) = im :=
  field_above rfl field_top

@[simp] theorem immOf_iF (c : Ctl) (opc : BitVec 8) (im : BitVec 6) (d a : BitVec 11) (imm : BitVec 32) : immOf (iF c opc im d a imm) = imm := by
  have hm : (iF c opc im d a imm).mod.extractLsb' 0 10 = imm.extractLsb' 22 10 := field_low
  rw [immOf, hm]
  exact (congrArg (· ++ imm.extractLsb' 0 11) (BitVec.extractLsb'_append_extractLsb'_eq_extractLsb' (by decide))).trans
    ((BitVec.extractLsb'_append_extractLsb'_eq_extractLsb' (by decide)).trans field_top)

theorem bF_operands (c : Ctl) (opc : BitVec 8) (m : BitVec 16) (j : BitVec 20) (target : BitVec 24) :
    (bF c opc m j target).dst ++ (bF c opc m j target).a ++ (bF c opc m j target).b ++ (bF c opc m j target).x = j ++ target := by
  have join {v : BitVec 44} {hi len lo k : Nat} (h : hi = lo + k) :
      v.extractLsb' hi len ++ v.extractLsb' lo k = v.extractLsb' lo (len + k) := BitVec.extractLsb'_append_extractLsb'_eq_extractLsb' h
  simp only [bF, join (hi := 33) (lo := 22) (k := 11) rfl, join (hi := 22) (len := 11 + 11) (lo := 11) (k := 11) rfl,
    join (hi := 11) (lo := 0) (k := 11) rfl]
  exact field_top

@[simp] theorem targetOf_bF (c : Ctl) (opc : BitVec 8) (m : BitVec 16) (j : BitVec 20) (target : BitVec 24) :
    targetOf (bF c opc m j target) = target := by
  rw [targetOf, bF_operands]; exact field_low

@[simp] theorem joinOf_bF (c : Ctl) (opc : BitVec 8) (m : BitVec 16) (j : BitVec 20) (target : BitVec 24) :
    joinOf (bF c opc m j target) = j := by
  rw [joinOf, bF_operands]; exact field_above rfl field_top

/-! ## A full form's fields are read back -/

@[simp] theorem rF_fields (c : Ctl) (opc : BitVec 8) (m : BitVec 16) (d a b x : BitVec 11) :
    (rF c opc m d a b x).ctl = c ∧ (rF c opc m d a b x).mod = m ∧ (rF c opc m d a b x).dst = d ∧ (rF c opc m d a b x).a = a ∧
      (rF c opc m d a b x).b = b ∧ (rF c opc m d a b x).x = x := ⟨rfl, rfl, rfl, rfl, rfl, rfl⟩

@[simp] theorem iF_fields (c : Ctl) (opc : BitVec 8) (im : BitVec 6) (d a : BitVec 11) (imm : BitVec 32) :
    (iF c opc im d a imm).ctl = c ∧ (iF c opc im d a imm).dst = d ∧ (iF c opc im d a imm).a = a := ⟨rfl, rfl, rfl⟩

@[simp] theorem bF_fields (c : Ctl) (opc : BitVec 8) (m : BitVec 16) (j : BitVec 20) (target : BitVec 24) :
    (bF c opc m j target).ctl = c ∧ (bF c opc m j target).mod = m := ⟨rfl, rfl⟩

/-- The instruction that the fields of a full form stand for: what each opcode's fields say is read as it was written. -/
theorem read_coreFields {i : Instr} {f : Fields} (hm : i.coreModOk = true) (hf : i.coreFields = some f) : f.read = some i := by
  cases i
  all_goals simp only [Instr.coreFields, Option.some.injEq, reduceCtorEq] at hf
  all_goals subst hf
  case iaddImm | isubImm | imulImm =>
    show some _ = _
    simpa [-BitVec.getLsbD_eq_getElem] using ite_is32 hm
  case nop | waitf | sleep | yield | nrel | strand | park | bra | call | callx | ret | join | exit | prmb | ffma | fsetCompare | pmovGet | pmovSet
      | mma | mmas | mmab | cclr | cld | cscl | cst | qinit | qpush | qpop | qstat | reel | reelw | aloop | aend | pin | unpin | icinv | pref
      | launch | spawn | depdec | phend | tbar | tdone | ftest | lock | unlock | waitc | trap | tret | replay | unwind | endg | frqpop | mapreq
      | srd | swr | uread | uwrite | bkpt | put | get | wstat =>
    show some _ = _
    simp [-BitVec.getLsbD_eq_getElem]
  case andImm | orImm | xorImm | andnImm =>
    show (match BitVec.toNat _ with | 0 => _ | 1 => _ | 2 => _ | _ => _) = _
    simp
  case fadd | fsub | fmul | fmin | fmax | faddImm | fsubImm | fmulImm | fminImm | fmaxImm =>
    show (match BitVec.toNat _ with | 0 => _ | 1 => _ | 2 => _ | 3 => _ | 4 => _ | _ => _) = _
    simp [-BitVec.getLsbD_eq_getElem]
  case frcp | frsq | fsqrt | fex2 | flg2 | fsin | fcos =>
    show (match BitVec.toNat _ with | 0 => _ | 1 => _ | 2 => _ | 3 => _ | 4 => _ | 5 => _ | 6 => _ | _ => _) = _
    simp
  all_goals
    show Option.bind _ _ = _
    simp [-BitVec.getLsbD_eq_getElem]

/-! ## A full form's words are read back (R36, R42) -/

theorem Fields.ofBits_bits (f : Fields) : Fields.ofBits f.bits = f := by
  obtain ⟨⟨stall, wait, set, drain, yield, gneg, gpred⟩, opc, mod, dst, a, b, x⟩ := f
  simp only [Fields.ofBits, Fields.mk.injEq, Ctl.mk.injEq, Fields.bits]
  refine ⟨⟨?stall, ?wait, ?set, ?drain, ?yield, ?gneg, ?gpred⟩, ?opc, ?mod, ?dst, ?a, ?b, field_low⟩
  case b => exact field_above rfl field_low
  case a => exact field_above rfl (field_above rfl field_low)
  case dst => exact field_above rfl (field_above rfl (field_above rfl field_low))
  case mod => exact field_above rfl (field_above rfl (field_above rfl (field_above rfl field_low)))
  case gpred => iterate 5 refine field_above rfl ?_
                exact field_low
  case gneg => iterate 6 refine bit_above rfl ?_
               exact bit_low
  case opc => iterate 7 refine field_above rfl ?_
              exact field_low
  case yield => iterate 8 refine bit_above rfl ?_
                exact bit_low
  case drain => iterate 9 refine bit_above rfl ?_
                exact bit_low
  case set => iterate 10 refine field_above rfl ?_
              exact field_low
  case wait => iterate 11 refine field_above rfl ?_
               exact field_low
  case stall => iterate 12 refine field_above rfl ?_
                exact field_low

/-- LEN is 0b11 in a full form. -/
theorem Fields.bits_len (f : Fields) : f.bits.getLsbD 95 = true ∧ f.bits.getLsbD 94 = true := by
  constructor
  all_goals
    iterate 13 refine bit_above rfl ?_
    rfl

theorem join_words (v : BitVec 96) : v.extractLsb' 64 32 ++ v.extractLsb' 32 32 ++ v.extractLsb' 0 32 = v := by
  have join {hi len lo k : Nat} (h : hi = lo + k) : v.extractLsb' hi len ++ v.extractLsb' lo k = v.extractLsb' lo (len + k) :=
    BitVec.extractLsb'_append_extractLsb'_eq_extractLsb' h
  rw [join (hi := 64) (lo := 32) rfl, join (hi := 32) (lo := 0) rfl]
  exact field_top

theorem decodeWords_words (f : Fields) (rest : List Word) : decodeWords (f.words ++ rest) = decodeFields f := by
  obtain ⟨h95, h94⟩ := f.bits_len
  have h31 : (f.bits.extractLsb' 64 32).getLsbD 31 = true := by rw [BitVec.getLsbD_extractLsb']; exact h95
  have h30 : (f.bits.extractLsb' 64 32).getLsbD 30 = true := by rw [BitVec.getLsbD_extractLsb']; exact h94
  simp only [Fields.words, List.cons_append, decodeWords, h31, h30, Bool.not_true, Bool.false_eq_true, if_false, join_words, Fields.ofBits_bits]

/-! ## Every full form decodes -/

theorem coreCtl_of_coreFields {i : Instr} {f : Fields} (hf : i.coreFields = some f) : i.coreCtl = some f.ctl := by
  cases i <;> cases hf <;> rfl

theorem opcodeUsed_coreFields {i : Instr} {f : Fields} (hf : i.coreFields = some f) : opcodeUsed f.opc = true := by
  cases i <;> cases hf <;> rfl

/-- SET 12 to 14 is refused in both readings (R49). -/
theorem setOk_of_controlOk {i : Instr} {c : Ctl} (hc : i.ctl = some c) (h : i.controlOk = true) :
    (12 ≤ c.set.toNat && c.set.toNat ≤ 14) = false := by
  simp only [Instr.controlOk, hc, Bool.and_eq_true, Bool.or_eq_true, decide_eq_true_eq, beq_iff_eq] at h
  rcases h.1 with h | h
  · simp only [Bool.and_eq_false_iff, decide_eq_false_iff_not]; omega
  · rw [h]; rfl

/-- The two instructions that need a set flag are those whose fields say so (R49). -/
theorem setNeeded_coreFields {i : Instr} {f : Fields} (hf : i.coreFields = some f) (h : i.controlOk = true) :
    (f.ctl.set == 15 && (f.opc == 0xE5 || (f.opc == 0xA4 && f.mod.extractLsb' 4 2 == 2))) = false := by
  cases i <;> cases hf
  case mapreq c a b =>
    have hs : (!(c.set == 15)) = true := Bool.and_elim_right h
    exact Bool.and_eq_false_iff.mpr (.inl (by simpa using hs))
  case copy c sp dsp kind qn d a b x =>
    simp only [rF_fields, copyMod_fields]
    cases kind with
    | push | count => exact Bool.and_false _
    | flag =>
      have hs : (!(c.set == 15)) = true := Bool.and_elim_right h
      exact Bool.and_eq_false_iff.mpr (.inl (by simpa using hs))
  all_goals exact Bool.and_false _

theorem controlBad_coreFields {i : Instr} {f : Fields} (hi : i.core = i) (hf : i.coreFields = some f) (h : i.controlOk = true) :
    f.controlBad = false := by
  have hc : i.ctl = some f.ctl := by rw [Instr.ctl, hi, coreCtl_of_coreFields hf]
  rw [Fields.controlBad, setOk_of_controlOk hc h, setNeeded_coreFields hf h, Bool.or_false]

theorem decodeFields_coreFields {i : Instr} {f : Fields} (hi : i.core = i) (hf : i.coreFields = some f) (hw : i.wf = true) :
    decodeFields f = .ok i := by
  simp only [Instr.wf, Bool.and_eq_true] at hw
  obtain ⟨⟨hc, hm⟩, ho⟩ := hw
  have hr : f.read = some i := read_coreFields (by rw [← hi]; exact hm) hf
  simp [decodeFields, controlBad_coreFields hi hf hc, opcodeUsed_coreFields hf, hr, hf, hm, ho]

/-! ## Every compact word decodes (R51, R52) -/

@[simp] theorem COpnd.ofBits_bits (o : COpnd) : COpnd.ofBits o.bits = o := by
  obtain ⟨lvl, idx⟩ := o
  have hl : (COpnd.bits ⟨lvl, idx⟩).extractLsb' 3 2 = match lvl with | .w => 0#2 | .n => 1 | .d => 2 | .s => 3 := field_above rfl field_top
  have hi : (COpnd.bits ⟨lvl, idx⟩).extractLsb' 0 3 = idx := field_low
  rw [COpnd.ofBits, hl, hi]
  cases lvl <;> rfl

/-- A compact field that its row does not use holds 0. -/
def COpnd.unused : COpnd := ⟨.w, 0⟩

/-- The fields of a compact instruction's word: its code is that of its row, and its control fields are those of its full form. -/
def Instr.HasCompactFields (i : Instr) (w : Word) : Prop :=
  ∃ (k : BitVec 7) (c : CCtl) (d a b : COpnd),
    w = compactBits k c d.bits a.bits b.bits ∧ compactRow k.toNat c d a b = some i ∧ i.ctl = some c.full

theorem hasCompactFields {i : Instr} {w : Word} (h : i.compactWord = some w) : i.HasCompactFields w := by
  cases i
  all_goals simp only [Instr.compactWord, Option.some.injEq, reduceCtorEq] at h
  case nopCompact | strandCompact | parkCompact | exitCompact | retCompact | joinCompact | yieldCompact | tbarCompact | tdoneCompact =>
    exact ⟨_, _, .unused, .unused, .unused, h.symm, rfl, rfl⟩
  case nrelCompact => exact ⟨_, _, _, .unused, .unused, h.symm, rfl, rfl⟩
  case stPoolZ32Compact | stCoreZ32Compact | stLaneZ32Compact | stGlobZ32Compact | stCoreZ64Compact =>
    exact ⟨_, _, .unused, _, _, h.symm, rfl, rfl⟩
  case movZ32Compact | movZ64Compact | movwCompact | iabsS32Compact | inegS32Compact | popcZ32Compact | clzZ32Compact | notZ32Compact
      | brevZ32Compact | frndF32Compact | frcpF32Compact | frsqF32Compact | fsqrtF32Compact | fex2F32Compact | flg2F32Compact | fsinF32Compact
      | fcosF32Compact | frndF32RzCompact | f2iS32F32RzCompact | f2iZ32F32RzCompact | i2fF32S32Compact | i2fF32Z32Compact | cvtF16F32Compact
      | cvtF32F16Compact | cvtBf16F32Compact | cvtF32Bf16Compact | unpkE4m3Compact | unpkE5m2Compact | unpkE2m1Compact | unpkBf16Compact
      | matchZ32Compact | matchZ64Compact | popcZ64Compact | clzZ64Compact | ldPoolZ32Compact | ldCoreZ32Compact | ldLaneZ32Compact
      | ldGlobZ32Compact | ldCoreZ64Compact =>
    exact ⟨_, _, _, _, .unused, h.symm, rfl, rfl⟩
  all_goals exact ⟨_, _, _, _, _, h.symm, rfl, rfl⟩

/-- The fields above a compact word's operands, and its leading zero. -/
theorem compactBits_fields (k : BitVec 7) (c : CCtl) (d a b : BitVec 5) :
    (compactBits k c d a b).getLsbD 31 = false ∧ (compactBits k c d a b).extractLsb' 24 7 = k ∧
      (compactBits k c d a b).extractLsb' 20 4 = c.stall ∧ (compactBits k c d a b).extractLsb' 16 4 = c.set ∧
      (compactBits k c d a b).getLsbD 15 = c.yield := by
  refine ⟨?len, ?code, ?stall, ?set, bit_above rfl (bit_above rfl (bit_above rfl bit_low))⟩
  case set => iterate 4 refine field_above rfl ?_
              exact field_low
  case stall => iterate 5 refine field_above rfl ?_
                exact field_low
  case code => iterate 6 refine field_above rfl ?_
               exact field_low
  case len => iterate 7 refine bit_above rfl ?_
              rfl

/-- A compact word whose SET is allowed is its code's row. -/
theorem decodeCompact_compactBits {i : Instr} {k : BitVec 7} {c : CCtl} {d a b : COpnd} (hr : compactRow k.toNat c d a b = some i)
    (hs : (12 ≤ c.set.toNat && c.set.toNat ≤ 14) = false) (hw : i.compactWord = some (compactBits k c d.bits a.bits b.bits))
    (ho : i.operandsOk = true) : decodeCompact (compactBits k c d.bits a.bits b.bits) = .ok i := by
  obtain ⟨-, hk, hst, hse, hy⟩ := compactBits_fields k c d.bits a.bits b.bits
  simp only [decodeCompact, hk, hst, hse, hy, hs, compactBits_d, compactBits_a, compactBits_b, COpnd.ofBits_bits, hr, hw, ho,
    bne_self_eq_false, Bool.not_true, Bool.or_self, Bool.false_eq_true, if_false]

theorem decodeWords_compactWord {i : Instr} {w : Word} (h : i.compactWord = some w) (hc : i.controlOk = true) (ho : i.operandsOk = true)
    (rest : List Word) : decodeWords (w :: rest) = .ok i := by
  obtain ⟨k, c, d, a, b, rfl, hr, hctl⟩ := hasCompactFields h
  obtain ⟨h31, -⟩ := compactBits_fields k c d.bits a.bits b.bits
  simp only [decodeWords.eq_def, h31, Bool.not_false, if_true]
  exact decodeCompact_compactBits hr (setOk_of_controlOk hctl hc) h ho

/-! ## The statement -/

/-- An instruction that has no compact word is its own full form. -/
theorem core_of_compactWord {i : Instr} (h : i.compactWord = none) : i.core = i := by
  have key (j : Instr) : (if j.compactWord.isSome then j else j.core) = j := by cases j <;> rfl
  simpa [h] using key i

theorem coreFields_isSome (i : Instr) : i.coreFields.isSome = i.coreCtl.isSome := by cases i <;> rfl

/-- Settles O4: a compact word is decoded to its code's row, and a full form's fields are read back as they were written. -/
theorem decodeEncode : Obligations.DecodeEncode := by
  intro i hctl hwf rest
  have hwf' := hwf
  simp only [Instr.wf, Bool.and_eq_true] at hwf'
  obtain ⟨⟨hc, -⟩, ho⟩ := hwf'
  cases hw : i.compactWord with
  | some w =>
    have he : encode i = [w] := by simp only [encode, hw]
    rw [he]
    exact decodeWords_compactWord hw hc ho rest
  | none =>
    have hi := core_of_compactWord hw
    rw [Instr.ctl, hi, ← coreFields_isSome] at hctl
    obtain ⟨f, hf⟩ := Option.isSome_iff_exists.mp hctl
    have he : encode i = f.words := by simp only [encode, hw, hf]
    rw [he, decodeWords_words, decodeFields_coreFields hi hf hwf]

end Sys2Proof
end

section
/-! A step at the issue of a partition runs what the picker's choice decodes to (R38, R41, R53, R96). -/

namespace Sys2Proof.Machine

/-- What stands at an address of a held line that may be executed is what the line decodes to there, with the trap of its fate. -/
theorem ILine.instrAt_decoded {l : ILine} {pc : DWord} {hand : Bool} {n : Nat} {r : Except Fate Instr} (hf : l.fail = none)
    (hp : l.priv = false ∨ hand = true) (h : lineAt l.words 0 (pc.toNat % 64 / 4) = some (n, r)) :
    l.instrAt pc hand = fetchOf (fateAt l.words (pc.toNat % 64 / 4) hand) (some (n, r)) := by
  have hx : (l.priv && !hand) = false := by rcases hp with hp | hp <;> simp [hp]
  simp only [ILine.instrAt, hf, hx, Bool.false_eq_true, if_false, h]
  cases r <;> rfl

/-- A choice of the picker whose line is held issues what stands at its split's address. -/
theorem issueAs_held {s : State} {uid split : Nat} {g : Group} {sp : Split} {l : ILine} (hg : s.group? uid = some g)
    (hsp : g.bk.split? split = some sp) (hl : s.line? g sp.pc = some l) :
    issueAs s uid split s.fetched = issueFetched s uid split sp.pc (some (l.instrAt sp.pc g.hand.isSome)) := by
  simp only [issueAs, hg, hsp, State.fetched, hl, Option.map_some]
  rfl

/-- With no event in hand, at the issue of a partition, a step is the picker's next choice. -/
theorem step_picked {s : State} {uid split : Nat} {rest : List (Nat × Nat)} (hs : s.stopped = false) (ha : s.agenda = []) (ht : s.turn ≠ 0)
    (hk : s.picks = (uid, split) :: rest) :
    step s = issueAs { s with picks := rest } uid split (State.fetched { s with picks := rest }) := by
  rw [step, stepWith, hs, if_neg Bool.false_ne_true]
  split
  · next i r he => rw [ha] at he; cases he
  · rw [if_neg ht]
    split
    · next he => rw [hk] at he; cases he; rfl
    · next he => rw [hk] at he; cases he

/-- Settles O5: the picker's choice issues what stands at its split's address, which is what the line decodes to there. -/
theorem stepRunsDecoded : Obligations.StepRunsDecoded := by
  intro s uid split rest g sp l n hs ha ht hk hg hsp hl hf hp
  have step_of {r : Except Fate Instr} (h : lineAt l.words 0 (sp.pc.toNat % 64 / 4) = some (n, r)) :=
    ((step_picked hs ha ht hk).trans (issueAs_held (s := { s with picks := rest }) hg hsp hl)).trans
      (congrArg (fun x => issueFetched _ uid split sp.pc (some x)) (ILine.instrAt_decoded hf hp h))
  exact ⟨fun _ h => step_of h, fun _ h => step_of h⟩

end Sys2Proof.Machine
end

section
/-! SUPPORT. Every instruction that a group issues goes through `issue` (R53, R89, R329). -/

namespace Sys2Proof.Machine

/-- The issuer is a group's split, and no Reel context. -/
def State.groupIssues (s : State) : Prop := ∃ uid split pc len, s.cur = .group uid split pc len

theorem State.groupIssues_of_begin {s : State} {i : Instr} {x : Issue} {t : State} (h : s.begin i = some (x, t)) : s.groupIssues := by
  obtain ⟨uid, split, _, _, _, _, hc, -⟩ := State.begin_spec h
  exact ⟨uid, split, x.pc, x.len, hc⟩

/-- The outcome is that of an effect behind the conditions and checks that all instructions of a group share. -/
def Gated (i : Instr) (s : State) (o : Out) : Prop := ∃ k, o = issue i s k

section
variable {i : Instr} {s : State}

theorem gated_issue {k : Issue → State → Except Trap State} : Gated i s (issue i s k) := ⟨k, rfl⟩

theorem gated_resultOf (h : s.groupIssues) {lat : Nat} {f : (Nat → DWord) → Res} : Gated i s (resultOf i lat f s) := by
  obtain ⟨uid, split, pc, len, hc⟩ := h
  simp only [resultOf, hc]
  exact gated_issue

theorem gated_sliceOnly (h : s.groupIssues) {k : Nat → Nat → ReelCtx → State → State} : Gated i s (sliceOnly i k s) := by
  obtain ⟨uid, split, pc, len, hc⟩ := h
  simp only [sliceOnly, hc]
  exact gated_issue

theorem gated_nop (h : s.groupIssues) {c : Ctl} : Gated (.nop c) s (execNop c s) := by
  obtain ⟨uid, split, pc, len, hc⟩ := h
  simp only [execNop, hc]
  exact gated_issue

theorem gated_matIssue {k : Issue → State → Except Trap State} : Gated i s (matIssue i s k) := gated_issue
theorem gated_mmaOp {kind : MmaKind} : Gated i s (mmaOp i kind s) := gated_matIssue
theorem gated_shuffle {m : ShflMode} {ty : Ty} : Gated i s (shuffle m ty i s) := gated_issue
theorem gated_loadOp {sp : Space} {ty : Ty} {acq : Bool} : Gated i s (loadOp i sp ty acq s) := gated_issue
theorem gated_storeOp {sp : Space} {ty : Ty} {rel : Bool} : Gated i s (storeOp i sp ty rel s) := gated_issue
theorem gated_gatherOp {sp : Space} {ty : Ty} {cb : Nat} {load : Bool} : Gated i s (gatherOp i sp ty cb load s) := gated_issue
theorem gated_atomicOp {sp : Space} {ty : Ty} {op : AtomOp} {scope : Scope} {returns : Bool} :
    Gated i s (atomicOp i sp ty op scope returns s) := gated_issue
theorem gated_rangeOp {op : RangeOp} : Gated i s (rangeOp i op s) := gated_issue
theorem gated_tdoneOp : Gated i s (tdoneOp i s) := gated_issue
theorem gated_waitOp {op : WaitOp} {wide : Bool} {dest : Option Opnd} {off : Nat} {value : Option Nat} :
    Gated i s (waitOp i op wide dest off value s) := gated_issue
theorem gated_cellOp {need : Need} {off : Nat} {wide : Bool} {value : Option Nat} : Gated i s (cellOp i need off wide value s) := gated_issue
theorem gated_transferOp {kind : RemoteKind} : Gated i s (transferOp i kind s) := gated_issue
theorem gated_leaveHandler {e : HExit} : Gated i s (leaveHandler i e s) := gated_issue

end

/-- A full form issues. -/
theorem exec_full_gated {i : Instr} {s : State} (h : s.groupIssues) (hi : i.coreCtl.isSome = true) : Gated i s (exec i s) := by
  cases i
  case nop => delta exec; exact gated_nop h
  case aloop | aqput | aend => delta exec; exact gated_sliceOnly h
  case mov | movw | movi | sel | iadd | isub | iadd64 | iaddImm | isubImm | imul | imulh | imulImm | imad | imadw | idiv | irem | imin | imax
      | iabs | ineg | lea | and | or | xor | andn | not | andImm | orImm | xorImm | andnImm | shl | shr | sar | rot | shf | bfe | bfi | popc
      | clz | brev | prmb | iset | fadd | fsub | fmul | fmin | fmax | faddImm | fsubImm | fmulImm | fminImm | fmaxImm | ffma | fsetCompare
      | frcp | frsq | fsqrt | fex2 | flg2 | fsin | fcos | hfma2 | f2i | i2f | cvt | frnd | pack | unpk | dot4 | dot8 | fdot4 =>
    delta exec; exact gated_resultOf h
  case mma | mmas | mmab => delta exec; exact gated_mmaOp
  case cmprs | cclr | cld | cscl | cst => delta exec; exact gated_matIssue
  case shfl => delta exec; exact gated_shuffle
  case ld => delta exec; exact gated_loadOp
  case st => delta exec; exact gated_storeOp
  case ldx | stx => delta exec; exact gated_gatherOp
  case atom | atomr => delta exec; exact gated_atomicOp
  case pin | unpin | icinv => delta exec; exact gated_rangeOp
  case tdone => delta exec; exact gated_tdoneOp
  case tret | replay => delta exec; exact gated_leaveHandler
  case put | get => delta exec; exact gated_transferOp
  case fwait | chpop | chpush | lock | waitc => delta exec; exact gated_waitOp
  case fsetFuture | ftest | unlock => delta exec; exact gated_cellOp
  case waitf | sleep | yield | nrel | strand | park | bra | brc | brx | call | callx | ret | join | exit | iaddc | vote | matchI | pset
      | pmovGet | pmovSet | qinit | qpush | qpop | qstat | copy | reel | reelw | fence | pref | launch | spawn | depdec | phend | tbar
      | trap | unwind | endg | frqpop | mapreq | srd | swr | uread | uwrite | bkpt | ratom | coll | wstat =>
    delta exec; exact gated_issue
  all_goals cases hi

/-- An instruction issues as its full form does. -/
theorem exec_gated {i : Instr} {s : State} (h : s.groupIssues) (hi : i.ctl.isSome = true) : Gated i.core s (exec i s) := by
  rw [exec_core]
  exact exec_full_gated h hi

/-- Settles O8: whatever the instruction's own effect, a check that fails comes before it. -/
theorem failedCheckTraps : Obligations.FailedCheckTraps := by
  intro i s x t e hb hm ho hc
  obtain ⟨_, _, _, _, _, _, -, hctl, -⟩ := State.begin_spec hb
  have hi : i.ctl.isSome = true := by rw [Instr.ctl, ← core_core, ← Instr.ctl, hctl]; rfl
  obtain ⟨k, hk⟩ := exec_gated (State.groupIssues_of_begin hb) hi
  rw [hk, issue_traps hb hm ho hc]

end Sys2Proof.Machine
end

section
/-! SUPPORT. The registers that an issue leaves as they are, said once for each of the updates that an issue is made of. -/

namespace Sys2Proof.Claims

open Sys2Proof.Machine

/-! ## Registers of a bank and of a group -/

/-- A split that is replaced under its identifier. -/
theorem split?_setSplit (b : Bank) (sp : Split) (id : Nat) :
    (b.setSplit sp).split? id = (b.split? id).map fun x => if x.id == sp.id then sp else x := by
  have hid (x : Split) : ((if x.id == sp.id then sp else x).id == id) = (x.id == id) := by
    split
    · next h => rw [eq_of_beq h]
    · rfl
  simp only [Bank.split?, Bank.setSplit, List.find?_map, Function.comp_def, hid]

/-- A split's registers are its lanes and its scalar copy. -/
theorem bankRegs_setSplit {b : Bank} {sp old : Split} (h : b.split? sp.id = some old) (hl : sp.lanes = old.lanes)
    (hf : sp.sfile = old.sfile) (hw : sp.written = old.written) : bankRegs (b.setSplit sp) = bankRegs b := by
  have hsplits (id : Nat) : ((b.setSplit sp).split? id).map (fun x => (x.lanes, x.sfile, x.written)) =
      (b.split? id).map fun x => (x.lanes, x.sfile, x.written) := by
    rw [split?_setSplit]
    cases hx : b.split? id with
    | none => rfl
    | some x =>
      by_cases hs : x.id = sp.id
      · have hid : x.id = id := by simpa using List.find?_some hx
        obtain rfl : old = x := Option.some.inj (by rw [← h, ← hs, hid, hx])
        simp [hs, hl, hf, hw]
      · simp [hs]
  simp only [bankRegs, hsplits]
  rfl

/-- A group's registers change with those of the bank in use alone. -/
theorem regsOf_setBk {g : Group} {b : Bank} (h : bankRegs b = bankRegs g.bk) : regsOf (g.setBk b) = regsOf g := by
  unfold Group.bk at h
  unfold Group.setBk
  split <;> simp_all [regsOf]

theorem regsOf_goTo (g : Group) (split : Nat) (pc : DWord) : regsOf (g.goTo split pc) = regsOf g := by
  unfold Group.goTo
  split
  · next sp hsp =>
    have hid : sp.id = split := by simpa using List.find?_some hsp
    exact regsOf_setBk (bankRegs_setSplit (sp := { sp with pc := pc }) (old := sp) (hid ▸ hsp) rfl rfl rfl)
  · rfl

theorem regsOf_setUp (g : Group) (hand : Bool) (f : Nat) : regsOf (g.setUp hand f) = regsOf g := by
  unfold Group.setUp Group.modBank
  split
  · split
    · simp only [regsOf, Option.map_map, Function.comp_def]
      rfl
    · rfl
  · rfl

/-! ## Registers of the device -/

theorem SameRegs.refl (s : State) : SameRegs s s := ⟨fun _ => rfl, fun _ => rfl, rfl, rfl⟩

theorem SameRegs.trans {s t u : State} (h : SameRegs s t) (k : SameRegs t u) : SameRegs s u := by
  obtain ⟨hg, ht, hl, hc⟩ := h
  obtain ⟨kg, kt, kl, kc⟩ := k
  exact ⟨fun n => (kg n).trans (hg n), fun n => (kt n).trans (ht n), kl.trans hl, kc.trans hc⟩

/-- Tables that are the same hold the same registers. -/
theorem SameRegs.of_eq {s u : State} (hg : u.groups = s.groups) (ht : u.teams = s.teams) (hl : u.launches = s.launches)
    (hc : u.contexts = s.contexts) : SameRegs s u := by
  refine ⟨fun n => ?_, fun n => ?_, hl, hc⟩
  · rw [State.group?, State.group?, hg]
  · rw [State.team?, State.team?, ht]

theorem SameRegs.modGroup {s : State} {k : Nat} {f : Group → Group} (hf : ∀ g, regsOf (f g) = regsOf g) : SameRegs s (s.modGroup k f) := by
  refine ⟨fun n => ?_, fun _ => rfl, rfl, rfl⟩
  rw [State.modGroup_group?]
  split
  · next h => subst h; simp [Option.map_map, Function.comp_def, hf]
  · rfl

theorem SameRegs.modTeam {s : State} {k : Nat} {f : Team → Team} (hf : ∀ t, ((f t).tregs, (f t).twrites) = (t.tregs, t.twrites)) :
    SameRegs s (s.modTeam k f) := by
  refine ⟨fun _ => rfl, fun n => ?_, rfl, rfl⟩
  rw [State.modTeam_team?]
  split
  · next h => subst h; simp only [Option.map_map, Function.comp_def, hf]
  · rfl

theorem SameRegs.setGroup {s : State} {g old : Group} (h : s.group? g.uid = some old) (hg : regsOf g = regsOf old) :
    SameRegs s (s.setGroup g) := by
  refine ⟨fun n => ?_, fun _ => rfl, rfl, rfl⟩
  rw [State.setGroup_group?]
  split
  · next hn => rw [hn, h, Option.map_some, Option.map_some, hg]
  · rfl

/-! ## What an issue is made of -/

theorem SameRegs.meter (s : State) (place team : Nat) (kind : Metered) (n : Nat) : SameRegs s (s.meter place team kind n) := by
  obtain ⟨ms, h⟩ := s.meter_eq place team kind n
  rw [h]; exact .of_eq rfl rfl rfl rfl

theorem SameRegs.queueIssue (s : State) (x : Issue) (uid : Nat) : SameRegs s (s.queueIssue x uid) := by
  unfold State.queueIssue
  split
  · exact .refl s
  · split
    · exact .refl s
    · exact .modTeam fun t => by split <;> rfl

theorem SameRegs.commit (s : State) (x : Issue) (uid : Nat) : SameRegs s (s.commit x uid) :=
  (SameRegs.queueIssue s x uid).trans (.modGroup fun _ => (regsOf_goTo _ _ _).trans (regsOf_setBk rfl))

theorem SameRegs.finish (s : State) (x : Issue) : SameRegs s (s.finish x) := .commit s x 0

theorem SameRegs.start (s : State) (x : Issue) (f : Op → Op) : SameRegs s (s.start x f) :=
  (((SameRegs.of_eq (u := { s with nextId := s.nextId + 1 }) rfl rfl rfl rfl).trans (.commit _ x s.nextId)).trans
    (.modGroup fun _ => regsOf_setUp _ _ _)).trans (.of_eq rfl rfl rfl rfl)

theorem SameRegs.startHeld (s : State) (x : Issue) (f : Op → Op) : SameRegs s (s.startHeld x f) :=
  ((SameRegs.of_eq (u := { s with nextId := s.nextId + 1 }) rfl rfl rfl rfl).trans
    (.modGroup fun _ => regsOf_setUp _ _ _)).trans (.of_eq rfl rfl rfl rfl)

theorem SameRegs.holdOn (s : State) (grp uid : Nat) : SameRegs s (s.holdOn grp uid) := .modGroup fun _ => rfl

theorem SameRegs.took (s : State) (x : Issue) : SameRegs s (s.took x) := by
  have hmark : SameRegs s (s.unmark x) := by
    unfold State.unmark
    split
    · exact .of_eq rfl rfl rfl rfl
    · exact .refl s
  exact (hmark.trans (.meter _ _ _ _ _)).trans (.modGroup fun _ => rfl)

theorem SameRegs.noteIssue {s : State} {g : Group} {sp : Split} (hg : s.group? g.uid = some g) (hsp : g.bk.split? sp.id = some sp)
    (port : Port) (occ : Nat) : SameRegs s (s.noteIssue g sp port occ) := by
  refine (SameRegs.of_eq (u := s.setPart g.core g.part _) rfl rfl rfl rfl).trans (SameRegs.setGroup (old := g) ?_ ?_)
  · simpa using hg
  · exact regsOf_setBk (bankRegs_setSplit (b := g.bk) hsp rfl rfl rfl)

end Sys2Proof.Claims

namespace Sys2Proof.Machine

open Sys2Proof.Claims

/-! ## An instruction that issues -/

/-- Noting an issue leaves the other groups as they are. -/
theorem State.noteIssue_group?_of_ne (s : State) {g : Group} {j : Nat} (hj : j ≠ g.uid) (sp : Split) (port : Port) (occ : Nat) :
    (s.noteIssue g sp port occ).group? j = s.group? j := by
  unfold State.noteIssue
  exact (State.setGroup_group? _ _ _).trans (if_neg (by simpa using hj))

/-- Taking an instruction keeps of its group all but the place, the hold and the strand's count. -/
theorem State.took_group? {s : State} {x : Issue} (h : s.group? x.g.uid = some x.g) :
    ∃ p hd st, (s.took x).group? x.g.uid = some { x.g with place := p, hold := hd, strand := st } := by
  have hold : ((s.unmark x).meter x.g.core x.g.team .laneOp x.laneOps).group? x.g.uid = some x.g := by
    obtain ⟨ms, hm⟩ := (s.unmark x).meter_eq x.g.core x.g.team .laneOp x.laneOps
    rw [hm, State.unmark]
    split <;> exact h
  unfold State.took
  rw [State.modGroup_group?, if_pos rfl, hold]
  exact ⟨_, _, _, rfl⟩

section
variable {s : State} {i : Instr} {x : Issue} {t : State} (h : Issues s i x t)
include h

/-- The instruction at issue is the one that was given. -/
theorem Issues.instr_eq : x.i = i := by
  obtain ⟨_, _, _, _, _, _, -, -, hi, -⟩ := State.begin_spec h.begins
  exact hi

/-- The issuing group and its split, as they were and as they are noted. -/
theorem Issues.issuer : ∃ g sp port occ, s.group? g.uid = some g ∧ g.bk.split? sp.id = some sp ∧ (s.noted i).group? x.g.uid = some x.g ∧
    s.noted i = { s.noteIssue g sp port occ with fresh := s.fresh + 1 } := by
  obtain ⟨uid, split, g, sp, occ, port, hc, -, -, hg, hsp, ht, -, hn⟩ := State.begin_spec h.begins
  obtain ⟨rfl, rfl⟩ : x.g.uid = uid ∧ x.sp.id = split := by
    have hown := h.own
    rw [hc] at hown
    injection hown with huid hsplit
    exact ⟨huid.symm, hsplit.symm⟩
  have hid : sp.id = x.sp.id := by simpa using List.find?_some hsp
  have huid : g.uid = x.g.uid := by
    by_contra hne
    have hold : (s.noted i).group? x.g.uid = some g := by
      rw [hn]
      exact (s.noteIssue_group?_of_ne (Ne.symm hne) sp port occ).trans hg
    rw [hold] at ht
    exact hne (congrArg Group.uid (Option.some.inj ht))
  exact ⟨g, sp, port, occ, huid ▸ hg, hid ▸ hsp, ht, hn⟩

/-- The issuing group once the instruction is taken: its place, its hold and its strand's count may differ. -/
theorem Issues.taken_group : ∃ p hd st, t.group? x.g.uid = some { x.g with place := p, hold := hd, strand := st } := by
  obtain ⟨_, _, _, _, -, -, hg, -⟩ := h.issuer
  rw [h.taken]
  exact State.took_group? hg

/-- It has left every register as it is. -/
theorem Issues.sameRegs : SameRegs s t := by
  obtain ⟨g, sp, port, occ, hg, hsp, -, hn⟩ := h.issuer
  have hnoted : SameRegs s (s.noted i) := by
    rw [hn]
    exact (SameRegs.noteIssue hg hsp port occ).trans (.of_eq rfl rfl rfl rfl)
  rw [h.taken]
  exact hnoted.trans (.took _ x)

end

/-! ## An instruction that stays outstanding -/

theorem State.start_ops (s : State) (x : Issue) (f : Op → Op) : (s.start x f).ops = s.ops ++ [f (x.op s.nextId)] := by
  obtain ⟨gs, ts, h⟩ := s.start_eq x f
  rw [h]

theorem State.startHeld_ops (s : State) (x : Issue) (f : Op → Op) : (s.startHeld x f).ops = s.ops ++ [f (x.op s.nextId)] := rfl

/-- An operation that is put after the others, which keep the clk at which they are due. -/
theorem adds_of_ops {x : Issue} {t u : State} {o : Op} (h : u.ops = t.ops ++ [o]) (huid : o.uid = t.nextId) (hgrp : o.grp = x.g.uid)
    (hlanes : o.lanes = x.lanes) (hdest : o.dest = x.dest) : Adds x t u o :=
  ⟨t.ops, h, rfl, fun _ => rfl, huid, hgrp, hlanes, hdest⟩

theorem untouched_start {s : State} {i : Instr} {x : Issue} {t : State} (h : Issues s i x t) (f : Op → Op) : Untouched s (t.start x f) :=
  ⟨h.sameRegs.trans (.start t x f), h.sameBytes.trans (t.start_sameBytes x f)⟩

/-- The values that are read lane by lane. -/
theorem cellGet_laneVals {ls : List Nat} {l : Nat} (f : Nat → DWord) (h : l ∈ ls) : cellGet (laneVals ls f) l = f l := by
  have hsets (ls : List Nat) (m : Cells 64) (hm : l ∈ ls ∨ cellGet m l = f l) : cellGet (cellSets m (ls.map fun l => (l, f l))) l = f l := by
    induction ls generalizing m with
    | nil => exact hm.resolve_left List.not_mem_nil
    | cons k ks ih =>
      refine ih _ ?_
      rw [cellGet_cellSet]
      by_cases hk : l = k
      · exact .inr (by rw [if_pos hk, hk])
      · rw [if_neg hk]
        exact hm.imp_left fun hl => (List.mem_cons.mp hl).resolve_left hk
  exact hsets ls [] (.inl h)

end Sys2Proof.Machine
end

section
/-! The handler's and the system registers' instructions complete (R341, R345 to R349). -/

namespace Sys2Proof.Machine

open Sys2Proof.Claims

/-! ## What each answers once it issues -/

section
variable {s : State} {x : Issue} {t : State} {c : Ctl}

theorem exec_srd {num : BitVec 12} {d : Opnd} (h : Issues s (.srd c num d) x t) :
    exec (.srd c num d) s = .next (t.later x 8 fun _ => ofW (t.sysRead x num.toNat)) := by
  show execSrd c num d s = _
  exact issue_eq h _

theorem exec_swr {num : BitVec 12} {a : Opnd} (h : Issues s (.swr c num a) x t) :
    exec (.swr c num a) s =
      .next (if x.lanes = 0 then t.finish x else (t.finish x).sysWrite x num.toNat (w32 (t.srcLow x 0))) := by
  show execSwr c num a s = _
  refine (issue_eq h _).trans ?_
  by_cases hl : x.lanes = 0 <;> simp only [hl, if_true, if_false]

theorem exec_uread {wide : Bool} {v d : Opnd} (h : Issues s (.uread c wide v d) x t) :
    exec (.uread c wide v d) s = .next (t.start x fun o => { o with due := some (t.clkOf x.g.core + 4), job := .uread v wide }) := by
  show execUread c wide v d s = _
  exact issue_eq h _

theorem exec_uwrite {wide : Bool} {v a : Opnd} (h : Issues s (.uwrite c wide v a) x t) :
    exec (.uwrite c wide v a) s =
      .next (t.start x fun o => { o with due := some (t.clkOf x.g.core + 4), vals := laneVals x.list (t.src x 0), job := .uwrite v wide }) := by
  show execUwrite c wide v a s = _
  exact issue_eq h _

theorem exec_mapreq {a b : Opnd} (h : Issues s (.mapreq c a b) x t) :
    exec (.mapreq c a b) s =
      if x.lanes = 0 then .next (t.finish x)
      else if 1 < (w32 (t.srcLow x 1)).toNat then .next (s.trapOf (.mapreq c a b) x (x.trap tcOperand))
      else if 2 ^ 56 ≤ (t.srcLow x 0).toNat then
        .next (s.trapOf (.mapreq c a b) x (Trap.one tcAddress x.sp.lanes (BitVec.ofNat 64 (t.srcLow x 0).toNat)))
      else
        .next ((t.start x fun o => { o with job := .mapreq (t.srcLow x 0).toNat ((w32 (t.srcLow x 1)).toNat == 1) false }).modGroup x.g.uid
          fun g => { g with hand := g.hand.map fun h => { h with mapreq := some t.nextId } }) := by
  show execMapreq c a b s = _
  refine (issue_eq h _).trans ?_
  by_cases hl : x.lanes = 0
  · simp only [hl, if_true]
  · by_cases hk : 1 < (w32 (t.srcLow x 1)).toNat
    · simp only [hl, hk, if_true, if_false]
    · by_cases ha : 2 ^ 56 ≤ (t.srcLow x 0).toNat <;> simp only [hl, hk, ha, if_true, if_false]

theorem exec_bkpt {tag : BitVec 8} (h : Issues s (.bkpt c tag) x t) :
    exec (.bkpt c tag) s =
      .next (if x.never || !(((t.finish x).contextOf x.g).any fun c => c.debug) then t.finish x
        else (((t.finish x).modGroup x.g.uid fun g => { g with debug := .halted }).lanternPost x.g x.pc (tag.setWidth 64))) := by
  show execBkpt c tag s = _
  refine (issue_eq h _).trans ?_
  by_cases hd : (x.never || !(((t.finish x).contextOf x.g).any fun c => c.debug)) = true <;> simp only [hd, if_true, if_false, Bool.false_eq_true]

end

/-! ## The context of an issue -/

theorem State.asidOf_eq (s : State) (g : Group) : s.asidOf g = ((s.team? g.team).map (·.asid)).getD 0 := by
  unfold State.asidOf
  cases s.team? g.team <;> rfl

theorem State.queueIssue_asid (s : State) (x : Issue) (uid k : Nat) :
    ((s.queueIssue x uid).team? k).map (·.asid) = (s.team? k).map (·.asid) := by
  unfold State.queueIssue
  split
  · rfl
  · split
    · rfl
    · rw [State.modTeam_team?]
      split
      · next hk =>
        rw [hk, Option.map_map]
        congr 1
        funext t
        rw [Function.comp_apply]
        split <;> rfl
      · rfl

/-- An instruction that completes at issue leaves each group's context as it is. -/
theorem State.finish_asidOf (s : State) (x : Issue) (g : Group) : (s.finish x).asidOf g = s.asidOf g := by
  rw [State.asidOf_eq, State.asidOf_eq, ← s.queueIssue_asid x 0]
  rfl

theorem State.finish_contextOf (s : State) (x : Issue) (g : Group) : (s.finish x).contextOf g = s.contextOf g := by
  obtain ⟨gs, ts, h⟩ := s.finish_eq x
  rw [State.contextOf, State.finish_asidOf, h]
  rfl

/-- The issuing group is there once its instruction has completed at issue. -/
theorem Issues.finish_group? {s : State} {i : Instr} {x : Issue} {t : State} (h : Issues s i x t) : ∃ g, (t.finish x).group? x.g.uid = some g := by
  obtain ⟨_, _, _, hg⟩ := h.taken_group
  have hregs := (SameRegs.finish t x).1 x.g.uid
  rw [hg] at hregs
  obtain ⟨g, hg, -⟩ := Option.map_eq_some_iff.mp hregs
  exact ⟨g, hg⟩

/-- A context's registers change by a write of a system register alone. -/
theorem State.modContext_contextOf {s : State} {g : Group} {k : Context} (h : s.contextOf g = some k) (f : Context → Context) :
    (s.modContext (s.asidOf g) f).contextOf g = some (f k) := by
  have hid : (s.modContext (s.asidOf g) f).asidOf g = s.asidOf g := rfl
  rw [State.contextOf, hid, State.modContext_context?, if_pos rfl]
  exact congrArg (Option.map f) h

/-! ## FRQPOP -/

/-- The eight words that FRQPOP takes: those of the oldest record, or zeros. -/
def Issue.frqWords (x : Issue) : List Word := match (popRecord x.g).1 with | some r => r.words | none => []

/-- FRQPOP's own operation, for its first register. -/
def Issue.frqFirst (x : Issue) (t : State) (o : Op) : Op :=
  { o with due := some (t.clkOf x.g.core + 8), vals := laneVals x.list fun _ => ofW (x.frqWords.getD 0 0) }

/-- The operations of its seven other registers. -/
def Issue.frqRest (x : Issue) (t : State) (d : Opnd) : List Op :=
  (List.range 7).map fun i =>
    { x.op (t.nextId + 1 + i) with
      set := 15, due := some (t.clkOf x.g.core + 8), vals := laneVals x.list fun _ => ofW (x.frqWords.getD (i + 1) 0)
      dest := some { op := ⟨.d, d.idx + BitVec.ofNat 8 (i + 1)⟩, wide := false, shift := false, predicate := false } }

/-- The device with the oldest record taken and FRQPOP's own operation outstanding. -/
def State.frqStarted (t : State) (x : Issue) : State := (t.modGroup x.g.uid fun g => (popRecord g).2).start x (x.frqFirst t)

theorem Issue.frqWords_eq (x : Issue) : x.frqWords = match x.g.frq with | r :: _ => r.words | [] => [] := by
  unfold Issue.frqWords popRecord
  cases x.g.frq <;> rfl

theorem State.start_clkOf (s : State) (x : Issue) (f : Op → Op) (core : Nat) : (s.start x f).clkOf core = s.clkOf core := by
  obtain ⟨gs, ts, h⟩ := s.start_eq x f
  rw [h]
  rfl

theorem popRecord_frq (g : Group) : (popRecord g).2.frq = g.frq.tail := by
  unfold popRecord
  split
  · next h => rw [h]; rfl
  · next h => rw [h]; rfl

section
variable {s : State} {x : Issue} {t : State} {c : Ctl} {d : Opnd}

theorem exec_frqpop (h : Issues s (.frqpop c d) x t) :
    exec (.frqpop c d) s =
      .next (if x.lanes = 0 then t.finish x
        else { t.frqStarted x with nextId := t.nextId + 8, ops := (t.frqStarted x).ops ++ x.frqRest t d }) := by
  show execFrqpop c d s = _
  refine (issue_eq h _).trans ?_
  by_cases hl : x.lanes = 0
  · simp only [hl, if_true]
  · simp only [hl, if_false, State.start_clkOf]
    rfl

theorem State.frqStarted_ops (t : State) (x : Issue) : (t.frqStarted x).ops = t.ops ++ [x.frqFirst t (x.op t.nextId)] := State.start_ops _ _ _

/-- The record has left the fault record queue of the issuing group. -/
theorem Issues.frqStarted_group? {i : Instr} (h : Issues s i x t) : ∃ g', (t.frqStarted x).group? x.g.uid = some g' ∧ g'.frq = x.g.frq.tail := by
  obtain ⟨p, hd, st, hg⟩ := h.taken_group
  obtain ⟨hregs, -⟩ := SameRegs.start (t.modGroup x.g.uid fun g => (popRecord g).2) x (x.frqFirst t)
  have hu := hregs x.g.uid
  rw [State.modGroup_group?, if_pos rfl, hg] at hu
  obtain ⟨g', hg', hr⟩ := Option.map_eq_some_iff.mp hu
  exact ⟨g', hg', (congrArg Regs.frq hr).trans (popRecord_frq _)⟩

/-- Each of the eight operations writes its register of the D field with its word, 8 clk later. -/
theorem frqOps_getElem? (h : Issues s (.frqpop c d) x t) (hd : d.lvl = .d) {k : Nat} {o : Op}
    (ho : (x.frqFirst t (x.op t.nextId) :: x.frqRest t d)[k]? = some o) :
    o.grp = x.g.uid ∧ o.lanes = x.lanes ∧ o.due = some (t.clkOf x.g.core + 8) ∧
      o.dest.map (·.op) = some ⟨.d, d.idx + BitVec.ofNat 8 k⟩ ∧ ∀ l ∈ x.list, cellGet o.vals l = ofW (x.frqWords.getD k 0) := by
  cases k with
  | zero =>
    cases ho
    refine ⟨rfl, rfl, rfl, ?_, fun l hl => cellGet_laneVals _ hl⟩
    show x.dest.map (·.op) = _
    have hdest : (Instr.frqpop c d).dest = some ⟨.frq, d⟩ := rfl
    rw [Issue.dest, h.instr_eq, hdest, BitVec.add_zero, ← hd]
    rfl
  | succ k =>
    rw [List.getElem?_cons_succ, Issue.frqRest, List.getElem?_map] at ho
    obtain ⟨i, hi, rfl⟩ := Option.map_eq_some_iff.mp ho
    obtain ⟨-, rfl⟩ := List.getElem?_eq_some_iff.mp hi
    rw [List.getElem_range]
    exact ⟨rfl, rfl, rfl, rfl, fun l hl => cellGet_laneVals _ hl⟩

end

/-! ## The numbers of SRD and SWR -/

/-- A number that SRD or SWR may not name fails its check before a bad operand or an entry that is not ready does. -/
theorem issueCheck_sysBad {s : State} {x : Issue} {num : BitVec 12} (hi : (∃ c d, x.i = .srd c num d) ∨ ∃ c a, x.i = .swr c num a)
    (hn : (sysAssigned num.toNat && (x.g.hand.isSome || num == 1)) = false) : s.issueCheck x = some (x.trap tcModifier) := by
  have hone : (num.toNat == 1) = (num == 1) := by
    rw [Bool.eq_iff_iff, beq_iff_eq, beq_iff_eq, BitVec.toNat_eq]
    rfl
  have hbad : sysLegal x.inHandler num.toNat = false := by rw [sysLegal, Issue.inHandler, hone]; exact hn
  have hop : opcodeOf x.i = 0xE6 := by rcases hi with ⟨c, d, hi⟩ | ⟨c, a, hi⟩ <;> rw [hi] <;> rfl
  have hmat : (portOf (opcodeOf x.i) == .mat) = false := by rw [hop]; decide
  have hplace : placeIllegal x.i x.inHandler = false := by
    rcases hi with ⟨c, d, hi⟩ | ⟨c, a, hi⟩ <;> rw [hi] at hmat ⊢ <;> simp [placeIllegal, isTerminator, hmat]
  have hsys : x.sysBad = true := by
    rcases hi with ⟨c, d, hi⟩ | ⟨c, a, hi⟩ <;> simp [Issue.sysBad, hi, hbad]
  simp [State.issueCheck, hmat, hplace, hsys]

/-! ## Each instruction completes -/

section
variable {s : State} {x : Issue} {t : State} {c : Ctl}

/-- FRQPOP with a lane active takes the oldest record and leaves its words. -/
theorem frqpop_completes {d : Opnd} (h : Issues s (.frqpop c d) x t) (hd : d.lvl = .d) (hl : x.lanes ≠ 0) {ws : List Word} (hw : x.frqWords = ws) :
    ∃ u g' os, exec (.frqpop c d) s = .next u ∧ u.group? x.g.uid = some g' ∧ g'.frq = x.g.frq.tail ∧ u.ops = t.ops ++ os ∧ os.length = 8 ∧
      SameBytes s u ∧ ∀ (k : Nat) (o : Op), os[k]? = some o → o.grp = x.g.uid ∧ o.lanes = x.lanes ∧ o.due = some (t.clkOf x.g.core + 8) ∧
        o.dest.map (·.op) = some ⟨.d, d.idx + BitVec.ofNat 8 k⟩ ∧ ∀ l ∈ x.list, cellGet o.vals l = ofW (ws.getD k 0) := by
  subst hw
  obtain ⟨g', hg, hfrq⟩ := h.frqStarted_group?
  have hu := exec_frqpop h
  rw [if_neg hl] at hu
  refine ⟨_, g', x.frqFirst t (x.op t.nextId) :: x.frqRest t d, hu, hg, hfrq, ?_, rfl, ?_, fun k o ho => frqOps_getElem? h hd ho⟩
  · exact (congrArg (· ++ x.frqRest t d) (t.frqStarted_ops x)).trans (List.append_assoc ..)
  · exact h.sameBytes.trans ((SameBytes.refl t).trans (State.start_sameBytes (t.modGroup x.g.uid fun g => (popRecord g).2) x (x.frqFirst t)))

/-- MAPREQ of a kind and an address that it admits stays outstanding. -/
theorem mapreq_pends {a b : Opnd} (h : Issues s (.mapreq c a b) x t) (hl : x.lanes ≠ 0) (hk : (w32 (t.srcLow x 1)).toNat ≤ 1)
    (ha : (t.srcLow x 0).toNat < 2 ^ 56) :
    ∃ u o, exec (.mapreq c a b) s = .next u ∧ Adds x t u o ∧
      o.job = .mapreq (t.srcLow x 0).toNat ((w32 (t.srcLow x 1)).toNat == 1) false ∧ Untouched s u := by
  have hu := exec_mapreq h
  rw [if_neg hl, if_neg (Nat.not_lt.mpr hk), if_neg (Nat.not_le.mpr ha)] at hu
  refine ⟨_, _, hu, adds_of_ops ((State.modGroup_ops _ _ _).trans (State.start_ops t x _)) rfl rfl rfl rfl, rfl, ?_⟩
  obtain ⟨hregs, hbytes⟩ := untouched_start h fun o =>
    { o with job := .mapreq (t.srcLow x 0).toNat ((w32 (t.srcLow x 1)).toNat == 1) false }
  refine ⟨hregs.trans (.modGroup fun g => ?_), hbytes⟩
  simp only [regsOf, Option.map_map, Function.comp_def]

theorem uread_pends {wide : Bool} {v d : Opnd} (h : Issues s (.uread c wide v d) x t) :
    ∃ u o, exec (.uread c wide v d) s = .next u ∧ Adds x t u o ∧ o.due = some (t.clkOf x.g.core + 4) ∧ o.job = .uread v wide ∧ Untouched s u :=
  ⟨_, _, exec_uread h, adds_of_ops (State.start_ops _ _ _) rfl rfl rfl rfl, rfl, rfl, untouched_start h _⟩

theorem uwrite_pends {wide : Bool} {v a : Opnd} (h : Issues s (.uwrite c wide v a) x t) :
    ∃ u o, exec (.uwrite c wide v a) s = .next u ∧ Adds x t u o ∧ o.due = some (t.clkOf x.g.core + 4) ∧ o.job = .uwrite v wide ∧
      Untouched s u ∧ ∀ l ∈ x.list, cellGet o.vals l = t.src x 0 l :=
  ⟨_, _, exec_uwrite h, adds_of_ops (State.start_ops _ _ _) rfl rfl rfl rfl, rfl, rfl, untouched_start h _, fun _ hl => cellGet_laneVals _ hl⟩

/-- SRD gives every active lane the register. -/
theorem srd_pends {num : BitVec 12} {d : Opnd} (h : Issues s (.srd c num d) x t) :
    ∃ u o, exec (.srd c num d) s = .next u ∧ Adds x t u o ∧ o.due = some (t.clkOf x.g.core + 8) ∧ Untouched s u ∧
      ∀ l ∈ x.list, cellGet o.vals l = ofW (t.sysRead x num.toNat) :=
  ⟨_, _, exec_srd h, adds_of_ops (State.start_ops _ _ _) rfl rfl rfl rfl, rfl, untouched_start h _, fun _ hl => cellGet_laneVals _ hl⟩

/-- SWR of NFLAGS. -/
theorem swr_nflags {a : Opnd} (h : Issues s (.swr c 0x001 a) x t) (hl : x.lanes ≠ 0) :
    ∃ u g', exec (.swr c 0x001 a) s = .next u ∧ u.group? x.g.uid = some g' ∧ g'.nflags = w32 (t.srcLow x 0) &&& 0x1F := by
  obtain ⟨g, hg⟩ := h.finish_group?
  have hu := exec_swr h
  rw [if_neg hl] at hu
  refine ⟨_, { g with nflags := w32 (t.srcLow x 0) &&& 0x1F }, hu, ?_, rfl⟩
  exact (State.modGroup_group? ..).trans (by rw [if_pos rfl, hg]; rfl)

/-- SWR of STRMAX. -/
theorem swr_strmax {a : Opnd} (h : Issues s (.swr c 0x010 a) x t) (hl : x.lanes ≠ 0) {k : Context} (hk : t.contextOf x.g = some k) :
    ∃ u k', exec (.swr c 0x010 a) s = .next u ∧ u.contextOf x.g = some k' ∧ k'.strmax = (w32 (t.srcLow x 0)).extractLsb' 0 24 ∧
      k'.chdly = k.chdly := by
  rw [← t.finish_contextOf x] at hk
  have hu := exec_swr h
  rw [if_neg hl] at hu
  exact ⟨_, _, hu, State.modContext_contextOf hk _, rfl, rfl⟩

/-- SWR of CHDLY. -/
theorem swr_chdly {a : Opnd} (h : Issues s (.swr c 0x055 a) x t) (hl : x.lanes ≠ 0) {k : Context} (hk : t.contextOf x.g = some k) :
    ∃ u k', exec (.swr c 0x055 a) s = .next u ∧ u.contextOf x.g = some k' ∧ k'.strmax = k.strmax ∧
      k'.chdly = if (w32 (t.srcLow x 0)).extractLsb' 0 16 = 0 then k.chdly else (w32 (t.srcLow x 0)).extractLsb' 0 16 := by
  rw [← t.finish_contextOf x] at hk
  have hu := exec_swr h
  rw [if_neg hl] at hu
  refine ⟨_, _, hu, State.modContext_contextOf hk _, ?_, ?_⟩ <;> split <;> rfl

/-- Any other system register ignores a write. -/
theorem State.sysWrite_ignored (s : State) (x : Issue) {num : BitVec 12} (hn : num ≠ 0x001) (hs : num ≠ 0x010) (hc : num ≠ 0x055) (v : Word) :
    s.sysWrite x num.toNat v = s := by
  have hne (m : BitVec 12) (hm : num ≠ m) : num.toNat ≠ m.toNat := fun h => hm (BitVec.eq_of_toNat_eq h)
  unfold State.sysWrite
  split
  · next h => exact absurd h (hne 0x001 hn)
  · next h => exact absurd h (hne 0x010 hs)
  · next h => exact absurd h (hne 0x055 hc)
  · rfl

theorem swr_ignored {num : BitVec 12} {a : Opnd} (h : Issues s (.swr c num a) x t) (hn : num ≠ 0x001) (hs : num ≠ 0x010)
    (hd : num ≠ 0x055) : exec (.swr c num a) s = .next (t.finish x) := by
  rw [exec_swr h, State.sysWrite_ignored _ _ hn hs hd, ite_self]

/-- BKPT that never issues, or in a context without debugging, completes at issue. -/
theorem bkpt_completes {tag : BitVec 8} (h : Issues s (.bkpt c tag) x t)
    (hn : x.never = true ∨ ∀ k, t.contextOf x.g = some k → k.debug = false) : exec (.bkpt c tag) s = .next (t.finish x) := by
  rw [exec_bkpt h, State.finish_contextOf, if_pos]
  rcases hn with hn | hn
  · rw [hn, Bool.true_or]
  · cases hk : t.contextOf x.g with
    | none => simp
    | some k => simp [hn k hk]

theorem State.lanternPost_group? (s : State) (g : Group) (pc arg : DWord) (k : Nat) : (s.lanternPost g pc arg).group? k = s.group? k := rfl

theorem State.lanternPost_sameBytes (s : State) (g : Group) (pc arg : DWord) : SameBytes s (s.lanternPost g pc arg) := .of_eq rfl rfl rfl

/-- BKPT in a context with debugging halts the group. -/
theorem bkpt_halts {tag : BitVec 8} (h : Issues s (.bkpt c tag) x t) (hn : x.never = false) {k : Context} (hk : t.contextOf x.g = some k)
    (hd : k.debug = true) : ∃ u g', exec (.bkpt c tag) s = .next u ∧ u.group? x.g.uid = some g' ∧ g'.debug = .halted ∧ SameBytes s u := by
  obtain ⟨g, hg⟩ := h.finish_group?
  have hu := exec_bkpt h
  rw [State.finish_contextOf, hk, if_neg (by simp [hn, hd])] at hu
  refine ⟨_, { g with debug := .halted }, hu, ?_, rfl,
    h.sameBytes.trans ((t.finish_sameBytes x).trans (State.lanternPost_sameBytes _ _ _ _))⟩
  rw [State.lanternPost_group?, State.modGroup_group?, if_pos rfl, hg]
  rfl

end

/-- What SRD reads of a context's registers. -/
theorem sysRead_context {t : State} {x : Issue} {k : Context} (hk : t.contextOf x.g = some k) :
    t.sysRead x 0x010 = k.strmax.setWidth 32 ∧ t.sysRead x 0x055 = k.chdly.setWidth 32 ∧
      t.sysRead x 0x060 = k.trapTab.extractLsb' 0 32 ∧ t.sysRead x 0x061 = k.trapTab.extractLsb' 32 32 := by
  unfold State.sysRead
  rw [hk]
  exact ⟨rfl, rfl, rfl, rfl⟩

/-- What SRD reads of the delivery that a handler serves. -/
theorem sysRead_delivery {t : State} {x : Issue} {h : Handler} (hh : x.g.hand = some h) :
    t.sysRead x 0x063 = h.serves.pc.extractLsb' 0 32 ∧ t.sysRead x 0x064 = h.serves.pc.extractLsb' 32 32 ∧
      t.sysRead x 0x065 = h.serves.addr.extractLsb' 0 32 := by
  unfold State.sysRead
  rw [hh]
  exact ⟨rfl, rfl, rfl⟩

/-- Settles O53: each instruction's answer, read off its equation. -/
theorem handlerAndSystemInstructions : Obligations.HandlerAndSystemInstructions := by
  refine ⟨fun i s x t num hb hm ho hi hn => ?_, fun i s x t h => ⟨?_, ?_, ?_, ?_, ?_, ?_, ?_⟩⟩
  · obtain ⟨_, _, _, _, _, _, -, hctl, hxi, -⟩ := State.begin_spec hb
    have hcheck := issueCheck_sysBad (s := t) (by rw [hxi]; exact hi) hn
    rcases hi with ⟨c, d, rfl⟩ | ⟨c, a, rfl⟩
    · show execSrd c num d s = _
      exact issue_traps hb hm ho hcheck _
    · show execSwr c num a s = _
      exact issue_traps hb hm ho hcheck _
  · rintro c d rfl hd
    exact ⟨fun hl => by rw [exec_frqpop h, if_pos hl], fun hl => frqpop_completes h hd hl x.frqWords_eq⟩
  · rintro c a b rfl
    refine ⟨fun hl => ?_, fun hl hk => ?_, fun hl hk ha => ?_, fun hl hk ha => mapreq_pends h hl hk ha⟩
    · rw [exec_mapreq h, if_pos hl]
    · rw [exec_mapreq h, if_neg hl, if_pos hk]
      rfl
    · rw [exec_mapreq h, if_neg hl, if_neg (Nat.not_lt.mpr hk), if_pos ha, BitVec.ofNat_toNat, BitVec.setWidth_eq]
      rfl
  · rintro c wide v d rfl
    exact uread_pends h
  · rintro c wide v a rfl
    exact uwrite_pends h
  · rintro c num d rfl
    obtain ⟨u, o, hu, hadds, hdue, hun, hvals⟩ := srd_pends h
    refine ⟨u, o, _, hu, hadds, hdue, hun, hvals, fun k hk => ?_, fun hd hh => ?_, fun hn => by rw [hn]; rfl⟩
    · obtain ⟨h10, h55, h60, h61⟩ := sysRead_context hk
      exact ⟨fun hn => hn ▸ h10, fun hn => hn ▸ h55, fun hn => hn ▸ h60, fun hn => hn ▸ h61⟩
    · obtain ⟨h63, h64, h65⟩ := sysRead_delivery (t := t) hh
      exact ⟨fun hn => hn ▸ h63, fun hn => hn ▸ h64, fun hn => hn ▸ h65⟩
  · rintro c num a rfl
    refine ⟨fun hl => by rw [exec_swr h, if_pos hl], fun hl => ⟨?_, ?_, ?_, fun hn hs hd => swr_ignored h hn hs hd⟩⟩
    · rintro rfl
      exact swr_nflags h hl
    · rintro rfl k hk
      exact swr_strmax h hl hk
    · rintro rfl k hk
      exact swr_chdly h hl hk
  · rintro c tag rfl
    exact ⟨bkpt_completes h, fun hn k hk hd => bkpt_halts h hn hk hd⟩

end Sys2Proof.Machine
end

section
/-! Matrix instructions issue or trap (R42, R77 to R79, R187, R190, R193, R196, R198 to R203). -/

namespace Sys2Proof.Machine

open Sys2Proof.Claims

/-! ## What the instructions of the matrix unit share -/

/-- What holds of the eight instructions holds of every matrix instruction. -/
theorem isMatrix_cases {motive : Instr → Prop} {i : Instr} (hm : isMatrix i) (mma : ∀ c cn a b x, motive (.mma c cn a b x))
    (mmas : ∀ c cn d a b x, motive (.mmas c cn d a b x)) (mmab : ∀ c cn d a b x, motive (.mmab c cn d a b x))
    (cmprs : ∀ c ty a b x, motive (.cmprs c ty a b x)) (cclr : ∀ c cn, motive (.cclr c cn)) (cld : ∀ c cn a x, motive (.cld c cn a x))
    (cscl : ∀ c cn a, motive (.cscl c cn a)) (cst : ∀ c cn a b x, motive (.cst c cn a b x)) : motive i := by
  unfold isMatrix at hm
  split at hm
  · exact mma ..
  · exact mmas ..
  · exact mmab ..
  · exact cmprs ..
  · exact cclr ..
  · exact cld ..
  · exact cscl ..
  · exact cst ..
  · exact hm.elim

theorem portOf_of_opcode {i : Instr} {n : BitVec 8} {p : Port} (h : opcodeOf i = n) (hn : portOf n = p) : portOf (opcodeOf i) = p := h ▸ hn

/-- They issue through the port of the matrix unit. -/
theorem portOf_matrix {i : Instr} (hm : isMatrix i) : portOf (opcodeOf i) = .mat := by
  refine isMatrix_cases (motive := fun i => portOf (opcodeOf i) = .mat) hm ?_ ?_ ?_ ?_ ?_ ?_ ?_ ?_ <;> intros
  · exact portOf_of_opcode (n := 0x80) rfl (by decide)
  · exact portOf_of_opcode (n := 0x81) rfl (by decide)
  · exact portOf_of_opcode (n := 0x82) rfl (by decide)
  · exact portOf_of_opcode (n := 0x83) rfl (by decide)
  · exact portOf_of_opcode (n := 0x84) rfl (by decide)
  · exact portOf_of_opcode (n := 0x85) rfl (by decide)
  · exact portOf_of_opcode (n := 0x87) rfl (by decide)
  · exact portOf_of_opcode (n := 0x86) rfl (by decide)

/-- The outcome is that of an effect behind the guard and the check that every lane of the width is active. -/
def MatGated (i : Instr) (s : State) (o : Out) : Prop := ∃ k, o = matIssue i s k

theorem matGated_matIssue {i : Instr} {s : State} {k : Issue → State → Except Trap State} : MatGated i s (matIssue i s k) := ⟨k, rfl⟩
theorem matGated_mmaOp {i : Instr} {s : State} {kind : MmaKind} : MatGated i s (mmaOp i kind s) := matGated_matIssue

/-- Each of the eight issues so. -/
theorem exec_matGated {i : Instr} (hm : isMatrix i) (s : State) : MatGated i s (exec i s) := by
  refine isMatrix_cases (motive := fun i => MatGated i s (exec i s)) hm ?_ ?_ ?_ ?_ ?_ ?_ ?_ ?_
  · intro c cn a b x; delta exec; exact matGated_mmaOp
  · intro c cn d a b x; delta exec; exact matGated_mmaOp
  · intro c cn d a b x; delta exec; exact matGated_mmaOp
  · intro c ty a b x; delta exec; exact matGated_matIssue
  · intro c cn; delta exec; exact matGated_matIssue
  · intro c cn a x; delta exec; exact matGated_matIssue
  · intro c cn a; delta exec; exact matGated_matIssue
  · intro c cn a b x; delta exec; exact matGated_matIssue

/-- A matrix instruction under `(!p7)` fails no check. -/
theorem issueCheck_never {s : State} {x : Issue} (hm : isMatrix x.i) (hn : x.never = true) : s.issueCheck x = none := by
  simp only [State.issueCheck, portOf_matrix hm, hn, BEq.rfl, Bool.and_self, if_true]

section
variable {s : State} {i : Instr} {x : Issue} {t : State}

theorem matIssue_never (h : Issues s i x t) (hn : x.never = true) (k : Issue → State → Except Trap State) :
    matIssue i s k = .next (t.finish x) := by
  rw [matIssue, issue_eq h, if_pos hn]

theorem matIssue_convergence (h : Issues s i x t) (hn : x.never = false) (hl : x.lanes ≠ Lanes.below x.g.width)
    (k : Issue → State → Except Trap State) : matIssue i s k = .next (s.trapOf i x (x.trap tcConvergence)) := by
  rw [matIssue, issue_eq h, if_neg (by simp [hn]), if_pos (by simpa using hl)]

theorem matIssue_ok (h : Issues s i x t) (hn : x.never = false) (hl : x.lanes = Lanes.below x.g.width)
    {k : Issue → State → Except Trap State} {u : State} (hk : k x t = .ok u) : matIssue i s k = .next u := by
  rw [matIssue, issue_eq h, if_neg (by simp [hn]), if_neg (by simp [hl]), hk]

theorem matIssue_error (h : Issues s i x t) (hn : x.never = false) (hl : x.lanes = Lanes.below x.g.width)
    {k : Issue → State → Except Trap State} {e : Trap} (hk : k x t = .error e) : matIssue i s k = .next (s.trapOf i x e) := by
  rw [matIssue, issue_eq h, if_neg (by simp [hn]), if_neg (by simp [hl]), hk]

end

/-- The word of a vote that agrees. -/
theorem vote_eq {t : State} {x : Issue} {k : Nat} (h : ∀ l ∈ x.list, w32 (t.src x k l) = w32 (t.src x k 0)) :
    t.vote x k = .ok (w32 (t.src x k 0)) := by
  rw [State.vote, if_neg]
  simpa using h

/-- A vote that does not. -/
theorem vote_error {t : State} {x : Issue} {k : Nat} (h : ∃ l ∈ x.list, w32 (t.src x k l) ≠ w32 (t.src x k 0)) :
    t.vote x k = .error (x.trap tcFormat) := by
  rw [State.vote, if_pos]
  simpa using h

/-- Operands that all resolve, resolve in order. -/
theorem tileOps_ok {t : State} {x : Issue} {m : Team} {ops : List TileOp} (h : ∀ o ∈ ops, ∃ r, t.tileOp x m o = .ok r) (n : Nat) :
    ∃ r, t.tileOps x m n ops = .ok r := by
  induction ops generalizing n with
  | nil => exact ⟨_, rfl⟩
  | cons o os ih =>
    obtain ⟨⟨ws, start, len⟩, ho⟩ := h o (List.mem_cons_self ..)
    obtain ⟨⟨vs, spans⟩, hos⟩ := ih (fun p hp => h p (List.mem_cons_of_mem _ hp)) (n + ws.length)
    exact ⟨_, by simp only [State.tileOps, ho, hos]; rfl⟩

/-! ## A matrix instruction that is sent -/

/-- The instruction stays outstanding with a format word, and with its reads to come or with none. -/
def MatrixPends (x : Issue) (t u : State) (o : Op) (f : Word) (reads : Bool) : Prop :=
  ∃ j, Adds x t u o ∧ o.job = .matrix j ∧ j.fmt = f ∧ j.read = !reads ∧ j.ready = false ∧ Untouched t u ∧
    (reads = true → (u.group? x.g.uid).map (·.hold) = some (.op o.uid))

/-- The issuing group stays when its instruction does. -/
theorem State.startHeld_group? {t : State} {x : Issue} {g : Group} (hg : t.group? x.g.uid = some g) (f : Op → Op) :
    ∃ g', (t.startHeld x f).group? x.g.uid = some g' := by
  have hregs := (SameRegs.startHeld t x f).1 x.g.uid
  rw [hg] at hregs
  obtain ⟨g', hg', -⟩ := Option.map_eq_some_iff.mp hregs
  exact ⟨g', hg'⟩

/-- One that reads scratchpad holds its group until its read point. -/
theorem readTiles_pends {x : Issue} {t : State} {g : Group} (hg : t.group? x.g.uid = some g) (f : Word) (reads : List MatWord)
    (spans : List (Nat × Nat)) (writes : List MatWord) (late : Option Trap) :
    ∃ o, MatrixPends x t (t.readTiles x f reads spans writes late) o f true := by
  obtain ⟨ms, hm⟩ := t.meter_eq x.g.core x.g.team .matrix 1
  have hregs := SameRegs.meter t x.g.core x.g.team .matrix 1
  unfold State.readTiles
  rw [hm] at hregs ⊢
  refine ⟨_, _, adds_of_ops rfl rfl rfl rfl rfl, rfl, rfl, rfl, rfl, ⟨?_, SameBytes.refl t⟩, fun _ => ?_⟩
  · exact (hregs.trans (.startHeld _ _ _)).trans (.holdOn _ _ _)
  · obtain ⟨g', hg'⟩ := State.startHeld_group? (t := { t with meters := ms }) hg fun o =>
      { o with
        job := .matrix
          { fmt := f, reads := reads, spans := spans, read := false, writes := writes, ready := false
            late := late.bind fun t => t.recs.head?.map fun r => (r.code, r.addr) } }
    rw [State.holdOn, State.modGroup_group?, if_pos rfl, hg']
    rfl

/-- One that reads none. -/
theorem matrixStart_pends (x : Issue) (t : State) (f : Word) (writes : List MatWord) (vals : Cells 64) :
    ∃ o, MatrixPends x t (t.matrixStart x f writes vals) o f false ∧ o.vals = vals := by
  obtain ⟨ms, hm⟩ := t.meter_eq x.g.core x.g.team .matrix 1
  have hregs := SameRegs.meter t x.g.core x.g.team .matrix 1
  unfold State.matrixStart
  rw [hm] at hregs ⊢
  exact ⟨_, ⟨_, adds_of_ops (State.start_ops _ _ _) rfl rfl rfl rfl, rfl, rfl, rfl, rfl,
    ⟨hregs.trans (.start _ _ _), (SameBytes.refl t).trans (State.start_sameBytes _ _ _)⟩, fun h => by cases h⟩, rfl⟩

/-! ## MMA, MMAS, MMAB -/

/-- The read fields before A. -/
def MmaKind.first (kind : MmaKind) : Nat := if kind = .plain then 0 else 1

/-- The operands in scratchpad that are checked together: A, B and MMAS's metadata or MMAB's A stream. -/
def mmaTiles (t : State) (x : Issue) (kind : MmaKind) (f : Word) (sh : MmaShape) : List TileOp :=
  [tileAt (w32 (t.src x kind.first 0)) (tileBytes (aLines sh f (tileRows x.g.width)).1 (aLines sh f (tileRows x.g.width)).2 sh.fa.bits) 2,
   tileAt (w32 (t.src x (kind.first + 1) 0)) (tileBytes (bLines sh f).1 (bLines sh f).2 sh.fb.bits) 2] ++
  match kind with
  | .plain => []
  | .sparse => [tileAt (w32 (t.src x 0 0)) (tileRows x.g.width * sh.k / 4) 2]
  | .scaled => [streamAt (w32 (t.src x 0 0)) sh.scale (tileRows x.g.width * sh.blocks)]

/-- MMAB's B stream, whose check may come after what its A stream decodes to. -/
def mmaLast (t : State) (x : Issue) (kind : MmaKind) (sh : MmaShape) : List TileOp :=
  match kind with
  | .scaled => [streamAt ((t.src x 0 0).extractLsb' 32 32) sh.scale (32 * sh.blocks)]
  | _ => []

section
variable {s : State} {i : Instr} {x : Issue} {t : State} (h : Issues s i x t) (hn : x.never = false) (hl : x.lanes = Lanes.below x.g.width)
include h hn hl

theorem mmaOp_format {kind : MmaKind} (hv : ∃ l ∈ x.list, w32 (t.src x (kind.first + 2) l) ≠ w32 (t.src x (kind.first + 2) 0)) :
    mmaOp i kind s = .next (s.trapOf i x (x.trap tcFormat)) := by
  refine matIssue_error h hn hl ?_
  have hv := vote_error hv
  unfold MmaKind.first at hv
  simp only [hv]

variable {kind : MmaKind} (hv : ∀ l ∈ x.list, w32 (t.src x (kind.first + 2) l) = w32 (t.src x (kind.first + 2) 0)) {m : Team}
  (hm : t.teamOf x.g = some m)
include hv hm

theorem mmaOp_illegal (hs : mmaShape kind (w32 (t.src x (kind.first + 2) 0)) = none) :
    mmaOp i kind s = .next (s.trapOf i x (x.trap tcOperand)) := by
  refine matIssue_error h hn hl ?_
  have hv := vote_eq hv
  unfold MmaKind.first at hv hs
  simp only [hv, hm, hs]

theorem mmaOp_pends {sh : MmaShape} (hs : mmaShape kind (w32 (t.src x (kind.first + 2) 0)) = some sh)
    (ho : ∀ o ∈ mmaTiles t x kind (w32 (t.src x (kind.first + 2) 0)) sh ++ mmaLast t x kind sh, ∃ r, t.tileOp x m o = .ok r) :
    ∃ u o, mmaOp i kind s = .next u ∧ MatrixPends x t u o (w32 (t.src x (kind.first + 2) 0)) true := by
  obtain ⟨⟨ws, spans⟩, hfirst⟩ := tileOps_ok (fun o hmem => ho o (List.mem_append_left _ hmem)) 0
  obtain ⟨⟨vs, more⟩, hlast⟩ := tileOps_ok (fun o hmem => ho o (List.mem_append_right _ hmem)) ws.length
  obtain ⟨_, _, _, hg⟩ := h.taken_group
  obtain ⟨o, hp⟩ := readTiles_pends hg (w32 (t.src x (kind.first + 2) 0)) (ws ++ vs) (spans ++ more) [] none
  refine ⟨_, o, matIssue_ok h hn hl ?_, hp⟩
  have hv := vote_eq hv
  cases kind
  case plain | sparse | scaled =>
    simp only [MmaKind.first, mmaTiles, mmaLast, reduceCtorEq, if_true, if_false, List.append_nil] at hv hs hfirst hlast ⊢
    simp only [hv, hm, hs, hfirst, hlast]

end

/-! ## CMPRS, CCLR, CLD, CSCL, CST -/

section
variable {s : State} {x : Issue} {t : State} {c : Ctl} (hn : x.never = false) (hl : x.lanes = Lanes.below x.g.width)
include hn hl

theorem exec_cclr {cn : BitVec 2} (h : Issues s (.cclr c cn) x t) : exec (.cclr c cn) s = .next (t.matrixStart x 0 [] []) := by
  show execCclr c cn s = _
  exact matIssue_ok h hn hl rfl

theorem exec_cscl {cn : BitVec 2} {a : Opnd} (h : Issues s (.cscl c cn a) x t) :
    exec (.cscl c cn a) s = .next (t.matrixStart x 0 [] (laneVals x.list (t.src x 0))) := by
  show execCscl c cn a s = _
  exact matIssue_ok h hn hl rfl

variable {m : Team} (hm : t.teamOf x.g = some m)
include hm

theorem exec_cmprs_pends {ty : Ty} {a b d : Opnd} (h : Issues s (.cmprs c ty a b d) x t)
    (ho : ∀ o ∈ [tileAt (w32 (t.src x 0 0)) (tileBytes (tileRows x.g.width) (2 * fmtK ty) ty.bits) 2,
      tileAt (w32 (t.src x 1 0)) (tileBytes (tileRows x.g.width) (fmtK ty) ty.bits) 3,
      tileAt (w32 (t.src x 2 0)) (tileRows x.g.width * fmtK ty / 4) 3], ∃ r, t.tileOp x m o = .ok r) :
    ∃ u o, exec (.cmprs c ty a b d) s = .next u ∧ MatrixPends x t u o 0 true := by
  obtain ⟨hsrc, hout⟩ := List.forall_mem_cons.mp ho
  obtain ⟨⟨ws, spans⟩, hws⟩ := tileOps_ok (List.forall_mem_singleton.mpr hsrc) 0
  obtain ⟨⟨outs, outSpans⟩, houts⟩ := tileOps_ok hout 0
  obtain ⟨_, _, _, hg⟩ := h.taken_group
  obtain ⟨o, hp⟩ := readTiles_pends hg 0 ws spans outs none
  refine ⟨_, o, ?_, hp⟩
  show execCmprs c ty a b d s = _
  exact matIssue_ok h hn hl (by simp only [hm, hws, houts])

theorem exec_cld_pends {cn : BitVec 2} {a d : Opnd} (h : Issues s (.cld c cn a d) x t)
    (ho : ∀ o ∈ [tileAt (w32 (t.src x 0 0) + w32 (t.src x 1 0)) (tileRows x.g.width * 128) 2], ∃ r, t.tileOp x m o = .ok r) :
    ∃ u o, exec (.cld c cn a d) s = .next u ∧ MatrixPends x t u o 0 true := by
  obtain ⟨⟨ws, spans⟩, hws⟩ := tileOps_ok ho 0
  obtain ⟨_, _, _, hg⟩ := h.taken_group
  obtain ⟨o, hp⟩ := readTiles_pends hg 0 ws spans [] none
  refine ⟨_, o, ?_, hp⟩
  show execCld c cn a d s = _
  exact matIssue_ok h hn hl (by simp only [hm, hws])

omit hm in
theorem exec_cst_format {cn : BitVec 2} {a b d : Opnd} (h : Issues s (.cst c cn a b d) x t)
    (hv : ∃ l ∈ x.list, w32 (t.src x 1 l) ≠ w32 (t.src x 1 0)) :
    exec (.cst c cn a b d) s = .next (s.trapOf (.cst c cn a b d) x (x.trap tcFormat)) := by
  show execCst c cn a b d s = _
  exact matIssue_error h hn hl (by simp only [vote_error hv])

variable {cn : BitVec 2} {a b d : Opnd} (h : Issues s (.cst c cn a b d) x t)
  (hv : ∀ l ∈ x.list, w32 (t.src x 1 l) = w32 (t.src x 1 0))
include h hv

theorem exec_cst_illegal (hs : cstType (w32 (t.src x 1 0)) = none) :
    exec (.cst c cn a b d) s = .next (s.trapOf (.cst c cn a b d) x (x.trap tcOperand)) := by
  show execCst c cn a b d s = _
  exact matIssue_error h hn hl (by simp only [vote_eq hv, hm, hs])

theorem exec_cst_pends {ty : Ty} (hs : cstType (w32 (t.src x 1 0)) = some ty)
    (ho : ∀ o ∈ [tileAt (w32 (t.src x 0 0) + w32 (t.src x 2 0)) (tileBytes (cstLines (w32 (t.src x 1 0)) (tileRows x.g.width)).1
      (cstLines (w32 (t.src x 1 0)) (tileRows x.g.width)).2 ty.bits) 3], ∃ r, t.tileOp x m o = .ok r) :
    ∃ u o, exec (.cst c cn a b d) s = .next u ∧ MatrixPends x t u o (w32 (t.src x 1 0)) false := by
  obtain ⟨⟨ws, spans⟩, hws⟩ := tileOps_ok ho 0
  obtain ⟨o, hp, -⟩ := matrixStart_pends x t (w32 (t.src x 1 0)) ws []
  refine ⟨_, o, ?_, hp⟩
  show execCst c cn a b d s = _
  exact matIssue_ok h hn hl (by simp only [vote_eq hv, hm, hs, hws])

end

/-! ## What each of the eight answers -/

/-- An instruction that no condition and no check holds back takes its effect. -/
theorem issue_takes {i : Instr} {s : State} {x : Issue} {t u : State} {k : Issue → State → Except Trap State} (h : s.begin i = some (x, t))
    (hr : s.mayIssue x = true) (ho : s.overrunDue x = false) (hc : t.issueCheck x = none) (hq : t.queueTrap x = none)
    (hk : k x (t.took x) = .ok u) : issue i s k = .next u := by
  simp only [issue, h, hr, ho, hc, hq, hk, Bool.not_true, Bool.false_eq_true, if_false]

/-- The format word, as the lowest lane has it. -/
def formatWord (i : Instr) (x : Issue) (t : State) : Word := match formatField i with | some k => w32 (t.src x k 0) | none => 0

/-- Whether an instruction has a read point. -/
def readsTiles (i : Instr) : Bool := match i with | .cclr .. | .cscl .. | .cst .. => false | _ => true

/-- Once every operand in scratchpad resolves the instruction is outstanding, CSCL with its factors. -/
def MatrixSends (i : Instr) (s : State) (x : Issue) (t : State) : Prop :=
  ∃ u o, exec i s = .next u ∧ MatrixPends x t u o (formatWord i x t) (readsTiles i) ∧
    ∀ c cn a, i = .cscl c cn a → ∀ l ∈ x.list, cellGet o.vals l = t.src x 0 l

/-- With every lane active, the vote on the format word, its legality and the operands decide in this order. -/
def MatrixAnswers (i : Instr) (s : State) (x : Issue) (t : State) (m : Team) : Prop :=
  ((∃ k, formatField i = some k ∧ ∃ l ∈ x.list, w32 (t.src x k l) ≠ formatWord i x t) → exec i s = .next (s.trapOf i x (x.trap tcFormat))) ∧
  ((∀ k, formatField i = some k → ∀ l ∈ x.list, w32 (t.src x k l) = formatWord i x t) →
    (tiles t x (formatWord i x t) = none → exec i s = .next (s.trapOf i x (x.trap tcOperand))) ∧
    ∀ ops, tiles t x (formatWord i x t) = some ops → (∀ o ∈ ops, ∃ r, t.tileOp x m o = .ok r) → MatrixSends i s x t)

section
variable {i : Instr} {s : State} {x : Issue} {t : State} {m : Team}

/-- An instruction without a format word has its operands alone to check. -/
theorem MatrixAnswers.of_none {ops : List TileOp} (hk : formatField i = none) (ht : tiles t x (formatWord i x t) = some ops)
    (h : (∀ o ∈ ops, ∃ r, t.tileOp x m o = .ok r) → MatrixSends i s x t) : MatrixAnswers i s x t m := by
  refine ⟨fun ⟨k, hsome, _⟩ => ?_, fun _ => ⟨fun hnone => ?_, fun ops' hops => ?_⟩⟩
  · rw [hk] at hsome; cases hsome
  · rw [ht] at hnone; cases hnone
  · rw [ht] at hops; cases hops; exact h

theorem formatWord_of_field {k : Nat} (hk : formatField i = some k) : formatWord i x t = w32 (t.src x k 0) := by rw [formatWord, hk]

/-- An instruction with a format word in read field `k`. -/
theorem MatrixAnswers.of_vote {k : Nat} (hk : formatField i = some k)
    (hformat : (∃ l ∈ x.list, w32 (t.src x k l) ≠ w32 (t.src x k 0)) → exec i s = .next (s.trapOf i x (x.trap tcFormat)))
    (hgo : (∀ l ∈ x.list, w32 (t.src x k l) = w32 (t.src x k 0)) →
      (tiles t x (w32 (t.src x k 0)) = none → exec i s = .next (s.trapOf i x (x.trap tcOperand))) ∧
      ∀ ops, tiles t x (w32 (t.src x k 0)) = some ops → (∀ o ∈ ops, ∃ r, t.tileOp x m o = .ok r) → MatrixSends i s x t) :
    MatrixAnswers i s x t m := by
  rw [MatrixAnswers, formatWord_of_field hk]
  refine ⟨fun ⟨k', hk', hl⟩ => ?_, fun hag => hgo (hag k hk)⟩
  obtain rfl : k = k' := Option.some.inj (hk.symm.trans hk')
  exact hformat hl

variable (h : Issues s i x t) (hn : x.never = false) (hl : x.lanes = Lanes.below x.g.width) (hm : t.teamOf x.g = some m)
include h hn hl hm

/-- The three multiply-accumulates. -/
theorem mmaOp_answers {kind : MmaKind} (hexec : exec i s = mmaOp i kind s) (hk : formatField i = some (kind.first + 2))
    (hreads : readsTiles i = true) (hc : ∀ c cn a, i ≠ .cscl c cn a)
    (ht : ∀ f, tiles t x f = (mmaShape kind f).map fun sh => mmaTiles t x kind f sh ++ mmaLast t x kind sh) : MatrixAnswers i s x t m := by
  refine .of_vote hk (fun hv => hexec.trans (mmaOp_format h hn hl hv)) fun hv => ?_
  rw [ht]
  refine ⟨fun hs => hexec.trans (mmaOp_illegal h hn hl hv hm (Option.map_eq_none_iff.mp hs)), fun ops hops hres => ?_⟩
  obtain ⟨sh, hs, rfl⟩ := Option.map_eq_some_iff.mp hops
  obtain ⟨u, o, hu, hp⟩ := mmaOp_pends h hn hl hv hm hs hres
  exact ⟨u, o, hexec.trans hu, by rw [formatWord_of_field hk, hreads]; exact hp, fun c cn a hi => absurd hi (hc c cn a)⟩

end

section
variable {s : State} {x : Issue} {t : State} {m : Team} {c : Ctl} (hn : x.never = false) (hl : x.lanes = Lanes.below x.g.width)
  (hm : t.teamOf x.g = some m)
include hn hl hm

theorem mma_answers {cn : BitVec 2} {a b d : Opnd} (h : Issues s (.mma c cn a b d) x t) : MatrixAnswers (.mma c cn a b d) s x t m :=
  mmaOp_answers (kind := .plain) h hn hl hm rfl rfl rfl (fun _ _ _ hi => by cases hi) fun f => by rw [tiles, h.instr_eq]; rfl

theorem mmas_answers {cn : BitVec 2} {d a b e : Opnd} (h : Issues s (.mmas c cn d a b e) x t) : MatrixAnswers (.mmas c cn d a b e) s x t m :=
  mmaOp_answers (kind := .sparse) h hn hl hm rfl rfl rfl (fun _ _ _ hi => by cases hi) fun f => by rw [tiles, h.instr_eq]; rfl

theorem mmab_answers {cn : BitVec 2} {d a b e : Opnd} (h : Issues s (.mmab c cn d a b e) x t) : MatrixAnswers (.mmab c cn d a b e) s x t m :=
  mmaOp_answers (kind := .scaled) h hn hl hm rfl rfl rfl (fun _ _ _ hi => by cases hi) fun f => by rw [tiles, h.instr_eq]; rfl

theorem cmprs_answers {ty : Ty} {a b d : Opnd} (h : Issues s (.cmprs c ty a b d) x t) : MatrixAnswers (.cmprs c ty a b d) s x t m := by
  refine .of_none rfl (by rw [tiles, h.instr_eq]) fun hres => ?_
  obtain ⟨u, o, hu, hp⟩ := exec_cmprs_pends hn hl hm h hres
  exact ⟨u, o, hu, hp, fun _ _ _ hi => by cases hi⟩

theorem cld_answers {cn : BitVec 2} {a d : Opnd} (h : Issues s (.cld c cn a d) x t) : MatrixAnswers (.cld c cn a d) s x t m := by
  refine .of_none rfl (by rw [tiles, h.instr_eq]) fun hres => ?_
  obtain ⟨u, o, hu, hp⟩ := exec_cld_pends hn hl hm h hres
  exact ⟨u, o, hu, hp, fun _ _ _ hi => by cases hi⟩

omit hm in
theorem cclr_answers {cn : BitVec 2} (h : Issues s (.cclr c cn) x t) : MatrixAnswers (.cclr c cn) s x t m := by
  refine .of_none rfl (by rw [tiles, h.instr_eq]) fun _ => ?_
  obtain ⟨o, hp, -⟩ := matrixStart_pends x t 0 [] []
  exact ⟨_, o, exec_cclr hn hl h, hp, fun _ _ _ hi => by cases hi⟩

omit hm in
theorem cscl_answers {cn : BitVec 2} {a : Opnd} (h : Issues s (.cscl c cn a) x t) : MatrixAnswers (.cscl c cn a) s x t m := by
  refine .of_none rfl (by rw [tiles, h.instr_eq]) fun _ => ?_
  obtain ⟨o, hp, hv⟩ := matrixStart_pends x t 0 [] (laneVals x.list (t.src x 0))
  exact ⟨_, o, exec_cscl hn hl h, hp, fun _ _ _ _ l hmem => by rw [hv, cellGet_laneVals _ hmem]⟩

theorem cst_answers {cn : BitVec 2} {a b d : Opnd} (h : Issues s (.cst c cn a b d) x t) : MatrixAnswers (.cst c cn a b d) s x t m := by
  refine .of_vote (k := 1) rfl (exec_cst_format hn hl h) fun hv => ?_
  rw [tiles, h.instr_eq]
  refine ⟨fun hs => exec_cst_illegal hn hl hm h hv (Option.map_eq_none_iff.mp hs), fun ops hops hres => ?_⟩
  obtain ⟨ty, hs, rfl⟩ := Option.map_eq_some_iff.mp hops
  obtain ⟨u, o, hu, hp⟩ := exec_cst_pends hn hl hm h hv hs hres
  exact ⟨u, o, hu, hp, fun _ _ _ hi => by cases hi⟩

/-- Every matrix instruction answers so. -/
theorem matrix_answers {i : Instr} (hmat : isMatrix i) : Issues s i x t → MatrixAnswers i s x t m :=
  isMatrix_cases (motive := fun i => Issues s i x t → MatrixAnswers i s x t m) hmat (fun _ _ _ _ _ => mma_answers hn hl hm)
    (fun _ _ _ _ _ _ => mmas_answers hn hl hm) (fun _ _ _ _ _ _ => mmab_answers hn hl hm) (fun _ _ _ _ _ => cmprs_answers hn hl hm)
    (fun _ _ => cclr_answers hn hl) (fun _ _ _ _ => cld_answers hn hl hm) (fun _ _ _ => cscl_answers hn hl)
    fun _ _ _ _ _ => cst_answers hn hl hm

end

/-- Settles O46: the guard and the active lanes decide for all eight alike, the format word and the operands as each names them. -/
theorem matrixIssues : Obligations.MatrixIssues := by
  refine ⟨fun i s x t hmat hb hr ho hq hn => ?_, fun i s x t m hmat h hm => ⟨fun hn => ?_, fun hn hl => ?_, fun hn hl => ?_⟩⟩
  · obtain ⟨k, hk⟩ := exec_matGated hmat s
    obtain ⟨_, _, _, _, _, _, -, -, hi, -⟩ := State.begin_spec hb
    rw [hk]
    exact issue_takes hb hr ho (issueCheck_never (hi ▸ hmat) hn) hq (if_pos hn)
  · obtain ⟨k, hk⟩ := exec_matGated hmat s
    rw [hk, matIssue_never h hn]
  · obtain ⟨k, hk⟩ := exec_matGated hmat s
    exact hk.trans (matIssue_convergence h hn hl k)
  · obtain ⟨hformat, hgo⟩ := matrix_answers hn hl hm hmat h
    refine ⟨hformat, fun hagree => ⟨(hgo hagree).1, fun ops hops hres => ?_⟩⟩
    obtain ⟨u, o, hu, ⟨j, hadds, hjob, hfmt, hread, hready, hun, hhold⟩, hvals⟩ := (hgo hagree).2 ops hops hres
    exact ⟨u, o, j, hu, hadds, hjob, hfmt, hread, hready, ⟨h.sameRegs.trans hun.1, h.sameBytes.trans hun.2⟩, hhold, hvals⟩

end Sys2Proof.Machine
end

section
/-! SUPPORT. Integer addition and subtraction (R60, R61, R157, R158): exact results wrapped or clamped to their type. -/

namespace Sys2Proof.Machine

open Sys2Proof.Claims

/-! ## Exact results in a register (R60, R61, R157) -/

@[simp] theorem w32_ofW (v : Word) : w32 (ofW v) = v := by simp [w32, ofW]

/-- The high half of a word's register value is zero. -/
@[simp] theorem ofW_high (v : Word) : (ofW v).extractLsb' 32 32 = 0 := by
  refine BitVec.eq_of_toNat_eq ?_
  rw [BitVec.extractLsb'_toNat, ofW, BitVec.toNat_setWidth, Nat.shiftRight_eq_div_pow]
  have := v.isLt
  simp only [BitVec.ofNat_eq_ofNat, BitVec.toNat_ofNat]
  omega

theorem clampTo_mem {lo hi : Int} (h : lo ≤ hi) (n : Int) : lo ≤ clampTo lo hi n ∧ clampTo lo hi n ≤ hi := by
  unfold clampTo
  split
  · omega
  · split <;> omega

/-- The integer types of the registers (R60). -/
def registerTypes : List Ty := [.s32, .z32, .s64, .z64]

theorem mem_registerTypes {ty : Ty} : ty ∈ registerTypes ↔ ty = .s32 ∨ ty = .z32 ∨ ty = .s64 ∨ ty = .z64 := by simp [registerTypes]

section
variable {ty : Ty} (h : ty ∈ registerTypes)
include h

/-- A register reads what was wrapped into it modulo the width, within the bounds of its type. -/
theorem ext_wrap (n : Int) : ext ty (wrap ty n) = if ty.signed then n.bmod (2 ^ ty.bits) else n % 2 ^ ty.bits := by
  rcases mem_registerTypes.mp h with rfl | rfl | rfl | rfl
  case inl | inr.inr.inl => simp [ext, wrap, Ty.is64, Ty.signed, Ty.bits]
  case inr.inl | inr.inr.inr =>
    simp only [ext, wrap, Ty.is64, Ty.signed, Ty.bits, Bool.false_eq_true, if_false, if_true, w32_ofW, BitVec.toNat_ofInt]
    omega

theorem ext_wrap_congr (n : Int) : (ext ty (wrap ty n) - n) % 2 ^ ty.bits = 0 := by
  rw [ext_wrap h]
  rcases mem_registerTypes.mp h with rfl | rfl | rfl | rfl
  all_goals
    simp only [Ty.signed, Ty.bits, Int.bmod_def, if_true, Bool.false_eq_true, if_false]
    omega

theorem ext_wrap_of_mem {n : Int} (hlo : tyMin ty ≤ n) (hhi : n ≤ tyMax ty) : ext ty (wrap ty n) = n := by
  rw [ext_wrap h]
  rcases mem_registerTypes.mp h with rfl | rfl | rfl | rfl
  all_goals
    simp only [tyMin, tyMax, Ty.signed, Ty.bits, Int.bmod_def, if_true, Bool.false_eq_true, if_false] at *
    omega

theorem tyMin_le_tyMax : tyMin ty ≤ tyMax ty := by
  rcases mem_registerTypes.mp h with rfl | rfl | rfl | rfl <;> decide

/-- Saturation: an exact result of the type stays, and one outside it becomes the nearest bound. -/
theorem ext_reduce_sat (n : Int) : ext ty (reduce ty true n).1 = clampTo (tyMin ty) (tyMax ty) n := by
  obtain ⟨hlo, hhi⟩ := clampTo_mem (tyMin_le_tyMax h) n
  exact ext_wrap_of_mem h hlo hhi

end

theorem reduce_flags (ty : Ty) (sat : Bool) (n : Int) :
    (reduce ty sat n).2 = if ty.signed ∧ (n < tyMin ty ∨ tyMax ty < n) then flagIV else 0 := by
  simp [reduce, outside]

/-- What is wrapped to 32 bits leaves the upper half of its register zero. -/
theorem wrap_high {ty : Ty} (h : ty.is64 = false) (n : Int) : (wrap ty n).extractLsb' 32 32 = 0 := by
  simp [wrap, h]

theorem is64_of_bits {ty : Ty} (h : ty.bits = 32) : ty.is64 = false := by cases ty <;> revert h <;> decide

/-- Settles O22: a sum and a difference are exact integers that `reduce` wraps or clamps (`ext_wrap_congr`, `ext_reduce_sat`). -/
theorem addSubtractValues : Obligations.AddSubtractValues := by
  intro ty a b h n r hr
  obtain rfl : r = fun sat => reduce ty sat n := by
    rcases hr with ⟨rfl, rfl⟩ | ⟨rfl, rfl⟩ <;> rfl
  have hsat := ext_reduce_sat h n
  refine ⟨ext_wrap_congr h n, fun hlo hhi => ?_, fun hlo => ?_, fun hhi => ?_, fun sat => reduce_flags ty sat n,
    fun h32 sat => wrap_high (is64_of_bits h32) _⟩
  · rw [hsat, clampTo, if_neg (by omega), if_neg (by omega)]
  · rw [hsat, clampTo, if_pos hlo]
  · have := tyMin_le_tyMax h
    rw [hsat, clampTo, if_neg (by omega), if_pos hhi]

end Sys2Proof.Machine
end

section
/-! SUPPORT. Float addition and multiplication (R65 to R67): neither depends on the order of its operands. -/

namespace Sys2Proof.Machine

open Sys2Proof.Claims

/-! ## The order of the operands of a float operation (R65 to R67) -/

theorem Dyadic.add_comm (a b : Dyadic) : a.add b = b.add a := by
  have hexp : (if a.exp ≤ b.exp then a.exp else b.exp) = if b.exp ≤ a.exp then b.exp else a.exp := by split <;> split <;> omega
  simp only [Dyadic.add, hexp, Int.add_comm (a.numAt _)]

theorem FloatFmt.sum_comm (f : FloatFmt) (rnd : Rnd) (ftz : Bool) (x y : FVal) : f.sum rnd ftz x y = f.sum rnd ftz y x := by
  have hflags : x.sigFlag ||| y.sigFlag = y.sigFlag ||| x.sigFlag := BitVec.or_comm ..
  cases x with
  | nan s => cases y <;> simp only [FloatFmt.sum, hflags]
  | inf a =>
    cases y with
    | nan t => simp only [FloatFmt.sum, hflags]
    | inf b => cases a <;> cases b <;> rfl
    | fin b n h => rfl
  | fin a m e =>
    cases y with
    | nan t => simp only [FloatFmt.sum, hflags]
    | inf b => rfl
    | fin b n h =>
      have hzero : (if (m = 0 && n = 0 && a = b) = true then a else decide (rnd = .rd)) =
          if (n = 0 && m = 0 && b = a) = true then b else decide (rnd = .rd) := by
        cases a <;> cases b <;> simp [and_comm]
      simp only [FloatFmt.sum, hzero, Dyadic.add_comm (FVal.dyadic (.fin a m e))]

theorem FVal.times_comm (x y : FVal) : x.times y = y.times x := by
  have hflags : x.sigFlag ||| y.sigFlag = y.sigFlag ||| x.sigFlag := BitVec.or_comm ..
  cases x with
  | nan s => cases y <;> simp only [FVal.times, hflags]
  | inf a =>
    cases y with
    | nan t => simp only [FVal.times, hflags]
    | inf b => simp only [FVal.times, bne_comm]
    | fin b n h => rfl
  | fin a m e =>
    cases y with
    | nan t => simp only [FVal.times, hflags]
    | inf b => rfl
    | fin b n h => simp only [FVal.times, bne_comm (a := a), Nat.mul_comm, Int.add_comm]

/-- Settles O29: a sum and a product of decoded values do not depend on their order, and FADD and FMUL read both operands alike. -/
theorem floatCommutes : Obligations.FloatCommutes := by
  intro rnd ftz a b
  refine ⟨?_, ?_⟩
  · simp only [laneFadd, FloatFmt.fadd, FloatFmt.sum_comm _ _ _ (FloatFmt.f32.read ftz (w32 a).toNat)]
  · simp only [laneFmul, FloatFmt.fmul, FVal.times_comm (FloatFmt.f32.read ftz (w32 a).toNat)]

end Sys2Proof.Machine
end

section
/-! SUPPORT. A result lands in a D register (R73, R90, R92): what it writes there, and what it leaves as it is. -/

namespace Sys2Proof.Machine

open Sys2Proof.Claims

/-! ## A group's registers while its banks change -/

section
variable (g : Group) (hand : Bool)

@[simp] theorem Group.modBank_dfile (f : Bank → Bank) : (g.modBank hand f).dfile = g.dfile := by unfold Group.modBank; split <;> rfl
@[simp] theorem Group.modBank_nflags (f : Bank → Bank) : (g.modBank hand f).nflags = g.nflags := by unfold Group.modBank; split <;> rfl
@[simp] theorem Group.modBank_smerge (f : Bank → Bank) : (g.modBank hand f).smerge = g.smerge := by unfold Group.modBank; split <;> rfl

@[simp] theorem Group.setDown_dfile (n : Nat) : (g.setDown hand n).dfile = g.dfile := by unfold Group.setDown; split <;> simp
@[simp] theorem Group.setDown_nflags (n : Nat) : (g.setDown hand n).nflags = g.nflags := by unfold Group.setDown; split <;> simp
@[simp] theorem Group.setDown_smerge (n : Nat) : (g.setDown hand n).smerge = g.smerge := by unfold Group.setDown; split <;> simp

@[simp] theorem Group.orNflags_dfile (fl : FFlags) : (g.orNflags hand fl).dfile = g.dfile := by unfold Group.orNflags; split <;> rfl
@[simp] theorem Group.orNflags_smerge (fl : FFlags) : (g.orNflags hand fl).smerge = g.smerge := by unfold Group.orNflags; split <;> rfl
@[simp] theorem Group.orNflags_nflags (fl : FFlags) :
    (g.orNflags hand fl).nflags = if hand then g.nflags else g.nflags ||| fl.setWidth 32 := by unfold Group.orNflags; split <;> rfl

end

/-! ## The lanes of a D register (R92, R94) -/

theorem Lanes.mem_list {m : Lanes} {n l : Nat} : l ∈ m.list n ↔ l < n ∧ m.has l = true := by
  rw [Lanes.list, List.mem_filter, List.mem_range, Lanes.has]

/-- Where no other write has come between, an operation writes all its lanes. -/
theorem Op.keeps_of_not_raced {o : Op} (h : o.raced = []) (bits place l : Nat) : o.keeps bits place l = true := by
  have hno : Lanes.has (cellGet ([] : Cells 64) place) l = false := BitVec.getLsbD_zero
  rw [Op.keeps, h, hno, Bool.not_false, Bool.true_or]

theorem laneKey_inj {r l r' l' : Nat} (hl : l < 64) (hl' : l' < 64) : laneKey r l = laneKey r' l' ↔ r = r' ∧ l = l' := by
  unfold laneKey
  omega

/-- One lane's write of a register, or of a pair. -/
def landLane (o : Op) (d : Dest) (m : Cells 32) (l : Nat) : Cells 32 :=
  let m := cellSet m (laneKey (opReg d.op) l) ((cellGet o.vals l).extractLsb' 0 32)
  if d.wide then cellSet m (laneKey (opReg d.op + 1) l) ((cellGet o.vals l).extractLsb' 32 32) else m

theorem landLanes_of_not_raced {o : Op} (h : o.raced = []) (m : Cells 32) (d : Dest) (bits : Nat) :
    landLanes m o d bits = (o.lanes.list 64).foldl (landLane o d) m := by
  simp only [landLanes, Op.keeps_of_not_raced h, if_true, Bool.and_true]
  rfl

/-- What lane `l` of register `r` holds after that write, where it held `old`. -/
def landedWord (o : Op) (d : Dest) (r l : Nat) (old : Word) : Word :=
  if r = opReg d.op then (cellGet o.vals l).extractLsb' 0 32
  else if d.wide = true ∧ r = opReg d.op + 1 then (cellGet o.vals l).extractLsb' 32 32
  else old

theorem landedWord_twice (o : Op) (d : Dest) (r l : Nat) (old : Word) : landedWord o d r l (landedWord o d r l old) = landedWord o d r l old := by
  unfold landedWord
  split_ifs <;> rfl

theorem cellGet_landLane (o : Op) (d : Dest) (m : Cells 32) {k l : Nat} (hk : k < 64) (hl : l < 64) (r : Nat) :
    cellGet (landLane o d m k) (laneKey r l) =
      if l = k then landedWord o d r l (cellGet m (laneKey r l)) else cellGet m (laneKey r l) := by
  have hstep : cellGet (landLane o d m k) (laneKey r l) =
      if d.wide = true ∧ r = opReg d.op + 1 ∧ l = k then (cellGet o.vals k).extractLsb' 32 32
      else if r = opReg d.op ∧ l = k then (cellGet o.vals k).extractLsb' 0 32 else cellGet m (laneKey r l) := by
    unfold landLane
    cases hw : d.wide <;> simp only [Bool.false_eq_true, if_true, if_false, cellGet_cellSet, laneKey_inj hl hk, true_and, false_and]
  rw [hstep]
  by_cases hlk : l = k
  · subst hlk
    by_cases hr : r = opReg d.op <;> simp [landedWord, hr]
  · simp [hlk]

theorem cellGet_landLanes {o : Op} {d : Dest} {ls : List Nat} (hls : ∀ k ∈ ls, k < 64) (m : Cells 32) {l : Nat} (hl : l < 64) (r : Nat) :
    cellGet (ls.foldl (landLane o d) m) (laneKey r l) =
      if l ∈ ls then landedWord o d r l (cellGet m (laneKey r l)) else cellGet m (laneKey r l) := by
  induction ls generalizing m with
  | nil => rfl
  | cons k ks ih =>
    obtain ⟨hk, hks⟩ := List.forall_mem_cons.mp hls
    rw [List.foldl_cons, ih hks, cellGet_landLane o d m hk hl]
    by_cases hlk : l = k <;> by_cases hmem : l ∈ ks <;> simp [hlk, hmem, landedWord_twice]

/-! ## A result lands in a D register -/

/-- What landing changes in a group's banks: the operation's W entries, its near slot, a predicate. -/
def Group.landBanks (g : Group) (o : Op) (d : Dest) (bits : Nat) : Group :=
  let g :=
    if o.near g then
      g.modBank o.hand fun b =>
        let b := { b with win := if d.shift then landEntries o d b.win else b.win }
        if d.op.lvl = .n then { b with nval := landLanes b.nval o d bits } else b
    else g
  if d.predicate && !o.stale g then
    g.modBank o.hand fun b => landPred b o 0 (d.op.idx.toNat - 48) bits fun l => w32 (cellGet o.vals l) != 0
  else g

/-- What no bank shows, landing in the banks keeps. -/
theorem Group.landBanks_keeps {β : Type} (p : Group → β) (hp : ∀ (g : Group) (hand : Bool) (f : Bank → Bank), p (g.modBank hand f) = p g)
    (g : Group) (o : Op) (d : Dest) (bits : Nat) : p (g.landBanks o d bits) = p g := by
  have hite (c : Bool) (g : Group) (f : Bank → Bank) : p (if c then g.modBank o.hand f else g) = p g := by
    split
    · exact hp ..
    · rfl
  exact (hite _ _ _).trans (hite _ _ _)

/-- A group once a result has landed in one of its D registers. -/
def Group.landD (g : Group) (o : Op) (d : Dest) (bits : Nat) : Group :=
  { g.landBanks o d bits with dfile := landLanes (g.landBanks o d bits).dfile o d bits }

section
variable (g : Group) (o : Op) (d : Dest) (bits : Nat)

theorem Group.landD_uid : (g.landD o d bits).uid = g.uid := g.landBanks_keeps Group.uid Group.modBank_uid o d bits
theorem Group.landD_nflags : (g.landD o d bits).nflags = g.nflags := g.landBanks_keeps Group.nflags Group.modBank_nflags o d bits
theorem Group.landD_smerge : (g.landD o d bits).smerge = g.smerge := g.landBanks_keeps Group.smerge Group.modBank_smerge o d bits
theorem Group.landD_dfile : (g.landD o d bits).dfile = landLanes g.dfile o d bits :=
  congrArg (landLanes · o d bits) (g.landBanks_keeps Group.dfile Group.modBank_dfile o d bits)

end

/-- Landing in a D register changes the group so, and marks the operations that it races. -/
theorem State.landResult_of_d {s : State} {o : Op} {d : Dest} {g : Group} (hd : o.dest = some d) (hlvl : d.op.lvl = .d)
    (hg : s.group? o.grp = some g) :
    ∃ os fr bits, s.landResult o = ({ s with ops := os, fresh := fr } : State).setGroup (g.landD o d bits) := by
  refine ⟨markRaced g s.ops o, s.fresh + 1, Config.choose s.fresh, ?_⟩
  unfold State.landResult Group.landD Group.landBanks
  simp only [hd, hg, hlvl, reduceCtorEq, decide_false, Bool.false_and, Bool.false_eq_true, if_false]

/-- An operation without a carry that is no PMOV.set writes no predicate beside its result. -/
theorem State.landPreds_of_plain {s : State} {o : Op} (hc : o.carry = none) (hj : o.job = .plain) : s.landPreds o = s := by
  unfold State.landPreds
  simp only [hc, hj]
  split <;> rfl

theorem State.dropOp_op?_self (s : State) (uid : Nat) : (s.dropOp uid).op? uid = none := by
  simp [State.op?, State.dropOp]

theorem State.finishOp_op?_self (s : State) (o : Op) : (s.finishOp o).op? o.uid = none :=
  (State.modGroup_op? ..).trans (s.dropOp_op?_self o.uid)

/-- What the completion of an operation leaves of its group: the flags of user code are kept in NFLAGS (R73). -/
theorem State.finishOp_group? {s : State} {o : Op} {g : Group} (hg : s.group? o.grp = some g) :
    ∃ g', (s.finishOp o).group? o.grp = some g' ∧ g'.dfile = g.dfile ∧ g'.smerge = g.smerge ∧
      g'.nflags = if o.hand then g.nflags else g.nflags ||| o.flags.setWidth 32 := by
  refine ⟨_, (State.modGroup_group? ..).trans (by rw [if_pos rfl, State.dropOp_group?, hg]; rfl), ?_⟩
  by_cases hs : o.stale g = true
  · have hh : o.hand = true := by
      rw [Op.stale, Bool.and_eq_true] at hs
      exact hs.1
    simp [hs, hh]
  · simp [hs]

theorem exec_fixedResultLands_plain {s : State} {o : Op} (ho : s.op? o.uid = some o) (hdue : s.opDue o = true) (hj : o.job = .plain) :
    exec (.fixedResultLands o.uid) s = .next (s.landAndFinish o) := by
  show execFixedResultLands o.uid s = _
  simp only [execFixedResultLands, ho, hdue, hj, Bool.not_true, Bool.false_eq_true, if_false]

/-- Settles O20: the landing writes the register's lanes (`landResult_of_d`, `cellGet_landLanes`), and the completion drops the operation and
keeps its flags (`finishOp_group?`). -/
theorem resultLandsInD : Obligations.ResultLandsInD := by
  intro s o d g ho hdue hj hd hlvl hraced hcarry hg huid
  obtain ⟨os, fr, bits, hland⟩ := State.landResult_of_d hd hlvl hg
  have huid₁ : (g.landD o d bits).uid = o.grp := (g.landD_uid o d bits).trans huid
  have hu : s.landAndFinish o = (({ s with ops := os, fresh := fr } : State).setGroup (g.landD o d bits)).finishOp o := by
    rw [State.landAndFinish, State.landPreds_of_plain hcarry hj, hland]
  have hg₁ : (({ s with ops := os, fresh := fr } : State).setGroup (g.landD o d bits)).group? o.grp = some (g.landD o d bits) :=
    (State.setGroup_group? ..).trans (if_pos huid₁.symm)
  obtain ⟨g', hg', hdfile, hsmerge, hnflags⟩ := State.finishOp_group? hg₁
  rw [Group.landD_dfile] at hdfile
  rw [Group.landD_smerge] at hsmerge
  rw [Group.landD_nflags] at hnflags
  refine ⟨_, g', exec_fixedResultLands_plain ho hdue hj, hu ▸ hg', fun r l hl => ?_, hnflags, hsmerge, State.finishOp_op?_self _ o,
    fun uid hne => ?_, ?_, ?_⟩
  · have hreg : opReg d.op = d.op.idx.toNat := by rw [opReg, if_neg (by simp [hlvl])]
    rw [Group.dGet, Group.dGet, hdfile, landLanes_of_not_raced hraced, cellGet_landLanes (fun k hk => (Lanes.mem_list.mp hk).1) _ hl]
    by_cases hl' : o.lanes.has l = true <;> simp [Lanes.mem_list, hl, hl', landedWord, hreg]
  · rw [hu]
    refine (State.modGroup_group? ..).trans ?_
    rw [if_neg hne, State.dropOp_group?, State.setGroup_group?, if_neg (fun h => hne (h.trans huid₁))]
    rfl
  · rw [hu]
    rfl
  · rw [hu]
    exact .refl s

end Sys2Proof.Machine
end

section
/-! SUPPORT. Division does not complete as stated where an operation already has the next identifier (R92, R215, R223). -/

namespace Sys2Proof.Machine

open Sys2Proof.Claims

/-! ## When an operation that asks a bank is due (R215) -/

theorem le_foldl_max {n : Nat} {ns : List Nat} (h : n ∈ ns) (m : Nat) : n ≤ ns.foldl max m := by
  have hstart (ns : List Nat) (m : Nat) : m ≤ ns.foldl max m := by
    induction ns generalizing m with
    | nil => exact Nat.le_refl m
    | cons k ks ih => exact (Nat.le_max_left m k).trans (ih _)
  induction ns generalizing m with
  | nil => cases h
  | cons k ks ih =>
    rcases List.mem_cons.mp h with rfl | h
    · exact (Nat.le_max_right m n).trans (hstart ks _)
    · exact ih h _

/-- No access completes before the clk at which one of its requests would if it waited for nothing. -/
theorem State.base_le_bankDue {s : State} {bank : Nat} {rs : List BankReq} {r : BankReq} (hb : (bank, rs) ∈ s.banks) (hr : r ∈ rs) :
    ∃ d, s.bankDue r.op = some d ∧ r.base ≤ d := by
  have hmine : (bank, rs) ∈ s.banks.filter fun b => b.2.any fun q => q.op == r.op :=
    List.mem_filter.mpr ⟨hb, List.any_eq_true.mpr ⟨r, hr, beq_self_eq_true _⟩⟩
  unfold State.bankDue
  dsimp only
  rw [if_neg (by simpa using List.ne_nil_of_mem hmine)]
  refine ⟨_, rfl, Nat.le_add_right_of_le (le_foldl_max (List.mem_flatMap.mpr ⟨_, hmine, ?_⟩) 0)⟩
  exact List.mem_filterMap.mpr ⟨r, hr, if_pos (beq_self_eq_true _)⟩

theorem mem_insertReq (r : BankReq) (rs : List BankReq) : r ∈ insertReq r rs := by
  induction rs with
  | nil => exact List.mem_singleton_self r
  | cons q rs ih =>
    unfold insertReq
    split
    · exact List.mem_cons_self ..
    · exact List.mem_cons_of_mem _ ih

/-- The clk that an operation takes where some are set anew. -/
def State.newDue (s : State) (p : Nat → Bool) (o : Op) : Option Nat := if p o.uid then s.bankDue o.uid <|> o.due else o.due

theorem State.setDues_ops (s : State) (p : Nat → Bool) : (s.setDues p).ops = s.ops.map fun o => { o with due := s.newDue p o } := by
  refine List.map_congr_left fun o _ => ?_
  unfold State.newDue
  split <;> rfl

/-- Whether an access is due anew once a bank has taken a request: it is one of those that ask there from the present clk on. -/
def State.asksAt (s : State) (bank uid : Nat) : Bool :=
  (((tabGetD s.banks bank []).filter fun q => decide (s.clkOf (bank / 64) ≤ q.ask)).map (·.op)).contains uid

/-- Where an operation already has the identifier and is due at `b`, what asks a bank under that identifier is due no earlier. -/
theorem State.askBanks_due {s : State} {uid b : Nat} {a : BankAsk} (ha : a.early = true) (hb : (s.op? uid).bind (·.due) = some b) :
    ∃ f : Op → Option Nat, (s.askBanks uid [a]).ops = (s.ops.map fun o => { o with due := f o }) ∧
      ∀ o : Op, o.uid = uid → ∃ d, f o = some d ∧ b ≤ d := by
  let r : BankReq := { op := uid, ask := s.clkOf (a.bank / 64), words := a.words, base := b }
  let rs := insertReq r (liveReqs (s.clkOf (a.bank / 64)) (tabGetD s.banks a.bank []))
  have hask : s.askBanks uid [a] = (s.putReq a.bank r).setDues (s.putReq a.bank r |>.asksAt a.bank) := by
    unfold State.askBanks
    simp only [List.foldl_cons, List.foldl_nil, hb, ha, if_true, Option.isSome_some, Option.getD_some, Nat.add_zero, List.flatMap_cons,
      List.flatMap_nil, List.append_nil]
    rfl
  have hget : tabGet? (s.putReq a.bank r).banks a.bank = some rs := (tabGet?_tabSet ..).trans (if_pos rfl)
  have hmem : r ∈ rs := mem_insertReq r _
  have hasks : (s.putReq a.bank r).asksAt a.bank uid = true := by
    rw [State.asksAt, tabGetD, hget]
    exact List.contains_iff_mem.mpr (List.mem_map.mpr ⟨r, List.mem_filter.mpr ⟨hmem, decide_eq_true (Nat.le_refl _)⟩, rfl⟩)
  obtain ⟨d, hd, hle⟩ := State.base_le_bankDue (mem_of_tabGet? hget) hmem
  refine ⟨_, hask ▸ State.setDues_ops _ _, ?_⟩
  rintro o rfl
  exact ⟨d, by rw [State.newDue, if_pos hasks, hd]; rfl, hle⟩

/-! ## A result that goes to a queue -/

/-- A result of the issuing group. -/
theorem resultOf_eq {i : Instr} {s : State} {x : Issue} {t : State} (h : Issues s i x t) (lat : Nat) (f : (Nat → DWord) → Res) :
    resultOf i lat f s = .next (t.result x lat fun l => f fun k => t.src x k l) := by
  unfold resultOf
  simp only [h.own]
  exact issue_eq h _

/-- A result with a Q-level operand is added as an operation that asks the bank of its ring word. -/
theorem State.result_of_queue (t : State) {x : Issue} {m : Team} {isPop : Bool} {q : Nat} (hq : x.i.qField = some (isPop, q))
    (hm : t.teamOf x.g = some m) (hl : x.lanes ≠ 0) (lat : Nat) (f : Nat → Res) :
    ∃ h : Op → Op, t.result x lat f = (t.start x h).askBanks t.nextId [m.ringAsk isPop q] := by
  unfold State.result State.ringAsks
  simp only [hq, hm, Option.isSome_some, Bool.true_and, beq_iff_eq, hl, if_true, if_false]
  exact ⟨_, rfl⟩

/-- Where an operation already has the identifier that such a result takes, the result is due with it or later. -/
theorem State.result_due {t : State} {x : Issue} {m : Team} {isPop : Bool} {q b : Nat} (hq : x.i.qField = some (isPop, q))
    (hm : t.teamOf x.g = some m) (hl : x.lanes ≠ 0) (hb : (t.op? t.nextId).bind (·.due) = some b) {lat : Nat} {f : Nat → Res} {os : List Op}
    {o : Op} (ho : (t.result x lat f).ops = os ++ [o]) (huid : o.uid = t.nextId) : ∃ d, o.due = some d ∧ b ≤ d := by
  obtain ⟨h, hres⟩ := t.result_of_queue hq hm hl lat f
  have hop : ((t.start x h).op? t.nextId).bind (·.due) = some b := by
    cases hp : t.op? t.nextId with
    | none => rw [hp] at hb; cases hb
    | some p => rw [State.op?, State.start_ops, List.find?_append, show List.find? _ t.ops = some p from hp, ← hb, hp]; rfl
  obtain ⟨g, hops, hdue⟩ := State.askBanks_due (a := m.ringAsk isPop q) rfl hop
  rw [hres, hops, State.start_ops, List.map_append, List.map_singleton] at ho
  obtain ⟨-, ho⟩ := List.append_inj' ho rfl
  cases List.singleton_inj.mp ho
  exact hdue _ huid

/-! ## A device whose next identifier an operation already has -/

/-- An operation that is due at clk 1000. -/
def staleOp : Op :=
  { uid := 1, grp := 0, hand := false, epoch := 0, split := 0, lanes := 0, splitLanes := 0, set := 15, pc := 0, len := 12
    instr := .nop ⟨0, 0, 15, false, false, false, 7⟩, due := some 1000, var := true, dest := none, vals := [], flags := 0, carry := none, raced := []
    job := .plain }

/-- 1 / 1, to be pushed to queue 0. -/
def divideToQueue : Instr := .idiv ⟨0, 0, 15, false, false, false, 7⟩ .s32 ⟨.q, 0⟩ ⟨.i, 1⟩ ⟨.i, 1⟩

/-- A team with an empty queue of four slots, whose group has one lane and issues beyond its entry point. -/
def staleDevice : State :=
  { State.reset with
    stage := 7, cur := .group 4 0 0x10140 12, nextId := 1, ops := [staleOp], launches := [(2, haltedLaunch)]
    teams := [(3, { haltedTeam with queues := [(0, { Queue.empty with init := true, size := 4, free := 4 })] })]
    groups := [(4, { newGroup haltedLaunch 3 4 0 0 0 0 with place := .active 0 0 })] }

/-- What decides that the division issues there: its issuer, and that no condition and no check holds it back. -/
def issuesThere (e : Issue × State) : Bool :=
  staleDevice.cur == .group e.1.g.uid e.1.sp.id e.1.pc e.1.len && staleDevice.mayIssue e.1 && !staleDevice.overrunDue e.1 &&
    (e.2.issueCheck e.1).isNone && (e.2.queueTrap e.1).isNone && e.1.lanes != 0 && !e.1.wide && e.1.g.team == 3

theorem divideToQueue_issues : ∃ x t, Issues staleDevice divideToQueue x t ∧ x.lanes ≠ 0 ∧ x.wide = false ∧ x.g.team = 3 := by
  have hcheck : (staleDevice.begin divideToQueue).any issuesThere = true := by decide +kernel
  obtain ⟨⟨x, n⟩, hb, hx⟩ := (Option.any_eq_true ..).mp hcheck
  obtain rfl := State.begin_noted hb
  simp only [issuesThere, Bool.and_eq_true, beq_iff_eq, bne_iff_ne, Bool.not_eq_true', Option.isNone_iff_eq_none] at hx
  obtain ⟨⟨⟨⟨⟨⟨⟨hown, hready⟩, hwithin⟩, hlegal⟩, hqueued⟩, hl⟩, hw⟩, hteam⟩ := hx
  exact ⟨x, _, ⟨hown, hb, hready, hwithin, hlegal, hqueued, rfl⟩, hl, hw, hteam⟩

/-- Refutes O23: the statement lets every IDIV to a queue land 24 + 36 clk after its issue where no bank has a request, on every state, also
where an operation already has the next identifier (which no run reaches); the bank then goes by the clk of that operation
(`State.askBanks`), here 1000 and not 60. -/
theorem not_divisionValues : ¬ Obligations.DivisionValues := by
  unfold Obligations.DivisionValues
  intro hall
  obtain ⟨x, t, h, hl, hw, hteam⟩ := divideToQueue_issues
  obtain ⟨u, hu, hp⟩ := ((hall .s32 (.inl rfl)).1 divideToQueue _ _ _ _).1 rfl staleDevice x t h
  have hexec : exec divideToQueue staleDevice = .next (t.result x 36 _) := resultOf_eq h 36 fun v => laneDiv .s32 (v 0) (v 1)
  cases Host.Outcome.next.inj (hexec.symm.trans hu)
  have hq : x.i.qField = some (false, 0) := by rw [h.instr_eq]; rfl
  rw [Pending, if_neg (by simpa [hq] using hl)] at hp
  obtain ⟨o, ⟨os, hops, -, -, huid, -⟩, ⟨-, hdue⟩, -⟩ := hp
  obtain ⟨-, hdue⟩ := hdue (by rw [hq]; rfl)
  obtain ⟨gs, ps, ms, ht⟩ := h.taken_eq
  obtain ⟨m, hm⟩ : ∃ m, t.teamOf x.g = some m := ⟨_, by rw [State.teamOf, hteam, ht]; rfl⟩
  obtain ⟨d, hd, hle⟩ := State.result_due (b := 1000) hq hm hl (by rw [ht]; rfl) hops huid
  have hclk : t.clkOf x.g.core = 0 := by rw [ht]; rfl
  rw [hdue (by rw [ht]; rfl), hclk, hw] at hd
  cases hd
  exact absurd hle (by decide)

end Sys2Proof.Machine
end

section
/-! SUPPORT. A matrix instruction's read that a maintenance action holds (R194, R386). -/

namespace Sys2Proof.Machine

open Sys2Proof.Claims

/-! ## An event that a maintenance action holds (R386) -/

/-- An event that would happen, and that a maintenance action holds, takes its place among those that the action holds. -/
theorem State.holdOr_held {s t : State} {pas : State → List Nat} {ev : Instr} {m : Maint} (hm : s.maintFor (pas s) = some m)
    (ha : m.arrived.contains ev = false) : s.holdOr pas ev (.next t) = .next (s.holdEvent m ev) := by
  unfold State.holdOr
  split
  · next hnil => rw [State.maintFor, hnil] at hm; cases hm
  · simp only [hm, ha, Bool.false_eq_true, if_false]

/-- A word that a matrix instruction has still to read can be read. -/
theorem State.matrixUnit_read {s : State} {o : Op} {j : MatJob} {k : Nat} {w : MatWord} (hr : j.read = false) (hw : j.reads[k]? = some w)
    (hd : w.done = false) : ∃ u, s.matrixUnit o j k = some u := by
  simp only [State.matrixUnit, hr, hw, hd, Bool.not_false, Bool.false_eq_true, if_true, if_false]
  exact ⟨_, rfl⟩

/-- The read of a word that a maintenance action holds changes no operation. -/
theorem exec_accessPerform_held {s : State} {uid k : Nat} {o : Op} {j : MatJob} {w : MatWord} {m : Maint} (he : s.engineStep uid k = none)
    (ho : s.op? uid = some o) (hj : o.job = .matrix j) (hr : j.read = false) (hw : j.reads[k]? = some w) (hd : w.done = false)
    (hm : s.maintFor (s.requestPlaces uid k) = some m) (ha : m.arrived.contains (.accessPerform uid k) = false) :
    exec (.accessPerform uid k) s = .next (s.holdEvent m (.accessPerform uid k)) := by
  obtain ⟨u, hu⟩ := State.matrixUnit_read (s := s) (o := o) hr hw hd
  have hnow : performNow uid k s = .next u := by simp only [performNow, he, ho, hj, hu]
  show s.holdOr (fun s => s.requestPlaces uid k) (.accessPerform uid k) (performNow uid k s) = _
  rw [hnow]
  exact State.holdOr_held (pas := fun s => s.requestPlaces uid k) hm ha

/-! ## A device on which it holds the last read of a CMPRS -/

def lastWord : MatWord := { key := 0, addr := 0, val := 0, done := false, bad := false }

def lastRead : MatJob := { fmt := 0, reads := [lastWord], spans := [(0, 4)], read := false, writes := [], ready := false, late := none }

/-- A CMPRS with one word to read, which holds its group's issue. -/
def compressOp : Op :=
  { uid := 5, grp := 4, hand := false, epoch := 0, split := 0, lanes := 1, splitLanes := 1, set := 15, pc := 0x10140, len := 12
    instr := .cmprs ⟨0, 0, 15, false, false, false, 7⟩ .f16 ⟨.s, 0⟩ ⟨.s, 1⟩ ⟨.s, 2⟩, due := none, var := true, dest := none, vals := [], flags := 0
    carry := none, raced := [], job := .matrix lastRead }

/-- A PUT under the same identifier, with which its engine has done. -/
def overPut : Remote :=
  { op := 5, grp := 4, team := 3, asid := 1, core := 0, pc := 0, priv := false, kind := .put, dev := 1, win := 0, roff := 0, local_ := 0, len := 4
    todo := [0], asked := [], started := true, counted := true, due := 0, failed := false, isOver := true }

/-- The channels of the column that is the home of the PUT's page tables are retrained. -/
def retraining : Maint := { column := 0, repair := false, since := 0, arrived := [] }

def heldDevice : State :=
  { State.reset with
    stage := 7, devid := some 1, contexts := [(1, newContext 0 1)], launches := [(2, haltedLaunch)], teams := [(3, haltedTeam)]
    groups := [(4, haltedGroup)], ops := [compressOp], remotes := [overPut], homes := [(0, 0)], maint := [retraining] }

/-- Refutes O47: the statement has the read of a CMPRS's last word free its group whenever no engine under its identifier takes a step, but
where one that is over has the identifier (which no run reaches), and a maintenance action holds the home of its next request, the read
waits for the action (`State.holdOr`, `State.requestPlaces`). -/
theorem not_matrixCompletes : ¬ Obligations.MatrixCompletes := by
  unfold Obligations.MatrixCompletes
  rintro ⟨-, hcompress, -⟩
  obtain ⟨u, o, j, hu, ho, hj, hread, -⟩ := hcompress heldDevice compressOp lastRead haltedGroup 0 lastWord _ _ _ _ _ rfl rfl rfl rfl rfl rfl rfl rfl
    rfl (fun i v hv => by
      cases i with
      | zero => cases hv; exact ⟨rfl, fun h => absurd rfl h⟩
      | succ i => cases hv) (by decide)
  have hexec := exec_accessPerform_held (s := heldDevice) (uid := 5) (k := 0) (m := retraining) rfl rfl rfl rfl rfl rfl (by decide +kernel) rfl
  cases Host.Outcome.next.inj (hexec.symm.trans hu)
  cases (Option.some.inj ho : compressOp = o)
  cases (Job.matrix.inj hj : lastRead = j)
  cases hread

end Sys2Proof.Machine
end

section
/-! Words written out from the encodings (R36, R50 to R52). -/

namespace Sys2Proof

/-- The words that the encoder writes for a well-formed instruction decode to it. -/
theorem decodeWords_of_encode {i : Instr} {ws : List Word} (hctl : i.ctl.isSome = true) (hwf : i.wf = true) (hws : encode i = ws) :
    decodeWords ws = .ok i := by
  rw [← List.append_nil ws, ← hws]
  exact decodeEncode i hctl hwf []

/-- Settles O6: the compact and the full words are those that the encoder writes (`decodeEncode`); the 8-byte words, which it never writes, are
decoded as they stand. -/
theorem decodeExamples : Obligations.DecodeExamples := by
  unfold Obligations.DecodeExamples
  refine ⟨?_, ?_, ?_, ?_, ?_, ?_, ?_, ?tret, ?skip, ?endg, ?_, ?_, ?_, ?_, ?_, ?bkpt, ?strand, ?fence⟩
  case tret | skip | endg | bkpt | strand | fence => decide +kernel
  all_goals exact decodeWords_of_encode rfl (by decide) (by decide)

end Sys2Proof
end

section
/-! An instruction that a condition of R89 holds back. -/

namespace Sys2Proof.Machine

/-- An instruction whose full form a group issues has control fields. -/
theorem State.ctl_isSome_of_begin {s : State} {i : Instr} {x : Issue} {t : State} (h : s.begin i.core = some (x, t)) : i.ctl.isSome = true := by
  obtain ⟨_, _, _, _, _, _, -, hctl, -⟩ := State.begin_spec h
  rw [Instr.ctl, ← core_core, ← Instr.ctl, hctl]
  rfl

/-- Settles O7: whatever the instruction's own effect, it stands behind the conditions to issue (`exec_gated`). -/
theorem waitingChangesNothing : Obligations.WaitingChangesNothing := by
  intro i s x t hb hwait
  obtain ⟨k, hk⟩ := exec_gated (State.groupIssues_of_begin hb) (State.ctl_isSome_of_begin hb)
  rw [hk, issue_waits hb hwait k]

end Sys2Proof.Machine
end

section
/-! SUPPORT. A result that goes to a queue is not due as stated where an operation already has the next identifier (R92, R215, R223). -/

namespace Sys2Proof.Machine

open Sys2Proof.Claims

/-- What the check `issuesThere` says of an instruction on the device whose next identifier an operation already has. -/
theorem issues_of_issuesThere {i : Instr} (hcheck : (staleDevice.begin i).any issuesThere = true) :
    ∃ x t, Issues staleDevice i x t ∧ x.lanes ≠ 0 ∧ x.wide = false ∧ x.g.team = 3 := by
  obtain ⟨⟨x, n⟩, hb, hx⟩ := (Option.any_eq_true ..).mp hcheck
  obtain rfl := State.begin_noted hb
  simp only [issuesThere, Bool.and_eq_true, beq_iff_eq, bne_iff_ne, Bool.not_eq_true', Option.isNone_iff_eq_none] at hx
  obtain ⟨⟨⟨⟨⟨⟨⟨hown, hready⟩, hwithin⟩, hlegal⟩, hqueued⟩, hl⟩, hw⟩, hteam⟩ := hx
  exact ⟨x, _, ⟨hown, hb, hready, hwithin, hlegal, hqueued, rfl⟩, hl, hw, hteam⟩

/-- No full form that issues there with queue 0 as its destination has its result pending with latency `lat`: with no request at any bank the
statement has it due at clk `lat + 24`, while the bank goes by the operation that is due at 1000 (`State.result_due`). -/
theorem not_resultIs_of_stale {i : Instr} {lat : Nat} {f : (Nat → DWord) → Res} (hi : i.core = i) (hq : i.qField = some (false, 0))
    (hexec : exec i staleDevice = resultOf i lat f staleDevice) (hissues : (staleDevice.begin i).any issuesThere = true)
    (hlat : lat + 24 < 1000) : ¬ ResultIs i lat f := by
  intro hall
  obtain ⟨x, t, h, hl, hw, hteam⟩ := issues_of_issuesThere hissues
  obtain ⟨u, hu, hp⟩ := hall staleDevice x t (hi.symm ▸ h)
  cases Host.Outcome.next.inj ((hexec.trans (resultOf_eq h lat f)).symm.trans hu)
  have hqx : x.i.qField = some (false, 0) := by rw [h.instr_eq, hq]
  rw [Pending, if_neg (by simpa [hqx] using hl)] at hp
  obtain ⟨o, ⟨os, hops, -, -, huid, -⟩, ⟨-, hdue⟩, -⟩ := hp
  obtain ⟨-, hdue⟩ := hdue (by rw [hqx]; rfl)
  obtain ⟨gs, ps, ms, ht⟩ := h.taken_eq
  obtain ⟨m, hm⟩ : ∃ m, t.teamOf x.g = some m := ⟨_, by rw [State.teamOf, hteam, ht]; rfl⟩
  obtain ⟨d, hd, hle⟩ := State.result_due (b := 1000) hqx hm hl (by rw [ht]; rfl) hops huid
  have hclk : t.clkOf x.g.core = 0 := by rw [ht]; rfl
  have hd' : d = lat + 24 := by
    rw [hdue (by rw [ht]; rfl), hclk, hw] at hd
    simpa using hd.symm
  omega

/-- 1 + 1, 1, and 1.0 + 1.0, each to be pushed to queue 0. -/
def addToQueue : Instr := .iadd ⟨0, 0, 15, false, false, false, 7⟩ .s32 false ⟨.q, 0⟩ ⟨.i, 1⟩ ⟨.i, 1⟩
def moveToQueue : Instr := .mov ⟨0, 0, 15, false, false, false, 7⟩ .s32 ⟨.q, 0⟩ ⟨.i, 1⟩
def faddToQueue : Instr := .fadd ⟨0, 0, 15, false, false, false, 7⟩ .rn false ⟨.q, 0⟩ ⟨.i, 1⟩ ⟨.i, 1⟩

/-- Refutes O13: an IADD to a queue on a device where an operation already has the next identifier (which no run reaches) is due with that
operation, at clk 1000, and not at 4 + 24 (`not_resultIs_of_stale`). -/
theorem not_integerResults : ¬ Obligations.IntegerResults := by
  unfold Obligations.IntegerResults
  exact fun hall => not_resultIs_of_stale rfl rfl rfl (by decide +kernel) (by decide) (hall addToQueue 4 _ rfl)

/-- Refutes O14: a MOV to a queue is due at clk 1000 there, and not at 4 + 24 (`not_resultIs_of_stale`). -/
theorem not_logicResults : ¬ Obligations.LogicResults := by
  unfold Obligations.LogicResults
  exact fun hall => not_resultIs_of_stale rfl rfl rfl (by decide +kernel) (by decide) (hall moveToQueue 4 _ rfl)

/-- Refutes O15: an FADD to a queue is due at clk 1000 there, and not at 5 + 24 (`not_resultIs_of_stale`). -/
theorem not_floatResults : ¬ Obligations.FloatResults := by
  unfold Obligations.FloatResults
  exact fun hall => not_resultIs_of_stale rfl rfl rfl (by decide +kernel) (by decide) (hall faddToQueue 5 _ rfl)

end Sys2Proof.Machine
end

section
/-! A load completes (R90, R252, R259). -/

namespace Sys2Proof.Machine

open Sys2Proof.Claims

/-- An access none of whose parts is poisoned has no lane that met poisoned data. -/
theorem Access.badLanes_of_clean {a : Access} (h : ∀ v ∈ a.units, v.poisoned = false) : a.badLanes = 0 := by
  unfold Access.badLanes
  generalize a.units = us at h
  induction us with
  | nil => rfl
  | cons v vs ih =>
    obtain ⟨hv, hvs⟩ := List.forall_mem_cons.mp h
    rw [List.foldl_cons, hv, if_neg Bool.false_ne_true]
    exact ih hvs

theorem State.spoil_none (s : State) (o : Op) : s.spoil o 0 = (o, s) := by
  have hnil : Lanes.list 0 64 = [] := by decide
  rw [State.spoil, hnil]
  rfl

/-- An access without an acquire step or a bitmap, and with no poisoned data, completes as any result does. -/
theorem State.completeAccess_of_clean {s : State} {o : Op} {a : Access} (hacq : a.acq = false) (hcb : a.cb = none) (hbad : a.badLanes = 0) :
    s.completeAccess o a = (s.landResult o).finishOp o := by
  unfold State.completeAccess
  simp only [hacq, hcb, hbad, State.spoil_none, Bool.false_and, Bool.false_eq_true, Option.isSome_none, decide_true, Bool.true_or, if_true, if_false]

/-- ACCESS_COMPLETE of a load whose parts have all been performed, at its clk or later. -/
theorem exec_accessComplete_load {s : State} {o : Op} {a : Access} {g : Group} {ty : Ty} (ho : s.op? o.uid = some o) (hj : o.job = .access a)
    (hk : a.kind = .load ty) (hperf : ∀ v ∈ a.units, v.performed = true) (hdue : s.opDue o = true) (hg : s.group? o.grp = some g) :
    exec (.accessComplete o.uid) s = .next (s.completeAccess o a) := by
  have hover : s.accessOver o a = true := by
    rw [State.accessOver, List.all_eq_true.mpr hperf, hdue, hk]
    rfl
  show execAccessComplete o.uid s = _
  simp only [execAccessComplete, ho, hj, hg, hk, hover, if_true]

/-- A result that lands in a D register alone, and whose operation then completes: what its group holds, and what else stays. -/
theorem State.landResult_finishOp_of_d {s : State} {o : Op} {d : Dest} {g : Group} (hd : o.dest = some d) (hlvl : d.op.lvl = .d)
    (hwide : d.wide = false) (hraced : o.raced = []) (hg : s.group? o.grp = some g) (huid : g.uid = o.grp) :
    (∃ g', ((s.landResult o).finishOp o).group? o.grp = some g' ∧ ∀ r l, l < 64 → g'.dGet r l =
      if o.lanes.has l = true ∧ r = d.op.idx.toNat then (cellGet o.vals l).extractLsb' 0 32 else g.dGet r l) ∧
    ∀ id, id ≠ o.grp → ((s.landResult o).finishOp o).group? id = s.group? id := by
  obtain ⟨os, fr, bits, hland⟩ := State.landResult_of_d hd hlvl hg
  have huid' : (g.landD o d bits).uid = o.grp := (g.landD_uid o d bits).trans huid
  rw [hland]
  constructor
  · have hlanded : (({ s with ops := os, fresh := fr } : State).setGroup (g.landD o d bits)).group? o.grp = some (g.landD o d bits) :=
      (State.setGroup_group? ..).trans (if_pos huid'.symm)
    obtain ⟨g', hg', hdfile, -⟩ := State.finishOp_group? hlanded
    refine ⟨g', hg', fun r l hl => ?_⟩
    have hreg : opReg d.op = d.op.idx.toNat := by rw [opReg, if_neg (by simp [hlvl])]
    rw [Group.dGet, Group.dGet, hdfile, Group.landD_dfile, landLanes_of_not_raced hraced,
      cellGet_landLanes (fun k hk => (Lanes.mem_list.mp hk).1) _ hl]
    by_cases hl' : o.lanes.has l = true <;> simp [Lanes.mem_list, hl, hl', landedWord, hreg, hwide]
  · intro id hne
    refine (State.modGroup_group? ..).trans ?_
    rw [if_neg hne, State.dropOp_group?, State.setGroup_group?, if_neg fun h => hne (h.trans huid')]
    rfl

theorem State.finishOp_sameBytes (s : State) (o : Op) : SameBytes s (s.finishOp o) := .of_eq rfl rfl rfl

/-- Settles O45: a clean load that is over lands as a result in D does, and its operation is dropped (`completeAccess_of_clean`,
`landResult_finishOp_of_d`). -/
theorem loadLands : Obligations.LoadLands := by
  intro s o a d g ty ho hj hk hacq hcb _ hunits hdue hd hlvl hwide hraced hg huid
  have hclean := State.completeAccess_of_clean (s := s) (o := o) hacq hcb (Access.badLanes_of_clean fun v hv => (hunits v hv).2)
  have hexec := exec_accessComplete_load ho hj hk (fun v hv => (hunits v hv).1) hdue hg
  obtain ⟨⟨g', hg', hregs⟩, hothers⟩ := State.landResult_finishOp_of_d hd hlvl hwide hraced hg huid
  exact ⟨_, g', hclean ▸ hexec, hg', State.finishOp_op?_self _ o,
    (s.landResult_sameBytes o).trans (State.finishOp_sameBytes _ o), hregs, hothers⟩

end Sys2Proof.Machine
end

section
/-! Register instructions leave the registers and the memories as they are until their results land (R92, R157, R180). -/

namespace Sys2Proof.Claims

open Sys2Proof.Machine

theorem SameRegs.askBanks (s : State) (uid : Nat) (as : List BankAsk) : SameRegs s (s.askBanks uid as) := by
  obtain ⟨bs, f, h⟩ := s.askBanks_eq uid as
  rw [h]
  exact .of_eq rfl rfl rfl rfl

end Sys2Proof.Claims

namespace Sys2Proof.Machine

open Sys2Proof.Claims

/-! ## The tables of results -/

section
variable {i : Instr} {lat : Nat} {f : (Nat → DWord) → Res} (s : State)

theorem exec_of_integerTable (h : integerTable i = some (lat, f)) : exec i s = resultOf i lat f s := by
  cases i
  case iadd | isub | iadd64 | iaddImm | isubImm | imul | imulh | imulImm | imad | imadw | idiv | irem | imin | imax | iabs | ineg => cases h; rfl
  all_goals cases h

theorem exec_of_logicTable (h : logicTable i = some (lat, f)) : exec i s = resultOf i lat f s := by
  cases i
  case mov | movw | movi | sel | lea | and | or | xor | andn | not | andImm | orImm | xorImm | andnImm | shl | shr | sar | rot | shf | bfe | bfi
      | popc | clz | brev | prmb | iset => cases h; rfl
  all_goals cases h

theorem exec_of_floatTable (h : floatTable i = some (lat, f)) : exec i s = resultOf i lat f s := by
  cases i
  case fadd | fsub | fmul | fmin | fmax | faddImm | fsubImm | fmulImm | fminImm | fmaxImm | ffma | fsetCompare | frcp | frsq | fsqrt | fex2 | flg2
      | fsin | fcos | hfma2 | f2i | i2f | cvt | frnd | pack | unpk | dot4 | dot8 | fdot4 => cases h; rfl
  all_goals cases h

/-- An instruction of the three tables answers the result that its table names. -/
theorem exec_of_tables (h : ((integerTable i).isSome || (logicTable i).isSome || (floatTable i).isSome) = true) :
    ∃ lat f, exec i s = resultOf i lat f s := by
  rw [Bool.or_eq_true, Bool.or_eq_true] at h
  rcases h with (h | h) | h <;> obtain ⟨⟨lat, f⟩, htable⟩ := Option.isSome_iff_exists.mp h
  · exact ⟨lat, f, exec_of_integerTable s htable⟩
  · exact ⟨lat, f, exec_of_logicTable s htable⟩
  · exact ⟨lat, f, exec_of_floatTable s htable⟩

end

/-! ## What an instruction that issues leaves untouched -/

section
variable {s : State} {i : Instr} {x : Issue} {t : State} (h : Issues s i x t)
include h

theorem untouched_finish : Untouched s (t.finish x) :=
  ⟨h.sameRegs.trans (.finish t x), h.sameBytes.trans (t.finish_sameBytes x)⟩

theorem untouched_start_askBanks (f : Op → Op) (uid : Nat) (as : List BankAsk) : Untouched s ((t.start x f).askBanks uid as) := by
  obtain ⟨hregs, hbytes⟩ := untouched_start h f
  exact ⟨hregs.trans (.askBanks _ uid as), hbytes.trans (State.askBanks_sameBytes _ uid as)⟩

theorem untouched_result (lat : Nat) (f : Nat → Res) (carry : Option (Nat × (Nat → Bool))) : Untouched s (t.result x lat f carry) := by
  rcases t.result_eq x lat f carry with hr | ⟨op, hr | hr⟩ <;> rw [hr]
  · exact untouched_finish h
  · exact untouched_start h op
  · exact untouched_start_askBanks h op _ _

/-- An effect that does not trap. -/
theorem issue_eq_next {k : Issue → State → Except Trap State} {u : State} (hk : k x t = .ok u) : issue i s k = .next u := by
  rw [issue_eq h, hk]

end

/-! ## The other register instructions -/

section
variable {s : State} {x : Issue} {t : State} {c : Ctl}

theorem exec_nop (h : Issues s (.nop c) x t) : exec (.nop c) s = .next (t.finish x) := by
  show execNop c s = _
  rw [execNop, h.own]
  exact issue_eq_next h rfl

theorem exec_waitf (h : Issues s (.waitf c) x t) : exec (.waitf c) s = .next (t.finish x) := by
  show execWaitf c s = _
  exact issue_eq_next h rfl

theorem exec_yield (h : Issues s (.yield c) x t) : exec (.yield c) s = .next (t.finish x) := by
  show execYield c s = _
  exact issue_eq_next h rfl

/-- With a legal segment width SHFL answers a result. -/
theorem exec_shfl_legal {m : ShflMode} {ty : Ty} {d a b n : Opnd} (h : Issues s (.shfl c m ty d a b n) x t) (hseg : legalSegment x t) :
    exec (.shfl c m ty d a b n) s = .next (t.result x 8 fun l =>
      let k := shflLane m (Claims.segment x t) l (w32 (t.src x 1 l)).toNat
      (fit ty (t.src x 0 (if x.lanes.has k then k else l)), 0)) := by
  have hwidth : (if (w32 (t.srcUniform x 2)).toNat = 0 then x.g.width else (w32 (t.srcUniform x 2)).toNat) = Claims.segment x t := by
    simp only [Claims.segment, ← BitVec.toNat_inj, BitVec.toNat_zero, BitVec.ofNat_eq_ofNat]
  obtain ⟨hpow, hle⟩ := hseg
  show shuffle m ty (.shfl c m ty d a b n) s = _
  refine issue_eq_next h ?_
  simp only [hwidth]
  rw [if_neg]
  simp only [List.mem_cons, List.not_mem_nil, or_false] at hpow
  simpa [hle, or_iff_not_imp_left] using hpow

/-- PMOV.set completes at issue, or stays outstanding. -/
theorem exec_pmovSet_untouched {a : Opnd} (h : Issues s (.pmovSet c a) x t) : ∃ v, exec (.pmovSet c a) s = .next v ∧ Untouched s v := by
  show ∃ v, execPmovSet c a s = .next v ∧ Untouched s v
  unfold execPmovSet
  rw [issue_eq h]
  dsimp only
  by_cases hnone : (x.i.qField.isSome && x.lanes == 0) = true
  · rw [if_pos hnone]
    exact ⟨_, rfl, untouched_finish h⟩
  · rw [if_neg hnone]
    by_cases hq : x.i.qField.isSome = true
    · rw [if_pos hq]
      exact ⟨_, rfl, untouched_start_askBanks h _ _ _⟩
    · rw [if_neg hq]
      exact ⟨_, rfl, untouched_start h _⟩

end

/-- A register instruction in its full form leaves the registers and the memories as they are. -/
theorem exec_registerOnly_untouched {i : Instr} {s : State} {x : Issue} {t : State} (hi : registerOnly i = true) (h : Issues s i x t)
    (hseg : (∃ c m ty d a b n, i = .shfl c m ty d a b n) → legalSegment x t) : ∃ v, exec i s = .next v ∧ Untouched s v := by
  unfold registerOnly at hi
  rcases (Bool.or_eq_true ..).mp hi with htable | hother
  · obtain ⟨lat, f, he⟩ := exec_of_tables s htable
    exact ⟨_, he.trans (resultOf_eq h lat f), untouched_result h ..⟩
  · cases i
    case iaddc | vote | matchI | pset | pmovGet => delta exec; exact ⟨_, issue_eq_next h rfl, untouched_result h ..⟩
    case shfl => exact ⟨_, exec_shfl_legal h (hseg ⟨_, _, _, _, _, _, _, rfl⟩), untouched_result h ..⟩
    case pmovSet => exact exec_pmovSet_untouched h
    case nop => exact ⟨_, exec_nop h, untouched_finish h⟩
    case waitf => exact ⟨_, exec_waitf h, untouched_finish h⟩
    case yield => exact ⟨_, exec_yield h, untouched_finish h⟩
    all_goals cases hother

/-- Settles O17: a register instruction answers a result, which is outstanding or nothing at all (`untouched_result`), or completes at issue. -/
theorem registerInstructionsFrame : Obligations.RegisterInstructionsFrame := by
  intro i s x t u hi h hseg hu
  obtain ⟨v, hv, hsame⟩ := exec_registerOnly_untouched hi h hseg
  rw [exec_core, hv] at hu
  cases hu
  exact hsame

end Sys2Proof.Machine
end

section
/-! SUPPORT. A record that all its lanes have reached merges (R137, R140): which splits merge and what the merged split holds. -/

namespace Sys2Proof.Machine

/-! ## Lists of splits -/

theorem mem_insertSplit {m q : Split} {l : List Split} : q ∈ insertSplit m l ↔ q = m ∨ q ∈ l := by
  induction l with
  | nil => simp [insertSplit]
  | cons y ys ih =>
    unfold insertSplit
    split
    · exact List.mem_cons
    · simp only [List.mem_cons, ih]
      tauto

theorem mem_of_leastBy {f : Split → Nat} {l : List Split} {m : Split} (h : leastBy f l = some m) : m ∈ l := by
  induction l generalizing m with
  | nil => cases h
  | cons y ys ih =>
    unfold leastBy at h
    split at h
    · cases h
      exact List.mem_cons_self ..
    · next k hk =>
      cases h
      split
      · exact List.mem_cons_self ..
      · exact List.mem_cons_of_mem _ (ih hk)

theorem leastBy_isSome {f : Split → Nat} {l : List Split} (h : l ≠ []) : ∃ m, leastBy f l = some m := by
  cases l with
  | nil => exact absurd rfl h
  | cons y ys =>
    unfold leastBy
    split <;> exact ⟨_, rfl⟩

theorem leastBy_map (f : Split → Nat) (step : Split → Split) (l : List Split) :
    leastBy f (l.map step) = (leastBy (f ∘ step) l).map step := by
  induction l with
  | nil => rfl
  | cons y ys ih =>
    simp only [List.map_cons, leastBy, ih]
    cases leastBy (f ∘ step) ys with
    | none => rfl
    | some k => exact congrArg some (apply_ite step _ _ _).symm

/-- A bit of a union of masks. -/
theorem getLsbD_foldl_or {w : Nat} (f : Split → BitVec w) (l : List Split) (m : BitVec w) (k : Nat) :
    (l.foldl (fun m sp => m ||| f sp) m).getLsbD k = (m.getLsbD k || l.any fun sp => (f sp).getLsbD k) := by
  induction l generalizing m with
  | nil => simp
  | cons y ys ih => rw [List.foldl_cons, ih, BitVec.getLsbD_or, List.any_cons, Bool.or_assoc]

theorem has_unionLanes (l : List Split) (k : Nat) : (unionLanes l).has k = l.any fun sp => sp.lanes.has k :=
  (getLsbD_foldl_or Split.lanes l 0 k).trans (by simp [Lanes.has])

theorem getLsbD_unionWritten (l : List Split) (k : Nat) : (unionWritten l).getLsbD k = l.any fun sp => sp.written.getLsbD k :=
  (getLsbD_foldl_or Split.written l 0 k).trans (by simp)

/-- Keys that are written once each read as written. -/
theorem cellGet_cellSets_map {w : Nat} {ks : List Nat} {n : Nat} (f : Nat → BitVec w) (h : n ∈ ks) (m : Cells w) :
    cellGet (cellSets m (ks.map fun k => (k, f k))) n = f n := by
  induction ks generalizing m with
  | nil => cases h
  | cons k ks ih =>
    rw [List.map_cons, cellSets]
    by_cases hmem : n ∈ ks
    · exact ih hmem _
    · obtain rfl := (List.mem_cons.mp h).resolve_right hmem
      rw [cellGet_cellSets_of_not_mem _ _ _ (by simpa using fun k hk (e : k = n) => hmem (e ▸ hk)), cellGet_cellSet, if_pos rfl]

theorem cellGet_mergeFile (mode : Nat) (base : Cells 32) (arrived : List Split) {n : Nat} (h : n < 64) :
    cellGet (mergeFile mode base arrived) n = mergeReg mode base arrived n :=
  cellGet_cellSets_map _ (List.mem_range.mpr h) []

/-! ## What a merge takes of each split -/

/-- A change of splits that a merge of their lanes and scalar files does not see. -/
structure SameScalars (step : Split → Split) : Prop where
  lanes : ∀ q, (step q).lanes = q.lanes
  sfile : ∀ q, (step q).sfile = q.sfile
  written : ∀ q, (step q).written = q.written

section
variable {step : Split → Split} (h : SameScalars step)
include h

theorem SameScalars.unionLanes_map (l : List Split) : unionLanes (l.map step) = unionLanes l := by
  simp only [unionLanes, List.foldl_map, h.lanes]

theorem SameScalars.unionWritten_map (l : List Split) : unionWritten (l.map step) = unionWritten l := by
  simp only [unionWritten, List.foldl_map, h.written]

theorem SameScalars.mergeReg_map (mode : Nat) (base : Cells 32) (l : List Split) (n : Nat) :
    mergeReg mode base (l.map step) n = mergeReg mode base l n := by
  have hlow : Split.lowLane ∘ step = Split.lowLane := funext fun q => by simp only [Function.comp_apply, Split.lowLane, h.lanes]
  have hhigh : (fun sp => 64 - Split.highLane sp) ∘ step = fun sp => 64 - Split.highLane sp :=
    funext fun q => by simp only [Function.comp_apply, Split.highLane, h.lanes]
  have hfilter : (l.map step).filter (fun sp => sp.written.getLsbD n) = (l.filter fun sp => sp.written.getLsbD n).map step := by
    rw [List.filter_map]
    simp only [Function.comp_def, h.written]
  have hone (o : Option Split) :
      (match o.map step with | some sp => cellGet sp.sfile n | none => 0) = (match o with | some sp => cellGet sp.sfile n | none => 0) := by
    cases o with
    | none => rfl
    | some q => exact congrArg (cellGet · n) (h.sfile q)
  unfold mergeReg
  rw [hfilter]
  generalize l.filter (fun sp => sp.written.getLsbD n) = w
  match w with
  | [] => rfl
  | [q] => exact congrArg (cellGet · n) (h.sfile q)
  | q :: r :: rest =>
    match mode with
    | 0 =>
      show (match leastBy _ ((q :: r :: rest).map step) with | some sp => cellGet sp.sfile n | none => 0) = _
      rw [leastBy_map, hlow]
      exact hone _
    | 1 =>
      show (match leastBy _ ((q :: r :: rest).map step) with | some sp => cellGet sp.sfile n | none => 0) = _
      rw [leastBy_map, hhigh]
      exact hone _
    | 2 => rfl
    | _ + 3 =>
      show ((q :: r :: rest).map step).foldl _ _ = (q :: r :: rest).foldl _ _
      rw [List.foldl_map]
      simp only [h.sfile]

end

/-! ## One merge, and the merges that follow (R137) -/

/-- The splits that have arrived at a record. -/
def Bank.arrivedAt (b : Bank) (r : JoinRec) : List Split := b.splits.filter fun q => q.join == some r.id && q.held

/-- A record's parent, among the records that are left with it gone. -/
def Bank.parentOf (b : Bank) (r : JoinRec) : Option JoinRec :=
  r.parent.bind fun p => (b.recs.filter fun q => q.id != r.id).find? fun q => q.id == p

/-- Whether the merged split arrives at the parent at once. -/
def Bank.chains (b : Bank) (r : JoinRec) : Bool := (b.parentOf r).any fun p => p.addr == r.addr

/-- The split into which those of a record of user code merge; `least` is the one whose identifier it keeps. -/
def Bank.mergedSplit (b : Bank) (mode clk : Nat) (r : JoinRec) (least : Split) : Split :=
  { least with
    lanes := unionLanes (b.arrivedAt r), join := r.parent, held := b.chains r, last := clk, base := clk + 1, waited := 0
    sfile := mergeFile mode r.base (b.arrivedAt r), written := unionWritten (b.arrivedAt r) ||| r.baseMask, own := false }

/-- The records that are left, with the merged split's arrival at the parent. -/
def Bank.mergedRecs (b : Bank) (r : JoinRec) : List JoinRec :=
  if b.chains r then
    (b.recs.filter fun q => q.id != r.id).map fun q =>
      if some q.id == r.parent then { q with arrived := q.arrived ||| unionLanes (b.arrivedAt r) } else q
  else b.recs.filter fun q => q.id != r.id

/-- A bank of user code once the splits of a record have merged. -/
def Bank.merge (b : Bank) (mode clk : Nat) (r : JoinRec) (least : Split) : Bank :=
  { b with
    recs := b.mergedRecs r
    splits := insertSplit (b.mergedSplit mode clk r least) (b.splits.filter fun q => !(q.join == some r.id && q.held))
    lastSplit := if (b.arrivedAt r).any fun q => q.id == b.lastSplit then least.id else b.lastSplit }

section
variable {g : Group} {clk : Nat}

theorem Group.mergeOne_of_incomplete (h : ∀ q ∈ g.bk.recs, q.expected ≠ q.arrived) : g.mergeOne clk = none := by
  have hnone : (g.bk.recs.find? fun r => r.expected == r.arrived) = none := List.find?_eq_none.mpr fun q hq => by simpa using h q hq
  unfold Group.mergeOne
  simp only [hnone]

theorem Group.mergeSome_of_incomplete (h : ∀ q ∈ g.bk.recs, q.expected ≠ q.arrived) (n : Nat) : g.mergeSome clk n = g := by
  cases n with
  | zero => rfl
  | succ n => simp only [Group.mergeSome, Group.mergeOne_of_incomplete h]

/-- In user code the first record that is complete merges. -/
theorem Group.mergeOne_user {r : JoinRec} {least : Split} (hh : g.hand = none)
    (hr : (g.bank.recs.find? fun q => q.expected == q.arrived) = some r) (hl : leastBy (·.id) (g.bank.arrivedAt r) = some least) :
    g.mergeOne clk = some (g.setBk (g.bank.merge (g.smerge.toNat % 4) clk r least)) := by
  unfold Bank.arrivedAt at hl
  unfold Group.mergeOne
  simp only [Group.bk_of_none hh, hr, hl, hh, Option.isSome_none, Bool.false_and, Bool.false_eq_true, if_false, Bool.not_false, Bool.and_true]
  rfl

/-- A merge leaves a group in user code there, and adds no record. -/
theorem Group.mergeOne_recs {g' : Group} (hh : g.hand = none) (h : g.mergeOne clk = some g') :
    g'.hand = none ∧ ∀ q ∈ g'.bank.recs, ∃ p ∈ g.bank.recs, p.id = q.id := by
  have hset (b : Bank) : (g.setBk b).hand = none := by rw [← Option.isNone_iff_eq_none, ← Option.not_isSome, Group.setBk_hand_isSome, hh]; rfl
  cases hr : g.bank.recs.find? fun q => q.expected == q.arrived with
  | none =>
    rw [Group.mergeOne_of_incomplete (by simpa [hh] using hr)] at h
    cases h
  | some r =>
    cases hl : leastBy (·.id) (g.bank.arrivedAt r) with
    | none =>
      unfold Bank.arrivedAt at hl
      unfold Group.mergeOne at h
      simp only [Group.bk_of_none hh, hr, hl] at h
      cases h
      refine ⟨hset _, fun q hq => ?_⟩
      rw [Group.setBk_bank_of_none _ hh] at hq
      exact ⟨q, List.mem_of_mem_filter hq, rfl⟩
    | some least =>
      rw [Group.mergeOne_user hh hr hl] at h
      cases h
      refine ⟨hset _, fun q hq => ?_⟩
      rw [Group.setBk_bank_of_none _ hh] at hq
      change q ∈ g.bank.mergedRecs r at hq
      unfold Bank.mergedRecs at hq
      split at hq
      · obtain ⟨p, hp, rfl⟩ := List.mem_map.mp hq
        exact ⟨p, List.mem_of_mem_filter hp, by split <;> rfl⟩
      · exact ⟨q, List.mem_of_mem_filter hq, rfl⟩

theorem Group.mergeSome_recs (hh : g.hand = none) (n : Nat) :
    (g.mergeSome clk n).hand = none ∧ ∀ q ∈ (g.mergeSome clk n).bank.recs, ∃ p ∈ g.bank.recs, p.id = q.id := by
  induction n generalizing g with
  | zero => exact ⟨hh, fun q hq => ⟨q, hq, rfl⟩⟩
  | succ n ih =>
    unfold Group.mergeSome
    split
    · exact ⟨hh, fun q hq => ⟨q, hq, rfl⟩⟩
    · next g' hg' =>
      obtain ⟨hh', hrecs⟩ := Group.mergeOne_recs hh hg'
      obtain ⟨hh'', hmore⟩ := ih hh'
      refine ⟨hh'', fun q hq => ?_⟩
      obtain ⟨p, hp, hpq⟩ := hmore q hq
      obtain ⟨p', hp', hid⟩ := hrecs p hp
      exact ⟨p', hp', hid.trans hpq⟩

end

end Sys2Proof.Machine
end

section
/-! A JOIN's arrival at its record (R137, R140, R150). -/

namespace Sys2Proof.Machine

open Sys2Proof.Claims

/-! ## An arrival -/

theorem find?_of_unique {α : Type} {l : List α} {p : α → Bool} {a : α} (ha : a ∈ l) (hp : p a = true)
    (hu : ∀ b ∈ l, p b = true → b = a) : l.find? p = some a := by
  cases h : l.find? p with
  | none => exact absurd hp (List.find?_eq_none.mp h a ha)
  | some b => rw [hu b (List.mem_of_find?_eq_some h) (List.find?_some h)]

/-- A record that some lanes reach, among others. -/
def JoinRec.reachedBy (id : Nat) (lanes : Lanes) (q : JoinRec) : JoinRec :=
  if q.id = id then { q with arrived := q.arrived ||| lanes } else q

/-- A bank once a split has arrived at a record. -/
def Bank.arriveAt (b : Bank) (r : JoinRec) (sp : Split) (next : DWord) : Bank :=
  Bank.setSplit { b with recs := b.recs.map (JoinRec.reachedBy r.id sp.lanes) } { sp with held := true, pc := next }

theorem JoinRec.reachedBy_id (id : Nat) (lanes : Lanes) (q : JoinRec) : (q.reachedBy id lanes).id = q.id := by
  unfold JoinRec.reachedBy
  split <;> rfl

theorem JoinRec.reachedBy_same (r : JoinRec) (lanes : Lanes) : r.reachedBy r.id lanes = { r with arrived := r.arrived ||| lanes } := if_pos rfl

theorem JoinRec.reachedBy_other {q : JoinRec} {id : Nat} (h : q.id ≠ id) (lanes : Lanes) : q.reachedBy id lanes = q := if_neg h

theorem Group.setBk_hand_of_none {g : Group} (hh : g.hand = none) (b : Bank) : (g.setBk b).hand = none := by
  rw [← Option.isNone_iff_eq_none, ← Option.not_isSome, Group.setBk_hand_isSome, hh]
  rfl

section
variable {g : Group} {sp : Split} {here next : DWord} {clk : Nat}

theorem Group.arrive_elsewhere (h : ∀ r ∈ g.bk.recs, sp.join = some r.id → r.addr ≠ here) : g.arrive sp here next clk = g := by
  have hnone : (sp.join.bind fun id => g.bk.recs.find? fun r => r.id == id && r.addr == here) = none := by
    rw [Option.bind_eq_none_iff]
    intro id hid
    rw [List.find?_eq_none]
    intro r hr hp
    simp only [Bool.and_eq_true, beq_iff_eq] at hp
    exact h r hr (by rw [hid, hp.1]) hp.2
  unfold Group.arrive
  simp only [hnone]

theorem Group.arrive_at {r : JoinRec} (hr : r ∈ g.bk.recs) (hj : sp.join = some r.id) (ha : r.addr = here)
    (hu : ∀ q ∈ g.bk.recs, q.id = r.id → q = r) : g.arrive sp here next clk = (g.setBk (g.bk.arriveAt r sp next)).mergeAll clk := by
  have hfind : (sp.join.bind fun id => g.bk.recs.find? fun r => r.id == id && r.addr == here) = some r := by
    rw [hj, Option.bind_some]
    refine find?_of_unique hr (by simp [ha]) fun q hq hp => hu q hq ?_
    simp only [Bool.and_eq_true, beq_iff_eq] at hp
    exact hp.1
  unfold Group.arrive
  simp only [hfind]
  rfl

theorem Group.arrive_hand (hh : g.hand = none) : (g.arrive sp here next clk).hand = none := by
  unfold Group.arrive
  dsimp only
  split
  · exact hh
  · exact (Group.mergeSome_recs (Group.setBk_hand_of_none hh _) _).1

end

/-! ## The records but one -/

/-- The records that are left when one has gone. -/
def recsBut (id : Nat) (recs : List JoinRec) : List JoinRec := recs.filter fun q => q.id != id

theorem mem_recsBut {id : Nat} {recs : List JoinRec} {q : JoinRec} : q ∈ recsBut id recs ↔ q ∈ recs ∧ q.id ≠ id := by
  simp [recsBut]

theorem recsBut_reachedBy (id : Nat) (lanes : Lanes) (recs : List JoinRec) :
    recsBut id (recs.map (JoinRec.reachedBy id lanes)) = recsBut id recs := by
  have hsame : (recsBut id recs).map (JoinRec.reachedBy id lanes) = recsBut id recs :=
    (List.map_congr_left fun q hq => JoinRec.reachedBy_other (mem_recsBut.mp hq).2 lanes).trans (List.map_id' _)
  unfold recsBut at hsame ⊢
  rw [List.filter_map]
  simpa only [Function.comp_def, JoinRec.reachedBy_id] using hsame

theorem find?_recsBut {id p : Nat} (h : p ≠ id) (recs : List JoinRec) :
    (recsBut id recs).find? (fun q => q.id == p) = recs.find? fun q => q.id == p := by
  rw [recsBut, List.find?_filter]
  congr 1
  funext q
  by_cases hq : q.id = p <;> simp [hq, h]

/-- A parent that is left is the record that had its identifier. -/
theorem find?_of_recsBut {id p : Nat} {recs : List JoinRec} {q : JoinRec} (h : (recsBut id recs).find? (fun q => q.id == p) = some q) :
    recs.find? (fun q => q.id == p) = some q := by
  have hq : q.id = p := by simpa using List.find?_some h
  rw [← find?_recsBut (hq ▸ (mem_recsBut.mp (List.mem_of_find?_eq_some h)).2), h]

/-! ## The issuing split goes on -/

/-- The issuing group once its split has gone to the next instruction: what JOIN sees of it. -/
structure Issue.Moved (x : Issue) (g : Group) : Prop where
  splits : g.bk.splits = x.g.bk.splits.map fun q => if q.id == x.sp.id then { x.sp with pc := x.nextPc } else q
  recs : g.bk.recs = x.g.bk.recs
  hand : g.hand.isSome = x.g.hand.isSome
  smerge : g.smerge = x.g.smerge

/-- The split at issue, with the next instruction as its address. -/
def Issue.movedSplit (x : Issue) : Split := { x.sp with pc := x.nextPc }

/-- The issuing split's step to the next instruction, among the splits. -/
def Issue.step (x : Issue) (q : Split) : Split := if q.id = x.sp.id then { q with pc := x.nextPc } else q

theorem Issue.step_scalars (x : Issue) : SameScalars x.step := by
  constructor <;> intro q <;> unfold Issue.step <;> split <;> rfl

theorem Issue.step_arrived (x : Issue) (r : JoinRec) (q : Split) :
    ((x.step q).join == some r.id && (x.step q).held) = (q.join == some r.id && q.held) := by
  unfold Issue.step
  split <;> rfl

/-- The splits of user code with the issuing one held at its record. -/
def Issue.heldSplits (x : Issue) : List Split := x.g.bank.splits.map fun q => if q.id = x.sp.id then { x.sp with held := true } else q

/-- Those of them that have arrived at a record. -/
def Issue.there (x : Issue) (r : JoinRec) : List Split := x.heldSplits.filter fun q => q.join == some r.id && q.held

/-- The parent of a record (R137). -/
def Issue.parent? (x : Issue) (r : JoinRec) : Option JoinRec := r.parent.bind fun k => x.g.bank.recs.find? fun q => q.id == k

theorem Issue.parent?_some {x : Issue} {r p : JoinRec} (h : x.parent? r = some p) :
    r.parent = some p.id ∧ (x.g.bank.recs.find? fun q => q.id == p.id) = some p := by
  obtain ⟨k, hk, hfind⟩ := Option.bind_eq_some_iff.mp h
  obtain rfl : p.id = k := by simpa using List.find?_some hfind
  exact ⟨hk, hfind⟩

/-- The issuing split stands at its innermost record, the only one of its identifier, and no other record is complete: the premises of `Joins`. -/
structure Issue.StandsAt (x : Issue) (r : JoinRec) : Prop where
  mem : r ∈ x.g.bank.recs
  own : x.sp.join = some r.id
  addr : r.addr = x.pc
  unique : ∀ q ∈ x.g.bank.recs, q.id = r.id → q = r
  others : ∀ q ∈ x.g.bank.recs, q.id ≠ r.id → q.expected ≠ q.arrived

theorem Bank.split?_of_moved {b : Bank} {old : Bank} {sp : Split} (hsp : old.split? sp.id = some sp) {pc : DWord}
    (hb : b.splits = old.splits.map fun q => if q.id == sp.id then { sp with pc := pc } else q) :
    b.split? sp.id = some { sp with pc := pc } := by
  have hset : b.split? sp.id = (old.setSplit { sp with pc := pc }).split? sp.id := by rw [Bank.split?, hb]; rfl
  rw [hset, split?_setSplit, hsp, Option.map_some, if_pos (beq_self_eq_true _)]

section
variable {x : Issue} {g : Group} {r : JoinRec}

/-- The bank once the issuing split has arrived at a record. -/
def Issue.arrivedBank (x : Issue) (g : Group) (r : JoinRec) : Bank := g.bank.arriveAt r x.movedSplit x.nextPc

/-- The record that it has reached. -/
def Issue.reachedRec (x : Issue) (r : JoinRec) : JoinRec := { r with arrived := r.arrived ||| x.sp.lanes }

variable (hm : x.Moved g) (hh : x.g.hand = none)
include hm hh

theorem Issue.Moved.hand_none : g.hand = none := by
  rw [← Option.isNone_iff_eq_none, ← Option.not_isSome, hm.hand, hh]
  rfl

theorem Issue.Moved.bank_recs : g.bank.recs = x.g.bank.recs := by
  have h := hm.recs
  rwa [Group.bk_of_none hh, Group.bk_of_none (hm.hand_none hh)] at h

theorem Issue.Moved.bank_splits :
    g.bank.splits = x.g.bank.splits.map fun q => if q.id == x.sp.id then { x.sp with pc := x.nextPc } else q := by
  have h := hm.splits
  rwa [Group.bk_of_none hh, Group.bk_of_none (hm.hand_none hh)] at h

theorem Issue.Moved.arrivedBank_splits : (x.arrivedBank g r).splits = x.heldSplits.map x.step := by
  show g.bank.splits.map _ = _
  rw [hm.bank_splits hh, Issue.heldSplits, List.map_map, List.map_map]
  refine List.map_congr_left fun q _ => ?_
  by_cases hq : q.id = x.sp.id <;> simp [hq, Issue.step, Issue.movedSplit]

theorem Issue.Moved.arrivedBank_arrivedAt : (x.arrivedBank g r).arrivedAt r = (x.there r).map x.step := by
  rw [Bank.arrivedAt, hm.arrivedBank_splits hh, List.filter_map, Issue.there]
  simp only [Function.comp_def, x.step_arrived]

theorem Issue.Moved.arrivedBank_recs : (x.arrivedBank g r).recs = x.g.bank.recs.map (JoinRec.reachedBy r.id x.sp.lanes) := by
  rw [← hm.bank_recs hh]
  rfl

theorem Issue.Moved.arrivedBank_recsBut : recsBut r.id (x.arrivedBank g r).recs = recsBut r.id x.g.bank.recs := by
  rw [hm.arrivedBank_recs hh, recsBut_reachedBy]

theorem Issue.Moved.arrivedBank_unionLanes : unionLanes ((x.arrivedBank g r).arrivedAt r) = unionLanes (x.there r) := by
  rw [hm.arrivedBank_arrivedAt hh, x.step_scalars.unionLanes_map]

/-! ## The issuing split at its own record -/

variable (har : x.StandsAt r)
include har

/-- The records once the split has arrived: the one that it has reached, and the others. -/
theorem Issue.Moved.mem_arrivedBank_recs {q : JoinRec} (hq : q ∈ (x.arrivedBank g r).recs) :
    q = x.reachedRec r ∨ q ∈ x.g.bank.recs ∧ q.id ≠ r.id := by
  rw [hm.arrivedBank_recs hh] at hq
  obtain ⟨p, hp, rfl⟩ := List.mem_map.mp hq
  by_cases hid : p.id = r.id
  · obtain rfl := har.unique p hp hid
    exact .inl (JoinRec.reachedBy_same p _)
  · rw [JoinRec.reachedBy_other hid]
    exact .inr ⟨hp, hid⟩

theorem Issue.Moved.reachedRec_mem : x.reachedRec r ∈ (x.arrivedBank g r).recs := by
  rw [hm.arrivedBank_recs hh]
  exact List.mem_map.mpr ⟨r, har.mem, JoinRec.reachedBy_same r _⟩

/-- With the last of its lanes the record that is reached is the one that is complete. -/
theorem Issue.Moved.find?_complete (hc : r.arrived ||| x.sp.lanes = r.expected) :
    ((x.arrivedBank g r).recs.find? fun q => q.expected == q.arrived) = some (x.reachedRec r) := by
  refine find?_of_unique (hm.reachedRec_mem hh har) (beq_iff_eq.mpr hc.symm) fun q hq hp => ?_
  exact (hm.mem_arrivedBank_recs hh har hq).resolve_right fun ⟨hq, hid⟩ => har.others q hq hid (beq_iff_eq.mp hp)

theorem Issue.Moved.arrive_own (clk : Nat) :
    g.arrive x.movedSplit x.pc x.nextPc clk = (g.setBk (x.arrivedBank g r)).mergeAll clk := by
  have hrecs : g.bk.recs = x.g.bank.recs := by rw [hm.recs, Group.bk_of_none hh]
  rw [Group.arrive_at (sp := x.movedSplit) (r := r) (hrecs ▸ har.mem) har.own har.addr (hrecs ▸ har.unique), Group.bk_of_none (hm.hand_none hh)]
  rfl

/-- While others are expected no record is complete, and the split is held there. -/
theorem Issue.Moved.arrive_partial (hp : r.arrived ||| x.sp.lanes ≠ r.expected) (clk : Nat) :
    g.arrive x.movedSplit x.pc x.nextPc clk = g.setBk (x.arrivedBank g r) := by
  rw [hm.arrive_own hh har, Group.mergeAll]
  refine Group.mergeSome_of_incomplete (fun q hq => ?_) _
  rw [Group.setBk_bk] at hq
  rcases hm.mem_arrivedBank_recs hh har hq with rfl | ⟨hq, hid⟩
  · exact hp.symm
  · exact har.others q hq hid

/-- With the last of them the splits that have arrived merge, and other merges may follow. -/
theorem Issue.Moved.arrive_complete (hsp : x.sp ∈ x.g.bank.splits) (hc : r.arrived ||| x.sp.lanes = r.expected) (clk : Nat) :
    ∃ least ∈ (x.arrivedBank g r).arrivedAt r, ∃ n, g.arrive x.movedSplit x.pc x.nextPc clk =
      (g.setBk ((x.arrivedBank g r).merge (x.g.smerge.toNat % 4) clk (x.reachedRec r) least)).mergeSome clk n := by
  have hthere : { x.sp with held := true } ∈ x.there r :=
    List.mem_filter.mpr ⟨List.mem_map.mpr ⟨x.sp, hsp, if_pos rfl⟩, by simp [har.own]⟩
  obtain ⟨least, hleast⟩ := leastBy_isSome (f := (·.id)) (l := (x.arrivedBank g r).arrivedAt r) (by
    rw [hm.arrivedBank_arrivedAt hh]
    exact List.ne_nil_of_mem (List.mem_map_of_mem hthere))
  have hg := hm.hand_none hh
  have hfirst := Group.mergeOne_user (g := g.setBk (x.arrivedBank g r)) (clk := clk) (Group.setBk_hand_of_none hg _)
    (r := x.reachedRec r) (least := least) (by rw [Group.setBk_bank_of_none _ hg]; exact hm.find?_complete hh har hc)
    (by rw [Group.setBk_bank_of_none _ hg]; exact hleast)
  obtain ⟨n, hn⟩ : ∃ n, (g.setBk (x.arrivedBank g r)).bk.recs.length = n + 1 :=
    Nat.exists_eq_succ_of_ne_zero (by
      rw [Group.setBk_bk]
      exact (List.length_pos_of_mem (hm.reachedRec_mem hh har)).ne')
  refine ⟨least, mem_of_leastBy hleast, n, ?_⟩
  rw [hm.arrive_own hh har, Group.mergeAll, hn, Group.mergeSome, hfirst]
  simp only [Group.setBk_smerge, hm.smerge, Group.setBk_bank_of_none _ hg]
  congr 1
  simp only [Group.setBk, hg]

end

/-! ## What the merge leaves -/

section
variable {x : Issue} {g : Group} {r : JoinRec} (hm : x.Moved g) (hh : x.g.hand = none)
include hm hh

/-- The parent under which the merge goes on is the record of that identifier. -/
theorem Issue.Moved.parentOf_eq {p : JoinRec} (hp : (x.arrivedBank g r).parentOf (x.reachedRec r) = some p) : x.parent? r = some p := by
  obtain ⟨k, hk, hfind⟩ := Option.bind_eq_some_iff.mp hp
  change (recsBut r.id (x.arrivedBank g r).recs).find? (fun q => q.id == k) = some p at hfind
  rw [hm.arrivedBank_recsBut hh] at hfind
  exact Option.bind_eq_some_iff.mpr ⟨k, hk, find?_of_recsBut hfind⟩

theorem Issue.Moved.chains_false (hup : ∀ p, x.parent? r = some p → p.addr ≠ r.addr) :
    (x.arrivedBank g r).chains (x.reachedRec r) = false := by
  rw [Bank.chains, Option.any_eq_false]
  exact fun p hp => by simpa [Issue.reachedRec] using hup p (hm.parentOf_eq hh hp)

theorem Issue.Moved.chains_true {p : JoinRec} (hup : x.parent? r = some p) (haddr : p.addr = r.addr) (hid : p.id ≠ r.id) :
    (x.arrivedBank g r).chains (x.reachedRec r) = true := by
  obtain ⟨hk, hfind⟩ := Issue.parent?_some hup
  have hparent : (x.arrivedBank g r).parentOf (x.reachedRec r) = some p := by
    refine Option.bind_eq_some_iff.mpr ⟨p.id, hk, ?_⟩
    change (recsBut r.id (x.arrivedBank g r).recs).find? (fun q => q.id == p.id) = some p
    rw [hm.arrivedBank_recsBut hh, find?_recsBut hid, hfind]
  rw [Bank.chains, hparent, Option.any_some, beq_iff_eq]
  exact haddr

/-- Under a parent of another address the merge completes no record. -/
theorem Issue.Moved.incomplete_of_not_chains (har : x.StandsAt r) (hch : (x.arrivedBank g r).chains (x.reachedRec r) = false) :
    ∀ q ∈ (x.arrivedBank g r).mergedRecs (x.reachedRec r), q.expected ≠ q.arrived := by
  intro q hq
  rw [Bank.mergedRecs, if_neg (by rw [hch]; exact Bool.false_ne_true)] at hq
  change q ∈ recsBut r.id (x.arrivedBank g r).recs at hq
  rw [hm.arrivedBank_recsBut hh] at hq
  obtain ⟨hq, hid⟩ := mem_recsBut.mp hq
  exact har.others q hq hid

/-- Under a parent of the same address the records are those that are left, with the merged split's lanes at the parent. -/
theorem Issue.Moved.mem_mergedRecs_of_chains {p q : JoinRec} (hch : (x.arrivedBank g r).chains (x.reachedRec r) = true)
    (hparent : r.parent = some p.id) (hpu : ∀ q ∈ x.g.bank.recs, q.id = p.id → q = p) :
    q ∈ (x.arrivedBank g r).mergedRecs (x.reachedRec r) ↔
      q = { p with arrived := p.arrived ||| unionLanes (x.there r) } ∧ p ∈ x.g.bank.recs ∧ p.id ≠ r.id ∨
        q ∈ x.g.bank.recs ∧ q.id ≠ r.id ∧ q.id ≠ p.id := by
  have hrecs : (x.arrivedBank g r).mergedRecs (x.reachedRec r) =
      (recsBut r.id x.g.bank.recs).map fun q => if q.id = p.id then { q with arrived := q.arrived ||| unionLanes (x.there r) } else q := by
    rw [Bank.mergedRecs, if_pos hch, ← hm.arrivedBank_recsBut hh]
    refine List.map_congr_left fun q _ => ?_
    change (if some q.id == r.parent then
      { q with arrived := q.arrived ||| unionLanes ((x.arrivedBank g r).arrivedAt r) } else q) = _
    rw [hm.arrivedBank_unionLanes hh, hparent]
    simp
  rw [hrecs, List.mem_map]
  constructor
  · rintro ⟨k, hk, rfl⟩
    obtain ⟨hk, hid⟩ := mem_recsBut.mp hk
    by_cases hkp : k.id = p.id
    · obtain rfl := hpu k hk hkp
      exact .inl ⟨if_pos rfl, hk, hid⟩
    · rw [if_neg hkp]
      exact .inr ⟨hk, hid, hkp⟩
  · rintro (⟨rfl, hp, hid⟩ | ⟨hq, hid, hqp⟩)
    · exact ⟨p, mem_recsBut.mpr ⟨hp, hid⟩, if_pos rfl⟩
    · exact ⟨q, mem_recsBut.mpr ⟨hq, hid⟩, if_neg hqp⟩

variable {mode clk : Nat} {least : Split}

/-- Splits that have not arrived are there as they were. -/
theorem Issue.Moved.mem_merge_splits {q : Split} (hq : q ∈ x.g.bank.splits) (hne : q.id ≠ x.sp.id)
    (hnot : ¬(q.join = some r.id ∧ q.held = true)) : q ∈ ((x.arrivedBank g r).merge mode clk (x.reachedRec r) least).splits := by
  refine mem_insertSplit.mpr (.inr (List.mem_filter.mpr ⟨?_, ?_⟩))
  · rw [hm.arrivedBank_splits hh]
    refine List.mem_map.mpr ⟨q, List.mem_map.mpr ⟨q, hq, if_neg hne⟩, if_neg hne⟩
  · change (!(q.join == some r.id && q.held)) = true
    by_cases hjq : q.join = some r.id
    · simpa [hjq] using hnot
    · simp [hjq]

/-- The merged split holds the lanes, scalar registers and written registers of all that have arrived. -/
theorem Issue.Moved.mergedSplit_lanes (l : Nat) :
    ((x.arrivedBank g r).mergedSplit mode clk (x.reachedRec r) least).lanes.has l = (x.there r).any fun q => q.lanes.has l := by
  rw [← has_unionLanes, ← hm.arrivedBank_unionLanes hh]
  rfl

theorem Issue.Moved.mergedSplit_sfile {n : Nat} (hn : n < 64) :
    cellGet ((x.arrivedBank g r).mergedSplit mode clk (x.reachedRec r) least).sfile n = mergeReg mode r.base (x.there r) n := by
  rw [← x.step_scalars.mergeReg_map, ← hm.arrivedBank_arrivedAt hh]
  exact cellGet_mergeFile mode r.base _ hn

theorem Issue.Moved.mergedSplit_written (n : Nat) :
    ((x.arrivedBank g r).mergedSplit mode clk (x.reachedRec r) least).written.getLsbD n =
      (r.baseMask.getLsbD n || (x.there r).any fun q => q.written.getLsbD n) := by
  rw [← getLsbD_unionWritten, ← x.step_scalars.unionWritten_map, ← hm.arrivedBank_arrivedAt hh, Bool.or_comm]
  exact BitVec.getLsbD_or

/-- Where the others that have arrived stand at the next instruction, so does the merged split. -/
theorem Issue.Moved.mergedSplit_pc (hl : least ∈ (x.arrivedBank g r).arrivedAt r)
    (hpc : ∀ q ∈ x.there r, q.id ≠ x.sp.id → q.pc = x.nextPc) :
    ((x.arrivedBank g r).mergedSplit mode clk (x.reachedRec r) least).pc = x.nextPc := by
  rw [hm.arrivedBank_arrivedAt hh] at hl
  obtain ⟨q, hq, rfl⟩ := List.mem_map.mp hl
  change (x.step q).pc = x.nextPc
  by_cases hid : q.id = x.sp.id
  · simp [Issue.step, hid]
  · simp [Issue.step, hid, hpc q hq hid]

end

theorem mem_mergedRecs_id {b : Bank} {r : JoinRec} {q : JoinRec} (hq : q ∈ b.mergedRecs r) : q.id ≠ r.id := by
  unfold Bank.mergedRecs at hq
  split at hq
  · obtain ⟨p, hp, rfl⟩ := List.mem_map.mp hq
    have hid := (mem_recsBut.mp hp).2
    split <;> exact hid
  · exact (mem_recsBut.mp hq).2

end Sys2Proof.Machine
end

section
/-! The simple control instructions complete (R103 to R106, R113, R137, R140, R150). -/

namespace Sys2Proof.Machine

open Sys2Proof.Claims

/-! ## What a JOIN leaves of its group -/

theorem Issue.issuing_mem {x : Issue} (hh : x.g.hand = none) (hsp : x.g.bk.split? x.sp.id = some x.sp) : x.sp ∈ x.g.bank.splits := by
  rw [Group.bk_of_none hh] at hsp
  exact List.mem_of_find?_eq_some hsp

section
variable {x : Issue} {g : Group} {r : JoinRec} (hm : x.Moved g) (hh : x.g.hand = none) (hsp : x.g.bk.split? x.sp.id = some x.sp)
include hm

theorem Issue.Moved.split?_issuing (hsp : x.g.bk.split? x.sp.id = some x.sp) : g.bk.split? x.sp.id = some x.movedSplit :=
  Bank.split?_of_moved hsp hm.splits

include hh hsp

/-- The issuing split is held once it has arrived. -/
theorem Issue.Moved.arrivedBank_split? : (x.arrivedBank g r).split? x.sp.id = some { x.movedSplit with held := true } := by
  have hold := hm.split?_issuing hsp
  rw [Group.bk_of_none (hm.hand_none hh)] at hold
  refine (split?_setSplit _ _ _).trans ?_
  change Option.map _ (g.bank.split? x.sp.id) = _
  rw [hold]
  exact congrArg some (if_pos (beq_self_eq_true _))

/-- An innermost record of another address, or none: the split goes on. -/
theorem Issue.Moved.join_elsewhere (h : ∀ r ∈ x.g.bank.recs, x.sp.join = some r.id → r.addr ≠ x.pc) (clk : Nat) :
    (g.arrive x.movedSplit x.pc x.nextPc clk).bank.recs = x.g.bank.recs ∧
      (g.arrive x.movedSplit x.pc x.nextPc clk).bank.split? x.sp.id = some x.movedSplit := by
  rw [Group.arrive_elsewhere (sp := x.movedSplit) (by rw [hm.recs, Group.bk_of_none hh]; exact h)]
  refine ⟨hm.bank_recs hh, ?_⟩
  rw [← Group.bk_of_none (hm.hand_none hh)]
  exact hm.split?_issuing hsp

variable (har : x.StandsAt r)
include har

/-- At its own record, while others are expected: the record has the split's lanes, and the split is held. -/
theorem Issue.Moved.join_waits (hp : r.arrived ||| x.sp.lanes ≠ r.expected) (clk : Nat) :
    ((g.arrive x.movedSplit x.pc x.nextPc clk).bank.recs.find? fun q => q.id == r.id) = some (x.reachedRec r) ∧
      (g.arrive x.movedSplit x.pc x.nextPc clk).bank.split? x.sp.id = some { x.movedSplit with held := true } := by
  rw [hm.arrive_partial hh har hp, Group.setBk_bank_of_none _ (hm.hand_none hh)]
  refine ⟨find?_of_unique (hm.reachedRec_mem hh har) (beq_self_eq_true _) fun q hq hid => ?_, hm.arrivedBank_split? hh hsp⟩
  exact (hm.mem_arrivedBank_recs hh har hq).resolve_right fun h => h.2 (beq_iff_eq.mp hid)

variable (hc : r.arrived ||| x.sp.lanes = r.expected)
include hc

/-- With the last lanes the record is gone, whatever merges follow. -/
theorem Issue.Moved.join_gone (clk : Nat) : ∀ q ∈ (g.arrive x.movedSplit x.pc x.nextPc clk).bank.recs, q.id ≠ r.id := by
  obtain ⟨least, -, n, harr⟩ := hm.arrive_complete hh har (Issue.issuing_mem hh hsp) hc clk
  rw [harr]
  intro q hq
  obtain ⟨p, hp, hid⟩ := (Group.mergeSome_recs (Group.setBk_hand_of_none (hm.hand_none hh) _) n).2 q hq
  rw [Group.setBk_bank_of_none _ (hm.hand_none hh)] at hp
  exact hid ▸ mem_mergedRecs_id (r := x.reachedRec r) hp

/-- Where the merge completes no other record, it is the only one. -/
theorem Issue.Moved.join_merges (clk : Nat)
    (hrest : ∀ q ∈ (x.arrivedBank g r).mergedRecs (x.reachedRec r), q.expected ≠ q.arrived) :
    ∃ least ∈ (x.arrivedBank g r).arrivedAt r, (g.arrive x.movedSplit x.pc x.nextPc clk).bank =
      (x.arrivedBank g r).merge (x.g.smerge.toNat % 4) clk (x.reachedRec r) least := by
  obtain ⟨least, hl, n, harr⟩ := hm.arrive_complete hh har (Issue.issuing_mem hh hsp) hc clk
  refine ⟨least, hl, ?_⟩
  rw [harr, Group.mergeSome_of_incomplete (by rw [Group.setBk_bk]; exact hrest), Group.setBk_bank_of_none _ (hm.hand_none hh)]

end

/-- What a JOIN's arrival leaves, case by case. -/
theorem Issue.Moved.joins {x : Issue} {g : Group} (hm : x.Moved g) (hsp : x.g.bk.split? x.sp.id = some x.sp) (clk : Nat) :
    Joins x (g.arrive x.movedSplit x.pc x.nextPc clk) := by
  intro hh
  refine ⟨Group.arrive_hand (hm.hand_none hh), fun hother => ?elsewhere, fun r hr hj ha hu ho => ?own⟩
  case elsewhere =>
    obtain ⟨hrecs, hsplit⟩ := hm.join_elsewhere hh hsp hother clk
    exact ⟨hrecs, _, hsplit, rfl, rfl, rfl, rfl⟩
  have har : x.StandsAt r := ⟨hr, hj, ha, hu, ho⟩
  refine ⟨fun hp => ?waits, fun hc => ⟨hm.join_gone hh hsp har hc clk, fun hup => ?goesOn, fun p hup haddr hid hpu hp => ?chains⟩⟩
  case waits =>
    obtain ⟨hrec, hsplit⟩ := hm.join_waits hh hsp har hp clk
    exact ⟨hrec, _, hsplit, rfl, rfl, hj⟩
  case goesOn =>
    have hch := hm.chains_false hh hup
    obtain ⟨least, hl, hbank⟩ := hm.join_merges hh hsp har hc clk (hm.incomplete_of_not_chains hh har hch)
    rw [hbank]
    exact ⟨fun q hq hne hnot => hm.mem_merge_splits hh hq hne hnot, _, mem_insertSplit.mpr (.inl rfl), rfl, hch,
      hm.mergedSplit_pc hh hl, hm.mergedSplit_lanes hh, fun n hn => hm.mergedSplit_sfile hh hn, fun n _ => hm.mergedSplit_written hh n⟩
  case chains =>
    have hch := hm.chains_true hh hup haddr hid
    obtain ⟨hparent, hfind⟩ := Issue.parent?_some hup
    have hmem {q : JoinRec} := hm.mem_mergedRecs_of_chains hh (q := q) hch hparent hpu
    obtain ⟨least, hl, hbank⟩ := hm.join_merges hh hsp har hc clk fun q hq => by
      rcases hmem.mp hq with ⟨rfl, -⟩ | ⟨hq, hqr, -⟩
      · exact hp.symm
      · exact ho q hq hqr
    rw [hbank]
    refine ⟨fun q hq hne hnot => hm.mem_merge_splits hh hq hne hnot, _, mem_insertSplit.mpr (.inl rfl), hparent, hch,
      hm.mergedSplit_lanes hh, ?_⟩
    refine find?_of_unique (hmem.mpr (.inl ⟨rfl, List.mem_of_find?_eq_some hfind, hid⟩)) (beq_self_eq_true _) fun q hq hqp => ?_
    rcases hmem.mp hq with ⟨rfl, -⟩ | ⟨-, -, hne⟩
    · rfl
    · exact absurd (beq_iff_eq.mp hqp) hne

/-! ## The issuing group once its instruction has completed at issue -/

/-- The split at issue is the issuing group's. -/
theorem Issues.split? {s : State} {i : Instr} {x : Issue} {t : State} (h : Issues s i x t) : x.g.bk.split? x.sp.id = some x.sp := by
  obtain ⟨_, split, _, _, _, _, -, -, -, -, -, -, hsp, -⟩ := State.begin_spec h.begins
  have hid : x.sp.id = split := by simpa using List.find?_some hsp
  rw [hid, hsp]

theorem Group.setBk_setBk (g : Group) (a b : Bank) : (g.setBk a).setBk b = g.setBk b := by
  unfold Group.setBk
  cases g.hand <;> rfl

theorem Group.setBk_goTo {g : Group} {b : Bank} {sp : Split} (h : b.split? sp.id = some sp) (pc : DWord) :
    (g.setBk b).goTo sp.id pc = g.setBk (b.setSplit { sp with pc := pc }) := by
  unfold Group.goTo
  simp only [Group.setBk_bk, h, Group.setBk_setBk]

/-- A bank whose window and near slots an issue has changed (R108, R112). -/
def Issue.commitBank (x : Issue) (uid : Nat) (b : Bank) : Bank :=
  let nst := decNear b.nst x.nearReads
  { b with
    nst := match x.dest with | some d => setNear nst d | none => nst
    win := if x.i.producesResult then shiftWindow x uid b.win else b.win }

theorem State.commit_group? {s : State} {x : Issue} {g : Group} (hg : s.group? x.g.uid = some g) (uid : Nat) :
    (s.commit x uid).group? x.g.uid = some ((g.setBk (x.commitBank uid g.bk)).goTo x.sp.id x.nextPc) := by
  obtain ⟨ts, hq⟩ := s.queueIssue_eq x uid
  have hgroup : (s.queueIssue x uid).group? x.g.uid = some g := by rw [hq]; exact hg
  rw [State.commit, State.modGroup_group?, if_pos rfl, hgroup]
  rfl

/-- Taking an instruction leaves the bank in use and the merge mode of its group as they are. -/
theorem Issues.taken_bank {s : State} {i : Instr} {x : Issue} {t : State} (h : Issues s i x t) :
    ∃ g, t.group? x.g.uid = some g ∧ g.bk = x.g.bk ∧ g.hand = x.g.hand ∧ g.smerge = x.g.smerge := by
  obtain ⟨_, _, _, hg⟩ := h.taken_group
  exact ⟨_, hg, rfl, rfl, rfl⟩

/-- An instruction that completes at issue moves its split to the next instruction. -/
theorem Issues.finish_moved {s : State} {i : Instr} {x : Issue} {t : State} (h : Issues s i x t) :
    ∃ g, (t.finish x).group? x.g.uid = some g ∧ x.Moved g := by
  obtain ⟨g, hg, hbk, hhand, hsmerge⟩ := h.taken_bank
  have hgroup := State.commit_group? hg 0
  rw [hbk, Group.setBk_goTo (b := x.commitBank 0 x.g.bk) h.split?] at hgroup
  refine ⟨_, hgroup, by rw [Group.setBk_bk]; rfl, by rw [Group.setBk_bk]; rfl, ?_, ?_⟩
  · rw [Group.setBk_hand_isSome, hhand]
  · rw [Group.setBk_smerge, hsmerge]

/-! ## SLEEP (R105) -/

theorem foldl_max_le {α : Type} (f : α → Int) (l : List α) (m n : Int) :
    l.foldl (fun m a => max m (f a)) m ≤ n ↔ m ≤ n ∧ ∀ a ∈ l, f a ≤ n := by
  induction l generalizing m with
  | nil => simp
  | cons b bs ih => rw [List.foldl_cons, ih, max_le_iff, List.forall_mem_cons, and_assoc]

/-- The longest of the counts of the lanes that sleep, or 0. -/
def Issue.sleepFor (x : Issue) (t : State) : Int := x.list.foldl (fun m l => max m (w32 (t.src x 0 l)).toInt) 0

/-- The issuing group is there while its instruction is outstanding. -/
theorem Issues.start_group? {s : State} {i : Instr} {x : Issue} {t : State} (h : Issues s i x t) (f : Op → Op) :
    ∃ g, (t.start x f).group? x.g.uid = some g := by
  obtain ⟨_, _, _, hg⟩ := h.taken_group
  have hregs := (SameRegs.start t x f).1 x.g.uid
  rw [hg] at hregs
  obtain ⟨g, hg, -⟩ := Option.map_eq_some_iff.mp hregs
  exact ⟨g, hg⟩

/-- The group asleep until `wake`. -/
def State.sleepUntil (t : State) (x : Issue) (wake : Nat) : State :=
  (t.start x fun o => { o with job := .sleep wake }).modGroup x.g.uid fun g => { g with hold := .sleep t.nextId wake }

section
variable {s : State} {x : Issue} {t : State} {c : Ctl} {a : Opnd}

theorem exec_sleep (h : Issues s (.sleep c a) x t) : exec (.sleep c a) s = .next
    (if x.sleepFor t ≤ 0 || x.g.request.isSome then t.finish x else t.sleepUntil x (now t + (x.sleepFor t).toNat)) := by
  show execSleep c a s = _
  refine issue_eq_next h ?_
  exact (apply_ite Except.ok _ _ _).symm

/-- With no positive count, or a request pending, SLEEP completes at issue. -/
theorem exec_sleep_finish (h : Issues s (.sleep c a) x t)
    (hawake : (∀ l ∈ x.list, (w32 (t.src x 0 l)).toInt ≤ 0) ∨ x.g.request.isSome = true) : exec (.sleep c a) s = .next (t.finish x) := by
  rw [exec_sleep h, if_pos]
  rcases hawake with hcount | hrequest
  · simp [Issue.sleepFor, (foldl_max_le _ _ 0 0).mpr ⟨le_refl _, hcount⟩]
  · simp [hrequest]

/-- Else the group issues nothing until the longest count has passed. -/
theorem exec_sleep_holds (h : Issues s (.sleep c a) x t) {l : Nat} (hl : l ∈ x.list) (hcount : 0 < (w32 (t.src x 0 l)).toInt)
    (hrequest : x.g.request = none) :
    ∃ u g op wake, exec (.sleep c a) s = .next u ∧ u.group? x.g.uid = some g ∧ g.hold = .sleep op wake ∧
      now t + (w32 (t.src x 0 l)).toInt.toNat ≤ wake := by
  have hle : (w32 (t.src x 0 l)).toInt ≤ x.sleepFor t := ((foldl_max_le _ x.list 0 _).mp (le_refl (x.sleepFor t))).2 l hl
  have hpos : ¬((decide (x.sleepFor t ≤ 0) || x.g.request.isSome) = true) := by
    simpa [hrequest] using hcount.trans_le hle
  obtain ⟨g, hg⟩ := h.start_group? fun o => { o with job := .sleep (now t + (x.sleepFor t).toNat) }
  refine ⟨t.sleepUntil x (now t + (x.sleepFor t).toNat), { g with hold := .sleep t.nextId (now t + (x.sleepFor t).toNat) }, t.nextId,
    now t + (x.sleepFor t).toNat, ?_, ?_, rfl, ?_⟩
  · rw [exec_sleep h, if_neg hpos]
  · rw [State.sleepUntil, State.modGroup_group?, if_pos rfl, hg]
    rfl
  · exact Nat.add_le_add_left (Int.toNat_le_toNat hle) _

end

/-! ## NREL, JOIN and the statement -/

section
variable {s : State} {x : Issue} {t : State} {c : Ctl}

theorem exec_nrel {d : Opnd} (h : Issues s (.nrel c d) x t) :
    exec (.nrel c d) s = .next ((t.finish x).modGroup x.g.uid fun g => g.setBk { g.bk with nst := cellSet g.bk.nst d.nSlot 0 }) := by
  show execNrel c d s = _
  exact issue_eq_next h rfl

/-- The slot that NREL names is released, whatever the guard. -/
theorem exec_nrel_releases {d : Opnd} (h : Issues s (.nrel c d) x t) :
    ∃ u g, exec (.nrel c d) s = .next u ∧ u.group? x.g.uid = some g ∧ cellGet g.bk.nst d.nSlot = 0 := by
  obtain ⟨g, hg⟩ := h.finish_group?
  refine ⟨_, _, exec_nrel h, (State.modGroup_group? ..).trans (by rw [if_pos rfl, hg]; rfl), ?_⟩
  rw [Group.setBk_bk, cellGet_cellSet, if_pos rfl]

/-- The group of a JOIN once its split has moved on, and has arrived. -/
def Issue.joinGroup (x : Issue) (t : State) (g : Group) : Group :=
  match g.bk.split? x.sp.id with
  | some sp => g.arrive sp x.pc x.nextPc (t.clkOf g.core)
  | none => g

theorem exec_join (h : Issues s (.join c) x t) : exec (.join c) s = .next ((t.finish x).modGroup x.g.uid (x.joinGroup t)) := by
  show execJoin c s = _
  exact issue_eq_next h rfl

theorem exec_join_joins (h : Issues s (.join c) x t) {u : State} (hu : exec (.join c) s = .next u) {g : Group}
    (hg : u.group? x.g.uid = some g) : Joins x g := by
  obtain ⟨g₀, hg₀, hm⟩ := h.finish_moved
  rw [exec_join h] at hu
  cases hu
  rw [State.modGroup_group?, if_pos rfl, hg₀, Option.map_some, Issue.joinGroup, hm.split?_issuing h.split?] at hg
  cases hg
  exact hm.joins h.split? _

theorem finish_split_moves {i : Instr} (h : Issues s i x t) :
    ∃ g sp, (t.finish x).group? x.g.uid = some g ∧ g.bk.split? x.sp.id = some sp ∧ sp.pc = x.pc + BitVec.ofNat 64 x.len := by
  obtain ⟨g, hg, hm⟩ := h.finish_moved
  exact ⟨g, _, hg, hm.split?_issuing h.split?, rfl⟩

end

/-- Settles O30: NOP, WAITF and YIELD move their split on (`Issues.finish_moved`), NREL and SLEEP answer by their equations, and JOIN's arrival is
that of `Issue.Moved.joins`. -/
theorem simpleControlCompletes : Obligations.SimpleControlCompletes := by
  intro i s x t h
  rw [exec_core i s]
  generalize i.core = j at h ⊢
  cases j
  case nop => exact ⟨exec_nop h, finish_split_moves h⟩
  case waitf => exact ⟨exec_waitf h, finish_split_moves h⟩
  case yield => exact ⟨exec_yield h, finish_split_moves h⟩
  case nrel => exact exec_nrel_releases h
  case sleep => exact ⟨exec_sleep_finish h, fun l => exec_sleep_holds h⟩
  case join => exact ⟨⟨_, exec_join h⟩, fun u hu g hg => exec_join_joins h hu hg⟩
  all_goals trivial

end Sys2Proof.Machine
end

section
/-! The readiness of W entries and near slots at issue (R109, R111, R112). -/

namespace Sys2Proof.Machine

open Sys2Proof.Claims

/-! ## The checks of W and N -/

theorem Issue.windowEarly_iff {x : Issue} : x.windowEarly = true ↔ ∃ sl ∈ x.i.reads, sl.op.lvl = .w ∧ ∃ l ∈ x.splitList,
    ((tabGetD x.g.bk.win l [])[sl.op.idx.toNat]?).all (fun e => !e.done) = true := by
  simp only [Issue.windowEarly, List.any_eq_true, Bool.and_eq_true, beq_iff_eq]
  refine exists_congr fun sl => and_congr_right fun _ => and_congr_right fun _ => exists_congr fun l => and_congr_right fun _ => ?_
  cases (tabGetD x.g.bk.win l [])[sl.op.idx.toNat]? <;> exact Iff.rfl

/-- A complete entry in every lane is not early. -/
theorem Issue.windowEarly_eq_false {x : Issue} (h : ∀ sl ∈ x.i.reads, sl.op.lvl = .w → ∀ l ∈ x.splitList,
    ((tabGetD x.g.bk.win l [])[sl.op.idx.toNat]?).any (fun e => e.done) = true) : x.windowEarly = false := by
  rw [← Bool.not_eq_true, Issue.windowEarly_iff]
  rintro ⟨sl, hsl, hw, l, hl, hearly⟩
  obtain ⟨e, he, hdone⟩ := (Option.any_eq_true ..).mp (h sl hsl hw l hl)
  rw [he, Option.all_some, hdone] at hearly
  cases hearly

theorem Issue.nearReleased_iff {x : Issue} : x.nearReleased = true ↔ ∃ k ∈ x.nearReads, cellGet x.g.bk.nst k = 0 := by
  simp only [Issue.nearReleased, List.any_eq_true, beq_iff_eq]

/-- The readiness of W and N, which comes last of the checks at issue. -/
def Issue.readiness (x : Issue) : Option Trap :=
  if x.windowEarly then some (x.trap tcWindow) else if x.nearReleased then some (x.trap tcNear) else none

theorem State.issueCheck_eq_readiness {t : State} {x : Issue} (hplace : placeIllegal x.i false = false)
    (hmat : portOf (opcodeOf x.i) = .mat → x.never = false ∧ x.g.width ≠ 16 ∧ (x.wide = true → collectorOf x.i < 2))
    (hterm : isTerminator x.i = false) (hhand : x.g.hand = none) (hsys : x.sysBad = false) (hopnd : x.operandBad = false)
    (hentry : t.atEntry x = false) (hreplay : x.g.strand.entry.replay = false) : t.issueCheck x = x.readiness := by
  have huser : x.inHandler = false := by rw [Issue.inHandler, hhand]; rfl
  unfold State.issueCheck Issue.readiness
  simp only [huser, hplace, hterm, hsys, hopnd, hentry, hreplay, Bool.not_false, Bool.false_and, Bool.and_false,
    Bool.false_eq_true, if_false]
  by_cases hport : portOf (opcodeOf x.i) = .mat
  · obtain ⟨hnever, hwidth, hcollector⟩ := hmat hport
    have hpair : ¬(x.wide = true ∧ 2 ≤ collectorOf x.i) := fun h => absurd (hcollector h.1) (Nat.not_lt.mpr h.2)
    simp [hport, hnever, hwidth, hpair]
  · simp [hport]

/-- Settles O10: past the checks before it the answer is the readiness of W and N (`State.issueCheck_eq_readiness`). -/
theorem readinessTraps : Obligations.ReadinessTraps := by
  intro t x hplace hmat hterm hhand hsys hopnd hentry hreplay
  rw [State.issueCheck_eq_readiness hplace hmat hterm hhand hsys hopnd hentry hreplay, Issue.readiness, ← Group.bk_of_none hhand]
  refine ⟨fun hearly => ?early, fun hcomplete hreleased => ?released⟩
  case early => exact if_pos (Issue.windowEarly_iff.mpr hearly)
  case released =>
    rw [Issue.windowEarly_eq_false hcomplete, Issue.nearReleased_iff.mpr hreleased]
    rfl

end Sys2Proof.Machine
end

section
/-! SUPPORT. The window and the near slots at the issue of an instruction (R108, R111, R112, R218). -/

namespace Sys2Proof.Machine

open Sys2Proof.Claims

/-! ## One shift of the window, one count of the near slots -/

theorem Lanes.nodup_list (m : Lanes) (n : Nat) : (m.list n).Nodup := List.nodup_range.filter _

theorem tabGetD_foldl_shiftLane (e : Nat → WEntry) {ls : List Nat} (hls : ls.Nodup) (win : Tab (List WEntry)) (l : Nat) :
    tabGetD (ls.foldl (fun w k => shiftLane (e k) w k) win) l [] =
      if l ∈ ls then (e l :: tabGetD win l []).take 8 else tabGetD win l [] := by
  induction ls generalizing win with
  | nil => rfl
  | cons k ks ih =>
    obtain ⟨hk, hks⟩ := List.nodup_cons.mp hls
    rw [List.foldl_cons, ih hks, shiftLane, tabGetD_tabSet]
    by_cases hlk : l = k
    · subst hlk
      simp [hk]
    · simp [hlk]

/-- Each lane of the split takes its new entry, and loses its ninth (R108). -/
theorem tabGetD_shiftWindow (x : Issue) (tag : Nat) (win : Tab (List WEntry)) {l : Nat} (hl : l < 64) :
    tabGetD (shiftWindow x tag win) l [] =
      if x.sp.lanes.has l then (({ tag := tag, done := !x.lanes.has l, val := 0 } : WEntry) :: tabGetD win l []).take 8
      else tabGetD win l [] := by
  refine (tabGetD_foldl_shiftLane _ (Lanes.nodup_list x.sp.lanes 64) win l).trans ?_
  simp only [Lanes.mem_list, hl, true_and]

theorem nodup_eraseDups {α : Type} [BEq α] [LawfulBEq α] (l : List α) : l.eraseDups.Nodup := by
  induction hn : l.length using Nat.strongRecOn generalizing l with
  | _ n ih =>
    cases l with
    | nil => exact List.nodup_nil
    | cons a as =>
      rw [List.eraseDups_cons, List.nodup_cons, List.mem_eraseDups]
      exact ⟨by simp, ih _ (hn ▸ Nat.lt_succ_of_le (List.length_filter_le _ as)) _ rfl⟩

theorem Issue.nodup_nearReads (x : Issue) : x.nearReads.Nodup := nodup_eraseDups _

/-- The state of a slot that a source names: a counted one loses one, a persistent or released one stays (R112, step 1). -/
def countedDown (v : BitVec 4) : BitVec 4 := if v ≠ 8 ∧ v ≠ 0 then v - 1 else v

theorem decNear_cons (nst : Cells 4) (j : Nat) (js : List Nat) :
    decNear nst (j :: js) = decNear (if cellGet nst j = 8 || cellGet nst j = 0 then nst else cellSet nst j (cellGet nst j - 1)) js := rfl

theorem cellGet_decNear {ks : List Nat} (hks : ks.Nodup) (nst : Cells 4) (k : Nat) :
    cellGet (decNear nst ks) k = if k ∈ ks then countedDown (cellGet nst k) else cellGet nst k := by
  induction ks generalizing nst with
  | nil => rfl
  | cons j js ih =>
    obtain ⟨hj, hjs⟩ := List.nodup_cons.mp hks
    have hstep (k : Nat) : cellGet (if cellGet nst j = 8 || cellGet nst j = 0 then nst else cellSet nst j (cellGet nst j - 1)) k =
        if k = j then countedDown (cellGet nst j) else cellGet nst k := by
      unfold countedDown
      split
      · next hstays =>
        rw [Bool.or_eq_true, decide_eq_true_iff, decide_eq_true_iff, or_iff_not_and_not] at hstays
        rw [if_neg hstays]
        split_ifs with hk
        · rw [hk]
        · rfl
      · next hcounts =>
        rw [Bool.or_eq_true, decide_eq_true_iff, decide_eq_true_iff, not_or] at hcounts
        rw [if_pos hcounts]
        exact cellGet_cellSet ..
    rw [decNear_cons, ih hjs, hstep]
    by_cases hk : k = j
    · subst hk
      simp [hj]
    · simp [hk]

/-- Whether a destination names a near slot. -/
def Dest.names (d : Dest) (k : Nat) : Bool := d.op.lvl == .n && (k == d.op.nSlot || (d.wide && k == d.op.nSlot + 1))

/-- The slots that the destination names take the state of its count field (R112, step 2). -/
theorem cellGet_setNear (nst : Cells 4) (d : Dest) (k : Nat) :
    cellGet (setNear nst d) k = if d.names k then nearState d.op.nCount else cellGet nst k := by
  unfold setNear Dest.names
  by_cases hn : d.op.lvl = .n
  · cases hw : d.wide
    · simp [hn]
    · by_cases hk : k = d.op.nSlot + 1 <;> simp [hn, hk]
  · simp [hn]

end Sys2Proof.Machine
end

section
/-! SUPPORT. Which instructions take effect on the window and the near slots at their issue (R108, R111, R112, R218). -/

namespace Sys2Proof.Machine

open Sys2Proof.Claims

/-! ## The window and the near slots that a group runs with -/

/-- The window and the states of the near slots of the bank that a group runs with. -/
def Group.slots (g : Group) : Tab (List WEntry) × Cells 4 := (g.bk.win, g.bk.nst)

/-- Those of a group by its identifier. -/
def State.slots? (s : State) (uid : Nat) : Option (Tab (List WEntry) × Cells 4) := (s.group? uid).map Group.slots

/-- Those of the issuing group once the issue has taken effect under a tag. -/
def Issue.shifted (x : Issue) (tag : Nat) : Tab (List WEntry) × Cells 4 :=
  ((x.commitBank tag x.g.bk).win, (x.commitBank tag x.g.bk).nst)

theorem Group.slots_goTo (g : Group) (split : Nat) (pc : DWord) : (g.goTo split pc).slots = g.slots := by
  unfold Group.goTo
  split
  · simp [Group.slots, Bank.setSplit]
  · rfl

/-- A change of either bank that leaves window and near slots alone. -/
theorem Group.slots_modBank (g : Group) (hand : Bool) {f : Bank → Bank} (hf : ∀ b, (f b).win = b.win ∧ (f b).nst = b.nst) :
    (g.modBank hand f).slots = g.slots := by
  cases hh : g.hand <;> cases hand <;> simp [Group.slots, Group.bk, Group.modBank, hh, hf]

theorem Group.slots_setUp (g : Group) (hand : Bool) (f : Nat) : (g.setUp hand f).slots = g.slots := by
  unfold Group.setUp
  split
  · exact g.slots_modBank hand fun _ => ⟨rfl, rfl⟩
  · rfl

theorem State.slots?_modGroup (s : State) (k : Nat) {f : Group → Group} (hf : ∀ g, (f g).slots = g.slots) (uid : Nat) :
    (s.modGroup k f).slots? uid = s.slots? uid := by
  unfold State.slots?
  rw [State.modGroup_group?]
  split_ifs with hk
  · subst hk
    cases s.group? uid <;> simp [hf]
  · rfl

theorem State.slots?_of_groups {s u : State} (h : u.groups = s.groups) (uid : Nat) : u.slots? uid = s.slots? uid := by
  rw [State.slots?, State.group?, h]
  rfl

section
variable {x : Issue} {s : State} (h : s.slots? x.g.uid = some x.g.slots)
include h

theorem State.slots?_commit (tag : Nat) : (s.commit x tag).slots? x.g.uid = some (x.shifted tag) := by
  obtain ⟨g, hg, hslots⟩ := Option.map_eq_some_iff.mp h
  obtain ⟨hwin, hnst⟩ := Prod.mk.inj hslots
  rw [State.slots?, State.commit_group? hg, Option.map_some, Group.slots_goTo, Group.slots, Group.setBk_bk]
  simp only [Issue.shifted, Issue.commitBank, hwin, hnst]

theorem State.slots?_start (f : Op → Op) : (s.start x f).slots? x.g.uid = some (x.shifted s.nextId) :=
  (State.slots?_modGroup _ _ (fun g => g.slots_setUp ..) _).trans (State.slots?_commit (s := { s with nextId := s.nextId + 1 }) h s.nextId)

end

theorem State.slots?_askBanks (s : State) (uid : Nat) (as : List BankAsk) (k : Nat) : (s.askBanks uid as).slots? k = s.slots? k := by
  obtain ⟨bs, f, h⟩ := s.askBanks_eq uid as
  exact State.slots?_of_groups (by rw [h]) k

/-! ## An effect at issue -/

/-- A result completes at issue with no active lane, or its operation is added under the identifier that it is given. -/
theorem State.result_cases (t : State) (x : Issue) (lat : Nat) (f : Nat → Res) (carry : Option (Nat × (Nat → Bool))) :
    (x.lanes = 0 ∧ t.result x lat f carry = t.finish x) ∨
      ∃ op : Op → Op, (∀ o, (op o).uid = o.uid) ∧
        (t.result x lat f carry = t.start x op ∨ t.result x lat f carry = (t.start x op).askBanks t.nextId (t.ringAsks x)) := by
  unfold State.result
  dsimp only
  split
  · next hnone => exact .inl ⟨by simpa using ((Bool.and_eq_true ..).mp hnone).2, rfl⟩
  · split
    · refine .inr ⟨_, ?_, .inr rfl⟩
      exact fun _ => rfl
    · refine .inr ⟨_, ?_, .inl rfl⟩
      exact fun _ => rfl

/-- The issue has taken effect in `u` on the window and the near slots of its group; where an active lane waits for a result, an operation
with the tag of its entries is outstanding. -/
def TookEffect (x : Issue) (t u : State) : Prop :=
  ∃ tag, u.slots? x.g.uid = some (x.shifted tag) ∧
    (x.i.producesResult = true → x.lanes ≠ 0 → t.nextId ≤ tag ∧ ∃ o ∈ u.ops, o.uid = tag)

/-- The issuing group stands in `v`, to which issuing the instruction has come from `t`, with its window and near slots as they were. -/
def Unshifted (x : Issue) (t v : State) : Prop :=
  (∃ g, v.group? x.g.uid = some g ∧ g.uid = x.g.uid ∧ g.slots = x.g.slots) ∧ t.nextId ≤ v.nextId

section
variable {x : Issue} {t u v : State}

theorem Issues.unshifted {s : State} {i : Instr} (h : Issues s i x t) : Unshifted x t t := by
  obtain ⟨_, _, _, hg⟩ := h.taken_group
  exact ⟨⟨_, hg, rfl, rfl⟩, le_rfl⟩

theorem Unshifted.slots? (h : Unshifted x t v) : v.slots? x.g.uid = some x.g.slots := by
  obtain ⟨⟨g, hg, -, hslots⟩, -⟩ := h
  rw [State.slots?, hg, Option.map_some, hslots]

/-- Changes that leave groups and identifiers alone. -/
theorem Unshifted.of_eq (h : Unshifted x t v) (hgroups : u.groups = v.groups) (hid : u.nextId = v.nextId) : Unshifted x t u := by
  obtain ⟨hg, hle⟩ := h
  exact ⟨by rwa [State.group?, hgroups], hid ▸ hle⟩

theorem TookEffect.finish (h : Unshifted x t t) (hlanes : x.i.producesResult = true → x.lanes = 0) : TookEffect x t (t.finish x) :=
  ⟨0, State.slots?_commit h.slots? 0, fun hp hl => absurd (hlanes hp) hl⟩

theorem TookEffect.start (h : Unshifted x t v) {f : Op → Op} (hf : ∀ o, (f o).uid = o.uid) : TookEffect x t (v.start x f) :=
  ⟨v.nextId, State.slots?_start h.slots? f, fun _ _ => ⟨h.2, f (x.op v.nextId), by rw [State.start_ops]; simp, hf _⟩⟩

theorem TookEffect.askBanks (h : TookEffect x t u) (uid : Nat) (as : List BankAsk) : TookEffect x t (u.askBanks uid as) := by
  obtain ⟨tag, hslots, hop⟩ := h
  refine ⟨tag, (State.slots?_askBanks ..).trans hslots, fun hp hl => ?_⟩
  obtain ⟨hid, o, ho, htag⟩ := hop hp hl
  obtain ⟨bs, f, hasks⟩ := u.askBanks_eq uid as
  exact ⟨hid, { o with due := f o }, by rw [hasks]; exact List.mem_map_of_mem ho, htag⟩

theorem TookEffect.holdOn (h : TookEffect x t u) (grp uid : Nat) : TookEffect x t (u.holdOn grp uid) := by
  obtain ⟨tag, hslots, hop⟩ := h
  exact ⟨tag, (State.slots?_modGroup u grp (f := fun g => { g with hold := .op uid }) (fun _ => rfl) _).trans hslots, hop⟩

theorem TookEffect.result (h : Unshifted x t t) (lat : Nat) (f : Nat → Res) (carry : Option (Nat × (Nat → Bool))) :
    TookEffect x t (t.result x lat f carry) := by
  rcases t.result_cases x lat f carry with ⟨hlanes, hr⟩ | ⟨op, huid, hr | hr⟩ <;> rw [hr]
  · exact .finish h fun _ => hlanes
  · exact .start h huid
  · exact (TookEffect.start h huid).askBanks _ _

end

end Sys2Proof.Machine
end

section
/-! The window shifts and the near slots are counted at issue (R108, R111, R112, R218, R223). -/

namespace Sys2Proof.Machine

open Sys2Proof.Claims

/-! ## What the checks of an access and the start of a slice leave as it is -/

theorem State.xlate_keeps (s : State) (core asid va : Nat) (need : Need) (priv : Bool) :
    (s.xlate core asid va need priv).2.groups = s.groups ∧ (s.xlate core asid va need priv).2.nextId = s.nextId := by
  obtain ⟨m, w, ps, h⟩ := s.recallWalk_eq asid va
  unfold State.xlate
  dsimp only
  rw [h]
  split
  · split <;> exact ⟨rfl, rfl⟩
  · split
    · exact ⟨rfl, rfl⟩
    · split <;> exact ⟨rfl, rfl⟩

theorem State.target_keeps (s : State) (g : Group) (hand : Bool) (sp : Space) (lane a n : Nat) (w : AccNeed) :
    (s.target g hand sp lane a n w).2.groups = s.groups ∧ (s.target g hand sp lane a n w).2.nextId = s.nextId := by
  unfold State.target
  split
  · unfold State.globTarget
    dsimp only
    split
    · exact ⟨rfl, rfl⟩
    · split
      · exact ⟨rfl, rfl⟩
      · split <;> exact s.xlate_keeps ..
  · dsimp only
    split <;> exact ⟨rfl, rfl⟩

theorem State.targets_keeps (g : Group) (hand : Bool) (sp : Space) (n : Nat) (w : AccNeed) (as : List (Nat × Nat)) (s : State) :
    (s.targets g hand sp n w as).2.2.groups = s.groups ∧ (s.targets g hand sp n w as).2.2.nextId = s.nextId := by
  induction as generalizing s with
  | nil => exact ⟨rfl, rfl⟩
  | cons e rest ih =>
    obtain ⟨hgroups, hid⟩ := ih (s.target g hand sp e.1 e.2 n w).2
    obtain ⟨hgroups', hid'⟩ := s.target_keeps g hand sp e.1 e.2 n w
    unfold State.targets
    dsimp only
    split <;> exact ⟨hgroups.trans hgroups', hid.trans hid'⟩

theorem State.dropCopies_keeps (s : State) (core : Nat) (us : List AccUnit) :
    (s.dropCopies core us).groups = s.groups ∧ (s.dropCopies core us).nextId = s.nextId := by
  refine ⟨foldl_keeps State.groups (fun s u => ?_) us s, foldl_keeps State.nextId (fun s u => ?_) us s⟩ <;> split <;> rfl

section
variable {x : Issue} {t v : State} (h : Unshifted x t v)
include h

theorem Unshifted.targets (g : Group) (hand : Bool) (sp : Space) (n : Nat) (w : AccNeed) (as : List (Nat × Nat)) :
    Unshifted x t (v.targets g hand sp n w as).2.2 := by
  obtain ⟨hgroups, hid⟩ := State.targets_keeps g hand sp n w as v
  exact h.of_eq hgroups hid

theorem Unshifted.dropCopies (core : Nat) (us : List AccUnit) : Unshifted x t (v.dropCopies core us) := by
  obtain ⟨hgroups, hid⟩ := v.dropCopies_keeps core us
  exact h.of_eq hgroups hid

theorem Unshifted.touch (asid va n : Nat) : Unshifted x t (v.touch asid va n) := by
  obtain ⟨m, w, ps, htouch⟩ := v.touch_eq asid va n
  exact h.of_eq (by rw [htouch]) (by rw [htouch])

theorem Unshifted.setReel (core ctx : Nat) (r : ReelCtx) : Unshifted x t (v.setReel core ctx r) := h.of_eq rfl rfl

theorem Unshifted.modTeam (k : Nat) (f : Team → Team) : Unshifted x t (v.modTeam k f) := h.of_eq rfl rfl

/-- A notice changes of the issuing group its records and deliveries alone. -/
theorem Unshifted.postNotice (r : TrapRec) (pc : DWord) : Unshifted x t (v.postNotice x.g.uid r pc) := by
  obtain ⟨⟨g, hg, huid, hslots⟩, hle⟩ := h
  unfold State.postNotice
  simp only [hg]
  split
  · exact ⟨⟨g, hg, huid, hslots⟩, hle⟩
  · exact ⟨⟨_, (State.setGroup_group? ..).trans (if_pos huid.symm), huid, hslots⟩, hle.trans (Nat.le_succ _)⟩

/-- A slice that starts changes of the issuing group at most that. -/
theorem Unshifted.startSlice (l : Launch) (ctx qn slice : Nat) : Unshifted x t (v.startSlice x l ctx qn slice).2 := by
  have htouched := h.touch l.asid (l.image.addr + l.image.sliceOff + 8 * slice) 8
  have hreel (w : State) (r : ReelCtx) : (w.setReel x.g.core ctx r).reel? x.g.core ctx = some r :=
    (tabGet?_tabSet ..).trans (if_pos rfl)
  unfold State.startSlice
  dsimp only
  split
  · unfold State.sliceFault
    simp only [hreel]
    exact ((htouched.setReel ..).setReel ..).postNotice _ _
  · exact htouched.setReel ..

end

/-! ## Every instruction of the statement takes effect at its issue -/

section
variable {s : State} {i : Instr} {x : Issue} {t : State} (h : Issues s i x t)
include h

/-- An effect at issue that does not trap and takes effect. -/
theorem issue_tookEffect {k : Issue → State → Except Trap State} (hk : ∃ u, k x t = .ok u ∧ TookEffect x t u) :
    ∃ u, issue i s k = .next u ∧ TookEffect x t u := by
  obtain ⟨u, hu, heff⟩ := hk
  exact ⟨u, issue_eq_next h hu, heff⟩

theorem loadOp_tookEffect {sp : Space} {ty : Ty} (hpass : x.lanes ≠ 0 → (checks t x sp (tySize ty) needLoad (some 1)).2.1 = []) :
    ∃ u, loadOp i sp ty false s = .next u ∧ TookEffect x t u := by
  unfold loadOp
  refine issue_tookEffect h ?_
  by_cases hl : x.lanes = 0
  · simp only [hl, if_true]
    exact ⟨_, rfl, .finish h.unshifted fun _ => hl⟩
  · simp only [hl, hpass hl, if_false, List.isEmpty_nil, Bool.not_true, Bool.false_eq_true]
    refine ⟨_, rfl, .askBanks (.start (h.unshifted.targets ..) ?_) _ _⟩
    exact fun _ => rfl

theorem storeOp_tookEffect {sp : Space} {ty : Ty} {rel : Bool}
    (hpass : x.lanes ≠ 0 → (checks t x sp (tySize ty) needStore (some 2)).2.1 = []) :
    ∃ u, storeOp i sp ty rel s = .next u ∧ TookEffect x t u := by
  unfold storeOp
  refine issue_tookEffect h ?_
  by_cases hl : x.lanes = 0
  · simp only [hl, if_true]
    exact ⟨_, rfl, .finish h.unshifted fun _ => hl⟩
  · simp only [hl, hpass hl, if_false, List.isEmpty_nil, Bool.not_true, Bool.false_eq_true]
    cases rel
    · refine ⟨_, rfl, .askBanks (.start ((h.unshifted.targets ..).dropCopies ..) ?_) _ _⟩
      exact fun _ => rfl
    · refine ⟨_, rfl, .holdOn (.askBanks (.start (h.unshifted.targets ..) ?_) _ _) _ _⟩
      exact fun _ => rfl

theorem atomicOp_tookEffect {sp : Space} {ty : Ty} {op : AtomOp} {scope : Scope} {returns : Bool}
    (hpass : x.lanes ≠ 0 → (checks t x sp (atomSize ty) needAtom (if op = .cas then none else some 2)).2.1 = []) :
    ∃ u, atomicOp i sp ty op scope returns s = .next u ∧ TookEffect x t u := by
  unfold atomicOp
  refine issue_tookEffect h ?_
  by_cases hl : x.lanes = 0
  · simp only [hl, if_true]
    exact ⟨_, rfl, .finish h.unshifted fun _ => hl⟩
  · simp only [hl, hpass hl, if_false, List.isEmpty_nil, Bool.not_true, Bool.false_eq_true]
    cases returns
    · refine ⟨_, rfl, .askBanks (.start ((h.unshifted.targets ..).dropCopies ..) ?_) _ _⟩
      exact fun _ => rfl
    · refine ⟨_, rfl, .askBanks (.start (h.unshifted.targets ..) ?_) _ _⟩
      exact fun _ => rfl

end

section
variable {s : State} {x : Issue} {t : State} {c : Ctl}

theorem TookEffect.later {t : State} (h : Unshifted x t t) (n : Nat) (f : Nat → DWord) : TookEffect x t (t.later x n f) := by
  refine .start h ?_
  exact fun _ => rfl

theorem pmovSet_tookEffect {a : Opnd} (h : Issues s (.pmovSet c a) x t) : ∃ u, exec (.pmovSet c a) s = .next u ∧ TookEffect x t u := by
  show ∃ u, execPmovSet c a s = .next u ∧ TookEffect x t u
  refine issue_tookEffect h ?_
  dsimp only
  split
  · next hnone =>
    refine ⟨_, rfl, .finish h.unshifted fun _ => ?_⟩
    simpa using ((Bool.and_eq_true ..).mp hnone).2
  · split
    · refine ⟨_, rfl, .askBanks (.start h.unshifted ?_) _ _⟩
      exact fun _ => rfl
    · refine ⟨_, rfl, .start h.unshifted ?_⟩
      exact fun _ => rfl

theorem qpush_tookEffect {qn : BitVec 4} {a : Opnd} (h : Issues s (.qpush c qn a) x t) {m : Team} (hm : t.teamOf x.g = some m)
    (hinit : x.lanes ≠ 0 → m.initFor x qn.toNat = true) : ∃ u, exec (.qpush c qn a) s = .next u ∧ TookEffect x t u := by
  show ∃ u, execQpush c qn a s = .next u ∧ TookEffect x t u
  refine issue_tookEffect h ?_
  simp only [hm]
  by_cases hl : x.lanes = 0
  · simp only [hl, if_true]
    exact ⟨_, rfl, .finish h.unshifted fun _ => hl⟩
  · simp only [hl, hinit hl, if_false, Bool.not_true, Bool.false_eq_true]
    refine ⟨_, rfl, .askBanks (.start (h.unshifted.modTeam ..) ?_) _ _⟩
    exact fun _ => rfl

theorem qpop_tookEffect {qn : BitVec 4} {d : Opnd} (h : Issues s (.qpop c qn d) x t) {m : Team} (hm : t.teamOf x.g = some m)
    (hclean : x.lanes ≠ 0 → m.initFor x qn.toNat = true ∧ t.poisoned (.scratch (m.ringKey (m.queue qn.toNat) (m.queue qn.toNat).head)) 4 = false) :
    ∃ u, exec (.qpop c qn d) s = .next u ∧ TookEffect x t u := by
  show ∃ u, execQpop c qn d s = .next u ∧ TookEffect x t u
  refine issue_tookEffect h ?_
  simp only [hm]
  by_cases hl : x.lanes = 0
  · simp only [hl, if_true]
    exact ⟨_, rfl, .finish h.unshifted fun _ => hl⟩
  · obtain ⟨hinit, hpoison⟩ := hclean hl
    simp only [hl, hinit, hpoison, if_false, Bool.not_true, Bool.false_eq_true]
    refine ⟨_, rfl, .askBanks (.start (h.unshifted.modTeam ..) ?_) _ _⟩
    exact fun _ => rfl

theorem reel_tookEffect {qn : BitVec 4} {slice : BitVec 12} {d : Opnd} (h : Issues s (.reel c qn slice d) x t)
    (hgood : t.reelBad x qn.toNat slice.toNat = none) : ∃ u, exec (.reel c qn slice d) s = .next u ∧ TookEffect x t u := by
  obtain ⟨l, hlaunch⟩ : ∃ l, t.launchOf x.g = some l := by
    cases hnone : t.launchOf x.g with
    | some l => exact ⟨l, rfl⟩
    | none =>
      unfold State.reelBad at hgood
      simp [hnone] at hgood
  show ∃ u, execReel c qn slice d s = .next u ∧ TookEffect x t u
  refine issue_tookEffect h ?_
  simp only [hgood, hlaunch]
  by_cases hl : x.lanes = 0
  · simp only [hl, if_true]
    exact ⟨_, rfl, .finish h.unshifted fun _ => hl⟩
  · simp only [hl, if_false]
    have hchosen := h.unshifted.of_eq (u := (t.choice (t.freeContexts x.g.core).length).2) rfl rfl
    split
    · refine ⟨_, rfl, .askBanks (.start (hchosen.startSlice ..) ?_) _ _⟩
      exact fun _ => rfl
    · refine ⟨_, rfl, .start (hchosen.startSlice ..) ?_⟩
      exact fun _ => rfl

/-- An instruction of the three tables. -/
theorem result_tookEffect {i : Instr} (h : Issues s i x t)
    (htable : (integerTable i).isSome = true ∨ (logicTable i).isSome = true ∨ (floatTable i).isSome = true) :
    ∃ u, exec i s = .next u ∧ TookEffect x t u := by
  obtain ⟨lat, f, he⟩ := exec_of_tables s (by simpa only [Bool.or_eq_true, or_assoc] using htable)
  exact ⟨_, he.trans (resultOf_eq h lat f), .result h.unshifted ..⟩

/-- Every instruction of `takesEffect` in its full form. -/
theorem exec_tookEffect {i : Instr} (h : Issues s i x t) (heff : takesEffect x t i) : ∃ u, exec i s = .next u ∧ TookEffect x t u := by
  have hplain (hp : i.producesResult = false) : TookEffect x t (t.finish x) :=
    .finish h.unshifted fun hp' => absurd ((h.instr_eq ▸ hp).symm.trans hp') Bool.false_ne_true
  cases i
  case iaddc | vote | matchI | pset | pmovGet => delta exec; exact ⟨_, issue_eq_next h rfl, .result h.unshifted ..⟩
  case pmovSet => exact pmovSet_tookEffect h
  case srd => exact ⟨_, exec_srd h, .later h.unshifted ..⟩
  case qstat => delta exec; exact ⟨_, issue_eq_next h rfl, .later h.unshifted ..⟩
  case nop => exact ⟨_, exec_nop h, hplain rfl⟩
  case waitf => exact ⟨_, exec_waitf h, hplain rfl⟩
  case yield => exact ⟨_, exec_yield h, hplain rfl⟩
  case shfl => exact ⟨_, exec_shfl_legal h heff, .result h.unshifted ..⟩
  case ld =>
    obtain ⟨rfl, hpass⟩ := heff
    exact loadOp_tookEffect h hpass
  case st => exact storeOp_tookEffect h heff
  case atom | atomr => exact atomicOp_tookEffect h heff
  case qpush =>
    obtain ⟨m, hm, hinit⟩ := heff
    exact qpush_tookEffect h hm hinit
  case qpop =>
    obtain ⟨m, hm, hclean⟩ := heff
    exact qpop_tookEffect h hm hclean
  case reel => exact reel_tookEffect h heff
  all_goals exact result_tookEffect h heff

end

/-- Settles O18: the issue takes effect under a tag (`exec_tookEffect`), and each lane's window shifts as `tabGetD_shiftWindow` says. -/
theorem windowShifts : Obligations.WindowShifts := by
  intro i s x t heff h
  obtain ⟨u, hu, tag, hslots, hop⟩ := exec_tookEffect h heff
  obtain ⟨g, hg, hshift⟩ := Option.map_eq_some_iff.mp hslots
  refine ⟨u, g, tag, (exec_core i s).trans hu, hg, hop, fun l hl => ?_⟩
  have hwin : g.bk.win = if x.i.producesResult then shiftWindow x tag x.g.bk.win else x.g.bk.win := congrArg Prod.fst hshift
  rw [hwin]
  cases x.i.producesResult
  · rfl
  · exact (tabGetD_shiftWindow x tag _ hl).trans (by simp)

/-- Settles O19: the issue takes effect (`exec_tookEffect`), each named slot counts down once (`cellGet_decNear`), and then the destination's
takes its state (`cellGet_setNear`). -/
theorem nearSlotsCount : Obligations.NearSlotsCount := by
  intro i s x t heff h
  obtain ⟨u, hu, tag, hslots, -⟩ := exec_tookEffect h heff
  obtain ⟨g, hg, hshift⟩ := Option.map_eq_some_iff.mp hslots
  refine ⟨u, g, (exec_core i s).trans hu, hg, fun k => ?_⟩
  have hnst : g.bk.nst = (match x.dest with | some d => setNear (decNear x.g.bk.nst x.nearReads) d | none => decNear x.g.bk.nst x.nearReads) :=
    congrArg Prod.snd hshift
  have hread : cellGet (decNear x.g.bk.nst x.nearReads) k = if k ∈ x.nearReads ∧ cellGet x.g.bk.nst k ≠ 8 ∧ cellGet x.g.bk.nst k ≠ 0
      then cellGet x.g.bk.nst k - 1 else cellGet x.g.bk.nst k := by
    rw [cellGet_decNear x.nodup_nearReads, countedDown, ← ite_and]
  rw [hnst, ← hread]
  cases x.dest with
  | none => rfl
  | some d => exact cellGet_setNear ..

end Sys2Proof.Machine
end

section
/-! SUPPORT. The end of a group leaves it in its place, ended: what its team's end does changes no group (R293, R301, R311). -/

namespace Sys2Proof.Machine

/-! ## What the Almanac does at a team's end -/

theorem State.logFault_groups (s : State) (asid : Nat) (r : FRec) : (s.logFault asid r).groups = s.groups := by
  obtain ⟨_, _, h⟩ := s.logFault_eq asid r
  rw [h]

theorem State.touch_groups (s : State) (asid va n : Nat) : (s.touch asid va n).groups = s.groups := by
  obtain ⟨_, _, _, h⟩ := s.touch_eq asid va n
  rw [h]

theorem State.modDesc_groups (s : State) (asid a : Nat) (f : Desc → Desc) : (s.modDesc asid a f).groups = s.groups := by
  obtain ⟨_, _, _, h⟩ := s.modDesc_eq asid a f
  rw [h]

theorem State.makeReady_groups (s : State) (asid task : Nat) : (s.makeReady asid task).groups = s.groups := by
  obtain ⟨_, _, _, _, _, h⟩ := s.makeReady_eq asid task
  rw [h]

theorem State.depDec_groups {s u : State} {asid task : Nat} (h : s.depDec asid task = .done u) : u.groups = s.groups := by
  unfold State.depDec at h
  split at h
  · cases h
  · split at h
    · cases h
    · split at h
      · cases h
      · split at h
        · cases h
        · next v hv =>
          obtain ⟨_, _, _, rfl⟩ := State.vwrites_eq _ hv
          cases h
          split
          · exact State.makeReady_groups ..
          · rfl

theorem State.decSuccessors_groups (asid n : Nat) (s : State) (list : Nat) : (s.decSuccessors asid list n).1.groups = s.groups := by
  induction n generalizing s list with
  | zero => rfl
  | succ n ih =>
    have htouch := s.touch_groups asid list 8
    unfold State.decSuccessors
    dsimp only
    split
    · exact (ih ..).trans htouch
    · next task _ =>
      have htouch' := (State.touch_groups (s.touch asid list 8) asid task 64).trans htouch
      split
      · next v hv =>
        split at hv
        · exact (ih ..).trans ((State.depDec_groups hv).trans htouch')
        · cases hv
      · exact (ih ..).trans htouch'
      · exact (ih ..).trans htouch'

theorem State.taskDone_groups (s : State) (asid task : Nat) : (s.taskDone asid task).1.groups = s.groups := by
  unfold State.taskDone
  split
  · rfl
  · split
    · rfl
    · exact (State.decSuccessors_groups ..).trans (State.modDesc_groups ..)

theorem State.wakeTask_groups (s : State) (asid w : Nat) : (s.wakeTask asid w).groups = s.groups := by
  unfold State.wakeTask
  split
  · exact (State.makeReady_groups ..).trans (State.modDesc_groups ..)
  · rfl

theorem State.releaseHelper_groups (s : State) (asid task : Nat) : (s.releaseHelper asid task).groups = s.groups := by
  unfold State.releaseHelper
  split
  · rfl
  · dsimp only
    split
    · exact State.modDesc_groups ..
    · exact (State.wakeTask_groups ..).trans (s.modDesc_groups ..)

theorem State.homeRead_groups (s : State) (pa n : Nat) : (s.homeRead pa n).2.groups = s.groups := by
  obtain ⟨_, _, h⟩ := s.recall_eq (pa / 128)
  rw [State.homeRead, h]

theorem State.cell_groups (s : State) (pa : Nat) : (s.cell pa).2.groups = s.groups :=
  (State.homeRead_groups _ (pa + 8) 8).trans (s.homeRead_groups pa 8)

theorem State.homeWrite_groups (s : State) (pa n v : Nat) : (s.homeWrite pa n v).2.groups = s.groups := by
  obtain ⟨_, _, _, h⟩ := s.homeWrite_eq pa n v
  rw [h]

theorem State.cellWritten_groups (s : State) (pa : Nat) (c : CellWords) : (s.cellWritten pa c).groups = s.groups := by
  obtain ⟨_, h⟩ := s.mark_eq (pa / 128) (if c.spill then [pa] else [])
  rw [State.cellWritten, h]

theorem State.fillCell_groups (s : State) (asid va pa : Nat) (c : CellWords) (status : Nat) (value : DWord) :
    (s.fillCell asid va pa c status value).2.groups = s.groups := by
  unfold State.fillCell
  dsimp only
  split <;> rw [State.cellWritten_groups, State.homeWrite_groups, State.homeWrite_groups]

theorem State.fillFuture_groups (s : State) (asid future status value task : Nat) :
    (s.fillFuture asid future status value task).groups = s.groups := by
  have hcell (pa : Nat) : ((s.recallWalk asid future).cell pa).2.groups = s.groups := by
    obtain ⟨_, _, _, h⟩ := s.recallWalk_eq asid future
    rw [State.cell_groups, h]
  unfold State.fillFuture
  dsimp only
  split
  · rfl
  · split
    · exact State.logFault_groups ..
    · split
      · rw [State.logFault_groups]
        obtain ⟨_, _, _, h⟩ := s.recallWalk_eq asid future
        rw [h]
      · split
        · exact (State.logFault_groups ..).trans (hcell _)
        · split
          · exact (State.logFault_groups ..).trans (hcell _)
          · exact (State.fillCell_groups ..).trans (hcell _)

theorem State.countEnd_groups (s : State) (m : Team) : (s.countEnd m).groups = s.groups := by
  unfold State.countEnd
  split
  · rfl
  · dsimp only
    split
    · exact State.fillFuture_groups ..
    · rfl

/-- The end of a team changes no group. -/
theorem State.endTeam_groups (s : State) (m : Team) : (s.endTeam m).groups = s.groups := by
  unfold State.endTeam
  dsimp only
  refine (State.modDesc_groups ..).trans ((State.countEnd_groups ..).trans ((State.releaseHelper_groups ..).trans ?_))
  exact (foldl_keeps State.groups (fun _ _ => State.logFault_groups ..) _ _).trans (s.taskDone_groups ..)

/-! ## A group that leaves its slot, and one that ends -/

theorem Bank.flagDone_near (b : Bank) (f : Nat) : (b.flagDone f).win = b.win ∧ (b.flagDone f).nst = b.nst := by
  unfold Bank.flagDone
  split <;> exact ⟨rfl, rfl⟩

theorem foldl_flagDone_near (os : List Op) (b : Bank) :
    (os.foldl (fun (b : Bank) (o : Op) => b.flagDone o.set) b).win = b.win ∧ (os.foldl (fun (b : Bank) (o : Op) => b.flagDone o.set) b).nst = b.nst := by
  induction os generalizing b with
  | nil => exact ⟨rfl, rfl⟩
  | cons o os ih =>
    obtain ⟨hwin, hnst⟩ := ih (b.flagDone o.set)
    obtain ⟨hwin', hnst'⟩ := b.flagDone_near o.set
    exact ⟨hwin.trans hwin', hnst.trans hnst'⟩

/-- A group that leaves its slot stands at its new place, with its window and near file empty (R123). -/
theorem State.leaveSlot_group? (s : State) (g : Group) (place : Place) :
    ∃ b, (s.leaveSlot g place).group? g.uid = some { g with place := place, epoch := g.epoch + 1, bank := b } ∧ b.win = [] ∧ b.nst = [] := by
  unfold State.leaveSlot
  dsimp only [State.choice]
  obtain ⟨hwin, hnst⟩ := foldl_flagDone_near (matrixSplit (s.matrixOpen g.uid) (Config.choose s.fresh % 2 = 1)).2
    { g.bank with win := [], nst := [], nval := [], prevIssue := none }
  split <;> exact ⟨_, (State.setGroup_group? ..).trans (if_pos rfl), hwin, hnst⟩

/-- What a group keeps no longer once it ends. -/
def Group.cleared (g : Group) (byEndg : Bool) : Group :=
  { g with
    alive := 0, byEndg := byEndg, hand := none, deliveries := [], frq := [], hold := .free, barrier := none, late := []
    request := none, unwinding := none, leaving := false, debug := .run
    bank := { g.bank with splits := [], recs := [], preds := [] } }

theorem State.endGroup_groups (s : State) (g : Group) (byEndg : Bool) :
    (s.endGroup g byEndg).groups = (s.leaveSlot (g.cleared byEndg) .ended).groups := by
  unfold State.endGroup
  dsimp only
  split
  · rfl
  · split
    · rfl
    · split
      · exact State.endTeam_groups ..
      · rfl

/-- A group that ends stands there ended, with no lane left (R151). -/
theorem State.endGroup_group? (s : State) (g : Group) (byEndg : Bool) :
    ∃ g', (s.endGroup g byEndg).group? g.uid = some g' ∧ g'.place = .ended ∧ g'.alive = 0 ∧ g'.hand = none ∧ g'.deliveries = [] := by
  obtain ⟨b, hb, -, -⟩ := s.leaveSlot_group? (g.cleared byEndg) .ended
  exact ⟨_, by rw [State.group?, State.endGroup_groups]; exact hb, rfl, rfl, rfl, rfl⟩

end Sys2Proof.Machine
end

section
/-! STRAND's checks and what it records; PARK and EXIT (R121 to R124, R133, R134, R151). -/

namespace Sys2Proof.Machine

open Sys2Proof.Claims

/-! ## STRAND -/

section
variable {s : State} {x : Issue} {t : State} {c : Ctl} {index : BitVec 16}

theorem exec_strand_traps {e : Trap} (h : Issues s (.strand c index) x t) (he : t.strandEntry x index.toNat = .error e) :
    exec (.strand c index) s = .next (s.trapOf (.strand c index) x e) := by
  show execStrand c index s = _
  exact (issue_eq h _).trans (by simp only [he])

/-- With a request pending the group is to leave, and the STRAND has not issued (R124). -/
theorem exec_strand_leaves {e : Live} (h : Issues s (.strand c index) x t) (he : t.strandEntry x index.toNat = .ok e)
    (hrequest : x.g.request.isSome = true) :
    exec (.strand c index) s = .next (s.modGroup x.g.uid fun g => { g with leaving := true }) := by
  show execStrand c index s = _
  exact (issue_eq h _).trans (by simp only [he, hrequest, if_true])

theorem exec_strand_records {e : Live} (h : Issues s (.strand c index) x t) (he : t.strandEntry x index.toNat = .ok e)
    (hrequest : x.g.request = none) : exec (.strand c index) s =
      .next (((t.touchEntry x index.toNat).finish x).modGroup x.g.uid fun g => g.recordStrand e index.toNat x.pc) := by
  show execStrand c index s = _
  exact (issue_eq h _).trans (by simp only [he, hrequest, Option.isSome_none, Bool.false_eq_true, if_false])

end

section
variable {t : State} {x : Issue} {l : Launch} {m : Team} {k : Nat} (hl : t.launchOf x.g = some l) (hm : t.teamOf x.g = some m)
include hl hm

theorem State.strandEntry_beyond (hk : l.image.liveCnt ≤ k) : t.strandEntry x k = .error (x.trap tcModifier) := by
  simp only [State.strandEntry, hl, hm, hk, if_true]

variable {bs : List Byte} (hk : k < l.image.liveCnt) (hread : t.vreads m.asid (l.entryAddr k) 10 = .ok bs)
include hk hread

theorem State.strandEntry_broken (hbad : liveOf (BitVec.ofNat 640 (leValue bs)) m.bridle = none) :
    t.strandEntry x k = .error (x.trap tcModifier) := by
  simp only [State.strandEntry, hl, hm, Nat.not_le.mpr hk, hread, hbad, if_false]

theorem State.strandEntry_dmask {e : Live} (hlive : liveOf (BitVec.ofNat 640 (leValue bs)) m.bridle = some e) {r : Nat}
    (hr : x.g.dslots ≤ r) (hbit : e.dmask.getLsbD r = true) : t.strandEntry x k = .error (x.trap tcOperand) := by
  have hmask : (e.dmask >>> x.g.dslots != 0) = true := by
    rw [bne_iff_ne]
    intro hzero
    have hshift : (e.dmask >>> x.g.dslots).getLsbD (r - x.g.dslots) = e.dmask.getLsbD r := by
      rw [BitVec.getLsbD_ushiftRight, Nat.add_sub_cancel' hr]
    rw [hzero, hbit] at hshift
    exact absurd hshift (by simp)
  simp only [State.strandEntry, hl, hm, Nat.not_le.mpr hk, hread, hlive, hmask, if_false, if_true]

end

/-- Settles O36: each check of `State.strandEntry` that fails is the trap of the STRAND (`exec_strand_traps`). -/
theorem strandChecks : Obligations.StrandChecks := by
  intro i s x t c index l m hi h hl hm
  have htraps {e : Trap} (he : t.strandEntry x index.toNat = .error e) : exec i s = .next (s.trapOf i.core x e) := by
    rw [exec_core, hi]
    rw [hi] at h
    exact exec_strand_traps h he
  refine ⟨fun hk => htraps (State.strandEntry_beyond hl hm hk), fun hk bs hread => ⟨fun hbad => ?broken, fun e hlive => ?dmask⟩⟩
  case broken => exact htraps (State.strandEntry_broken hl hm hk hread hbad)
  case dmask =>
    rintro ⟨r, hr, hbit⟩
    exact htraps (State.strandEntry_dmask hl hm hk hread hlive hr hbit)

/-! ## The issuing group once an instruction has completed at issue -/

/-- The issuing group after `State.finish`, from a state whose groups are those on which the instruction acts: its bank in use, and its place,
hold and strand, may differ, and its split stands at the next instruction. -/
theorem Issues.finish_bank {s : State} {i : Instr} {x : Issue} {t : State} (h : Issues s i x t) {v : State} (hv : v.groups = t.groups) :
    ∃ b p hd st, (v.finish x).group? x.g.uid = some ({ x.g with place := p, hold := hd, strand := st }.setBk b) ∧
      b.split? x.sp.id = some x.movedSplit := by
  obtain ⟨p, hd, st, hg⟩ := h.taken_group
  have hgroup := State.commit_group? (s := v) (x := x) (by rw [State.group?, hv]; exact hg) 0
  have hsp : (x.commitBank 0 x.g.bk).split? x.sp.id = some x.sp := h.split?
  rw [show Group.bk { x.g with place := p, hold := hd, strand := st } = x.g.bk from rfl, Group.setBk_goTo hsp] at hgroup
  exact ⟨_, p, hd, st, hgroup, Bank.split?_of_moved h.split? rfl⟩

/-! ## PARK (R123, R134) -/

section
variable {s : State} {x : Issue} {t : State} {c : Ctl}

theorem exec_park (h : Issues s (.park c) x t) :
    exec (.park c) s = .next ((t.finish x).leaveAtTerminator x.g.uid (.ready (t.clkOf x.g.core))) := by
  show execPark c s = _
  exact issue_eq_next h rfl

theorem State.leaveAtTerminator_group? {s : State} {g : Group} {uid : Nat} (hg : s.group? uid = some g) (huid : g.uid = uid) (place : Place) :
    ∃ g', (s.leaveAtTerminator uid place).group? uid = some g' ∧ g'.place = place ∧ g'.bank.win = [] ∧ g'.bank.nst = [] := by
  obtain ⟨b, hb, hwin, hnst⟩ := s.leaveSlot_group? g place
  refine ⟨{ g with place := place, epoch := g.epoch + 1, bank := b }, ?_, rfl, hwin, hnst⟩
  rw [State.leaveAtTerminator, hg]
  exact huid ▸ hb

theorem park_leaves (h : Issues s (.park c) x t) : ∃ u g, exec (.park c) s = .next u ∧ u.group? x.g.uid = some g ∧
    g.place = .ready (s.clkOf x.g.core) ∧ g.bank.win = [] ∧ g.bank.nst = [] := by
  obtain ⟨b, p, hd, st, hg, -⟩ := h.finish_bank rfl
  obtain ⟨g, hleft, hplace, hwin, hnst⟩ := State.leaveAtTerminator_group? hg (Group.setBk_uid ..) (.ready (t.clkOf x.g.core))
  obtain ⟨_, _, _, ht⟩ := h.taken_eq
  exact ⟨_, g, exec_park h, hleft, hplace.trans (by rw [ht]; rfl), hwin, hnst⟩

/-! ## EXIT (R151) -/

theorem Group.returnScalars_alive (g : Group) (sfile : Cells 32) (written : BitVec 64) : (g.returnScalars sfile written).alive = g.alive := by
  unfold Group.returnScalars
  split <;> rfl

theorem Group.mergeOne_alive {g g' : Group} {clk : Nat} (h : g.mergeOne clk = some g') : g'.alive = g.alive := by
  unfold Group.mergeOne at h
  dsimp only at h
  split at h
  · cases h
  · split at h
    · cases h
      exact Group.setBk_alive ..
    · cases h
      split
      · exact (Group.returnScalars_alive ..).trans (Group.setBk_alive ..)
      · exact Group.setBk_alive ..

theorem Group.mergeSome_alive (g : Group) (clk n : Nat) : (g.mergeSome clk n).alive = g.alive := by
  induction n generalizing g with
  | zero => rfl
  | succ n ih =>
    unfold Group.mergeSome
    split
    · rfl
    · next g' hg' => exact (ih g').trans (Group.mergeOne_alive hg')

/-- The lanes that stay alive are the others (R151). -/
theorem Group.endLanes_alive (g : Group) (lanes : Lanes) (clk : Nat) : (g.endLanes lanes clk).alive = g.alive &&& ~~~lanes :=
  Group.mergeSome_alive ..

/-- The device once the active lanes of an EXIT have ended. -/
def State.lanesEnded (t : State) (x : Issue) : State :=
  ((t.finish x).modTeam x.g.team fun m => retireAll m x.g.idx).modGroup x.g.uid fun g => g.endLanes x.lanes (t.clkOf g.core)

theorem exec_exit (h : Issues s (.exit c) x t) {g : Group} (hg : (t.lanesEnded x).group? x.g.uid = some g) :
    exec (.exit c) s = .next (if g.alive = 0 then (t.lanesEnded x).endGroup g false else t.lanesEnded x) := by
  show execExit c s = _
  refine issue_eq_next h ?_
  unfold State.lanesEnded at hg
  simp only [hg]
  rfl

theorem exit_endsLanes (h : Issues s (.exit c) x t) : ∃ u g, exec (.exit c) s = .next u ∧ u.group? x.g.uid = some g ∧
    g.alive = x.g.alive &&& ~~~x.lanes ∧ (g.alive = 0 → g.place = .ended) := by
  obtain ⟨b, p, hd, st, hg, -⟩ := h.finish_bank rfl
  obtain ⟨g, hended, hgend⟩ : ∃ g, (t.lanesEnded x).group? x.g.uid = some g ∧
      g = ({ x.g with place := p, hold := hd, strand := st }.setBk b).endLanes x.lanes
        (t.clkOf ({ x.g with place := p, hold := hd, strand := st }.setBk b).core) := by
    refine ⟨_, ?_, rfl⟩
    rw [State.lanesEnded, State.modGroup_group?, if_pos rfl, State.modTeam_group?, hg, Option.map_some]
  have huid : g.uid = x.g.uid := by rw [hgend, Group.endLanes_uid, Group.setBk_uid]
  have halive : g.alive = x.g.alive &&& ~~~x.lanes := by rw [hgend, Group.endLanes_alive, Group.setBk_alive]
  rw [exec_exit h hended]
  by_cases hlast : g.alive = 0
  · obtain ⟨g', hg', hplace, hnone, -, -⟩ := (t.lanesEnded x).endGroup_group? g false
    rw [huid] at hg'
    exact ⟨_, g', rfl, by rw [if_pos hlast]; exact hg', hnone.trans (hlast.symm.trans halive), fun _ => hplace⟩
  · exact ⟨_, g, rfl, by rw [if_neg hlast]; exact hended, halive, fun h => absurd h hlast⟩

/-! ## The statement -/

theorem strand_records {index : BitVec 16} {e : Live} (h : Issues s (.strand c index) x t) (he : t.strandEntry x index.toNat = .ok e)
    (hrequest : x.g.request = none) : ∃ u g, exec (.strand c index) s = .next u ∧ u.group? x.g.uid = some g ∧ g.strand.entry = e ∧
      g.strand.pc = x.pc ∧ g.strand.count = 0 ∧ g.strand.index = index.toNat ∧ g.strand.lanes = x.g.alive ∧
      (g.bk.split? x.sp.id).map (·.pc) = some x.nextPc := by
  have htouch : (t.touchEntry x index.toNat).groups = t.groups := by
    unfold State.touchEntry
    split
    · exact State.touch_groups ..
    · rfl
  obtain ⟨b, p, hd, st, hg, hsplit⟩ := h.finish_bank htouch
  refine ⟨_, _, exec_strand_records h he hrequest, (State.modGroup_group? ..).trans (by rw [if_pos rfl, hg]; rfl), rfl, rfl, rfl, rfl, ?_, ?_⟩
  · exact Group.setBk_alive ..
  · have hbank (g : Group) : (g.recordStrand e index.toNat x.pc).bk = g.bk := rfl
    rw [hbank, Group.setBk_bk, hsplit]
    rfl

end

/-- Settles O35: STRAND answers by `strand_records` and `exec_strand_leaves`, PARK by `park_leaves` and EXIT by `exit_endsLanes`. -/
theorem strandParkExit : Obligations.StrandParkExit := by
  intro i s x t h
  rw [exec_core i s]
  generalize i.core = j at h ⊢
  cases j
  case strand =>
    intro e he
    exact ⟨strand_records h he, fun hrequest => ⟨_, exec_strand_leaves h he hrequest, rfl⟩⟩
  case park => exact park_leaves h
  case exit => exact exit_endsLanes h
  all_goals trivial

end Sys2Proof.Machine
end

section
/-! A result lands in a scalar or a team register (R115, R117, R138, R154). -/

namespace Sys2Proof.Machine

open Sys2Proof.Claims

/-! ## The operation's lowest lane -/

theorem Op.lowValue_of_list {o : Op} {low : Nat} {rest : List Nat} (h : o.lanes.list 64 = low :: rest) : o.lowValue = cellGet o.vals low := by
  rw [Op.lowValue, h]
  rfl

theorem Op.lanes_ne_zero {o : Op} {low : Nat} {rest : List Nat} (h : o.lanes.list 64 = low :: rest) : o.lanes ≠ 0 := by
  intro hzero
  rw [hzero, show Lanes.list 0 64 = [] from by decide] at h
  cases h

/-! ## What landing in a group's banks leaves of user code -/

theorem Bank.setPred_splits (b : Bank) (n l : Nat) (v : Bool) : (b.setPred n l v).splits = b.splits := by
  unfold Bank.setPred
  split <;> rfl

theorem landPred_splits (b : Bank) (o : Op) (place n bits : Nat) (f : Nat → Bool) : (landPred b o place n bits f).splits = b.splits := by
  unfold landPred
  induction o.lanes.list 64 generalizing b with
  | nil => rfl
  | cons l ls ih =>
    rw [List.foldl_cons, ih]
    split
    · exact Bank.setPred_splits ..
    · rfl

theorem Group.landBanks_hand_isSome (g : Group) (o : Op) (d : Dest) (bits : Nat) : (g.landBanks o d bits).hand.isSome = g.hand.isSome := by
  refine g.landBanks_keeps (fun g => g.hand.isSome) (fun g hand f => ?_) o d bits
  cases hand
  · rfl
  · exact Option.isSome_map ..

theorem Group.landBanks_splits (g : Group) {o : Op} (ho : o.hand = false) (d : Dest) (bits : Nat) :
    (g.landBanks o d bits).bank.splits = g.bank.splits := by
  have hmod (c : Bool) (g : Group) {f : Bank → Bank} (hf : ∀ b, (f b).splits = b.splits) :
      (if c then g.modBank o.hand f else g).bank.splits = g.bank.splits := by
    split
    · rw [ho]
      exact hf _
    · rfl
  unfold Group.landBanks
  refine (hmod _ _ fun b => landPred_splits ..).trans (hmod _ _ fun b => ?_)
  dsimp only
  split <;> rfl

/-! ## A scalar register (R115, R138, R154) -/

theorem scalarWrite_of_not_raced {o : Op} (h : o.raced = []) {d : Dest} (hwide : d.wide = false) (bits : Nat) (sp : Split) :
    scalarWrite o d bits sp = sp.sSet (opReg d.op) (o.lowValue.extractLsb' 0 32) := by
  simp only [scalarWrite, Op.keeps_of_not_raced h, hwide, if_true, Bool.false_and, Bool.false_eq_true, if_false]

/-- In user code of one split that split's copy is the one that is written, where the operation's lowest lane is its own. -/
theorem Op.scalarCopy_of_split {o : Op} {g : Group} {sp : Split} {low : Nat} {rest : List Nat} (hh : g.hand = none)
    (hsplits : g.bank.splits = [sp]) (hlow : o.lanes.list 64 = low :: rest) (hhas : sp.lanes.has low = true) :
    o.scalarCopy g = some (false, sp.id) := by
  have hown : g.bank.splitOfLane? low = some sp := by simp only [Bank.splitOfLane?, hsplits, List.find?_cons, hhas]
  simp only [Op.scalarCopy, hh, hlow, List.cons_append, List.findSome?_cons, hown, Option.map_some]

theorem landScalar_splits {o : Op} {g : Group} {sp : Split} (hcopy : o.scalarCopy g = some (false, sp.id)) (hsplits : g.bank.splits = [sp])
    {f : Split → Split} (hid : (f sp).id = sp.id) : (landScalar g o f).bank.splits = [f sp] := by
  have hfind : g.bank.split? sp.id = some sp := by simp [Bank.split?, hsplits]
  simp [landScalar, hcopy, Group.modBank, hfind, Bank.setSplit, hsplits, hid]

theorem landScalar_keeps {β : Type} (p : Group → β) (hp : ∀ (g : Group) (hand : Bool) (f : Bank → Bank), p (g.modBank hand f) = p g)
    (g : Group) (o : Op) (f : Split → Split) : p (landScalar g o f) = p g := by
  unfold landScalar
  split
  · rfl
  · exact hp ..

/-- A group once a result has landed in one of its S registers. -/
def Group.landS (g : Group) (o : Op) (d : Dest) (bits : Nat) : Group := landScalar (g.landBanks o d bits) o (scalarWrite o d bits)

theorem Group.landS_keeps {β : Type} (p : Group → β) (hp : ∀ (g : Group) (hand : Bool) (f : Bank → Bank), p (g.modBank hand f) = p g)
    (g : Group) (o : Op) (d : Dest) (bits : Nat) : p (g.landS o d bits) = p g :=
  (landScalar_keeps p hp ..).trans (g.landBanks_keeps p hp ..)

theorem State.landResult_of_s {s : State} {o : Op} {d : Dest} {g : Group} (hd : o.dest = some d) (hlvl : d.op.lvl = .s)
    (hg : s.group? o.grp = some g) (hlanes : o.lanes ≠ 0) :
    ∃ os fr bits, s.landResult o = ({ s with ops := os, fresh := fr } : State).setGroup (g.landS o d bits) := by
  refine ⟨markRaced g s.ops o, s.fresh + 1, Config.choose s.fresh, ?_⟩
  unfold State.landResult Group.landS Group.landBanks
  simp only [hd, hg, hlvl, bne_iff_ne.mpr hlanes, reduceCtorEq, decide_false, Bool.false_and, Bool.false_eq_true, if_false, if_true]

theorem Group.landS_splits {g : Group} {o : Op} {d : Dest} {sp : Split} {low : Nat} {rest : List Nat} (ho : o.hand = false) (hh : g.hand = none)
    (hsplits : g.bank.splits = [sp]) (hlow : o.lanes.list 64 = low :: rest) (hhas : sp.lanes.has low = true) (hraced : o.raced = [])
    (hwide : d.wide = false) (bits : Nat) :
    (g.landS o d bits).bank.splits = [sp.sSet (opReg d.op) ((cellGet o.vals low).extractLsb' 0 32)] := by
  have hsplits' : (g.landBanks o d bits).bank.splits = [sp] := (g.landBanks_splits ho d bits).trans hsplits
  have hh' : (g.landBanks o d bits).hand = none := by
    rw [← Option.isNone_iff_eq_none, ← Option.not_isSome, Group.landBanks_hand_isSome, hh]
    rfl
  have hwrite := scalarWrite_of_not_raced hraced hwide bits sp
  rw [Group.landS, landScalar_splits (Op.scalarCopy_of_split hh' hsplits' hlow hhas) hsplits' (by rw [hwrite]; rfl), hwrite,
    Op.lowValue_of_list hlow]

theorem Group.setDown_splits (g : Group) (f : Nat) : (g.setDown false f).bank.splits = g.bank.splits := by
  unfold Group.setDown
  split <;> rfl

/-- What the completion of an operation of user code leaves of its group. -/
theorem State.finishOp_user {s : State} {o : Op} {g : Group} (ho : o.hand = false) (hg : s.group? o.grp = some g) :
    ∃ g', (s.finishOp o).group? o.grp = some g' ∧ g'.bank.splits = g.bank.splits ∧ g'.dfile = g.dfile := by
  refine ⟨(g.setDown false o.set).orNflags false o.flags, ?_, g.setDown_splits o.set, Group.setDown_dfile ..⟩
  refine (State.modGroup_group? ..).trans ?_
  rw [if_pos rfl, State.dropOp_group?, hg, Option.map_some, Op.stale, ho]
  rfl

/-! ## A team register (R117, R154) -/

/-- A write that is the last in landing order. -/
theorem insertTWrite_last {w : TWrite} {ws : List TWrite} (h : ∀ v ∈ ws, v.time < w.time ∨ v.time = w.time ∧ v.key ≤ w.key) :
    insertTWrite w ws = ws ++ [w] := by
  induction ws with
  | nil => rfl
  | cons v vs ih =>
    obtain ⟨hv, hvs⟩ := List.forall_mem_cons.mp h
    have hafter : (decide (w.time < v.time) || decide (w.time = v.time) && decide (w.key < v.key)) = false := by
      simp only [Bool.or_eq_false_iff, Bool.and_eq_false_iff, decide_eq_false_iff_not]
      omega
    rw [insertTWrite, if_neg (by rw [hafter]; exact Bool.false_ne_true), ih hvs]
    rfl

/-- A group reads its own last write from its landing clk on (R117). -/
theorem Team.tGet_own {tm : Team} {clk : Nat → Nat} {w : TWrite} {ws : List TWrite} (hws : tm.twrites = ws ++ [w])
    (hclk : w.clk = clk w.core) (core : Nat) : tm.tGet clk w.grp core w.reg = w.val := by
  unfold Team.tGet
  dsimp only
  rw [hws, List.filter_append, List.filter_append]
  simp [hclk]

/-- The team-register write of an operation of a group, as its team lists it. -/
def State.teamWrite (s : State) (o : Op) (reg : Nat) (g : Group) (t : Team) : TWrite :=
  { time := s.time, clk := s.clkOf g.core, key := g.landKey (t.half g.core), reg := reg, val := w32 o.lowValue, grp := g.uid, core := g.core }

theorem State.teamWrite_landBanks (s : State) (o : Op) (reg : Nat) (g : Group) (d : Dest) (bits : Nat) (t : Team) :
    s.teamWrite o reg (g.landBanks o d bits) t = s.teamWrite o reg g t :=
  g.landBanks_keeps (fun g => s.teamWrite o reg g t) (fun g hand f => by cases hand <;> rfl) o d bits

theorem Group.modBank_team (g : Group) (hand : Bool) (f : Bank → Bank) : (g.modBank hand f).team = g.team := by
  cases hand <;> rfl

/-- Landing in a T register below 16, which no group holds, lists the write with the team. -/
theorem State.landResult_of_t {s : State} {o : Op} {d : Dest} {g : Group} (hd : o.dest = some d) (hlvl : d.op.lvl = .t)
    (hreg : d.op.idx.toNat < 16) (hraced : o.raced = []) (hg : s.group? o.grp = some g) (hlanes : o.lanes ≠ 0) :
    ∃ os fr bits, s.landResult o =
      (({ s with ops := os, fresh := fr } : State).setGroup (g.landBanks o d bits)).modTeam g.team fun t =>
        { t with twrites := insertTWrite (s.teamWrite o d.op.idx.toNat g t) t.twrites } := by
  refine ⟨markRaced g s.ops o, s.fresh + 1, Config.choose s.fresh, ?_⟩
  have hmode : d.op.idx ≠ 33 := fun h => by rw [h] at hreg; exact absurd hreg (by decide)
  simp only [← s.teamWrite_landBanks o d.op.idx.toNat g d (Config.choose s.fresh)]
  rw [← g.landBanks_keeps Group.team Group.modBank_team o d (Config.choose s.fresh)]
  unfold State.landResult Group.landBanks
  simp only [hd, hg, hlvl, hmode, hreg, Op.keeps_of_not_raced hraced, bne_iff_ne.mpr hlanes, decide_true, decide_false, Bool.false_and,
    Bool.and_self, Bool.false_eq_true, if_false, if_true]
  rfl

/-- Settles O21: in user code of one split the copy of the lowest lane is that split's (`Group.landS_splits`); a team's newest write is its
writer's own to read (`Team.tGet_own`). -/
theorem uniformResultLands : Obligations.UniformResultLands := by
  intro s o d g sp low rest ho hdue hj hd hwide hraced hcarry huser hg huid hh hsplits hlow hhas
  have hexec := exec_fixedResultLands_plain ho hdue hj
  refine ⟨fun hlvl => ?scalar, fun hlvl hreg tm htm horder => ?team⟩
  case scalar =>
    obtain ⟨os, fr, bits, hland⟩ := State.landResult_of_s hd hlvl hg (Op.lanes_ne_zero hlow)
    have huid' : (g.landS o d bits).uid = o.grp := (g.landS_keeps Group.uid Group.modBank_uid o d bits).trans huid
    have hlanded : (({ s with ops := os, fresh := fr } : State).setGroup (g.landS o d bits)).group? o.grp = some (g.landS o d bits) :=
      (State.setGroup_group? ..).trans (if_pos huid'.symm)
    obtain ⟨g', hg', hsplits', hdfile⟩ := State.finishOp_user huser hlanded
    rw [Group.landS_splits huser hh hsplits hlow hhas hraced hwide] at hsplits'
    rw [g.landS_keeps Group.dfile Group.modBank_dfile] at hdfile
    have hopReg : opReg d.op = d.op.idx.toNat := by rw [opReg, if_neg (by simp [hlvl])]
    rw [hopReg] at hsplits'
    have hu : s.landAndFinish o = (({ s with ops := os, fresh := fr } : State).setGroup (g.landS o d bits)).finishOp o := by
      rw [State.landAndFinish, State.landPreds_of_plain hcarry hj, hland]
    refine ⟨_, g', _, hexec, hu ▸ hg', hsplits', fun r => cellGet_cellSet .., rfl, hdfile, ?_⟩
    rw [hu]
    exact .refl s
  case team =>
    obtain ⟨os, fr, bits, hland⟩ := State.landResult_of_t hd hlvl hreg hraced hg (Op.lanes_ne_zero hlow)
    have hu : s.landAndFinish o = (s.landResult o).finishOp o := by rw [State.landAndFinish, State.landPreds_of_plain hcarry hj]
    have hteam : (s.landAndFinish o).team? g.team =
        some { tm with twrites := insertTWrite (s.teamWrite o d.op.idx.toNat g tm) tm.twrites } := by
      rw [hu, hland, State.finishOp, State.modGroup_team?, State.dropOp_team?, State.modTeam_team?, if_pos rfl,
        State.setGroup_team?]
      exact congrArg (Option.map _) htm
    refine ⟨_, _, hexec, hteam, ?_, ?_⟩
    · rw [← Op.lowValue_of_list hlow]
      exact Team.tGet_own (w := s.teamWrite o d.op.idx.toNat g tm) (insertTWrite_last horder) rfl g.core
    · rw [hu, hland]
      exact .refl s

end Sys2Proof.Machine
end

section
/-! SUPPORT. What a branch does with its split (R93, R145, R146, R402): the lanes that take it, the checks of its targets, and where the split
then stands. -/

namespace Sys2Proof.Machine

open Sys2Proof.Claims

/-! ## The lanes of a split whose guard holds (R42) -/

section
variable {s : State} {i : Instr} {x : Issue} {t : State} (h : Issues s i x t)
include h

theorem Issues.lanes_eq : ∃ p, x.lanes = x.sp.lanes &&& p := by
  have hb := h.begins
  unfold State.begin at hb
  dsimp only at hb
  split at hb
  · split at hb
    · cases hb
    · split at hb
      · cases hb
      · split at hb
        · cases hb
        · split at hb
          · cases hb
          · obtain ⟨rfl, -⟩ := Prod.mk.inj (Option.some.inj hb)
            exact ⟨_, rfl⟩
  · cases hb

/-- The lanes in which the guard does not hold are none just where it holds in all. -/
theorem Issues.rest_eq_zero : x.sp.lanes &&& ~~~x.lanes = 0 ↔ x.lanes = x.sp.lanes := by
  obtain ⟨p, hp⟩ := h.lanes_eq
  rw [hp]
  constructor
  · intro hz
    ext k hk
    have hbit : (x.sp.lanes &&& ~~~(x.sp.lanes &&& p))[k] = (0 : Lanes)[k] := by rw [hz]
    simp only [BitVec.getElem_and, BitVec.getElem_not] at hbit ⊢
    revert hbit
    cases x.sp.lanes[k] <;> simp
  · intro he
    rw [he, BitVec.and_not_self]

end

theorem Issue.list_ne_nil {x : Issue} (h : x.lanes ≠ 0) : x.list ≠ [] := by
  intro hnil
  refine h ?_
  ext k hk
  by_contra hbit
  have hmem : k ∈ x.list := Lanes.mem_list.mpr ⟨hk, by simpa [Lanes.has, BitVec.getLsbD_eq_getElem hk] using hbit⟩
  rw [hnil] at hmem
  cases hmem

theorem Issue.uniformGuard_all {x : Issue} (h : x.lanes = x.sp.lanes) : x.uniformGuard = some true := if_pos h

theorem Issue.uniformGuard_none {x : Issue} (h : x.lanes ≠ x.sp.lanes) (hz : x.lanes = 0) : x.uniformGuard = some false := by
  rw [Issue.uniformGuard, if_neg h, if_pos hz]

theorem Issue.uniformGuard_some {x : Issue} (h : x.lanes ≠ x.sp.lanes) (hz : x.lanes ≠ 0) : x.uniformGuard = none := by
  rw [Issue.uniformGuard, if_neg h, if_neg hz]

/-! ## The checks of targets (R402) -/

/-- Where a direct branch of an instruction at `pc` leads (R43). -/
def branchTarget {n : Nat} (pc : DWord) (off : BitVec n) : DWord := pc + off.signExtend 64 <<< 2

/-- An aligned address of 56 bits. -/
def goodTarget (a : DWord) : Prop := a.extractLsb' 56 8 = 0 ∧ a.extractLsb' 0 2 = 0

theorem targetTrap_of_good {ls : List Nat} {target : Nat → DWord} (h : ∀ l ∈ ls, goodTarget (target l)) : targetTrap ls target = none := by
  have hhigh : ls.filter (fun l => (target l).extractLsb' 56 8 != 0) = [] := by
    simpa [List.filter_eq_nil_iff] using fun l hl => (h l hl).1
  have hlow : ls.filter (fun l => (target l).extractLsb' 0 2 != 0) = [] := by
    simpa [List.filter_eq_nil_iff] using fun l hl => (h l hl).2
  simp only [targetTrap, hhigh, hlow]

/-- A direct branch to one passes them. -/
theorem targetTrap_of_branchTarget {n : Nat} {pc : DWord} {off : BitVec n} (h : goodTarget (branchTarget pc off)) (ls : List Nat) :
    targetTrap ls (fun _ => pc + off.signExtend 64 <<< 2) = none := targetTrap_of_good fun _ _ => h

theorem State.pushBad_of_room {s : State} {x : Issue} (h : ∀ l ∈ x.list, 8 * (x.g.callDepth l + 1) ≤ s.sliceSize x.g) : s.pushBad x = [] := by
  simpa [State.pushBad, List.filter_eq_nil_iff] using h

/-! ## The group of an instruction that completes at issue, before it branches -/

/-- The issuing group with its split at the next instruction: it is the same group on the same core, at the same calls. -/
structure Issue.MovedOn (x : Issue) (g : Group) : Prop extends x.Moved g where
  split : g.bk.split? x.sp.id = some x.movedSplit
  uid : g.uid = x.g.uid
  core : g.core = x.g.core
  depth : g.depth = x.g.depth

theorem Issues.finish_movedOn {s : State} {i : Instr} {x : Issue} {t : State} (h : Issues s i x t) :
    ∃ g, (t.finish x).group? x.g.uid = some g ∧ x.MovedOn g := by
  obtain ⟨g, hg, hm⟩ := h.finish_moved
  obtain ⟨b, p, hd, st, hb, -⟩ := h.finish_bank rfl
  obtain rfl := Option.some.inj (hg.symm.trans hb)
  exact ⟨_, hg, hm, hm.split?_issuing h.split?, Group.setBk_uid .., Group.setBk_core .., Group.setBk_depth ..⟩

theorem State.finish_clkOf (s : State) (x : Issue) (core : Nat) : (s.finish x).clkOf core = s.clkOf core := by
  obtain ⟨gs, ts, h⟩ := s.finish_eq x
  rw [h]
  rfl

theorem Issues.taken_clkOf {s : State} {i : Instr} {x : Issue} {t : State} (h : Issues s i x t) (core : Nat) : t.clkOf core = s.clkOf core := by
  obtain ⟨_, _, _, ht⟩ := h.taken_eq
  rw [ht]
  rfl

/-! ## A branch taken (R93) -/

/-- A split that has gone to a target at a clk. -/
def Issue.branchedSplit (x : Issue) (pc : DWord) (clk : Nat) : Split :=
  { x.sp with pc := pc, notBefore := if pc = x.nextPc then x.sp.notBefore else clk + 4 }

/-- A group whose issuing split has gone to a target. -/
def Issue.branched (x : Issue) (g : Group) (pc : DWord) (clk : Nat) : Group := g.setBk (g.bk.setSplit (x.branchedSplit pc clk))

theorem State.branchTo_group? {v : State} {x : Issue} {g : Group} (hg : v.group? x.g.uid = some g)
    (hsp : g.bk.split? x.sp.id = some x.movedSplit) (pc : DWord) :
    (v.branchTo x pc).group? x.g.uid = some (x.branched g pc (v.clkOf g.core)) := by
  rw [State.branchTo, State.modGroup_group?, if_pos rfl, hg, Option.map_some]
  simp only [hsp]
  rfl

theorem Issue.branched_split? {x : Issue} {g : Group} (hsp : g.bk.split? x.sp.id = some x.movedSplit) (pc : DWord) (clk : Nat) :
    (x.branched g pc clk).bk.split? x.sp.id = some (x.branchedSplit pc clk) := by
  rw [Issue.branched, Group.setBk_bk, split?_setSplit, hsp, Option.map_some]
  exact congrArg some (if_pos (beq_self_eq_true _))

/-- The split is at the target, its group at the calls where it was. -/
theorem State.branchTo_goes {v : State} {x : Issue} {g : Group} (hg : v.group? x.g.uid = some g)
    (hsp : g.bk.split? x.sp.id = some x.movedSplit) (pc : DWord) :
    ∃ g', (v.branchTo x pc).group? x.g.uid = some g' ∧ g'.bk.split? x.sp.id = some (x.branchedSplit pc (v.clkOf g.core)) ∧
      g'.depth = g.depth :=
  ⟨_, State.branchTo_group? hg hsp pc, Issue.branched_split? hsp pc _, Group.setBk_depth ..⟩

/-- An instruction that completes and branches leaves its split at the target. -/
theorem Issues.branchTo_split {s : State} {i : Instr} {x : Issue} {t : State} (h : Issues s i x t) (pc : DWord) :
    ∃ g, ((t.finish x).branchTo x pc).group? x.g.uid = some g ∧
      g.bk.split? x.sp.id = some (x.branchedSplit pc (s.clkOf x.g.core)) := by
  obtain ⟨g, hg, hm⟩ := h.finish_movedOn
  obtain ⟨g', hg', hsp, -⟩ := State.branchTo_goes hg hm.split pc
  rw [State.finish_clkOf, h.taken_clkOf, hm.core] at hsp
  exact ⟨g', hg', hsp⟩

end Sys2Proof.Machine
end

section
/-! BRA (R145, R402). -/

namespace Sys2Proof.Machine

open Sys2Proof.Claims

section
variable {s : State} {x : Issue} {t : State} {c : Ctl} {off : BitVec 24} (h : Issues s (.bra c off) x t)
include h

theorem exec_bra_taken (hall : x.lanes = x.sp.lanes) (hgood : goodTarget (branchTarget x.pc off)) :
    exec (.bra c off) s = .next ((t.finish x).branchTo x (branchTarget x.pc off)) := by
  show execBra c off s = _
  refine issue_eq_next h ?_
  simp only [Issue.uniformGuard_all hall, targetTrap_of_branchTarget hgood, branchTarget]

theorem exec_bra_passed (hnot : x.lanes ≠ x.sp.lanes) (hnone : x.lanes = 0) : exec (.bra c off) s = .next (t.finish x) := by
  show execBra c off s = _
  refine issue_eq_next h ?_
  simp only [Issue.uniformGuard_none hnot hnone]

theorem exec_bra_divergent (hnot : x.lanes ≠ x.sp.lanes) (hsome : x.lanes ≠ 0) :
    exec (.bra c off) s = .next (s.trapOf (.bra c off) x (x.trap tcConvergence)) := by
  show execBra c off s = _
  exact (issue_eq h _).trans (by simp only [Issue.uniformGuard_some hnot hsome])

end

/-- Settles O31: the guard's three cases are those of `Issue.uniformGuard`, and a branch taken leaves its split at the target
(`Issues.branchTo_split`). -/
theorem braBranches : Obligations.BraBranches := by
  intro s x t c off h target
  refine ⟨fun hall hhigh hlow => ?taken, fun hnone hnot => ?passed, fun hsome hnot => exec_bra_divergent h hnot hsome⟩
  case taken =>
    obtain ⟨g, hg, hsp⟩ := h.branchTo_split target
    exact ⟨_, g, _, exec_bra_taken h hall ⟨hhigh, hlow⟩, hg, hsp, rfl, rfl, rfl⟩
  case passed =>
    obtain ⟨g, sp, hg, hsp, hpc⟩ := finish_split_moves h
    exact ⟨_, g, sp, exec_bra_passed h hnot hnone, hg, hsp, hpc⟩

end Sys2Proof.Machine
end

section
/-! SUPPORT. A split divides (R136 to R138): the record that its pieces are to join at, and the split that each piece becomes. -/

namespace Sys2Proof.Machine

open Sys2Proof.Claims

/-! ## The splits of a division -/

/-- A split that a piece of a division has become (R137, R138). -/
structure Piece.Becomes (p : Piece) (rec_ : Nat) (sfile : Cells 32) (a : Split) : Prop where
  lanes : a.lanes = p.lanes
  pc : a.pc = p.pc
  join : a.join = some rec_
  sfile : a.sfile = sfile
  written : a.written = 0
  held : a.held = false

theorem Piece.becomes_of_mem {ps : List Piece} {p : Piece} (hp : p ∈ ps) (sp : Split) (sfile : Cells 32) (own : Bool) (rec_ keep clk : Nat)
    (next : DWord) (ids : List Nat) : ∃ a ∈ pieceSplits sp sfile own rec_ keep clk next ps ids, p.Becomes rec_ sfile a := by
  induction ps generalizing ids with
  | nil => cases hp
  | cons q qs ih =>
    rw [pieceSplits]
    rcases List.mem_cons.mp hp with rfl | hq
    · exact ⟨_, List.mem_cons_self .., rfl, rfl, rfl, rfl, rfl, rfl⟩
    · obtain ⟨a, ha, hbecomes⟩ := ih hq _
      exact ⟨a, List.mem_cons_of_mem _ ha, hbecomes⟩

theorem mem_foldl_insertSplit {a : Split} {new l : List Split} : a ∈ new.foldl (fun l m => insertSplit m l) l ↔ a ∈ new ∨ a ∈ l := by
  induction new generalizing l with
  | nil => simp
  | cons m ms ih =>
    rw [List.foldl_cons, ih, mem_insertSplit, List.mem_cons]
    tauto

/-! ## Room for a record (R137) -/

theorem Bank.makeRoom_of_lt {b : Bank} (h : b.recs.length < 7) : b.makeRoom = b := if_pos h

/-- A split once its record has given way to that record's parent. -/
def JoinRec.passUp (r : JoinRec) (q : Split) : Split :=
  if q.join = some r.id then { q with join := r.parent, written := q.written ||| r.baseMask } else q

theorem JoinRec.passUp_id (r : JoinRec) (q : Split) : (r.passUp q).id = q.id := by
  unfold JoinRec.passUp
  split <;> rfl

theorem JoinRec.passUp_lanes (r : JoinRec) (q : Split) : (r.passUp q).lanes = q.lanes := by
  unfold JoinRec.passUp
  split <;> rfl

/-- A record that gives way leaves each split its lanes. -/
theorem Bank.makeRoom_split? (b : Bank) (id : Nat) : (b.makeRoom.split? id).map (·.lanes) = (b.split? id).map (·.lanes) := by
  unfold Bank.makeRoom
  split
  · rfl
  · split
    · rfl
    · next r _ =>
      change ((b.splits.map r.passUp).find? fun q => q.id == id).map (·.lanes) = _
      simp only [Bank.split?, List.find?_map, Function.comp_def, JoinRec.passUp_id, Option.map_map, JoinRec.passUp_lanes]

/-! ## A division -/

/-- What the division of a split leaves: a new record that expects all its lanes, with its own record as the parent where there was room for
another (R137), and a split for each piece. -/
structure Group.Divided (old : Group) (sp : Split) (pieces : List Piece) (join : DWord) (r : JoinRec) (g : Group) : Prop where
  mem : r ∈ g.bk.recs
  addr : r.addr = join
  expected : r.expected = sp.lanes
  arrived : r.arrived = 0
  parent : old.bk.recs.length < 7 → r.parent = sp.join
  splits : ∀ p ∈ pieces, ∃ a ∈ g.bk.splits, p.Becomes r.id (old.sfileOf sp) a

theorem Group.divide_divided {g : Group} {sp : Split} (hsp : g.bk.split? sp.id = some sp) (pieces : List Piece) (join : DWord) (keep clk : Nat)
    (next : DWord) : ∃ r, g.Divided sp pieces join r (g.divide sp pieces join keep clk next) := by
  obtain ⟨old, hold, hlanes⟩ : ∃ old, g.bk.makeRoom.split? sp.id = some old ∧ old.lanes = sp.lanes :=
    Option.map_eq_some_iff.mp ((g.bk.makeRoom_split? sp.id).trans (by rw [hsp, Option.map_some]))
  unfold Group.divide
  simp only [hold, Option.getD_some]
  refine ⟨{ id := g.bk.makeRoom.nextRec, addr := join, expected := old.lanes, arrived := 0, parent := old.join, base := g.sfileOf sp
            baseMask := old.written }, ?mem, rfl, hlanes, rfl, fun hroom => ?parent, fun p hp => ?piece⟩
  case mem =>
    rw [Group.setBk_bk]
    exact List.mem_append_right _ (List.mem_singleton.mpr rfl)
  case parent =>
    rw [Bank.makeRoom_of_lt hroom, hsp] at hold
    rw [Option.some.inj hold]
  case piece =>
    obtain ⟨a, ha, hbecomes⟩ := Piece.becomes_of_mem hp old (g.sfileOf sp) g.hand.isSome g.bk.makeRoom.nextRec keep clk next g.bk.makeRoom.freeIds
    rw [Group.setBk_bk]
    exact ⟨a, mem_foldl_insertSplit.mpr (.inl ha), hbecomes⟩

/-! ## The issuing split divides -/

/-- In user code a split's scalar file is its own. -/
theorem Issue.MovedOn.sfileOf {x : Issue} {g : Group} (hm : x.MovedOn g) (hh : x.g.hand = none) : g.sfileOf x.movedSplit = x.sp.sfile := by
  rw [Group.sfileOf, hm.hand_none hh]
  rfl

/-- A group whose issuing split divides at a clk. -/
def Issue.divided (x : Issue) (ps : List Piece) (join : DWord) (keep : Nat) (clk : Group → Nat) (g : Group) : Group :=
  match g.bk.split? x.sp.id with
  | some sp => g.divide sp ps join keep (clk g) x.nextPc
  | none => g

theorem Issue.MovedOn.divided_eq {x : Issue} {g : Group} (hm : x.MovedOn g) (ps : List Piece) (join : DWord) (keep : Nat) (clk : Group → Nat) :
    x.divided ps join keep clk g = g.divide x.movedSplit ps join keep (clk g) x.nextPc := by
  rw [Issue.divided, hm.split]

theorem Issue.MovedOn.divided {x : Issue} {g : Group} (hm : x.MovedOn g) (ps : List Piece) (join : DWord) (keep : Nat) (clk : Group → Nat) :
    ∃ r, g.Divided x.movedSplit ps join r (x.divided ps join keep clk g) := by
  rw [hm.divided_eq]
  exact Group.divide_divided (sp := x.movedSplit) hm.split ..

end Sys2Proof.Machine
end

section
/-! BRC divides its split (R136, R137, R146). -/

namespace Sys2Proof.Machine

open Sys2Proof.Claims

/-- The two ways of a BRC's lanes. -/
def Issue.brcPieces (x : Issue) (off : BitVec 24) : List Piece :=
  [{ lanes := x.lanes, pc := branchTarget x.pc off }, { lanes := x.sp.lanes &&& ~~~x.lanes, pc := x.nextPc }]

section
variable {s : State} {x : Issue} {t : State} {c : Ctl} {hint : Hint} {off : BitVec 24} {joff : BitVec 20} (h : Issues s (.brc c hint off joff) x t)
include h

theorem exec_brc_passed (hnone : x.lanes = 0) : exec (.brc c hint off joff) s = .next (t.finish x) := by
  show execBrc c hint off joff s = _
  refine issue_eq_next h ?_
  simp only [hnone, if_true]

variable (hsome : x.lanes ≠ 0) (hgood : goodTarget (branchTarget x.pc off))
include hsome hgood

theorem exec_brc_taken (hall : x.lanes = x.sp.lanes) :
    exec (.brc c hint off joff) s = .next ((t.finish x).branchTo x (branchTarget x.pc off)) := by
  show execBrc c hint off joff s = _
  refine issue_eq_next h ?_
  simp only [hsome, h.rest_eq_zero.mpr hall, targetTrap_of_branchTarget hgood, bne_self_eq_false, Bool.false_and,
    Bool.false_eq_true, if_false, if_true, branchTarget]

theorem exec_brc_divides (hnot : x.lanes ≠ x.sp.lanes) (hroom : x.g.bk.splits.length < 8) :
    ∃ keep, exec (.brc c hint off joff) s = .next ((t.finish x).modGroup x.g.uid
      (x.divided (x.brcPieces off) (branchTarget x.pc joff) keep fun _ => t.clkOf x.g.core)) := by
  have hrest : x.sp.lanes &&& ~~~x.lanes ≠ 0 := fun hz => hnot (h.rest_eq_zero.mp hz)
  refine ⟨((if hint = .likely then x.lanes else x.sp.lanes &&& ~~~x.lanes).list 64).headD 0, ?_⟩
  show execBrc c hint off joff s = _
  refine issue_eq_next h ?_
  simp only [hsome, hrest, targetTrap_of_branchTarget hgood, Nat.not_le.mpr hroom, decide_false, Bool.and_false, Bool.false_eq_true, if_false]
  rfl

end

/-- Settles O32: with lanes on both ways the split divides into the two pieces of `Issue.brcPieces` (`Issue.MovedOn.divided`). -/
theorem brcDivides : Obligations.BrcDivides := by
  intro s x t c hint off joff h target hhigh hlow
  refine ⟨exec_brc_passed h, fun hsome hall => ?taken, fun hsome hnot hroom => ?divides⟩
  case taken =>
    obtain ⟨g, hg, hsp⟩ := h.branchTo_split target
    exact ⟨_, g, _, exec_brc_taken h hsome ⟨hhigh, hlow⟩ hall, hg, hsp, rfl⟩
  case divides =>
    obtain ⟨keep, hexec⟩ := exec_brc_divides h hsome ⟨hhigh, hlow⟩ hnot hroom
    obtain ⟨g, hg, hm⟩ := h.finish_movedOn
    obtain ⟨r, hd⟩ := hm.divided (x.brcPieces off) (branchTarget x.pc joff) keep fun _ => t.clkOf x.g.core
    obtain ⟨a, hamem, ha⟩ := hd.splits _ (List.mem_cons_self ..)
    obtain ⟨b, hbmem, hb⟩ := hd.splits _ (List.mem_cons_of_mem _ (List.mem_singleton.mpr rfl))
    refine ⟨_, _, r, a, b, hexec, (State.modGroup_group? ..).trans (by rw [if_pos rfl, hg]; rfl), hd.mem, hamem, hbmem, hd.addr, hd.expected,
      hd.arrived, fun hrecs => hd.parent (by rw [hm.recs]; exact hrecs), ha.lanes, ha.pc, ha.join, ha.written, hb.lanes, hb.pc, hb.join,
      hb.written, fun hh => ?_⟩
    rw [← hm.sfileOf hh]
    exact ⟨ha.sfile, hb.sfile⟩

end Sys2Proof.Machine
end

section
/-! SUPPORT. The lanes of a BRX or CALLX by destination (R136, R147, R148): one piece for each destination, with exactly the lanes that go there. -/

namespace Sys2Proof.Machine

theorem Lanes.has_single {k : Nat} (hk : k < 64) (l : Nat) : (Lanes.single l).has k = true ↔ k = l := by
  rw [Lanes.has, Lanes.single, BitVec.getLsbD_shiftLeft, BitVec.getLsbD_one]
  simp only [hk, decide_true, Bool.true_and, Bool.and_eq_true, Bool.not_eq_true', decide_eq_true_eq, decide_eq_false_iff_not]
  omega

theorem Lanes.has_or (a b : Lanes) (k : Nat) : (a ||| b).has k = true ↔ a.has k = true ∨ b.has k = true := by
  rw [Lanes.has, BitVec.getLsbD_or, Bool.or_eq_true]
  rfl

/-- A piece once a lane has come to it, if it is that of the lane's destination. -/
def Piece.withLane (dest : Nat → DWord) (l : Nat) (p : Piece) : Piece :=
  if p.pc == dest l then { p with lanes := p.lanes ||| Lanes.single l } else p

/-- One lane comes to the piece of its destination, or is the first of a new one. -/
def fanStep (dest : Nat → DWord) (ps : List Piece) (l : Nat) : List Piece :=
  if ps.any fun p => p.pc == dest l then ps.map (Piece.withLane dest l) else ps ++ [{ lanes := Lanes.single l, pc := dest l }]

theorem Piece.withLane_pc (dest : Nat → DWord) (l : Nat) (p : Piece) : (p.withLane dest l).pc = p.pc := by
  unfold Piece.withLane
  split <;> rfl

theorem Piece.withLane_has {k : Nat} (hk : k < 64) (dest : Nat → DWord) (l : Nat) (p : Piece) :
    (p.withLane dest l).lanes.has k = true ↔ p.lanes.has k = true ∨ (k = l ∧ dest l = p.pc) := by
  by_cases hto : p.pc = dest l
  · rw [Piece.withLane, if_pos (beq_iff_eq.mpr hto), Lanes.has_or, Lanes.has_single hk]
    simp [hto]
  · rw [Piece.withLane, if_neg (by simpa using hto)]
    simp [Ne.symm hto]

/-- Pieces that part some lanes by destination. -/
structure FannedOut (ls : List Nat) (dest : Nat → DWord) (ps : List Piece) : Prop where
  covers : ∀ l ∈ ls, ∃ p ∈ ps, p.pc = dest l
  comes : ∀ p ∈ ps, ∃ l ∈ ls, p.pc = dest l
  lanes : ∀ p ∈ ps, ∀ k < 64, p.lanes.has k = true ↔ k ∈ ls ∧ dest k = p.pc
  distinct : (ps.map (·.pc)).Nodup

section
variable {ls : List Nat} {dest : Nat → DWord} {ps : List Piece} (h : FannedOut ls dest ps)
include h

theorem FannedOut.withLane {l : Nat} (hl : ∃ p ∈ ps, p.pc = dest l) : FannedOut (ls ++ [l]) dest (ps.map (Piece.withLane dest l)) := by
  refine ⟨fun k hk => ?covers, fun q hq => ?comes, fun q hq k hk => ?lanes, ?distinct⟩
  case covers =>
    obtain ⟨p, hp, hpk⟩ : ∃ p ∈ ps, p.pc = dest k := by
      rcases List.mem_append.mp hk with hk | hk
      · exact h.covers k hk
      · exact List.mem_singleton.mp hk ▸ hl
    exact ⟨_, List.mem_map_of_mem hp, (p.withLane_pc dest l).trans hpk⟩
  case comes =>
    obtain ⟨p, hp, rfl⟩ := List.mem_map.mp hq
    obtain ⟨k, hk, hpk⟩ := h.comes p hp
    exact ⟨k, List.mem_append_left _ hk, (p.withLane_pc dest l).trans hpk⟩
  case lanes =>
    obtain ⟨p, hp, rfl⟩ := List.mem_map.mp hq
    rw [Piece.withLane_has hk, Piece.withLane_pc, h.lanes p hp k hk, List.mem_append, List.mem_singleton, or_and_right]
    exact or_congr_right (and_congr_right fun hkl => by rw [hkl])
  case distinct =>
    have hpcs : (ps.map (Piece.withLane dest l)).map (·.pc) = ps.map (·.pc) := by
      rw [List.map_map]
      exact List.map_congr_left fun p _ => p.withLane_pc dest l
    exact hpcs ▸ h.distinct

theorem FannedOut.newPiece {l : Nat} (hl : ¬∃ p ∈ ps, p.pc = dest l) :
    FannedOut (ls ++ [l]) dest (ps ++ [{ lanes := Lanes.single l, pc := dest l }]) := by
  have hnew (k : Nat) (hk : k ∈ ls) : dest k ≠ dest l := fun he =>
    let ⟨p, hp, hpk⟩ := h.covers k hk
    hl ⟨p, hp, hpk.trans he⟩
  refine ⟨fun k hk => ?covers, fun q hq => ?comes, fun q hq k hk => ?lanes, ?distinct⟩
  case covers =>
    rcases List.mem_append.mp hk with hk | hk
    · obtain ⟨p, hp, hpk⟩ := h.covers k hk
      exact ⟨p, List.mem_append_left _ hp, hpk⟩
    · exact ⟨_, List.mem_append_right _ (List.mem_singleton.mpr rfl), by rw [List.mem_singleton.mp hk]⟩
  case comes =>
    rcases List.mem_append.mp hq with hq | hq
    · obtain ⟨k, hk, hqk⟩ := h.comes q hq
      exact ⟨k, List.mem_append_left _ hk, hqk⟩
    · exact ⟨l, List.mem_append_right _ (List.mem_singleton.mpr rfl), by rw [List.mem_singleton.mp hq]⟩
  case lanes =>
    rw [List.mem_append, List.mem_singleton, or_and_right]
    rcases List.mem_append.mp hq with hq | hq
    · rw [h.lanes q hq k hk]
      exact (or_iff_left fun ⟨hkl, hto⟩ => hl ⟨q, hq, hkl ▸ hto.symm⟩).symm
    · rw [List.mem_singleton.mp hq, Lanes.has_single hk]
      exact ⟨fun hkl => .inr ⟨hkl, congrArg dest hkl⟩, fun hor => hor.elim (fun hold => absurd hold.2 (hnew k hold.1)) And.left⟩
  case distinct =>
    rw [List.map_append, List.nodup_append]
    refine ⟨h.distinct, List.nodup_singleton _, fun a ha b hb => ?_⟩
    obtain ⟨p, hp, rfl⟩ := List.mem_map.mp ha
    rw [List.map_singleton, List.mem_singleton] at hb
    exact hb ▸ fun he => hl ⟨p, hp, he⟩

end

theorem fannedOut_fanOut (ls : List Nat) (dest : Nat → DWord) : FannedOut ls dest (fanOut ls dest) := by
  change FannedOut ls dest (ls.foldl (fanStep dest) [])
  induction ls using List.reverseRecOn with
  | nil => exact ⟨by simp, by simp, by simp, List.nodup_nil⟩
  | append_singleton ls l ih =>
    rw [List.foldl_concat, fanStep]
    split
    · next h => exact ih.withLane (by simpa using h)
    · next h => exact ih.newPiece (by simpa using h)

/-- Whether lanes go to one destination. -/
def uniformTo (ls : List Nat) (dest : Nat → DWord) : Prop := ∀ l ∈ ls, ∀ k ∈ ls, dest l = dest k

/-- They do just where there is at most one piece. -/
theorem fanOut_length_le_one_iff (ls : List Nat) (dest : Nat → DWord) : (fanOut ls dest).length ≤ 1 ↔ uniformTo ls dest := by
  have hf := fannedOut_fanOut ls dest
  match hps : fanOut ls dest with
  | [] =>
    rw [hps] at hf
    exact iff_of_true (Nat.zero_le 1) fun l hl => absurd (hf.covers l hl) (by simp)
  | [p] =>
    rw [hps] at hf
    have hto (l : Nat) (hl : l ∈ ls) : p.pc = dest l := by simpa using hf.covers l hl
    exact iff_of_true (le_refl 1) fun l hl k hk => (hto l hl).symm.trans (hto k hk)
  | p :: q :: rest =>
    rw [hps] at hf
    refine iff_of_false (by simp) fun hu => ?_
    obtain ⟨l, hl, hpl⟩ := hf.comes p (by simp)
    obtain ⟨k, hk, hqk⟩ := hf.comes q (by simp)
    have hpq : p.pc ≠ q.pc := fun he => (List.nodup_cons.mp hf.distinct).1 (by simp [he])
    exact hpq (by rw [hpl, hqk, hu l hl k hk])

end Sys2Proof.Machine
end

section
/-! SUPPORT. Calls (R143, R148): what each lane that pushes a return address leaves of its group. -/

namespace Sys2Proof.Machine

theorem State.writeLoc_groups (s : State) (l : Loc) (n v : Nat) : (s.writeLoc l n v).groups = s.groups := by
  obtain ⟨w, p, h⟩ := s.writeLoc_eq l n v
  rw [h]

/-- Distinct keys that each change once. -/
theorem cellGet_foldl_change {w : Nat} (f : BitVec w → BitVec w) {ks : List Nat} (hks : ks.Nodup) (m : Cells w) (j : Nat) :
    cellGet (ks.foldl (fun m k => cellSet m k (f (cellGet m k))) m) j = if j ∈ ks then f (cellGet m j) else cellGet m j := by
  induction ks generalizing m with
  | nil => rfl
  | cons k ks ih =>
    obtain ⟨hk, hks⟩ := List.nodup_cons.mp hks
    rw [List.foldl_cons, ih hks, cellGet_cellSet]
    by_cases hjk : j = k
    · subst hjk
      simp [hk]
    · simp [hjk]

/-- One lane pushes a return address. -/
theorem State.pushAll_one {s : State} {uid : Nat} {g : Group} (hg : s.group? uid = some g) (huid : g.uid = uid) (ret : DWord) (l : Nat) :
    ∃ p, (s.pushAll uid ret [l]).group? uid =
      some { g with depth := cellSet g.depth l (BitVec.ofNat 16 (g.callDepth l + 1)), pushed := p } := by
  refine ⟨cellSet g.pushed (l * 256 + g.callDepth l) ret, ?_⟩
  rw [State.pushAll, List.foldl_cons, List.foldl_nil]
  simp only [hg]
  exact (State.setGroup_group? ..).trans (if_pos huid.symm)

/-- Each lane that pushes a return address is one call deeper, and nothing else of the group has changed but the addresses pushed. -/
theorem State.pushAll_group? {s : State} {uid : Nat} {g : Group} {ls : List Nat} (hg : s.group? uid = some g) (huid : g.uid = uid)
    (hls : ls.Nodup) (hroom : ∀ l ∈ ls, g.callDepth l < 65535) (ret : DWord) :
    ∃ d p, (s.pushAll uid ret ls).group? uid = some { g with depth := d, pushed := p } ∧
      (∀ l ∈ ls, (cellGet d l).toNat = g.callDepth l + 1) ∧ ∀ l ∉ ls, cellGet d l = cellGet g.depth l := by
  induction ls generalizing s g with
  | nil => exact ⟨g.depth, g.pushed, hg, by simp, fun _ _ => rfl⟩
  | cons k ks ih =>
    obtain ⟨hk, hks⟩ := List.nodup_cons.mp hls
    obtain ⟨hkroom, hksroom⟩ := List.forall_mem_cons.mp hroom
    obtain ⟨p, hone⟩ := State.pushAll_one hg huid ret k
    have hkeeps (l : Nat) (hl : l ≠ k) : cellGet (cellSet g.depth k (BitVec.ofNat 16 (g.callDepth k + 1))) l = cellGet g.depth l := by
      rw [cellGet_cellSet, if_neg hl]
    have hsame (l : Nat) (hl : l ∈ ks) : l ≠ k := fun he => hk (he ▸ hl)
    obtain ⟨d, p', hrest, hin, hout⟩ := ih hone huid hks fun l hl => by
      rw [Group.callDepth, hkeeps l (hsame l hl)]
      exact hksroom l hl
    refine ⟨d, p', hrest, fun l hl => ?_, fun l hl => ?_⟩
    · rcases List.mem_cons.mp hl with rfl | hl
      · rw [hout l hk, cellGet_cellSet, if_pos rfl, BitVec.toNat_ofNat, Nat.mod_eq_of_lt (by omega)]
      · rw [hin l hl, Group.callDepth, hkeeps l (hsame l hl)]
        rfl
    · obtain ⟨hlk, hlks⟩ := not_or.mp (mt List.mem_cons.mpr hl)
      rw [hout l hlks, hkeeps l hlk]

/-- The lanes that push, in a state whose group has the calls of the issuing one. -/
theorem Issue.pushes {x : Issue} {v : State} {g : Group} (hg : v.group? x.g.uid = some g) (huid : g.uid = x.g.uid) (hdepth : g.depth = x.g.depth)
    (hroom : ∀ l ∈ x.list, x.g.callDepth l < 65535) (ret : DWord) :
    ∃ d p, (v.pushAll x.g.uid ret x.list).group? x.g.uid = some { g with depth := d, pushed := p } ∧
      ∀ l ∈ x.list, (cellGet d l).toNat = x.g.callDepth l + 1 := by
  have hcalls (l : Nat) : g.callDepth l = x.g.callDepth l := by rw [Group.callDepth, hdepth]; rfl
  obtain ⟨d, p, hgroup, hin, -⟩ := State.pushAll_group? hg huid (Lanes.nodup_list x.lanes 64) (fun l hl => by rw [hcalls]; exact hroom l hl) ret
  exact ⟨d, p, hgroup, fun l hl => by rw [hin l hl, hcalls]⟩

end Sys2Proof.Machine
end

section
/-! BRX and CALLX (R136 to R138, R147, R148, R402). -/

namespace Sys2Proof.Machine

open Sys2Proof.Claims

/-! ## The effect that they share -/

/-- Where a BRX or CALLX takes each lane: to its operand where the guard holds, else on. -/
def Issue.indirectDest (x : Issue) (t : State) (l : Nat) : DWord := if x.lanes.has l then t.src x 0 l else x.nextPc

/-- What a BRX or CALLX leaves of its group: with one destination the split is there, with several it has divided. -/
def Issue.FansOut (x : Issue) (dest : Nat → DWord) (join : DWord) (g : Group) : Prop :=
  (∀ l ∈ x.splitList, uniformTo x.splitList dest →
    (g.bk.split? x.sp.id).map (fun sp => (sp.pc, sp.lanes, sp.join)) = some (dest l, x.sp.lanes, x.sp.join)) ∧
  (¬uniformTo x.splitList dest →
    ∃ r ∈ g.bk.recs, r.addr = join ∧ r.expected = x.sp.lanes ∧ r.arrived = 0 ∧ (x.g.bk.recs.length < 7 → r.parent = x.sp.join) ∧
      ∀ l ∈ x.splitList, ∃ a ∈ g.bk.splits, a.join = some r.id ∧ a.pc = dest l ∧ a.held = false ∧ a.written = 0 ∧
        (x.g.hand = none → a.sfile = x.sp.sfile) ∧ ∀ k < 64, a.lanes.has k = (x.sp.lanes.has k && dest k == dest l))

theorem fanBad_of_room {x : Issue} {dest : Nat → DWord} {join : DWord}
    (hroom : (fanOut x.splitList dest).length ≤ 1 ∨ x.g.bk.splits.length - 1 + (fanOut x.splitList dest).length ≤ 8)
    (hjoin : ¬uniformTo x.splitList dest → join ≠ 0) : fanBad x dest join = false := by
  by_cases hone : (fanOut x.splitList dest).length ≤ 1
  · simp [fanBad, Nat.not_lt.mpr hone]
  · have hne : join ≠ 0 := hjoin (mt (fanOut_length_le_one_iff ..).mpr hone)
    simpa [fanBad, hroom.resolve_left hone] using fun _ => hne

section
variable {x : Issue} {t : State} {dest : Nat → DWord} {join : DWord} {keep : Nat}

theorem State.fan_of_single {p : Piece} (h : fanOut x.splitList dest = [p]) : t.fan x dest join keep = (t.finish x).branchTo x p.pc := by
  simp only [State.fan, h]

theorem State.fan_of_several (h : (fanOut x.splitList dest).length ≠ 1) : t.fan x dest join keep =
    (t.finish x).modGroup x.g.uid (x.divided (fanOut x.splitList dest) join keep fun g => (t.finish x).clkOf g.core) := by
  unfold State.fan
  generalize fanOut x.splitList dest = ps at h
  match ps with
  | [_] => exact absurd rfl h
  | [] | _ :: _ :: _ => rfl

/-- One destination: the split is there. -/
theorem Issue.fansOut_branched {g : Group} (hm : x.MovedOn g) {p : Piece} (hp : fanOut x.splitList dest = [p]) (clk : Nat) :
    x.FansOut dest join (x.branched g p.pc clk) := by
  have hf := hp ▸ fannedOut_fanOut x.splitList dest
  refine ⟨fun l hl _ => ?_, fun hnot => absurd ((fanOut_length_le_one_iff ..).mp (by simp [hp])) hnot⟩
  have hto : p.pc = dest l := by simpa using hf.covers l hl
  rw [x.branched_split? hm.split, ← hto]
  rfl

/-- Several: the split has divided. -/
theorem Issue.fansOut_divided {g : Group} (hm : x.MovedOn g) (hseveral : (fanOut x.splitList dest).length ≠ 1) (clk : Group → Nat) :
    x.FansOut dest join (x.divided (fanOut x.splitList dest) join keep clk g) := by
  have hf := fannedOut_fanOut x.splitList dest
  obtain ⟨r, hd⟩ := hm.divided (fanOut x.splitList dest) join keep clk
  refine ⟨fun l hl huniform => ?_, fun _ => ⟨r, hd.mem, hd.addr, hd.expected, hd.arrived, fun hrecs => ?_, fun l hl => ?_⟩⟩
  · obtain ⟨p, hp, -⟩ := hf.covers l hl
    exact absurd (Nat.le_antisymm ((fanOut_length_le_one_iff ..).mpr huniform) (List.length_pos_of_mem hp)) hseveral
  · exact hd.parent (by rw [hm.recs]; exact hrecs)
  · obtain ⟨p, hp, hpl⟩ := hf.covers l hl
    obtain ⟨a, hamem, ha⟩ := hd.splits p hp
    refine ⟨a, hamem, ha.join, ha.pc.trans hpl, ha.held, ha.written, fun hh => ha.sfile.trans (hm.sfileOf hh), fun k hk => ?_⟩
    rw [ha.lanes, Bool.eq_iff_iff, hf.lanes p hp k hk, hpl, Bool.and_eq_true, beq_iff_eq, Issue.splitList, Lanes.mem_list]
    simp [hk]

end

/-- The issuing group once its lanes have parted. -/
theorem Issues.fan_group? {s : State} {i : Instr} {x : Issue} {t : State} (h : Issues s i x t) (dest : Nat → DWord) (join : DWord) (keep : Nat) :
    ∃ g, (t.fan x dest join keep).group? x.g.uid = some g ∧ g.uid = x.g.uid ∧ g.depth = x.g.depth ∧ x.FansOut dest join g := by
  obtain ⟨g, hg, hm⟩ := h.finish_movedOn
  by_cases hone : (fanOut x.splitList dest).length = 1
  · obtain ⟨p, hp⟩ := List.length_eq_one_iff.mp hone
    rw [State.fan_of_single hp]
    exact ⟨_, State.branchTo_group? hg hm.split p.pc, (Group.setBk_uid ..).trans hm.uid, (Group.setBk_depth ..).trans hm.depth,
      x.fansOut_branched hm hp _⟩
  · rw [State.fan_of_several hone]
    refine ⟨_, (State.modGroup_group? ..).trans (by rw [if_pos rfl, hg]; rfl), ?_, ?_, x.fansOut_divided hm hone _⟩
    · rw [hm.divided_eq, Group.divide_uid, hm.uid]
    · rw [hm.divided_eq]
      exact (Group.setBk_depth ..).trans hm.depth

/-! ## The two instructions -/

section
variable {s : State} {x : Issue} {t : State} {c : Ctl} {a : Opnd} (hgood : ∀ l ∈ x.list, goodTarget (x.indirectDest t l))
include hgood

theorem exec_brx {hint : Hint} {b : Opnd} (h : Issues s (.brx c hint a b) x t) (hsame : ∀ l ∈ x.list, t.src x 1 l = t.srcLow x 1)
    (hfan : fanBad x (x.indirectDest t) (t.srcLow x 1) = false) :
    ∃ keep, exec (.brx c hint a b) s = .next (t.fan x (x.indirectDest t) (t.srcLow x 1) keep) := by
  have htrap := targetTrap_of_good hgood
  have hjoin : (x.list.any fun l => t.src x 1 l != t.srcLow x 1) = false := by simpa using hsame
  refine ⟨if hint = .likely then (x.low?).getD (x.splitList.headD 0) else x.splitList.headD 0, ?_⟩
  show execBrx c hint a b s = _
  refine issue_eq_next h ?_
  unfold Issue.indirectDest at hfan htrap ⊢
  simp only [hjoin, hfan, htrap, Bool.false_eq_true, if_false]

theorem exec_callx (h : Issues s (.callx c a) x t) (hfan : fanBad x (x.indirectDest t) x.nextPc = false)
    (hroom : ∀ l ∈ x.list, 8 * (x.g.callDepth l + 1) ≤ t.sliceSize x.g) :
    exec (.callx c a) s = .next ((t.fan x (x.indirectDest t) x.nextPc (x.splitList.headD 0)).pushAll x.g.uid x.nextPc x.list) := by
  have htrap := targetTrap_of_good hgood
  show execCallx c a s = _
  refine issue_eq_next h ?_
  unfold Issue.indirectDest at hfan htrap ⊢
  simp only [hfan, htrap, State.pushBad_of_room hroom, Bool.false_eq_true, if_false]

end

/-- Settles O33: both part their lanes as `Issues.fan_group?` says, and CALLX then pushes (`Issue.pushes`). -/
theorem indirectBranchesComplete : Obligations.IndirectBranchesComplete := by
  intro i s x t h dest hgood hroom uniform fans
  cases i
  case brx c hint a b =>
    intro hsame hjoin
    obtain ⟨keep, hexec⟩ := exec_brx hgood h hsame (fanBad_of_room hroom hjoin)
    obtain ⟨g, hg, -, -, hfans⟩ := h.fan_group? (x.indirectDest t) (t.srcLow x 1) keep
    exact ⟨_, g, hexec, hg, hfans⟩
  case callx c a =>
    intro hnext hcalls
    have hexec := exec_callx hgood h (fanBad_of_room hroom fun _ => hnext) fun l hl => (hcalls l hl).1
    obtain ⟨g, hg, huid, hdepth, hfans⟩ := h.fan_group? (x.indirectDest t) x.nextPc (x.splitList.headD 0)
    obtain ⟨d, p, hpushed, hdeeper⟩ := Issue.pushes hg huid hdepth (fun l hl => (hcalls l hl).2) x.nextPc
    exact ⟨_, _, hexec, hpushed, hdeeper, hfans⟩
  all_goals trivial

end Sys2Proof.Machine
end

section
/-! CALL and RET (R143, R148, R149, R248). -/

namespace Sys2Proof.Machine

open Sys2Proof.Claims

/-! ## CALL -/

section
variable {s : State} {x : Issue} {t : State} {c : Ctl} {off : BitVec 24} (h : Issues s (.call c off) x t) (hall : x.lanes = x.sp.lanes)
  (hgood : goodTarget (branchTarget x.pc off)) (hroom : ∀ l ∈ x.list, 8 * (x.g.callDepth l + 1) ≤ t.sliceSize x.g)
include h hall hgood hroom

theorem exec_call_taken :
    exec (.call c off) s = .next (((t.finish x).pushAll x.g.uid x.nextPc x.list).branchTo x (branchTarget x.pc off)) := by
  show execCall c off s = _
  refine issue_eq_next h ?_
  simp only [Issue.uniformGuard_all hall, targetTrap_of_branchTarget hgood, State.pushBad_of_room hroom, branchTarget]

/-- The split is at the target, and each active lane one call deeper. -/
theorem call_goes (hdeep : ∀ l ∈ x.list, x.g.callDepth l < 65535) :
    ∃ u g sp, exec (.call c off) s = .next u ∧ u.group? x.g.uid = some g ∧ g.bk.split? x.sp.id = some sp ∧ sp.pc = branchTarget x.pc off ∧
      ∀ l ∈ x.list, g.callDepth l = x.g.callDepth l + 1 := by
  obtain ⟨g, hg, hm⟩ := h.finish_movedOn
  obtain ⟨d, p, hpushed, hdeeper⟩ := Issue.pushes hg hm.uid hm.depth hdeep x.nextPc
  obtain ⟨g', hg', hsp, hdepth⟩ := State.branchTo_goes hpushed hm.split (branchTarget x.pc off)
  refine ⟨_, g', _, exec_call_taken h hall hgood hroom, hg', hsp, rfl, fun l hl => ?_⟩
  rw [Group.callDepth, hdepth]
  exact hdeeper l hl

end

/-! ## The trap of a poisoned entry (R248) -/

theorem addFault_code {f : LaneFault} {code : BitVec 8} (hf : f.code = code) {rs : List (Nat × TrapRec)} (hrs : ∀ e ∈ rs, e.2.code = code) :
    addFault f rs ≠ [] ∧ ∀ e ∈ addFault f rs, e.2.code = code := by
  induction rs with
  | nil => exact ⟨List.cons_ne_nil _ _, by simpa [addFault] using hf⟩
  | cons r rs ih =>
    obtain ⟨hr, hrs⟩ := List.forall_mem_cons.mp hrs
    rw [addFault]
    split
    · exact ⟨List.cons_ne_nil _ _, List.forall_mem_cons.mpr ⟨hr, hrs⟩⟩
    · exact ⟨List.cons_ne_nil _ _, List.forall_mem_cons.mpr ⟨hr, (ih hrs).2⟩⟩

theorem foldl_addFault_code {fs : List LaneFault} {code : BitVec 8} (hfs : ∀ f ∈ fs, f.code = code) {rs : List (Nat × TrapRec)}
    (hne : fs ≠ [] ∨ rs ≠ []) (hrs : ∀ e ∈ rs, e.2.code = code) :
    fs.foldl (fun rs f => addFault f rs) rs ≠ [] ∧ ∀ e ∈ fs.foldl (fun rs f => addFault f rs) rs, e.2.code = code := by
  induction fs generalizing rs with
  | nil => exact ⟨hne.resolve_left (fun h => h rfl), hrs⟩
  | cons f fs ih =>
    obtain ⟨hf, hfs⟩ := List.forall_mem_cons.mp hfs
    obtain ⟨hone, hcode⟩ := addFault_code hf hrs
    exact ih hfs (.inr hone) hcode

/-- A trap of faults of one code has that code. -/
theorem Trap.ofFaults_head_code {fs : List LaneFault} {code : BitVec 8} (hne : fs ≠ []) (hfs : ∀ f ∈ fs, f.code = code) :
    (Trap.ofFaults fs).head.code = code := by
  obtain ⟨hrecs, hcode⟩ := foldl_addFault_code hfs (rs := []) (.inl hne) (by simp)
  obtain ⟨e, es, hes⟩ := List.exists_cons_of_ne_nil hrecs
  rw [hes] at hcode
  rw [Trap.head, Trap.ofFaults, hes]
  exact hcode e (List.mem_cons_self ..)

theorem State.popTrap_code {s : State} {x : Issue} {e : Trap} (h : s.popTrap x = some e) : e.head.code = tcMem := by
  unfold State.popTrap at h
  split at h
  · cases h
  · next ls hne =>
    cases h
    refine Trap.ofFaults_head_code ?_ fun f hf => ?_
    · exact fun hnil => hne (List.map_eq_nil_iff.mp hnil)
    · obtain ⟨l, -, rfl⟩ := List.mem_map.mp hf
      rfl

/-! ## RET -/

/-- A group whose active lanes have popped a return address. -/
def Issue.popped (x : Issue) (g : Group) : Group :=
  { g with
    depth := x.list.foldl (fun d l => cellSet d l (cellGet d l - 1)) g.depth
    pushed := x.list.foldl (fun m l => cellSet m (l * 256 + g.callDepth l - 1) 0) g.pushed }

theorem Issue.no_emptyStack {x : Issue} (h : ∀ l ∈ x.list, x.g.callDepth l ≠ 0) : (x.list.filter fun l => x.g.callDepth l == 0) = [] := by
  simpa [List.filter_eq_nil_iff] using h

/-- Each active lane that is in a call is one call shallower. -/
theorem Issue.popped_callDepth {x : Issue} {g : Group} (hdepth : g.depth = x.g.depth) {l : Nat} (hl : l ∈ x.list) (hcall : x.g.callDepth l ≠ 0) :
    (x.popped g).callDepth l + 1 = x.g.callDepth l := by
  have hword : (x.popped g).callDepth l = (cellGet x.g.depth l - 1).toNat := by
    refine congrArg BitVec.toNat ((cellGet_foldl_change (· - 1) (Lanes.nodup_list x.lanes 64) g.depth l).trans ?_)
    rw [← Issue.list, if_pos hl, hdepth]
  rw [Group.callDepth] at hcall
  rw [hword, Group.callDepth]
  bv_omega

section
variable {s : State} {x : Issue} {t : State} {c : Ctl} (h : Issues s (.ret c) x t) (hall : x.lanes = x.sp.lanes)
  (hcalls : ∀ l ∈ x.list, x.g.callDepth l ≠ 0) (hreplay : x.g.strand.entry.replay = false)
include h hall hcalls hreplay

theorem exec_ret_poisoned {e : Trap} (he : t.popTrap x = some e) : exec (.ret c) s = .next (s.trapOf (.ret c) x e) := by
  show execRet c s = _
  refine (issue_eq h _).trans ?_
  simp only [Issue.uniformGuard_all hall, Issue.no_emptyStack hcalls, hreplay, Bool.false_and, List.filter_false, he]

theorem exec_ret_returns {a : DWord} (hgood : goodTarget a) (hlanes : x.lanes ≠ 0) (hpops : ∀ l ∈ x.list, t.popValue x l = a)
    (hclean : t.popTrap x = none) : exec (.ret c) s = .next (((t.finish x).modGroup x.g.uid x.popped).branchTo x a) := by
  have htrap := targetTrap_of_good (ls := x.list) fun _ _ => hgood
  have hsame : (x.list.any fun l => t.popValue x l != a) = false := by simpa using hpops
  obtain ⟨low, ls, hlist⟩ := List.exists_cons_of_ne_nil (Issue.list_ne_nil hlanes)
  have hlow : x.low? = some low := by rw [Issue.low?, hlist, List.head?_cons]
  have hlowPop : t.popValue x low = a := hpops low (hlist ▸ List.mem_cons_self ..)
  show execRet c s = _
  refine issue_eq_next h ?_
  simp only [Issue.uniformGuard_all hall, Issue.no_emptyStack hcalls, hreplay, Bool.false_and, List.filter_false, hlow, hlowPop, hclean,
    hsame, htrap, Bool.false_eq_true, if_false]
  rfl

/-- The split is at the address popped, and each active lane one call shallower. -/
theorem ret_goes {a : DWord} (hgood : goodTarget a) (hlanes : x.lanes ≠ 0) (hpops : ∀ l ∈ x.list, t.popValue x l = a)
    (hclean : t.popTrap x = none) :
    ∃ u g sp, exec (.ret c) s = .next u ∧ u.group? x.g.uid = some g ∧ g.bk.split? x.sp.id = some sp ∧ sp.pc = a ∧
      ∀ l ∈ x.list, g.callDepth l + 1 = x.g.callDepth l := by
  obtain ⟨g, hg, hm⟩ := h.finish_movedOn
  have hpopped : ((t.finish x).modGroup x.g.uid x.popped).group? x.g.uid = some (x.popped g) := by
    rw [State.modGroup_group?, if_pos rfl, hg, Option.map_some]
  obtain ⟨g', hg', hsp, hdepth⟩ := State.branchTo_goes hpopped hm.split a
  refine ⟨_, g', _, exec_ret_returns h hall hcalls hreplay hgood hlanes hpops hclean, hg', hsp, rfl, fun l hl => ?_⟩
  rw [Group.callDepth, hdepth]
  exact Issue.popped_callDepth hm.depth hl (hcalls l hl)

end

/-- Settles O34: CALL pushes and goes (`call_goes`); RET pops and goes (`ret_goes`), or traps at a poisoned entry (`State.popTrap_code`). -/
theorem callAndReturn : Obligations.CallAndReturn := by
  intro i s x t h hall hlanes
  rw [exec_core i s]
  generalize i.core = j at h ⊢
  cases j
  case call c off =>
    intro hhigh hlow hroom hdeep
    exact call_goes h hall ⟨hhigh, hlow⟩ hroom hdeep
  case ret c =>
    intro a hhigh hlow hlanesPop hreplay
    have hcalls (l : Nat) (hl : l ∈ x.list) := (hlanesPop l hl).1
    have hpops (l : Nat) (hl : l ∈ x.list) := (hlanesPop l hl).2
    exact ⟨fun e he => ⟨exec_ret_poisoned h hall hcalls hreplay he, State.popTrap_code he⟩,
      ret_goes h hall hcalls hreplay ⟨hhigh, hlow⟩ hlanes hpops⟩
  all_goals trivial

end Sys2Proof.Machine
end

section
/-! The scalar merge, register by register (R140). -/

namespace Sys2Proof.Machine

/-! ## The split that a merge mode takes -/

theorem leastBy_le {f : Split → Nat} {l : List Split} {m : Split} (h : leastBy f l = some m) : ∀ q ∈ l, f m ≤ f q := by
  induction l generalizing m with
  | nil => cases h
  | cons y ys ih =>
    cases hys : leastBy f ys with
    | none =>
      have hnil : ys = [] := by
        by_contra hne
        obtain ⟨k, hk⟩ := leastBy_isSome (f := f) hne
        rw [hk] at hys
        cases hys
      subst hnil
      cases h
      simp
    | some k =>
      simp only [leastBy, hys] at h
      cases h
      have hk := ih hys
      rw [List.forall_mem_cons]
      split
      · next hle => exact ⟨le_refl _, fun q hq => hle.trans (hk q hq)⟩
      · next hlt => exact ⟨(Nat.lt_of_not_le hlt).le, hk⟩

theorem Split.highLane_lt (sp : Split) : sp.highLane < 64 := by
  rw [Split.highLane, List.getLastD_eq_getLast?]
  cases h : (sp.lanes.list 64).getLast? with
  | none => decide
  | some l => exact (Lanes.mem_list.mp (List.mem_of_getLast? h)).1

section
variable {base : Cells 32} {arrived : List Split} {n : Nat}

/-- The arrived splits that have written a register. -/
def writersOf (arrived : List Split) (n : Nat) : List Split := arrived.filter fun sp => sp.written.getLsbD n

theorem mergeReg_unwritten (mode : Nat) (h : writersOf arrived n = []) : mergeReg mode base arrived n = cellGet base n := by
  rw [writersOf] at h
  simp only [mergeReg, h]

theorem mergeReg_single (mode : Nat) {sp : Split} (h : writersOf arrived n = [sp]) : mergeReg mode base arrived n = cellGet sp.sfile n := by
  rw [writersOf] at h
  simp only [mergeReg, h]

variable (h : 1 < (writersOf arrived n).length)
include h

/-- One that several have written is the merge mode's. -/
theorem mergeReg_several (mode : Nat) : mergeReg mode base arrived n =
    match mode with
    | 0 => match leastBy Split.lowLane (writersOf arrived n) with | some sp => cellGet sp.sfile n | none => 0
    | 1 => match leastBy (fun sp => 64 - sp.highLane) (writersOf arrived n) with | some sp => cellGet sp.sfile n | none => 0
    | 2 => cellGet base n
    | _ => (writersOf arrived n).foldl (fun v sp => v ||| cellGet sp.sfile n) 0 := by
  unfold writersOf at h ⊢
  unfold mergeReg
  generalize arrived.filter (fun sp => sp.written.getLsbD n) = w at h
  match w with
  | [] | [_] => exact absurd h (by simp)
  | _ :: _ :: _ => rfl

theorem mergeReg_lowest :
    ∃ sp ∈ writersOf arrived n, (∀ q ∈ writersOf arrived n, sp.lowLane ≤ q.lowLane) ∧ mergeReg 0 base arrived n = cellGet sp.sfile n := by
  obtain ⟨sp, hsp⟩ := leastBy_isSome (f := Split.lowLane) (List.ne_nil_of_length_pos (Nat.zero_lt_of_lt h))
  exact ⟨sp, mem_of_leastBy hsp, leastBy_le hsp, by simp only [mergeReg_several h, hsp]⟩

theorem mergeReg_highest :
    ∃ sp ∈ writersOf arrived n, (∀ q ∈ writersOf arrived n, q.highLane ≤ sp.highLane) ∧ mergeReg 1 base arrived n = cellGet sp.sfile n := by
  obtain ⟨sp, hsp⟩ := leastBy_isSome (f := fun sp => 64 - sp.highLane) (List.ne_nil_of_length_pos (Nat.zero_lt_of_lt h))
  refine ⟨sp, mem_of_leastBy hsp, fun q hq => ?_, by simp only [mergeReg_several h, hsp]⟩
  have hle := leastBy_le hsp q hq
  have hlt := q.highLane_lt
  omega

theorem getLsbD_mergeReg_or (k : Nat) :
    (mergeReg 3 base arrived n).getLsbD k = (writersOf arrived n).any fun sp => (cellGet sp.sfile n).getLsbD k := by
  rw [mergeReg_several h]
  exact (getLsbD_foldl_or (fun sp => cellGet sp.sfile n) _ 0 k).trans (by simp)

end

/-- Settles O37: by the number of the arrived splits that have written the register, and with several by the merge mode. -/
theorem scalarMerge : Obligations.ScalarMerge := by
  intro mode base arrived n w
  refine ⟨mergeReg_unwritten mode, fun _ => mergeReg_single mode, fun h => ⟨?_, ?_, ?_, ?_⟩⟩
  · rintro rfl
    exact mergeReg_lowest h
  · rintro rfl
    exact mergeReg_highest h
  · rintro rfl
    exact mergeReg_several h 2
  · rintro rfl
    exact getLsbD_mergeReg_or h

end Sys2Proof.Machine
end

section
/-! SUPPORT. Words as numbers (R157), add with carry (R159) and the multiplies (R160). -/

namespace Sys2Proof.Machine

/-! ## Words as numbers -/

theorem w32_toNat (v : DWord) : (w32 v).toNat = v.toNat % 2 ^ 32 := BitVec.toNat_setWidth ..

@[simp] theorem ofW_toNat (v : Word) : (ofW v).toNat = v.toNat := BitVec.toNat_setWidth_of_le (by decide)

/-- The high word of a register pair. -/
theorem w32_high_toNat (v : DWord) : (w32 (v >>> 32)).toNat = v.toNat / 2 ^ 32 := by
  have := v.isLt
  rw [w32_toNat, BitVec.toNat_ushiftRight, Nat.shiftRight_eq_div_pow]
  omega

theorem w32_getLsbD {i : Nat} (v : DWord) (h : i < 32) : (w32 v).getLsbD i = v.getLsbD i := by
  rw [w32, BitVec.getLsbD_setWidth, decide_eq_true h, Bool.true_and]

theorem ofW_getLsbD {i : Nat} (v : Word) (h : i < 32) : (ofW v).getLsbD i = v.getLsbD i := by
  rw [← w32_getLsbD _ h, w32_ofW]

/-- A value moved out of its width to the right is zero. -/
theorem toNat_div_eq_zero {w : Nat} (v : BitVec w) {n : Nat} (h : w ≤ n) : v.toNat / 2 ^ n = 0 :=
  Nat.div_eq_of_lt (v.isLt.trans_le (Nat.pow_le_pow_right (by decide) h))

/-- A number wrapped to 64 bits is its high word above the number wrapped to 32 bits. -/
theorem high_append_ofInt (n : Int) : ((BitVec.ofInt 64 n).extractLsb' 32 32 ++ BitVec.ofInt 32 n : DWord) = BitVec.ofInt 64 n := by
  have hlow : BitVec.ofInt 32 n = (BitVec.ofInt 64 n).extractLsb' 0 32 := by
    refine BitVec.eq_of_toNat_eq ?_
    simp only [BitVec.toNat_ofInt, BitVec.extractLsb'_toNat, Nat.shiftRight_zero]
    omega
  rw [hlow]
  exact (BitVec.extractLsb'_append_extractLsb'_eq_extractLsb' (Nat.zero_add 32).symm).trans BitVec.extractLsb'_eq_self

/-! ## Add with carry (R159) -/

/-- A lane's sum and carry out together are the exact sum. -/
theorem laneAddc_exact (a b : DWord) (c : Bool) :
    (laneAddc a b c).1.toNat + 2 ^ 32 * (laneAddc a b c).2.toNat = (w32 a).toNat + (w32 b).toNat + c.toNat := by
  have ha := (w32 a).isLt
  have hb := (w32 b).isLt
  have hc := c.toNat_le
  simp only [laneAddc, BitVec.toNat_ofNat]
  by_cases h : 2 ^ 32 ≤ (w32 a).toNat + (w32 b).toNat + c.toNat
  · rw [decide_eq_true h, Bool.toNat_true]
    omega
  · rw [decide_eq_false h, Bool.toNat_false]
    omega

/-- Settles O27: each sum with its carry out is exact (`laneAddc_exact`), and the carry of the low words counts one in the high ones. -/
theorem carryChain : Obligations.CarryChain := by
  intro a b c lo hi
  have hlo : lo.1.toNat + 2 ^ 32 * lo.2.toNat = _ := laneAddc_exact a b c
  have hhi : hi.1.toNat + 2 ^ 32 * hi.2.toNat = _ := laneAddc_exact (a >>> 32) (b >>> 32) lo.2
  rw [w32_toNat, w32_toNat] at hlo
  rw [w32_high_toNat, w32_high_toNat] at hhi
  omega

/-! ## The multiplies (R160) -/

/-- The low word of a product, as IMUL leaves it in its register. -/
theorem w32_laneMul {ty : Ty} (h : ty.is64 = false) (a b : DWord) : w32 (laneMul ty a b).1 = BitVec.ofInt 32 (ext ty a * ext ty b) := by
  simp [laneMul, reduce, wrap, h]

theorem ext_zero (ty : Ty) : ext ty 0 = 0 := by simp [ext, w32]

/-- IMAD with a zero addend is IMUL. -/
theorem laneMad_zero (ty : Ty) (a b : DWord) : laneMad ty a b 0 = laneMul ty a b := by rw [laneMad, ext_zero, Int.add_zero, laneMul]

/-- What s32 cannot hold raises IV (R61). -/
theorem laneMul_flags_s32 (a b : DWord) :
    (laneMul .s32 a b).2 = if ¬(-2 ^ 31 ≤ ext .s32 a * ext .s32 b ∧ ext .s32 a * ext .s32 b < 2 ^ 31) then flagIV else 0 := by
  rw [laneMul, reduce_flags]
  generalize ext .s32 a * ext .s32 b = n
  have hmin : tyMin .s32 = -2 ^ 31 := rfl
  have hmax : tyMax .s32 = 2 ^ 31 - 1 := rfl
  rw [hmin, hmax]
  congr 1
  simp only [Ty.signed, true_and, eq_iff_iff]
  omega

/-- IMULH's result above IMUL's is the product as 64 bits hold it. -/
theorem laneMulh_append_laneMul {ty : Ty} (h : ty.is64 = false) (a b : DWord) :
    (w32 (laneMulh ty a b).1 ++ w32 (laneMul ty a b).1 : DWord) = BitVec.ofInt 64 (ext ty a * ext ty b) := by
  rw [w32_laneMul h, laneMulh, w32_ofW, high_append_ofInt]

/-- Settles O24: IMULH and IMUL are the two words of one product, and IMUL's flag is that of the reduction to its type. -/
theorem multiplyValues : Obligations.MultiplyValues := by
  rintro ty a b c (rfl | rfl)
  · refine ⟨laneMulh_append_laneMul rfl a b, ?_, rfl, rfl, laneMad_zero ..⟩
    rw [laneMul_flags_s32]
    simp only [true_and]
  · exact ⟨laneMulh_append_laneMul rfl a b, rfl, rfl, rfl, laneMad_zero ..⟩

end Sys2Proof.Machine
end

section
/-! The values of the shifts (R165, R166). -/

namespace Sys2Proof.Machine

/-! ## Shifts of any width -/

/-- A shift to the left multiplies within the width; every count from the width up gives 0. -/
theorem toNat_shiftLeft_or_zero {w : Nat} (v : BitVec w) (n : Nat) :
    (if w ≤ n then 0 else v <<< n).toNat = if n < w then v.toNat * 2 ^ n % 2 ^ w else 0 := by
  split
  · rw [if_neg (by omega), BitVec.ofNat_eq_ofNat, BitVec.toNat_zero]
  · rw [if_pos (by omega), BitVec.toNat_shiftLeft, Nat.shiftLeft_eq]

/-- A shift to the right divides; every count from the width up gives 0, as the division does. -/
theorem toNat_shiftRight_or_zero {w : Nat} (v : BitVec w) (n : Nat) : (if w ≤ n then 0 else v >>> n).toNat = v.toNat / 2 ^ n := by
  split
  · next h => rw [toNat_div_eq_zero v h, BitVec.ofNat_eq_ofNat, BitVec.toNat_zero]
  · rw [BitVec.toNat_ushiftRight, Nat.shiftRight_eq_div_pow]

/-- An arithmetic shift divides and rounds down; a count from the width up leaves what the last one below it leaves, the sign. -/
theorem toInt_sshiftRight_min {w : Nat} (v : BitVec w) (n : Nat) : (v.sshiftRight (min n (w - 1))).toInt = v.toInt / 2 ^ n := by
  rw [BitVec.toInt_sshiftRight, Int.shiftRight_eq_div_pow, Int.natCast_pow, Nat.cast_ofNat]
  rcases Nat.le_total n (w - 1) with h | h
  · rw [Nat.min_eq_left h]
  · have hlo := v.le_toInt
    have hhi := v.toInt_lt
    have hpow : (2 : Int) ^ (w - 1) ≤ 2 ^ n := by exact_mod_cast Nat.pow_le_pow_right (by decide) h
    rw [Nat.min_eq_right h]
    rcases Int.lt_or_le v.toInt 0 with hneg | hpos
    · rw [Int.ediv_eq_neg_one_of_neg_of_le hneg (by omega), Int.ediv_eq_neg_one_of_neg_of_le hneg (by omega)]
    · rw [Int.ediv_eq_zero_of_lt hpos hhi, Int.ediv_eq_zero_of_lt hpos (by omega)]

/-- A rotation to the left moves each bit `n` places up, round the width. -/
theorem getLsbD_rotateLeft_mod {w : Nat} (v : BitVec w) (n : Nat) {i : Nat} (h : i < w) :
    (v.rotateLeft (n % w)).getLsbD ((i + n) % w) = v.getLsbD i := by
  have hr : n % w < w := Nat.mod_lt _ (by omega)
  rw [BitVec.getLsbD_rotateLeft_of_le hr, Nat.add_mod, Nat.mod_eq_of_lt h]
  generalize n % w = r at hr
  rcases Nat.lt_or_ge (i + r) w with hlt | hge
  · rw [Nat.mod_eq_of_lt hlt, decide_eq_false (by omega), cond_false, decide_eq_true hlt, Bool.true_and, Nat.add_sub_cancel]
  · have hsub : (i + r) % w = i + r - w := by rw [Nat.mod_eq_sub_mod hge, Nat.mod_eq_of_lt (by omega)]
    rw [hsub, decide_eq_true (by omega), cond_true, show w - r + (i + r - w) = i by omega]

/-! ## SHL, SHR, SAR and ROT (R165) -/

section
variable (a b : DWord)

theorem laneShl_z32_toNat :
    (laneShl .z32 a b).1.toNat = if (w32 b).toNat < 32 then (w32 a).toNat * 2 ^ (w32 b).toNat % 2 ^ 32 else 0 := by
  have hword : (laneShl .z32 a b).1 = ofW (if 32 ≤ (w32 b).toNat then 0 else w32 a <<< (w32 b).toNat) := by
    rw [apply_ite ofW]
    rfl
  rw [hword, ofW_toNat, toNat_shiftLeft_or_zero]

theorem laneShl_z64_toNat :
    (laneShl .z64 a b).1.toNat = if (w32 b).toNat < 64 then a.toNat * 2 ^ (w32 b).toNat % 2 ^ 64 else 0 := toNat_shiftLeft_or_zero ..

theorem laneShr_z32_toNat : (laneShr .z32 a b).1.toNat = (w32 a).toNat / 2 ^ (w32 b).toNat := by
  have hword : (laneShr .z32 a b).1 = ofW (if 32 ≤ (w32 b).toNat then 0 else w32 a >>> (w32 b).toNat) := by
    rw [apply_ite ofW]
    rfl
  rw [hword, ofW_toNat, toNat_shiftRight_or_zero]

theorem laneShr_z64_toNat : (laneShr .z64 a b).1.toNat = a.toNat / 2 ^ (w32 b).toNat := toNat_shiftRight_or_zero ..

theorem laneSar_s32_toInt : (w32 (laneSar .s32 a b).1).toInt = (w32 a).toInt / 2 ^ (w32 b).toNat := by
  change (w32 (ofW ((w32 a).sshiftRight (min (w32 b).toNat 31)))).toInt = _
  rw [w32_ofW]
  exact toInt_sshiftRight_min ..

theorem laneSar_s64_toInt : (laneSar .s64 a b).1.toInt = a.toInt / 2 ^ (w32 b).toNat := toInt_sshiftRight_min ..

theorem laneRot_z32_getLsbD {i : Nat} (h : i < 32) :
    (laneRot .z32 a b).1.getLsbD ((i + (w32 b).toNat) % 32) = (w32 a).getLsbD i := by
  change (ofW ((w32 a).rotateLeft ((w32 b).toNat % 32))).getLsbD _ = _
  rw [ofW, BitVec.getLsbD_setWidth, decide_eq_true (by omega), Bool.true_and]
  exact getLsbD_rotateLeft_mod _ _ h

theorem laneRot_z64_getLsbD {i : Nat} (h : i < 64) : (laneRot .z64 a b).1.getLsbD ((i + (w32 b).toNat) % 64) = a.getLsbD i :=
  getLsbD_rotateLeft_mod _ _ h

end

/-! ## SHF (R166) -/

section
variable (a b c : DWord)

/-- One word above another, as a number. -/
theorem append_words_toNat (hi lo : Word) : (hi ++ lo : DWord).toNat = hi.toNat * 2 ^ 32 + lo.toNat := by
  rw [BitVec.toNat_append, ← Nat.shiftLeft_add_eq_or_of_lt lo.isLt, Nat.shiftLeft_eq]

theorem laneShf_right_toNat : (laneShf false a b c).1.toNat =
    ((w32 c).toNat * 2 ^ 32 + (w32 a).toNat) / 2 ^ min (w32 b).toNat 32 % 2 ^ 32 := by
  change (ofW (((w32 c ++ w32 a : DWord) >>> min (w32 b).toNat 32).extractLsb' 0 32)).toNat = _
  rw [ofW_toNat, BitVec.extractLsb'_toNat, BitVec.toNat_ushiftRight, append_words_toNat, Nat.shiftRight_zero, Nat.shiftRight_eq_div_pow]

theorem laneShf_left_toNat : (laneShf true a b c).1.toNat =
    ((w32 c).toNat * 2 ^ 32 + (w32 a).toNat) * 2 ^ min (w32 b).toNat 32 % 2 ^ 64 / 2 ^ 32 := by
  change (ofW (((w32 c ++ w32 a : DWord) <<< min (w32 b).toNat 32).extractLsb' 32 32)).toNat = _
  rw [ofW_toNat, BitVec.extractLsb'_toNat, BitVec.toNat_shiftLeft, append_words_toNat, Nat.shiftLeft_eq, Nat.shiftRight_eq_div_pow]
  omega

/-- A count of 32 or more gives the word that the shift moves to the place read. -/
theorem laneShf_of_le (h : 32 ≤ (w32 b).toNat) : (laneShf false a b c).1 = ofW (w32 c) ∧ (laneShf true a b c).1 = ofW (w32 a) := by
  have ha := (w32 a).isLt
  have hc := (w32 c).isLt
  refine ⟨BitVec.eq_of_toNat_eq ?_, BitVec.eq_of_toNat_eq ?_⟩
  · rw [laneShf_right_toNat, Nat.min_eq_right h, ofW_toNat]
    omega
  · rw [laneShf_left_toNat, Nat.min_eq_right h, ofW_toNat]
    omega

end

/-- Settles O25, instruction by instruction and width by width. -/
theorem shiftValues : Obligations.ShiftValues := by
  refine ⟨fun a b => ⟨laneShl_z32_toNat a b, laneShl_z64_toNat a b, laneShr_z32_toNat a b, laneShr_z64_toNat a b, laneSar_s32_toInt a b,
    laneSar_s64_toInt a b, fun i => laneRot_z32_getLsbD a b, fun i => laneRot_z64_getLsbD a b⟩, fun a b c => ?_⟩
  exact ⟨laneShf_right_toNat a b c, laneShf_left_toNat a b c, laneShf_of_le a b c, fun left => rfl⟩

end Sys2Proof.Machine
end

section
/-! The values of the bit-field and bit-count instructions (R167, R168). -/

namespace Sys2Proof.Machine

/-! ## BFE and BFI (R167) -/

/-- The position that B gives a field. -/
def fieldPos (b : DWord) : Nat := (b.extractLsb' 0 8).toNat

/-- The length that B gives a field. -/
def fieldLen (b : DWord) : Nat := (b.extractLsb' 8 8).toNat

/-- The field of A that B names, with zeros above bit 31. -/
def fieldOf (a b : DWord) : Nat := (w32 a).toNat / 2 ^ fieldPos b % 2 ^ min (fieldLen b) 32

section
variable (a b c : DWord)

theorem fieldOf_lt : fieldOf a b < 2 ^ min (fieldLen b) 32 := Nat.mod_lt _ (by positivity)

theorem fieldOf_lt_word : fieldOf a b < 2 ^ 32 := (fieldOf_lt a b).trans_le (Nat.pow_le_pow_right (by decide) (Nat.min_le_right ..))

/-- BFE of no bits gives 0. -/
theorem laneBfe_of_empty (ty : Ty) (h : fieldLen b = 0) : laneBfe ty a b = (0, 0) := if_pos h

/-- BFE's field, as its type reads it; at a position past bit 31 the field is 0. -/
theorem laneBfe_of_pos (ty : Ty) (h : 0 < fieldLen b) : (laneBfe ty a b).1 =
    ofW (if ty.signed && 2 ^ (min (fieldLen b) 32 - 1) ≤ fieldOf a b
      then BitVec.ofInt 32 ((fieldOf a b : Int) - (2 ^ min (fieldLen b) 32 : Nat)) else BitVec.ofNat 32 (fieldOf a b)) := by
  have hfield : (if fieldPos b < 32 then (w32 a).toNat / 2 ^ fieldPos b else 0) % 2 ^ min (fieldLen b) 32 = fieldOf a b := by
    unfold fieldOf
    split
    · rfl
    · next hp => rw [toNat_div_eq_zero _ (Nat.le_of_not_lt hp)]
  rw [← hfield]
  exact congrArg Prod.fst (if_neg (Nat.ne_of_gt h))

theorem laneBfe_z32_toNat : (laneBfe .z32 a b).1.toNat = fieldOf a b := by
  rcases Nat.eq_zero_or_pos (fieldLen b) with h | h
  · rw [laneBfe_of_empty a b _ h, fieldOf, h, Nat.zero_min, Nat.pow_zero, Nat.mod_one]
    rfl
  · rw [laneBfe_of_pos a b _ h, ofW_toNat]
    exact (BitVec.toNat_ofNat ..).trans (Nat.mod_eq_of_lt (fieldOf_lt_word a b))

/-- BFE's signed field: its top bit, at the width at which it was read, is its sign. -/
theorem laneBfe_s32_toInt (h : 0 < fieldLen b) : (w32 (laneBfe .s32 a b).1).toInt =
    if 2 ^ (min (fieldLen b) 32 - 1) ≤ fieldOf a b then (fieldOf a b : Int) - (2 ^ min (fieldLen b) 32 : Nat) else fieldOf a b := by
  have hlt := fieldOf_lt a b
  rw [laneBfe_of_pos a b _ h, w32_ofW]
  generalize fieldOf a b = f at hlt
  obtain ⟨m, hm⟩ : ∃ m, min (fieldLen b) 32 = m + 1 := ⟨min (fieldLen b) 32 - 1, by omega⟩
  have hword : 2 ^ m ≤ 2 ^ 31 := Nat.pow_le_pow_right (by decide) (by omega)
  rw [hm, Nat.pow_succ] at hlt
  rw [hm, Nat.add_sub_cancel, Nat.pow_succ]
  simp only [Ty.signed, Bool.true_and, decide_eq_true_eq]
  split
  · exact BitVec.toInt_ofInt_eq_self (by decide) (by omega) (by omega)
  · rw [BitVec.toInt_ofNat', Int.bmod_eq_of_le (by omega) (by omega)]

/-- The bits of C that BFI replaces. -/
def fieldMask (b : DWord) : Word := BitVec.ofNat 32 ((2 ^ min (fieldLen b) (32 - fieldPos b) - 1) * 2 ^ fieldPos b)

theorem fieldMask_getLsbD {i : Nat} (h : i < 32) :
    (fieldMask b).getLsbD i = decide (fieldPos b ≤ i ∧ i < fieldPos b + fieldLen b) := by
  rw [fieldMask, BitVec.getLsbD_ofNat, decide_eq_true h, Bool.true_and, Nat.testBit_mul_two_pow, Nat.testBit_two_pow_sub_one, ← Bool.decide_and]
  exact decide_eq_decide.mpr (by omega)

theorem laneBfi_eq : (laneBfi a b c).1 =
    ofW (if fieldLen b = 0 ∨ 32 ≤ fieldPos b then w32 c else (w32 c &&& ~~~fieldMask b) ||| ((w32 a <<< fieldPos b) &&& fieldMask b)) := by
  change (if (decide (fieldLen b = 0) || decide (32 ≤ fieldPos b)) = true then ((_, _) : Res) else (_, _)).1 = _
  simp only [Bool.or_eq_true, decide_eq_true_eq]
  split <;> rfl

/-- BFI, bit by bit. -/
theorem laneBfi_getLsbD {i : Nat} (h : i < 32) : (laneBfi a b c).1.getLsbD i =
    if fieldPos b ≤ i ∧ i < fieldPos b + fieldLen b then (w32 a).getLsbD (i - fieldPos b) else (w32 c).getLsbD i := by
  rw [laneBfi_eq, ofW_getLsbD _ h]
  split
  · rw [if_neg (by omega)]
  · rw [BitVec.getLsbD_or, BitVec.getLsbD_and, BitVec.getLsbD_and, BitVec.getLsbD_not, BitVec.getLsbD_shiftLeft, fieldMask_getLsbD b h]
    split
    · next hin => simp [hin, h]
    · next hout => simp [hout, h]

/-- BFE reads back the field that BFI inserted. -/
theorem fieldOf_laneBfi (h : fieldPos b + fieldLen b ≤ 32) : fieldOf (laneBfi a b c).1 b = (w32 a).toNat % 2 ^ fieldLen b := by
  refine Nat.eq_of_testBit_eq fun i => ?_
  rw [fieldOf, Nat.min_eq_left (by omega), Nat.testBit_mod_two_pow, Nat.testBit_mod_two_pow, Nat.testBit_div_two_pow]
  rcases Nat.lt_or_ge i (fieldLen b) with hi | hi
  · have hbit : (w32 (laneBfi a b c).1).getLsbD (i + fieldPos b) = (w32 a).getLsbD i := by
      rw [w32_getLsbD _ (by omega), laneBfi_getLsbD a b c (by omega), if_pos (by omega), Nat.add_sub_cancel]
    exact congrArg (decide _ && ·) hbit
  · rw [decide_eq_false (Nat.not_lt.mpr hi), Bool.false_and, Bool.false_and]

end

/-! ## POPC, CLZ and BREV (R168) -/

theorem popCount_le (v : DWord) (n : Nat) : popCount v n ≤ n := by
  induction n with
  | zero => exact Nat.le_refl 0
  | succ n ih =>
    have := (v.getLsbD n).toNat_le
    rw [popCount]
    omega

/-- Each bit is one in a value or in its complement. -/
theorem popCount_add_not (v : DWord) {n : Nat} (h : n ≤ 64) : popCount v n + popCount (~~~v) n = n := by
  induction n with
  | zero => rfl
  | succ n ih =>
    have hbit : (v.getLsbD n).toNat + ((~~~v).getLsbD n).toNat = 1 := by
      rw [BitVec.getLsbD_not, decide_eq_true (by omega), Bool.true_and]
      cases v.getLsbD n <;> rfl
    have := ih (by omega)
    rw [popCount, popCount]
    omega

theorem regBits_le (ty : Ty) : regBits ty ≤ 64 := by unfold regBits; split <;> decide

theorem ofNat_toNat_of_le {n : Nat} (h : n ≤ 64) : (BitVec.ofNat 64 n).toNat = n := by
  rw [BitVec.toNat_ofNat, Nat.mod_eq_of_lt (by omega)]

theorem lanePopc_toNat (ty : Ty) (a : DWord) : (lanePopc ty a).1.toNat = popCount a (regBits ty) :=
  ofNat_toNat_of_le ((popCount_le ..).trans (regBits_le ty))

theorem lanePopc_add_not (ty : Ty) (a : DWord) : (lanePopc ty a).1.toNat + (lanePopc ty (~~~a)).1.toNat = regBits ty := by
  rw [lanePopc_toNat, lanePopc_toNat, popCount_add_not a (regBits_le ty)]

theorem laneClz_toNat (ty : Ty) (a : DWord) : (laneClz ty a).1.toNat = regBits ty - bitLen (fit ty a).toNat :=
  ofNat_toNat_of_le ((Nat.sub_le ..).trans (regBits_le ty))

/-- The highest one bit of a nonzero value lies just below its leading zeros. -/
theorem laneClz_bounds (ty : Ty) (a : DWord) {w : Nat} (hty : regBits ty = w) {v : BitVec w} (hv : (fit ty a).toNat = v.toNat) (h : v ≠ 0) :
    let z := (laneClz ty a).1.toNat
    z < w ∧ 2 ^ (w - 1 - z) ≤ v.toNat ∧ v.toNat < 2 ^ (w - z) := by
  have hne : v.toNat ≠ 0 := fun hz => h (BitVec.eq_of_toNat_eq (hz.trans BitVec.toNat_zero.symm))
  have hlog : Nat.log2 v.toNat < w := (Nat.log2_lt hne).mpr v.isLt
  have hz : (laneClz ty a).1.toNat = w - 1 - Nat.log2 v.toNat := by
    rw [laneClz_toNat, hty, hv, bitLen, if_neg hne]
    omega
  dsimp only
  rw [hz, show w - 1 - (w - 1 - Nat.log2 v.toNat) = Nat.log2 v.toNat by omega,
    show w - (w - 1 - Nat.log2 v.toNat) = Nat.log2 v.toNat + 1 by omega]
  exact ⟨by omega, Nat.log2_self_le hne, Nat.lt_log2_self⟩

theorem laneClz_z32_zero {a : DWord} (h : w32 a = 0) : (laneClz .z32 a).1 = 32 := by
  have hfit : fit .z32 a = 0 := congrArg ofW h
  rw [laneClz, hfit]
  rfl

/-- Reversing the low `k` bits of `n` moves bit `i` of them to `n - 1 - i`, and leaves the places of the others empty. -/
theorem reverseBits_getLsbD (v : DWord) {n k : Nat} (hk : k ≤ n) (hn : n ≤ 64) {i : Nat} (hi : i < n) :
    (reverseBits v n k).getLsbD (n - 1 - i) = (decide (i < k) && v.getLsbD i) := by
  induction k with
  | zero => exact BitVec.getLsbD_zero
  | succ k ih =>
    have hlast : (if v.getLsbD k then (1#64) <<< (n - 1 - k) else 0).getLsbD (n - 1 - i) = (decide (i = k) && v.getLsbD k) := by
      cases v.getLsbD k
      · rw [Bool.and_false]
        exact BitVec.getLsbD_zero
      · rw [if_pos rfl, ← BitVec.twoPow_eq, BitVec.getLsbD_twoPow, decide_eq_true (by omega), Bool.true_and, Bool.and_true]
        exact decide_eq_decide.mpr (by omega)
    rw [reverseBits, BitVec.getLsbD_or, ih (by omega), hlast]
    rcases Nat.lt_trichotomy i k with h | rfl | h
    · simp [h, h.ne, Nat.lt_succ_of_lt h]
    · simp
    · simp [h.ne', Nat.not_lt.mpr h.le, Nat.not_lt.mpr (Nat.succ_le_of_lt h)]

theorem laneBrev_getLsbD (ty : Ty) (a : DWord) {i : Nat} (h : i < regBits ty) :
    (laneBrev ty a).1.getLsbD (regBits ty - 1 - i) = a.getLsbD i := by
  rw [laneBrev, reverseBits_getLsbD a (Nat.le_refl _) (regBits_le ty) h, decide_eq_true h, Bool.true_and]

/-! ## The statement -/

/-- Settles O26: BFE's field and BFI's bits are those of R167, and the counts and the reversal of R168 hold width by width. -/
theorem bitFieldValues : Obligations.BitFieldValues := by
  refine ⟨fun a b c _ hpk => ⟨?_, fun i hi hout => ?_⟩, fun a b c => ⟨laneBfe_z32_toNat a b, fun h => ?_, laneBfe_s32_toInt a b,
    fun i => laneBfi_getLsbD a b c⟩, fun a => ⟨lanePopc_add_not .z64 a, lanePopc_add_not .z32 a⟩, fun a => laneClz_bounds .z64 a rfl rfl,
    fun a => laneClz_bounds .z32 a rfl (ofW_toNat _), fun a => ⟨rfl, laneClz_z32_zero⟩, fun a i => laneBrev_getLsbD .z64 a,
    fun a i => laneBrev_getLsbD .z32 a⟩
  · rw [laneBfe_z32_toNat, fieldOf_laneBfi a b c hpk]
    rfl
  · rw [laneBfi_getLsbD a b c hi]
    exact if_neg (by unfold fieldPos fieldLen; omega)
  · rw [laneBfe_of_empty a b _ h]

end Sys2Proof.Machine
end

section
/-! Float comparison (R68, R174): the relations as one order and the NaNs give them. -/

namespace Sys2Proof.Machine

/-! ## The relations of two values (R68) -/

/-- Both values are zeros, of whatever sign. -/
def FVal.bothZero (x y : FVal) : Bool := x.dyadic.num = 0 && y.dyadic.num = 0 && (x matches .fin ..) && (y matches .fin ..)

/-- The order of a comparison: that of R68, but that zeros compare equal (R174). -/
def FVal.less (x y : FVal) : Bool := x.below y && !x.bothZero y

/-- Whether a comparison has a NaN among its operands. -/
def FVal.unordered (x y : FVal) : Bool := x.isNan || y.isNan

section
variable (x y : FVal)

theorem FVal.bothZero_comm : x.bothZero y = y.bothZero x := by
  cases x <;> cases y <;> simp [FVal.bothZero, Bool.and_comm]

theorem FVal.unordered_comm : x.unordered y = y.unordered x := Bool.or_comm ..

/-- The order with the operands exchanged, as `FVal.compare` writes it. -/
theorem FVal.less_swapped : y.less x = (y.below x && !x.bothZero y) := by rw [FVal.less, FVal.bothZero_comm]

theorem FVal.compare_un : (FVal.compare .un x y).1 = x.unordered y := rfl
theorem FVal.compare_ord : (FVal.compare .ord x y).1 = !x.unordered y := rfl
theorem FVal.compare_lt : (FVal.compare .lt x y).1 = (!x.unordered y && x.less y) := rfl
theorem FVal.compare_gt : (FVal.compare .gt x y).1 = (!x.unordered y && y.less x) := by rw [FVal.less_swapped]; rfl
theorem FVal.compare_eq : (FVal.compare .eq x y).1 = (!x.unordered y && !x.less y && !y.less x) := by rw [FVal.less_swapped x y]; rfl
theorem FVal.compare_ne : (FVal.compare .ne x y).1 = !(FVal.compare .eq x y).1 := rfl
theorem FVal.compare_le : (FVal.compare .le x y).1 = (!x.unordered y && (x.less y || (FVal.compare .eq x y).1)) := rfl
theorem FVal.compare_ge : (FVal.compare .ge x y).1 = (!x.unordered y && (y.less x || (FVal.compare .eq x y).1)) := by
  rw [FVal.less_swapped]; rfl

/-- Equality does not depend on the order of the operands. -/
theorem FVal.compare_eq_comm : (FVal.compare .eq x y).1 = (FVal.compare .eq y x).1 := by
  rw [FVal.compare_eq, FVal.compare_eq, FVal.unordered_comm, Bool.and_right_comm]

theorem FVal.compare_gt_swapped : (FVal.compare .gt x y).1 = (FVal.compare .lt y x).1 := by
  rw [FVal.compare_gt, FVal.compare_lt, FVal.unordered_comm]

theorem FVal.compare_ge_swapped : (FVal.compare .ge x y).1 = (FVal.compare .le y x).1 := by
  rw [FVal.compare_ge, FVal.compare_le, FVal.unordered_comm, FVal.compare_eq_comm]

/-- Values that are equal are no NaNs, so `.le` needs to ask for NaNs only where it asks for the order. -/
theorem FVal.compare_le_iff : (FVal.compare .le x y).1 = ((FVal.compare .lt x y).1 || (FVal.compare .eq x y).1) := by
  rw [FVal.compare_le, FVal.compare_lt, FVal.compare_eq, Bool.and_or_distrib_left, Bool.and_assoc (!_), ← Bool.and_assoc (!_) (!_),
    Bool.and_self]

end

theorem boolD_beq_one (v : Bool) : (boolD v == 1) = v := by cases v <;> rfl

/-- FSET answers 1 exactly where the relation holds. -/
theorem laneFset_holds (c : Cmp) (ftz : Bool) (a b : DWord) :
    ((laneFset c ftz a b).1 == 1) = (FVal.compare c (f32Of ftz a) (f32Of ftz b)).1 := boolD_beq_one _

/-- Settles O28: FSET answers as `FVal.compare` does (`laneFset_holds`), whose relations all rest on one order and the NaNs. -/
theorem floatComparison : Obligations.FloatComparison := by
  intro ftz a b f
  simp only [f, laneFset_holds]
  refine ⟨FVal.compare_ne .., FVal.compare_ord .., FVal.compare_gt_swapped .., FVal.compare_ge_swapped .., FVal.compare_le_iff .., fun hnan => ?_⟩
  have hun : (f32Of ftz a).unordered (f32Of ftz b) = true := hnan
  simp only [FVal.compare_un, FVal.compare_eq, FVal.compare_lt, hun, Bool.not_true, Bool.false_and, and_self]

end Sys2Proof.Machine
end

section
/-! A lane result that goes to a queue is not due as stated where an operation already has the next identifier (R92, R181, R215, R223). -/

namespace Sys2Proof.Machine

open Sys2Proof.Claims

/-- On the device whose next identifier an operation already has, no result to queue 0 is pending with its latency: the bank goes by the operation
that is due at 1000 (`State.result_due`), and with no request at any bank the statement has the result due at clk `lat + 24`. -/
theorem not_pending_of_stale {i : Instr} {x : Issue} {t : State} (h : Issues staleDevice i x t) (hq : x.i.qField = some (false, 0))
    (hl : x.lanes ≠ 0) (hw : x.wide = false) (hteam : x.g.team = 3) {lat : Nat} (hlat : lat + 24 < 1000) (f e : Nat → Res) :
    ¬ Pending x t (t.result x lat f) lat e := by
  obtain ⟨gs, ps, ms, ht⟩ := h.taken_eq
  have hm : t.teamOf x.g = t.teams.head?.map Prod.snd := by rw [State.teamOf, hteam, ht]; rfl
  have hclk : t.clkOf x.g.core = 0 := by rw [ht]; rfl
  rw [Pending, if_neg (by simpa [hq] using hl)]
  rintro ⟨o, ⟨os, hops, -, -, huid, -⟩, ⟨-, hdue⟩, -⟩
  obtain ⟨d, hd, hle⟩ := State.result_due (b := 1000) hq (hm.trans (by rw [ht]; rfl)) hl (by rw [ht]; rfl) hops huid
  have hland : o.due = some (lat + 24) := by simpa [hclk, hw] using (hdue (by rw [hq]; rfl)).2 (by rw [ht]; rfl)
  have : d = lat + 24 := Option.some.inj (hd.symm.trans hland)
  omega

/-- The number of lanes in which p0 holds, to be pushed to queue 0. -/
def voteToQueue : Instr := .vote ⟨0, 0, 15, false, false, false, 7⟩ .count ⟨.q, 0⟩ ⟨.t, 48⟩

/-- A VOTE that issues has its result outstanding (R181). -/
theorem exec_vote {c : Ctl} {m : VoteMode} {d a : Opnd} {s : State} {x : Issue} {t : State} (h : Issues s (.vote c m d a) x t) :
    exec (.vote c m d a) s = .next (t.result x 8 fun _ => (voteValue m x.lanes (predLanes t x 0), 0)) := by
  delta exec
  exact issue_eq_next h rfl

/-- Refutes O16: a VOTE to a queue on a device where an operation already has the next identifier (which no run reaches) is due with that
operation, at clk 1000, and not at 8 + 24 (`not_pending_of_stale`). -/
theorem not_laneResults : ¬ Obligations.LaneResults := by
  unfold Obligations.LaneResults
  rintro ⟨-, hall⟩
  obtain ⟨x, t, h, hl, hw, hteam⟩ := issues_of_issuesThere (i := voteToQueue) (by decide +kernel)
  obtain ⟨u, hu, hp⟩ := hall voteToQueue staleDevice x t h
  obtain rfl := Host.Outcome.next.inj ((exec_vote h).symm.trans hu)
  exact not_pending_of_stale h (by rw [h.instr_eq]; rfl) hl hw hteam (by decide) _ _ hp

end Sys2Proof.Machine
end

section
/-! SUPPORT. QPUSH and REEL are not due as stated where an operation already has the next identifier (R215, R217, R223, R231). -/

namespace Sys2Proof.Machine

open Sys2Proof.Claims

/-- Where an operation already has the next identifier and is due at `b`, an instruction that asks the bank of a ring word is due no earlier. -/
theorem State.start_askBanks_due {t : State} {x : Issue} {f : Op → Op} {a : BankAsk} {b : Nat} (ha : a.early = true)
    (hb : (t.op? t.nextId).bind (·.due) = some b) (huid : (f (x.op t.nextId)).uid = t.nextId) {os : List Op} {o : Op}
    (ho : ((t.start x f).askBanks t.nextId [a]).ops = os ++ [o]) : ∃ d, o.due = some d ∧ b ≤ d := by
  obtain ⟨p, hp, hdue⟩ := Option.bind_eq_some_iff.mp hb
  have hop : ((t.start x f).op? t.nextId).bind (·.due) = some b := by
    rw [State.op?, State.start_ops, List.find?_append, show List.find? _ t.ops = some p from hp]
    exact hdue
  obtain ⟨g, hops, hlate⟩ := State.askBanks_due ha hop
  rw [hops, State.start_ops, List.map_append, List.map_singleton] at ho
  obtain ⟨-, hlast⟩ := List.append_inj' ho rfl
  cases List.singleton_inj.mp hlast
  exact hlate _ huid

/-! ## QPUSH -/

/-- A QPUSH with an active lane reserves its position and asks the bank of the ring word at TAIL (R217). -/
theorem exec_qpush {c : Ctl} {qn : BitVec 4} {a : Opnd} {s : State} {x : Issue} {t : State} {m : Team} (h : Issues s (.qpush c qn a) x t)
    (hm : t.teamOf x.g = some m) (hl : x.lanes ≠ 0) (hinit : m.initFor x qn.toNat = true) :
    exec (.qpush c qn a) s = .next
      (((t.modTeam m.uid fun m => m.setQueue qn.toNat ((m.queue qn.toNat).reserve t.nextId)).start x fun o =>
        { o with due := some (t.clkOf x.g.core + 24), job := .push m.uid qn.toNat t.nextId (w32 (t.srcLow x 0)) }).askBanks t.nextId
          [m.ringAsk false qn.toNat]) := by
  show execQpush c qn a s = _
  refine issue_eq_next h ?_
  simp only [hm, hl, hinit, if_false, Bool.not_true, Bool.false_eq_true]
  rfl

/-- The handle 1, pushed to queue 0. -/
def pushToQueue : Instr := .qpush ⟨0, 0, 15, false, false, false, 7⟩ 0 ⟨.i, 1⟩

/-- Refutes O48: a QPUSH on a device where an operation already has the next identifier (which no run reaches) is due with that operation, at
clk 1000, and not at 24 (`State.start_askBanks_due`). -/
theorem not_queueInstructions : ¬ Obligations.QueueInstructions := by
  unfold Obligations.QueueInstructions
  intro hall
  obtain ⟨x, t, h, hl, -, hteam⟩ := issues_of_issuesThere (i := pushToQueue) (by decide +kernel)
  obtain ⟨gs, ps, ms, ht⟩ := h.taken_eq
  obtain ⟨m, hm, hmuid, hinit, hqueue⟩ :
      ∃ m, t.teamOf x.g = some m ∧ m.uid = x.g.team ∧ m.initFor x 0 = true ∧ (m.queue 0).init = true :=
    ⟨_, by rw [State.teamOf, hteam, ht]; rfl, hteam.symm, rfl, rfl⟩
  obtain ⟨-, -, hpush⟩ := hall pushToQueue staleDevice x t m h rfl hm hmuid
  obtain ⟨u, o, -, hu, ⟨os, hops, -⟩, ⟨-, hdue⟩, -⟩ := hpush hl hinit hqueue
  obtain rfl := Host.Outcome.next.inj ((exec_qpush h hm hl hinit).symm.trans hu)
  obtain ⟨d, hd, hle⟩ := State.start_askBanks_due (b := 1000) rfl (by rw [ht]; rfl) rfl hops
  have hclk : t.clkOf x.g.core = 0 := by rw [ht]; rfl
  rw [hdue (by rw [ht]; rfl), hclk] at hd
  cases hd
  exact absurd hle (by decide)

/-! ## REEL -/

@[simp] theorem State.setReel_reel? (s : State) (core ctx : Nat) (r : ReelCtx) : (s.setReel core ctx r).reel? core ctx = some r :=
  (tabGet?_tabSet ..).trans (if_pos rfl)

/-- A slice that starts takes at most one identifier, that of a notice, and leaves the operations as they are. -/
theorem State.startSlice_keeps (s : State) (x : Issue) (l : Launch) (ctx qn slice : Nat) :
    ((s.startSlice x l ctx qn slice).2.nextId = s.nextId ∨ (s.startSlice x l ctx qn slice).2.nextId = s.nextId + 1) ∧
      (s.startSlice x l ctx qn slice).2.ops = s.ops := by
  have hnotice (s : State) (k : Nat) (r : TrapRec) (pc : DWord) :
      ((s.postNotice k r pc).nextId = s.nextId ∨ (s.postNotice k r pc).nextId = s.nextId + 1) ∧ (s.postNotice k r pc).ops = s.ops := by
    unfold State.postNotice
    split
    · exact ⟨.inl rfl, rfl⟩
    · split
      · exact ⟨.inl rfl, rfl⟩
      · exact ⟨.inr rfl, rfl⟩
  obtain ⟨m, w, ps, htouch⟩ := s.touch_eq l.asid (l.image.addr + l.image.sliceOff + 8 * slice) 8
  unfold State.startSlice
  rw [htouch]
  dsimp only
  split
  · unfold State.sliceFault
    simp only [State.setReel_reel?]
    exact hnotice ..
  · exact ⟨.inl rfl, rfl⟩

/-- A REEL whose checks pass has a launch, whose image holds its slice. -/
theorem State.launchOf_of_reelBad {t : State} {x : Issue} {qn slice : Nat} (hgood : t.reelBad x qn slice = none) :
    ∃ l, t.launchOf x.g = some l := by
  unfold State.reelBad at hgood
  cases hl : t.launchOf x.g with
  | some l => exact ⟨l, rfl⟩
  | none => simp [hl] at hgood

/-- A REEL that passes its checks starts a slice in a free context, and with a Q-level destination asks the bank of the ring word at TAIL. -/
theorem exec_reel_of_queue {c : Ctl} {qn : BitVec 4} {slice : BitVec 12} {d : Opnd} {s : State} {x : Issue} {t : State} {m : Team} {q : Nat}
    (h : Issues s (.reel c qn slice d) x t) (hq : x.i.qField = some (false, q)) (hm : t.teamOf x.g = some m) (hl : x.lanes ≠ 0)
    (hgood : t.reelBad x qn.toNat slice.toNat = none) :
    ∃ (v : State) (f : Op → Op), exec (.reel c qn slice d) s = .next ((v.start x f).askBanks v.nextId [m.ringAsk false q]) ∧
      (f (x.op v.nextId)).uid = v.nextId ∧ (v.nextId = t.nextId ∨ v.nextId = t.nextId + 1) ∧ v.ops = t.ops := by
  obtain ⟨l, hlaunch⟩ := State.launchOf_of_reelBad hgood
  have hasks : t.ringAsks x = [m.ringAsk false q] := by
    unfold State.ringAsks
    simp only [hq, hm, hl, if_false]
  refine ⟨?v, ?f, ?answer, ?uid, ?keeps⟩
  case answer =>
    show execReel c qn slice d s = _
    refine issue_eq_next h ?_
    simp only [hgood, hlaunch, hl, if_false, hq, Option.isSome_some, if_true, hasks]
    rfl
  case uid => rfl
  case keeps => exact State.startSlice_keeps ..

/-- The handle of slice 0, bound to queue 0, to be pushed there. -/
def reelToQueue : Instr := .reel ⟨0, 0, 15, false, false, false, 7⟩ 0 0 ⟨.q, 0⟩

/-- A device where operations already have the next two identifiers, whose launch has one slice. -/
def staleReel : State :=
  { staleDevice with
    ops := [staleOp, { staleOp with uid := 2 }]
    launches := [(2, { haltedLaunch with image := { haltedLaunch.image with sliceCnt := 1 } })] }

/-- What decides that an instruction issues at a state: its issuer, and that no condition and no check holds it back. -/
def issuesAt (s : State) (e : Issue × State) : Bool :=
  s.cur == .group e.1.g.uid e.1.sp.id e.1.pc e.1.len && s.mayIssue e.1 && !s.overrunDue e.1 && (e.2.issueCheck e.1).isNone &&
    (e.2.queueTrap e.1).isNone

theorem issues_of_issuesAt {s : State} {i : Instr} {p : Issue → Bool} (hcheck : ((s.begin i).any fun e => issuesAt s e && p e.1) = true) :
    ∃ x t, Issues s i x t ∧ p x = true := by
  obtain ⟨⟨x, n⟩, hb, hx⟩ := (Option.any_eq_true ..).mp hcheck
  obtain rfl := State.begin_noted hb
  simp only [issuesAt, Bool.and_eq_true, beq_iff_eq, Bool.not_eq_true', Option.isNone_iff_eq_none] at hx
  obtain ⟨⟨⟨⟨⟨hown, hready⟩, hwithin⟩, hlegal⟩, hqueued⟩, hp⟩ := hx
  exact ⟨x, _, ⟨hown, hb, hready, hwithin, hlegal, hqueued, rfl⟩, hp⟩

theorem reelToQueue_issues : ∃ x t, Issues staleReel reelToQueue x t ∧ x.lanes ≠ 0 ∧ x.g.team = 3 := by
  obtain ⟨x, t, h, hp⟩ := issues_of_issuesAt (s := staleReel) (i := reelToQueue) (p := fun x => x.lanes != 0 && x.g.team == 3)
    (by decide +kernel)
  exact ⟨x, t, h, by simpa using hp⟩

/-- Refutes O49: a REEL to a queue on a device where operations already have the next identifiers (which no run reaches) is due with one of
them, at clk 1000, and not at 28 (`State.start_askBanks_due`). -/
theorem not_engineInstructions : ¬ Obligations.EngineInstructions := by
  unfold Obligations.EngineInstructions
  intro hall
  obtain ⟨x, t, h, hl, hteam⟩ := reelToQueue_issues
  obtain ⟨gs, ps, ms, ht⟩ := h.taken_eq
  obtain ⟨m, hm, hgood⟩ : ∃ m, t.teamOf x.g = some m ∧ t.reelBad x 0 0 = none :=
    ⟨_, by rw [State.teamOf, hteam, ht]; rfl, by rw [State.reelBad, State.launchOf, State.teamOf, hteam, ht]; rfl⟩
  have hq : x.i.qField = some (false, 0) := by rw [h.instr_eq]; rfl
  obtain ⟨u, os, o, -, -, hu, hops, -, -, -, -, -, -, -, -, -, -, -, hdue, -⟩ := hall reelToQueue staleReel x t m h hm hl hgood
  obtain ⟨v, f, hexec, huid, hid, hsame⟩ := exec_reel_of_queue h hq hm hl hgood
  obtain rfl := Host.Outcome.next.inj (hexec.symm.trans hu)
  have hstale : (v.op? v.nextId).bind (·.due) = some 1000 := by
    rw [State.op?, hsame, ht]
    rcases hid with hid | hid <;> rw [hid, ht] <;> rfl
  obtain ⟨n, hn, hle⟩ := State.start_askBanks_due rfl hstale huid hops
  have hclk : t.clkOf x.g.core = 0 := by rw [ht]; rfl
  rw [(hdue (by rw [hq]; rfl)).2 (by rw [ht]; rfl), hclk] at hn
  cases hn
  exact absurd hle (by decide)

end Sys2Proof.Machine
end

section
/-! A slice executes its instructions (R229 to R233). -/

namespace Sys2Proof.Machine

open Sys2Proof.Claims

/-! ## The Reel's turn (R229, R230) -/

/-- The context whose turn it is has its next instruction in hand, and its program counter past it. -/
theorem exec_reelExecute {s : State} {core ctx n : Nat} {r : ReelCtx} {i : Instr} (hready : s.reelReady core ctx = some (r, n, .ok i))
    (hturn : s.reelTurn core = some ctx) :
    exec (.reelExecute core ctx) s = .next
      { State.setReel { s with reelLast := tabSet s.reelLast core ctx } core ctx { r with here := r.pc, pc := r.pc + BitVec.ofNat 64 n } with
        cur := .reel core ctx, agenda := i :: s.agenda } := by
  show execReelExecute core ctx s = _
  unfold execReelExecute
  simp only [hready, hturn, bne_self_eq_false, Bool.false_eq_true, if_false]
  rfl

/-! ## Slice instructions that a group issues (R230) -/

/-- An instruction that stands where it may not traps as an illegal opcode, whatever its effect would be. -/
theorem issueCheck_of_placeIllegal {t : State} {x : Issue} (hmat : (portOf (opcodeOf x.i) == .mat) = false)
    (hplace : placeIllegal x.i x.inHandler = true) : t.issueCheck x = some (x.trap tcOpcode) := by
  unfold State.issueCheck
  simp only [hmat, hplace, Bool.false_and, Bool.false_eq_true, if_false, if_true]

/-- Where a group issues, an instruction that only a slice may hold goes through its issue. -/
theorem sliceOnly_of_begin {s t : State} {i : Instr} {x : Issue} (hb : s.begin i = some (x, t)) (k : Nat → Nat → ReelCtx → State → State) :
    sliceOnly i k s = issue i s fun x s => .ok (s.finish x) := by
  obtain ⟨_, _, _, _, _, _, hcur, -⟩ := State.begin_spec hb
  unfold sliceOnly
  rw [hcur]

/-- It then traps as an illegal opcode. -/
theorem sliceOnly_traps {i : Instr} {s t : State} {x : Issue} {n : BitVec 8} (hb : s.begin i = some (x, t)) (hr : s.mayIssue x = true)
    (ho : s.overrunDue x = false) (hop : opcodeOf i = n) (hn : (portOf n == .mat) = false) (hplace : placeIllegal i x.inHandler = true)
    (k : Nat → Nat → ReelCtx → State → State) : sliceOnly i k s = .next (t.trapAt x (Trap.one 0x01 x.sp.lanes)) := by
  obtain ⟨_, _, _, _, _, _, -, -, hx, -⟩ := State.begin_spec hb
  rw [sliceOnly_of_begin hb]
  exact issue_traps hb hr ho (issueCheck_of_placeIllegal (by rw [hx, hop, hn]) (hx ▸ hplace)) _

/-! ## Slice instructions in their context (R230, R232, R233) -/

/-- In the context whose turn it is, an instruction that only a slice may hold has its effect on that context. -/
theorem sliceOnly_of_reel {s : State} {core ctx : Nat} {r : ReelCtx} (hcur : s.cur = .reel core ctx) (hr : s.reel? core ctx = some r)
    (i : Instr) (k : Nat → Nat → ReelCtx → State → State) : sliceOnly i k s = .next (k core ctx r s) := by
  unfold sliceOnly
  simp only [hcur, hr]

/-- The scalar file after an instruction's result: its S register, or the pair (R230). -/
def reelWrite (sfile : Cells 32) (sl : Slot) (v : DWord) : Cells 32 :=
  let m := cellSet sfile sl.op.idx.toNat (v.extractLsb' 0 32)
  if sl.role.wideWrite then cellSet m (sl.op.idx.toNat + 1) (v.extractLsb' 32 32) else m

theorem cellGet_reelWrite (sfile : Cells 32) (sl : Slot) (v : DWord) (k : Nat) :
    cellGet (reelWrite sfile sl v) k =
      if sl.role.wideWrite = true ∧ k = sl.op.idx.toNat + 1 then v.extractLsb' 32 32
      else if k = sl.op.idx.toNat then v.extractLsb' 0 32
      else cellGet sfile k := by
  unfold reelWrite
  by_cases hw : sl.role.wideWrite = true <;> simp [hw]

/-- The value of an instruction's k-th source in a context (R230). -/
def reelSource (sfile : Cells 32) (i : Instr) (k : Nat) : DWord := match i.reads[k]? with | some sl => reelValue sfile sl | none => 0

/-- An arithmetic instruction writes its result to its context's scalar file and nothing else. -/
theorem exec_of_reel {s : State} {core ctx : Nat} {r : ReelCtx} {i : Instr} {lat : Nat} {f : (Nat → DWord) → Res} {sl : Slot}
    (hcur : s.cur = .reel core ctx) (hr : s.reel? core ctx = some r) (hslice : sliceInstr i = true)
    (htable : integerTable i = some (lat, f) ∨ logicTable i = some (lat, f)) (hdest : i.dest = some sl) :
    exec i s = .next (s.setReel core ctx { r with sfile := reelWrite r.sfile sl (f (reelSource r.sfile i)).1 }) := by
  obtain ⟨c, hctl⟩ : ∃ c, i.ctl = some c := by
    cases i
    case iadd | isub | iaddImm | isubImm | imul | imulImm | movi | shl | lea | nop | aloop | aend | aqput => exact ⟨_, rfl⟩
    all_goals cases hslice
  rw [htable.elim (exec_of_integerTable s) (exec_of_logicTable s)]
  unfold resultOf
  rw [hcur]
  unfold reelCompute
  rw [State.reel?] at hr
  simp only [hr, hctl, hdest]
  rfl

/-- AEND with no loop open ends the slice; else it counts the innermost loop's index up, and goes back while it is below the count (R232). -/
theorem exec_aend_of_reel {s : State} {core ctx : Nat} {r : ReelCtx} (hcur : s.cur = .reel core ctx) (hr : s.reel? core ctx = some r) (c : Ctl) :
    ∃ u r', exec (.aend c) s = .next u ∧ u.reel? core ctx = some r' ∧
      (r.loops = [] → r'.ended = true) ∧
      (∀ start count idx rest, r.loops = (start, count, idx) :: rest →
        cellGet r'.sfile idx = cellGet r.sfile idx + 1 ∧
        (if (cellGet r.sfile idx + 1).toNat < count.toNat then r'.pc = start ∧ r'.loops = r.loops else r'.pc = r.pc ∧ r'.loops = rest)) := by
  show ∃ u r', execAend c s = .next u ∧ _
  unfold execAend
  rw [sliceOnly_of_reel hcur hr]
  cases hloops : r.loops with
  | nil => exact ⟨_, _, rfl, State.setReel_reel? .., fun _ => rfl, nofun⟩
  | cons e rest =>
    obtain ⟨start, count, idx⟩ := e
    refine ⟨_, _, rfl, State.setReel_reel? .., nofun, ?_⟩
    rintro _ _ _ _ ⟨⟩
    split
    · exact ⟨by simp, rfl, rfl⟩
    · exact ⟨by simp, rfl, rfl⟩

/-- ALOOP sets its index to zero, and opens a loop or passes over it (R232). -/
theorem exec_aloop_of_reel {s : State} {core ctx : Nat} {r : ReelCtx} (hcur : s.cur = .reel core ctx) (hr : s.reel? core ctx = some r)
    {m : Team} {next : DWord} (hm : s.team? r.team = some m)
    (hnext : s.afterLoop core m.asid r.stop r.pc 0 ((r.stop - r.pc).toNat / 4 + 1) = some next) (hroom : r.loops.length < 4)
    (c : Ctl) (d a : Opnd) :
    let count := w32 (reelValue r.sfile ⟨.src32, a⟩)
    ∃ u r', exec (.aloop c d a) s = .next u ∧ u.reel? core ctx = some r' ∧ cellGet r'.sfile d.idx.toNat = 0 ∧
      (if count = 0 then r'.pc = next ∧ r'.loops = r.loops
       else r'.pc = r.pc ∧ r'.loops = (r.pc, count, d.idx.toNat) :: r.loops) := by
  intro count
  show ∃ u r', execAloop c d a s = .next u ∧ _
  unfold execAloop
  rw [sliceOnly_of_reel hcur hr]
  simp only [hm, hnext, Nat.not_le.mpr hroom, if_false]
  refine ⟨_, _, rfl, State.setReel_reel? .., ?_⟩
  split
  · exact ⟨by simp, rfl, rfl⟩
  · exact ⟨by simp, rfl, rfl⟩

theorem Team.setQueue_queue (m : Team) (k : Nat) (q : Queue) : (m.setQueue k q).queue k = q :=
  (tabGetD_tabSet ..).trans (if_pos rfl)

/-- AQPUT reserves the position at TAIL of the bound queue, and a thread of the engine fetches its words (R233). -/
theorem exec_aqput_of_reel {s : State} {core ctx : Nat} {r : ReelCtx} (hcur : s.cur = .reel core ctx) (hr : s.reel? core ctx = some r)
    (c : Ctl) {qn : BitVec 4} {sp : Space} {a b : Opnd} {m : Team} {ks kd : List Nat} (hm : s.team? r.team = some m)
    (hq : qn.toNat = r.queue) (hinit : (m.queue qn.toNat).init = true)
    (hclean : s.poisoned (.scratch (m.ringKey (m.queue qn.toNat) (m.queue qn.toNat).tail)) 4 = false)
    (hkeys : State.tileKeys (State.setTeam { s with nextId := s.nextId + 1 } (m.setQueue qn.toNat ((m.queue qn.toNat).reserve s.nextId))) m core sp
      (reelValue r.sfile ⟨if sp = .glob then .adr64 else .adr32, a⟩).toNat (s.ringWord m (m.queue qn.toNat) (m.queue qn.toNat).tail)
      (w32 (reelValue r.sfile ⟨.src32, b⟩)) = .ok (ks, kd)) :
    ∃ th : Thread, th.signal = .push m.uid qn.toNat s.nextId (s.ringWord m (m.queue qn.toNat) (m.queue qn.toNat).tail) ∧ th.src = sp ∧ th.dst = .core ∧
      exec (.aqput c qn sp a b) s = .next
        { State.setTeam { s with nextId := s.nextId + 1 } (m.setQueue qn.toNat ((m.queue qn.toNat).reserve s.nextId)) with
          threads := s.threads ++ [th] } := by
  refine ⟨?th, ?signal, ?src, ?dst, ?answer⟩
  case answer =>
    show execAqput c qn sp a b s = _
    unfold execAqput
    rw [sliceOnly_of_reel hcur hr]
    have hbound : (qn.toNat != r.queue) = false := by simp [hq]
    simp only [hm, hbound, hinit, hclean, hkeys, Bool.not_true, Bool.or_self, Bool.false_eq_true, if_false]
    rfl
  all_goals rfl

/-- Settles O50: the turn takes the ready context (`exec_reelExecute`), a slice instruction that a group issues traps (`sliceOnly_traps`), and in
its context each instruction has the effect that the lemmas above say. -/
theorem sliceInstructions : Obligations.SliceInstructions := by
  refine ⟨?turn, ?group, fun s core ctx r hcur hr => ⟨?nop, ?nopCompact, ?result, exec_aend_of_reel hcur hr, ?aloop, ?aqput⟩⟩
  case turn =>
    intro s core ctx n r i hready hturn
    exact ⟨_, _, exec_reelExecute hready hturn, rfl, rfl, State.setReel_reel? .., rfl, rfl, rfl, .of_eq rfl rfl rfl⟩
  case group =>
    intro i s x t hi hb hr ho
    cases i
    case aloop => delta exec; exact sliceOnly_traps (n := 0xA7) hb hr ho rfl (by decide) rfl _
    case aqput => delta exec; exact sliceOnly_traps (n := 0xA8) hb hr ho rfl (by decide) rfl _
    case aend => delta exec; exact sliceOnly_traps (n := 0xA9) hb hr ho rfl (by decide) rfl _
    all_goals exact hi.elim
  case nop =>
    intro c
    show execNop c s = _
    rw [execNop, hcur]
  case nopCompact =>
    intro c
    show execNopCompact c s = _
    rw [execNopCompact, hcur]
  case result =>
    intro i lat f hslice _ htable sl hdest
    exact ⟨_, _, exec_of_reel hcur hr hslice htable hdest, State.setReel_reel? .., rfl, rfl, rfl, .of_eq rfl rfl rfl,
      fun _ => cellGet_reelWrite ..⟩
  case aloop => exact fun c d a m next hm hnext hroom => exec_aloop_of_reel hcur hr hm hnext hroom c d a
  case aqput =>
    intro c qn sp a b m ks kd hm huid hq hinit q h hclean hkeys
    obtain ⟨th, hsignal, hsrc, hdst, hexec⟩ := exec_aqput_of_reel hcur hr c hm hq hinit hclean hkeys
    refine ⟨_, m.setQueue qn.toNat (q.reserve s.nextId), th, hexec, ?_, by rw [Team.setQueue_queue]; rfl, rfl, hsignal, hsrc, hdst,
      .of_eq rfl rfl rfl⟩
    exact (State.setTeam_team? ..).trans (if_pos huid.symm)

end Sys2Proof.Machine
end

section
/-! SUPPORT. The values of the atomic operations (R254): the exact integer of what each stores. -/

namespace Sys2Proof.Machine

open Sys2Proof.Claims

section
variable {ty : Ty} (h : ty ∈ registerTypes)
include h

/-- Masking a value to its type's register width keeps the integer that the type gives it. -/
theorem ext_fit (v : DWord) : ext ty (fit ty v) = ext ty v := by
  rcases mem_registerTypes.mp h with rfl | rfl | rfl | rfl <;> simp [ext, fit, Ty.is64, Ty.signed]

/-- A type tells the values of its register width apart. -/
theorem fit_eq_fit_iff (a b : DWord) : fit ty a = fit ty b ↔ ext ty a = ext ty b := by
  refine ⟨fun hfit => by rw [← ext_fit h a, hfit, ext_fit h b], fun hext => ?_⟩
  rcases mem_registerTypes.mp h with rfl | rfl | rfl | rfl
  case inl => exact congrArg ofW (BitVec.eq_of_toInt_eq hext)
  case inr.inl => exact congrArg ofW (BitVec.eq_of_toNat_eq (Int.ofNat.inj hext))
  case inr.inr.inl => exact BitVec.eq_of_toInt_eq hext
  case inr.inr.inr => exact BitVec.eq_of_toNat_eq (Int.ofNat.inj hext)

/-- The masked sum of two registers is their exact sum wrapped to the type. -/
theorem fit_add (a b : DWord) : fit ty (a + b) = wrap ty (ext ty a + ext ty b) := by
  rcases mem_registerTypes.mp h with rfl | rfl | rfl | rfl
  all_goals
    simp only [fit, wrap, ext, Ty.is64, Ty.signed, BitVec.ofInt_add, BitVec.ofInt_toInt, BitVec.ofInt_natCast, BitVec.ofNat_toNat,
      BitVec.setWidth_eq, w32, BitVec.setWidth_add _ _ (show 32 ≤ 64 by decide), if_true, Bool.false_eq_true, if_false]

/-- An integer atomic operation is no floating-point one. -/
theorem ne_f32_of_registerType : ty ≠ .f32 := by
  rintro rfl
  exact absurd h (by decide)

end

/-- Settles O44: each operation masks its result to the type's width, which keeps the integer that the type gives (`ext_fit`); the sum is
one of `wrap` (`ext_wrap_congr`). -/
theorem atomicValues : Obligations.AtomicValues := by
  intro ty old b cmp h v
  have hf32 : ty ≠ .f32 := ne_f32_of_registerType h
  simp only [v, atomNew, if_neg hf32, true_and]
  refine ⟨?_, ?_, ?_, ?_⟩
  · rw [fit_add h]
    exact ext_wrap_congr h _
  · rw [apply_ite (ext ty), ext_fit h, ext_fit h, min_def]
  · rw [apply_ite (ext ty), ext_fit h, ext_fit h, max_def]
  · simp only [fit_eq_fit_iff h, apply_ite (ext ty), ext_fit h]

end Sys2Proof.Machine
end

section
/-! SUPPORT. The statement of the memory system's and the tasks' events that fails, with the state at which it does (R245, R255). -/

namespace Sys2Proof.Machine

open Sys2Proof.Claims

/-- A PIN of the 128 bytes at virtual address 0, which its pages have allowed at issue. -/
def pinOp : Op :=
  { uid := 5, grp := 4, hand := false, epoch := 0, split := 0, lanes := 1, splitLanes := 1, set := 0, pc := 0x10000, len := 12
    instr := .pin ⟨0, 0, 15, false, false, false, 7⟩ ⟨.s, 4⟩ ⟨.s, 5⟩, due := none, var := false, dest := none, vals := [], flags := 0
    carry := none, raced := [], job := .range .pin 0 128 }

/-- A device with that PIN under way, whose first page-table line has a partial result out: core 0 has added 2 to its first word. -/
def pinningDevice : State :=
  { State.reset with
    stage := 7, contexts := [(1, newContext 0 1)], launches := [(2, haltedLaunch)], teams := [(3, haltedTeam)]
    groups := [(4, newGroup haltedLaunch 3 4 0 0 0 0)], ops := [pinOp], partials := [⟨0, 0, .add, .z32, 2⟩] }

/-- Refutes O57: the statement has every range instruction leave every byte of memory as it is, but the walk of PIN's page returns first the
partial results of the page table's lines (R245; `State.recallWalk`), here 2 to the first byte of device memory. -/
theorem not_memoryAndTaskEvents : ¬ Obligations.MemoryAndTaskEvents := by
  unfold Obligations.MemoryAndTaskEvents
  rintro ⟨hops, -⟩
  obtain ⟨-, hrange, -⟩ := hops pinningDevice pinOp (newGroup haltedLaunch 3 4 0 0 0 0) rfl rfl rfl
  obtain ⟨u, hu, -, hbytes, -⟩ := hrange .pin 0 128 rfl
  have hexec : exec (.accessComplete 5) pinningDevice = .next ((pinningDevice.rangeDone pinOp .pin 0 128).finishOp pinOp) := rfl
  obtain rfl := Host.Outcome.next.inj (hexec.symm.trans hu)
  exact absurd (hbytes 0).1 (by decide +kernel)

end Sys2Proof.Machine
end

section
/-! SUPPORT. Taking an exception in user code (R245, R330 to R335): the trap table is read without regard to the groups, and what the entry of the
handler leaves. -/

namespace Sys2Proof.Machine

open Sys2Proof.Claims

/-! ## What reads tables and returns partial results does not look at groups -/

/-- The device with other groups and another next identifier. -/
def State.withGroups (s : State) (gs : Tab Group) (n : Nat) : State := { s with groups := gs, nextId := n }

section
variable (s : State) (gs : Tab Group) (n : Nat)

theorem State.mark_withGroups (line : Nat) (cells : List Nat) : (s.withGroups gs n).mark line cells = (s.mark line cells).withGroups gs n := by
  have hv : (s.withGroups gs n).vigil = s.vigil := rfl
  unfold State.mark
  rw [hv]
  split <;> rfl

theorem State.recall_withGroups (line : Nat) : (s.withGroups gs n).recall line = (s.recall line).withGroups gs n :=
  List.foldl_hom (f := (State.withGroups · gs n)) (init := { s with partials := s.partials.filter fun p => p.addr / 128 != line }) fun t _ =>
    State.mark_withGroups { t with dram := t.keepCaps _ _ (writeNat t.dram _ _ _) } ..

theorem State.readHome_withGroups (pa k : Nat) : (s.withGroups gs n).readHome pa k = s.readHome pa k := by
  unfold State.readHome
  rw [State.recall_withGroups]
  rfl

theorem walkFrom_withGroups (va fuel level table : Nat) : walkFrom (s.withGroups gs n) va fuel level table = walkFrom s va fuel level table := by
  induction fuel generalizing level table with
  | zero => rfl
  | succ fuel ih =>
    simp only [walkFrom, State.readHome_withGroups, ih]
    rfl

theorem walkLines_withGroups (va fuel level table : Nat) :
    walkLines (s.withGroups gs n) va fuel level table = walkLines s va fuel level table := by
  induction fuel generalizing level table with
  | zero => rfl
  | succ fuel ih => simp only [walkLines, State.readHome_withGroups, ih]

theorem State.recallWalk_withGroups (asid va : Nat) :
    (s.withGroups gs n).recallWalk asid va = (s.recallWalk asid va).withGroups gs n := by
  have hp : (s.withGroups gs n).partials = s.partials := rfl
  have hc : (s.withGroups gs n).context? asid = s.context? asid := rfl
  unfold State.recallWalk
  simp only [hp, hc, walkLines_withGroups]
  split
  · rfl
  · rfl
  · exact List.foldl_hom (State.withGroups · gs n) fun _ _ => State.recall_withGroups ..

theorem State.xlateWalk_withGroups (asid va : Nat) (need : Need) (priv : Bool) :
    (s.withGroups gs n).xlateWalk asid va need priv = s.xlateWalk asid va need priv := by
  have hc : (s.withGroups gs n).context? asid = s.context? asid := rfl
  have hw : (s.withGroups gs n).walk asid va = s.walk asid va := by simp only [State.walk, hc, walkFrom_withGroups]
  simp only [State.xlateWalk, hw]

theorem State.touch_withGroups (asid va k : Nat) : (s.withGroups gs n).touch asid va k = (s.touch asid va k).withGroups gs n := by
  have hp : (s.withGroups gs n).partials = s.partials := rfl
  unfold State.touch
  rw [hp]
  split
  · rfl
  · refine List.foldl_hom (State.withGroups · gs n) fun t i => ?_
    simp only [State.recallWalk_withGroups, State.xlateWalk_withGroups]
    split
    · exact State.recall_withGroups ..
    · rfl

theorem State.vread_withGroups (asid va k : Nat) : (s.withGroups gs n).vread asid va k = s.vread asid va k := by
  simp only [State.vread, State.xlateWalk_withGroups, State.readHome_withGroups]
  rfl

theorem State.touchTable_withGroups (g : Group) (code : BitVec 8) :
    (s.withGroups gs n).touchTable g code = (s.touchTable g code).withGroups gs n := by
  have hp : (s.withGroups gs n).partials = s.partials := rfl
  have hc : (s.withGroups gs n).contextOf g = s.contextOf g := rfl
  unfold State.touchTable
  simp only [hp, hc, State.touch_withGroups]
  split
  · rfl
  · rfl
  · exact (apply_ite (State.withGroups · gs n) ..).symm

theorem State.trapEntry_withGroups (g : Group) (code : BitVec 8) : (s.withGroups gs n).trapEntry g code = s.trapEntry g code := by
  have hc : (s.withGroups gs n).contextOf g = s.contextOf g := rfl
  simp only [State.trapEntry, hc, State.vread_withGroups]

end

/-! ## One record, posted and delivered -/

/-- The delivery of a trap of one record that resumes at its instruction (R331). -/
def State.soleDelivery (s : State) (g : Group) (split len : Nat) (pc : DWord) (r : TrapRec) : Delivery :=
  { id := s.nextId, clk := s.clkOf g.core, notice := false, code := r.code, sw := false, split := split, pc := pc, len := len
    addr := r.addr.setWidth 56 |>.setWidth 64, more := false, resume := .re, gather := none, debug := false }

/-- A group whose only pending delivery is `d` and whose newest record is `q`. -/
def Group.posted (g : Group) (d : Delivery) (q : FRec) : Group := { g with frq := g.frq ++ [q], deliveries := [d] }

/-- The group once it has entered the handler at `pc` for the delivery `d`. -/
def Group.entered (g : Group) (d : Delivery) (clk : Nat) (pc : DWord) : Group :=
  { g with
    hand := some { bank := handlerBank g d clk pc, serves := d, serial := g.handSerial, exit := none, mapreq := none }
    handSerial := g.handSerial + 1, leaving := false, saveBad := false
    debug := match g.debug with | .step _ => .step none | x => x }

/-- The record of such a trap. -/
def State.soleRecord (s : State) (g : Group) (split : Nat) (pc : DWord) (r : TrapRec) : FRec :=
  { s with nextId := s.nextId + 1 }.mkRec g r s.nextId split pc false false false false none

/-- The group and the device once both have been posted. -/
def State.postedGroup (s : State) (g : Group) (split len : Nat) (pc : DWord) (r : TrapRec) : Group :=
  g.posted (s.soleDelivery g split len pc r) (s.soleRecord g split pc r)

def State.posting (s : State) (g : Group) (split len : Nat) (pc : DWord) (r : TrapRec) : State :=
  s.withGroups (tabSet s.groups g.uid (s.postedGroup g split len pc r)) (s.nextId + 1)

/-- A trap of one record in user code, with nothing pending and room in the queue, posts that record and makes its delivery (R330, R331). -/
theorem State.raiseTrap_single {s : State} {g : Group} (split len : Nat) (pc : DWord) (r : TrapRec) (hhand : g.hand = none)
    (hdebug : g.debug ≠ .stepping) (hdel : g.deliveries = []) (hfrq : g.frq.length < 8) :
    s.raiseTrap g split pc len { recs := [r], sw := false, resume := .re, cb := none, gather := none } =
      (s.posting g split len pc r).deliver g.uid := by
  have hn : g.hand.isSome = false := by simp [hhand]
  have hpost (q : FRec) : [q].foldl postRec g.frq = g.frq ++ [q] := by simp [postRec, hfrq]
  unfold State.raiseTrap
  simp only [hn, hdebug, hdel, if_false, Bool.false_eq_true]
  refine congrArg (State.deliver · g.uid) (congrArg (State.setGroup _) (?_ : _ = s.postedGroup g split len pc r))
  rw [State.postedGroup, Group.posted, ← hpost]
  rfl

/-- A group that holds its slot makes its first pending delivery, an exception's, by entering the handler that the trap table names (R334). -/
theorem State.deliver_handler {s : State} {g : Group} {d : Delivery} {ds : List Delivery} {slot since : Nat} {entry : DWord}
    (hg : s.group? g.uid = some g) (hhand : g.hand = none) (hunw : g.unwinding = none) (hplace : g.place = .active slot since)
    (hdel : g.deliveries = d :: ds) (hnotice : d.notice = false) (hentry : (s.touchTable g d.code).trapEntry g d.code = .handler entry) :
    s.deliver g.uid = (s.touchTable g d.code).setGroup (g.entered d (s.clkOf g.core) entry) := by
  have hslot : g.slot? = some slot := by simp only [Group.slot?, hplace]
  have hclk : (s.touchTable g d.code).clkOf g.core = s.clkOf g.core := by
    obtain ⟨m, w, ps, h⟩ := s.touchTable_eq g d.code
    rw [h]
    rfl
  have hmade : s.deliver g.uid = s.enterHandler g d := by
    simp only [State.deliver, hg, hunw, hhand, hslot, hdel, hnotice, Option.isSome_none, Bool.false_eq_true, if_false, Bool.not_false, if_true]
  rw [hmade]
  simp only [State.enterHandler, hentry, hclk]
  rfl

section
variable (s : State) (g : Group) (split len : Nat) (pc : DWord) (r : TrapRec)

theorem State.posting_group? (uid : Nat) :
    (s.posting g split len pc r).group? uid = if uid = g.uid then some (s.postedGroup g split len pc r) else s.group? uid := tabGet?_tabSet ..

/-- The posting changes nothing that the reading of the trap table looks at. -/
theorem State.posting_touchTable : (s.posting g split len pc r).touchTable (s.postedGroup g split len pc r) r.code =
    (s.touchTable g r.code).withGroups (tabSet s.groups g.uid (s.postedGroup g split len pc r)) (s.nextId + 1) := State.touchTable_withGroups ..

theorem State.posting_trapEntry : ((s.posting g split len pc r).touchTable (s.postedGroup g split len pc r) r.code).trapEntry
    (s.postedGroup g split len pc r) r.code = (s.touchTable g r.code).trapEntry g r.code := by
  rw [State.posting_touchTable, State.trapEntry_withGroups]
  rfl

end

/-- A trap of one record enters the handler that the trap table names (R334). -/
theorem State.raiseTrap_entered {s : State} {g : Group} {slot since : Nat} {entry : DWord} (split len : Nat) (pc : DWord) (r : TrapRec)
    (hhand : g.hand = none) (hunw : g.unwinding = none) (hdebug : g.debug ≠ .stepping) (hplace : g.place = .active slot since)
    (hdel : g.deliveries = []) (hfrq : g.frq.length < 8) (hentry : (s.touchTable g r.code).trapEntry g r.code = .handler entry) :
    s.raiseTrap g split pc len { recs := [r], sw := false, resume := .re, cb := none, gather := none } =
      ((s.touchTable g r.code).withGroups (tabSet s.groups g.uid (s.postedGroup g split len pc r)) (s.nextId + 1)).setGroup
        ((s.postedGroup g split len pc r).entered (s.soleDelivery g split len pc r) (s.clkOf g.core) entry) := by
  have hself := (s.posting_group? g split len pc r g.uid).trans (if_pos rfl)
  have hmade := State.deliver_handler (g := s.postedGroup g split len pc r) hself hhand hunw hplace rfl rfl
    ((s.posting_trapEntry g split len pc r).trans hentry)
  rw [State.raiseTrap_single split len pc r hhand hdebug hdel hfrq, ← State.posting_touchTable]
  exact hmade

/-- Settles O11: the record is posted and its delivery made (`raiseTrap_single`), which enters the handler (`deliver_handler`) that the table
names, the posting having changed nothing that the table's reading looks at (`touchTable_withGroups`, `trapEntry_withGroups`). -/
theorem trapEntersHandler : Obligations.TrapEntersHandler := by
  intro s g split len slot since pc entry r hhand hunw hdebug hplace hdel hfrq hentry
  have hraise := State.raiseTrap_entered split len pc r hhand hunw hdebug hplace hdel hfrq hentry
  let g' := (s.postedGroup g split len pc r).entered (s.soleDelivery g split len pc r) (s.clkOf g.core) entry
  refine ⟨_, g', _, s.soleRecord g split pc r, hraise.symm, ?_, rfl, rfl, rfl, rfl, rfl, rfl, rfl, rfl, rfl, rfl, rfl, rfl, rfl, rfl, rfl, rfl, rfl,
    rfl, rfl, rfl, rfl, rfl, rfl, rfl, rfl, fun hnone => ?_, fun uid hne => ?_⟩
  · exact (State.setGroup_group? ..).trans (if_pos rfl)
  · rw [State.touchTable_of_none _ _ _ hnone]
    exact .refl s
  · exact (State.setGroup_group? ..).trans ((if_neg hne).trans ((tabGet?_tabSet ..).trans (if_neg hne)))

end Sys2Proof.Machine
end

section
/-! SUPPORT. A load and an atomic are performed (R245, R252, R254, R259, R261, R264): what a part brings its lane, and what it leaves in memory. -/

namespace Sys2Proof.Machine

open Sys2Proof.Claims

/-! ## The operation of a performed part -/

theorem State.op?_uid {s : State} {uid : Nat} {o : Op} (h : s.op? uid = some o) : o.uid = uid := by simpa using List.find?_some h

theorem State.mem_uids_of_op? {s : State} {uid : Nat} {o : Op} (h : s.op? uid = some o) : uid ∈ s.ops.map (·.uid) :=
  List.mem_map.mpr ⟨o, List.mem_of_find?_eq_some h, State.op?_uid h⟩

/-- An operation that has been replaced is found under its identifier. -/
theorem State.setOp_op?_self {s : State} {o : Op} (h : o.uid ∈ s.ops.map (·.uid)) : (s.setOp o).op? o.uid = some o := by
  simp only [State.op?, State.setOp_ops]
  generalize s.ops = os at h
  induction os with
  | nil => cases h
  | cons x xs ih =>
    rw [List.map_cons, List.find?_cons]
    by_cases hx : x.uid = o.uid
    · simp [hx]
    · simp only [beq_eq_false_iff_ne.mpr hx, Bool.false_eq_true, if_false]
      exact ih ((List.mem_cons.mp h).resolve_left fun e => hx e.symm)

/-! ### Metering keeps the operations' identifiers -/

theorem State.meter_ops (s : State) (place team n : Nat) (kind : Metered) : (s.meter place team kind n).ops = s.ops := by
  obtain ⟨ms, h⟩ := s.meter_eq place team kind n
  rw [h]

theorem State.meterSlice_ops (s : State) (team : Nat) (l : Loc) : (s.meterSlice team l).ops = s.ops := by
  cases l with
  | glob pa => exact (State.meter_ops ..).trans (State.meter_ops ..)
  | scratch k => rfl
  | pool k => exact State.meter_ops ..

theorem State.setDues_uids (s : State) (q : Nat → Bool) : (s.setDues q).ops.map (·.uid) = s.ops.map (·.uid) := by
  simp only [State.setDues, List.map_map]
  refine List.map_congr_left fun o _ => ?_
  simp only [Function.comp_apply]
  split <;> rfl

theorem State.takeBank_uids (s : State) (key : Nat) : (s.takeBank key).ops.map (·.uid) = s.ops.map (·.uid) := by
  unfold State.takeBank
  dsimp only
  split <;> exact State.setDues_uids ..

theorem State.meterUnit_uids (s : State) (g : Group) (a : Access) (u : AccUnit) (hit : Bool) :
    (s.meterUnit g a u hit).ops.map (·.uid) = s.ops.map (·.uid) := by
  have hm (place : Nat) (kind : Metered) : (s.meter place g.team kind 1).ops.map (·.uid) = s.ops.map (·.uid) := by
    rw [State.meter_ops]
  unfold State.meterUnit
  dsimp only
  split
  · split
    all_goals split
    · exact hm ..
    · exact (State.takeBank_uids ..).trans (hm ..)
    · exact hm ..
    · exact (State.takeBank_uids ..).trans (hm ..)
  · rw [State.meterSlice_ops]
  · split
    · exact hm ..
    · split <;> simp only [State.meterSlice_ops, State.meter_ops]

/-! ### The lane's value -/

/-- What stands in a part's lane once the part has been performed with `d`, where `old` stood there: its bytes at their place, and a load's
whole element extended by its type (R252). -/
def Access.laneAfter (a : Access) (k : Nat) (v : AccUnit) (d : Done) (old : DWord) : DWord :=
  let raw := if d.poisoned then old else old ||| (d.val <<< (8 * v.off))
  match a.kind with
  | .load ty =>
    if { a with units := a.units.set k { v with performed := true, ret := d.ret, poisoned := d.poisoned }, release := none }.laneDone v.lane then
      extendTy ty raw
    else raw
  | _ => raw

/-- A performed part leaves its operation with the lane's value. -/
theorem State.performUnit_op? {s : State} {uid k : Nat} {o : Op} {a : Access} {v : AccUnit} {g : Group}
    (ho : s.op? uid = some o) (hj : o.job = .access a) (hu : a.units[k]? = some v) (hcb : a.cb = none) (hg : s.group? o.grp = some g)
    (hops : (s.performAt g a v).s.ops = s.ops) :
    ∃ o', (s.performUnit uid k).op? uid = some o' ∧
      cellGet o'.vals v.lane = a.laneAfter k v (s.performAt g a v) (cellGet o.vals v.lane) := by
  have huid := State.op?_uid ho
  unfold State.performUnit
  simp only [ho, hj, hg, hu, hcb, State.modGroup_op?]
  subst huid
  refine ⟨_, State.setOp_op?_self ?_, (cellGet_cellSet ..).trans (if_pos rfl)⟩
  rw [State.meterUnit_uids, hops]
  exact State.mem_uids_of_op? ho

/-- The whole of a lane that no part had brought anything: what the part has read, extended by a load's type where the part is the lane's only
one. -/
theorem Access.laneAfter_load {a : Access} {k : Nat} {v : AccUnit} {d : Done} {ty : Ty} (hkind : a.kind = .load ty) (hoff : v.off = 0)
    (hd : d.poisoned = false) (honly : ∀ j w, a.units[j]? = some w → w.lane = v.lane → j = k) : a.laneAfter k v d 0 = extendTy ty d.val := by
  have hdone : { a with units := a.units.set k { v with performed := true, ret := d.ret, poisoned := d.poisoned }, release := none }.laneDone
      v.lane = true := by
    refine List.all_eq_true.mpr fun w hw => ?_
    obtain ⟨j, hj⟩ := List.mem_iff_getElem?.mp hw
    rw [List.getElem?_set] at hj
    split at hj
    · split at hj
      · obtain rfl := Option.some.inj hj
        simp
      · cases hj
    · next hne =>
      have hlane : w.lane ≠ v.lane := fun h => hne (honly j w hj h).symm
      simp [hlane]
  unfold Access.laneAfter
  rw [hdone]
  simp [hkind, hd, hoff]

theorem Access.laneAfter_atom {a : Access} {k : Nat} {v : AccUnit} {d : Done} {ty : Ty} {op : AtomOp} {ret : Bool}
    (hkind : a.kind = .atom ty op ret) (hoff : v.off = 0) (hd : d.poisoned = false) : a.laneAfter k v d 0 = d.val := by
  simp [Access.laneAfter, hkind, hd, hoff]

/-! ## The load -/

/-- A load in a scratchpad or a slice pool reads its location (R252). -/
theorem State.performAt_load {s : State} {g : Group} {a : Access} {u : AccUnit} {ty : Ty} (h : a.kind = .load ty)
    (hl : ∀ pa, u.loc ≠ .glob pa) (hp : s.poisoned u.loc u.size = false) :
    s.performAt g a u = ⟨BitVec.ofNat 64 (s.readLoc u.loc u.size), false, 0, s⟩ := by
  unfold State.performAt
  rw [h]
  cases hu : u.loc with
  | glob pa => exact absurd hu (hl pa)
  | scratch p => rw [hu] at hp; simp [hp]
  | pool p => rw [hu] at hp; simp [hp]

/-- The grant of a lease changes the copies and the leases alone. -/
theorem State.grantCopy_eq (s : State) (core line lcls : Nat) :
    ∃ cs ls, s.grantCopy core line lcls = { s with copies := cs, leases := ls } := by
  unfold State.grantCopy
  split
  · exact ⟨s.copies, s.leases, rfl⟩
  · dsimp only
    split
    · exact ⟨_, _, rfl⟩
    · split <;> exact ⟨_, _, rfl⟩

/-- A load of device memory that no copy answers reads the home and is granted a lease (R261). -/
theorem State.loadGlob_home {s : State} {g : Group} {pa n lcls : Nat} {miss : Bool} (hmiss : miss = true ∨ s.hitCopy? g pa n lcls = none)
    (hp : s.poisonLines.contains (pa / 128) = false) (hq : ∀ q ∈ s.partials, q.addr / 128 ≠ pa / 128) :
    s.loadGlob g pa n lcls miss = ⟨BitVec.ofNat 64 (readNat s.dram pa n), false, 0, s.grantCopy g.core (pa / 128) lcls⟩ := by
  have hnone : (if miss then none else s.hitCopy? g pa n lcls) = none := by
    rcases hmiss with h | h
    · rw [h, if_pos rfl]
    · rw [h, ite_self]
  simp only [State.loadGlob, hnone, hp, State.recall_of_none s _ hq, Bool.false_eq_true, if_false]

/-- A load that no copy answers reads its location; of the device it changes at most copies and leases. -/
theorem State.performAt_load_eq {s : State} {g : Group} {a : Access} {v : AccUnit} {ty : Ty} (hkind : a.kind = .load ty)
    (hclean : match v.loc with
      | .glob p => s.hitCopy? g p v.size v.lcls = none ∧ s.poisonLines.contains (p / 128) = false ∧ ∀ q ∈ s.partials, q.addr / 128 ≠ p / 128
      | loc => s.poisoned loc v.size = false) :
    ∃ cs ls, s.performAt g a v = ⟨BitVec.ofNat 64 (s.readLoc v.loc v.size), false, 0, { s with copies := cs, leases := ls }⟩ := by
  cases hl : v.loc with
  | glob p =>
    simp only [hl] at hclean
    obtain ⟨hmiss, hpoison, hpart⟩ := hclean
    obtain ⟨cs, ls, h⟩ := s.grantCopy_eq g.core (p / 128) v.lcls
    refine ⟨cs, ls, ?_⟩
    simp only [State.performAt, hl, hkind]
    rw [State.loadGlob_home (.inr hmiss) hpoison hpart, h]
    rfl
  | scratch p =>
    rw [← hl, State.performAt_load hkind (by simp [hl]) (by simpa [hl] using hclean)]
    exact ⟨s.copies, s.leases, rfl⟩
  | pool p =>
    rw [← hl, State.performAt_load hkind (by simp [hl]) (by simpa [hl] using hclean)]
    exact ⟨s.copies, s.leases, rfl⟩

/-- Settles O42: the part reads its location and changes at most copies and leases (`performAt_load_eq`); its operation has the element
extended (`laneAfter_load`), and nothing else changes (`performUnit_frame`). -/
theorem loadPerforms : Obligations.LoadPerforms := by
  intro s uid k o a v g ty hturn hkind hoff hsize honly hold hclean
  have hexec := exec_accessPerform_atTurn hturn
  obtain ⟨-, ho, -, hj, hu, -, hcb, hg, -⟩ := hturn
  obtain ⟨cs, ls, hat⟩ := State.performAt_load_eq hkind hclean
  obtain ⟨hregs, hteams, hdram, hscratch, hpool⟩ := State.performUnit_frame ho hj hu hcb hg
  obtain ⟨o', ho', hval⟩ := State.performUnit_op? ho hj hu hcb hg (by rw [hat])
  rw [hat] at hregs hteams hdram hscratch hpool hval
  refine ⟨_, o', hexec, ho', ?_, hregs, hteams, .of_eq hdram hscratch hpool⟩
  rw [hval, hold, Access.laneAfter_load hkind hoff rfl honly]

/-! ## The atomic -/

/-- An atomic in a scratchpad or a slice pool reads its location and writes the new value there (R254). -/
theorem State.performAt_atom {s : State} {g : Group} {a : Access} {u : AccUnit} {ty : Ty} {op : AtomOp} {ret : Bool}
    (h : a.kind = .atom ty op ret) (hl : ∀ pa, u.loc ≠ .glob pa) (hp : s.poisoned u.loc u.size = false) :
    s.performAt g a u = ⟨BitVec.ofNat 64 (s.readLoc u.loc u.size), false, 0,
      s.writeLoc u.loc u.size (atomNew op ty (BitVec.ofNat 64 (s.readLoc u.loc u.size)) u.data u.cmp).toNat⟩ := by
  unfold State.performAt
  rw [h]
  cases hu : u.loc with
  | glob pa => exact absurd hu (hl pa)
  | scratch p => rw [hu] at hp; simp [hp]
  | pool p => rw [hu] at hp; simp [hp]

theorem State.poisonLines_of_poisoned {s : State} {p n : Nat} (h : s.poisoned (.glob p) n = false) : s.poisonLines.contains (p / 128) = false :=
  (Bool.or_eq_false_iff.mp h).1

/-- ATOM of device memory is one read-modify-write at the home (R264). -/
theorem State.performAt_atom_glob {s : State} {g : Group} {a : Access} {u : AccUnit} {ty : Ty} {op : AtomOp} {p : Nat}
    (h : a.kind = .atom ty op true) (hl : u.loc = .glob p) (hsize : u.size = atomSize ty) (hp : s.poisoned u.loc u.size = false)
    (hq : ∀ q ∈ s.partials, q.addr / 128 ≠ p / 128) :
    s.performAt g a u = ⟨BitVec.ofNat 64 (s.readLoc u.loc u.size), false, s.writeTime p,
      s.writeLoc u.loc u.size (atomNew op ty (BitVec.ofNat 64 (s.readLoc u.loc u.size)) u.data u.cmp).toNat⟩ := by
  rw [hl] at hp
  simp only [State.performAt, h, hl, State.poisonLines_of_poisoned hp, State.homeAtom, State.recall_of_none s _ hq, hsize]
  rfl

/-- ATOMR of device memory, where no core holds a partial result of the line, leaves its core one (R245). -/
theorem State.performAt_atomr_glob {s : State} {g : Group} {a : Access} {u : AccUnit} {ty : Ty} {op : AtomOp} {p : Nat}
    (h : a.kind = .atom ty op false) (hl : u.loc = .glob p) (hp : s.poisoned u.loc u.size = false)
    (hq : ∀ q ∈ s.partials, q.addr / 128 ≠ p / 128) :
    (s.performAt g a u).s = { s.dropCopy g.core (p / 128) with partials := s.partials ++ [⟨g.core, p, op, ty, fit ty u.data⟩] } := by
  have hmine : (s.partials.any fun q => q.core == g.core && q.addr == p) = false := by
    refine List.any_eq_false.mpr fun q hmem => ?_
    have hne : q.addr ≠ p := fun e => hq q hmem (by rw [e])
    simp [hne]
  rw [hl] at hp
  simp only [State.performAt, h, hl, State.poisonLines_of_poisoned hp, State.updateOnly, State.recall_of_none s _ hq, ite_self]
  have hdrop : (s.dropCopy g.core (p / 128)).partials = s.partials := rfl
  simp [hdrop, hmine]

/-- Where one core alone holds a partial result of a line, the recall of the line applies that one. -/
theorem State.recall_single {s : State} {ps : List Partial} {p : Partial} (hs : s.partials = ps ++ [p])
    (hq : ∀ q ∈ ps, q.addr / 128 ≠ p.addr / 128) (hc : p.core < 256) : s.recall (p.addr / 128) = applyPartial { s with partials := ps } p := by
  have hmine : (s.partials.filter fun q => q.addr / 128 == p.addr / 128) = [p] := by
    rw [hs, List.filter_append, List.filter_eq_nil_iff.mpr fun q hmem => by simpa using hq q hmem]
    simp
  have hrest : (s.partials.filter fun q => q.addr / 128 != p.addr / 128) = ps := by
    rw [hs, List.filter_append, List.filter_eq_self.mpr fun q hmem => by simpa using hq q hmem]
    simp
  have hcores (n : Nat) : (List.range n).flatMap (fun c => [p].filter fun q => q.core == c) = if p.core < n then [p] else [] := by
    induction n with
    | zero => rfl
    | succ n ih =>
      rw [List.range_succ, List.flatMap_append, ih]
      by_cases hn : p.core = n
      · simp [hn]
      · simp [hn, show p.core < n + 1 ↔ p.core < n by omega]
  simp only [State.recall, hmine, hrest, hcores, if_pos hc, List.foldl_cons, List.foldl_nil]

/-- What a write at a location off the capability list leaves in its space. -/
theorem State.writeLoc_glob_bytes {s : State} {p n : Nat} (h : s.offCaps p n = true) (w : DWord) :
    (∀ j < n, cellGet (s.writeLoc (.glob p) n w.toNat).dram (p + j) = w.extractLsb' (8 * j) 8) ∧
      ∀ b, b < p ∨ p + n ≤ b → cellGet (s.writeLoc (.glob p) n w.toNat).dram b = cellGet s.dram b := by
  rw [State.writeLoc_glob_dram, s.keepCaps_off _ _ _ h]
  exact ⟨fun j hj => cellGet_writeNat_of_inside _ _ _ _ _ hj, fun b hb => cellGet_writeNat_of_outside _ _ _ _ _ hb⟩

/-- What a partial result makes of its location, in a device whose memory and capability list are those of `s`. -/
theorem applyPartial_bytes {s u : State} {p : Partial} (hdram : u.dram = s.dram) (hcaps : u.capList = s.capList)
    (h : s.offCaps p.addr (atomSize p.ty) = true) :
    (∀ j < atomSize p.ty, cellGet (applyPartial u p).dram (p.addr + j) =
        (atomNew p.op p.ty (BitVec.ofNat 64 (s.readLoc (.glob p.addr) (atomSize p.ty))) p.val 0).extractLsb' (8 * j) 8) ∧
      ∀ b, b < p.addr ∨ p.addr + atomSize p.ty ≤ b → cellGet (applyPartial u p).dram b = cellGet s.dram b := by
  have hoff : u.offCaps p.addr (atomSize p.ty) = true := by simpa only [State.offCaps, hcaps] using h
  have hold : u.readLoc (.glob p.addr) (atomSize p.ty) = s.readLoc (.glob p.addr) (atomSize p.ty) := by simp only [State.readLoc, hdram]
  rw [← hold, ← hdram]
  exact State.writeLoc_glob_bytes hoff _

theorem State.writeLoc_ops (s : State) (l : Loc) (n v : Nat) : (s.writeLoc l n v).ops = s.ops := by
  obtain ⟨w, p, h⟩ := s.writeLoc_eq l n v
  rw [h]

theorem State.writeLoc_partials (s : State) (l : Loc) (n v : Nat) : (s.writeLoc l n v).partials = s.partials := by
  obtain ⟨w, p, h⟩ := s.writeLoc_eq l n v
  rw [h]

/-- Beside its effect at its place a part changes neither partial results nor the capability list's place. -/
theorem State.performUnit_partials {s : State} {uid k : Nat} {o : Op} {a : Access} {v : AccUnit} {g : Group}
    (ho : s.op? uid = some o) (hj : o.job = .access a) (hu : a.units[k]? = some v) (hcb : a.cb = none) (hg : s.group? o.grp = some g) :
    (s.performUnit uid k).partials = (s.performAt g a v).s.partials ∧ (s.performUnit uid k).capList = (s.performAt g a v).s.capList := by
  obtain ⟨p, n, h⟩ := State.performUnit_eq ho hj hu hcb hg
  have hmeter := State.meterUnit_keeps (fun t => (t.partials, t.capList)) (fun _ _ _ _ _ => rfl)
    (s.performAt g a v).s g a v (s.hitsCopy g a v)
  rw [h]
  exact Prod.mk.inj hmeter

/-- An atomic part that reads `old` and writes the new value leaves the lane with the old one and the memories as the write does. -/
theorem State.performUnit_atom {s : State} {uid k : Nat} {o : Op} {a : Access} {v : AccUnit} {g : Group} {ty : Ty} {op : AtomOp} {ret : Bool}
    {old : DWord} {n w : Nat} (ho : s.op? uid = some o) (hj : o.job = .access a) (hu : a.units[k]? = some v) (hcb : a.cb = none)
    (hg : s.group? o.grp = some g) (hkind : a.kind = .atom ty op ret) (hoff : v.off = 0) (hold : cellGet o.vals v.lane = 0)
    (hat : s.performAt g a v = ⟨old, false, n, s.writeLoc v.loc v.size w⟩) :
    ∃ o', (s.performUnit uid k).op? uid = some o' ∧ cellGet o'.vals v.lane = old ∧ (s.performUnit uid k).partials = s.partials ∧
      (s.performUnit uid k).dram = (s.writeLoc v.loc v.size w).dram ∧ (s.performUnit uid k).scratch = (s.writeLoc v.loc v.size w).scratch ∧
      (s.performUnit uid k).pool = (s.writeLoc v.loc v.size w).pool := by
  obtain ⟨-, -, hdram, hscratch, hpool⟩ := State.performUnit_frame ho hj hu hcb hg
  obtain ⟨hpartials, -⟩ := State.performUnit_partials ho hj hu hcb hg
  obtain ⟨o', ho', hval⟩ := State.performUnit_op? ho hj hu hcb hg (by rw [hat]; exact State.writeLoc_ops ..)
  rw [hat] at hdram hscratch hpool hpartials
  rw [hat, hold, Access.laneAfter_atom hkind hoff rfl] at hval
  exact ⟨o', ho', hval, hpartials.trans (State.writeLoc_partials ..), hdram, hscratch, hpool⟩

/-- Settles O43: an atomic part reads its location and writes the new value there (`performAt_atom`, `performAt_atom_glob`), or leaves its core
a partial result (`performAt_atomr_glob`), which the recall of the line joins with the old value (`recall_single`). -/
theorem atomicPerforms : Obligations.AtomicPerforms := by
  intro s uid k o a v g ty op ret hturn hkind hoff hsize hold hclean old holds
  have hexec := exec_accessPerform_atTurn hturn
  obtain ⟨-, ho, -, hj, hu, -, hcb, hg, -⟩ := hturn
  refine ⟨fun p hl => ?_, fun p hl => ?_, fun p hl hoffCaps hpart => ⟨?_, ?_⟩⟩
  · obtain ⟨o', ho', hval, -, hdram, hscratch, hpool⟩ :=
      State.performUnit_atom ho hj hu hcb hg hkind hoff hold (State.performAt_atom hkind (by simp [hl]) hclean)
    rw [hl] at hdram hscratch hpool
    refine ⟨_, o', hexec, ho', hval, ?_, fun b => by rw [hdram]; rfl, fun b => by rw [hpool]; rfl⟩
    simp only [holds, hscratch, old, hl]
    exact ⟨fun j hj => cellGet_writeNat_of_inside _ _ _ _ _ hj, fun b hb => cellGet_writeNat_of_outside _ _ _ _ _ hb⟩
  · obtain ⟨o', ho', hval, -, hdram, hscratch, hpool⟩ :=
      State.performUnit_atom ho hj hu hcb hg hkind hoff hold (State.performAt_atom hkind (by simp [hl]) hclean)
    rw [hl] at hdram hscratch hpool
    refine ⟨_, o', hexec, ho', hval, ?_, fun b => by rw [hdram]; rfl, fun b => by rw [hscratch]; rfl⟩
    simp only [holds, hpool, old, hl]
    exact ⟨fun j hj => cellGet_writeNat_of_inside _ _ _ _ _ hj, fun b hb => cellGet_writeNat_of_outside _ _ _ _ _ hb⟩
  · rintro rfl
    obtain ⟨o', ho', hval, hpartials, hdram, hscratch, hpool⟩ :=
      State.performUnit_atom ho hj hu hcb hg hkind hoff hold (State.performAt_atom_glob hkind hl hsize hclean hpart)
    rw [hl] at hdram hscratch hpool
    refine ⟨_, o', hexec, ho', hval, hpartials, ?_, fun b => ?_, fun b => ?_⟩
    · simp only [holds, hdram, old, hl]
      exact State.writeLoc_glob_bytes hoffCaps _
    · rw [hscratch, (State.writeLoc_others ..).2.1 (by simp)]
    · rw [hpool, (State.writeLoc_others ..).2.2 (by simp)]
  · rintro rfl hcore
    obtain ⟨-, -, hdram, hscratch, hpool⟩ := State.performUnit_frame ho hj hu hcb hg
    obtain ⟨hpartials, hcaps⟩ := State.performUnit_partials ho hj hu hcb hg
    rw [State.performAt_atomr_glob hkind hl hclean hpart] at hdram hscratch hpool hpartials hcaps
    refine ⟨_, hexec, .of_eq hdram hscratch hpool, hpartials, ?_⟩
    rw [State.recall_single (p := ⟨g.core, p, op, ty, fit ty v.data⟩) hpartials hpart hcore]
    simp only [holds, old, hl, hsize]
    exact applyPartial_bytes (p := ⟨g.core, p, op, ty, fit ty v.data⟩) hdram hcaps (hsize ▸ hoffCaps)

end Sys2Proof.Machine
end

section
/-! SUPPORT. What a memory instruction does at its issue, said once (R239, R244 to R246, R250 to R253): its checks, the parts of its lanes, and the
operation that carries them. -/

namespace Sys2Proof.Machine

open Sys2Proof.Claims

/-! ## What the checks change -/

/-- What the checks of lanes and the removal of lines from the core's cache change: device memory by the partial results that a walk returns, the
core's cached translations and copies, and which of two translations was taken. -/
def Reached (t v : State) : Prop :=
  ∃ m w ps tl fr cs, v = { t with dram := m, watch := w, partials := ps, tlb := tl, fresh := fr, copies := cs } ∧
    (t.partials = [] → m = t.dram ∧ ps = [])

theorem Reached.refl (t : State) : Reached t t := ⟨_, _, _, _, _, _, rfl, fun h => ⟨rfl, h⟩⟩

theorem Reached.trans {t v w : State} (h : Reached t v) (k : Reached v w) : Reached t w := by
  obtain ⟨m, wa, ps, tl, fr, cs, rfl, hnone⟩ := h
  obtain ⟨m', wa', ps', tl', fr', cs', rfl, hnone'⟩ := k
  refine ⟨m', wa', ps', tl', fr', cs', rfl, fun hp => ?_⟩
  obtain ⟨rfl, rfl⟩ := hnone hp
  exact hnone' rfl

theorem Reached.groups {t v : State} (h : Reached t v) : v.groups = t.groups := by obtain ⟨_, _, _, _, _, _, rfl, -⟩ := h; rfl

theorem Reached.ops {t v : State} (h : Reached t v) : v.ops = t.ops := by obtain ⟨_, _, _, _, _, _, rfl, -⟩ := h; rfl

theorem Reached.nextId {t v : State} (h : Reached t v) : v.nextId = t.nextId := by obtain ⟨_, _, _, _, _, _, rfl, -⟩ := h; rfl

theorem Reached.keepsBytes {t v : State} (h : Reached t v) : KeepsBytes t v := by
  obtain ⟨_, _, _, _, _, _, rfl, hnone⟩ := h
  exact fun hp => .of_eq (hnone hp).1 rfl rfl

theorem Reached.recallWalk (s : State) (asid va : Nat) : Reached s (s.recallWalk asid va) := by
  obtain ⟨m, w, ps, h⟩ := s.recallWalk_eq asid va
  refine ⟨m, w, ps, s.tlb, s.fresh, s.copies, h, fun hp => ?_⟩
  have hstay := (s.recallWalk_of_none asid va hp).symm.trans h
  exact ⟨(congrArg State.dram hstay).symm, (congrArg State.partials hstay).symm.trans hp⟩

theorem Reached.withTlb {t v : State} (h : Reached t v) (tl : List Trans) : Reached t { v with tlb := tl } :=
  h.trans ⟨v.dram, v.watch, v.partials, tl, v.fresh, v.copies, rfl, fun h => ⟨rfl, h⟩⟩

theorem Reached.withFresh {t v : State} (h : Reached t v) (fr : Nat) : Reached t { v with fresh := fr } :=
  h.trans ⟨v.dram, v.watch, v.partials, v.tlb, fr, v.copies, rfl, fun h => ⟨rfl, h⟩⟩

theorem Reached.xlate (s : State) (core asid va : Nat) (need : Need) (priv : Bool) : Reached s (s.xlate core asid va need priv).2 := by
  have hwalk := Reached.recallWalk s asid va
  unfold State.xlate
  dsimp only
  split
  · split
    · exact hwalk
    · exact hwalk.withTlb _
  · split
    · exact (Reached.refl s).withFresh _
    · refine Reached.withFresh ?_ _
      split
      · exact hwalk
      · exact hwalk.withTlb _

theorem Reached.target (s : State) (g : Group) (hand : Bool) (sp : Space) (lane a n : Nat) (w : AccNeed) :
    Reached s (s.target g hand sp lane a n w).2 := by
  unfold State.target
  split
  · unfold State.globTarget
    dsimp only
    split
    · exact .refl s
    · split
      · exact .refl s
      · split <;> exact .xlate ..
  · dsimp only
    split <;> exact .refl s

theorem Reached.dropCopies (s : State) (core : Nat) (us : List AccUnit) : Reached s (s.dropCopies core us) := by
  induction us generalizing s with
  | nil => exact .refl s
  | cons u us ih =>
    refine Reached.trans ?_ (ih _)
    dsimp only
    split
    · exact ⟨s.dram, s.watch, s.partials, s.tlb, s.fresh, _, rfl, fun h => ⟨rfl, h⟩⟩
    · exact .refl s

/-! ## The lanes that pass and those that fail -/

section
variable (g : Group) (hand : Bool) (sp : Space) (n : Nat) (w : AccNeed)

theorem Reached.targets (as : List (Nat × Nat)) (s : State) : Reached s (s.targets g hand sp n w as).2.2 := by
  induction as generalizing s with
  | nil => exact .refl s
  | cons e rest ih =>
    unfold State.targets
    dsimp only
    split <;> exact (Reached.target ..).trans (ih _)

/-- Off device memory the checks change nothing. -/
theorem State.targets_state (h : sp ≠ .glob) (as : List (Nat × Nat)) (s : State) : (s.targets g hand sp n w as).2.2 = s := by
  have hone (e : Nat × Nat) : (s.target g hand sp e.1 e.2 n w).2 = s := by
    unfold State.target
    split
    · exact absurd rfl h
    · dsimp only
      split <;> rfl
  induction as with
  | nil => rfl
  | cons e rest ih =>
    unfold State.targets
    dsimp only
    rw [hone]
    split <;> exact ih

/-- The lanes that pass go to their own addresses. -/
theorem State.targets_sublist (as : List (Nat × Nat)) (s : State) :
    ((s.targets g hand sp n w as).1.map fun e => (e.1, e.2.1)).Sublist as := by
  induction as generalizing s with
  | nil => exact .slnil
  | cons e rest ih =>
    unfold State.targets
    dsimp only
    split
    · exact (ih _).cons_cons _
    · exact (ih _).cons _

/-- Where none fails every lane passes. -/
theorem State.targets_all (as : List (Nat × Nat)) (s : State) (h : (s.targets g hand sp n w as).2.1 = []) :
    ((s.targets g hand sp n w as).1.map fun e => (e.1, e.2.1)) = as := by
  induction as generalizing s with
  | nil => rfl
  | cons e rest ih =>
    unfold State.targets at h ⊢
    dsimp only at h ⊢
    split at h
    · rw [List.map_cons, ih _ h]
    · cases h

/-- An access of device memory goes to device memory. -/
theorem State.targets_glob (as : List (Nat × Nat)) (s : State) : ∀ e ∈ (s.targets g hand .glob n w as).1, ∃ pa, e.2.2.loc = .glob pa := by
  induction as generalizing s with
  | nil => nofun
  | cons a rest ih =>
    intro e he
    unfold State.targets at he
    dsimp only at he
    split at he
    · next t ht =>
      rcases List.mem_cons.mp he with rfl | he
      · unfold State.target State.globTarget at ht
        dsimp only at ht
        split at ht
        · cases ht
        · split at ht
          · cases ht
          · split at ht
            · cases ht
              exact ⟨_, rfl⟩
            · cases ht
      · exact ih _ e he
    · exact ih _ e he

end

/-! ## The parts of a lane -/

section
variable (n : Nat) (data cmp : Nat → DWord) (e : Nat × Nat × Target)

/-- No part of a lane has been performed yet. -/
theorem unitsOf_fresh : ∀ v ∈ unitsOf n data cmp e, v.performed = false ∧ v.lane = e.1 := by
  intro v hv
  unfold unitsOf at hv
  dsimp only at hv
  split at hv
  · split at hv
    · obtain rfl := List.mem_singleton.mp hv
      exact ⟨rfl, rfl⟩
    · obtain ⟨i, -, rfl⟩ := List.mem_map.mp hv
      exact ⟨rfl, rfl⟩
  · obtain rfl := List.mem_singleton.mp hv
    exact ⟨rfl, rfl⟩

/-- The first part of a lane stands at its address and carries its data. -/
theorem unitsOf_first (hn : 0 < n) : ∃ v ∈ unitsOf n data cmp e, v.lane = e.1 ∧ v.off = 0 ∧ v.va = e.2.1 ∧ v.data = data e.1 := by
  unfold unitsOf
  dsimp only
  split
  · split
    · exact ⟨_, List.mem_singleton.mpr rfl, rfl, rfl, rfl, rfl⟩
    · exact ⟨_, List.mem_map.mpr ⟨0, List.mem_range.mpr hn, rfl⟩, rfl, rfl, rfl, by simp⟩
  · exact ⟨_, List.mem_singleton.mpr rfl, rfl, rfl, rfl, rfl⟩

end

theorem tySize_pos (ty : Ty) : 0 < tySize ty := by cases ty <;> decide

theorem atomSize_pos (ty : Ty) : 0 < atomSize ty := by
  unfold atomSize
  split <;> omega

/-- The parts of the lanes `lanes`, which pass: none performed, each of one of those lanes, and of each lane one at its address with its data. -/
theorem parts_of_targets {t : State} {x : Issue} {sp : Space} {off data : Option Nat} {ls : List Nat} {lanes : Lanes}
    {ts : List (Nat × Nat × Target)} {n : Nat} {dat cmp : Nat → DWord} (hn : 0 < n)
    (hsub : (ts.map fun e => (e.1, e.2.1)).Sublist (t.laneAddrs x sp off ls)) (hlanes : ∀ l, l ∈ lanes.list 64 ↔ ∃ e ∈ ts, e.1 = l)
    (hdata : ∀ k, data = some k → dat = t.src x k) :
    (∀ v ∈ ts.flatMap (unitsOf n dat cmp), v.performed = false ∧ v.lane ∈ lanes.list 64) ∧
      ∀ l ∈ lanes.list 64, ∃ v ∈ ts.flatMap (unitsOf n dat cmp),
        v.lane = l ∧ v.off = 0 ∧ v.va = t.laneAddr x sp 0 off l ∧ ∀ k, data = some k → v.data = t.src x k l := by
  refine ⟨fun v hv => ?_, fun l hl => ?_⟩
  · obtain ⟨e, he, hv⟩ := List.mem_flatMap.mp hv
    obtain ⟨hperf, hlane⟩ := unitsOf_fresh n dat cmp e v hv
    exact ⟨hperf, (hlanes _).mpr ⟨e, he, hlane.symm⟩⟩
  · obtain ⟨e, he, rfl⟩ := (hlanes l).mp hl
    obtain ⟨v, hv, hlane, hoff, hva, hdat⟩ := unitsOf_first n dat cmp e hn
    obtain ⟨l', -, heq⟩ := List.mem_map.mp (hsub.subset (List.mem_map.mpr ⟨e, he, rfl⟩))
    obtain ⟨rfl, haddr⟩ := Prod.mk.inj heq
    exact ⟨v, List.mem_flatMap.mpr ⟨e, he, hv⟩, hlane, hoff, hva.trans haddr.symm, fun k hk => by rw [hdat, hdata k hk]⟩

/-- Where every active lane passes, the passing lanes are the active ones. -/
theorem lanes_of_all {t : State} {x : Issue} {sp : Space} {off : Option Nat} {ts : List (Nat × Nat × Target)}
    (h : (ts.map fun e => (e.1, e.2.1)) = t.laneAddrs x sp off x.list) (l : Nat) : l ∈ x.lanes.list 64 ↔ ∃ e ∈ ts, e.1 = l := by
  have hfst : ts.map (·.1) = x.list := by
    have := congrArg (List.map Prod.fst) h
    simpa [State.laneAddrs, Function.comp_def] using this
  exact (hfst ▸ List.mem_map : l ∈ x.list ↔ _)

/-! ## The operation that carries them -/

theorem State.askBanks_nil_ops (s : State) (uid : Nat) : (s.askBanks uid []).ops = s.ops := by
  simp [State.askBanks, State.setDues]

/-- Asking the banks leaves the operations in their order, each as it was but for the clk at which it is due. -/
theorem State.askBanks_append {s : State} {os : List Op} {o : Op} (h : s.ops = os ++ [o]) (uid : Nat) (as : List BankAsk) :
    ∃ ps due, (s.askBanks uid as).ops = ps ++ [{ o with due := due }] ∧ SameOps os ps ∧ (as = [] → ps = os) := by
  obtain ⟨bs, f, hask⟩ := s.askBanks_eq uid as
  by_cases has : as = []
  · subst has
    refine ⟨os, o.due, ?_, rfl, fun _ => rfl⟩
    rw [State.askBanks_nil_ops, h]
  · refine ⟨os.map fun o => { o with due := f o }, f o, ?_, ?_, fun h => absurd h has⟩
    · rw [hask, h]
      simp only [List.map_append, List.map_cons, List.map_nil]
    · simp only [SameOps, List.map_map, Function.comp_def]

/-- An access of device memory or of a pool asks no bank, but for a ring word. -/
theorem State.asks_nil {v : State} {x : Issue} {sp : Space} (hsp : sp = .glob ∨ sp = .pool) (hq : x.i.qField = none) (n : Nat)
    (ts : List (Nat × Nat × Target)) : v.bankAsks x.g sp n ts ++ v.ringAsks x = [] := by
  have hbanks : v.bankAsks x.g sp n ts = [] := by rcases hsp with rfl | rfl <;> rfl
  have hring : v.ringAsks x = [] := by simp only [State.ringAsks, hq]
  rw [hbanks, hring, List.append_nil]

/-- An operation of the passing lanes is sent: `v` is the device after the checks, `w` once the operation is recorded, and then it asks its banks. -/
theorem sentBy_of_recorded {lanes : Lanes} {x : Issue} {t v w : State} {sp : Space} {off : Option Nat} {kind : AccKind} {data cb : Option Nat}
    {dest : Option Dest} {o : Op} {a : Access} {ts : List (Nat × Nat × Target)} {ls : List Nat} {n : Nat} {dat cmp : Nat → DWord}
    {asks : List BankAsk} (hreach : Reached t v) (hglob : sp ≠ .glob → SameBytes t v) (hw : w.ops = v.ops ++ [o]) (hbytes : SameBytes v w)
    (huid : o.uid = t.nextId) (hgrp : o.grp = x.g.uid) (hown : o.lanes = lanes) (hdest : o.dest = dest) (hjob : o.job = .access a)
    (hkind : a.kind = kind) (hcb : a.cb = cb) (hunits : a.units = ts.flatMap (unitsOf n dat cmp)) (hn : 0 < n)
    (hsub : (ts.map fun e => (e.1, e.2.1)).Sublist (t.laneAddrs x sp off ls)) (hlanes : ∀ l, l ∈ lanes.list 64 ↔ ∃ e ∈ ts, e.1 = l)
    (hdata : ∀ k, data = some k → dat = t.src x k) (hasks : sp = .glob ∨ sp = .pool → x.i.qField = none → asks = []) (uid : Nat) :
    SentBy lanes x t (w.askBanks uid asks) sp off kind data cb dest := by
  obtain ⟨ps, due, hops, hsame, hnil⟩ := State.askBanks_append hw uid asks
  obtain ⟨hfresh, hparts⟩ := parts_of_targets (cmp := cmp) hn hsub hlanes hdata
  have hasked : SameBytes v (w.askBanks uid asks) := hbytes.trans (w.askBanks_sameBytes uid asks)
  rw [hreach.ops] at hsame hnil
  refine ⟨ps, _, a, hops, hsame, fun hsp hq => hnil (hasks hsp hq), huid, hgrp, hown, hdest, hjob, hkind, hcb, ?_, ?_, ?_, ?_⟩
  · rw [hunits]; exact hfresh
  · rw [hunits]; exact hparts
  · exact fun hp => (hreach.keepsBytes hp).trans hasked
  · exact fun hsp => (hglob hsp).trans hasked

/-- An access of every active lane is sent where every lane's check passes: `v` is the device after the checks, its core's copies apart. -/
theorem sent_of_recorded {x : Issue} {t v w : State} {sp : Space} {off : Option Nat} {kind : AccKind} {data cb due : Option Nat} {a : Access}
    {n : Nat} {need : AccNeed} {dat cmp : Nat → DWord} {asks : List BankAsk} (hpass : (checks t x sp n need off).2.1 = [])
    (hreach : Reached (checks t x sp n need off).2.2 v) (hsame : SameBytes (checks t x sp n need off).2.2 v)
    (hw : w.ops = v.ops ++ [{ x.op v.nextId with due := due, job := .access a }]) (hbytes : SameBytes v w)
    (hkind : a.kind = kind) (hcb : a.cb = cb) (hunits : a.units = (checks t x sp n need off).1.flatMap (unitsOf n dat cmp)) (hn : 0 < n)
    (hdata : ∀ k, data = some k → dat = t.src x k) (hasks : sp = .glob ∨ sp = .pool → x.i.qField = none → asks = []) (uid : Nat) :
    Sent x t (w.askBanks uid asks) sp off kind data cb := by
  have hall := State.targets_all _ _ _ _ _ _ _ hpass
  have hchecked : Reached t v := (Reached.targets ..).trans hreach
  have hglob (hsp : sp ≠ .glob) : SameBytes t v := by
    rw [checks, State.targets_state _ _ _ _ _ hsp] at hsame
    exact hsame
  exact sentBy_of_recorded hchecked hglob hw hbytes hchecked.nextId rfl rfl rfl rfl hkind hcb hunits hn (by rw [hall])
    (lanes_of_all hall) hdata hasks uid

theorem State.dropCopies_sameBytes (s : State) (core : Nat) (us : List AccUnit) : SameBytes s (s.dropCopies core us) := by
  have hbytes := foldl_keeps (fun u => (u.dram, u.scratch, u.pool))
    (f := fun (s : State) (u : AccUnit) => match u.loc with | .glob pa => s.dropCopy core (pa / 128) | _ => s)
    (fun s u => by split <;> rfl) us s
  simp only [Prod.mk.injEq] at hbytes
  exact .of_eq hbytes.1 hbytes.2.1 hbytes.2.2

theorem State.startHeld_sameBytes (s : State) (x : Issue) (f : Op → Op) : SameBytes s (s.startHeld x f) := .refl s

/-- What is sent stays sent where operations and bytes stay. -/
theorem sentBy_of_eq {lanes : Lanes} {x : Issue} {t u u' : State} {sp : Space} {off : Option Nat} {kind : AccKind} {data cb : Option Nat}
    {dest : Option Dest} (h : SentBy lanes x t u sp off kind data cb dest) (hops : u'.ops = u.ops) (hbytes : SameBytes u u') :
    SentBy lanes x t u' sp off kind data cb dest := by
  obtain ⟨os, o, a, hu, hsame, hq, huid, hgrp, hlanes, hdest, hjob, hkind, hcb, hfresh, hparts, hkeeps, hglob⟩ := h
  exact ⟨os, o, a, hops.trans hu, hsame, hq, huid, hgrp, hlanes, hdest, hjob, hkind, hcb, hfresh, hparts, fun hp => (hkeeps hp).trans hbytes,
    fun hsp => (hglob hsp).trans hbytes⟩

end Sys2Proof.Machine
end

section
/-! SUPPORT. Loads, stores and atomics at their issue (R243, R246, R250 to R252, R254). -/

namespace Sys2Proof.Machine

open Sys2Proof.Claims

/-- How the issue of an access ends: at once without an active lane, in the access sent where every lane's check passes, and in the trap of the failing
lanes else. -/
def AccessOutcome (out : Out) (i : Instr) (s : State) (x : Issue) (t : State) (sp : Space) (n : Nat) (w : AccNeed) (off : Option Nat)
    (kind : AccKind) (data : Option Nat) (holds : Bool) : Prop :=
  (x.lanes = 0 → out = .next (t.finish x)) ∧
    (x.lanes ≠ 0 → (checks t x sp n w off).2.1 = [] → ∃ u, out = .next u ∧ Sent x t u sp off kind data ∧
      (holds = true → (u.group? x.g.uid).map (·.hold) = some (.op t.nextId))) ∧
    (x.lanes ≠ 0 → (checks t x sp n w off).2.1 ≠ [] → out = .next (s.trapOf i x (Trap.ofFaults (checks t x sp n w off).2.1)))

theorem isEmpty_of_ne_nil {α : Type} {xs : List α} (h : xs ≠ []) : xs.isEmpty = false := by simpa using h

/-- An operation holds its group, which is there. -/
theorem State.holdOn_hold {v : State} {grp : Nat} {g : Group} (h : v.group? grp = some g) (uid : Nat) :
    ((v.holdOn grp uid).group? grp).map (·.hold) = some (.op uid) := by
  rw [State.holdOn, State.modGroup_group?, if_pos rfl, h]
  rfl

theorem State.askBanks_group? (s : State) (uid : Nat) (as : List BankAsk) (k : Nat) : (s.askBanks uid as).group? k = s.group? k := by
  obtain ⟨bs, f, h⟩ := s.askBanks_eq uid as
  rw [h]
  rfl

theorem State.start_group?_of_group? {t : State} {x : Issue} {g : Group} (hg : t.group? x.g.uid = some g) (f : Op → Op) :
    ∃ g', (t.start x f).group? x.g.uid = some g' := by
  have hregs := (SameRegs.start t x f).1 x.g.uid
  rw [hg] at hregs
  obtain ⟨g', hg', -⟩ := Option.map_eq_some_iff.mp hregs
  exact ⟨g', hg'⟩

section
variable {s : State} {i : Instr} {x : Issue} {t : State} (h : Issues s i x t)
include h

/-- The issuing group is there once the lanes have been checked. -/
theorem Issues.checked_group? (sp : Space) (n : Nat) (w : AccNeed) (off : Option Nat) :
    ∃ g, (checks t x sp n w off).2.2.group? x.g.uid = some g := by
  obtain ⟨_, _, _, hg⟩ := h.taken_group
  refine ⟨_, Eq.trans ?_ hg⟩
  rw [State.group?, (Reached.targets ..).groups]
  rfl

/-- The issue of an access by its three cases: what it does with all of its lanes passing is left to show. -/
theorem accessOutcome_of_sent {out : Out} {k : Issue → State → Except Trap State} {sp : Space} {n : Nat} {w : AccNeed} {off : Option Nat}
    {kind : AccKind} {data : Option Nat} {holds : Bool} (hout : out = issue i s k) (hidle : x.lanes = 0 → k x t = .ok (t.finish x))
    (hfail : x.lanes ≠ 0 → (checks t x sp n w off).2.1 ≠ [] → k x t = .error (Trap.ofFaults (checks t x sp n w off).2.1))
    (hsent : x.lanes ≠ 0 → (checks t x sp n w off).2.1 = [] → ∃ u, k x t = .ok u ∧ Sent x t u sp off kind data ∧
      (holds = true → (u.group? x.g.uid).map (·.hold) = some (.op t.nextId))) :
    AccessOutcome out i s x t sp n w off kind data holds := by
  subst hout
  refine ⟨fun hl => issue_eq_next h (hidle hl), fun hl hpass => ?_, fun hl hbad => ?_⟩
  · obtain ⟨u, hu, hrest⟩ := hsent hl hpass
    exact ⟨u, issue_eq_next h hu, hrest⟩
  · rw [issue_eq h, hfail hl hbad]

/-- LD (R252). -/
theorem loadOp_outcome (sp : Space) (ty : Ty) (acq : Bool) :
    AccessOutcome (loadOp i sp ty acq s) i s x t sp (tySize ty) needLoad (some 1) (.load ty) none acq := by
  refine accessOutcome_of_sent h rfl (fun hl => if_pos hl) (fun hl hbad => ?_) fun hl hpass => ?_
  · simp only [if_neg hl, isEmpty_of_ne_nil hbad, Bool.not_false, if_true]
  · obtain ⟨g, hg⟩ := h.checked_group? sp (tySize ty) needLoad (some 1)
    cases acq
    all_goals simp only [if_neg hl, hpass, List.isEmpty_nil, Bool.not_true, Bool.false_eq_true, if_false, if_true]
    · refine ⟨_, rfl, ?_, nofun⟩
      exact sent_of_recorded hpass (.refl _) (.refl _) (State.start_ops ..) (State.start_sameBytes _ x _) (by rfl) (by rfl) (by rfl)
        (tySize_pos ty) (by simp) (fun hsp hq => State.asks_nil hsp hq _ _) _
    · refine ⟨_, rfl, ?_, fun _ => ?_⟩
      · refine sentBy_of_eq (u := State.askBanks _ _ _) ?_ rfl (.refl _)
        exact sent_of_recorded hpass (.refl _) (.refl _) (State.startHeld_ops ..) (State.startHeld_sameBytes _ x _) (by rfl) (by rfl) (by rfl)
          (tySize_pos ty) (by simp) (fun hsp hq => State.asks_nil hsp hq _ _) _
      · obtain ⟨_, hg'⟩ := State.startHeld_group? hg _
        exact State.holdOn_hold ((State.askBanks_group? ..).trans hg') _

/-- ST (R252). -/
theorem storeOp_outcome (sp : Space) (ty : Ty) (rel : Bool) :
    AccessOutcome (storeOp i sp ty rel s) i s x t sp (tySize ty) needStore (some 2) (.store ty) (some 1) rel := by
  refine accessOutcome_of_sent h rfl (fun hl => if_pos hl) (fun hl hbad => ?_) fun hl hpass => ?_
  · simp only [if_neg hl, isEmpty_of_ne_nil hbad, Bool.not_false, if_true]
  · obtain ⟨g, hg⟩ := h.checked_group? sp (tySize ty) needStore (some 2)
    cases rel
    all_goals simp only [if_neg hl, hpass, List.isEmpty_nil, Bool.not_true, Bool.false_eq_true, if_false, if_true]
    · refine ⟨_, rfl, ?_, nofun⟩
      exact sent_of_recorded hpass (Reached.dropCopies ..) (State.dropCopies_sameBytes _ _ _) (State.start_ops ..) (State.start_sameBytes _ x _)
        (by rfl) (by rfl) (by rfl) (tySize_pos ty) (by simp) (fun hsp hq => State.asks_nil hsp hq _ _) _
    · refine ⟨_, rfl, ?_, fun _ => ?_⟩
      · refine sentBy_of_eq (u := State.askBanks _ _ _) ?_ rfl (.refl _)
        exact sent_of_recorded hpass (.refl _) (.refl _) (State.start_ops ..) (State.start_sameBytes _ x _) (by rfl) (by rfl) (by rfl)
          (tySize_pos ty) (by simp) (fun hsp hq => State.asks_nil hsp hq _ _) _
      · obtain ⟨_, hg'⟩ := State.start_group?_of_group? hg _
        exact State.holdOn_hold ((State.askBanks_group? ..).trans hg') _

/-- ATOM and ATOMR (R254). -/
theorem atomicOp_outcome (sp : Space) (ty : Ty) (op : AtomOp) (scope : Scope) (returns : Bool) :
    AccessOutcome (atomicOp i sp ty op scope returns s) i s x t sp (atomSize ty) needAtom (if op = .cas then none else some 2)
      (.atom ty op returns) (some 1) false := by
  refine accessOutcome_of_sent h rfl (fun hl => if_pos hl) (fun hl hbad => ?_) fun hl hpass => ?_
  · simp only [if_neg hl, isEmpty_of_ne_nil hbad, Bool.not_false, if_true]
  · cases returns
    all_goals
      simp only [if_neg hl, hpass, List.isEmpty_nil, Bool.not_true, Bool.false_eq_true, if_false, if_true]
      refine ⟨_, rfl, ?_, nofun⟩
    · exact sent_of_recorded hpass (Reached.dropCopies ..) (State.dropCopies_sameBytes _ _ _) (State.start_ops ..) (State.start_sameBytes _ x _)
        (by rfl) (by rfl) (by rfl) (atomSize_pos ty) (by simp) (fun hsp hq => State.asks_nil hsp hq _ _) _
    · exact sent_of_recorded hpass (.refl _) (.refl _) (State.start_ops ..) (State.start_sameBytes _ x _) (by rfl) (by rfl) (by rfl)
        (atomSize_pos ty) (by simp) (fun hsp hq => State.asks_nil hsp hq _ _) _

end

/-- Settles O38: a compact form does what its full form does (`exec_core`), and of the full forms each ends as `AccessOutcome` says. -/
theorem accessesComplete : Obligations.AccessesComplete := by
  intro i s x t h
  rw [exec_core i s]
  generalize i.core = j at h ⊢
  cases j with
  | ld c sp ty acq => exact loadOp_outcome h sp ty acq
  | st c sp ty rel => exact storeOp_outcome h sp ty rel
  | atom c sp ty op scope => exact atomicOp_outcome h sp ty op scope true
  | atomr c sp ty op scope => exact atomicOp_outcome h sp ty op scope false
  | _ => exact True.intro

end Sys2Proof.Machine
end


section
/-! SUPPORT. Fences, range instructions and PREF (R243, R255, R256, R265): what each does at its issue, and a prefetched line's copy. -/

namespace Sys2Proof.Machine

open Sys2Proof.Claims

/-! ## A prefetched line -/

/-- A record that is changed into itself leaves the table as it is. -/
theorem tabMod_id {α : Type} (t : Tab α) (k : Nat) : tabMod t k (fun v => v) = t := by
  simp [tabMod]

/-- A performed part at its place, with the completion time that its group's horizon takes. -/
theorem State.performUnit_ret {s : State} {uid k : Nat} {o : Op} {a : Access} {v : AccUnit} {g : Group}
    (ho : s.op? uid = some o) (hj : o.job = .access a) (hu : a.units[k]? = some v) (hcb : a.cb = none) (hg : s.group? o.grp = some g) :
    ∃ p, s.performUnit uid k = (((s.performAt g a v).s.meterUnit g a v (s.hitsCopy g a v)).setOp p).modGroup o.grp fun e =>
      { e with horizon := max e.horizon (s.performAt g a v).ret } := by
  unfold State.performUnit
  simp only [ho, hj, hg, hu, hcb]
  exact ⟨_, rfl⟩

/-- A grant leaves the core a copy of the line as the home has it, under a lease from now on (R243). -/
theorem State.grantCopy_copy {s : State} {lcls : Nat} (h : lcls < 3) (core line : Nat) :
    ∃ c ∈ (s.grantCopy core line lcls).copies, c.core = core ∧ c.line = line ∧ c.grant = now s ∧
      c.expiry = now s + [256, 2000, 16000].getD lcls 0 ∧ c.expiry ≤ tabGetD (s.grantCopy core line lcls).leases line 0 ∧
      c.bytes = readBytes (s.grantCopy core line lcls).dram (line * 128) 128 := by
  have hlease : leaseNs lcls = [256, 2000, 16000].getD lcls 0 := by
    obtain rfl | rfl | rfl : lcls = 0 ∨ lcls = 1 ∨ lcls = 2 := by omega
    all_goals rfl
  unfold State.grantCopy
  rw [if_neg (by omega), ← hlease]
  dsimp only
  split
  · refine ⟨_, List.mem_append_right _ (List.mem_singleton.mpr rfl), rfl, rfl, rfl, rfl, ?_, rfl⟩
    rw [tabGetD_tabSet, if_pos rfl]
    exact Nat.le_max_right ..
  · split
    all_goals
      refine ⟨_, List.mem_append_right _ (List.mem_singleton.mpr rfl), rfl, rfl, rfl, rfl, ?_, rfl⟩
      rw [tabGetD_tabSet, if_pos rfl]
      exact Nat.le_max_right ..

/-- A prefetching part reads its line at the home into the core's cache, whatever the core holds (R256). -/
theorem State.performAt_pref {s : State} {g : Group} {a : Access} {v : AccUnit} {ty : Ty} {pa : Nat} (hkind : a.kind = .load ty)
    (hpref : a.pref = true) (hl : v.loc = .glob pa) (hp : s.poisonLines.contains (pa / 128) = false) :
    (s.performAt g a v).s = (s.recall (pa / 128)).grantCopy g.core (pa / 128) v.lcls ∧ (s.performAt g a v).ret = 0 := by
  constructor <;> simp only [State.performAt, hl, hkind, State.loadGlob, hpref, if_true, hp, Bool.false_eq_true, if_false]

/-- A part that prefetches leaves its core's copy of the line. -/
theorem prefetchPerforms {s : State} {uid k pa : Nat} {o : Op} {a : Access} {v : AccUnit} {g : Group} (hturn : AtTurn s uid k o a v g)
    (hkind : a.kind = .load .z8) (hpref : a.pref = true) (hl : v.loc = .glob pa) (hcls : v.lcls < 3)
    (hp : s.poisonLines.contains (pa / 128) = false) :
    ∃ u c, exec (.accessPerform uid k) s = .next u ∧ KeepsBytes s u ∧ c ∈ u.copies ∧ c.core = g.core ∧ c.line = pa / 128 ∧ c.grant = now s ∧
      c.expiry = now s + [256, 2000, 16000].getD v.lcls 0 ∧ c.expiry ≤ u.lease pa ∧ c.bytes = readBytes u.dram (pa / 128 * 128) 128 ∧
      u.groups = s.groups := by
  have hexec := exec_accessPerform_atTurn hturn
  obtain ⟨-, ho, -, hj, hu, -, hcb, hg, -⟩ := hturn
  obtain ⟨hat, hret⟩ := State.performAt_pref (g := g) hkind hpref hl hp
  obtain ⟨m, w, hrecall⟩ := s.recall_eq (pa / 128)
  obtain ⟨cs, ls, hgrant⟩ := (s.recall (pa / 128)).grantCopy_eq g.core (pa / 128) v.lcls
  obtain ⟨p, hunit⟩ := State.performUnit_ret ho hj hu hcb hg
  obtain ⟨c, hc, hcore, hline, hgranted, hexpiry, hlease, hbytes⟩ := (s.recall (pa / 128)).grantCopy_copy hcls g.core (pa / 128)
  have hnow : now (s.recall (pa / 128)) = now s := by rw [hrecall]; rfl
  have hmeter := State.meterUnit_keeps (fun t => (t.groups, t.copies, t.leases, t.dram, t.scratch, t.pool)) (fun _ _ _ _ _ => rfl)
    (s.performAt g a v).s g a v (s.hitsCopy g a v)
  rw [hret] at hunit
  simp only [hat, Prod.mk.injEq] at hmeter hunit
  obtain ⟨hgroups, hcopies, hleases, hdram, hscratch, hpool⟩ := hmeter
  rw [hnow] at hgranted hexpiry
  refine ⟨_, c, hexec, fun hnone => ?_, ?_, hcore, hline, hgranted, hexpiry, ?_, ?_, ?_⟩
  · rw [hunit]
    refine .of_eq (hdram.trans ?_) (hscratch.trans ?_) (hpool.trans ?_)
    all_goals
      rw [hgrant, State.recall_of_none]
      simp [hnone]
  · rw [hunit]
    exact hcopies ▸ hc
  · rw [hunit]
    exact hlease.trans (by rw [State.lease, ← hleases]; rfl)
  · rw [hunit, hbytes, ← hdram]
    rfl
  · rw [hunit]
    simp only [State.modGroup_groups, State.setOp_groups, Nat.max_zero, tabMod_id]
    rw [hgroups, hgrant, hrecall]

/-! ## Fences -/

section
variable {s : State} {x : Issue} {t : State}

/-- FENCE.acq is done at its issue, its group's acquire mark at device time (R255). -/
theorem exec_fence_acq {c : Ctl} {sc : Scope} (h : Issues s (.fence c sc .acq) x t) :
    ∃ u g, exec (.fence c sc .acq) s = .next u ∧ u.group? x.g.uid = some g ∧ g.acquire = now s := by
  obtain ⟨g, hg⟩ := h.finish_group?
  have hexec : execFence c sc .acq s = .next ((t.finish x).modGroup x.g.uid fun g => { g with acquire := now t }) :=
    issue_eq_next h (if_pos rfl)
  have hnow : now t = now s := by
    obtain ⟨gs, ps, ms, rfl⟩ := h.taken_eq
    rfl
  refine ⟨_, { g with acquire := now t }, hexec, ?_, hnow⟩
  rw [State.modGroup_group?, if_pos rfl, hg]
  rfl

/-- The others hold their group's issue until their release step. -/
theorem exec_fence_release {c : Ctl} {sc : Scope} {half : FenceHalf} (h : Issues s (.fence c sc half) x t) (hhalf : half ≠ .acq) :
    ∃ u o g, exec (.fence c sc half) s = .next u ∧ u.ops = t.ops ++ [o] ∧ o.job = .fence sc half ∧ u.group? x.g.uid = some g ∧
      g.hold = .op o.uid := by
  obtain ⟨g, hg⟩ := h.start_group? fun o => { o with job := .fence sc half }
  have hexec : execFence c sc half s = .next ((t.start x fun o => { o with job := .fence sc half }).holdOn x.g.uid t.nextId) :=
    issue_eq_next h (if_neg hhalf)
  refine ⟨_, { x.op t.nextId with job := .fence sc half }, { g with hold := .op t.nextId }, hexec,
    t.start_ops x fun o => { o with job := .fence sc half }, rfl, ?_, rfl⟩
  rw [State.holdOn, State.modGroup_group?, if_pos rfl, hg]
  rfl

end

/-! ## Ranges -/

theorem Reached.rangeFault (g : Group) (hand : Bool) (n page : Nat) (s : State) : Reached s (s.rangeFault g hand page n).2 := by
  induction n generalizing s page with
  | zero => exact .refl s
  | succ n ih =>
    have hfirst := Reached.xlate s g.core (s.asidOf g) (page * 2 ^ 16) .both hand
    unfold State.rangeFault
    dsimp only
    split
    · exact hfirst
    · split
      · exact hfirst
      · exact hfirst.trans (ih ..)

/-- The checks of a range that has its place inside the address space and is aligned where it has to be. -/
theorem rangeChecks {op : RangeOp} {va len : Nat} (hva : va < 2 ^ 56) (hend : va + len ≤ 2 ^ 56)
    (halign : op ≠ .icinv → va % 128 = 0 ∧ len % 128 = 0) :
    (decide (2 ^ 56 ≤ va) || decide (2 ^ 56 < va + len)) = false ∧ (op != .icinv && (va % 128 != 0 || len % 128 != 0)) = false := by
  refine ⟨?_, ?_⟩
  · rw [decide_eq_false (by omega), decide_eq_false (by omega), Bool.or_false]
  · by_cases hop : op = .icinv
    · simp [hop]
    · obtain ⟨hv, hl⟩ := halign hop
      simp [hv, hl]

section
variable {s : State} {i : Instr} {x : Issue} {t : State} {op : RangeOp} (h : Issues s i x t)
include h

theorem rangeOp_idle (hl : x.lanes = 0) : rangeOp i op s = .next (t.finish x) := issue_eq_next h (if_pos hl)

variable (hl : x.lanes ≠ 0) (hva : (t.srcLow x 0).toNat < 2 ^ 56) (hend : (t.srcLow x 0).toNat + (w32 (t.srcLow x 1)).toNat ≤ 2 ^ 56)
  (halign : op ≠ .icinv → (t.srcLow x 0).toNat % 128 = 0 ∧ (w32 (t.srcLow x 1)).toNat % 128 = 0)
include hl hva hend halign

/-- A range inside the address space and aligned is not refused for its place: an empty one completes at once. -/
theorem rangeOp_empty (hlen : (w32 (t.srcLow x 1)).toNat = 0) : rangeOp i op s = .next (t.finish x) := by
  refine issue_eq_next h ?_
  obtain ⟨hplace, hshape⟩ := rangeChecks hva hend halign
  simp only [if_neg hl, hplace, hshape, if_pos hlen, Bool.false_eq_true, if_false]

/-- And one whose pages allow it is carried out as an operation. -/
theorem rangeOp_starts (hlen : (w32 (t.srcLow x 1)).toNat ≠ 0)
    (hpages : op ≠ .icinv → (t.rangeFault x.g x.inHandler ((t.srcLow x 0).toNat / 2 ^ 16)
      (((t.srcLow x 0).toNat + (w32 (t.srcLow x 1)).toNat - 1) / 2 ^ 16 - (t.srcLow x 0).toNat / 2 ^ 16 + 1)).1 = none) :
    ∃ u o, rangeOp i op s = .next u ∧ u.ops = t.ops ++ [o] ∧ o.job = .range op (t.srcLow x 0).toNat (w32 (t.srcLow x 1)).toNat ∧
      KeepsBytes t u := by
  obtain ⟨hplace, hshape⟩ := rangeChecks hva hend halign
  suffices hstart : ∃ v, Reached t v ∧ rangeOp i op s = .next (v.start x fun o =>
      { o with job := .range op (t.srcLow x 0).toNat (w32 (t.srcLow x 1)).toNat }) by
    obtain ⟨v, hv, hu⟩ := hstart
    exact ⟨_, _, hu, (State.start_ops ..).trans (by rw [hv.ops]), rfl, fun hp => (hv.keepsBytes hp).trans (v.start_sameBytes x _)⟩
  by_cases hop : op = .icinv
  · refine ⟨t, .refl t, issue_eq_next h ?_⟩
    simp only [if_neg hl, hplace, hshape, if_neg hlen, if_pos hop, Bool.false_eq_true, if_false]
  · have hreach := Reached.rangeFault x.g x.inHandler
      (((t.srcLow x 0).toNat + (w32 (t.srcLow x 1)).toNat - 1) / 2 ^ 16 - (t.srcLow x 0).toNat / 2 ^ 16 + 1) ((t.srcLow x 0).toNat / 2 ^ 16) t
    refine ⟨_, hreach, issue_eq_next h ?_⟩
    simp only [if_neg hl, hplace, hshape, if_neg hlen, if_neg hop, hpages hop, Bool.false_eq_true, if_false]

end

/-! ## PREF -/

/-- The one part of a lane's prefetch. -/
theorem unitsOf_byte {data cmp : Nat → DWord} {e : Nat × Nat × Target} {pa : Nat} (h : e.2.2.loc = .glob pa) :
    (unitsOf 1 data cmp e).map (fun v => (v.lane, v.loc, v.lcls, v.performed)) = [(e.1, e.2.2.loc, e.2.2.lcls, false)] := by
  simp [unitsOf, h, Nat.mod_one]

theorem flatMap_unitsOf_byte {data cmp : Nat → DWord} {ts : List (Nat × Nat × Target)} (h : ∀ e ∈ ts, ∃ pa, e.2.2.loc = .glob pa) :
    (ts.flatMap (unitsOf 1 data cmp)).map (fun v => (v.lane, v.loc, v.lcls, v.performed)) =
      ts.map fun e => (e.1, e.2.2.loc, e.2.2.lcls, false) := by
  induction ts with
  | nil => rfl
  | cons e ts ih =>
    obtain ⟨pa, hpa⟩ := h e List.mem_cons_self
    rw [List.flatMap_cons, List.map_append, unitsOf_byte hpa, ih fun e he => h e (List.mem_cons_of_mem _ he)]
    rfl

/-- The issuing group's records stay where registers stay. -/
theorem frq_of_sameRegs {v u : State} {k : Nat} (h : SameRegs v u) : (u.group? k).map (·.frq) = (v.group? k).map (·.frq) := by
  have hregs := congrArg (Option.map Regs.frq) (h.1 k)
  rw [Option.map_map, Option.map_map] at hregs
  exact hregs

/-- PREF of the lanes that pass: their lines are to be read into the cache. -/
theorem exec_pref {s : State} {x : Issue} {t : State} {c : Ctl} {a y : Opnd} (h : Issues s (.pref c a y) x t) :
    let r := checks t x .glob 1 needLoad (some 1)
    ∃ u, exec (.pref c a y) s = .next u ∧ KeepsBytes t u ∧ (u.group? x.g.uid).map (·.frq) = some x.g.frq ∧ (r.1 = [] → u.ops = t.ops) ∧
      (r.1 ≠ [] → ∃ o a, u.ops = t.ops ++ [o] ∧ o.job = .access a ∧ a.pref = true ∧ a.kind = .load .z8 ∧
        a.units.map (fun v => (v.lane, v.loc, v.lcls, v.performed)) = r.1.map fun e => (e.1, e.2.2.loc, e.2.2.lcls, false)) := by
  intro r
  have hreach : Reached t r.2.2 := .targets ..
  obtain ⟨p, hd, st, hg⟩ := h.taken_group
  have hfrq : (r.2.2.group? x.g.uid).map (·.frq) = some x.g.frq := by
    rw [State.group?, hreach.groups]
    exact congrArg (Option.map (·.frq)) hg
  by_cases hr : r.1 = []
  · have hexec : execPref c a y s = .next (r.2.2.finish x) := issue_eq_next h (if_pos (List.isEmpty_iff.mpr hr))
    obtain ⟨gs, ts, hfin⟩ := r.2.2.finish_eq x
    refine ⟨_, hexec, fun hp => (hreach.keepsBytes hp).trans (r.2.2.finish_sameBytes x), (frq_of_sameRegs (.finish ..)).trans hfrq, fun _ => ?_,
      fun hne => absurd hr hne⟩
    rw [hfin]
    exact hreach.ops
  · let acc : Access :=
      { kind := .load .z8, units := r.1.flatMap (unitsOf 1 (fun _ => 0) fun _ => 0), coalesced := false, acq := false
        cb := none, release := none, pref := true }
    have hexec : execPref c a y s = .next (r.2.2.start x fun o => { o with job := .access acc }) :=
      issue_eq_next h (if_neg (by rw [List.isEmpty_iff]; exact hr))
    refine ⟨_, hexec, fun hp => (hreach.keepsBytes hp).trans (r.2.2.start_sameBytes x _), (frq_of_sameRegs (.start ..)).trans hfrq,
      fun hnil => absurd hnil hr, fun _ => ⟨_, acc, (State.start_ops ..).trans (by rw [hreach.ops]), rfl, rfl, rfl, ?_⟩⟩
    exact flatMap_unitsOf_byte (State.targets_glob _ _ _ _ _ _)

/-- Settles O40, instruction by instruction. -/
theorem fencesAndRangesComplete : Obligations.FencesAndRangesComplete := by
  refine ⟨fun s uid k pa o a v g hturn hkind hpref hl hcls hp => prefetchPerforms hturn hkind hpref hl hcls hp, fun i s x t h => ?_⟩
  cases i with
  | fence c sc half =>
    dsimp only
    split
    · next hhalf =>
      subst hhalf
      exact exec_fence_acq h
    · next hhalf => exact exec_fence_release h hhalf
  | pin c a b | unpin c a b =>
    exact ⟨rangeOp_idle h, fun hl hva hend halign => ⟨rangeOp_empty h hl hva hend fun _ => halign rfl, fun hlen hpages =>
      rangeOp_starts h hl hva hend (fun _ => halign rfl) hlen fun _ => hpages rfl⟩⟩
  | icinv c a b =>
    exact ⟨rangeOp_idle h, fun hl hva hend _ => ⟨rangeOp_empty h hl hva hend (absurd rfl), fun hlen _ =>
      rangeOp_starts h hl hva hend (absurd rfl) hlen (absurd rfl)⟩⟩
  | pref c a y => exact exec_pref h
  | _ => exact True.intro

end Sys2Proof.Machine
end

section
/-! SUPPORT. LDX and STX at their issue (R253, R331, R343): the bitmap is cleared, then each lane goes its own way. -/

namespace Sys2Proof.Machine

open Sys2Proof.Claims

/-! ## The lanes that pass -/

theorem foldl_single_has (ts : List (Nat × Nat × Target)) {l : Nat} (hl : l < 64) (m : Lanes) :
    (ts.foldl (fun m e => m ||| Lanes.single e.1) m).has l = true ↔ m.has l = true ∨ ∃ e ∈ ts, l = e.1 := by
  induction ts generalizing m with
  | nil => simp
  | cons e ts ih =>
    rw [List.foldl_cons, ih, Lanes.has_or, Lanes.has_single hl, or_assoc]
    simp

/-- The lanes of some targets, each a lane of a group. -/
theorem mem_passing {ts : List (Nat × Nat × Target)} (hts : ∀ e ∈ ts, e.1 < 64) (l : Nat) :
    l ∈ (passing ts).list 64 ↔ ∃ e ∈ ts, e.1 = l := by
  have hzero : ¬Lanes.has 0 l = true := by simp [Lanes.has]
  rw [Lanes.mem_list, passing]
  constructor
  · rintro ⟨hl, h⟩
    obtain ⟨e, he, rfl⟩ := ((foldl_single_has ts hl 0).mp h).resolve_left hzero
    exact ⟨e, he, rfl⟩
  · rintro ⟨e, he, rfl⟩
    exact ⟨hts e he, (foldl_single_has ts (hts e he) 0).mpr (.inr ⟨e, he, rfl⟩)⟩

/-! ## What leaves the bitmap cleared -/

section
variable {s : State} {i : Instr} {x : Issue} {t : State} (h : Issues s i x t) (cb : Nat)
include h

/-- The issuing group once the bitmap is cleared. -/
theorem Issues.cleared_group? : ∃ g, (cleared t x cb).group? x.g.uid = some g ∧ g.bk = x.g.bk ∧ g.cb = cellSet x.g.cb cb 0 := by
  obtain ⟨p, hd, st, hg⟩ := h.taken_group
  have hmod : (cleared t x cb).group? x.g.uid = _ := (State.modGroup_group? ..).trans (if_pos rfl)
  rw [hg] at hmod
  exact ⟨_, hmod, rfl, rfl⟩

/-- What changes no register after that leaves the bitmap cleared, and no other. -/
theorem Issues.cleared_cb {u : State} (hu : SameRegs (cleared t x cb) u) :
    ∃ g, u.group? x.g.uid = some g ∧ cellGet g.cb cb = 0 ∧ ∀ k, k ≠ cb → cellGet g.cb k = cellGet x.g.cb k := by
  obtain ⟨g, hg, -, hcb⟩ := h.cleared_group? cb
  have hregs := hu.1 x.g.uid
  rw [hg] at hregs
  obtain ⟨g', hg', heq⟩ := Option.map_eq_some_iff.mp hregs
  have hsame : g'.cb = cellSet x.g.cb cb 0 := (congrArg Regs.cb heq).trans hcb
  refine ⟨g', hg', ?_, fun k hk => ?_⟩
  · rw [hsame, cellGet_cellSet, if_pos rfl]
  · rw [hsame, cellGet_cellSet, if_neg hk]

end

/-- A flag that goes up changes the flags of a bank alone. -/
theorem Group.setUp_bk (g : Group) (hand : Bool) (f : Nat) : ∃ fl, (g.setUp hand f).bk = { g.bk with flags := fl } := by
  unfold Group.setUp Group.modBank
  split
  · cases hand <;> cases hh : g.hand <;> simp only [Group.bk, hh, Bool.false_eq_true, if_false, if_true, Option.map_some, Option.map_none]
    · exact ⟨_, rfl⟩
    · exact ⟨_, rfl⟩
    · exact ⟨_, rfl⟩
    · exact ⟨_, rfl⟩
  · exact ⟨g.bk.flags, rfl⟩

/-- Of a group whose instruction stays outstanding without its effect a flag goes up, and nothing else changes. -/
theorem State.startHeld_group?_self (v : State) (x : Issue) (f : Op → Op) :
    (v.startHeld x f).group? x.g.uid = (v.group? x.g.uid).map fun g => g.setUp x.inHandler x.c.set.toNat :=
  (State.modGroup_group? { v with nextId := v.nextId + 1 } x.g.uid (fun g => g.setUp x.inHandler x.c.set.toNat) x.g.uid).trans (if_pos rfl)

/-! ## The lanes go their own ways -/

section
variable (c : State) (x : Issue) (sp : Space) (ty : Ty) (load : Bool)

/-- The checks of a gather's or a scatter's lanes. -/
abbrev gatherChecks : List (Nat × Nat × Target) × List LaneFault × State :=
  checks c x sp (tySize ty) (if load then needLoad else needStore) (some (if load then 1 else 2))

/-- The parts of the lanes that pass. -/
def gatherUnits : List AccUnit :=
  (gatherChecks c x sp ty load).1.flatMap (unitsOf (tySize ty) (fun l => if load then 0 else c.src x 1 l) fun _ => 0)

/-- The device after the checks: a scatter has removed its lines from its core's cache. -/
def gatherReady : State :=
  if load then (gatherChecks c x sp ty load).2.2 else (gatherChecks c x sp ty load).2.2.dropCopies x.g.core (gatherUnits c x sp ty load)

theorem gatherReady_reached : Reached (gatherChecks c x sp ty load).2.2 (gatherReady c x sp ty load) := by
  unfold gatherReady
  split
  · exact .refl _
  · exact .dropCopies ..

theorem gatherReady_sameBytes : SameBytes (gatherChecks c x sp ty load).2.2 (gatherReady c x sp ty load) := by
  unfold gatherReady
  split
  · exact .refl _
  · exact State.dropCopies_sameBytes _ _ _

theorem gatherReady_sameRegs : SameRegs c (gatherReady c x sp ty load) := by
  obtain ⟨_, _, _, _, _, _, h, -⟩ := (Reached.targets ..).trans (gatherReady_reached c x sp ty load)
  rw [h]
  exact .of_eq rfl rfl rfl rfl

/-- The access of a gather or scatter. -/
def gatherAccess (cb : Nat) : Access :=
  { kind := if load then .load ty else .store ty, units := gatherUnits c x sp ty load, coalesced := false, acq := false, cb := some cb
    release := none, pref := false, again := false, asked := x.lanes }

variable {c x sp ty load}

/-- The data that a scatter's parts carry are its second source's. -/
theorem gatherData (k : Nat) (hk : (if load then none else some 1) = some k) : (fun l => if load then 0 else c.src x 1 l) = c.src x k := by
  cases load
  · rw [← Option.some.inj hk]
    rfl
  · cases hk

/-- The operation of the lanes `lanes`, recorded with or without its effect on the group. -/
theorem gatherRecorded {cb : Nat} {w : State} {o : Op} {lanes : Lanes} {dest : Option Dest}
    (hw : w.ops = (gatherReady c x sp ty load).ops ++ [o]) (hbytes : SameBytes (gatherReady c x sp ty load) w)
    (huid : o.uid = (gatherReady c x sp ty load).nextId) (hgrp : o.grp = x.g.uid) (hown : o.lanes = lanes) (hdest : o.dest = dest)
    (hjob : o.job = .access (gatherAccess c x sp ty load cb))
    (hlanes : ∀ l, l ∈ lanes.list 64 ↔ ∃ e ∈ (gatherChecks c x sp ty load).1, e.1 = l) (uid : Nat) :
    SentBy lanes x c (w.askBanks uid ((gatherReady c x sp ty load).bankAsks x.g sp (tySize ty) (gatherChecks c x sp ty load).1 ++
      (gatherReady c x sp ty load).ringAsks x)) sp (some (if load then 1 else 2)) (if load then .load ty else .store ty)
      (if load then none else some 1) (some cb) dest := by
  have hreach : Reached c (gatherReady c x sp ty load) := (Reached.targets ..).trans (gatherReady_reached ..)
  have hglob (hsp : sp ≠ .glob) : SameBytes c (gatherReady c x sp ty load) := by
    have hsame := gatherReady_sameBytes c x sp ty load
    rw [gatherChecks, checks, State.targets_state _ _ _ _ _ hsp] at hsame
    exact hsame
  exact sentBy_of_recorded hreach hglob hw hbytes (huid.trans hreach.nextId) hgrp hown hdest hjob rfl rfl rfl (tySize_pos ty)
    (State.targets_sublist ..) hlanes gatherData (fun hsp hq => State.asks_nil hsp hq _ _) uid

/-- The operation that is recorded where every lane passes, and where some fail. -/
def gatherOpOf (c : State) (x : Issue) (sp : Space) (ty : Ty) (load : Bool) (cb : Nat) (o : Op) : Op :=
  { o with
    due := (gatherReady c x sp ty load).scratchDue x sp (tySize ty) (gatherChecks c x sp ty load).1, vals := []
    job := .access (gatherAccess c x sp ty load cb) }

def partGatherOpOf (c : State) (x : Issue) (sp : Space) (ty : Ty) (load : Bool) (cb : Nat) (o : Op) : Op :=
  { o with
    due := (gatherReady c x sp ty load).scratchDue x sp (tySize ty) (gatherChecks c x sp ty load).1
    lanes := passing (gatherChecks c x sp ty load).1, dest := o.dest.map fun d => { d with shift := false }
    job := .access (gatherAccess c x sp ty load cb) }

/-- What they ask of the banks. -/
def gatherAsks (c : State) (x : Issue) (sp : Space) (ty : Ty) (load : Bool) : List BankAsk :=
  (gatherReady c x sp ty load).bankAsks x.g sp (tySize ty) (gatherChecks c x sp ty load).1 ++ (gatherReady c x sp ty load).ringAsks x

/-- Where every lane passes, all are sent; of the group's registers nothing changes. -/
theorem State.gatherSend_pass {cb : Nat} (hpass : (gatherChecks c x sp ty load).2.1 = []) :
    let u := c.gatherSend x sp ty cb load false x.list [] .re
    SameRegs c u ∧ Sent x c u sp (some (if load then 1 else 2)) (if load then .load ty else .store ty) (if load then none else some 1) (some cb) := by
  intro u
  let v := gatherReady c x sp ty load
  obtain ⟨f, hf, hu⟩ : ∃ f : Group → Group, (∀ g, regsOf (f g) = regsOf g) ∧
      u = ((v.start x (gatherOpOf c x sp ty load cb)).askBanks v.nextId (gatherAsks c x sp ty load)).modGroup x.g.uid f :=
    by
    refine ⟨_, ?_, if_pos (List.isEmpty_iff.mpr hpass)⟩
    exact fun g => regsOf_setBk rfl
  rw [hu]
  refine ⟨(((gatherReady_sameRegs c x sp ty load).trans (.start v x _)).trans (.askBanks ..)).trans (.modGroup hf), ?_⟩
  refine sentBy_of_eq (gatherRecorded (State.start_ops ..) (v.start_sameBytes x _) rfl rfl rfl rfl rfl ?_ _) rfl (.refl _)
  exact lanes_of_all (State.targets_all _ _ _ _ _ _ _ hpass)

/-- Where a lane fails, those that pass are sent without the window's shift, and the failing ones' trap is raised. -/
theorem State.gatherSend_fail {cb : Nat} (hbad : (gatherChecks c x sp ty load).2.1 ≠ []) :
    ∃ v, c.gatherSend x sp ty cb load false x.list [] .re = v.trapNow x { Trap.ofFaults (gatherChecks c x sp ty load).2.1 with
        cb := some cb, gather := some { instr := x.i, lanes := x.lanes, cb := cb } } ∧ SameRegs c v ∧
      (∀ g, c.group? x.g.uid = some g → ∃ g' fl, v.group? x.g.uid = some g' ∧ g'.bk = { g.bk with flags := fl }) ∧
      ((gatherChecks c x sp ty load).1 = [] → v.ops = c.ops ∧ KeepsBytes c v) ∧
      ((gatherChecks c x sp ty load).1 ≠ [] → SentBy (passing (gatherChecks c x sp ty load).1) x c v sp (some (if load then 1 else 2))
        (if load then .load ty else .store ty) (if load then none else some 1) (some cb) (x.dest.map fun d => { d with shift := false })) := by
  let v := gatherReady c x sp ty load
  have hreach : Reached c v := (Reached.targets ..).trans (gatherReady_reached ..)
  have hregs : SameRegs c v := gatherReady_sameRegs ..
  have hgroup (g : Group) (hg : c.group? x.g.uid = some g) : v.group? x.g.uid = some g := by
    rw [State.group?, hreach.groups]
    exact hg
  have hsend : c.gatherSend x sp ty cb load false x.list [] .re =
      (if (gatherChecks c x sp ty load).1.isEmpty then v
        else (v.startHeld x (partGatherOpOf c x sp ty load cb)).askBanks v.nextId (gatherAsks c x sp ty load)).trapNow x
        { Trap.ofFaults (gatherChecks c x sp ty load).2.1 with cb := some cb, gather := some { instr := x.i, lanes := x.lanes, cb := cb } } :=
    if_neg (by rw [List.isEmpty_iff]; exact hbad)
  by_cases hnone : (gatherChecks c x sp ty load).1 = []
  · rw [if_pos (List.isEmpty_iff.mpr hnone)] at hsend
    exact ⟨v, hsend, hregs, fun g hg => ⟨g, g.bk.flags, hgroup g hg, rfl⟩, fun _ => ⟨hreach.ops, hreach.keepsBytes⟩, absurd hnone⟩
  · rw [if_neg (by rw [List.isEmpty_iff]; exact hnone)] at hsend
    refine ⟨_, hsend, (hregs.trans (.startHeld v x _)).trans (.askBanks ..), fun g hg => ?_, fun hnil => absurd hnil hnone, fun _ => ?_⟩
    · obtain ⟨fl, hfl⟩ := g.setUp_bk x.inHandler x.c.set.toNat
      refine ⟨_, fl, (State.askBanks_group? ..).trans ?_, hfl⟩
      exact (State.startHeld_group?_self ..).trans (congrArg (Option.map _) (hgroup g hg))
    · refine gatherRecorded (State.startHeld_ops ..) (v.startHeld_sameBytes x _) rfl rfl rfl rfl rfl (mem_passing fun e he => ?_) _
      have hmem := (State.targets_sublist ..).subset (List.mem_map_of_mem (f := fun e => (e.1, e.2.1)) he)
      obtain ⟨l, hl, heq⟩ := List.mem_map.mp hmem
      rw [← (Prod.mk.inj heq).1]
      exact (Lanes.mem_list.mp hl).1

end

section
variable {s : State} {i : Instr} {x : Issue} {t : State} (h : Issues s i x t)
include h

/-- How the issue of a gather or scatter ends. -/
theorem gatherOp_outcome (sp : Space) (ty : Ty) (cb : Nat) (load : Bool) :
    let c := cleared t x cb
    let r := gatherChecks c x sp ty load
    let kind : AccKind := if load then .load ty else .store ty
    let data : Option Nat := if load then none else some 1
    let off : Option Nat := some (if load then 1 else 2)
    let clear (u : State) : Prop :=
      ∃ g, u.group? x.g.uid = some g ∧ cellGet g.cb cb = 0 ∧ ∀ k, k ≠ cb → cellGet g.cb k = cellGet x.g.cb k
    (x.lanes = 0 → ∃ u, gatherOp i sp ty cb load s = .next u ∧ clear u ∧ u.ops = t.ops ∧ SameBytes t u) ∧
      (x.lanes ≠ 0 → r.2.1 = [] → ∃ u, gatherOp i sp ty cb load s = .next u ∧ clear u ∧ Sent x c u sp off kind data (some cb)) ∧
      (x.lanes ≠ 0 → r.2.1 ≠ [] → ∃ v g,
        gatherOp i sp ty cb load s = .next (v.raiseTrap g x.sp.id x.pc x.len
          { Trap.ofFaults r.2.1 with cb := some cb, gather := some { instr := x.i, lanes := x.lanes, cb := cb } }) ∧
        v.group? x.g.uid = some g ∧ clear v ∧ g.bk.win = x.g.bk.win ∧ (g.bk.split? x.sp.id).map (·.pc) = some x.sp.pc ∧
        (r.1 = [] → v.ops = t.ops ∧ KeepsBytes t v) ∧
        (r.1 ≠ [] → SentBy (passing r.1) x c v sp off kind data (some cb) (x.dest.map fun d => { d with shift := false }))) := by
  intro c r kind data off clear
  refine ⟨fun hl => ?_, fun hl hpass => ?_, fun hl hbad => ?_⟩
  · obtain ⟨gs, ts, hfin⟩ := c.finish_eq x
    refine ⟨c.finish x, issue_eq_next h (if_pos hl), h.cleared_cb cb (.finish c x), by rw [hfin]; rfl, ?_⟩
    exact c.finish_sameBytes x
  · obtain ⟨hregs, hsent⟩ := State.gatherSend_pass (cb := cb) hpass
    exact ⟨_, issue_eq_next h (if_neg hl), h.cleared_cb cb hregs, hsent⟩
  · obtain ⟨v, hv, hregs, hgroup, hnone, hsome⟩ := State.gatherSend_fail (cb := cb) hbad
    obtain ⟨g₀, hg₀, hbk₀, -⟩ := h.cleared_group? cb
    obtain ⟨g, fl, hg, hbk⟩ := hgroup g₀ hg₀
    refine ⟨v, g, ?_, hg, h.cleared_cb cb hregs, by rw [hbk, hbk₀], ?_, hnone, hsome⟩
    · refine (issue_eq_next h (if_neg hl)).trans (congrArg _ (hv.trans ?_))
      simp only [State.trapNow, hg]
      rfl
    · rw [hbk, hbk₀]
      exact congrArg (Option.map _) h.split?

end

/-- Settles O39: LDX and STX are one operation (`gatherOp_outcome`). -/
theorem gathersComplete : Obligations.GathersComplete := by
  intro i s x t h
  cases i with
  | ldx c sp ty cb => exact gatherOp_outcome h sp ty cb.toNat true
  | stx c sp ty cb => exact gatherOp_outcome h sp ty cb.toNat false
  | _ => exact True.intro

end Sys2Proof.Machine
end

section
/-! SUPPORT. The Tether's instructions at their issue (R245, R354, R361 to R365): the transfer, the read of a counter and the collective that each
starts. -/

namespace Sys2Proof.Machine

open Sys2Proof.Claims

/-! ## A look at a table, and the operation after it -/

theorem Reached.touch (s : State) (asid va n : Nat) : Reached s (s.touch asid va n) := by
  obtain ⟨m, w, ps, h⟩ := s.touch_eq asid va n
  refine ⟨m, w, ps, s.tlb, s.fresh, s.copies, h, fun hp => ?_⟩
  have hstay := (s.touch_of_none asid va n hp).symm.trans h
  exact ⟨(congrArg State.dram hstay).symm, (congrArg State.partials hstay).symm.trans hp⟩

theorem Reached.touchIn (s : State) (asid : Nat) (a : Context → Nat) : Reached s (s.touchIn asid a) := by
  unfold State.touchIn
  split
  · exact .touch ..
  · exact .refl s

theorem Reached.sameRegs {t v : State} (h : Reached t v) : SameRegs t v := by
  obtain ⟨_, _, _, _, _, _, rfl, -⟩ := h
  exact .of_eq rfl rfl rfl rfl

theorem Reached.remotes {t v : State} (h : Reached t v) : v.remotes = t.remotes := by obtain ⟨_, _, _, _, _, _, rfl, -⟩ := h; rfl

theorem Reached.colls {t v : State} (h : Reached t v) : v.colls = t.colls ∧ v.collSeq = t.collSeq := by
  obtain ⟨_, _, _, _, _, _, rfl, -⟩ := h
  exact ⟨rfl, rfl⟩

theorem Reached.asidOf {t v : State} (h : Reached t v) (g : Group) : v.asidOf g = t.asidOf g := by
  obtain ⟨_, _, _, _, _, _, rfl, -⟩ := h
  rfl

section
variable {s : State} {i : Instr} {x : Issue} {t v : State} (h : Issues s i x t) (hv : Reached t v)
include h hv

/-- An operation that starts after a look at tables: of registers and bytes nothing changes, the partial results that the look returns apart. -/
theorem adds_after_look (f : Op → Op) (huid : (f (x.op v.nextId)).uid = v.nextId) (hgrp : (f (x.op v.nextId)).grp = x.g.uid)
    (hlanes : (f (x.op v.nextId)).lanes = x.lanes) (hdest : (f (x.op v.nextId)).dest = x.dest) :
    Adds x t (v.start x f) (f (x.op v.nextId)) ∧ Undisturbed s (v.start x f) := by
  refine ⟨adds_of_ops ((State.start_ops ..).trans (by rw [hv.ops])) (huid.trans hv.nextId) hgrp hlanes hdest,
    (h.sameRegs.trans hv.sameRegs).trans (.start v x f), fun hp => ?_⟩
  have hnone : t.partials = [] := by
    obtain ⟨gs, ps, ms, rfl⟩ := h.taken_eq
    exact hp
  exact (h.sameBytes.trans (hv.keepsBytes hnone)).trans (v.start_sameBytes x f)

/-- The device once a transfer has forked after a look at the window table. -/
def State.forked (v : State) (x : Issue) (job : Job) (r : Remote) : State :=
  { v.start x fun o => { o with job := job } with remotes := (v.start x fun o => { o with job := job }).remotes ++ [r] }

/-- A transfer that forks is added to the engine's, under its operation. -/
theorem remote_forks (job : Job) (r : Remote) :
    Adds x t (v.forked x job r) { x.op v.nextId with job := job } ∧ (v.forked x job r).remotes = t.remotes ++ [r] ∧
      Undisturbed s (v.forked x job r) := by
  obtain ⟨hadds, hregs, hbytes⟩ := adds_after_look h hv (fun o => { o with job := job }) rfl rfl rfl rfl
  obtain ⟨gs, ts, hstart⟩ := v.start_eq x fun o => { o with job := job }
  refine ⟨hadds, ?_, hregs.trans (.of_eq rfl rfl rfl rfl), hbytes⟩
  rw [State.forked, hstart, ← hv.remotes]

end

/-! ## PUT and GET, RATOM, WSTAT -/

section
variable {s : State} {i : Instr} {x : Issue} {t : State}

/-- A PUT or GET whose checks pass forks its transfer, with every word of it to do (R362). -/
theorem transferOp_starts {kind : RemoteKind} (h : Issues s i x t) (hl : x.lanes ≠ 0)
    (htarget : t.targetCheck x (w32 (t.srcLow x 3)) (t.srcLow x 0).toNat = none) (hlen : (w32 (t.srcLow x 2)).toNat ≤ 16777216)
    (hlen4 : (w32 (t.srcLow x 2)).toNat % 4 = 0) (hva4 : (t.srcLow x 1).toNat % 4 = 0) (hroff4 : (t.srcLow x 0).toNat % 4 = 0)
    (hva : (t.srcLow x 1).toNat < 2 ^ 56) (hend : (t.srcLow x 1).toNat + (w32 (t.srcLow x 2)).toNat ≤ 2 ^ 56) :
    ∃ v, Reached t v ∧ transferOp i kind s = .next (v.forked x .answer (v.newRemote x v.nextId kind (w32 (t.srcLow x 3)) (t.srcLow x 0).toNat
      (t.srcLow x 1).toNat (w32 (t.srcLow x 2)).toNat)) := by
  refine ⟨_, Reached.touchIn t (t.asidOf x.g) fun c => c.winTab + 64 * (targetWin (w32 (t.srcLow x 3))).toNat, issue_eq_next h ?_⟩
  have hsize : ¬16777216 < (w32 (t.srcLow x 2)).toNat := by omega
  have hplace : (decide (2 ^ 56 ≤ (t.srcLow x 1).toNat) || decide (2 ^ 56 < (t.srcLow x 1).toNat + (w32 (t.srcLow x 2)).toNat)) = false := by
    rw [decide_eq_false (by omega), decide_eq_false (by omega), Bool.or_false]
  have hshape : ((w32 (t.srcLow x 2)).toNat % 4 != 0 || (t.srcLow x 1).toNat % 4 != 0 || (t.srcLow x 0).toNat % 4 != 0) = false := by
    rw [hlen4, hva4, hroff4]
    rfl
  simp only [if_neg hl, htarget, if_neg hsize, hshape, hplace, Bool.false_eq_true, if_false]
  rfl

/-- A RATOM whose checks pass forks its exchange (R364). -/
theorem execRatom_starts {c : Ctl} {ty : Ty} {aop : AtomOp} {d a b y : Opnd} (h : Issues s (.ratom c ty aop d a b y) x t) (hl : x.lanes ≠ 0) :
    let k := if aop = .cas then 1 else 0
    let roff := (t.srcLow x k).toNat
    let target := w32 (t.srcLow x (k + 2))
    t.targetCheck x target roff = none → roff % atomSize ty = 0 →
    ∃ v, Reached t v ∧ execRatom c ty aop d a b y s = .next (v.forked x .remote
      { v.newRemote x v.nextId (.ratom ty aop (t.srcLow x (k + 1)) (if aop = .cas then t.srcLow x 0 else 0)) target roff 0 0 with
        len := atomSize ty }) := by
  intro k roff target htarget halign
  refine ⟨_, Reached.touchIn t (t.asidOf x.g) fun c => c.winTab + 64 * (targetWin target).toNat, issue_eq_next h ?_⟩
  have hshape : (roff % atomSize ty != 0) = false := by rw [halign]; rfl
  simp only [k, roff, target] at htarget hshape
  simp only [if_neg hl, htarget, hshape, Bool.false_eq_true, if_false]
  rfl

/-- WSTAT of a VALID window whose counter can be read starts the read (R365). -/
theorem execWstat_starts {c : Ctl} {arrived : Bool} {d a : Opnd} {v : Window} {pa lcls : Nat} {mig nopin priv : Bool}
    (h : Issues s (.wstat c arrived d a) x t) (hl : x.lanes ≠ 0) (hw : (w32 (t.srcLow x 0)).toNat < 4096)
    (hwin : t.window? (t.asidOf x.g) (w32 (t.srcLow x 0)).toNat = some v)
    (hx : t.xlateWalk (t.asidOf x.g) (v.entry + if arrived then 24 else 16) .read true = .ok pa lcls mig nopin priv) :
    ∃ u, Reached t u ∧ execWstat c arrived d a s =
      .next (u.start x fun o => { o with job := .wstat pa (v.entry + if arrived then 24 else 16) }) := by
  refine ⟨_, (Reached.touchIn t (t.asidOf x.g) fun c => c.winTab + 64 * (w32 (t.srcLow x 0)).toNat).trans
    (.recallWalk _ (t.asidOf x.g) (v.entry + if arrived then 24 else 16)), issue_eq_next h ?_⟩
  simp only [if_neg hl, if_neg (Nat.not_le.mpr hw), hwin, Window.counter, hx]

end

/-! ## A collective keeps what it forked with -/

/-- What a collective forks with: everything but how far it has come. -/
def Coll.fixed (k : Coll) : Coll :=
  { k with toRead := [], toWrite := [], own := [], parts := [], finals := [], sent := [], due := 0, counted := false, isOver := false }

/-- The sequence numbers, and every collective's fixed part, are as they were. -/
def KeepsColls (s u : State) : Prop := u.collSeq = s.collSeq ∧ ∀ uid, (u.coll? uid).map Coll.fixed = (s.coll? uid).map Coll.fixed

theorem KeepsColls.refl (s : State) : KeepsColls s s := ⟨rfl, fun _ => rfl⟩

theorem KeepsColls.trans {s t u : State} (h : KeepsColls s t) (k : KeepsColls t u) : KeepsColls s u :=
  ⟨k.1.trans h.1, fun uid => (k.2 uid).trans (h.2 uid)⟩

theorem KeepsColls.of_eq {s u : State} (h : u.colls = s.colls) (hseq : u.collSeq = s.collSeq) : KeepsColls s u :=
  ⟨hseq, fun uid => by rw [State.coll?, State.coll?, h]⟩

theorem KeepsColls.withHeld (s : State) (held : List (Nat × Frame)) : KeepsColls s { s with held := held } := .of_eq rfl rfl

/-- A fold of steps that keep them keeps them. -/
theorem KeepsColls.foldl {α : Type} {f : State → α → State} (hf : ∀ s a, KeepsColls s (f s a)) (xs : List α) (s : State) :
    KeepsColls s (xs.foldl f s) := by
  induction xs generalizing s with
  | nil => exact .refl s
  | cons x xs ih => exact (hf s x).trans (ih _)

theorem State.coll?_uid {s : State} {uid : Nat} {k : Coll} (h : s.coll? uid = some k) : k.uid = uid := by simpa using List.find?_some h

/-- A collective that goes on replaces itself. -/
theorem KeepsColls.setColl {s : State} {k : Coll} (h : (s.coll? k.uid).map Coll.fixed = some k.fixed) : KeepsColls s (s.setColl k) := by
  refine ⟨rfl, fun uid => ?_⟩
  by_cases huid : uid = k.uid
  · subst huid
    rw [h]
    obtain ⟨q, hq, -⟩ := Option.map_eq_some_iff.mp h
    have hself : (s.setColl k).coll? k.uid = some k := by
      unfold State.coll? State.setColl at *
      generalize s.colls = cs at hq
      induction cs with
      | nil => cases hq
      | cons c cs ih =>
        rw [List.map_cons, List.find?_cons]
        by_cases hc : c.uid = k.uid
        · simp [hc]
        · rw [List.find?_cons_of_neg (by simpa using hc)] at hq
          simp only [beq_eq_false_iff_ne.mpr hc, Bool.false_eq_true, if_false]
          exact ih hq
    rw [hself]
    rfl
  · have hother : (s.setColl k).coll? uid = s.coll? uid := by
      unfold State.coll? State.setColl
      induction s.colls with
      | nil => rfl
      | cons c cs ih =>
        dsimp only at ih ⊢
        rw [List.map_cons, List.find?_cons, List.find?_cons, ih]
        by_cases hc : c.uid = k.uid
        · simp [hc, beq_eq_false_iff_ne.mpr (Ne.symm huid)]
        · simp [hc]
    rw [hother]

theorem KeepsColls.postNotice (s : State) (uid : Nat) (r : TrapRec) (pc : DWord) : KeepsColls s (s.postNotice uid r pc) := by
  obtain ⟨gs, n, h⟩ := s.postNotice_eq uid r pc
  rw [h]
  exact .of_eq rfl rfl

theorem KeepsColls.meter (s : State) (place team n : Nat) (kind : Metered) : KeepsColls s (s.meter place team kind n) := by
  obtain ⟨ms, h⟩ := s.meter_eq place team kind n
  rw [h]
  exact .of_eq rfl rfl

/-- A counter's increment touches memory and the meters alone. -/
theorem KeepsColls.bump {s u : State} {team asid va n : Nat} {fail priv : Bool} (h : s.bump team asid va n fail priv = .ok u) :
    KeepsColls s u := by
  obtain ⟨m, w, ps, hr⟩ := s.recallWalk_eq asid va
  unfold State.bump at h
  dsimp only at h
  split at h
  · cases h
  · next pa _ _ _ _ _ =>
    split at h
    · cases h
    · obtain ⟨m', w', hl⟩ := (s.recallWalk asid va).recall_eq (pa / 128)
      have hmeter := State.meterSlice_keeps (fun t => (t.colls, t.collSeq)) (fun _ _ _ _ _ => rfl)
        ((s.recallWalk asid va).recall (pa / 128)) team (.glob pa)
      obtain ⟨hcolls, hseq⟩ := Prod.mk.inj hmeter
      obtain ⟨_, _, _, hw⟩ := (((s.recallWalk asid va).recall (pa / 128)).meterSlice team (.glob pa)).homeWrite_eq pa n _
      rw [← Except.ok.inj h, hw]
      exact .of_eq (hcolls.trans (by rw [hl, hr])) (hseq.trans (by rw [hl, hr]))

/-- A collective that stands in a device's list, as it forked. -/
def State.holdsColl (s : State) (k : Coll) : Prop := (s.coll? k.uid).map Coll.fixed = some k.fixed

theorem State.holdsColl_of_coll? {s : State} {uid : Nat} {k : Coll} (h : s.coll? uid = some k) : s.holdsColl k := by
  rw [State.holdsColl, State.coll?_uid h, h]
  rfl

theorem KeepsColls.holdsColl {s u : State} (h : KeepsColls s u) {k q : Coll} (hk : s.holdsColl k) (hq : q.fixed = k.fixed) : u.holdsColl q := by
  have huid : q.fixed.uid = k.fixed.uid := congrArg Coll.uid hq
  exact (h.2 q.uid).trans ((congrArg (fun n => (s.coll? n).map Coll.fixed) huid).trans (hk.trans (congrArg some hq.symm)))

theorem KeepsColls.abortColl {s : State} {k : Coll} (h : s.holdsColl k) (tell : Bool) : KeepsColls s (s.abortColl k tell) := by
  have hcount : KeepsColls s (match s.bump k.team k.asid k.counter 4 true k.priv with
      | .ok s => s
      | .error c => s.postNotice k.grp ⟨c, 5, BitVec.ofNat 64 k.counter, 0⟩ k.pc) := by
    split
    · exact .bump ‹_›
    · exact .postNotice ..
  have hover := hcount.trans (.setColl (k := { k with isOver := true }) (hcount.holdsColl h rfl))
  have hheld := (hover.trans (.withHeld _ (s.held.filter fun e => !s.awaits k e))).trans
    (.postNotice _ k.grp ⟨tcRemote, 5, BitVec.ofNat 64 0, 0⟩ k.pc)
  unfold State.abortColl
  dsimp only
  split
  · refine hheld.trans (.foldl (fun s r => ?_) _ _)
    split
    · split
      · exact .of_eq rfl rfl
      · exact .refl s
    · exact .refl s
  · exact hheld

theorem KeepsColls.sendAll {s : State} {k : Coll} (h : s.holdsColl k) (own : BitVec 10) (ms : List CollMsg) : KeepsColls s (s.sendAll k own ms) := by
  induction ms generalizing s k with
  | nil => exact .setColl h
  | cons m ms ih =>
    unfold State.sendAll
    split
    · exact ih h
    · split
      · exact .abortColl h true
      · split
        · exact .abortColl h true
        · have hsent := (KeepsColls.meter s (baseDie k.core) k.team m.elems.length .link)
          refine KeepsColls.trans ?_ (ih ?_)
          · exact hsent.trans (.of_eq rfl rfl)
          · exact hsent.holdsColl h rfl

theorem KeepsColls.advance (s : State) (uid : Nat) : KeepsColls s (s.advance uid) := by
  unfold State.advance
  split
  · split
    · exact .refl s
    · exact .sendAll (State.holdsColl_of_coll? ‹_›) ..
  · exact .refl s

/-- A fold of steps that each change how far a collective has come alone. -/
theorem foldl_fixed {α : Type} {f : Coll → α → Coll} (hf : ∀ k a, (f k a).fixed = k.fixed) (xs : List α) (k : Coll) :
    (xs.foldl f k).fixed = k.fixed := by
  induction xs generalizing k with
  | nil => rfl
  | cons x xs ih => exact (ih _).trans (hf k x)

/-- Learning values is one. -/
theorem Coll.learn_fixed (k : Coll) (f : Frame) : (k.learn f).fixed = k.fixed := by
  refine foldl_fixed (fun k i => ?_) _ _
  dsimp only
  split
  · split <;> rfl
  · split <;> rfl

theorem KeepsColls.collFrame {s : State} {k : Coll} (h : s.holdsColl k) (f : Frame) : KeepsColls s (s.collFrame k f) := by
  unfold State.collFrame
  split
  · exact .refl s
  · split
    · exact .abortColl h false
    · split
      · exact .abortColl h true
      · exact KeepsColls.trans (.setColl ((KeepsColls.refl s).holdsColl h (k.learn_fixed f))) (.advance ..)

theorem KeepsColls.releaseHeld (s : State) (k : Coll) : KeepsColls s (s.releaseHeld k) := by
  unfold State.releaseHeld
  split
  · exact .refl s
  · refine KeepsColls.trans (.withHeld s _) (.foldl (fun s e => ?_) _ _)
    split
    · exact .collFrame (State.holdsColl_of_coll? ‹_›) _
    · exact .refl s

/-! ## COLL -/

/-- The device once a collective has forked after a look at the tables. -/
def State.collForked (v : State) (x : Issue) (k : Coll) (key : Nat) : State :=
  { v.start x fun o => { o with job := .answer } with
    colls := (v.start x fun o => { o with job := .answer }).colls ++ [k]
    collSeq := tabSet (v.start x fun o => { o with job := .answer }).collSeq key (k.seq + 1) }

/-- The frames held for it and what it sends at once leave it as it forked, next in its group's sequence. -/
theorem coll_forks {x : Issue} {t v : State} {k : Coll} (hv : Reached t v) (hk : k.uid = v.nextId) (hnew : ∀ q ∈ t.colls, q.uid ≠ t.nextId)
    (key : Nat) :
    let u := ((v.collForked x k key).releaseHeld k).advance k.uid
    (∃ q, u.coll? t.nextId = some q ∧ q.fixed = k.fixed) ∧ u.collSeq = tabSet t.collSeq key (k.seq + 1) := by
  intro u
  obtain ⟨gs, ts, hstart⟩ := v.start_eq x fun o => { o with job := .answer }
  obtain ⟨hcolls, hseq⟩ := hv.colls
  obtain ⟨hkeptSeq, hkept⟩ : KeepsColls (v.collForked x k key) u := (KeepsColls.releaseHeld ..).trans (.advance ..)
  have hforked : (v.collForked x k key).coll? t.nextId = some k := by
    have hnone : (t.colls.find? fun q => q.uid == t.nextId) = none := List.find?_eq_none.mpr fun q hq => by simpa using hnew q hq
    have hself : k.uid = t.nextId := hk.trans hv.nextId
    rw [State.coll?, State.collForked, hstart]
    simp [hcolls, List.find?_append, hnone, hself]
  refine ⟨?_, ?_⟩
  · have hmap := hkept t.nextId
    rw [hforked] at hmap
    exact Option.map_eq_some_iff.mp hmap
  · rw [hkeptSeq, State.collForked, hstart, ← hseq]

/-- A COLL whose checks pass forks its collective (R361, R363). -/
theorem execColl_starts {s : State} {x : Issue} {t : State} {c : Ctl} {cop : CollOp} {fmt : CollFmt} {red : CollRed} {a b : Opnd} {w : Window}
    {k : CollGroup} (h : Issues s (.coll c cop fmt red a b) x t) (hl : x.lanes ≠ 0) (hv : w32 (t.srcLow x 1) &&& 0xF000F000 = 0)
    (hw : t.window? (t.asidOf x.g) ((w32 (t.srcLow x 1)).toNat % 2 ^ 12) = some w)
    (hk : t.collGroup? (t.asidOf x.g) ((w32 (t.srcLow x 1)).toNat / 2 ^ 16 % 2 ^ 12) = some k) (hdev : t.devid.isSome = true)
    (hrank : k.rank < k.count) (hsize : w.size % collBytes fmt = 0)
    (hshare : cop = .allgather ∨ cop = .reducescatter → w.size / collBytes fmt % k.count = 0) (hcount4 : (t.srcLow x 0).toNat % 4 = 0)
    (hcount : (t.srcLow x 0).toNat < 2 ^ 56) :
    let cg := (w32 (t.srcLow x 1)).toNat / 2 ^ 16 % 2 ^ 12
    ∃ v q, Reached t v ∧
      q = v.newColl x cop fmt red ((w32 (t.srcLow x 1)).toNat % 2 ^ 12) cg (t.srcLow x 0).toNat w k ∧
      execColl c cop fmt red a b s = .next (((v.collForked x q (t.asidOf x.g * 4096 + cg)).releaseHeld q).advance q.uid) := by
  intro cg
  refine ⟨_, _, (Reached.touchIn t (t.asidOf x.g) fun c => c.winTab + 64 * ((w32 (t.srcLow x 1)).toNat % 2 ^ 12)).trans
    (.touchIn _ (t.asidOf x.g) fun c => c.cgTab + 16 * cg), rfl, issue_eq_next h ?_⟩
  have hhere : (t.devid.isNone || decide (k.count ≤ k.rank)) = false := by
    rw [Option.isNone_eq_false_iff.mpr hdev, decide_eq_false (Nat.not_le.mpr hrank), Bool.or_false]
  have hshape : (w.size % collBytes fmt != 0 ||
      ((cop == .allgather || cop == .reducescatter) && w.size / collBytes fmt % k.count != 0)) = false := by
    rw [hsize]
    by_cases hcop : cop = .allgather ∨ cop = .reducescatter
    · simp [hshare hcop]
    · obtain ⟨hgather, hscatter⟩ := not_or.mp hcop
      simp [hgather, hscatter]
  have hreserved : (w32 (t.srcLow x 1) &&& 0xF000F000 != 0) = false := by rw [hv]; rfl
  have halign : ((t.srcLow x 0).toNat % 4 != 0) = false := by rw [hcount4]; rfl
  simp only [if_neg hl, hreserved, hw, hk, hhere, hshape, halign, if_neg (Nat.not_le.mpr hcount), Bool.false_eq_true, if_false]
  rfl

/-! ## The statement -/

/-- Settles O55, instruction by instruction: a transfer forks after its look at the window table (`remote_forks`), WSTAT's read starts after its
own (`adds_after_look`), and a collective stays as it forked while the frames held for it are acted on (`coll_forks`). -/
theorem tetherInstructions : Obligations.TetherInstructions := by
  intro i s x t h starts
  refine ⟨?_, ?_, ?_, ?_⟩
  · intro kind hkind roff va len target
    have hexec : exec i s = transferOp i kind s := by
      rcases hkind with ⟨c, d, a, b, y, ⟨rfl, rfl⟩ | ⟨rfl, rfl⟩⟩ <;> rfl
    refine ⟨fun hl => hexec.trans (issue_eq_next h (if_pos hl)), fun hl htarget hlen hlen4 hva4 hroff4 hva hend => ?_⟩
    obtain ⟨u, hu, hnext⟩ := transferOp_starts (kind := kind) h hl htarget hlen hlen4 hva4 hroff4 hva hend
    obtain ⟨hadds, hremotes, hkept⟩ := remote_forks h hu .answer (u.newRemote x u.nextId kind target roff va len)
    exact ⟨_, _, ⟨_, hexec.trans hnext, hadds, hremotes, rfl, rfl, rfl, rfl, rfl, hkept⟩, rfl, rfl, rfl, rfl, rfl, rfl, rfl, rfl⟩
  · rintro c ty aop d a b y rfl k roff target
    refine ⟨fun hl => (issue_eq_next h (if_pos hl) : execRatom c ty aop d a b y s = _), fun hl htarget halign => ?_⟩
    obtain ⟨u, hu, hnext⟩ := execRatom_starts h hl htarget halign
    obtain ⟨hadds, hremotes, hkept⟩ := remote_forks h hu .remote { u.newRemote x u.nextId
      (.ratom ty aop (t.srcLow x (k + 1)) (if aop = .cas then t.srcLow x 0 else 0)) target roff 0 0 with len := atomSize ty }
    exact ⟨_, _, ⟨_, hnext, hadds, hremotes, rfl, rfl, rfl, rfl, rfl, hkept⟩, rfl, rfl, rfl, rfl, rfl, rfl⟩
  · rintro c arrived d a rfl w
    refine ⟨fun hl => (issue_eq_next h (if_pos hl) : execWstat c arrived d a s = _), fun hl hw v pa lcls mig nopin priv hwin hx => ?_⟩
    obtain ⟨u, hu, hnext⟩ := execWstat_starts h hl hw hwin hx
    obtain ⟨hadds, hkept⟩ := adds_after_look h hu (fun o => { o with job := .wstat pa (v.entry + if arrived then 24 else 16) }) rfl rfl rfl rfl
    exact ⟨_, _, hnext, hadds, rfl, hkept⟩
  · rintro c cop fmt red a b rfl counter v cg
    refine ⟨fun hl => (issue_eq_next h (if_pos hl) : execColl c cop fmt red a b s = _),
      fun hl hv w k hw hk hdev hrank hsize hshare hcount4 hcount hnew => ?_⟩
    obtain ⟨u, forked, hu, hforked, hnext⟩ := execColl_starts h hl hv hw hk hdev hrank hsize hshare hcount4 hcount
    obtain ⟨⟨q, hq, hfixed⟩, hseq⟩ := coll_forks (x := x) hu (congrArg Coll.uid hforked) hnew (t.asidOf x.g * 4096 + cg)
    subst hforked
    have hnumber : q.seq = tabGetD t.collSeq (t.asidOf x.g * 4096 + cg) 0 := by
      refine (congrArg Coll.seq hfixed :).trans ?_
      show tabGetD u.collSeq (u.asidOf x.g * 4096 + cg) 0 = _
      rw [hu.colls.2, hu.asidOf]
    refine ⟨_, q, hnext, hq, (congrArg Coll.cop hfixed :), (congrArg Coll.fmt hfixed :), (congrArg Coll.red hfixed :),
      (congrArg Coll.cgroup hfixed :), (congrArg Coll.base hfixed :), (congrArg Coll.n hfixed :), (congrArg Coll.count hfixed :),
      (congrArg Coll.rank hfixed :), (congrArg Coll.counter hfixed :), hnumber, ?_⟩
    rw [hseq, tabGetD_tabSet, if_pos rfl]
    exact congrArg (· + 1) (congrArg Coll.seq hfixed :).symm

end Sys2Proof.Machine
end

section
/-! SUPPORT. The instructions on cells and tasks at their issue (R297 to R302, R307, R308, R322 to R328): an object that is checked first, an
operation that holds its group until the answer, and a group that leaves its slot. -/

namespace Sys2Proof.Machine

open Sys2Proof.Claims

/-! ## An object that is checked first (R251, R296) -/

theorem Reached.objectAt (t : State) (x : Issue) (va align : Nat) (need : Need) (access : BitVec 3) :
    Reached t (t.objectAt x va align need access).2 := by
  unfold State.objectAt
  dsimp only
  split
  · exact .refl t
  · split
    · exact .refl t
    · split <;> exact .xlate ..

theorem Reached.of_objectAt {t v : State} {x : Issue} {va align : Nat} {need : Need} {access : BitVec 3} {r : Except Trap Nat}
    (h : t.objectAt x va align need access = (r, v)) : Reached t v := by
  have hreach := Reached.objectAt t x va align need access
  rwa [h] at hreach

/-- An effect on an object: the trap of the check that fails, or `f` of its physical address and of the device after the translation. -/
def State.onObject (t : State) (x : Issue) (va align : Nat) (need : Need) (access : BitVec 3) (f : Nat → State → State) : Except Trap State :=
  match t.objectAt x va align need access with
  | (.error e, _) => .error e
  | (.ok pa, v) => .ok (f pa v)

/-- The value that an instruction carries to its object: that of a read field, or 0 where it carries none. -/
def State.carried (t : State) (x : Issue) (field : Option Nat) : DWord := match field with | some k => t.srcLow x k | none => 0

section
variable {s : State} {i : Instr} {x : Issue} {t : State} (h : Issues s i x t)
include h

/-- An effect that traps. -/
theorem issue_eq_trapOf {k : Issue → State → Except Trap State} {e : Trap} (hk : k x t = .error e) : issue i s k = .next (s.trapOf i x e) := by
  rw [issue_eq h, hk]

section
variable {k : Issue → State → Except Trap State} {va align : Nat} {need : Need} {access : BitVec 3} {f : Nat → State → State} {v : State}
  (hk : k x t = t.onObject x va align need access f)
include hk

theorem issue_onObject_trap {e : Trap} (ho : t.objectAt x va align need access = (.error e, v)) : issue i s k = .next (s.trapOf i x e) :=
  issue_eq_trapOf h (hk.trans (by rw [State.onObject, ho]))

theorem issue_onObject_next {pa : Nat} (ho : t.objectAt x va align need access = (.ok pa, v)) : issue i s k = .next (f pa v) :=
  issue_eq_next h (hk.trans (by rw [State.onObject, ho]))

end

/-! ## An operation that holds its group -/

theorem Issues.keepsBytes {v : State} (hv : KeepsBytes t v) : KeepsBytes s v := fun hp => by
  have hnone : t.partials = [] := by
    obtain ⟨_, _, _, rfl⟩ := h.taken_eq
    exact hp
  exact h.sameBytes.trans (hv hnone)

end

/-- The instruction is recorded as an operation with the given work, which holds its group, and no byte changes but by partial results. -/
def HeldFor (s : State) (x : Issue) (t : State) (job : Job) (out : Out) : Prop :=
  ∃ u o, out = .next u ∧ Adds x t u o ∧ o.job = job ∧ (u.group? x.g.uid).map (·.hold) = some (.op o.uid) ∧ KeepsBytes s u

/-- The device once such an operation is recorded. -/
def State.heldFor (v : State) (x : Issue) (job : Job) : State := (v.startHeld x fun o => { o with job := job }).holdOn x.g.uid v.nextId

theorem Issues.heldFor_next {s : State} {i : Instr} {x : Issue} {t v : State} (h : Issues s i x t) (hgroups : v.groups = t.groups)
    (hops : v.ops = t.ops) (hnext : v.nextId = t.nextId) (hbytes : KeepsBytes t v) (job : Job) :
    HeldFor s x t job (.next (v.heldFor x job)) := by
  obtain ⟨_, _, _, hg⟩ := h.taken_group
  obtain ⟨g, hheld⟩ := State.startHeld_group? (t := v) (x := x) (by rw [State.group?, hgroups]; exact hg) fun o => { o with job := job }
  exact ⟨_, { x.op v.nextId with job := job }, rfl, adds_of_ops (congrArg (· ++ [_]) hops) hnext rfl rfl rfl, rfl,
    State.holdOn_hold hheld _, h.keepsBytes hbytes⟩

theorem Reached.heldFor_next {s : State} {i : Instr} {x : Issue} {t v : State} (hv : Reached t v) (h : Issues s i x t) (job : Job) :
    HeldFor s x t job (.next (v.heldFor x job)) :=
  h.heldFor_next hv.groups hv.ops hv.nextId hv.keepsBytes job

/-! ## FSET, FTEST, UNLOCK, SPAWN, DEPDEC: the home of an object is asked (R298, R299, R322) -/

/-- How the issue of an instruction that asks the home of its object ends. -/
def AsksHome (i : Instr) (s : State) (x : Issue) (t : State) (va align : Nat) (need : Need) (access : BitVec 3) (wide : Bool) (v : DWord)
    (out : Out) : Prop :=
  (x.lanes = 0 → out = .next (t.finish x)) ∧
    (x.lanes ≠ 0 → ∀ e t', t.objectAt x va align need access = (.error e, t') → out = .next (s.trapOf i x e)) ∧
    (x.lanes ≠ 0 → ∀ pa t', t.objectAt x va align need access = (.ok pa, t') → HeldFor s x t (.almanac va pa wide v) out)

section
variable {s : State} {i : Instr} {x : Issue} {t : State} (h : Issues s i x t)
include h

theorem asksHome_of_effect {k : Issue → State → Except Trap State} {va align : Nat} {need : Need} {access : BitVec 3} {wide : Bool} {v : DWord}
    (hidle : x.lanes = 0 → k x t = .ok (t.finish x))
    (hk : x.lanes ≠ 0 → k x t = t.onObject x va align need access fun pa u => u.ask x va pa wide v) :
    AsksHome i s x t va align need access wide v (issue i s k) := by
  refine ⟨fun hl => issue_eq_next h (hidle hl), fun hl e t' ho => issue_onObject_trap h (hk hl) ho, fun hl pa t' ho => ?_⟩
  rw [issue_onObject_next h (hk hl) ho]
  exact (Reached.of_objectAt ho).heldFor_next h _

theorem cellOp_asksHome (need : Need) (off : Nat) (wide : Bool) (value : Option Nat) :
    AsksHome i s x t (t.objectAddr x off) 16 need 4 wide (t.carried x value) (cellOp i need off wide value s) :=
  asksHome_of_effect h (fun hl => if_pos hl) fun hl => if_neg hl

/-- TDONE asks for its team's own task (R301). -/
theorem tdoneOp_asks (hl : x.lanes ≠ 0) {m : Team} {pa lcls : Nat} {mig nopin priv : Bool} (hm : t.teamOf x.g = some m)
    (hx : (t.recallWalk m.asid m.task).xlateWalk m.asid m.task .both true = .ok pa lcls mig nopin priv) :
    HeldFor s x t (.almanac m.task pa false 0) (tdoneOp i s) := by
  have hasid : t.asidOf x.g = m.asid := by rw [State.asidOf, ← State.teamOf, hm]
  have hread := Reached.recallWalk t m.asid m.task
  have hnext : tdoneOp i s = .next ((t.recallWalk m.asid m.task).heldFor x (.almanac m.task pa false 0)) :=
    issue_eq_next h ((if_neg hl).trans (by simp only [hm, hasid, hread.asidOf, hx]; rfl))
  rw [hnext]
  exact hread.heldFor_next h _

end

section
variable {s : State} {x : Issue} {t : State} {c : Ctl} {d a b : Opnd}

theorem execDepdec_asksHome (h : Issues s (.depdec c a) x t) :
    AsksHome (.depdec c a) s x t (t.srcLow x 0).toNat 64 .both 4 false 0 (execDepdec c a s) :=
  asksHome_of_effect h (fun hl => if_pos hl) fun hl => if_neg hl

/-- SPAWN asks with its level (R298). -/
theorem execSpawn_asksHome (h : Issues s (.spawn c d a b) x t) (hlevel : (w32 (t.srcLow x 1)).toNat ≤ 10) :
    AsksHome (.spawn c d a b) s x t (t.srcLow x 0).toNat 256 .read 2 false (ofW (w32 (t.srcLow x 1))) (execSpawn c d a b s) := by
  refine asksHome_of_effect h (fun hl => if_pos hl) fun hl => (if_neg hl).trans ?_
  simp only [if_neg (Nat.not_lt.mpr hlevel), BitVec.ofNat_toNat]
  rfl

/-- A level above 10 is refused (R298). -/
theorem execSpawn_level (h : Issues s (.spawn c d a b) x t) (hl : x.lanes ≠ 0) (hlevel : 10 < (w32 (t.srcLow x 1)).toNat) {pa : Nat} {v : State}
    (ho : t.objectAt x (t.srcLow x 0).toNat 256 .read 2 = (.ok pa, v)) :
    execSpawn c d a b s = .next (s.trapOf (.spawn c d a b) x (Trap.one 0x02 x.sp.lanes)) :=
  issue_eq_trapOf h ((if_neg hl).trans (by simp only [ho, if_pos hlevel]; rfl))

/-- LAUNCH asks and holds nothing (R297). -/
theorem execLaunch_asks (h : Issues s (.launch c a) x t) (hl : x.lanes ≠ 0) {pa : Nat} {v : State}
    (ho : t.objectAt x (t.srcLow x 0).toNat 256 .read 2 = (.ok pa, v)) :
    ∃ u o, execLaunch c a s = .next u ∧ Adds x t u o ∧ o.job = .launch (t.srcLow x 0).toNat (t.asidOf x.g) ∧ KeepsBytes s u := by
  obtain ⟨hadds, -, hbytes⟩ := adds_after_look h (Reached.of_objectAt ho)
    (fun o => { o with job := .launch (t.srcLow x 0).toNat (t.asidOf x.g) }) rfl rfl rfl rfl
  exact ⟨_, _, issue_onObject_next h (if_neg hl) ho, hadds, rfl, hbytes⟩

end

/-! ## A group that leaves its slot (R20, R123) -/

theorem State.leaveAtTerminator_sameBytes (v : State) (uid : Nat) (place : Place) : SameBytes v (v.leaveAtTerminator uid place) := by
  unfold State.leaveAtTerminator
  split
  · exact .refl v
  · exact State.leaveSlot_sameBytes _ _ _

/-- It stands at its new place, and keeps what it waits for at its barrier. -/
theorem State.leaveAtTerminator_barrier {v : State} {g : Group} {uid : Nat} (hg : v.group? uid = some g) (huid : g.uid = uid) (place : Place) :
    ∃ g', (v.leaveAtTerminator uid place).group? uid = some g' ∧ g'.place = place ∧ g'.barrier = g.barrier := by
  obtain ⟨b, hb, -, -⟩ := v.leaveSlot_group? g place
  refine ⟨{ g with place := place, epoch := g.epoch + 1, bank := b }, ?_, rfl, rfl⟩
  rw [State.leaveAtTerminator, hg]
  exact huid ▸ hb

/-- The issuing group while its instruction is outstanding. -/
theorem State.start_group?_uid {v : State} {x : Issue} {g : Group} (hg : v.group? x.g.uid = some g) (f : Op → Op) :
    ∃ g', (v.start x f).group? x.g.uid = some g' ∧ g'.uid = g.uid := by
  have hcommit := State.commit_group? (s := { v with nextId := v.nextId + 1 }) (x := x) hg v.nextId
  have hstart : (v.start x f).group? x.g.uid = _ :=
    State.modGroup_group? (({ v with nextId := v.nextId + 1 } : State).commit x v.nextId) x.g.uid (fun g => g.setUp x.inHandler x.c.set.toNat) x.g.uid
  rw [if_pos rfl, hcommit] at hstart
  refine ⟨_, hstart, ?_⟩
  exact (Group.setUp_uid ..).trans ((Group.goTo_uid ..).trans (Group.setBk_uid ..))

/-! ## FWAIT, LOCK, CHPUSH, CHPOP, WAITC (R307, R308, R323 to R326) -/

/-- The alignment of a wait's object, what its access needs, and the read field of its value. -/
def WaitOp.objectAlign : WaitOp → Nat | .waitc => 4 | .chpush | .chpop => 32 | _ => 16
def WaitOp.objectNeed : WaitOp → Need | .fwait | .waitc => .read | _ => .both
def WaitOp.valueField : WaitOp → Option Nat | .chpush | .waitc => some 1 | _ => none

theorem exec_of_waitShape {i : Instr} {op : WaitOp} {d : Option Opnd} {wide : Bool} {off : Nat} (h : waitShape i = some (op, d, wide, off))
    (s : State) : exec i s = waitOp i op wide d off op.valueField s := by
  cases i with
  | fwait | lock | chpush | chpop | waitc =>
    cases h
    rfl
  | _ => cases h

section
variable {s : State} {i : Instr} {x : Issue} {t : State} (h : Issues s i x t) {op : WaitOp} {d : Option Opnd} {wide : Bool} {off : Nat}
  {value : Option Nat} (hdest : ∀ e, d = some e → t.waitDest x e wide = none)
include hdest

theorem waitOp_effect : ∃ k, (∀ s, waitOp i op wide d off value s = issue i s k) ∧
    (x.lanes = 0 → k x t = .ok ((t.finish x).leaveAtTerminator x.g.uid (.ready (t.clkOf x.g.core)))) ∧
    (x.lanes ≠ 0 → k x t = t.onObject x (t.objectAddr x off) op.objectAlign op.objectNeed 4 fun pa v =>
      (v.modTeam x.g.team fun m => retireAll m x.g.idx).heldFor x
        (.attempt op (t.objectAddr x off) pa wide (t.carried x value) 0)) := by
  have hnone : (d.bind fun d => t.waitDest x d wide) = none := by
    cases d with
    | none => rfl
    | some e => exact hdest e rfl
  refine ⟨_, fun _ => rfl, fun hl => ?_, fun hl => ?_⟩
  · simp only [hnone, if_pos hl]
  · simp only [hnone, if_neg hl]
    rfl

include h

/-- With no active lane the group leaves its slot, ready at once. -/
theorem waitOp_leaves (hl : x.lanes = 0) : ∃ u g, waitOp i op wide d off value s = .next u ∧ u.group? x.g.uid = some g ∧
    g.place = .ready (s.clkOf x.g.core) ∧ SameBytes s u := by
  obtain ⟨k, hwait, hidle, -⟩ := waitOp_effect (i := i) (op := op) (off := off) (value := value) hdest
  obtain ⟨_, _, _, _, hg, -⟩ := h.finish_bank rfl
  obtain ⟨g, hleft, hplace, -⟩ := State.leaveAtTerminator_group? hg (Group.setBk_uid ..) (.ready (t.clkOf x.g.core))
  obtain ⟨_, _, _, ht⟩ := h.taken_eq
  exact ⟨_, g, (hwait s).trans (issue_eq_next h (hidle hl)), hleft, hplace.trans (by rw [ht]; rfl),
    (h.sameBytes.trans (t.finish_sameBytes x)).trans (State.leaveAtTerminator_sameBytes _ _ _)⟩

/-- Else its object is checked, and a first attempt holds it. -/
theorem waitOp_attempts (hl : x.lanes ≠ 0) :
    (∀ e v, t.objectAt x (t.objectAddr x off) op.objectAlign op.objectNeed 4 = (.error e, v) →
      waitOp i op wide d off value s = .next (s.trapOf i x e)) ∧
    (∀ pa v, t.objectAt x (t.objectAddr x off) op.objectAlign op.objectNeed 4 = (.ok pa, v) →
      HeldFor s x t (.attempt op (t.objectAddr x off) pa wide (t.carried x value) 0)
        (waitOp i op wide d off value s)) := by
  obtain ⟨k, hwait, -, hk⟩ := waitOp_effect (i := i) (op := op) (off := off) (value := value) hdest
  rw [hwait]
  refine ⟨fun e v ho => issue_onObject_trap h (hk hl) ho, fun pa v ho => ?_⟩
  have hv := Reached.of_objectAt ho
  rw [issue_onObject_next h (hk hl) ho]
  exact h.heldFor_next (v := v.modTeam x.g.team fun m => retireAll m x.g.idx) hv.groups hv.ops hv.nextId hv.keepsBytes _

end

/-! ## TBAR and PHEND (R300, R302) -/

/-- A group that arrives waits at its barrier, out of its slot. -/
theorem Issues.arrives {s : State} {i : Instr} {x : Issue} {t v : State} (h : Issues s i x t) (hv : v.groups = t.groups) (b : Bool × Nat) :
    ∃ g, (v.arriveAt x b).group? x.g.uid = some g ∧ g.place = .waiting ∧ g.barrier = some b := by
  obtain ⟨_, _, _, hg⟩ := h.taken_group
  obtain ⟨g, hstarted, huid⟩ := State.start_group?_uid (v := v) (x := x) (by rw [State.group?, hv]; exact hg) fun o =>
    { o with job := .fence .team .rel }
  have hbarrier := State.modGroup_group? (v.start x fun o => { o with job := .fence .team .rel }) x.g.uid (fun g => { g with barrier := some b })
    x.g.uid
  rw [if_pos rfl, hstarted] at hbarrier
  exact State.leaveAtTerminator_barrier hbarrier huid .waiting

theorem State.arriveAt_sameBytes (v : State) (x : Issue) (b : Bool × Nat) : SameBytes v (v.arriveAt x b) :=
  (v.start_sameBytes x fun o => { o with job := .fence .team .rel }).trans (State.leaveAtTerminator_sameBytes (State.modGroup ..) _ _)

section
variable {s : State} {x : Issue} {t : State} {c : Ctl}

theorem execTbar_waits (h : Issues s (.tbar c) x t) : ∃ u g, execTbar c s = .next u ∧ u.group? x.g.uid = some g ∧ g.place = .waiting ∧
    g.barrier = some (false, 0) ∧ SameBytes s u := by
  obtain ⟨g, hg, hplace, hbarrier⟩ := h.arrives rfl (false, 0)
  exact ⟨_, g, issue_eq_next h rfl, hg, hplace, hbarrier, h.sameBytes.trans (t.arriveAt_sameBytes x _)⟩

variable {carry : BitVec 16}

theorem execPhend_traps (h : Issues s (.phend c carry) x t) {e : Trap} (he : t.phendTrap x carry.toNat = some e) :
    execPhend c carry s = .next (s.trapOf (.phend c carry) x e) :=
  issue_eq_trapOf h (by simp only [he])

/-- PHEND has read its carry table's entry (R302). -/
def State.touchCarry (t : State) (x : Issue) (index : Nat) : State :=
  match t.launchOf x.g with | some l => t.touch l.asid (l.carryAddr index) 48 | none => t

theorem Reached.touchCarry (t : State) (x : Issue) (index : Nat) : Reached t (t.touchCarry x index) := by
  unfold State.touchCarry
  split
  · exact .touch ..
  · exact .refl t

theorem execPhend_waits (h : Issues s (.phend c carry) x t) (hok : t.phendTrap x carry.toNat = none) :
    ∃ u g, execPhend c carry s = .next u ∧ u.group? x.g.uid = some g ∧ g.place = .waiting ∧ g.barrier = some (true, carry.toNat) ∧
      KeepsBytes s u := by
  have hread := Reached.touchCarry t x carry.toNat
  obtain ⟨g, hg, hplace, hbarrier⟩ := h.arrives hread.groups (true, carry.toNat)
  refine ⟨_, g, issue_eq_next h ?_, hg, hplace, hbarrier,
    h.keepsBytes fun hp => (hread.keepsBytes hp).trans (State.arriveAt_sameBytes _ x (true, carry.toNat))⟩
  simp only [hok]
  rfl

end

/-! ## The statement -/

/-- Settles O54: the waiting instructions are one operation (`waitOp_leaves`, `waitOp_attempts`), those that ask a home another (`AsksHome`), and
at a barrier a group arrives (`Issues.arrives`). -/
theorem cellAndTaskInstructions : Obligations.CellAndTaskInstructions := by
  refine ⟨fun i s x t op d wide off hshape h hdest => ?waits, fun i s x t h => ?tasks⟩
  case waits =>
    intro va align need v
    rw [exec_of_waitShape hshape]
    refine ⟨waitOp_leaves h hdest, fun hl => (waitOp_attempts h hdest hl).1, fun hl pa t' ho => ?_⟩
    have hheld := (waitOp_attempts (value := op.valueField) h hdest hl).2 pa t' ho
    have hvalue : t.carried x op.valueField = v := by cases op <;> rfl
    rwa [hvalue] at hheld
  case tasks =>
    intro asks
    refine ⟨?fset, ?ftest, ?unlock, ?depdec, ?spawn, ?level, ?launch, ?tdone, ?tbar, ?phend⟩
    case fset =>
      rintro c ty status a b y rfl
      exact cellOp_asksHome h .both 2 ty.is64 (some 1)
    case ftest =>
      rintro c d a y rfl
      exact cellOp_asksHome h .read 1 false none
    case unlock =>
      rintro c a y rfl
      exact cellOp_asksHome h .both 1 false none
    case depdec =>
      rintro c a rfl
      exact execDepdec_asksHome h
    case spawn =>
      rintro c d a b rfl hlevel
      exact execSpawn_asksHome h hlevel
    case level =>
      rintro c d a b rfl hl hlevel pa t' ho
      exact execSpawn_level h hl hlevel ho
    case launch =>
      rintro c a rfl
      exact ⟨fun hl => (issue_eq_next h (if_pos hl) : execLaunch c a s = _), fun hl pa t' ho => execLaunch_asks h hl ho⟩
    case tdone =>
      intro c hi
      rw [exec_core, hi]
      rw [hi] at h
      exact ⟨fun hl => (issue_eq_next h (if_pos hl) : tdoneOp (.tdone c) s = _), fun hl m pa lcls mig nopin priv hm hx => tdoneOp_asks h hl hm hx⟩
    case tbar =>
      intro c hi
      rw [exec_core, hi]
      rw [hi] at h
      exact execTbar_waits h
    case phend =>
      rintro c carry rfl
      exact ⟨fun e he => execPhend_traps h he, fun hok => execPhend_waits h hok⟩

end Sys2Proof.Machine
end

section
/-! The reset state (R367, R370, R385); handler instructions in user code (R341); nested faults (R335). -/

namespace Sys2Proof.Machine

open Sys2Proof.Claims

/-- Settles O1: every field of `State.reset` is read off its definition, and an empty table reads zero at every key. -/
theorem resetState : Obligations.ResetState :=
  ⟨rfl, rfl, rfl, rfl, rfl, rfl, rfl, rfl, rfl, rfl, rfl, rfl, rfl, cellGet_nil, cellGet_nil, cellGet_nil, rfl⟩

/-- The instructions that only a handler may issue (R341). -/
def handlerOnly : Instr → Prop
  | .tret .. | .replay .. | .unwind .. | .endg .. | .frqpop .. | .mapreq .. | .uread .. | .uwrite .. => True
  | _ => False

/-- None is a compact form, all go through the port of memory (R87), and none may stand in user code. -/
theorem handlerOnly.misplaced {i : Instr} (hi : handlerOnly i) : i.core = i ∧ portOf (opcodeOf i) = .mem ∧ placeIllegal i false = true := by
  cases i
  case tret => exact ⟨rfl, portOf_of_opcode (n := 0xE1) rfl (by decide), rfl⟩
  case replay => exact ⟨rfl, portOf_of_opcode (n := 0xE2) rfl (by decide), rfl⟩
  case unwind | endg => exact ⟨rfl, portOf_of_opcode (n := 0xE3) rfl (by decide), rfl⟩
  case frqpop => exact ⟨rfl, portOf_of_opcode (n := 0xE4) rfl (by decide), rfl⟩
  case mapreq => exact ⟨rfl, portOf_of_opcode (n := 0xE5) rfl (by decide), rfl⟩
  case uread => exact ⟨rfl, portOf_of_opcode (n := 0xE7) rfl (by decide), rfl⟩
  case uwrite => exact ⟨rfl, portOf_of_opcode (n := 0xE8) rfl (by decide), rfl⟩
  all_goals exact hi.elim

/-- Settles O9: a handler instruction in user code stands where it may not (`handlerOnly.misplaced`), which is the first of the checks at
issue (`issueCheck_of_placeIllegal`), and a failed check is the trap alone (`failedCheckTraps`). -/
theorem handlerInstructionsArePrivileged : Obligations.HandlerInstructionsArePrivileged := by
  intro i s x t hi hb hready hwithin huser
  obtain ⟨hcore, hport, hplace⟩ := handlerOnly.misplaced (i := i) hi
  obtain ⟨_, _, _, _, _, _, -, -, hx, -⟩ := State.begin_spec hb
  have hhand : x.inHandler = false := by rw [Issue.inHandler, huser]; rfl
  have hcheck : t.issueCheck x = some (x.trap tcOpcode) := issueCheck_of_placeIllegal (by rw [hx, hport]; decide) (by rw [hx, hhand, hplace])
  exact failedCheckTraps i s x t _ (hcore.symm ▸ hb) hready hwithin hcheck

/-- Settles O12: a trap in a handler is a nested fault (`State.raiseTrap_handler`), which ends the group (`State.endGroup_group?`). -/
theorem nestedFaultEndsGroup : Obligations.NestedFaultEndsGroup := by
  intro s g split len pc e hhand
  obtain ⟨g', hg, hplace, halive, hnone, hdeliveries⟩ := State.endGroup_group? _
    { g with trapped := if g.debug = .stepping then some e.head.code else g.trapped } true
  rw [State.raiseTrap_handler _ _ _ _ _ _ hhand]
  exact ⟨g', hg, hplace, hnone, hdeliveries, halive⟩

end Sys2Proof.Machine
end

section
/-! TRAP (R331, R333, R334, R342). -/

namespace Sys2Proof.Machine

open Sys2Proof.Claims

/-! ## The words of TRAP (R36, R50, R51) -/

/-- The modifier of a full word that decodes is its instruction's. -/
theorem decodeFields_mod {f : Fields} {i : Instr} (h : decodeFields f = .ok i) : ∃ g, i.coreFields = some g ∧ g.mod = f.mod := by
  unfold decodeFields at h
  split at h
  · cases h
  · split at h
    · cases h
    · split at h
      · cases h
      · split at h
        · cases h
        · next g hg =>
          split at h
          · cases h
          · next hmod =>
            split at h
            · cases h
            · cases h
              exact ⟨g, hg, (by simpa using hmod : g.mod = f.mod ∧ i.modOk = true).1⟩

/-- A compact word that decodes is its instruction's. -/
theorem decodeCompact_word {w : Word} {i : Instr} (h : decodeCompact w = .ok i) : i.compactWord = some w := by
  unfold decodeCompact at h
  dsimp only at h
  split at h
  · cases h
  · split at h
    · cases h
    · split at h
      · cases h
      · next hword =>
        cases h
        exact (by simpa using hword : i.compactWord = some w ∧ i.operandsOk = true).1

/-- The 8-byte form holds seven bits of TRAP's code. -/
theorem decode8_trap {w : BitVec 64} {c : Ctl} {code : BitVec 8} (h : decode8 w = .ok (.trap c code)) : code.toNat ≤ 127 := by
  unfold decode8 at h
  dsimp only at h
  split at h
  · cases h
  · split at h
    · cases h
    · obtain ⟨g, hg, hmod⟩ := decodeFields_mod h
      obtain rfl := Option.some.inj hg
      have hcode : code.setWidth 16 = (w.extractLsb' 21 7).setWidth 16 := hmod
      bv_omega

/-- A code above 127 needs the full form. -/
theorem decodeWords_trap {w : Word} {rest : List Word} {c : Ctl} {code : BitVec 8} (h : decodeWords (w :: rest) = .ok (.trap c code))
    (hcode : 127 < code.toNat) : w.getLsbD 31 = true ∧ w.getLsbD 30 = true := by
  cases h31 : w.getLsbD 31 with
  | false =>
    simp only [decodeWords, h31, Bool.not_false, if_true] at h
    exact absurd (decodeCompact_word h) (by nofun)
  | true =>
    cases h30 : w.getLsbD 30 with
    | false =>
      cases rest with
      | nil =>
        simp only [decodeWords, h31, h30, Bool.not_true, Bool.not_false, Bool.false_eq_true, if_true, if_false] at h
        cases h
      | cons v rest =>
        simp only [decodeWords, h31, h30, Bool.not_true, Bool.not_false, Bool.false_eq_true, if_true, if_false] at h
        exact absurd (decode8_trap h) (Nat.not_le.mpr hcode)
    | true => exact ⟨rfl, rfl⟩

/-! ## One record of any precise trap, posted and delivered -/

/-- The delivery of a precise trap at an instruction (R331, R337). -/
def State.deliveryOf (s : State) (g : Group) (split len : Nat) (pc : DWord) (e : Trap) : Delivery :=
  { id := s.nextId, clk := s.clkOf g.core, notice := false, code := e.head.code, sw := e.sw, split := split, pc := pc, len := len
    addr := e.head.addr.setWidth 56 |>.setWidth 64, more := decide (1 < e.recs.length), resume := e.resume, gather := e.gather, debug := false }

/-- The record of a precise trap that has one (R332). -/
def State.recordOf (s : State) (g : Group) (split : Nat) (pc : DWord) (e : Trap) : FRec :=
  { s with nextId := s.nextId + 1 }.mkRec g e.head s.nextId split pc false e.sw false false e.cb

/-- The group once both are posted with nothing pending before, and the device with it. -/
def State.posterOf (s : State) (g : Group) (split len : Nat) (pc : DWord) (e : Trap) : Group :=
  g.posted (s.deliveryOf g split len pc e) (s.recordOf g split pc e)

def State.postingOf (s : State) (g : Group) (split len : Nat) (pc : DWord) (e : Trap) : State :=
  s.withGroups (tabSet s.groups g.uid (s.posterOf g split len pc e)) (s.nextId + 1)

section
variable {s : State} {g : Group} {e : Trap} {r : TrapRec} (split len : Nat) (pc : DWord) (hrecs : e.recs = [r]) (hhand : g.hand = none)
  (hdebug : g.debug ≠ .stepping) (hdel : g.deliveries = []) (hfrq : g.frq.length < 8)
include hrecs hhand hdebug hdel hfrq

/-- A precise trap of one record in user code, with nothing pending and room in the queue, posts that record and makes its delivery (R330, R331). -/
theorem State.raiseTrap_posts : s.raiseTrap g split pc len e = (s.postingOf g split len pc e).deliver g.uid := by
  have hn : g.hand.isSome = false := by simp [hhand]
  have hhead : e.head = r := by simp [Trap.head, hrecs]
  have htrap : { s with nextId := s.nextId + 1 }.trapRecs g e s.nextId split pc false = [s.recordOf g split pc e] := by
    simp [State.trapRecs, State.recordOf, hrecs, hhead]
  have hpost (q : FRec) : [q].foldl postRec g.frq = g.frq ++ [q] := by simp [postRec, hfrq]
  unfold State.raiseTrap
  simp only [hn, hdebug, hdel, if_false, Bool.false_eq_true]
  refine congrArg (State.deliver · g.uid) (congrArg (State.setGroup _) (?_ : _ = s.posterOf g split len pc e))
  rw [State.posterOf, Group.posted, ← hpost, ← htrap]
  rfl

/-- In a group that holds its slot the handler that the trap table names is entered for it (R334). -/
theorem State.raiseTrap_enters {slot since : Nat} {entry : DWord} (hunw : g.unwinding = none) (hplace : g.place = .active slot since)
    (hentry : (s.touchTable g r.code).trapEntry g r.code = .handler entry) :
    (s.raiseTrap g split pc len e).group? g.uid =
      some ((s.posterOf g split len pc e).entered (s.deliveryOf g split len pc e) (s.clkOf g.core) entry) := by
  have hcode : (s.deliveryOf g split len pc e).code = r.code := by simp [State.deliveryOf, Trap.head, hrecs]
  have hself : (s.postingOf g split len pc e).group? g.uid = some (s.posterOf g split len pc e) := (tabGet?_tabSet ..).trans (if_pos rfl)
  have hread : ((s.postingOf g split len pc e).touchTable (s.posterOf g split len pc e) r.code).trapEntry (s.posterOf g split len pc e) r.code =
      .handler entry := by
    rw [State.postingOf, State.touchTable_withGroups, State.trapEntry_withGroups]
    exact hentry
  have hmade := State.deliver_handler (g := s.posterOf g split len pc e) hself hhand hunw hplace rfl rfl (hcode ▸ hread)
  rw [State.raiseTrap_posts split len pc hrecs hhand hdebug hdel hfrq]
  exact (congrArg (State.group? · g.uid) hmade).trans ((State.setGroup_group? ..).trans (if_pos rfl))

end

/-- The trap table is that of the group's team (R334). -/
theorem State.trapTable_of_team (s : State) {g k : Group} (h : g.team = k.team) (code : BitVec 8) :
    (s.touchTable g code).trapEntry g code = (s.touchTable k code).trapEntry k code := by
  have hcontext (v : State) : v.contextOf g = v.contextOf k := by simp only [State.contextOf, State.asidOf, h]
  simp only [State.trapEntry, State.touchTable, hcontext]

/-! ## TRAP at its issue -/

/-- The trap that TRAP raises (R342). -/
def Issue.softTrap (x : Issue) (code : BitVec 8) : Trap :=
  { recs := [⟨code, 0, 0, x.lanes⟩], sw := true, resume := .after, cb := none, gather := none }

/-- Taking an instruction leaves its group in the slot that it holds. -/
theorem State.took_active {s : State} {x : Issue} {g : Group} {slot since : Nat} (hg : (s.took x).group? x.g.uid = some g)
    (hs : s.group? x.g.uid = some x.g) (hplace : x.g.place = .active slot since) : ∃ since', g.place = .active slot since' := by
  have hold : ((s.unmark x).meter x.g.core x.g.team .laneOp x.laneOps).group? x.g.uid = some x.g := by
    obtain ⟨ms, hm⟩ := (s.unmark x).meter_eq x.g.core x.g.team .laneOp x.laneOps
    rw [hm, State.unmark]
    split <;> exact hs
  rw [State.took, State.modGroup_group?, if_pos rfl, hold] at hg
  obtain rfl := Option.some.inj hg
  refine ⟨if s.yields x then s.clkOf x.g.core else since, ?_⟩
  simp only [hplace]

section
variable {s : State} {x : Issue} {t : State} {c : Ctl} {code : BitVec 8} (h : Issues s (.trap c code) x t)
include h

theorem exec_trap : exec (.trap c code) s = .next (if x.lanes = 0 then t.finish x else t.trapNow x (x.softTrap code)) := by
  show execTrap c code s = _
  refine issue_eq_next h ?_
  split <;> rfl

/-- TRAP issues in user code (R341). -/
theorem Issues.trap_user : x.g.hand = none := by
  by_contra hhand
  have hin : x.inHandler = true := by simpa [Issue.inHandler] using Option.isSome_iff_ne_none.mpr hhand
  have hcheck : (s.noted (.trap c code)).issueCheck x = some (x.trap tcOpcode) := by
    refine issueCheck_of_placeIllegal ?_ ?_ <;> rw [h.instr_eq]
    · rw [portOf_of_opcode (i := .trap c code) (n := 0xE0) (p := .mem) rfl (by decide)]
      decide
    · rw [hin]
      rfl
  rw [h.legal] at hcheck
  cases hcheck

/-- A TRAP with a lane active, in a group that holds its slot with no delivery pending and room for the record, enters the handler. -/
theorem trap_enters {slot since : Nat} {entry : DWord} (hl : x.lanes ≠ 0) (hunw : x.g.unwinding = none)
    (hplace : x.g.place = .active slot since) (hdebug : x.g.debug ≠ .stepping) (hdel : x.g.deliveries = []) (hfrq : x.g.frq.length < 8)
    (hentry : (t.touchTable x.g code).trapEntry x.g code = .handler entry) :
    ∃ u g p hd st, exec (.trap c code) s = .next u ∧ g = { x.g with place := p, hold := hd, strand := st } ∧
      u.group? x.g.uid = some ((t.posterOf g x.sp.id x.len x.pc (x.softTrap code)).entered
        (t.deliveryOf g x.sp.id x.len x.pc (x.softTrap code)) (t.clkOf x.g.core) entry) := by
  obtain ⟨p, hd, st, hg⟩ := h.taken_group
  obtain ⟨_, _, _, _, -, -, hs, -⟩ := h.issuer
  obtain ⟨since', hactive⟩ := State.took_active (by rw [← h.taken]; exact hg) hs hplace
  generalize hgroup : ({ x.g with place := p, hold := hd, strand := st } : Group) = g at hg hactive
  have huid : g.uid = x.g.uid := hgroup ▸ rfl
  have hteam : g.team = x.g.team := hgroup ▸ rfl
  have hraised : t.trapNow x (x.softTrap code) = t.raiseTrap g x.sp.id x.pc x.len (x.softTrap code) := by
    simp only [State.trapNow, hg]
  have hcore : t.clkOf g.core = t.clkOf x.g.core := hgroup ▸ rfl
  refine ⟨_, g, p, hd, st, (exec_trap h).trans (by rw [if_neg hl, hraised]), hgroup.symm, ?_⟩
  rw [← huid, ← hcore]
  exact State.raiseTrap_enters x.sp.id x.len x.pc rfl (hgroup ▸ h.trap_user) (hgroup ▸ hdebug) (hgroup ▸ hdel) (hgroup ▸ hfrq) (hgroup ▸ hunw)
    hactive ((t.trapTable_of_team hteam code).trans hentry)

end

/-- Settles O51: the words by `decodeWords_trap`; TRAP is its trap (`exec_trap`), whose one record is posted and whose handler is entered as
for any precise trap (`State.raiseTrap_enters`). -/
theorem trapRaises : Obligations.TrapRaises := by
  refine ⟨fun c code => ⟨rfl, fun w rest h hcode => decodeWords_trap h hcode⟩, fun s x t c code h => ⟨fun hl => ?_, fun hl => ?_, ?_⟩⟩
  · rw [exec_trap h, if_pos hl]
  · rw [exec_trap h, if_neg hl]
    rfl
  · intro hl hunw slot since entry hplace hdebug hdel hfrq hentry
    obtain ⟨u, g, p, hd, st, hu, rfl, hg⟩ := trap_enters h hl hunw hplace hdebug hdel hfrq hentry
    exact ⟨u, _, _, _, hu, hg, rfl, rfl, rfl, rfl, rfl, rfl, rfl, rfl, rfl, rfl, rfl, rfl, rfl, rfl⟩

end Sys2Proof.Machine
end

section
/-! SUPPORT. Leaving a handler (R333, R336, R343, R344): the group once its exit is noted, and what closing the handler gives back to user code. -/

namespace Sys2Proof.Machine

open Sys2Proof.Claims

/-! ## The group of an exit -/

/-- What taking an instruction leaves of its group, as far as the exit of a handler looks at it. -/
structure Issue.Kept (x : Issue) (g : Group) : Prop where
  uid : g.uid = x.g.uid
  hand : g.hand = x.g.hand
  bank : g.bank = x.g.bank
  dfile : g.dfile = x.g.dfile
  deliveries : g.deliveries = x.g.deliveries

/-- The group with its handler replaced. -/
def Group.withHandler (g : Group) (h : Handler) : Group := { g with hand := some h }

/-- The handler with its bank moved on and an exit noted. -/
def Handler.noted (r : Handler) (b : Bank) (e : HExit) : Handler := { r with bank := b, exit := some e }

/-- The device once an exit of the issuing handler is noted. -/
def State.leaving (t : State) (x : Issue) (e : HExit) : State :=
  (t.finish x).modGroup x.g.uid fun g => { g with hand := g.hand.map fun h => { h with exit := some e } }

section
variable {s : State} {i : Instr} {x : Issue} {t : State} (h : Issues s i x t)
include h

theorem Issues.kept : ∃ g, t.group? x.g.uid = some g ∧ x.Kept g := by
  obtain ⟨p, hd, st, hg⟩ := h.taken_group
  exact ⟨_, hg, rfl, rfl, rfl, rfl, rfl⟩

/-- A handler's instruction that completes at issue changes the handler's bank alone, and not the clk of its last issue. -/
theorem Issues.finish_handler {r : Handler} (hr : x.g.hand = some r) {g : Group} (hg : t.group? x.g.uid = some g) (hk : x.Kept g) :
    ∃ b, b.prevIssue = r.bank.prevIssue ∧ (t.finish x).group? x.g.uid = some (g.withHandler { r with bank := b }) := by
  have hhand : g.hand = some r := hk.hand.trans hr
  have hbk : g.bk = x.g.bk := by simp only [Group.bk, hhand, hr]
  have hbank : x.g.bk = r.bank := by simp only [Group.bk, hr]
  have hgroup := State.commit_group? hg 0
  rw [hbk, Group.setBk_goTo (b := x.commitBank 0 x.g.bk) h.split?] at hgroup
  refine ⟨(x.commitBank 0 x.g.bk).setSplit { x.sp with pc := x.nextPc }, (congrArg Bank.prevIssue hbank :), hgroup.trans (congrArg some ?_)⟩
  simp only [Group.setBk, hhand]
  rfl

/-- The exit is noted in the handler, which keeps the delivery that it serves and the clk of its last issue. -/
theorem Issues.leaving_group? {r : Handler} (hr : x.g.hand = some r) {g : Group} (hg : t.group? x.g.uid = some g) (hk : x.Kept g) (e : HExit) :
    ∃ b, b.prevIssue = r.bank.prevIssue ∧
      (t.leaving x e).group? x.g.uid = some (g.withHandler (r.noted b e)) := by
  obtain ⟨b, hb, hfin⟩ := h.finish_handler hr hg hk
  exact ⟨b, hb, (State.modGroup_group? ..).trans (by rw [if_pos rfl, hfin]; rfl)⟩

theorem Issues.leaving_sameBytes (e : HExit) : SameBytes s (t.leaving x e) :=
  h.sameBytes.trans ((t.finish_sameBytes x).trans (.refl _))

end

theorem State.leaving_ops (t : State) (x : Issue) (e : HExit) : (t.leaving x e).ops = t.ops := by
  obtain ⟨gs, ts, h⟩ := t.finish_eq x
  rw [State.leaving, State.modGroup_ops, h]

/-! ## Closing the handler -/

/-- The pace that user code takes over from its handler is all that following it changes (R91). -/
theorem Bank.follow_eq (b k : Bank) : ∃ p, ∃ f : Split → Nat, b.follow k = { b with prevIssue := p, splits := b.splits.map fun sp => { sp with base := f sp } } := by
  unfold Bank.follow
  split
  · exact ⟨b.prevIssue, Split.base, by simp⟩
  · exact ⟨_, _, rfl⟩

theorem Bank.follow_split? (b k : Bank) (id : Nat) : ∃ f : Split → Nat, (b.follow k).split? id = (b.split? id).map fun sp => { sp with base := f sp } := by
  obtain ⟨p, f, h⟩ := b.follow_eq k
  refine ⟨f, ?_⟩
  rw [h]
  simp only [Bank.split?, List.find?_map, Function.comp_def]

/-- A handler is closed by what it serves and the clk of its last issue (R91, R336). -/
theorem closeHandler_withHandler {g : Group} {r r' : Handler} (hr : g.hand = some r) (hserves : r'.serves = r.serves)
    (hissue : r'.bank.prevIssue = r.bank.prevIssue) : closeHandler (g.withHandler r') = closeHandler g := by
  have hfollow : g.bank.follow r'.bank = g.bank.follow r.bank := by simp only [Bank.follow, hissue]
  simp only [closeHandler, Group.withHandler, hr, hserves, hfollow]

section
variable {g : Group} {r : Handler} (hr : g.hand = some r)
include hr

theorem closeHandler_eq : closeHandler g = { g with
      hand := none, bank := g.bank.follow r.bank, frq := g.frq.filter fun q => q.delivery != r.serves.id
      deliveries := g.deliveries.filter fun d => d.id != r.serves.id } := by
  simp only [closeHandler, hr]

theorem closeHandler_hand : (closeHandler g).hand = none := by rw [closeHandler_eq hr]

theorem closeHandler_bank : (closeHandler g).bank = g.bank.follow r.bank := by rw [closeHandler_eq hr]

theorem closeHandler_kept : (closeHandler g).uid = g.uid ∧ (closeHandler g).dfile = g.dfile ∧ (closeHandler g).cb = g.cb := by
  rw [closeHandler_eq hr]
  exact ⟨rfl, rfl, rfl⟩

/-- No delivery is pending any more where the handler's own was the only one. -/
theorem closeHandler_deliveries (hlast : ∀ d ∈ g.deliveries, d.id = r.serves.id) : (closeHandler g).deliveries = [] := by
  rw [closeHandler_eq hr]
  exact List.filter_eq_nil_iff.mpr fun d hd => by simp [hlast d hd]

end

/-- A group with nothing pending makes no delivery. -/
theorem State.deliver_nothing {s : State} {g : Group} {uid : Nat} (hg : s.group? uid = some g) (hd : g.deliveries = []) : s.deliver uid = s := by
  rcases s.deliver_cases uid with h | ⟨g', d, ds, hg', -, -, -, hds, -⟩
  · exact h
  · obtain rfl : g = g' := Option.some.inj (hg.symm.trans hg')
    exact absurd (hd.symm.trans hds) (by simp)

/-! ## TRET's exit (R333, R343) -/

/-- The bank of user code once its faulting split stands at the resume point of a delivery; a notice and Lantern's entry leave it (R333, R353). -/
def Bank.resumed (b : Bank) (d : Delivery) (skip : Bool) : Bank :=
  match b.split? d.split with
  | some sp => if d.notice || d.debug then b else b.setSplit { sp with pc := resumeAt d skip sp.pc }
  | none => b

theorem State.tretNow_eq {s : State} {g : Group} {r : Handler} (hr : g.hand = some r) (skip : Bool) :
    s.tretNow g skip =
      (s.setGroup { closeHandler g with bank := (closeHandler g).bank.resumed r.serves skip }).deliver (closeHandler g).uid := by
  simp only [State.tretNow, hr]
  rfl

theorem Bank.resumed_near (b : Bank) (d : Delivery) (skip : Bool) :
    (b.resumed d skip).win = b.win ∧ (b.resumed d skip).nst = b.nst ∧ (b.resumed d skip).nval = b.nval ∧ (b.resumed d skip).preds = b.preds := by
  unfold Bank.resumed
  split
  · split <;> exact ⟨rfl, rfl, rfl, rfl⟩
  · exact ⟨rfl, rfl, rfl, rfl⟩

theorem Bank.resumed_notice {b : Bank} {d : Delivery} (h : d.notice = true) (skip : Bool) : b.resumed d skip = b := by
  unfold Bank.resumed
  split
  · rw [h, Bool.true_or, if_pos rfl]
  · rfl

theorem Bank.resumed_split? {b : Bank} {d : Delivery} {sp : Split} (hn : d.notice = false) (hd : d.debug = false)
    (hsp : b.split? d.split = some sp) (skip : Bool) :
    (b.resumed d skip).split? d.split = some { sp with pc := resumeAt d skip sp.pc } := by
  have hid : sp.id = d.split := by simpa using List.find?_some hsp
  have hcond : ¬(d.notice || d.debug) = true := by simp [hn, hd]
  simp only [Bank.resumed, hsp, if_neg hcond]
  rw [split?_setSplit, hsp]
  simp

/-- The group `g'` is given back to user code (R333, R336, R343): the near levels, D and memory as they were, and the split that the delivery names at
its resume point. -/
def GivenBack (s : State) (x : Issue) (r : Handler) (skip : Bool) (u : State) (g' : Group) : Prop :=
  u.group? x.g.uid = some g' ∧ g'.hand = none ∧ g'.deliveries = [] ∧ g'.dfile = x.g.dfile ∧
    g'.bank.win = x.g.bank.win ∧ g'.bank.nst = x.g.bank.nst ∧ g'.bank.nval = x.g.bank.nval ∧ g'.bank.preds = x.g.bank.preds ∧
    SameBytes s u ∧
    (r.serves.notice = true →
      g'.bank.splits.map (fun q => (q.id, q.pc, q.lanes, q.join, q.held)) = x.g.bank.splits.map fun q => (q.id, q.pc, q.lanes, q.join, q.held)) ∧
    (r.serves.notice = false → r.serves.debug = false → ∀ sp, x.g.bank.split? r.serves.split = some sp →
      (g'.bank.split? r.serves.split).map (fun q => (q.pc, q.lanes)) = some (resumeAt r.serves skip sp.pc, sp.lanes))

/-- TRET's exit gives the group back where its own delivery was the only one pending. -/
theorem State.tretNow_givesBack {s v : State} {x : Issue} {g : Group} {r r' : Handler} (hr : x.g.hand = some r) (hk : x.Kept g)
    (hserves : r'.serves = r.serves) (hissue : r'.bank.prevIssue = r.bank.prevIssue) (hlast : ∀ d ∈ x.g.deliveries, d.id = r.serves.id)
    (hbytes : SameBytes s v) (skip : Bool) : ∃ g', GivenBack s x r skip (v.tretNow (g.withHandler r') skip) g' := by
  have hhand : g.hand = some r := hk.hand.trans hr
  obtain ⟨huid, hdfile, -⟩ := closeHandler_kept hhand
  have hnone : (closeHandler g).deliveries = [] := closeHandler_deliveries hhand (by rw [hk.deliveries]; exact hlast)
  let back : Group := { closeHandler g with bank := (closeHandler g).bank.resumed r.serves skip }
  have hback : (v.setGroup back).group? (closeHandler g).uid = some back := (State.setGroup_group? ..).trans (if_pos rfl)
  have hmade : v.tretNow (g.withHandler r') skip = v.setGroup back := by
    rw [State.tretNow_eq rfl, closeHandler_withHandler hhand hserves hissue, hserves]
    exact State.deliver_nothing hback hnone
  have hbank : (closeHandler g).bank = x.g.bank.follow r.bank := (closeHandler_bank hhand).trans (by rw [hk.bank])
  obtain ⟨hwin, hnst, hnval, hpreds⟩ := (x.g.bank.follow r.bank).resumed_near r.serves skip
  obtain ⟨p, f, hfollow⟩ := x.g.bank.follow_eq r.bank
  have hresumed : back.bank = (x.g.bank.follow r.bank).resumed r.serves skip := congrArg (Bank.resumed · r.serves skip) hbank
  rw [hmade]
  refine ⟨back, by rw [← hk.uid, ← huid]; exact hback, closeHandler_hand hhand, hnone, hdfile.trans hk.dfile, ?_, ?_, ?_, ?_, hbytes, fun hn => ?_,
    fun hn hd sp hsp => ?_⟩
  · rw [hresumed, hwin, hfollow]
  · rw [hresumed, hnst, hfollow]
  · rw [hresumed, hnval, hfollow]
  · rw [hresumed, hpreds, hfollow]
  · rw [hresumed, Bank.resumed_notice hn, hfollow, List.map_map]
    rfl
  · obtain ⟨base, hbase⟩ := x.g.bank.follow_split? r.bank r.serves.split
    rw [hsp] at hbase
    rw [hresumed, Bank.resumed_split? hn hd hbase]
    rfl

end Sys2Proof.Machine
end

section
/-! SUPPORT. REPLAY sends a gather or scatter again (R253, R343, R393): the lanes whose checks all pass, and the trap of those that fail. -/

namespace Sys2Proof.Machine

open Sys2Proof.Claims

/-! ## The group replaced -/

theorem tabErase_tabMod {α : Type} (t : Tab α) (k : Nat) (f : α → α) : tabErase (tabMod t k f) k = tabErase t k := by
  induction t with
  | nil => rfl
  | cons e t ih =>
    simp only [tabErase, tabMod, List.map_cons] at ih ⊢
    by_cases he : e.1 = k <;> simp [he, ih]

/-- A change of a group that is then replaced is lost. -/
theorem State.setGroup_modGroup (s : State) (g : Group) (f : Group → Group) : (s.modGroup g.uid f).setGroup g = s.setGroup g := by
  simp only [State.setGroup, State.modGroup, tabSet, tabErase_tabMod]

/-- An exit's note is lost with the handler. -/
theorem State.leaving_setGroup {t : State} {x : Issue} {k : Group} (hq : x.i.qField = none) (hk : k.uid = x.g.uid) (e : HExit) :
    (t.leaving x e).setGroup k = t.setGroup k := by
  have hfin : t.finish x = (t.modGroup k.uid fun g =>
      (g.setBk (x.commitBank 0 g.bk)).goTo x.sp.id x.nextPc) := by
    rw [hk]
    unfold State.finish State.commit State.queueIssue
    rw [hq]
    rfl
  rw [State.leaving, hfin, ← hk, State.setGroup_modGroup, State.setGroup_modGroup]

/-! ## An instruction of user code that stays outstanding -/

theorem Group.setBk_user {g : Group} (h : g.hand = none) (b : Bank) : g.setBk b = { g with bank := b } := by simp only [Group.setBk, h]

/-- A flag of user code that goes up changes the flags of its bank alone. -/
theorem Group.setUp_user (g : Group) (f : Nat) : ∃ fl, g.setUp false f = { g with bank := { g.bank with flags := fl } } := by
  unfold Group.setUp
  split
  · exact ⟨_, rfl⟩
  · exact ⟨g.bank.flags, rfl⟩

/-- An instruction of user code that stays outstanding changes its group's bank alone, and its split goes on. -/
theorem State.start_user {w : State} {y : Issue} (hg : w.group? y.g.uid = some y.g) (hhand : y.g.hand = none)
    (hsp : y.g.bank.split? y.sp.id = some y.sp) (f : Op → Op) :
    ∃ b, (w.start y f).group? y.g.uid = some { y.g with bank := b } ∧ b.split? y.sp.id = some y.movedSplit := by
  have hin : y.inHandler = false := by rw [Issue.inHandler, hhand]; rfl
  have hbk : y.g.bk = y.g.bank := Group.bk_of_none hhand
  have hgroup := State.commit_group? (s := { w with nextId := w.nextId + 1 }) hg w.nextId
  rw [hbk, Group.setBk_goTo (b := y.commitBank w.nextId y.g.bank) hsp] at hgroup
  let b := (y.commitBank w.nextId y.g.bank).setSplit y.movedSplit
  have hset : y.g.setBk b = { y.g with bank := b } := Group.setBk_user hhand b
  obtain ⟨fl, hfl⟩ := ({ y.g with bank := b } : Group).setUp_user y.c.set.toNat
  have hstart : (w.start y f).group? y.g.uid = (({ w with nextId := w.nextId + 1 }.commit y w.nextId).group? y.g.uid).map fun (g : Group) =>
      g.setUp y.inHandler y.c.set.toNat :=
    (State.modGroup_group? _ y.g.uid (fun g => g.setUp y.inHandler y.c.set.toNat) y.g.uid).trans (if_pos rfl)
  refine ⟨{ b with flags := fl }, ?_, Bank.split?_of_moved hsp rfl⟩
  rw [hstart, hgroup, hin, Option.map_some]
  exact congrArg some ((congrArg (Group.setUp · false y.c.set.toNat) hset).trans hfl)

/-! ## The lanes that are sent -/

section
variable (v : State) (y : Issue) (sp : Space) (ty : Ty) (load : Bool) (lanes : List Nat)

/-- The checks of the lanes of a gather or scatter that are sent. -/
abbrev sendChecks : List (Nat × Nat × Target) × List LaneFault × State :=
  v.targets y.g y.inHandler sp (tySize ty) (if load then needLoad else needStore) (v.laneAddrs y sp (some (if load then 1 else 2)) lanes)

/-- The parts of those that pass. -/
def sendUnits : List AccUnit :=
  (sendChecks v y sp ty load lanes).1.flatMap (unitsOf (tySize ty) (fun l => if load then 0 else v.src y 1 l) fun _ => 0)

/-- The device after the checks: a scatter has removed its lines from its core's cache. -/
def sendReady : State :=
  if load then (sendChecks v y sp ty load lanes).2.2
  else (sendChecks v y sp ty load lanes).2.2.dropCopies y.g.core (sendUnits v y sp ty load lanes)

theorem sendReady_reached : Reached v (sendReady v y sp ty load lanes) := by
  refine Reached.trans (v := (sendChecks v y sp ty load lanes).2.2) (.targets ..) ?_
  unfold sendReady
  split
  · exact .refl _
  · exact .dropCopies ..

/-- None of the parts has been performed, each is of one of the lanes. -/
theorem sendUnits_fresh : ∀ w ∈ sendUnits v y sp ty load lanes, w.performed = false ∧ w.lane ∈ lanes := by
  intro w hw
  obtain ⟨e, he, hw⟩ := List.mem_flatMap.mp hw
  obtain ⟨hperf, hlane⟩ := unitsOf_fresh _ _ _ e w hw
  have hmem := (State.targets_sublist ..).subset (List.mem_map_of_mem (f := fun e => (e.1, e.2.1)) he)
  obtain ⟨l, hl, heq⟩ := List.mem_map.mp hmem
  exact ⟨hperf, by rw [hlane, ← (Prod.mk.inj heq).1]; exact hl⟩

/-- Where no check fails, each lane has a part at its address that carries its data. -/
theorem sendUnits_first (hpass : (sendChecks v y sp ty load lanes).2.1 = []) : ∀ l ∈ lanes, ∃ w ∈ sendUnits v y sp ty load lanes,
    w.lane = l ∧ w.off = 0 ∧ w.va = v.laneAddr y sp 0 (some (if load then 1 else 2)) l ∧ (load = false → w.data = v.src y 1 l) := by
  intro l hl
  have hall := State.targets_all _ _ _ _ _ _ _ hpass
  have hmem : (l, v.laneAddr y sp 0 (some (if load then 1 else 2)) l) ∈ (sendChecks v y sp ty load lanes).1.map fun e => (e.1, e.2.1) := by
    rw [hall]
    exact List.mem_map_of_mem hl
  obtain ⟨e, he, heq⟩ := List.mem_map.mp hmem
  obtain ⟨rfl, haddr⟩ := Prod.mk.inj heq
  obtain ⟨w, hw, hlane, hoff, hva, hdata⟩ := unitsOf_first (tySize ty) (fun l => if load then 0 else v.src y 1 l) (fun _ => 0) e (tySize_pos ty)
  exact ⟨w, List.mem_flatMap.mpr ⟨e, he, hw⟩, hlane, hoff, hva.trans haddr, fun hload => by rw [hdata, hload]; rfl⟩

variable (cb : Nat) (again : Bool) (old : Cells 64) (resume : Resume)

/-- Where every lane passes, one operation carries them all, and then some entries of the window may be complete. -/
theorem State.gatherSend_sends (hpass : (sendChecks v y sp ty load lanes).2.1 = []) :
    ∃ (due : Option Nat) (asks : List BankAsk) (win : Group → Tab (List WEntry)),
      v.gatherSend y sp ty cb load again lanes old resume =
        (((sendReady v y sp ty load lanes).start y fun o =>
          { o with due := due, vals := old, job := gatherJob ty cb load again y.lanes (sendUnits v y sp ty load lanes) }).askBanks
          (sendReady v y sp ty load lanes).nextId asks).modGroup y.g.uid fun g => g.setBk { g.bk with win := win g } :=
  ⟨_, _, _, if_pos (List.isEmpty_iff.mpr hpass)⟩

/-- Where a lane fails the trap of the failing ones is raised, and of the group a flag may have gone up. -/
theorem State.gatherSend_raises (hbad : (sendChecks v y sp ty load lanes).2.1 ≠ []) :
    ∃ w : State, v.gatherSend y sp ty cb load again lanes old resume = w.trapNow y { Trap.ofFaults (sendChecks v y sp ty load lanes).2.1 with
        resume := resume, cb := some cb, gather := some { instr := y.i, lanes := y.lanes, cb := cb } } ∧
      ∀ g, v.group? y.g.uid = some g → ∃ f, w.group? y.g.uid = some (g.setUp y.inHandler f) := by
  have hgroup : (sendReady v y sp ty load lanes).group? y.g.uid = v.group? y.g.uid := by
    rw [State.group?, (sendReady_reached ..).groups]
    rfl
  refine ⟨_, if_neg (by rw [List.isEmpty_iff]; exact hbad), fun g hg => ?_⟩
  by_cases hnone : (sendChecks v y sp ty load lanes).1.isEmpty = true
  · exact ⟨12, by rw [if_pos hnone]; exact hgroup.trans hg⟩
  · rw [if_neg hnone]
    refine ⟨y.c.set.toNat, (State.askBanks_group? ..).trans ?_⟩
    exact (State.startHeld_group?_self ..).trans (congrArg (Option.map _) (hgroup.trans hg))

end

section
variable {v : State} {y : Issue} (hself : v.group? y.g.uid = some y.g) (hhand : y.g.hand = none) (sp : Space) (ty : Ty) (load : Bool)
  (lanes : List Nat) (cb : Nat) (again : Bool) (old : Cells 64) (resume : Resume)
include hself hhand

/-- What is sent from user code with nothing pending: the split goes on, and one operation is added with the parts of every lane. -/
theorem State.gatherSend_delivered (hdel : y.g.deliveries = []) (hsp : y.g.bank.split? y.sp.id = some y.sp)
    (hpass : (sendChecks v y sp ty load lanes).2.1 = []) :
    let u := (v.gatherSend y sp ty cb load again lanes old resume).deliver y.g.uid
    ∃ b os o, u.group? y.g.uid = some { y.g with bank := b } ∧ b.split? y.sp.id = some y.movedSplit ∧ u.ops = os ++ [o] ∧ SameOps v.ops os ∧
      o.grp = y.g.uid ∧ o.instr = y.i ∧ o.lanes = y.lanes ∧ o.set = y.c.set.toNat ∧
      o.job = gatherJob ty cb load again y.lanes (sendUnits v y sp ty load lanes) := by
  obtain ⟨due, asks, win, hsend⟩ := State.gatherSend_sends v y sp ty load lanes cb again old resume hpass
  let w := sendReady v y sp ty load lanes
  have hreach : Reached v w := sendReady_reached v y sp ty load lanes
  have hw : w.group? y.g.uid = some y.g := by
    rw [State.group?, hreach.groups]
    exact hself
  let f (o : Op) : Op := { o with due := due, vals := old, job := gatherJob ty cb load again y.lanes (sendUnits v y sp ty load lanes) }
  obtain ⟨b, hstart, hmoved⟩ := State.start_user hw hhand hsp f
  obtain ⟨os, due', hops, hsame, -⟩ := State.askBanks_append (w.start_ops y f) w.nextId asks
  let k : Group := { y.g with bank := b }
  have hbk : k.bk = b := Group.bk_of_none hhand
  let b' : Bank := { k.bk with win := win k }
  have hgroup : (v.gatherSend y sp ty cb load again lanes old resume).group? y.g.uid = some { y.g with bank := b' } := by
    rw [hsend, State.modGroup_group?, if_pos rfl, State.askBanks_group?, hstart, Option.map_some]
    exact congrArg some (Group.setBk_user (g := k) hhand b')
  rw [State.deliver_nothing hgroup hdel]
  rw [hreach.ops] at hsame
  exact ⟨b', os, _, hgroup, (congrArg (Bank.split? · y.sp.id) hbk).trans hmoved, by rw [hsend]; exact hops, hsame, rfl, rfl, rfl, rfl, rfl⟩

/-- The trap of the lanes that fail is raised on a group of which a flag may have gone up. -/
theorem State.gatherSend_trapped (hbad : (sendChecks v y sp ty load lanes).2.1 ≠ []) :
    ∃ (w : State) (fl : Cells 4), v.gatherSend y sp ty cb load again lanes old resume =
        w.raiseTrap { y.g with bank := { y.g.bank with flags := fl } } y.sp.id y.pc y.len
          { Trap.ofFaults (sendChecks v y sp ty load lanes).2.1 with
            resume := resume, cb := some cb, gather := some { instr := y.i, lanes := y.lanes, cb := cb } } ∧
      w.group? y.g.uid = some { y.g with bank := { y.g.bank with flags := fl } } := by
  have hin : y.inHandler = false := by rw [Issue.inHandler, hhand]; rfl
  obtain ⟨w, hsend, hgroup⟩ := State.gatherSend_raises v y sp ty load lanes cb again old resume hbad
  obtain ⟨f, hw⟩ := hgroup _ hself
  obtain ⟨fl, hfl⟩ := y.g.setUp_user f
  rw [hin, hfl] at hw
  exact ⟨w, fl, by simp only [hsend, State.trapNow, hw], hw⟩

end

end Sys2Proof.Machine
end

section
/-! TRET, REPLAY, UNWIND and ENDG (R336, R341, R343, R344). -/

namespace Sys2Proof.Machine

open Sys2Proof.Claims

/-! ## An exit that is noted, and one that is made -/

/-- The exit of a handler, made (R336). -/
def State.exitMade (s : State) (g : Group) (r : Handler) : HExit → State
  | .tret skip => s.tretNow g skip
  | .replay => s.replayNow g r
  | .unwind => s.setGroup { closeHandler g with unwinding := some (r.mapreq.bind fun q => if (s.op? q).isSome then some q else none) }

theorem State.exitHandler_eq {s : State} {g : Group} {r : Handler} {e : HExit} (hr : g.hand = some r) (he : r.exit = some e) :
    s.exitHandler g = if s.exitReady g r e then s.exitMade g r e else s := by
  simp only [State.exitHandler, hr, he]
  cases s.exitReady g r e <;> cases e <;> rfl

section
variable {s : State} {i : Instr} {x : Issue} {t : State} {r : Handler} {g : Group} {e : HExit} (h : Issues s i x t)
include h

/-- TRET and REPLAY note their exit, and make it as soon as it may be (R336). -/
theorem leaveHandler_eq (hn : x.never = false) {k : Group} (hk : (t.leaving x e).group? x.g.uid = some k) :
    leaveHandler i e s = .next ((t.leaving x e).exitHandler k) := by
  refine issue_eq_next h ?_
  have hmark : (t.finish x).modGroup x.g.uid (fun g => { g with hand := g.hand.map fun h => { h with exit := some e } }) = t.leaving x e := rfl
  simp only [hn, Bool.false_eq_true, if_false, hmark, hk]

theorem execUnwind_eq (hn : x.never = false) {c : Ctl} (hi : i = .unwind c) (hreplay : x.g.strand.entry.replay = true) {k : Group}
    (hk : (t.leaving x .unwind).group? x.g.uid = some k) : exec i s = .next ((t.leaving x .unwind).exitHandler k) := by
  subst hi
  show execUnwind c s = _
  refine issue_eq_next h ?_
  have hmark : (t.finish x).modGroup x.g.uid (fun g => { g with hand := g.hand.map fun h => { h with exit := some .unwind } }) =
      t.leaving x .unwind := rfl
  simp only [hn, hreplay, Bool.not_true, Bool.false_eq_true, if_false, hmark, hk]

/-- UNWIND of a strand that is not replayable (R344). -/
theorem execUnwind_traps (hn : x.never = false) {c : Ctl} (hi : i = .unwind c) (hreplay : x.g.strand.entry.replay = false) :
    exec i s = .next (s.trapOf i x (Trap.one 0x0B x.sp.lanes)) := by
  subst hi
  show execUnwind c s = _
  refine (issue_eq h _).trans ?_
  simp only [hn, hreplay, Bool.not_false, Bool.false_eq_true, if_false, if_true]
  rfl

end

/-- What stays outstanding of the handler is what stood outstanding at issue. -/
theorem Issue.Kept.opsOf {x : Issue} {g : Group} (hk : x.Kept g) (t : State) (e : HExit) (r : Handler) :
    (t.leaving x e).opsOf (g.withHandler r) true = t.opsOf x.g true := by
  have huid : (g.withHandler r).uid = x.g.uid := hk.uid
  rw [State.opsOf, State.opsOf, State.leaving_ops, huid]

section
variable {s : State} {i : Instr} {x : Issue} {t : State} {r : Handler} {g : Group} (h : Issues s i x t) (hr : x.g.hand = some r)
  (hg : t.group? x.g.uid = some g) (hk : x.Kept g) (hn : x.never = false)
include h hr hg hk hn

/-- TRET and REPLAY once the exit is ready: it is made, with the handler's bank moved on. -/
theorem leaveHandler_made (e : HExit) : ∃ b, b.prevIssue = r.bank.prevIssue ∧
    leaveHandler i e s = .next (if (t.leaving x e).exitReady (g.withHandler (r.noted b e)) (r.noted b e) e
      then (t.leaving x e).exitMade (g.withHandler (r.noted b e)) (r.noted b e) e else t.leaving x e) := by
  obtain ⟨b, hb, hleft⟩ := h.leaving_group? hr hg hk e
  exact ⟨b, hb, (leaveHandler_eq h hn hleft).trans (congrArg _ (State.exitHandler_eq rfl rfl))⟩

/-- An exit gives the group back by TRET's exit. -/
theorem leaveHandler_givesBack {e : HExit} {skip : Bool} (hlast : ∀ d ∈ x.g.deliveries, d.id = r.serves.id)
    (hready : ∀ r' : Handler, r'.serves = r.serves → (t.leaving x e).exitReady (g.withHandler r') r' e = true)
    (hmade : ∀ r' : Handler, r'.serves = r.serves →
      (t.leaving x e).exitMade (g.withHandler r') r' e = (t.leaving x e).tretNow (g.withHandler r') skip) :
    ∃ u g', leaveHandler i e s = .next u ∧ GivenBack s x r skip u g' := by
  obtain ⟨b, hb, hexec⟩ := leaveHandler_made h hr hg hk hn e
  have hr' : (r.noted b e).serves = r.serves := rfl
  rw [hready _ hr', if_pos rfl, hmade _ hr'] at hexec
  obtain ⟨g', hback⟩ := State.tretNow_givesBack hr hk hr' hb hlast (h.leaving_sameBytes e) skip
  exact ⟨_, g', hexec, hback⟩

/-- TRET whose handler has instructions outstanding waits (R336). -/
theorem tret_waits {skip : Bool} (hopen : t.opsOf x.g true ≠ []) :
    ∃ u g', leaveHandler i (.tret skip) s = .next u ∧ u.group? x.g.uid = some g' ∧ g'.hand.map (·.exit) = some (some (.tret skip)) := by
  obtain ⟨b, hb, hleft⟩ := h.leaving_group? hr hg hk (.tret skip)
  refine ⟨_, g.withHandler (r.noted b (.tret skip)), leaveHandler_eq h hn hleft, ?_, rfl⟩
  have hwaits : (t.leaving x (.tret skip)).exitReady (g.withHandler (r.noted b (.tret skip))) (r.noted b (.tret skip)) (.tret skip) =
      false := by
    simp only [State.exitReady, hk.opsOf]
    simpa using hopen
  rw [State.exitHandler_eq rfl rfl, hwaits]
  exact hleft

/-- UNWIND of a replayable strand (R344). -/
theorem unwind_leaves {c : Ctl} (hi : i = .unwind c) (hreplay : x.g.strand.entry.replay = true) (halone : t.opsOf x.g true = [])
    (hmapreq : r.mapreq = none) :
    ∃ u g', exec i s = .next u ∧ u.group? x.g.uid = some g' ∧ g'.hand = none ∧ g'.unwinding = some none ∧ SameBytes s u := by
  obtain ⟨b, hb, hleft⟩ := h.leaving_group? hr hg hk .unwind
  have hhand : g.hand = some r := hk.hand.trans hr
  have hready : (t.leaving x .unwind).exitReady (g.withHandler (r.noted b .unwind)) (r.noted b .unwind) .unwind = true := by
    simp only [State.exitReady, hk.opsOf, halone, List.all_nil]
  have hnone : (r.noted b .unwind).mapreq = none := hmapreq
  have hmade := State.exitHandler_eq (s := t.leaving x .unwind) (g := g.withHandler (r.noted b .unwind)) (r := r.noted b .unwind) rfl rfl
  rw [hready, if_pos rfl, State.exitMade, closeHandler_withHandler (r' := r.noted b .unwind) hhand rfl hb, hnone] at hmade
  refine ⟨_, { closeHandler g with unwinding := some none }, (execUnwind_eq h hn hi hreplay hleft).trans (congrArg _ hmade), ?_,
    closeHandler_hand hhand, rfl, h.leaving_sameBytes .unwind⟩
  rw [← hk.uid, ← (closeHandler_kept hhand).1]
  exact (State.setGroup_group? ..).trans (if_pos rfl)

end

/-! ## REPLAY of a gather or scatter (R343) -/

/-- The issue of a gather or scatter that REPLAY sends again. -/
def Gather.issue (q : Gather) (c : Ctl) (k : Group) (sp : Split) (d : Delivery) (bits : Nat) : Issue :=
  { i := q.instr, c := c, g := k, sp := sp, pc := d.pc, len := d.len, lanes := q.lanes, bits := bits }

/-- The device on which it acts: the handler is left. -/
def State.replaying (t : State) (k : Group) : State := { t.setGroup k with fresh := t.fresh + 1 }

/-- The lanes of its first issue that the bitmap does not mark. -/
def Gather.left (q : Gather) (k : Group) (cb : Nat) : List Nat := (q.lanes.list 64).filter fun l => !Lanes.has (cellGet k.cb cb) l

theorem State.resend_eq {t : State} {k : Group} {d : Delivery} {q : Gather} {sp : Space} {ty : Ty} {cb : Nat} {load : Bool} {c : Ctl} {split : Split}
    (hof : gatherOf q.instr = some (sp, ty, cb, load)) (hc : q.instr.ctl = some c) (hsplit : k.bank.split? d.split = some split)
    (hre : d.resume = .re) : ∃ old, (t.setGroup k).resend k d q =
      (t.replaying k).gatherSend (q.issue c k split d (Config.choose t.fresh)) sp ty cb load true (q.left k cb) old .re := by
  refine ⟨laneVals ((q.lanes.list 64).filter fun l => Lanes.has (cellGet k.cb cb) l) fun l => cellGet k.gathered (cb * 64 + l), ?_⟩
  unfold State.resend
  simp only [hof, hc, hsplit, hre, if_false, reduceCtorEq]
  rfl

/-- The device from which it is sent, whose checks are those of user code. -/
theorem replaying_checks {g : Group} {r : Handler} (hhand : g.hand = some r) (t : State) (q : Gather) (c : Ctl) (split : Split) (sp : Space) (ty : Ty)
    (load : Bool) (lanes : List Nat) (bits : Nat) :
    let k := closeHandler g
    let y := q.issue c k split r.serves bits
    (t.replaying k).group? y.g.uid = some k ∧ y.inHandler = false ∧
      sendChecks (t.replaying k) y sp ty load lanes = (t.replaying k).targets k false sp (tySize ty) (if load then needLoad else needStore)
        ((t.replaying k).laneAddrs y sp (some (if load then 1 else 2)) lanes) := by
  intro k y
  have hin : y.inHandler = false := by
    show k.hand.isSome = false
    rw [closeHandler_hand hhand]
    rfl
  refine ⟨(State.setGroup_group? t k _).trans (if_pos rfl), hin, ?_⟩
  rw [sendChecks, hin]
  rfl

section
variable {s : State} {x : Issue} {t : State} {r : Handler} {g : Group} {c₀ : Ctl} (h : Issues s (.replay c₀) x t) (hr : x.g.hand = some r)
  (hg : t.group? x.g.uid = some g) (hk : x.Kept g) (hn : x.never = false)
include h hr hg hk hn

/-- REPLAY sends it from the device on which the handler is closed. -/
theorem replay_resends {q : Gather} (halone : t.opsOf x.g true = []) (hgather : r.serves.gather = some q) (hbusy : t.gatherBusy x.g q = false) :
    exec (.replay c₀) s = .next (((t.setGroup (closeHandler g)).resend (closeHandler g) r.serves q).deliver x.g.uid) := by
  have hhand : g.hand = some r := hk.hand.trans hr
  have huid : (closeHandler g).uid = x.g.uid := (closeHandler_kept hhand).1.trans hk.uid
  obtain ⟨b, hb, hexec⟩ := leaveHandler_made h hr hg hk hn .replay
  have hserves : (r.noted b .replay).serves.gather = some q := hgather
  have hfree : (t.leaving x .replay).gatherBusy (g.withHandler (r.noted b .replay)) q = false := by
    rw [← hbusy, State.gatherBusy, State.gatherBusy, State.leaving_ops, ← hk.uid]
    rfl
  have hready : (t.leaving x .replay).exitReady (g.withHandler (r.noted b .replay)) (r.noted b .replay) .replay = true := by
    simp only [State.exitReady, hk.opsOf, halone, hserves, hfree, List.isEmpty_nil, Bool.not_false, Bool.and_self]
  rw [hready, if_pos rfl] at hexec
  refine (show exec (.replay c₀) s = _ from hexec).trans (congrArg _ ?_)
  simp only [State.exitMade, State.replayNow, hserves, closeHandler_withHandler (r' := r.noted b .replay) hhand rfl hb, huid]
  rw [State.leaving_setGroup (by rw [h.instr_eq]; rfl) huid]
  rfl

/-- What REPLAY of a gather or scatter does (R253, R343, R393). -/
theorem replay_replays (halone : t.opsOf x.g true = []) (hlast : ∀ d ∈ x.g.deliveries, d.id = r.serves.id) : Replays (.replay c₀) s x t r := by
  intro q g' split c sp ty cb load hgather hre hg' hc hof hsplit hbusy y v left off checked
  obtain rfl : g = g' := Option.some.inj (hg.symm.trans hg')
  have hhand : g.hand = some r := hk.hand.trans hr
  obtain ⟨hkuid, hkdfile, hkcb⟩ := closeHandler_kept hhand
  have huid : (closeHandler g).uid = x.g.uid := hkuid.trans hk.uid
  have hid : split.id = r.serves.split := by simpa using List.find?_some hsplit
  obtain ⟨hself, hin, hchecks⟩ := replaying_checks hhand t q c split sp ty load left (Config.choose t.fresh)
  have hchecked : sendChecks v y sp ty load left = checked := hchecks
  have hleft : q.left (closeHandler g) cb = left := by rw [Gather.left, hkcb]
  obtain ⟨old, hresend⟩ := State.resend_eq (t := t) hof hc hsplit hre
  have hyself : v.group? y.g.uid = some y.g := hself
  have hyhand : y.g.hand = none := closeHandler_hand hhand
  have hyuid : y.g.uid = x.g.uid := huid
  have hysp : y.g.bank.split? y.sp.id = some y.sp := hid ▸ hsplit
  have hexec : exec (.replay c₀) s = .next ((v.gatherSend y sp ty cb load true left old .re).deliver x.g.uid) := by
    rw [replay_resends h hr hg hk hn halone hgather hbusy, hresend, hleft]
    rfl
  refine ⟨fun hpass => ?_, fun hbad => ?_⟩
  · have hpass' : (sendChecks v y sp ty load left).2.1 = [] := by rw [hchecked]; exact hpass
    obtain ⟨b, os, o, hgroup, hmoved, hops, hsame, hgrp, hinstr, hlanes, hset, hjob⟩ :=
      State.gatherSend_delivered hyself hyhand sp ty load left cb true old .re
        (closeHandler_deliveries hhand (by rw [hk.deliveries]; exact hlast)) hysp hpass'
    rw [hyuid] at hgroup hops
    refine ⟨_, _, os, o, _, hexec, hgroup, hyhand, hkdfile, congrArg (cellGet · cb) hkcb, ?_, hops, hsame, hgrp.trans hyuid, hinstr, hlanes, hset,
      hjob, rfl, rfl, rfl, sendUnits_fresh v y sp ty load left, sendUnits_first v y sp ty load left hpass'⟩
    rw [← hid]
    exact congrArg (Option.map _) hmoved
  · have hbad' : (sendChecks v y sp ty load left).2.1 ≠ [] := by rw [hchecked]; exact hbad
    obtain ⟨w, fl, hsend, hw⟩ := State.gatherSend_trapped hyself hyhand sp ty load left cb true old .re hbad'
    rw [hchecked] at hsend
    rw [hyuid] at hw
    refine ⟨w, _, hexec.trans (by rw [hsend]; rfl), hw, congrArg (cellGet · cb) hkcb, ?_⟩
    exact congrArg (Option.map _) hysp

end

/-! ## ENDG (R336, R344) -/

/-- A group that ends has nothing left but its place among the ended. -/
theorem State.endGroup_ended (s : State) (g : Group) (byEndg : Bool) :
    ∃ g', (s.endGroup g byEndg).group? g.uid = some g' ∧ g'.place = .ended ∧ g'.alive = 0 ∧ g'.byEndg = byEndg ∧ g'.hand = none := by
  obtain ⟨b, hb, -, -⟩ := s.leaveSlot_group? (g.cleared byEndg) .ended
  exact ⟨_, by rw [State.group?, State.endGroup_groups]; exact hb, rfl, rfl, rfl, rfl⟩

theorem endg_ends {s : State} {x : Issue} {t : State} {r : Handler} {g : Group} {c : Ctl} (h : Issues s (.endg c) x t) (hr : x.g.hand = some r)
    (hg : t.group? x.g.uid = some g) (hk : x.Kept g) (hn : x.never = false) :
    ∃ u g', exec (.endg c) s = .next u ∧ u.group? x.g.uid = some g' ∧ g'.place = .ended ∧ g'.alive = 0 ∧ g'.byEndg = true ∧ g'.hand = none := by
  obtain ⟨b, -, hfin⟩ := h.finish_handler hr hg hk
  obtain ⟨g', hended, hrest⟩ := (t.finish x).endGroup_ended (g.withHandler { r with bank := b }) true
  have huid : (g.withHandler { r with bank := b }).uid = x.g.uid := hk.uid
  refine ⟨_, g', ?_, huid ▸ hended, hrest⟩
  show execEndg c s = _
  refine issue_eq_next h ?_
  simp only [hn, Bool.false_eq_true, if_false, hfin]

/-! ## The statement -/

/-- Settles O52: TRET, and REPLAY of a trap that no gather or scatter raised, give the group back (`leaveHandler_givesBack`) or wait
(`tret_waits`); REPLAY of another is `replay_replays`, UNWIND `unwind_leaves` or its trap, ENDG `endg_ends`. -/
theorem handlerReturns : Obligations.HandlerReturns := by
  refine ⟨fun d pc => ⟨fun hre => ?_, fun hre skip => ?_, fun hre skip => ?_, fun hre => ?_⟩, ?exits⟩
  iterate 4 simp [resumeAt, hre]
  intro i s x t r h hr hn alone last back
  obtain ⟨g, hg, hk⟩ := h.kept
  have hready {e : HExit} (halone : alone) (he : ∀ r' : Handler, r'.serves = r.serves →
      (t.leaving x e).exitReady (g.withHandler r') r' e = ((t.leaving x e).opsOf (g.withHandler r') true).isEmpty) (r' : Handler)
      (hr' : r'.serves = r.serves) : (t.leaving x e).exitReady (g.withHandler r') r' e = true := by
    rw [he r' hr', hk.opsOf]
    exact List.isEmpty_iff.mpr halone
  refine ⟨?tret, ?replay, ?unwind, ?endg⟩
  case tret =>
    rintro c skip rfl
    obtain ⟨b, -, hnext⟩ := leaveHandler_made h hr hg hk hn (.tret skip)
    refine ⟨⟨_, hnext⟩, fun halone hlast => ?_, fun hopen => tret_waits h hr hg hk hn hopen⟩
    exact leaveHandler_givesBack (e := .tret skip) (skip := skip) h hr hg hk hn hlast (hready halone fun _ _ => rfl) fun _ _ => rfl
  case replay =>
    rintro c rfl
    obtain ⟨b, -, hnext⟩ := leaveHandler_made h hr hg hk hn .replay
    refine ⟨⟨_, hnext⟩, fun hnone halone hlast => ?_, fun halone hlast => replay_replays h hr hg hk hn halone hlast⟩
    refine leaveHandler_givesBack (e := .replay) (skip := false) h hr hg hk hn hlast (hready halone fun r' hr' => ?_) fun r' hr' => ?_
    · simp only [State.exitReady, hr', hnone, Bool.and_true]
    · simp only [State.exitMade, State.replayNow, hr', hnone]
  case unwind =>
    rintro c rfl
    exact ⟨fun hreplay => execUnwind_traps h hn rfl hreplay, fun hreplay halone hmapreq => unwind_leaves h hr hg hk hn rfl hreplay halone hmapreq⟩
  case endg =>
    rintro c rfl
    exact endg_ends h hr hg hk hn

end Sys2Proof.Machine
end


section
/-! SUPPORT. O60 (R354 to R356, R360, R364, R366 to R368): what arrives on the Tether, and a failed link. -/

namespace Sys2Proof.Machine

open Sys2Proof.Claims

/-! ## Events that no maintenance action holds (R386) -/

/-- An event whose requests no maintenance action holds happens as it says. -/
theorem State.holdOr_of_free {s : State} {pas : State → List Nat} (h : s.maintFor (pas s) = none) (ev : Instr) (out : Out) :
    s.holdOr pas ev out = out := by
  unfold State.holdOr
  split
  · rfl
  · rw [h]
    cases out <;> rfl

/-! ## Messages that this device takes and sends (R366) -/

/-- A message that is taken leaves the fabric, if it was there, and nothing else. -/
theorem State.takeMsg_eq {s t : State} {src : BitVec 10} {m : TetherMsg} (h : s.takeMsg src m = some t) :
    ∃ ms, t = { s with tetherOut := ms } := by
  unfold State.takeMsg at h
  split at h
  · cases h
  · split at h
    · exact ⟨s.tetherOut, (Option.some.inj h).symm⟩
    · split at h
      · exact ⟨_, (Option.some.inj h).symm⟩
      · cases h

/-- The device once a message of its own has left the fabric, if it was there. -/
def State.withoutMsg (s : State) (src : BitVec 10) (m : TetherMsg) : State := (s.takeMsg src m).getD s

theorem State.withoutMsg_eq (s : State) (src : BitVec 10) (m : TetherMsg) : ∃ ms, s.withoutMsg src m = { s with tetherOut := ms } := by
  cases h : s.takeMsg src m with
  | none => exact ⟨s.tetherOut, by rw [State.withoutMsg, h]; rfl⟩
  | some t =>
    obtain ⟨ms, ht⟩ := State.takeMsg_eq h
    exact ⟨ms, by rw [State.withoutMsg, h]; exact ht⟩

theorem State.withoutMsg_sameBytes (s : State) (src : BitVec 10) (m : TetherMsg) : SameBytes s (s.withoutMsg src m) := by
  obtain ⟨ms, h⟩ := s.withoutMsg_eq src m
  rw [h]
  exact .refl s

theorem State.withoutMsg_op? (s : State) (src : BitVec 10) (m : TetherMsg) (uid : Nat) : (s.withoutMsg src m).op? uid = s.op? uid := by
  obtain ⟨ms, h⟩ := s.withoutMsg_eq src m
  rw [h]
  rfl

theorem State.send_sameBytes (s : State) (m : TetherMsg) : SameBytes s (s.send m) := .of_eq rfl rfl rfl

/-- Where the window is VALID in no context, nothing is added at it (R354, R364). -/
theorem State.farAtom_of_invalid {s : State} {w : BitVec 12} (h : s.windowHere w.toNat = none) (off : Nat) (ty : Ty) (op : AtomOp)
    (b cmp : DWord) : s.farAtom w off ty op b cmp = none := by
  rw [State.farAtom, h]

/-! ## The end of a transfer (R356) -/

theorem State.remote?_op {s : State} {op : Nat} {r : Remote} (h : s.remote? op = some r) : r.op = op := by simpa using List.find?_some h

/-- A transfer that is dropped is not found any more. -/
theorem State.dropRemote_remote? (s : State) (op : Nat) : (s.dropRemote op).remote? op = none := by
  rw [State.remote?, List.find?_eq_none]
  intro r hr
  simpa using (List.mem_filter.mp hr).2

/-- A failed transfer's end changes the transfers, its group's records and identifiers alone. -/
theorem State.remoteEnds_eq (s : State) (r : Remote) :
    ∃ gs n, s.remoteEnds r = { s.dropRemote r.op with groups := gs, nextId := n } :=
  (s.dropRemote r.op).postNotice_eq r.grp ⟨tcRemote, 5, BitVec.ofNat 64 r.roff, 0⟩ r.pc

theorem State.remoteEnds_remote? (s : State) (r : Remote) : (s.remoteEnds r).remote? r.op = none := by
  obtain ⟨gs, n, h⟩ := s.remoteEnds_eq r
  rw [h]
  exact s.dropRemote_remote? r.op

theorem State.remoteEnds_sameBytes (s : State) (r : Remote) : SameBytes s (s.remoteEnds r) := by
  obtain ⟨gs, n, h⟩ := s.remoteEnds_eq r
  rw [h]
  exact .of_eq rfl rfl rfl

theorem State.remoteFails_remote? (s : State) (r : Remote) : (s.remoteFails r).remote? r.op = none := State.remoteEnds_remote? _ r

/-! ## A RATOM's old value (R364) -/

/-- The old value lands in an operation's lanes: where it is due, its destination and lanes as they were. -/
def Op.landsIn (o p : Op) (v : DWord) : Prop :=
  p.due.isSome = true ∧ p.dest = o.dest ∧ p.lanes = o.lanes ∧ ∀ l < 64, o.lanes.has l = true → cellGet p.vals l = v

theorem State.landSoon_op? {s : State} {o : Op} (h : s.op? o.uid = some o) (vals : Cells 64) :
    ∃ p, (s.landSoon o vals).op? o.uid = some p ∧ p.due.isSome = true ∧ p.dest = o.dest ∧ p.lanes = o.lanes ∧ p.vals = vals :=
  ⟨_, State.setOp_op?_self (s := { s with fresh := s.fresh + 1 }) (State.mem_uids_of_op? h), rfl, rfl, rfl, rfl⟩

/-- A RATOM that receives its old value is over, and the value lands in its operation's lanes. -/
theorem State.ratomDone_lands (s : State) (r : Remote) (v : DWord) :
    (s.ratomDone r (some v)).remote? r.op = none ∧
      ∀ o, s.op? r.op = some o → ∃ p, (s.ratomDone r (some v)).op? r.op = some p ∧ o.landsIn p v := by
  have hdrop (t : State) (ht : t.remotes = (s.dropRemote r.op).remotes) : t.remote? r.op = none := by
    rw [State.remote?, ht]
    exact s.dropRemote_remote? r.op
  cases ho : s.op? r.op with
  | none =>
    have heq : s.ratomDone r (some v) = s.dropRemote r.op := by
      have hsame : (s.dropRemote r.op).op? r.op = none := ho
      simp only [State.ratomDone, hsame]
    rw [heq]
    exact ⟨hdrop _ rfl, fun o h => by cases h⟩
  | some o =>
    have heq : s.ratomDone r (some v) = (s.dropRemote r.op).landSoon o (laneVals (o.lanes.list 64) fun _ => v) := by
      have hsame : (s.dropRemote r.op).op? r.op = some o := ho
      simp only [State.ratomDone, hsame]
    have huid := State.op?_uid ho
    have hself : (s.dropRemote r.op).op? o.uid = some o := by rw [huid]; exact ho
    obtain ⟨p, hp, hdue, hdest, hlanes, hvals⟩ := State.landSoon_op? hself (laneVals (o.lanes.list 64) fun _ => v)
    rw [heq]
    refine ⟨hdrop _ rfl, fun q hq => ?_⟩
    obtain rfl := Option.some.inj hq
    refine ⟨p, by rw [← huid]; exact hp, hdue, hdest, hlanes, fun l hl hhas => ?_⟩
    rw [hvals, cellGet_laneVals _ (Lanes.mem_list.mpr ⟨hl, hhas⟩)]

end Sys2Proof.Machine
end


section
/-! SUPPORT. O60 (R354 to R356, R360, R364, R366 to R368): each event of the Tether, and what it leaves as it is. -/

namespace Sys2Proof.Machine

open Sys2Proof.Claims

/-! ## Frames (R360, R364, R368, R398) -/

section
variable {s t : State} {f : Frame}

theorem frameEvent_of_none (h : s.takeFrame f = none) (k : Nat) : frameEvent k f s = .fault .notEnabled := by rw [frameEvent, h]

theorem frameEvent_of_other {k : Nat} (h : s.takeFrame f = some t) (hk : f.kind.toNat ≠ k ∨ f.ver ≠ 0) :
    frameEvent k f s = .fault .notEnabled := by
  have hno : ¬(f.kind.toNat = k ∧ f.ver = 0) := fun ⟨hkind, hver⟩ => hk.elim (· hkind) (· hver)
  simp only [frameEvent, h, Bool.and_eq_true, decide_eq_true_eq, hno, if_false]

theorem frameEvent_of_kind {k : Nat} (h : s.takeFrame f = some t) (hk : f.kind.toNat = k) (hv : f.ver = 0) :
    frameEvent k f s = .next (t.frameIn f) := by
  simp [frameEvent, h, hk, hv]

/-- A frame of a group that no context has configured is held nowhere (R358, R398). -/
theorem State.frameIn_unconfigured (h : t.collAsid f.cgroup.toNat = none) :
    t.frameIn f = { t with held := t.held ++ [(heldNowhere, f)] } := by
  rw [State.frameIn, h]

theorem execReservedFrameDrop_drops (h : s.takeFrame f = some t) (hk : f.kind.toNat = 0 ∨ 6 < f.kind.toNat ∨ f.ver ≠ 0) :
    execReservedFrameDrop f s = .next { t with dropped := t.dropped + 1 } := by
  have hno : (1 ≤ f.kind.toNat && f.kind.toNat ≤ 6 && f.ver = 0) = false := by
    rcases hk with h | h | h
    · simp [h]
    · simp [Nat.not_le.mpr h]
    · exact (congrArg _ (decide_eq_false h)).trans (Bool.and_false _)
  simp only [execReservedFrameDrop, h, hno, Bool.false_eq_true, if_false]

/-- The answer to an FADD, with the words that it carries (R368). -/
def answerFrame (f : Frame) (ws : List Word) : TetherMsg :=
  .frame { f with kind := 6, src := f.dst, dst := f.src, nelem := BitVec.ofNat 16 ws.length, payload := ws }

theorem faddNow_adds (h : s.takeFrame f = some t) (hk : f.kind = 5) (hv : f.ver = 0) {old : DWord} {v : State}
    (ha : t.farAtom f.window f.extra.toNat .f32 .add (ofW (f.payload.headD 0)) 0 = some (old, v)) :
    faddNow f s = .next (v.send (answerFrame f [w32 old])) := by
  have hno : (f.kind != 5 || f.ver != 0) = false := by rw [hk, hv]; rfl
  simp only [faddNow, h, hno, Bool.false_eq_true, if_false, ha, answerFrame]

theorem faddNow_fails (h : s.takeFrame f = some t) (hk : f.kind = 5) (hv : f.ver = 0)
    (ha : t.farAtom f.window f.extra.toNat .f32 .add (ofW (f.payload.headD 0)) 0 = none) :
    faddNow f s = .next (t.send (answerFrame f [])) := by
  have hno : (f.kind != 5 || f.ver != 0) = false := by rw [hk, hv]; rfl
  simp only [faddNow, h, hno, Bool.false_eq_true, if_false, ha, answerFrame]

theorem execFaddr_answers {r : Remote} (h : s.takeFrame f = some t) (hk : f.kind = 6) (hv : f.ver = 0)
    (hr : (t.remotes.find? fun r => r.op % 2 ^ 32 == f.seq.toNat && r.started && r.dev == f.src && (r.kind matches .ratom ..)) = some r) :
    execFaddr f s = .next (t.ratomDone r (f.payload.head?.map ofW)) := by
  have hno : (f.kind != 6 || f.ver != 0) = false := by rw [hk, hv]; rfl
  simp only [execFaddr, h, hno, Bool.false_eq_true, if_false]
  split
  · exact absurd (Eq.trans (Eq.symm ‹_›) hr) (Option.some_ne_none r).symm
  · exact congrArg (fun r => Host.Outcome.next (t.ratomDone r _)) (Option.some.inj (Eq.trans (Eq.symm ‹_›) hr))

end

/-! ## Transactions at the target (R355, R356, R364) -/

section
variable {s t : State} {own : BitVec 10} {x : Xact} (hown : s.devid = some own)
include hown

theorem writeNow_next (h : s.takeMsg x.src (.write own x) = some t) : ∃ u, writeNow x s = .next u := by
  simp only [writeNow, hown, h]
  split
  · exact ⟨_, rfl⟩
  · split
    · exact ⟨_, rfl⟩
    · split <;> exact ⟨_, rfl⟩

/-- Words for a window that is not VALID are written nowhere, and the first that come are answered with a failure (R356). -/
theorem writeNow_invalid (h : s.takeMsg x.src (.write own x) = some t) (hb : (t.inbound? x true).failed = false)
    (hw : t.windowHere x.window.toNat = none) :
    ∃ b, writeNow x s = .next ((t.setInbound b).send (.readCompletion x.src { x with words := [], ok := false })) := by
  simp only [writeNow, hown, h, hb, hw, Bool.false_eq_true, if_false]
  exact ⟨_, rfl⟩

theorem readNow_next (h : s.takeMsg x.src (.read own x) = some t) : ∃ u, readNow x s = .next u := by
  simp only [readNow, hown, h]
  split
  · exact ⟨_, rfl⟩
  · split <;> exact ⟨_, rfl⟩

/-- A read of a window that is not VALID is answered with a failure (R356). -/
theorem readNow_invalid (h : s.takeMsg x.src (.read own x) = some t) (hw : t.windowHere x.window.toNat = none) :
    ∃ b, readNow x s = .next ((t.send (.readCompletion x.src { x with words := [], ok := false })).noteRead b) := by
  simp only [readNow, hown, h, hw]
  split <;> exact ⟨_, rfl⟩

theorem atomicNow_next {ty : Ty} {op : AtomOp} (h : s.takeMsg x.src (.atomic own x ty op) = some t) : ∃ u, atomicNow x ty op s = .next u := by
  simp only [atomicNow, hown, h]
  split <;> exact ⟨_, rfl⟩

/-- An atomic of a window that is not VALID is answered without a value (R364). -/
theorem atomicNow_invalid {ty : Ty} {op : AtomOp} (h : s.takeMsg x.src (.atomic own x ty op) = some t)
    (hw : t.windowHere x.window.toNat = none) :
    atomicNow x ty op s = .next (t.send (.atomicCompletion x.src { x with words := [], ok := false })) := by
  simp only [atomicNow, hown, h, State.farAtom_of_invalid hw]

/-! ## Completions at the initiator (R355, R356, R364) -/

variable {r : Remote} (hr : s.remote? x.tag = some r) (hsrc : x.src = own)
include hr hsrc

theorem readBackNow_of_failure (hok : x.ok = false) :
    readBackNow x s = .next (if r.kind = .put && !r.counted then (s.withoutMsg r.dev (.readCompletion own x)).remoteFails r
      else (s.withoutMsg r.dev (.readCompletion own x)).remoteEnds r) := by
  have hno : (x.src != own) = false := by rw [hsrc]; exact bne_self_eq_false own
  simp only [readBackNow, hown, hr, hno, hok, Bool.false_eq_true, if_false, Bool.not_false, if_true, State.withoutMsg]
  cases s.takeMsg r.dev (.readCompletion own x) <;> rfl

/-- A completion that does not succeed ends its transfer; memory is as it was, unless a PUT's source counter counts the failure. -/
theorem readBackNow_fails (hok : x.ok = false) :
    ∃ u, readBackNow x s = .next u ∧ u.remote? x.tag = none ∧ ((r.kind = .put → r.counted = true) → SameBytes s u) := by
  refine ⟨_, readBackNow_of_failure hown hr hsrc hok, ?_, fun hcounted => ?_⟩
  · rw [← State.remote?_op hr]
    split
    · exact State.remoteFails_remote? _ r
    · exact State.remoteEnds_remote? _ r
  · have hends : ¬((r.kind = .put && !r.counted) = true) := by
      intro h
      obtain ⟨hput, hnot⟩ := Bool.and_eq_true_iff.mp h
      rw [hcounted (of_decide_eq_true hput)] at hnot
      cases hnot
    rw [if_neg hends]
    exact (s.withoutMsg_sameBytes r.dev _).trans (State.remoteEnds_sameBytes _ r)

/-- A GET's words that it has asked for are taken. -/
theorem readBackNow_get (hok : x.ok = true) (hget : r.kind = .get)
    (hasked : ∀ i < max 1 x.words.length, x.off - r.roff + 4 * i ∈ r.asked) : ∃ u, readBackNow x s = .next u := by
  have hno : (x.src != own) = false := by rw [hsrc]; exact bne_self_eq_false own
  have hall : (((List.range (max 1 x.words.length)).map fun i => x.off - r.roff + 4 * i).all fun b => r.asked.contains b) = true := by
    rw [List.all_eq_true]
    intro b hb
    obtain ⟨i, hi, rfl⟩ := List.mem_map.mp hb
    exact List.contains_iff_mem.mpr (hasked i (List.mem_range.mp hi))
  simp only [readBackNow, hown, hr, hno, hok, hget, hall, Bool.false_eq_true, if_false, Bool.not_true]
  exact ⟨_, rfl⟩

theorem execTransactionAtomicCompletion_done {ty : Ty} {op : AtomOp} {b cmp : DWord} (hk : r.kind = .ratom ty op b cmp)
    (hst : r.started = true) :
    execTransactionAtomicCompletion x s = .next ((s.withoutMsg r.dev (.atomicCompletion own x)).ratomDone r
      (if x.ok then some (operandAt ty x.words 0) else none)) := by
  have hno : (x.src != own) = false := by rw [hsrc]; exact bne_self_eq_false own
  simp only [execTransactionAtomicCompletion, hown, hr, hno, hk, hst, Bool.false_eq_true, if_false, State.withoutMsg]
  cases s.takeMsg r.dev (.atomicCompletion own x) <;> rfl

end

/-! ## A failed link's port stays unused (R356) -/

theorem State.spoil_deadLinks (s : State) (o : Op) (bad : Lanes) : (s.spoil o bad).2.deadLinks = s.deadLinks := by
  have hfold (ls : List Nat) (r : Op × State) : (ls.foldl (fun r l =>
      let f := r.2.free
      ({ r.1 with vals := cellSet r.1.vals l f.1, lanes := r.1.lanes &&& ~~~(Lanes.single l) }, f.2)) r).2.deadLinks = r.2.deadLinks := by
    induction ls generalizing r with
    | nil => rfl
    | cons l ls ih => exact ih _
  exact hfold _ (o, s)

theorem State.landResult_deadLinks (s : State) (o : Op) : (s.landResult o).deadLinks = s.deadLinks := by
  obtain ⟨_, _, _, _, h⟩ := s.landResult_eq o
  rw [h]

theorem State.postNotice_deadLinks (s : State) (uid : Nat) (r : TrapRec) (pc : DWord) : (s.postNotice uid r pc).deadLinks = s.deadLinks := by
  obtain ⟨_, _, h⟩ := s.postNotice_eq uid r pc
  rw [h]

theorem State.remoteEnds_deadLinks (s : State) (r : Remote) : (s.remoteEnds r).deadLinks = s.deadLinks := by
  obtain ⟨_, _, h⟩ := s.remoteEnds_eq r
  rw [h]
  rfl

theorem State.ratomFails_deadLinks (s : State) (op : Nat) : (s.ratomFails op).deadLinks = s.deadLinks := by
  unfold State.ratomFails
  split
  · rfl
  · next o _ => exact (State.landResult_deadLinks _ _).trans (s.spoil_deadLinks o o.lanes)

theorem State.touchIn_deadLinks (s : State) (asid : Nat) (a : Context → Nat) : (s.touchIn asid a).deadLinks = s.deadLinks := by
  obtain ⟨_, _, _, _, _, _, h, -⟩ := Reached.touchIn s asid a
  rw [h]

theorem State.bump_deadLinks {s u : State} {team asid va n : Nat} {fail priv : Bool} (h : s.bump team asid va n fail priv = .ok u) :
    u.deadLinks = s.deadLinks := by
  obtain ⟨_, _, _, hwalk⟩ := s.recallWalk_eq asid va
  unfold State.bump at h
  dsimp only at h
  split at h
  · cases h
  · next pa _ _ _ _ _ =>
    split at h
    · cases h
    · obtain ⟨_, _, hrecall⟩ := (s.recallWalk asid va).recall_eq (pa / 128)
      have hmeter := State.meterSlice_keeps State.deadLinks (fun _ _ _ _ _ => rfl) ((s.recallWalk asid va).recall (pa / 128)) team (.glob pa)
      obtain ⟨_, _, _, hwrite⟩ := (((s.recallWalk asid va).recall (pa / 128)).meterSlice team (.glob pa)).homeWrite_eq pa n _
      rw [← Except.ok.inj h, hwrite]
      exact hmeter.trans (by rw [hrecall, hwalk])

theorem State.bumpOwn_deadLinks (s : State) (r : Remote) (arrived fail : Bool) : (s.bumpOwn r arrived fail).deadLinks = s.deadLinks := by
  have htouch := s.touchIn_deadLinks r.asid fun c => c.winTab + 64 * r.win.toNat
  unfold State.bumpOwn
  dsimp only
  split
  · exact (State.postNotice_deadLinks ..).trans htouch
  · exact htouch
  · split
    · exact (State.bump_deadLinks ‹_›).trans htouch
    · exact (State.postNotice_deadLinks ..).trans htouch

theorem State.remoteFails_deadLinks (s : State) (r : Remote) : (s.remoteFails r).deadLinks = s.deadLinks := by
  refine (State.remoteEnds_deadLinks _ r).trans ?_
  split
  · exact s.bumpOwn_deadLinks r false true
  · exact s.ratomFails_deadLinks r.op
  · rfl

theorem State.bumpWindow_deadLinks (s : State) (asid : Nat) (w : Window) (arrived fail : Bool) :
    (s.bumpWindow asid w arrived fail).deadLinks = s.deadLinks := by
  unfold State.bumpWindow
  split
  · exact State.bump_deadLinks ‹_›
  · obtain ⟨_, _, h⟩ := s.logFault_eq asid (almanacRecord _ (w.counter arrived) 0)
    rw [h]

theorem State.lostRemote_deadLinks (s : State) (r : Remote) : (s.lostRemote r).deadLinks = s.deadLinks := by
  unfold State.lostRemote
  dsimp only
  split
  · split
    · exact s.remoteFails_deadLinks r
    · split
      · rfl
      · exact State.remoteEnds_deadLinks _ r
  · split
    · exact s.remoteFails_deadLinks r
    · split
      · rfl
      · split
        · exact State.remoteEnds_deadLinks _ r
        · exact (State.remoteEnds_deadLinks _ r).trans (State.bumpOwn_deadLinks ..)
  · exact s.remoteFails_deadLinks r

theorem State.lostInbound_deadLinks (s : State) (b : Inbound) : (s.lostInbound b).deadLinks = s.deadLinks := by
  have hdrop : (State.dropInbound (if b.write then (s.choice 2).2 else s) b).deadLinks = s.deadLinks := by split <;> rfl
  unfold State.lostInbound
  dsimp only
  split
  · rfl
  · generalize State.dropInbound (if b.write then (s.choice 2).2 else s) b = t at hdrop
    split
    · split
      · split
        · exact hdrop
        · exact (State.bumpWindow_deadLinks ..).trans hdrop
      · split
        · exact hdrop
        · exact (State.bumpWindow_deadLinks ..).trans hdrop
    · exact hdrop

theorem State.abortColl_deadLinks (s : State) (k : Coll) (tell : Bool) : (s.abortColl k tell).deadLinks = s.deadLinks := by
  have hcount : (match s.bump k.team k.asid k.counter 4 true k.priv with
      | .ok s => s
      | .error c => s.postNotice k.grp ⟨c, 5, BitVec.ofNat 64 k.counter, 0⟩ k.pc).deadLinks = s.deadLinks := by
    split
    · exact State.bump_deadLinks ‹_›
    · exact State.postNotice_deadLinks ..
  have hends := (State.postNotice_deadLinks
    { State.setColl (match s.bump k.team k.asid k.counter 4 true k.priv with
      | .ok s => s
      | .error c => s.postNotice k.grp ⟨c, 5, BitVec.ofNat 64 k.counter, 0⟩ k.pc) { k with isOver := true } with
      held := s.held.filter fun e => !s.awaits k e } k.grp ⟨tcRemote, 5, BitVec.ofNat 64 0, 0⟩ k.pc).trans hcount
  unfold State.abortColl
  dsimp only
  split
  · refine (foldl_keeps State.deadLinks (fun s r => ?_) _ _).trans hends
    split
    · split <;> rfl
    · rfl
  · exact hends

/-- What fails with a link changes nothing about the links (R356, R360). -/
theorem execLinkFailure_next {port : Nat} (h : port < 24) (s : State) :
    ∃ u, execLinkFailure port s = .next u ∧ u.deadLinks = cellSet s.deadLinks 0 (cellGet s.deadLinks 0 ||| ((1#24) <<< port)) := by
  simp only [execLinkFailure, if_neg (Nat.not_le.mpr h)]
  refine ⟨_, rfl, (foldl_keeps State.deadLinks (fun s k => ?_) _ _).trans ((foldl_keeps State.deadLinks (fun s b => ?_) _ _).trans
    (foldl_keeps State.deadLinks (fun s r => ?_) _ _))⟩
  · split
    · exact s.abortColl_deadLinks k true
    · rfl
  · split
    · rfl
    · exact s.lostInbound_deadLinks b
  · split
    · rfl
    · exact s.lostRemote_deadLinks r

end Sys2Proof.Machine
end


section
/-! SUPPORT. O60 settled (R354 to R356, R360, R364, R366 to R368, R398): from the events' own lemmas. -/

namespace Sys2Proof.Machine

open Sys2Proof.Claims

/-! ## Each event, where no maintenance action holds it (R386) -/

section
variable {s : State}

theorem exec_faddFrame {f : Frame} (h : s.maintFor (s.windowPlaces f.window.toNat f.extra.toNat 4) = none) :
    exec (.faddFrame f) s = faddNow f s :=
  State.holdOr_of_free (pas := fun s => s.windowPlaces f.window.toNat f.extra.toNat 4) h (.faddFrame f) _

theorem exec_transactionWrite {x : Xact} (h : s.maintFor (s.windowPlaces x.window.toNat x.off x.len) = none) :
    exec (.transactionWrite x) s = writeNow x s :=
  State.holdOr_of_free (pas := fun s => s.windowPlaces x.window.toNat x.off x.len) h (.transactionWrite x) _

theorem exec_transactionRead {x : Xact} (h : s.maintFor (s.windowPlaces x.window.toNat x.off x.len) = none) :
    exec (.transactionRead x) s = readNow x s :=
  State.holdOr_of_free (pas := fun s => s.windowPlaces x.window.toNat x.off x.len) h (.transactionRead x) _

theorem exec_transactionAtomic {x : Xact} {ty : Ty} {op : AtomOp}
    (h : s.maintFor (s.windowPlaces x.window.toNat x.off (atomSize ty)) = none) :
    exec (.transactionAtomic x ty op) s = atomicNow x ty op s :=
  State.holdOr_of_free (pas := fun s => s.windowPlaces x.window.toNat x.off (atomSize ty)) h (.transactionAtomic x ty op) _

/-- A failed completion counts in the initiator's own window, so that counter's place must be free too. -/
theorem exec_transactionReadCompletion {x : Xact} {r : Remote} (hr : s.remote? x.tag = some r)
    (h : s.maintFor (s.localPlaces r (x.off - r.roff) x.len ++ (if x.ok then [] else s.ownCounter r.asid r.win)) = none) :
    exec (.transactionReadCompletion x) s = readBackNow x s := by
  refine State.holdOr_of_free (pas := fun s =>
    match s.remote? x.tag with
    | some r => s.localPlaces r (x.off - r.roff) x.len ++ (if x.ok then [] else s.ownCounter r.asid r.win)
    | none => []) ?_ (.transactionReadCompletion x) _
  simp only [hr]
  exact h

end

/-! ## What the events do -/

/-- PART, RESULT, BLOCK and ABORT (R368): acted on where they stand in a message for this device and have the event's kind. -/
theorem exec_collFrame {i : Instr} {f : Frame} {k : Nat} (hi : (i, k) ∈ [(Instr.part f, 1), (.result f, 2), (.block f, 3), (.abort f, 4)])
    (s : State) : exec i s = frameEvent k f s := by
  simp only [List.mem_cons, Prod.mk.injEq, List.not_mem_nil, or_false] at hi
  rcases hi with ⟨rfl, rfl⟩ | ⟨rfl, rfl⟩ | ⟨rfl, rfl⟩ | ⟨rfl, rfl⟩ <;> rfl

theorem collFrames_arrive (s : State) (f : Frame) (k : Nat) :
    (s.takeFrame f = none → frameEvent k f s = .fault .notEnabled) ∧
    (∀ t, s.takeFrame f = some t →
      (f.kind.toNat ≠ k ∨ f.ver ≠ 0 → frameEvent k f s = .fault .notEnabled) ∧
      (f.kind.toNat = k → f.ver = 0 →
        (∃ u, frameEvent k f s = .next u) ∧
        (t.collAsid f.cgroup.toNat = none →
          ∃ u, frameEvent k f s = .next u ∧ u.held = t.held ++ [(heldNowhere, f)] ∧ u.colls = t.colls ∧ SameBytes t u))) :=
  ⟨fun h => frameEvent_of_none h k, fun _ h => ⟨frameEvent_of_other h, fun hk hv => ⟨⟨_, frameEvent_of_kind h hk hv⟩, fun hno =>
    ⟨_, (frameEvent_of_kind h hk hv).trans (congrArg _ (State.frameIn_unconfigured hno)), rfl, rfl, .of_eq rfl rfl rfl⟩⟩⟩⟩

/-- FADDR (R364): the RATOM that it answers is over, and with a payload the old value lands in its lanes. -/
theorem faddr_lands {s t : State} {f : Frame} {r : Remote} (h : s.takeFrame f = some t) (hk : f.kind = 6) (hv : f.ver = 0)
    (hr : (t.remotes.find? fun r => r.op % 2 ^ 32 == f.seq.toNat && r.started && r.dev == f.src && (r.kind matches .ratom ..)) = some r) :
    ∃ u, exec (.faddr f) s = .next u ∧ (f.payload ≠ [] → u.remote? r.op = none ∧
      ∀ o, t.op? r.op = some o → ∃ p, u.op? r.op = some p ∧ o.landsIn p (ofW (f.payload.headD 0))) := by
  refine ⟨_, execFaddr_answers h hk hv hr, fun hpayload => ?_⟩
  obtain ⟨w, ws, hcons⟩ := List.exists_cons_of_ne_nil hpayload
  rw [hcons]
  exact t.ratomDone_lands r (ofW w)

/-- TRANSACTION_ATOMIC_COMPLETION (R364): a RATOM that has been sent ends, and with a value that value lands in its lanes. -/
theorem atomicCompletion_lands {s : State} {own : BitVec 10} {x : Xact} {r : Remote} {ty : Ty} {op : AtomOp} {b cmp : DWord}
    (hown : s.devid = some own) (hr : s.remote? x.tag = some r) (hsrc : x.src = own) (hk : r.kind = .ratom ty op b cmp)
    (hst : r.started = true) :
    (∃ u, exec (.transactionAtomicCompletion x) s = .next u) ∧
    (x.ok = true → ∃ u, exec (.transactionAtomicCompletion x) s = .next u ∧ u.remote? x.tag = none ∧
      ∀ o, s.op? r.op = some o → ∃ p, u.op? r.op = some p ∧ o.landsIn p (operandAt ty x.words 0)) := by
  have hdone := execTransactionAtomicCompletion_done hown hr hsrc hk hst
  refine ⟨⟨_, hdone⟩, fun hok => ⟨_, hdone, ?_⟩⟩
  obtain ⟨hover, hlands⟩ := (s.withoutMsg r.dev (.atomicCompletion own x)).ratomDone_lands r (operandAt ty x.words 0)
  rw [hok, if_pos rfl, ← State.remote?_op hr]
  exact ⟨hover, fun o ho => hlands o ((s.withoutMsg_op? r.dev _ r.op).trans ho)⟩

/-- The bit of the failed port stands in the mask of dead links. -/
theorem deadLink_bit {port : Nat} (h : port < 24) (m : Cells 24) :
    (cellGet (cellSet m 0 (cellGet m 0 ||| ((1#24) <<< port))) 0).getLsbD port = true := by
  simp [h]

/-- Settles O60, event by event: each arrival is taken or refused, and a failed link adds its port to the dead ones, where nothing that fails
with it takes one out. -/
theorem tetherEvents : Obligations.TetherEvents := by
  unfold Obligations.TetherEvents
  refine ⟨fun s f i k hi => ?_, fun s t f h => ⟨fun hk => ?_, fun hk hv hfree => ⟨fun ha => ?_, fun old v ha => ?_⟩, fun hk hv r hr => ?_⟩,
    fun s own x hown => ⟨fun t h hfree => ⟨?_, fun hb hw => ?_⟩, fun t h hfree => ⟨?_, fun hw => ?_⟩, fun t ty op h hfree => ⟨?_, fun hw => ?_⟩,
      fun r hr hsrc => ⟨fun hok hfree => ?_, fun hok hget hfree hasked => ?_, fun ty op b cmp hk hst => ?_⟩⟩,
    fun s port => ⟨fun h => ?_, fun h => ?_⟩⟩
  · rw [exec_collFrame hi]
    exact collFrames_arrive s f k
  · exact ⟨_, execReservedFrameDrop_drops h hk, rfl, rfl, .of_eq rfl rfl rfl⟩
  · exact ⟨_, (exec_faddFrame hfree).trans (faddNow_fails h hk hv ha), rfl, t.send_sameBytes _⟩
  · exact ⟨_, (exec_faddFrame hfree).trans (faddNow_adds h hk hv ha), rfl, v.send_sameBytes _⟩
  · exact faddr_lands h hk hv hr
  · rw [exec_transactionWrite hfree]
    exact writeNow_next hown h
  · obtain ⟨b, hu⟩ := writeNow_invalid hown h hb hw
    exact ⟨_, (exec_transactionWrite hfree).trans hu, rfl, .of_eq rfl rfl rfl⟩
  · rw [exec_transactionRead hfree]
    exact readNow_next hown h
  · obtain ⟨b, hu⟩ := readNow_invalid hown h hw
    exact ⟨_, (exec_transactionRead hfree).trans hu, rfl, .of_eq rfl rfl rfl⟩
  · rw [exec_transactionAtomic hfree]
    exact atomicNow_next hown h
  · exact ⟨_, (exec_transactionAtomic hfree).trans (atomicNow_invalid hown h hw), rfl, t.send_sameBytes _⟩
  · rw [exec_transactionReadCompletion hr (by rw [hok]; exact hfree)]
    exact readBackNow_fails hown hr hsrc hok
  · rw [exec_transactionReadCompletion hr (by rw [hok, if_pos rfl, List.append_nil]; exact hfree)]
    exact readBackNow_get hown hr hsrc hok hget hasked
  · exact atomicCompletion_lands hown hr hsrc hk hst
  · exact if_pos h
  · obtain ⟨u, hu, hdead⟩ := execLinkFailure_next h s
    exact ⟨u, hu, by rw [hdead]; exact deadLink_bit h s.deadLinks⟩

end Sys2Proof.Machine
end
